-- ==== Sys2Proof/Word.lean ====
section
/-! DEFINITION. Bytes, words and the sparse store: the plain data every other file is made of. -/

namespace Sys2Proof

abbrev Byte := BitVec 8
abbrev Word32 := BitVec 32
abbrev Word64 := BitVec 64

/-- A sparse map from `Nat` to `α` in ONE canonical form: keys strictly rising, and no entry that holds the
default `d` an unlisted key reads as. Memory bytes, registers, tier-map entries and tables are all held so. -/
abbrev Store (α : Type) := List (Nat × α)

/-- What key `k` reads as: its entry, or the default `d`. -/
def Store.get {α : Type} (d : α) : Store α → Nat → α
  | [], _ => d
  | (j, v) :: r, k => if j = k then v else Store.get d r k

/-- Remove what stands at `k`. -/
def Store.erase {α : Type} : Store α → Nat → Store α
  | [], _ => []
  | (j, v) :: r, k => if j = k then Store.erase r k else (j, v) :: Store.erase r k

/-- Put `v` at `k`, keeping the keys rising. -/
def Store.insert {α : Type} : Store α → Nat → α → Store α
  | [], k, v => [(k, v)]
  | (j, w) :: r, k, v =>
    if k < j then (k, v) :: (j, w) :: r
    else if j = k then (k, v) :: r
    else (j, w) :: Store.insert r k v

/-- Write `v` at `k`: writing the default removes the entry. -/
def Store.set {α : Type} [DecidableEq α] (d : α) (m : Store α) (k : Nat) (v : α) : Store α :=
  if v = d then Store.erase m k else Store.insert m k v

/-- The keys rise strictly, starting above `lo`, and no entry holds the default. -/
def Store.wfFrom {α : Type} [DecidableEq α] (d : α) : Nat → Store α → Bool
  | _, [] => true
  | lo, (k, v) :: r => decide (lo ≤ k) && decide (v ≠ d) && Store.wfFrom d (k + 1) r

/-- The canonical form. -/
def Store.wf {α : Type} [DecidableEq α] (d : α) (m : Store α) : Bool := Store.wfFrom d 0 m

/-- Apply `f` to what stands at `k`. -/
def Store.modify {α : Type} [DecidableEq α] (d : α) (m : Store α) (k : Nat) (f : α → α) : Store α :=
  Store.set d m k (f (Store.get d m k))

/-- Bits `[hi:lo]` of a natural number. -/
def bits (w hi lo : Nat) : Nat := (w / 2 ^ lo) % 2 ^ (hi + 1 - lo)

/-- One bit of a natural number. -/
def bit (w i : Nat) : Bool := w / 2 ^ i % 2 = 1

/-- A two's-complement field of `n` bits as an integer. -/
def signed (n w : Nat) : Int := if 2 ^ (n - 1) ≤ w % 2 ^ n then (w % 2 ^ n : Int) - 2 ^ n else (w % 2 ^ n : Int)

/-- An integer as the `n`-bit two's-complement field that holds it (modulo 2^n). -/
def unsigned (n : Nat) (i : Int) : Nat := (i % 2 ^ n).toNat

def b2n (b : Bool) : Nat := if b then 1 else 0

/-- Little-endian value of a byte list (R11). -/
def leNat : List Byte → Nat
  | [] => 0
  | b :: r => b.toNat + 256 * leNat r

/-- `n` little-endian bytes of a value (R11). -/
def toLe : Nat → Nat → List Byte
  | 0, _ => []
  | n + 1, v => BitVec.ofNat 8 v :: toLe n (v / 256)

/-- The byte string from `off`, `n` bytes long; bytes past the end read as 0. -/
def slice (l : List Byte) (off n : Nat) : List Byte :=
  let r := (l.drop off).take n
  r ++ List.replicate (n - r.length) 0#8

/-- The little-endian `n`-byte field at byte `off`. -/
def leAt (l : List Byte) (off n : Nat) : Nat := leNat (slice l off n)

/-- The 32-bit word at byte `off` (R11). -/
def wordAt (l : List Byte) (off : Nat) : Nat := leAt l off 4

def ceilDiv (a b : Nat) : Nat := (a + b - 1) / b

/-- a is later than b in n-bit serial-number arithmetic (R444): a difference of exactly 2^(n−1) is earlier. -/
def serialLater (n a b : Nat) : Bool :=
  let d := (a + 2 ^ n - b % 2 ^ n) % 2 ^ n
  decide (1 ≤ d) && decide (d ≤ 2 ^ (n - 1) - 1)

/-- a is earlier than b in n-bit serial-number arithmetic (R444). -/
def serialEarlier (n a b : Nat) : Bool :=
  let d := (a + 2 ^ n - b % 2 ^ n) % 2 ^ n
  decide (2 ^ (n - 1) ≤ d)

end Sys2Proof
end

