-- ==== Sys2Proof/Syntax.lean ====
section
/-! DEFINITION. The commands of the module: one constructor of `Instr` per row of spec/opcode_table.json, with the row's operands. -/

namespace Sys2Proof

/-- Which of a core's at most three tasks executes (R122): the capped one, or the first or second speculative one. -/
inductive TaskSlot where
  | capped | spec1 | spec2
  deriving DecidableEq, Repr

/-- The executing task: its logical core (R3) and its place on that core. -/
structure Who where
  core : Nat
  task : TaskSlot
  deriving DecidableEq, Repr

/-- A general register X0 to X31 (R111). -/
abbrev XReg := Fin 32

/-- Header of a Weantaer data packet (Table 11-4). `rsv` says that some reserved field is not 0. -/
structure DataHdr where
  ver : Nat
  cls : Nat
  type : Nat
  enc : Bool
  fin : Bool
  rtx : Bool
  ece : Bool
  creq : Bool
  fov : Bool
  epw : Bool
  rsv : Bool
  srank : Nat
  drank : Nat
  swid : Nat
  chan : Nat
  seq : Nat
  ackseq : Nat
  step : Nat
  phase : Nat
  plen : Nat
  epoch : Nat
  tsw0 : Nat
  tsw1 : Nat
  tsw2 : Nat
  tsw3 : Nat
  keyid : Nat
  iv : Nat
  deriving DecidableEq, Repr

/-- Header of a command packet (Table 12-1). `rsv` says that a reserved field, or one that Table 12-1 gives as 0
for the packet's KIND, is not 0 (R305). -/
structure CmdHdr where
  ver : Nat
  cls : Nat
  kind : Nat
  enc : Bool
  retry : Bool
  rsv : Bool
  opcode : Nat
  queue : Nat
  seq : Nat
  plen : Nat
  tag : Nat
  hrank : Nat
  keyid : Nat
  iv : Nat
  deriving DecidableEq, Repr

/-- An ICMPv6 message, as far as the module looks at it (R274). -/
inductive Icmp where
  | solicit (target : Nat)   -- Neighbor Solicitation for an address
  | advert (target : Nat)    -- Neighbor Advertisement of an address
  | echo                     -- Echo Request
  | other                    -- Router Advertisement, MLD, an error message or any other
  deriving DecidableEq, Repr

/-- What a received Ethernet frame carries, as far as R274, R275 and R295 look at it. -/
structure EthFrame where
  fcsOk : Bool
  vlan : Option Nat      -- VID of the tag, none when untagged
  ipv6 : Bool
  lldp : Bool
  extHdr : Bool
  udpSumOk : Bool
  udpSrc : Nat
  udpDst : Nat
  dst : Nat              -- 128-bit destination address
  icmp : Option Icmp := none   -- ICMPv6 instead of UDP (R274)
  hop : Nat
  ect : Bool
  prio : Nat
  bytes : Nat
  src : Nat := 0         -- 128-bit source address
  fecc : Nat := 0        -- codewords of it that FEC corrected, and that it could not (R302)
  fecu : Nat := 0
  deriving DecidableEq, Repr

/-- A thermal or power sensor's unit (Table 17-3). -/
inductive SenseUnit where
  | dieFrame (f : Nat)       -- a frame's or another die sensor, counted as frame-level readings (Table 17-2)
  | super (x : Nat)
  | deep
  | input                    -- input power PIN, in W
  | inlet                    -- coolant inlet
  deriving DecidableEq, Repr

/-- Who sends a base abandonment (R362): the module itself, or a member of the group. -/
inductive Abandoner where
  | self
  | member (rank : Nat)
  deriving DecidableEq, Repr

/-- Which storage a read's ECC outcome is about, in the event DETAIL's numbers (0 to 3 supers, 4 the deep, 5 the comb, 6 a
scratchpad, 8 the schedule SRAM, 9 to 12 the slice accumulators of a super), and which unit of it: a scratchpad's core, an
accumulator's slot, the unified word that a word of the comb holds (R213, R214). -/
structure EccSite where
  storage : Nat
  unit : Nat
  deriving DecidableEq, Repr

/-- A packet that its sender still keeps: its send channel in the channel table, and its SEQ (R284). -/
structure KeptPkt where
  chan : Nat
  seq : Nat
  deriving DecidableEq, Repr

/-- Where a PTP message comes from: its port and its domain (R274, R416). -/
structure PtpSource where
  port : Nat
  domain : Nat
  deriving DecidableEq, Repr

/-- What the bring-up phases P0 to P6 find (Tables 15-1 and 15-2): outcomes that the environment decides. -/
structure BringUpEnv where
  failed : List Nat          -- physical cores that fail BIST in P2
  deadFrames : List Nat      -- frames whose node or beat-tree leaf fails
  combFail : List Nat
  superFail : List Nat
  deepFail : List Nat
  portFail : List Nat        -- ports whose SerDes or MAC self-test fails
  superRows : List (Nat × Nat)   -- failing super rows: super, row address
  deepRows : List (Nat × Nat)    -- failing deep rows: package, row address
  deepRetired : Nat          -- deep pages retired for want of a repair resource
  chipFail : List Nat        -- class-7 blocks: 0 tier-map SRAM, 1 network, 2 broadcast tree, 3 beat tree
  burfaOk : List Nat         -- flash slots whose stored Burfa verifies (R404)
  coreFwOk : Bool            -- the core firmware image matches its digest (R379)
  waggleRounds : Nat         -- repair rounds used
  waggleFail : List Nat      -- physical cores incomplete after round 3
  netBOk : Bool              -- network B's MACs usable (R372)
  linksUp : List Nat         -- ports that train in P6
  phaseUs : List Nat         -- durations of P0 to P6 in µs
  deriving DecidableEq, Repr

/-- One command of the module: a row of spec/opcode_table.json. -/
inductive Instr where
  -- Control instructions (Table 5-3)
  | add (w : Who) (xd xa xb : XReg)
  | sub (w : Who) (xd xa xb : XReg)
  | mul (w : Who) (xd xa xb : XReg)
  | divu (w : Who) (xd xa xb : XReg)
  | remu (w : Who) (xd xa xb : XReg)
  | and (w : Who) (xd xa xb : XReg)
  | or (w : Who) (xd xa xb : XReg)
  | xor (w : Who) (xd xa xb : XReg)
  | shl (w : Who) (xd xa xb : XReg)
  | shr (w : Who) (xd xa xb : XReg)
  | sra (w : Who) (xd xa xb : XReg)
  | slt (w : Who) (xd xa xb : XReg)
  | sltu (w : Who) (xd xa xb : XReg)
  | min (w : Who) (xd xa xb : XReg)
  | max (w : Who) (xd xa xb : XReg)
  | addi (w : Who) (xd xa : XReg) (imm : BitVec 14)
  | andi (w : Who) (xd xa : XReg) (imm : BitVec 14)
  | ori (w : Who) (xd xa : XReg) (imm : BitVec 14)
  | xori (w : Who) (xd xa : XReg) (imm : BitVec 14)
  | shli (w : Who) (xd xa : XReg) (imm : BitVec 14)
  | shri (w : Who) (xd xa : XReg) (imm : BitVec 14)
  | srai (w : Who) (xd xa : XReg) (imm : BitVec 14)
  | slti (w : Who) (xd xa : XReg) (imm : BitVec 14)
  | luh (w : Who) (xd : XReg) (imm : BitVec 19)
  | lui (w : Who) (xd : XReg) (imm : BitVec 19)
  | ld (w : Who) (xd xa : XReg) (imm : BitVec 14)
  | lw (w : Who) (xd xa : XReg) (imm : BitVec 14)
  | st (w : Who) (xb xa : XReg) (imm : BitVec 14)
  | sw (w : Who) (xb xa : XReg) (imm : BitVec 14)
  | gld (w : Who) (xd xa : XReg) (imm : BitVec 14)
  | glw (w : Who) (xd xa : XReg) (imm : BitVec 14)
  | gst (w : Who) (xb xa : XReg) (imm : BitVec 14)
  | gsw (w : Who) (xb xa : XReg) (imm : BitVec 14)
  | gatom (w : Who) (xd xa xb : XReg) (fn : BitVec 3)
  | beq (w : Who) (xb xa : XReg) (imm : BitVec 14)
  | bne (w : Who) (xb xa : XReg) (imm : BitVec 14)
  | blt (w : Who) (xb xa : XReg) (imm : BitVec 14)
  | bge (w : Who) (xb xa : XReg) (imm : BitVec 14)
  | bltu (w : Who) (xb xa : XReg) (imm : BitVec 14)
  | bgeu (w : Who) (xb xa : XReg) (imm : BitVec 14)
  | jal (w : Who) (xd : XReg) (imm : BitVec 19)
  | jr (w : Who) (xd xa : XReg) (imm : BitVec 14)
  | tend (w : Who) (imm : BitVec 14)
  | taskStart (core : Nat)
  | tabt (w : Who) (imm : BitVec 14)
  | spr (w : Who) (xd : XReg) (imm : BitVec 14)
  | fence (w : Who)
  | bwait (w : Who) (imm : BitVec 14)
  | rng (w : Who) (xd xa xb : XReg)
  | pushm (w : Who) (w0 w1 w2 w3 : Word32)
  | pushv (w : Who) (xs : XReg) (w0 w1 : Word32)
  | mvr (w : Who) (xd : XReg)
  | estat (w : Who) (xd xa : XReg) (imm : BitVec 14)
  | sarm (w : Who) (xa : XReg) (imm : BitVec 14)
  | swait (w : Who) (imm : BitVec 14)
  | semw (w : Who) (xa : XReg) (imm : BitVec 14)
  | sems (w : Who) (xa : XReg) (imm : BitVec 14)
  | wopen (w : Who) (xa : XReg) (imm : BitVec 14)
  | wclose (w : Who) (imm : BitVec 14)
  -- Matrix engine: the unit's waiting instruction issues (R67, R68)
  | mma (core : Nat)
  | heldTileLoad (core : Nat)
  | mdrain (core : Nat)
  | malign (core : Nat)
  -- Vector engine: the queue head issues (R91)
  | fadd (core : Nat) | fsub (core : Nat) | fmul (core : Nat) | fma (core : Nat) | fnma (core : Nat)
  | fmax (core : Nat) | fmin (core : Nat) | fabs (core : Nat) | fneg (core : Nat) | fcpys (core : Nat)
  | fmov (core : Nat) | fceq (core : Nat) | fclt (core : Nat) | fcle (core : Nat) | fcun (core : Nat)
  | iadd (core : Nat) | isub (core : Nat) | imul (core : Nat)
  | vectorAnd (core : Nat) | vectorOr (core : Nat) | vectorXor (core : Nat)
  | vectorShl (core : Nat) | vectorShr (core : Nat) | vectorSra (core : Nat)
  | imax (core : Nat) | imin (core : Nat) | iceq (core : Nat) | iclt (core : Nat)
  | iota (core : Nat) | fscl (core : Nat)
  | rcp (core : Nat) | rsqrt (core : Nat) | sqrt (core : Nat) | div (core : Nat)
  | exp2 (core : Nat) | log2 (core : Nat) | exp (core : Nat) | log (core : Nat)
  | tanh (core : Nat) | sigm (core : Nat)
  | cvtb (core : Nat) | cvtfl (core : Nat) | cvtfh (core : Nat)
  | rsum (core : Nat) | rmax (core : Nat) | rmin (core : Nat)
  | mand (core : Nat) | mor (core : Nat) | mxor (core : Nat) | mnot (core : Nat)
  | vld (core : Nat) | vst (core : Nat) | vldb (core : Nat) | vstb (core : Nat)
  | vcfg (core : Nat) | vout (core : Nat)
  -- Stream unit (chapter 7): an armed descriptor starts, issues, lands and completes
  | copy (core sd : Nat)
  | blockTranspose (core sd : Nat)
  | sliceSend (core sd : Nat)
  | weantaerSend (core sd : Nat)
  | guardClear (core sd : Nat)
  | descriptorRequest (core sd : Nat)
  | requestLands (core tag : Nat)
  | descriptorCompletion (core sd : Nat)
  | creditMessage (core ring : Nat)
  | signalMessage (core src : Nat)
  | inboundHoldWrite (core : Nat)
  | foragerRequest (core win : Nat)
  | bucketRefill
  -- Beats (chapter 6)
  | beatRelease (part stretch cause frame holdc : Nat)
  | deadlock (part ctx : Nat)
  | barrierTimeout (part : Nat)
  | frameWake (frame : Nat)
  | holdClockGate (part : Nat)
  -- Memory tiers (chapter 8)
  | promote (ctx : Nat)
  | demote (ctx : Nat)
  | openw (ctx : Nat)
  | combw (ctx : Nat)
  | migrationStart
  | migrationCopied (ch : Nat)
  | combAtomic (core : Nat)
  | combFill (slice line : Nat)
  | patrolScrub (site : EccSite) (granule : Nat) (corrected uncorrectable : Bool)
  | rowRepair (super bank row : Nat)
  | pageRetirement (super ppn : Nat)
  | tierMapEntryError (page : Nat)
  -- Recomputation (chapter 9)
  | microBatchPreparation (ctx : Nat)
  | readyWrite (ctx region : Nat)
  | relsWrite (ctx region : Nat)
  -- Slices and update (chapter 10)
  | contributionArrival (super : Nat)
  | parkedContributionRetry (super k : Nat)
  | memorySideAdd (super : Nat)
  | fusedUpdate (super lidx : Nat)
  | pushReceipt (part k : Nat)
  | normPartialArrival (part grp rank step : Nat) (value : Int)
  | normFactorArrival (part grp step : Nat) (cf : Word32)
  -- Ethernet fabric (chapter 11)
  | frameReceive (port : Nat) (f : EthFrame)
  | dataPacketReceive (net : Nat) (h : DataHdr) (ce : Bool) (udpLen : Nat) (payload : List Byte)
  | placementRetry (part chan : Nat)
  | relwWrite (part chan : Nat)
  | ackReceive (net : Nat) (h : DataHdr)
  | nakReceive (net : Nat) (h : DataHdr)
  | creditReceive (net : Nat) (h : DataHdr)
  | ackTimer (part chan : Nat)
  | rtoExpiry (part : Nat) (pkt : KeptPkt)
  | creditRetry (part chan : Nat)
  | rateIncreaseTick (part chan : Nat)
  | pfcFrameReceive (port prios : Nat)
  | announceReceive (net src : Nat) (payload : List Byte)
  | announceTimer (port : Nat)
  | peerMissTick (entry : Nat)
  | failback (part peer : Nat)
  | linkUp (port : Nat)
  | linkDown (port : Nat)
  | ptpMessage (src : PtpSource) (timeNs : Nat) (sync : Bool)
  -- Command protocol (chapter 12): packets, then each opcode on the queue whose current request names it
  | commandPacketReceive (net src : Nat) (h : CmdHdr) (udpLen : Nat) (payload : List Byte)
  | ident (q : Nat)
  | echo (q : Nat)
  | pread (q : Nat)
  | pwrite (q : Nat)
  | pswap (q : Nat)
  | qbind (q : Nat)
  | qreset (q : Nat)
  | memread (q : Nat)
  | memwrite (q : Nat)
  | place (q : Nat)
  | lbegin (q : Nat)
  | ldata (q : Nat)
  | lcommit (q : Nat)
  | unload (q : Nat)
  | start (q : Nat)
  | cap (q : Nat)
  | discard (q : Nat) (bist : List Nat)
  | stepparam (q : Nat)
  | base (q : Nat)
  | ptest (q : Nat) (fetched : List (List Byte))
  | rebuild (q : Nat) (digests mirror : List (List Byte)) (chunks : List (Nat × Nat × List Byte)) (noBase : Bool)
  | replay (q : Nat)
  | snapshot (q : Nat)
  | bbread (q : Nat)
  | coreReset (q : Nat) (bist : List Nat)
  | frameReset (q : Nat) (bist : List Nat)
  | partitionReset (part : Nat) (bist : List Nat)
  | moduleReset (q : Nat) (env : BringUpEnv)
  | attest (q : Nat)
  | keyrel (q : Nat)
  | operatorEnrolment (q : Nat)
  | fwupdate (q : Nat)
  | ctxset (q : Nat)
  | acctread (q : Nat)
  | commandComplete (q cseq : Nat)
  | eventAcknowledgement (channel seq : Nat)
  | eventResend (channel : Nat)
  -- Parameter-space accesses with a behaviour of their own
  | tmloRead
  | ftcmt (value : Word32)
  | ptcmt (value : Word32)
  | pcfgModeWrite (value : Word32)
  | cenWrite (cage : Nat) (value : Word32)
  | parameterWrite (key : Nat) (value : Word32)
  -- Recovery (chapter 14)
  | logRecordReceipt (part rank : Nat) (words : List Nat)
  | baseCopied (part : Nat)
  | parityContributionReceipt (part member step chunk offset : Nat) (payload : List Byte)
  | baseComplete (part : Nat)
  | baseAbandonment (part : Nat) (by' : Abandoner)
  -- Bring-up (chapter 15)
  | enableAssert (quick : Bool) (env : BringUpEnv)
  | bringUpTimeout
  | coreFailure (core : Nat)
  | partitionResetFailure (part : Nat)
  | waggleChunk (swid srank seq offset : Nat) (fin : Bool) (payload : List Byte)
  | missingBitmapSend
  | updateStaged
  | reportKeyExpiry
  -- Power, thermal, black box (chapter 17)
  | thermalSample (u : SenseUnit) (reading : Option Int)
  | superPowerDown (super : Nat) (selfRefresh : Bool)
  | deepPowerDown (selfRefresh : Bool)
  | blackBoxRecordProgrammed
  | powerLoss
  -- Electrical (chapter 18)
  | enableDeassert
  | inputOvervoltage
  | inputLow (mv : Nat)
  | standbyRailLost
  | standbyRailPresent (env : BringUpEnv)
  | holdUpCharged
  | cageOvercurrent (cage : Nat)
  | deviceInsertion (cage watts media : Nat) (trained : Bool)
  | deviceRemoval (cage : Nat)
  | inputPowerReturn (mv : Nat) (env : BringUpEnv)
  | pfcPauseExpiry (port prio : Nat)
  | transitFrameDeparture (port : Nat)
  deriving DecidableEq, Repr

end Sys2Proof
end

