-- ==== Sys2Proof/Machine/Numbers.lean ====
section
/-! DEFINITION. The Paora number system (chapter 2): formats, products, rounding and every conversion of Table 2-10. -/

namespace Sys2Proof.Machine
open Sys2Proof

/-- An exact binary number: (−1)^neg × m × 2^e. -/
structure Dy where
  neg : Bool
  m : Nat
  e : Int
  deriving DecidableEq, Repr

/-- What a source element holds: a number, an infinity or a NaN, with its sign. -/
inductive FNum where
  | fin (d : Dy)
  | inf (neg : Bool)
  | nan (neg : Bool)
  deriving DecidableEq, Repr

/-- A rounding mode with the value it draws (R37, R38). -/
inductive Rnd where
  | ne
  | sr (u : Nat)
  deriving DecidableEq, Repr

/-- Conversion flags (Table 2-11). -/
abbrev Flags := BitVec 8
def fSAT : Flags := 0x01#8
def fNAN : Flags := 0x02#8
def fUFL : Flags := 0x04#8
def fAOV : Flags := 0x08#8
def fGSAT : Flags := 0x10#8
def fIf (b : Bool) (f : Flags) : Flags := if b then f else 0#8

/-- m × 2^−sh rounded to an integer (R37, R38: d is the top 16 of the discarded bits). -/
def roundShr (m sh : Nat) (r : Rnd) : Nat :=
  let q := m / 2 ^ sh
  let rem := m % 2 ^ sh
  match r with
  | .ne => if 2 * rem > 2 ^ sh || (2 * rem == 2 ^ sh && q % 2 == 1) then q + 1 else q
  | .sr u =>
    let d := if sh ≤ 16 then rem * 2 ^ (16 - sh) else rem / 2 ^ (sh - 16)
    if u < d then q + 1 else q

/-- m × 2^e rounded to an integer. -/
def scaleRound (m : Nat) (e : Int) (r : Rnd) : Nat :=
  if 0 ≤ e then m * 2 ^ e.toNat else roundShr m (-e).toNat r

/-- X of |x| = M × 2^X, M in [1, 2), for m not 0. -/
def expOf (m : Nat) (e : Int) : Int := (Nat.log2 m : Int) + e

/-! ## IEEE formats: `p` significant bits (24 for FP32, 8 for BF16), 8 exponent bits -/

def infMag (p : Nat) : Nat := 255 * 2 ^ (p - 1)

/-- Magnitude bits of m × 2^e rounded once, subnormals included; beyond the largest finite value, infinity. -/
def floatMag (p m : Nat) (e : Int) (r : Rnd) : Nat :=
  if m = 0 then 0
  else
    let x := expOf m e
    if x < -126 then scaleRound m (e + 126 + (p - 1 : Nat)) r
    else if 128 ≤ x then infMag p
    else
      let n := scaleRound m (e - x + (p - 1 : Nat)) r
      Nat.min ((x + 126).toNat * 2 ^ (p - 1) + n) (infMag p)

def withSign (p : Nat) (neg : Bool) (mag : Nat) : Nat := b2n neg * 2 ^ (p + 7) + mag

/-- Decode (R44: subnormals at their true value). -/
def fromFloat (p bits : Nat) : FNum :=
  let neg := bit bits (p + 7)
  let ex := bits / 2 ^ (p - 1) % 256
  let fr := bits % 2 ^ (p - 1)
  if ex = 255 then (if fr = 0 then .inf neg else .nan neg)
  else if ex = 0 then .fin ⟨neg, fr, -126 - (p - 1 : Nat)⟩
  else .fin ⟨neg, 2 ^ (p - 1) + fr, (ex : Int) - 127 - (p - 1 : Nat)⟩

def f32 (w : Nat) : FNum := fromFloat 24 w
def bf16 (w : Nat) : FNum := fromFloat 8 w

/-- Into FP32 or BF16 under R44 (canonical NaN by sign) and R53: overflow gives infinity and SAT, a nonzero value
that rounds to zero keeps its sign and sets UFL. -/
def toFloat (p : Nat) (x : FNum) (r : Rnd) : Nat × Flags :=
  match x with
  | .nan neg => (withSign p neg (infMag p + 2 ^ (p - 2)), fNAN)
  | .inf neg => (withSign p neg (infMag p), 0#8)
  | .fin d =>
    let g := floatMag p d.m d.e r
    (withSign p d.neg g, fIf (g == infMag p) fSAT ||| fIf (g == 0 && d.m != 0) fUFL)

/-! ## PL4 and PL8 (R26 to R32) -/

/-- The fractional table T (R28); T[8] is 65,536. -/
def tT (f : Nat) : Nat :=
  match f with
  | 0 => 32768 | 1 => 35734 | 2 => 38968 | 3 => 42495 | 4 => 46341 | 5 => 50535 | 6 => 55109 | 7 => 60097 | _ => 65536

/-- The threshold table H (R28). -/
def tH (f : Nat) : Nat :=
  match f with
  | 0 => 34219 | 1 => 37316 | 2 => 40693 | 3 => 44379 | 4 => 48393 | 5 => 52773 | 6 => 57550 | _ => 62757

/-- Log-magnitude in eighths and sign of a code, none for zero (R29, R30). -/
def plLog (pl4 : Bool) (code : Nat) : Option (Bool × Int) :=
  if pl4 then
    let m := code % 8
    if m = 0 then none else some (bit code 3, 4 * ((m : Int) - 7))
  else
    let e := code % 128
    if e = 0 then none else some (bit code 7, (e : Int) - 127)

/-- The exact value of a code under scale byte b (R29). -/
def plVal (pl4 : Bool) (b code : Nat) : FNum :=
  match plLog pl4 code with
  | none => .fin ⟨false, 0, 0⟩
  | some (s, t) => .fin ⟨s, tT (t % 8).toNat, t / 8 - 15 + ((b : Int) - 127)⟩

/-- Scale byte of a block (R40 auto or explicit, R43): `xs` are the elements it covers. -/
def blockScale (explicit : Option Nat) (xs : List FNum) : Nat :=
  if xs.any (fun x => match x with | .fin _ => false | _ => true) then 0xFF
  else
    match explicit with
    | some b => b
    | none =>
      let top := xs.foldl (fun (a : Option Int) x =>
        match x with
        | .fin d => if d.m = 0 then a else
            match a with
            | none => some (expOf d.m d.e)
            | some y => some (max y (expOf d.m d.e))
        | _ => a) none
      match top with
      | none => 0
      | some x => (max 0 (min 255 (x + 128))).toNat

/-- The steps of one octave of a PL lattice, in eighths: all eight for PL8, 0 and 4 for PL4. -/
def plSteps (pl4 : Bool) : List Nat := if pl4 then [0, 4] else [0, 1, 2, 3, 4, 5, 6, 7]

def plTop (pl4 : Bool) : Int := if pl4 then 7 else 127

/-- The code number of the lattice point f eighths into octave x, under scale S. -/
def plCode (pl4 : Bool) (x s : Int) (f : Nat) : Int :=
  if pl4 then 7 + 2 * (x - s) + (f / 4 : Nat) else 127 + 8 * (x - s) + (f : Nat)

/-- Nearest-even into PL on codes (R37): `m` not 0. The threshold between steps f and f + 1 is H[f] for PL8 and
T[f + 2] for PL4; on an exact tie the even code wins. -/
def plNearest (pl4 : Bool) (s : Int) (m : Nat) (e : Int) : Int :=
  let k := Nat.log2 m
  let x := expOf m e
  let lhs := m * 32768
  let thr (f : Nat) : Nat := (if pl4 then tT (f + 2) else tH f) * 2 ^ k
  match (plSteps pl4).find? (fun f => decide (lhs ≤ thr f)) with
  | none => plCode pl4 (x + 1) s 0
  | some f =>
    let c := plCode pl4 x s f
    if lhs = thr f && c % 2 == 1 then c + 1 else c

/-- Stochastic rounding into PL (R38, R42). -/
def plStoch (pl4 : Bool) (s : Int) (m : Nat) (e : Int) (u : Nat) : Int :=
  let k := Nat.log2 m
  let x := expOf m e
  let m16 := m * 32768 / 2 ^ k
  let f := ((plSteps pl4).filter (fun f => decide (tT f ≤ m16))).getLastD 0
  let g := if pl4 then f + 4 else f + 1
  let c := plCode pl4 x s f
  if 1 ≤ c then
    let d := (m16 - tT f) * 65536 / (tT g - tT f)
    if u < d then c + 1 else c
  else
    -- code 1 under this scale is v1 = n1 × 2^(s + e1)
    let n1 := if pl4 then 1 else 38968
    let e1 : Int := if pl4 then -3 else -31
    let sh := e + 16 - s - e1
    let d := if 0 ≤ sh then m * 2 ^ sh.toNat / n1 else m / (n1 * 2 ^ (-sh).toNat)
    if u < d then 1 else 0

/-- One element into PL under scale byte b (R37, R38, R41 to R43). -/
def toPL (pl4 : Bool) (b : Nat) (x : FNum) (r : Rnd) : Nat × Flags :=
  let top := (plTop pl4).toNat
  let sgn (neg : Bool) := b2n neg * (top + 1)
  match x with
  | .nan _ => (top, fNAN)
  | .inf neg => (sgn neg + top, fSAT)
  | .fin d =>
    if d.m = 0 then (0, 0#8)
    else
      let s := (b : Int) - 127
      let c := match r with
        | .ne => plNearest pl4 s d.m d.e
        | .sr u => plStoch pl4 s d.m d.e u
      if c ≤ 0 then (0, fUFL)
      else if plTop pl4 < c then (sgn d.neg + top, fSAT)
      else (sgn d.neg + c.toNat, 0#8)

/-- PL into FP32 or BF16 (R45): a value beyond the range becomes the largest finite value and sets SAT. -/
def plToFloat (p : Nat) (pl4 : Bool) (b code : Nat) : Nat × Flags :=
  match plVal pl4 b code with
  | .fin d =>
    let g := floatMag p d.m d.e .ne
    if g = infMag p then (withSign p d.neg (infMag p - 1), fSAT)
    else (withSign p d.neg g, fIf (g == 0 && d.m != 0) fUFL)
  | _ => (0, 0#8)

/-- PL4 to PL8 is exact under the same scale byte (R30). -/
def pl4ToPl8 (code : Nat) : Nat :=
  match plLog true code with
  | none => 0
  | some (s, t) => b2n s * 128 + (127 + t).toNat

/-! ## Integers and gradient formats (R46 to R49) -/

/-- x × 2^−q rounded, saturated to [−lo, hi]; the flag says that it saturated. -/
def toIntSat (d : Dy) (q : Int) (lo hi : Nat) (r : Rnd) : Int × Bool :=
  let n := scaleRound d.m (d.e - q) r
  if d.neg then (if lo < n then (-(lo : Int), true) else (-(n : Int), false))
  else (if hi < n then ((hi : Int), true) else ((n : Int), false))

/-- Into I8 (R46). -/
def toI8 (q : Int) (x : FNum) (r : Rnd) : Int × Flags :=
  match x with
  | .nan _ => (127, fNAN)
  | .inf neg => (if neg then -128 else 127, fSAT)
  | .fin d => let y := toIntSat d q 128 127 r; (y.1, fIf y.2 fSAT)

/-- Into G16 (`n` = 16) or G32 (`n` = 32) with quantum exponent q (R48). -/
def toG (n : Nat) (q : Int) (x : FNum) (r : Rnd) : Int × Flags :=
  let top : Nat := 2 ^ (n - 1) - 1
  match x with
  | .nan _ => ((top : Int), fNAN)
  | .inf neg => (if neg then -(top : Int) else top, fGSAT)
  | .fin d => let y := toIntSat d q top top r; (y.1, fIf y.2 fGSAT)

/-- An integer times 2^e, as an exact number. -/
def dyInt (i : Int) (e : Int) : Dy := ⟨decide (i < 0), i.natAbs, e⟩

/-- I8 into FP32 or BF16 is exact (R46). -/
def i8ToFloat (p : Nat) (byte : Nat) : Nat := (toFloat p (.fin (dyInt (signed 8 byte) 0)) .ne).1

/-! ## Products and accumulators (R31 to R34, R64) -/

/-- A contribution P = ± mag shifted by k, bits below the accumulator's lsb dropped (R32). -/
def shiftMag (mag : Nat) (k : Int) : Nat := if 0 ≤ k then mag * 2 ^ k.toNat else mag / 2 ^ (-k).toNat

/-- The contribution of two PL codes (R31, R32). -/
def plContribution (pl4 : Bool) (ca ba cb bb : Nat) (psh eacc : Int) : Int :=
  match plLog pl4 ca, plLog pl4 cb with
  | some (sa, ta), some (sb, tb) =>
    let t := ta + tb
    let k := t / 8 + ((ba : Int) - 127) + ((bb : Int) - 127) + psh - eacc + 15
    let mag := shiftMag (tT (t % 8).toNat) k
    if sa == sb then (mag : Int) else -(mag : Int)
  | _, _ => 0

/-- The contribution of two digits (R64). -/
def digitContribution (sa : Bool) (da : Nat) (ua : Int) (sb : Bool) (db : Nat) (ub : Int) (psh eacc : Int) : Int :=
  let mag := shiftMag (da * db) (ua + ub + psh - eacc + 30)
  if sa == sb then (mag : Int) else -(mag : Int)

def accBound : Int := 2 ^ 47 - 1

/-- One addition to an accumulator (R34): value, lock, and whether it overflowed now. A locked accumulator keeps
its value. -/
def accAdd (a : Int) (lock : Bool) (p : Int) : Int × Bool × Bool :=
  if lock then (a, true, false)
  else
    let s := a + p
    if s < -accBound then (-accBound, true, true)
    else if accBound < s then (accBound, true, true)
    else (s, false, false)

/-! ## Block alignment (R50) -/

/-- The shared exponent of a block: none when the block holds an infinity or a NaN. -/
def alignExp (xs : List FNum) : Option Int :=
  if xs.any (fun x => match x with | .fin _ => false | _ => true) then none
  else
    some ((xs.foldl (fun (a : Option Int) x =>
      match x with
      | .fin d => if d.m = 0 then a else
          match a with
          | none => some (expOf d.m d.e)
          | some y => some (max y (expOf d.m d.e))
      | _ => a) none).getD 0)

/-- The aligned magnitude of one element, W bits wide, and its flags (R50). -/
def alignMag (w : Nat) (xb : Int) (x : FNum) : Nat × Flags :=
  match x with
  | .fin d =>
    if d.m = 0 then (0, 0#8)
    else
      let n := scaleRound d.m (d.e + (w - 1 : Nat) - xb) .ne
      if 2 ^ w ≤ n then (2 ^ w - 1, fSAT)
      else (n, fIf (n == 0) fUFL)
  | _ => (0, 0#8)

/-! ## The stream generator (R153) -/

def roundConst (r : Nat) : Word32 :=
  match r with
  | 0 => 0x6F1C3A57#32 | 1 => 0xD2B40E91#32 | 2 => 0x3A85F6C3#32 | 3 => 0x91E72B0D#32 | 4 => 0x5C3FA864#32
  | 5 => 0xE8095D2F#32 | 6 => 0x276AC1B8#32 | 7 => 0xB45D7E06#32 | 8 => 0x0F9324DA#32 | _ => 0x7AC68F41#32

/-- One round, before the word rotation is undone: the words come out already rotated. -/
def genRound (k0 k1 : Word32) (r : Nat) (s : Word32 × Word32 × Word32 × Word32) :
    Word32 × Word32 × Word32 × Word32 :=
  let w0 := s.1 + (if r % 2 = 0 then k0 else k1) + roundConst r
  let w1 := s.2.1 ^^^ w0.rotateLeft 7
  let w2 := s.2.2.1 + w1
  let w3 := s.2.2.2 ^^^ w2.rotateLeft 13
  let w0 := w0 + w3
  let w1 := w1 ^^^ w0.rotateLeft 19
  (w1, w2, w3, w0)

/-- The generator's output (R153): job seed, step, stream, element index. -/
def streamGen (seed step sid idx : Nat) : Word32 × Word32 :=
  let k0 := BitVec.ofNat 32 seed
  let k1 := BitVec.ofNat 32 (seed / 2 ^ 32)
  let s := (List.range 10).foldl (fun s r => genRound k0 k1 r s)
    (BitVec.ofNat 32 idx, BitVec.ofNat 32 (sid % 4096), BitVec.ofNat 32 step, 0#32)
  (s.1 + k1, s.2.2.1 + k0)

/-- The 64-bit output, high word first in the sum (R153). -/
def genOutput (seed step sid idx : Nat) : Nat :=
  let o := streamGen seed step sid idx
  o.2.toNat * 2 ^ 32 + o.1.toNat

/-- The 16-bit value that stochastic rounding draws (R38, R154). -/
def genU (seed step sid idx : Nat) : Nat := (streamGen seed step sid idx).1.toNat % 65536

end Sys2Proof.Machine
end

