-- ==== Sys2Proof/Machine/Float.lean ====
section
/-! DEFINITION. The arithmetic of the vector engine and of the update unit (R97 to R99, Table 4-4): every operation is
the exact mathematical result rounded once to nearest-even, in FP32 (`p` = 24) or BF16 (`p` = 8). -/

namespace Sys2Proof.Machine
open Sys2Proof

/-- Arithmetic flags, in the order of Table 4-8 bits [11:8]: INV, DZ, OVF, UNF. -/
abbrev AFlags := BitVec 4
def aINV : AFlags := 1#4
def aDZ : AFlags := 2#4
def aOVF : AFlags := 4#4
def aUNF : AFlags := 8#4

/-- The canonical NaN (R97, R98). -/
def cNaN (p : Nat) : Nat := infMag p + 2 ^ (p - 2)

/-- The value of a magnitude of a finite float, as m × 2^e. -/
def magVal (p g : Nat) : Nat × Int :=
  let ex := g / 2 ^ (p - 1)
  let fr := g % 2 ^ (p - 1)
  if ex = 0 then (fr, -126 - (p - 1 : Nat)) else (2 ^ (p - 1) + fr, (ex : Int) - 127 - (p - 1 : Nat))

/-- m1 × 2^e1 = m2 × 2^e2. -/
def sameVal (m1 : Nat) (e1 : Int) (m2 : Nat) (e2 : Int) : Bool :=
  if e1 ≤ e2 then m1 == m2 * 2 ^ (e2 - e1).toNat else m1 * 2 ^ (e1 - e2).toNat == m2

/-- Round an exact result to the destination and judge OVF and UNF (R97). -/
def roundFlt (p : Nat) (d : Dy) : Nat × AFlags :=
  if d.m = 0 then (withSign p d.neg 0, 0#4)
  else
    let g := floatMag p d.m d.e .ne
    if g = infMag p then (withSign p d.neg g, aOVF)
    else
      let v := magVal p g
      let inexact := !(sameVal d.m d.e v.1 v.2)
      let x := expOf d.m d.e
      -- magnitude rounded as if the exponent range were unbounded
      let n := scaleRound d.m (d.e - x + (p - 1 : Nat)) .ne
      let tiny := decide (x < -127) || (x == -127 && decide (n < 2 ^ p))
      (withSign p d.neg g, if inexact && tiny then aUNF else 0#4)

/-- An irrational result known to lie strictly between m × 2^e and (m + 1) × 2^e. -/
def between (neg : Bool) (m : Nat) (e : Int) : Dy := ⟨neg, 2 * m + 1, e - 1⟩

def dyToInt (d : Dy) (e : Int) : Int :=
  let n : Int := d.m * 2 ^ (d.e - e).toNat
  if d.neg then -n else n

/-- Exact sum; an exact zero sum of operands of unlike sign is +0. -/
def dyAdd (a b : Dy) : Dy :=
  if a.m = 0 && b.m = 0 then ⟨a.neg && b.neg, 0, 0⟩
  else
    let e := min a.e b.e
    let s := dyToInt a e + dyToInt b e
    ⟨decide (s < 0), s.natAbs, e⟩

def dyMul (a b : Dy) : Dy := ⟨xor a.neg b.neg, a.m * b.m, a.e + b.e⟩

def FNum.flip : FNum → FNum
  | .fin d => .fin ⟨!d.neg, d.m, d.e⟩
  | .inf n => .inf (!n)
  | .nan n => .nan n

def isNaN : FNum → Bool
  | .nan _ => true
  | _ => false

/-- a + b. -/
def numAdd (p : Nat) (a b : FNum) : Nat × AFlags :=
  match a, b with
  | .nan _, _ => (cNaN p, 0#4)
  | _, .nan _ => (cNaN p, 0#4)
  | .inf x, .inf y => if x == y then (withSign p x (infMag p), 0#4) else (cNaN p, aINV)
  | .inf x, _ => (withSign p x (infMag p), 0#4)
  | _, .inf y => (withSign p y (infMag p), 0#4)
  | .fin x, .fin y => roundFlt p (dyAdd x y)

/-- a × b + c, rounded once (R97). -/
def numFma (p : Nat) (a b c : FNum) : Nat × AFlags :=
  if isNaN a || isNaN b || isNaN c then (cNaN p, 0#4)
  else
    match a, b with
    | .fin x, .fin y =>
      match c with
      | .fin z => roundFlt p (dyAdd (dyMul x y) z)
      | .inf n => (withSign p n (infMag p), 0#4)
      | .nan _ => (cNaN p, 0#4)
    | .fin x, .inf n => if x.m = 0 then (cNaN p, aINV) else infPlus (xor x.neg n) c
    | .inf n, .fin y => if y.m = 0 then (cNaN p, aINV) else infPlus (xor y.neg n) c
    | .inf m, .inf n => infPlus (xor m n) c
    | _, _ => (cNaN p, 0#4)
where
  /-- An infinite product plus c. -/
  infPlus (n : Bool) (c : FNum) : Nat × AFlags :=
    match c with
    | .inf m => if m == n then (withSign p n (infMag p), 0#4) else (cNaN p, aINV)
    | _ => (withSign p n (infMag p), 0#4)

/-- a × b. -/
def numMul (p : Nat) (a b : FNum) : Nat × AFlags :=
  match a, b with
  | .nan _, _ => (cNaN p, 0#4)
  | _, .nan _ => (cNaN p, 0#4)
  | .fin x, .fin y => roundFlt p (dyMul x y)
  | .fin x, .inf n => if x.m = 0 then (cNaN p, aINV) else (withSign p (xor x.neg n) (infMag p), 0#4)
  | .inf n, .fin y => if y.m = 0 then (cNaN p, aINV) else (withSign p (xor y.neg n) (infMag p), 0#4)
  | .inf m, .inf n => (withSign p (xor m n) (infMag p), 0#4)

/-- x < y for numbers that are not NaN. -/
def numLt : FNum → FNum → Bool
  | .fin x, .fin y => let e := min x.e y.e; decide (dyToInt x e < dyToInt y e)
  | .inf x, .inf y => x && !y
  | .inf x, .fin _ => x
  | .fin _, .inf y => !y
  | _, _ => false

/-- x = y for numbers that are not NaN; the zeros are equal. -/
def numEq : FNum → FNum → Bool
  | .fin x, .fin y => let e := min x.e y.e; decide (dyToInt x e = dyToInt y e)
  | .inf x, .inf y => x == y
  | _, _ => false

/-- FMAX (`mx`) and FMIN on bits: −0 is below +0, a NaN gives the canonical NaN (R97). -/
def fltMaxMin (p : Nat) (mx : Bool) (a b : Nat) : Nat :=
  let x := fromFloat p a
  let y := fromFloat p b
  if isNaN x || isNaN y then cNaN p
  else
    let less := numLt x y || (numEq x y && bit a (p + 7) && !bit b (p + 7))
    if less == mx then b else a

/-- m1/m2 × 2^e, exact or bracketed. -/
def ratio (neg : Bool) (m1 m2 : Nat) (e : Int) : Dy :=
  let n := m1 * 2 ^ 400
  let q := n / m2
  if n % m2 = 0 then ⟨neg, q, e - 400⟩ else between neg q (e - 400)

/-- a / b (Table 4-4). -/
def numDiv (p : Nat) (a b : FNum) : Nat × AFlags :=
  match a, b with
  | .nan _, _ => (cNaN p, 0#4)
  | _, .nan _ => (cNaN p, 0#4)
  | .inf _, .inf _ => (cNaN p, aINV)
  | .inf m, .fin y => (withSign p (xor m y.neg) (infMag p), 0#4)
  | .fin x, .inf n => (withSign p (xor x.neg n) 0, 0#4)
  | .fin x, .fin y =>
    if y.m = 0 then
      if x.m = 0 then (cNaN p, aINV) else (withSign p (xor x.neg y.neg) (infMag p), aDZ)
    else if x.m = 0 then (withSign p (xor x.neg y.neg) 0, 0#4)
    else roundFlt p (ratio (xor x.neg y.neg) x.m y.m (x.e - y.e))

/-- 1 / a. -/
def numRcp (p : Nat) (a : FNum) : Nat × AFlags := numDiv p (.fin ⟨false, 1, 0⟩) a

/-- Integer square root, bit by bit from bit `k`. -/
def isqrtFrom : Nat → Nat → Nat → Nat
  | 0, _, r => r
  | k + 1, n, r => let t := r + 2 ^ k; isqrtFrom k n (if t * t ≤ n then t else r)

def isqrt (n : Nat) : Nat := isqrtFrom (Nat.log2 n / 2 + 1) n 0

/-- √(n × 2^(2h)), exact or bracketed. -/
def rootOf (n : Nat) (h : Int) : Dy :=
  let r := isqrt n
  if r * r = n then ⟨false, r, h⟩ else between false r h

def numSqrt (p : Nat) (a : FNum) : Nat × AFlags :=
  match a with
  | .nan _ => (cNaN p, 0#4)
  | .inf n => if n then (cNaN p, aINV) else (infMag p, 0#4)
  | .fin d =>
    if d.m = 0 then (withSign p d.neg 0, 0#4)
    else if d.neg then (cNaN p, aINV)
    else
      let odd := d.e % 2
      roundFlt p (rootOf (d.m * 2 ^ odd.toNat * 2 ^ 400) ((d.e - odd) / 2 - 200))

def numRsqrt (p : Nat) (a : FNum) : Nat × AFlags :=
  match a with
  | .nan _ => (cNaN p, 0#4)
  | .inf n => if n then (cNaN p, aINV) else (0, 0#4)
  | .fin d =>
    if d.m = 0 then (withSign p d.neg (infMag p), aDZ)
    else if d.neg then (cNaN p, aINV)
    else
      -- 1/√(m 2^e) = √(2^800 / m') × 2^(−400 − h), m' × 2^(2h) = m × 2^e
      let odd := d.e % 2
      let m := d.m * 2 ^ odd.toNat
      let r := isqrt (2 ^ 800 / m)
      let h := -(d.e - odd) / 2 - 400
      roundFlt p (if r * r * m = 2 ^ 800 then ⟨false, r, h⟩ else between false r h)

/-! ## Transcendental functions: fixed point with `fxP` fraction bits, far below what one rounding to 24 bits can
tell apart, and exact where the result is exact (UNVERIFIED bound, notes/assumptions/10) -/

def fxP : Nat := 440

/-- A dyadic as a fixed-point integer (floor). -/
def toFx (d : Dy) : Int :=
  let e := d.e + fxP
  let n : Int := if 0 ≤ e then d.m * 2 ^ e.toNat else (d.m / 2 ^ (-e).toNat : Nat)
  if d.neg then -n else n

/-- 2 × atanh(n/d) in fixed point, for 0 ≤ n/d ≤ 1/3. -/
def fxAtanh2 (n d : Nat) : Nat :=
  let z := n * 2 ^ fxP / d
  let z2 := z * z / 2 ^ fxP
  let go := (List.range 160).foldl (fun (a : Nat × Nat) k => (a.1 + a.2 / (2 * k + 1), a.2 * z2 / 2 ^ fxP)) (0, z)
  2 * go.1

/-- ln 2 in fixed point. -/
def fxLn2 : Nat := fxAtanh2 1 3

/-- e^r for a fixed-point r in [0, ln 2). -/
def fxExp (r : Nat) : Nat :=
  ((List.range 120).foldl (fun (a : Nat × Nat) k => (a.1 + a.2, a.2 * r / 2 ^ fxP / (k + 1))) (0, 2 ^ fxP)).1

/-- e^y for a fixed-point y, as mantissa and exponent. -/
def expFx (y : Int) : Nat × Int :=
  let n := y / (fxLn2 : Int)
  (fxExp (y - n * fxLn2).toNat, n - fxP)

/-- A positive result too small for any rounding but that to zero. -/
def dyTiny : Dy := ⟨false, 1, -400⟩

/-- A result just below 1. -/
def dyAlmostOne (neg : Bool) : Dy := ⟨neg, 2 ^ 200 - 1, -200⟩

def dyLtInt (d : Dy) (i : Int) : Bool := numLt (.fin d) (.fin (dyInt i 0))

/-- Exact integer value of a dyadic, if it is one. -/
def dyInteger (d : Dy) : Option Int :=
  if 0 ≤ d.e then some (dyToInt d 0)
  else if d.m % 2 ^ (-d.e).toNat = 0 then
    let n : Int := (d.m / 2 ^ (-d.e).toNat : Nat)
    some (if d.neg then -n else n)
  else none

/-- 2^a, for a bounded a. -/
def dyExp2 (d : Dy) : Dy :=
  if d.m = 0 then ⟨false, 1, 0⟩
  else if !(dyLtInt d 400) then ⟨false, 1, 400⟩
  else if dyLtInt d (-400) then dyTiny
  else
    match dyInteger d with
    | some n => ⟨false, 1, n⟩
    | none =>
      let y := toFx d
      let n := y / 2 ^ fxP
      let f := (y - n * 2 ^ fxP).toNat
      between false (fxExp (f * fxLn2 / 2 ^ fxP)) (n - fxP)

/-- e^a, for a bounded a. -/
def dyExp (d : Dy) : Dy :=
  if d.m = 0 then ⟨false, 1, 0⟩
  else if !(dyLtInt d 300) then ⟨false, 1, 400⟩
  else if dyLtInt d (-300) then dyTiny
  else let v := expFx (toFx d); between false v.1 v.2

/-- ln |a| in fixed point, for m not 0. -/
def fxLn (d : Dy) : Int :=
  let k := Nat.log2 d.m
  let x := expOf d.m d.e
  (fxAtanh2 (d.m - 2 ^ k) (d.m + 2 ^ k) : Int) + x * fxLn2

def fxBetween (v : Int) : Dy :=
  if v < 0 then between true (v.natAbs - 1) (-(fxP : Int)) else between false v.toNat (-(fxP : Int))

def dyLog (d : Dy) : Dy := if d.m = 2 ^ Nat.log2 d.m && expOf d.m d.e == 0 then ⟨false, 0, 0⟩ else fxBetween (fxLn d)

def dyLog2 (d : Dy) : Dy :=
  if d.m = 2 ^ Nat.log2 d.m then dyInt (expOf d.m d.e) 0
  else fxBetween (fxLn d * 2 ^ fxP / fxLn2)

/-- tanh a. -/
def dyTanh (d : Dy) : Dy :=
  if d.m = 0 then d
  else if expOf d.m d.e < -40 then ⟨d.neg, d.m * 2 ^ 300 - 1, d.e - 300⟩
  else if 6 ≤ expOf d.m d.e then dyAlmostOne d.neg
  else
    let v := expFx (2 * toFx ⟨false, d.m, d.e⟩)
    -- (v − 1)/(v + 1) with v = v.1 × 2^v.2
    let one := 2 ^ (-v.2).toNat
    between d.neg ((v.1 - one) * 2 ^ fxP / (v.1 + one)) (-(fxP : Int))

/-- 1/(1 + e^−a). -/
def dySigm (d : Dy) : Dy :=
  if d.m = 0 then ⟨false, 1, -1⟩
  else if 8 ≤ expOf d.m d.e then (if d.neg then dyTiny else dyAlmostOne false)
  else
    let v := expFx (toFx d)
    -- v/(1 + v) with v = v.1 × 2^v.2
    let n := if 0 ≤ v.2 then v.1 * 2 ^ v.2.toNat else v.1
    let one := if 0 ≤ v.2 then 1 else 2 ^ (-v.2).toNat
    between false (n * 2 ^ (2 * fxP) / (n + one)) (-(2 * fxP : Int))

def numExp (p : Nat) (f : Dy → Dy) (a : FNum) : Nat × AFlags :=
  match a with
  | .nan _ => (cNaN p, 0#4)
  | .inf n => if n then (0, 0#4) else (infMag p, 0#4)
  | .fin d => roundFlt p (f d)

def numLog (p : Nat) (f : Dy → Dy) (a : FNum) : Nat × AFlags :=
  match a with
  | .nan _ => (cNaN p, 0#4)
  | .inf n => if n then (cNaN p, aINV) else (infMag p, 0#4)
  | .fin d =>
    if d.m = 0 then (withSign p true (infMag p), aDZ)
    else if d.neg then (cNaN p, aINV)
    else roundFlt p (f d)

def numTanh (p : Nat) (a : FNum) : Nat × AFlags :=
  match a with
  | .nan _ => (cNaN p, 0#4)
  | .inf n => (roundFlt p ⟨n, 1, 0⟩)
  | .fin d => if d.m = 0 then (withSign p d.neg 0, 0#4) else roundFlt p (dyTanh d)

def numSigm (p : Nat) (a : FNum) : Nat × AFlags :=
  match a with
  | .nan _ => (cNaN p, 0#4)
  | .inf n => if n then (0, 0#4) else roundFlt p ⟨false, 1, 0⟩
  | .fin d => roundFlt p (dySigm d)

end Sys2Proof.Machine
end

