-- ==== Sys2Proof/Config.lean ====
section
/-! DEFINITION. What one module is built with (its ordering code, R1), and every free value the manual leaves open. -/

namespace Sys2Proof.Config

/-- The ordering codes of Table 0-1 (R1). -/
inductive Variant where
  | s4d1t    -- HKW1-4S-1T
  | s4d05t   -- HKW1-4S-05T
  | s2d1t    -- HKW1-2S-1T
  deriving DecidableEq, Repr

/-- The variant this model is of. DESIGN CHOICE (notes/assumptions/2): "The rest of this manual describes HKW1-4S-1T". -/
def variant : Variant := .s4d1t

/-- Supers populated (Table 0-1). -/
def nSupers : Nat := match variant with
  | .s2d1t => 2
  | _ => 4

/-- Deep packages populated (Table 0-1). -/
def nDeep : Nat := match variant with
  | .s4d05t => 8
  | _ => 16

/-- Pages of one populated super (Table 8-1). -/
def superPages : Nat := 163840

/-- Pages of the deep (Table 8-1; 32 KiB of each page in each of 16 packages, Table 0-1 for the others). -/
def deepPages : Nat := 131072 * nDeep

/-- Deep pages of one fall-back partition (Table 0-1, R189). -/
def deepShare : Nat := match variant with
  | .s4d1t => 524288
  | .s4d05t => 262144
  | .s2d1t => 1048576

/-- Partitions that can exist in the fall-back (Table 0-1). -/
def maxPartitions : Nat := nSupers

/-! Free values. Each is opaque: no proof can evaluate it, so a statement holds whatever it is. -/

/-- A fresh undefined 32-bit value; the argument is State's free-value counter (notes/assumptions/6). -/
opaque free32 : Nat → Word32

/-- A fresh undefined 64-bit value (notes/assumptions/6). -/
opaque free64 : Nat → Word64

/-- Cycles spent in a wait, as one attempt adds them to a profiling counter: the model has no cycle clock
(notes/assumptions/8). -/
opaque freeCycles : Nat → Nat

/-- A choice the manual leaves to the hardware among `n` possibilities (cache victim, victim page order). -/
opaque freeChoice : Nat → Nat → Nat

/-- Which line of a full set the instruction cache of a core gives up, by its count of misses (Table 5-4 names no policy). -/
opaque icacheVictim : Nat → Word32 → Nat

/-- Where the device stores a context's code, as a byte address of the unified range: the manual gives no place
(notes/assumptions/12). -/
opaque codeAt : Nat → Nat

/-- Where the device stores the task table of a context's core (notes/assumptions/12). -/
opaque taskTableAt : Nat → Nat → Nat

/-- The row of a super that holds a 64-byte granule, as bank * 2^32 + row: how the base die lays a page out over its
channels and banks is not given beyond Table 8-1 (notes/assumptions/13). -/
opaque rowOf : Nat → Nat

/-! Functions of published standards (Table 0-6) that the manual names and does not spell out (notes/assumptions/9). Each is an
opaque number; the functions below it give that number as the standard's bytes. -/

opaque shake256Bits : List Byte → BitVec 256
opaque shake456Bits : List Byte → BitVec 456
/-- CRC-32C. -/
opaque crc32c : List Byte → Word32
opaque ed448SignBits : List Byte → List Byte → BitVec 912
opaque ed448PublicBits : List Byte → BitVec 456
/-- Ed448 verification: public key, message, signature. -/
opaque ed448Verify : List Byte → List Byte → List Byte → Bool
opaque x448Bits : List Byte → List Byte → BitVec 448
opaque x448PublicBits : List Byte → BitVec 448
opaque freshReportKeyBits : Nat → BitVec 448
opaque gcmSealBits : List Byte → Nat → List Byte → List Byte → Nat
opaque gcmVerifies : List Byte → Nat → List Byte → List Byte → Bool
opaque gcmPlainBits : List Byte → Nat → List Byte → List Byte → Nat

/-- SHAKE256 with 256-bit output (FIPS 202). -/
def shake256 (m : List Byte) : List Byte := toLe 32 (shake256Bits m).toNat
/-- SHAKE256 with 456-bit output (R391). -/
def shake456 (m : List Byte) : List Byte := toLe 57 (shake456Bits m).toNat
/-- Ed448 signature (RFC 8032): private seed, message. -/
def ed448Sign (k m : List Byte) : List Byte := toLe 114 (ed448SignBits k m).toNat
/-- Ed448 public key of a seed. -/
def ed448Public (k : List Byte) : List Byte := toLe 57 (ed448PublicBits k).toNat
/-- X448 (RFC 7748): private key, public key. -/
def x448 (k u : List Byte) : List Byte := toLe 56 (x448Bits k u).toNat
/-- X448 public key of a private key. -/
def x448Public (k : List Byte) : List Byte := toLe 56 (x448PublicBits k).toNat
/-- A fresh X448 private key, by report number. -/
def freshReportKey (n : Nat) : List Byte := toLe 56 (freshReportKeyBits n).toNat
/-- AES-256-GCM encryption: key, nonce, additional data, plaintext; ciphertext followed by its 16-byte tag. -/
def gcmSeal (k : List Byte) (iv : Nat) (aad m : List Byte) : List Byte := toLe (m.length + 16) (gcmSealBits k iv aad m)
/-- AES-256-GCM decryption: key, nonce, additional data, ciphertext with tag; nothing when it does not verify. -/
def gcmOpen (k : List Byte) (iv : Nat) (aad c : List Byte) : Option (List Byte) :=
  if gcmVerifies k iv aad c then some (toLe (c.length - 16) (gcmPlainBits k iv aad c)) else none

/-! What manufacture fixed (R321, R391): fuses and the test record. -/

opaque serial : BitVec 64
opaque fwMinor : BitVec 8
opaque fwBuild : BitVec 16
opaque portMac : Nat → BitVec 48
opaque uds : List Byte
opaque bootRom : List Byte
opaque dcert : List Byte
opaque vkdigBits : BitVec 256
/-- VKDIG, the digest of the key that signs firmware. -/
def vkdig : List Byte := toLe 32 vkdigBits.toNat
/-- The manifest (Table 15-5) that a flash slot held when the module left the factory; its RBV is taken as 0
(notes/assumptions/43). -/
opaque factoryManifest : Nat → List Byte

/-- Fewest hard repair resources left in a bank of the deep (Table 8-14): the manual gives no number of them
(notes/assumptions/29). -/
opaque deepSpares : BitVec 8

end Sys2Proof.Config
end

