-- ==== Sys2Proof/Machine/State.lean ====
section
/-! DEFINITION. The state of the module: everything the manual gives it, as plain data, and its value after reset. -/

namespace Sys2Proof.Machine
open Sys2Proof

/-- Why the machine stops. -/
inductive Fault where
  /-- A command names a unit that the module does not have (a core above L319, a super above S3, a port above E7,
  ...). Raised by the wrappers of Machine/Ops.lean. Safe: no such command can arise on the hardware (R3). -/
  | noSuchUnit
  deriving DecidableEq, Repr

/-- Why a command has no meaning here. -/
inductive Refusal where
  /-- The row has no meaning yet. Raised by an arm of `exec` only. Safe: nothing is claimed of it. -/
  | notModelled (mnemonic : String)
  deriving DecidableEq, Repr

/-! ## The control engine (chapter 5) -/

/-- A fault as the core records it (Table 5-11). -/
structure FaultInfo where
  code : Nat
  eng : Bool := false
  tid : Nat := 0
  pc : Nat := 0
  addr : Nat := 0
  spc : Bool := false
  deriving DecidableEq, Repr

/-- A task on a core: its register context (R111, Table 5-4), and what holds it. `uid` names this run of the task,
so that what it issued can be traced after it has retired. -/
structure TaskRun where
  uid : Nat := 0
  tid : Nat := 0
  pc : Nat := 0
  x : Store Word64 := []
  held : Option FaultInfo := none        -- the held fault of a speculative task (R124)
  bwait : Option Nat := none             -- releases still to wait through in a BWAIT (R409)
  deriving DecidableEq, Repr

/-- One entry of the uncapped-write buffer (Table 5-4, R124). -/
inductive BufOp where
  | store (addr : Nat) (bytes : List Byte)
  | gstore (addr : Nat) (bytes : List Byte)
  | sarm (i addr : Nat)
  | sems (i cnt : Nat)
  | wopen (i addr : Nat)
  | wclose (i : Nat)
  deriving DecidableEq, Repr

structure BufEntry where
  uid : Nat
  tid : Nat
  pc : Nat
  op : BufOp
  deriving DecidableEq, Repr

/-! ## The matrix engine (chapter 3) -/

/-- One accumulator entry: 48-bit value, valid bit, lock bit (R34, R58). -/
structure AccEntry where
  a : Int := 0
  valid : Bool := false
  lock : Bool := false
  deriving DecidableEq, Repr

/-- A bank: its mode record (class I8 or scaled, and E; unset after reset) and its 128 x 128 entries, row-major (R58). -/
structure Bank where
  mode : Option (Bool × Int) := none
  ent : Store AccEntry := []
  deriving DecidableEq, Repr

/-- A pushed matrix instruction: four words, who pushed it, and its place in queue order. -/
structure MatOp where
  seq : Nat := 0
  uid : Nat
  tid : Nat
  pc : Nat
  w0 : Nat
  w1 : Nat
  w2 : Nat
  w3 : Nat
  deriving DecidableEq, Repr

/-- A pushed vector instruction: two words, word 1 as substituted (R113). -/
structure VecOp where
  uid : Nat
  tid : Nat
  pc : Nat
  w0 : Nat
  w1 : Nat
  deriving DecidableEq, Repr

/-- One change of an engine's sticky flags, with the task it came from; uid 0 is the host (R54). -/
structure FlagChg where
  uid : Nat
  set : BitVec 12
  clr : BitVec 12
  deriving DecidableEq, Repr

structure MatrixEngine where
  nextSeq : Nat := 0
  queue : List MatOp := []                       -- 8 entries (R67)
  array : Option MatOp := none                   -- the units' waiting slots (R67)
  drainer : Option MatOp := none
  aligner : Option MatOp := none
  shadow : Option (List Byte) := none            -- shadow hold: the held tile of the array's instruction (R59, R69)
  active : List Byte := []                       -- active hold
  reload : Option (List Byte) := none            -- the tile that a restored MMA reloads (R84, R87)
  inArray : List (Nat × Bool × Bool) := []       -- MMAs that may still add: their task, banks A and B, oldest first (R83)
  bankA : Bank := {}
  bankB : Bank := {}
  flagBase : BitVec 12 := 0#12                   -- Table 2-11: what settled tasks left, and what came since (R54)
  flagLog : List FlagChg := []
  fed : BitVec 32 := 0#32
  gate : BitVec 32 := 0#32
  wait : BitVec 32 := 0#32
  deriving DecidableEq, Repr

/-! ## The vector engine (chapter 4) -/

structure VectorEngine where
  queue : List VecOp := []                       -- 16 entries (R90)
  v : Store Word32 := []                         -- lane l of Vr at 256 r + l (Table 4-1)
  m : Store (BitVec 512) := []                   -- M1 to M7; M0 reads as all ones
  mailbox : List Word32 := []                    -- 4 entries
  mailOf : List Nat := []                        -- the tasks that wrote them (R107)
  sid : BitVec 12 := 0#12
  sq : BitVec 8 := 0#8
  idx0 : BitVec 32 := 0#32
  flagBase : BitVec 12 := 0#12                   -- Table 4-8 [11:0] (R54, R103)
  flagLog : List FlagChg := []
  wrote : List (Nat × Nat) := []                 -- who wrote which register since it settled: V r, 32 + M, 40 SID and SQ, 41 IDX0 (R107)
  issued : BitVec 32 := 0#32
  trn : BitVec 32 := 0#32
  wait : BitVec 32 := 0#32
  deriving DecidableEq, Repr

/-! ## The stream unit (chapter 7) -/

/-- A stream descriptor or its shadow (Table 7-5), with who armed it, the arm's stamp (R143) and its progress. -/
structure SDesc where
  img : List Nat                                 -- eight words
  uid : Nat
  tid : Nat
  pc : Nat
  ctx : Nat
  step : Nat
  phase : Nat
  started : Bool := false
  pos : Nat := 0                                 -- bytes (or ring bytes) of the transfer already requested
  slots : List Nat := []                         -- destination ring slots taken (counted from image start), in order
  inflight : Nat := 0                            -- requests and packets not yet landed or acknowledged
  stopped : Bool := false                        -- stopped by an abort (R185)
  poisoned : Bool := false                       -- a poisoned byte was read into the transfer (R251)
  data : List Byte := []                         -- bytes gathered so far, where the transfer is sent whole; the block buffer (R171)
  marks : List Bool := []                        -- poison marks of the block buffer
  deriving DecidableEq, Repr

/-- Where a request's bytes go. -/
inductive Dest where
  | pad (core addr : Nat)
  | mem (addr : Nat)
  | away                                         -- gathered for a super or for another module (R247, R282)
  deriving DecidableEq, Repr

/-- Who made a request. -/
inductive Owner where
  | desc (i : Nat)
  | window (i : Nat)
  deriving DecidableEq, Repr

/-- One request in flight: it holds a tag, or a light buffer (R175, R176). -/
structure Request where
  tag : Nat
  owner : Owner
  light : Bool := false
  runs : List (Dest × List Byte × Bool)          -- destination runs: their bytes, and whether these are poisoned (R214)
  ring : Bool := false                           -- a ring-mode arrival (R166)
  stamp : Nat := 0                               -- the sender's beat number at its issue (R142)
  sched : Bool := false                          -- scheduled: its frame counts it for that beat (R174)
  held : Bool := false                           -- it waits in the destination's inbound hold (R166)
  refused : Bool := false                        -- a full inbound hold has turned it away (R166)
  src : Option Nat := none                       -- the page it reads (R201)
  deriving DecidableEq, Repr

/-- A forager window (Table 7-9, R177). -/
structure Window where
  img : List Nat                                 -- eight words
  base : Nat := 0                                -- address of chunk 0, the version resolved (R178)
  owner : Option (Nat × Nat)                     -- uid and tid of the opening task; none for the layer schedule table
  pc : Nat
  ctx : Nat
  chunk : Nat := 0                               -- next chunk to request
  off : Nat := 0                                 -- bytes of that chunk already requested
  slot : Nat := 0                                -- the ring slot (counted from image start) that chunk 0 fills
  pin : Option (Nat × Nat) := none               -- block and buffer, once the first request is served (R266)
  deriving DecidableEq, Repr

/-- Ring state (R163), in slots counted from image start (a slot's number is its count modulo the slot count): the
oldest slot not released, the oldest not filled, the next one a ring-mode producer starts, and slots released out of order. -/
structure RingState where
  head : Nat := 0
  tail : Nat := 0
  prod : Nat := 0
  rel : List Nat := []
  deriving DecidableEq, Repr

/-- A held inbound write (R166). -/
structure InHold where
  src : Nat
  tag : Nat
  deriving DecidableEq, Repr

/-- A token bucket (Table 7-10). -/
structure Bucket where
  rate : Nat
  depth : Nat
  tokens : Nat
  deriving DecidableEq, Repr

/-- Whose turn it is at a device bucket (R181): the core served last, and the cores that have found too few tokens. -/
structure TokenTurn where
  last : Nat := 319
  waiting : List Nat := []
  deriving DecidableEq, Repr

/-- What sent a semaphore signal: its task, the SEMS or SARM, and whether a descriptor completed. -/
structure SignalFrom where
  tid : Nat
  pc : Nat
  unit : Bool                                    -- sent by the stream unit, for a descriptor (R172, R187)
  deriving DecidableEq, Repr

structure StreamUnit where
  desc : Store (Option SDesc) := []              -- SD0 to SD31
  shadow : Store (Option SDesc) := []
  win : Store (Option Window) := []              -- 32 windows
  ring : Store RingState := []
  credit : Store Nat := []                       -- credits spent, by consumer core * 32 + ring (R166); 0 = all held
  creditMsg : Store Nat := []                    -- release messages on their way to the producer, by ring (R166)
  sem : Store Nat := []                          -- the 64 semaphore counters
  signal : Store (List (Nat × Nat × SignalFrom)) := []  -- signals on their way here, by source core: counter, count, sender
  req : List Request := []                       -- requests in flight
  parked : List (Nat × Nat) := []                -- tags that a context which is out keeps: context, tag (R301, R336)
  hold : List InHold := []                       -- inbound hold, 16 entries
  bucket : Bucket := ⟨512, 64, 0⟩
  counters : Store (BitVec 32) := []             -- SXREQ, SXLITE, FUNF, FTOKW, FRINGW, TAGW, SEMWC, INHOLD at 2 to 9
  blkn : Nat := 0                                -- consecutive blocked beats, saturating at 511
  blkd : Bool := false
  deriving DecidableEq, Repr

/-- A pending comb atomic of the core (R212). -/
structure Atomic where
  task : Nat                                     -- uid
  xd : Nat
  addr : Nat
  operand : Word64
  fn : Nat
  deriving DecidableEq, Repr

/-- One logical core (chapters 3, 4, 5 and 7). -/
structure Core where
  tasks : List TaskRun := []                     -- capped task first, then at most two speculative (R122)
  startNext : Option Nat := none                 -- the task to start as the capped task (R110, R125)
  wbuf : List BufEntry := []                     -- the uncapped-write buffer
  retired : List (Nat × Nat) := []               -- ended tasks not yet settled: uid, tid (R121)
  endl : Bool := false
  frec : Option FaultInfo := none                -- the fault record
  lost : Nat := 0
  dcache : List (Nat × List Byte) := []          -- data cache: lines of 64 bytes by address (Table 5-4)
  icache : List Nat := []                        -- instruction cache: lines of code, context * 2^26 + byte offset / 64
  atom : Option Atomic := none
  counters : Store (BitVec 32) := []             -- TCAP, TDISC, TWSW, ICMISS, DCMISS at 6 to 10
  mx : MatrixEngine := {}
  vx : VectorEngine := {}
  su : StreamUnit := {}
  pad : Store Byte := []                         -- scratchpad, 393,216 bytes (R158)
  padPoison : Store Bool := []                   -- poisoned 8-byte words (R160, R214)
  w : Store Bool := []                           -- W bits by row (R163)
  u : Store Bool := []                           -- U bits by row
  progress : Bool := false                       -- something issued or changed in this beat (R183)
  mxIssued : Bool := false                       -- the matrix engine issued in this beat (R341)
  vxIssued : Bool := false
  deriving DecidableEq, Repr

/-! ## Images (chapter 12) -/

/-- A section of the loaded image (Table 12-14). -/
structure Section where
  stype : Nat
  ctx : Nat
  lcore : Nat
  bytes : List Byte
  deriving DecidableEq, Repr

/-- The loaded image: its header (Table 12-13), its sections after decryption, and the inline words of its code. -/
structure Image where
  header : List Byte
  secs : List Section
  inlineWords : List (Nat × Nat) := []           -- context and byte offset of every marked inline word (R113)
  guard : Bool := false                          -- guard mode as taken at the load (R184)
  deriving DecidableEq, Repr

/-- An open load session (R310, R326). -/
structure LoadSession where
  queue : Nat
  commit : Bool := false                         -- an LCOMMIT was accepted and has not completed (R309, R310)
  header : List Byte
  staging : Store Byte := []
  deriving DecidableEq, Repr

/-! ## Contexts and partitions (chapters 6, 9, 13) -/

structure Stamp where
  step : Nat := 0
  phase : Nat := 0
  count : Nat := 0                               -- beats counted in the phase
  deriving DecidableEq, Repr

/-- The accounting record's counters (Table 13-6), as sums. -/
structure Account where
  nsw : Nat := 0
  rbeat : Nat := 0
  cbeat : Nat := 0
  mxb : Nat := 0
  vxb : Nat := 0
  srd : Nat := 0
  swr : Nat := 0
  drd : Nat := 0
  dwr : Nat := 0
  natx : Nat := 0
  narx : Nat := 0
  nbtx : Nat := 0
  nbrx : Nat := 0
  euj : Nat := 0
  swcyc : Nat := 0
  prwt : Nat := 0
  parkn : Nat := 0
  deriving DecidableEq, Repr

/-- A record in the input ring's feed (R293), as the queen counts it towards R227. -/
structure FeedRec where
  cur : Nat
  rid : Nat
  tokens : Nat
  addr : Nat
  step : Nat := 0                                -- STEP of the record's first packet
  deriving DecidableEq, Repr

/-- One micro-batch in preparation or in use (chapter 9). -/
structure MicroBatch where
  mbn : Nat
  step : Nat
  ready : Bool := false
  prepBeat : Nat := 0
  deriving DecidableEq, Repr

structure Context where
  inMap : Bool := false
  run : Bool := false
  latency : Bool := false                        -- CLASS
  nextRun : Option (Bool × Bool) := none         -- CTXSET until the next boundary: RUN, CLASS (R333)
  parked : Bool := false
  hold : Bool := false                           -- held under R145
  stamp : Stamp := {}
  saved : Store Core := []                       -- save area: the cores of a context that is switched out (R334)
  deferred : List (Nat × Nat × Nat) := []        -- signals recorded while parked: core, entry, count (R340)
  waitq : Bool := false                          -- its schedule entries waited for queue space in this beat (R198)
  due : List (List Nat) := []                    -- due layer schedule entries, in order (R198)
  pins : List Nat := []                          -- pin ledger: pages (R204)
  saveb : Nat := 0
  acct : Account := {}
  shown : Account := {}                          -- the record as of the last release (R342)
  cursor : Nat := 0                              -- number of the next record placed on the FD channel (R353)
  feed : List FeedRec := []                      -- placed records not yet taken into a micro-batch
  nextMb : Nat := 0
  mbs : Store (Option MicroBatch) := []          -- by region
  blkPins : Store Nat := []                      -- a snapshot's pins by 2 * block + buffer (R266)
  deriving DecidableEq, Repr

/-- A step parameter recorded for a future step (R317): group, index (16 = NQ), first step, value. -/
structure StepParam where
  grp : Nat
  idx : Nat
  fstep : Nat
  value : Nat
  deriving DecidableEq, Repr

/-- A nectar log record (Table 14-2): eight words. -/
abbrev LogRecord := List Nat

/-- A complete base or the base being built (R357 to R359). -/
structure BaseSlot where
  step : Nat
  header : List Byte := []                       -- Table 14-4
  entries : List (List Nat) := []                -- Table 14-5
  states : List (List Byte) := []                -- state regions of the owned slices, ascending local index
  digests : List (List Byte) := []               -- region digests
  lsnb : Nat := 0
  deriving DecidableEq, Repr

structure Replay where
  first : Nat
  upto : Nat
  queue : Nat
  cseq : Nat
  deriving DecidableEq, Repr

/-- A background command (R309) that has ended or still runs: queue, CSEQ, opcode, what it waits for, its final status. -/
structure Job where
  queue : Nat
  cseq : Nat
  opcode : Nat
  part : Nat
  done : Bool
  status : Nat := 0
  detail : List Nat := []
  ctx : Nat := 0
  lock : Bool := false
  pins : List (Nat × Nat) := []                  -- pins it holds: context, 2 * block + buffer (R266, R318)
  deriving DecidableEq, Repr

structure Partition where
  image : Option Image := none
  load : Option LoadSession := none
  started : Bool := false
  stopped : Bool := false                        -- stopped after a reset, awaiting DISCARD (R386)
  ran : Bool := false                            -- has run since the last reset ended
  resetDue : Bool := false                       -- a context fault asks for the partition reset (R343)
  unloadDue : Bool := false                      -- with the forced unload of R215 and R218
  seed : Nat := 0
  s0 : Nat := 0
  epoch : Nat := 0
  capped : Nat := 0                              -- last capped step
  doneStep : Option (Nat × Bool) := none         -- newest step-done sent: step, OVFL
  ovfSteps : List Nat := []                      -- steps that overflowed and are not yet discarded
  fpSum : Store Nat := []                        -- fingerprint sums by step
  ovfn : Store Nat := []                         -- overflowed slices by step
  beat : Nat := 0
  hold : Bool := false
  bact : Bool := false
  quiesce : Bool := false                        -- a switch waits: the engines and stream units issue nothing (R186, R336)
  strn : BitVec 32 := 0#32
  strc : BitVec 32 := 0#32
  holdc : BitVec 32 := 0#32
  dieHeld : Bool := false                        -- a die stage 2 has held this beat's release (R418)
  lastCause : Nat := 0
  lastFrame : Nat := 0
  drep : Nat := 0                                -- determinism report
  btoexp : Nat := 20
  resident : Option Nat := none
  pend : Option (Option Nat) := none             -- a switch decided and delayed: its target
  prwb : Nat := 0
  ranBeats : Nat := 0                            -- beats since the resident context entered
  qslice : Nat := 4096                           -- the SLICE in force since the last switch
  lastsw : Nat := 0
  swn : BitVec 32 := 0#32
  prmn : BitVec 32 := 0#32
  parkn : BitVec 32 := 0#32
  prstn : BitVec 32 := 0#32
  -- chapter 9
  mblast : Nat := 0
  refs : BitVec 32 := 0#32
  fbmb : BitVec 32 := 0#32
  fbsw : BitVec 32 := 0#32
  stpk : BitVec 32 := 0#32
  -- chapter 10
  params : List StepParam := []
  normSum : Store Int := []                      -- own partial by 2^32 * group + step
  normCount : Store Nat := []                    -- spilled slices by the same key
  normTotal : Store Int := []                    -- NORK's total
  normRanks : Store (List Nat) := []             -- ranks whose partials have arrived
  normCf : Store (Option Word32) := []           -- factor received
  spilled : List (Nat × Nat × Nat) := []         -- spilled slices: context, local index, step
  peaks : Store Nat := []                        -- PEAK of spilled slices, by 32 * (2^32 * local index + step) + context
  pushWait : List (Nat × Nat) := []              -- initial pushes not yet acknowledged
  -- chapter 11
  swid : Nat := 0
  rank : Nat := 0
  -- chapter 14
  log : List LogRecord := []
  mirror : Store (List LogRecord) := []          -- by predecessor's rank
  mirrorDig : Store (List Byte) := []            -- predecessors' digest lists
  lsn : Nat := 0
  logFull : Bool := false
  rcfg : Nat := 0
  interval : Nat := 200
  baseNow : Bool := false
  baseJobs : List (Nat × Nat) := []              -- queue and CSEQ of BASE commands that await a base
  baseDue : List (Nat × Nat) := []               -- those that await the base being built
  slotsKept : Bool := false                      -- base slots reserved
  pages : List (Nat × Nat) := []                 -- physical pages of save areas, log areas and base slots: device, page
  blast : Nat := 0xFFFFFFFF
  bsafe : Nat := 0xFFFFFFFF
  bst : Nat := 0
  bbuild : Nat := 0
  baseOld : Option BaseSlot := none
  baseNew : Option BaseSlot := none
  parity : Store Byte := []                      -- parity being built: P at its offset, Q above 2^40
  parityOld : Store Byte := []                   -- parity of the last complete base
  parityGot : List (Nat × Nat) := []             -- chunks folded: member, chunk
  basePins : List (Nat × Nat × Nat) := []
  logrank : Nat := 0
  nmod : Nat := 0
  rates : Nat := 25 * 65536 + 64
  grank : Store Nat := []
  replay : Option Replay := none
  restored : Option Nat := none                  -- base step restored by R363 or R364, awaiting REPLAY
  restCur : Store Nat := []                      -- cursors in the header of the newest restored base (R353)
  rebld : Bool := false
  recCnt : Store (BitVec 32) := []               -- BASEN, BSKIP, LOGHOLD, RPLN, PTERR at 17 to 21
  -- chapter 16
  encreq : Nat := 0
  ksdig : List Byte := []
  deriving DecidableEq, Repr

/-! ## Memory tiers (chapter 8) -/

/-- A tier-map entry (Table 8-3). -/
structure TmEntry where
  valid : Bool := false
  part : Nat := 0
  ctx : Nat := 0
  shr : Bool := false
  ro : Bool := false
  nopf : Bool := false
  comba : Bool := false
  hint : Nat := 0
  mst : Nat := 0
  pin : Nat := 0
  dev : Nat := 7
  ref : Bool := false
  rtd : Bool := false
  pfpr : Bool := false
  supx : Nat := 0
  ppn : Nat := 0
  deriving DecidableEq, Repr

/-- A queued move (R199). -/
structure Move where
  page : Nat
  dev : Nat                                      -- target device: 0 to 3, or 4 for the deep
  retire : Bool := false
  back : Bool := false                           -- a retired fixed page moves back (R218)
  victim : Option Nat := none                    -- the page that makes room for it (R203)
  ctx : Option Nat := none                       -- the context whose schedule or PLACE queued it (R341)
  deriving DecidableEq, Repr

/-- A move in progress on a channel. -/
structure MoveRun where
  ch : Nat
  page : Nat
  dev : Nat
  ppn : Nat
  retire : Bool
  copied : Bool := false
  back : Bool := false                           -- a fixed page moving back (R218)
  cursor : Nat := 0                              -- granules known to be copied, of 1,024 (R200)
  left : Option Nat := none                      -- bytes that a hot super's bucket has not granted yet, once it meters the move (R199)
  ctx : Option Nat := none
  deriving DecidableEq, Repr

/-- An old page that a flip left behind and that requests and comb fills issued before still use: core, tag and light path of
each, slice and line of each (R201). -/
structure Leaving where
  dev : Nat
  ppn : Nat
  part : Nat
  ctx : Nat
  reqs : List (Nat × Nat × Bool)
  fills : List (Nat × Nat)
  deriving DecidableEq, Repr

structure Tiers where
  map : Store TmEntry := []
  used : List (Nat × Nat) := []                  -- physical pages not free: device, page number
  sweep : Store Nat := []                        -- clock hand of each super's victim sweep (R203)
  queue : List Move := []
  runs : List MoveRun := []
  chn : Nat := 8
  crate : Nat := 32
  tmsel : Nat := 0
  tmhi : BitVec 32 := 0x000001C0#32
  ways : Store Nat := []                         -- resident comb ways by partition
  cnt : Store (BitVec 32) := []                  -- MIGDONE, MIGWAIT, PRNOV, EVREF, PFPQ at 16 to 20
  devCnt : Store (BitVec 32) := []               -- CEC, UEC, RREP at 16 d + 3, 4, 5
  comb : Store (List Nat) := []                  -- cached lines of a set, most recent first, by 1024 slice + set
  fills : List (Nat × Nat) := []                 -- miss registers in use: slice, line
  combCnt : Store (BitVec 32) := []              -- CHIT, CMISS, CATOM at 4 s + i
  rowErr : Store Nat := []                       -- corrected reads of a row in this patrol cycle, by (super, row) code
  rowBad : List (Nat × Nat × Nat) := []          -- rows that qualify for repair: super, row, page that holds it (R216)
  retired : List (Nat × Nat) := []               -- pages never allocated: device, page (from flash)
  atomics : List Nat := []                       -- cores whose atomic waits at the comb, in arrival order
  leaving : List Leaving := []                   -- old pages not yet free (R201)
  retireDue : List (Nat × Nat) := []             -- physical pages to retire when they are left (R217)
  combBad : Store Bool := []                     -- poisoned words of cached comb lines, by address / 8 (R213, R214)
  oldBad : Store Bool := []                      -- words of a moving page that are poisoned in the old location only (R200)
  newBad : Store Bool := []                      -- and in the new location only
  physBad : Store Bool := []                     -- poisoned words of unmapped pages, by 2^40 * device + physical word
  schedBad : Store Bool := []                    -- poisoned words of the schedule SRAM
  deriving DecidableEq, Repr

/-! ## Slices (chapter 10) -/

/-- A contribution on its way to, or parked at, a super. -/
structure Contrib where
  part : Nat
  lidx : Nat
  step : Nat
  phase : Nat
  epoch : Nat
  sender : Nat
  satc : Nat
  poison : Bool
  data : List Byte
  ctx : Nat := 0                                 -- the context whose slice it is
  desc : Option (Nat × Nat) := none              -- the local core and descriptor that sent it
  chan : Option Nat := none                      -- the receive channel (by key) whose cells it holds
  cells : Nat := 0
  deriving DecidableEq, Repr

/-- An accumulator slot (R250). -/
structure Slot where
  lidx : Nat
  step : Nat
  count : Nat
  satc : Nat
  peak : Nat
  ovf : Bool
  poison : Bool
  sum : Store Int := []
  part : Nat := 0
  ctx : Nat := 0
  deriving DecidableEq, Repr

/-- A memory-side add on its way (R249). -/
structure SideAdd where
  core : Nat
  tag : Nat
  addr : Nat
  aop : Nat
  data : List (Byte × Bool)                      -- bytes and their poison marks
  deriving DecidableEq, Repr

structure Super where
  arrivals : List Contrib := []
  parkq : List Contrib := []
  adds : List SideAdd := []
  slots : Store (Option Slot) := []
  queue : List Nat := []                         -- update queue: slot numbers
  accBad : List (Nat × Nat) := []                -- poisoned words of the accumulator SRAM: slot, word (R213, R251)
  late : List Nat := []                          -- complete slots that wait for queue space (R418)
  flags : BitVec 12 := 0#12                      -- numeric status of the update unit
  cnt : Store (BitVec 32) := []                  -- UPDN, CTRB, EPDROP, SATEL, OVFSL, UWAIT at 2 to 7
  bucket : Bucket := ⟨10923, 256, 0⟩
  turn : TokenTurn := {}
  cool : Nat := 5461
  stage : Nat := 0
  pstate : Nat := 0
  temp : BitVec 16 := 0#16
  power : BitVec 16 := 0#16
  euj : BitVec 64 := 0#64
  deriving DecidableEq, Repr

/-! ## The fabric (chapter 11) -/

/-- A packet kept for retransmission (R284). -/
structure SentPkt where
  seq : Nat
  hdr : DataHdr
  payload : List Byte
  tries : Nat := 0
  mul : Nat := 1                                 -- its timer, in units of RTO
  desc : Option (Nat × Nat) := none              -- core and descriptor whose transfer it belongs to
  last : Bool := false
  push : Option (Nat × Nat) := none
  deriving DecidableEq, Repr

/-- A send channel (R281 to R289). -/
structure SendChan where
  peer : Nat
  chan : Nat
  entry : List Nat                               -- words of Table 11-6
  seq : Nat := 0
  credit : Nat := 0
  sent : List SentPkt := []
  waiting : List SentPkt := []                   -- formed, waiting for credit or retry space
  creq : Bool := false
  askedCredit : Bool := false
  rate : Nat := 400 * 2 ^ 32                     -- in units of 2^-32 Gb/s (R289)
  eceSeen : Bool := false
  epwSeen : Bool := false
  failed : Bool := false
  deriving DecidableEq, Repr

/-- A packet held or waiting in the receive buffer. -/
structure HeldPkt where
  hdr : DataHdr
  payload : List Byte
  ce : Bool
  net : Nat
  deriving DecidableEq, Repr

/-- A receive channel. -/
structure RecvChan where
  peer : Nat
  chan : Nat
  entry : List Nat
  next : Nat := 0
  held : List HeldPkt := []                      -- in the receive buffer: NEXT where it waits to be placed, and above
  minc : Nat := 0
  grantDue : Nat := 0                            -- cells returned and not yet granted again
  shared : Nat := 0                              -- shared cells granted and still out
  want : Nat := 0                                -- a recorded credit request (R288)
  unacked : Nat := 0
  ceDue : Bool := false
  nakSent : Option Nat := none
  oldw : Nat := 0                                -- OLDW (R290)
  slotCnt : Store Nat := []
  recs : Nat := 0                                -- records begun, counted from 0 at image start (R293)
  released : Nat := 0                            -- records released
  arr : Nat := 0                                 -- network on which its last packet arrived (R299)
  ringSlot : Nat := 0                            -- DEST 1: the ring slot being filled, the bytes in it, and the bytes of
  ringOff : Nat := 0                             -- the packet at NEXT that have been placed (R291)
  done : Nat := 0
  recRid : Nat := 0                              -- DEST 4: RID, TOKENS and STEP of the record being placed (R293)
  recTok : Nat := 0
  recStep : Nat := 0
  deriving DecidableEq, Repr

/-- A transit frame in an egress buffer (R296). -/
structure Transit where
  prio : Nat
  bytes : Nat
  inPort : Nat
  ce : Bool
  mac : Nat := 0                                 -- NHMAC and the hop limit it leaves with (R295)
  hop : Nat := 0
  deriving DecidableEq, Repr

/-- What the IPv6 and 802.1Q headers of a frame of the module's own hold (R274, R276, R277). -/
structure IpHdr where
  src : Nat := 0
  dst : Nat := 0
  tag : Option (Nat × Nat) := none               -- PCP and VID
  dscp : Nat := 0
  ecn : Nat := 2                                 -- ECT(0)
  hop : Nat := 64
  deriving DecidableEq, Repr

/-- A reply packet (Table 12-1). -/
structure Reply where
  dst : Nat
  queue : Nat
  cseq : Nat
  opcode : Nat
  status : Nat
  retry : Bool := false
  tag : Nat
  mstate : Nat
  pmap : Nat := 0
  keyid : Nat := 0
  iv : Nat := 0
  payload : List Byte := []
  ip : IpHdr := {}
  deriving DecidableEq, Repr

/-- What the module sends out of itself, in order. -/
inductive Tx where
  | data (net port : Nat) (mac : Option Nat) (ip : IpHdr) (h : DataHdr) (payload : List Byte)
  | reply (r : Reply)
  | event (ch seq code : Nat) (words : List Nat) (mstate step phase epoch : Nat) (ip : IpHdr) (udp : Nat)
  | pfc (port prio : Nat) (on : Bool)
  | forward (port mac hop bytes : Nat) (ce bad : Bool)
  | lldp (port serial addr : Nat)
  | announce (port : Nat) (ip : IpHdr) (payload : List Byte)
  | mld (port : Nat) (ip : IpHdr) (group : Nat)
  | icmp (port : Nat) (ip : IpHdr) (answer : Icmp)
  | solicit (port : Nat) (ip : IpHdr) (target : Nat)
  | norm (part grp rank step : Nat) (value : Int) (st ph : Nat)
  | factor (part grp step : Nat) (cf : Word32) (st ph : Nat)
  | bitmap (round : Nat) (missing : List Nat)
  | stream (part version addr port keyid : Nat) (shard : List Byte) (st ph : Nat)
  deriving DecidableEq, Repr

/-- A frame of the module's own that waits for its port (R277, R278). -/
structure LocalFrame where
  prio : Nat
  bytes : Nat
  tx : Tx
  deriving DecidableEq, Repr

structure Port where
  media : Nat := 0
  up : Bool := false
  lock : Bool := false
  andn : Bool := false
  en : Bool := true
  pol : Nat := 0
  paused : List Nat := []                        -- priorities paused by PFC
  transit : List Transit := []
  own : List LocalFrame := []                    -- frames of the module's own that wait
  deficit : Store Nat := []                      -- deficit round-robin (R277): bytes left of each priority's share,
  turn : Nat := 0                                -- the priority whose turn it is,
  alt : List Nat := []                           -- and the priorities whose last frame was one of the module's own
  xoff : List (Nat × Nat) := []                  -- XOFF sent: ingress port, priority (R296)
  cnt : Store (BitVec 32) := []                  -- FECC ... CUTT at 4 to 11
  dead : Bool := false                           -- the port's self-test failed (Table 15-2)
  deriving DecidableEq, Repr

structure Network where
  rto : Nat
  rmax : Nat := 8
  pfcm : Nat := 0
  fov : Bool
  kmin : Nat := 8
  rmin : Nat := 10
  aiinc : Nat := 10
  addr : Nat := 0
  rtr : Nat := 0
  udpp : Nat := 47810
  shared : Nat := 0                              -- shared cells granted out
  tag : Bool := false
  vid : Nat := 0
  neigh : List Nat := []                         -- addresses that the network has solicited or heard of (R274)
  granted : Nat × Nat := (0, 0)                  -- CHAN + 1 and peer of the last channel served from the pool (R287)
  authLast : Option Nat := none                  -- 0x0807 occurrences since the last event; none before the first
  unkLast : Option Nat := none
  cnt : Store (BitVec 32) := []                  -- RXP ... EPDN at 13 to 25
  deriving DecidableEq, Repr

/-- A peer-table entry (Table 11-9). -/
structure Peer where
  valid : Bool := false
  host : Bool := false
  state : Nat := 0
  onb : Bool := false
  miss : Nat := 0
  addrA : Nat := 0
  addrB : Nat := 0
  serial : Nat := 0
  heardA : Bool := false                         -- an announce on network A since ONB was set (R300)
  heard : Bool := false                          -- an announce in this second
  deriving DecidableEq, Repr

structure Fabric where
  ports : Store Port := []
  netA : Network := { rto := 50, fov := true }
  netB : Network := { rto := 200, fov := false }
  fwd : Store (List Nat) := []                   -- forwarding entries of eight words, default all 0
  ftsel : Nat := 0
  ftw : Store Nat := []
  peers : Store Peer := []
  ptsel : Nat := 0
  ptw : Store Nat := []
  send : Store (Option SendChan) := []           -- by 2 ^ 24 * part + index
  recv : Store (Option RecvChan) := []
  groups : List Nat := []                        -- multicast groups joined
  deriving DecidableEq, Repr

/-! ## The command protocol (chapter 12) -/

structure Cmd where
  hdr : CmdHdr
  src : Nat
  payload : List Byte
  key : Option (Nat × Nat) := none               -- KIND and INDEX of the key the request came under
  deriving DecidableEq, Repr

/-- One of the last 16 replies, with the request it answers (R308, R394). -/
structure Cached where
  req : CmdHdr
  body : List Byte
  reply : Reply
  deriving DecidableEq, Repr

structure CmdQueue where
  bound : Bool := false
  part : Nat := 0
  ctx : Nat := 0
  binder : Nat := 0
  next : Nat := 0
  cur : Option Cmd := none                       -- the command being executed
  pos : Nat := 0                                 -- pages, or lines of a COMBW, that a PLACE being executed has done (R314)
  heldc : List Cmd := []
  cache : List Cached := []
  qcmd : BitVec 32 := 0#32
  qrty : BitVec 32 := 0#32
  deriving DecidableEq, Repr

structure Event where
  seq : Nat
  code : Nat
  words : List Nat                               -- the 16 payload words (Table 12-7)
  step : Nat
  phase : Nat
  epoch : Nat
  deriving DecidableEq, Repr

structure Channel where
  addr : Store Nat := []                         -- EVADDR words 0 to 3
  en : Bool := false
  evrto : Nat := 10
  port : Nat := 47810
  next : Nat := 0
  lost : Nat := 0
  unacked : List Event := []
  deriving DecidableEq, Repr

/-! ## Security (chapter 16) -/

structure Key where
  bytes : List Byte
  astep : Nat := 0
  bind : List Byte := []
  hostIv : Option Nat := none                    -- bits [63:0] of the last request accepted under it
  modIv : Nat := 0                               -- the module's nonce counter
  replays : Option Nat := none                   -- 0x0D03 occurrences since the last event (R407)
  used : Store (Nat × Nat) := []                 -- SEQs sent under it, by 65536 * channel key + epoch: first, next (R395)
  deriving DecidableEq, Repr

structure Security where
  keys : Store (Option Key) := []                -- by 2 * (KIND * 32 + INDEX) + GEN
  attseq : Nat := 0
  report : Option (List Byte × List Byte) := none    -- report private key and RDIG
  installed : List (Nat × Nat × Nat × Nat) := []
  m0 : List Byte := []
  m1 : List Byte := []
  m2 : List Byte := []
  mImg : Store (List Byte) := []                 -- M4 to M7 by partition
  ak : List Byte := []
  dikPub : List Byte := []
  akCert : List Byte := []
  authc : BitVec 32 := 0#32
  krefn : BitVec 32 := 0#32
  deriving DecidableEq, Repr

/-! ## Bring-up, power and electrical (chapters 15, 17, 18) -/

inductive ModState where
  | off | standby | minimal | booting | ready | degraded | tripped
  deriving DecidableEq, Repr

/-- An installation update in progress (R380 to R383). -/
structure Update where
  manifest : List Byte
  queue : Nat
  cseq : Nat
  staging : Store Byte := []
  got : List Nat := []
  round : Nat := 0
  pages : List (Nat × Nat) := []                 -- its staging pages: device, page
  deriving DecidableEq, Repr

structure FrameSt where
  pstate : Nat := 3
  dbeat : Nat := 0
  temp : BitVec 16 := 0#16
  power : BitVec 16 := 0#16
  euj : BitVec 64 := 0#64
  cgb : BitVec 32 := 0#32
  rtb : BitVec 32 := 0#32
  deriving DecidableEq, Repr

structure Cage where
  padv : Nat := 0
  oc : Bool := false
  lpm : Bool := false
  cen : Bool := true
  prs : Bool := false
  powered : Bool := false
  ocCut : Bool := false                          -- power cut and not yet restored (R438)
  media : Nat := 0
  power : BitVec 16 := 0#16
  deriving DecidableEq, Repr

/-- Staging of one sensed unit (R417). -/
structure StageCnt where
  hot1 : Nat := 0
  hot2 : Nat := 0
  trip : Nat := 0
  coolSamples : Nat := 0
  badSensor : Bool := false
  stage : Nat := 0
  deriving DecidableEq, Repr

/-- A black-box record (Table 17-6): its number and its words 3 to 62. -/
structure BbRecord where
  seq : Nat
  words : List Nat
  deriving DecidableEq, Repr

/-- An occurrence of a code: what its record and, if it is an event, its message carry (Tables 12-7, 17-6). -/
structure Raise where
  code : Nat
  chan : Option Nat
  part : Nat := 0
  ctx : Nat := 0
  lcore : Nat := 0x1FF
  w1 : Nat := 0
  w2 : Nat := 0
  detail : List Nat := []
  deriving DecidableEq, Repr

structure BlackBox where
  nextSeq : Nat := 0
  queue : List BbRecord := []
  recs : List BbRecord := []                     -- programmed records present, oldest first
  waiting : List Raise := []                     -- codes that units hold while the queue is full (R423)
  deriving DecidableEq, Repr

structure Board where
  state : ModState := .booting
  phase : Nat := 0                               -- BUSTAT PHASE
  dcause : Nat := 0
  dunit : Nat := 0
  minb : Bool := false
  slot : Nat := 0
  pt : Store Nat := []
  rounds : Nat := 0
  wfail : Nat := 0
  update : Option Update := none
  ustate : Nat := 0
  frames : Store FrameSt := []
  lmap : Store Nat := []                         -- position of logical core n, plus 1; 0 reads as 31 (none)
  spare : Store Nat := []                        -- spare position of frame f, plus 1; 0 when none
  spop : Nat := 0
  dpop : Nat := 0
  cages : Store Cage := []
  vinMv : Nat := 54000
  enable : Bool := false
  sb12 : Bool := false
  internalRail : Bool := false
  present : Bool := false                        -- PRESENT driven low
  faultPin : Bool := false                       -- FAULT asserted
  uvw : Bool := false
  ovlo : Bool := false
  ovloNew : Bool := false                        -- latched in Standby, not yet recorded by a P1 (R432)
  ovHold : Bool := false                         -- an overvoltage with ENABLE asserted: no start until it falls (R432)
  huok : Bool := false
  dieStage : Nat := 0
  deepStage : Nat := 0
  deepPstate : Nat := 0
  deepPower : BitVec 16 := 0#16
  deepEuj : BitVec 64 := 0#64
  deepBucket : Bucket := ⟨6554, 256, 0⟩
  deepTurn : TokenTurn := {}
  plim : Bool := false
  inhot : Bool := false
  stages : Store StageCnt := []                  -- by sensed unit
  stgn : BitVec 32 := 0#32
  tholdc : BitVec 32 := 0#32
  uwake : BitVec 32 := 0#32
  psen : Bool := true
  retb : Nat := 8
  ptpSync : Bool := false
  ptpDom : Nat := 0
  ptpEn : Bool := false
  wall : Nat := 0
  telem : Store (BitVec 16) := []                -- VIN, IIN, PIN, TIN, TOUT, V12, HUV at 0 to 6
  gctl : Nat := 0
  pcfgMode : Bool := false
  qslice : Nat := 4096
  bootn : Nat := 0                               -- BOOTN as the records of this run carry it
  coreFail : List Nat := []                      -- logical cores that raised 0x0C01 and await the partition reset (R377)
  deriving DecidableEq, Repr

/-- What survives every reset and loss of power: fuses and flash (R219, R375, R391, R400, R405, R388). -/
structure NonVol where
  rbc : Nat := 0                                 -- rollback counter fuses
  opened : Bool := true                          -- OPEN: no operator key enrolled
  opkdig : List Byte := []
  failed : List Nat := []                        -- failed physical cores: fuses and field records
  subst : Store Nat := []                        -- field substitution: position of logical core n, plus 1
  remaps : List (Nat × Nat × Nat) := []          -- row remaps: super, bank, row
  retired : List (Nat × Nat) := []               -- retired physical pages: device, page
  slotManifest : Store (List Byte) := []         -- the manifests of the two flash slots
  bootSlot : Nat := 0
  bootn : Nat := 0
  rstc : BitVec 32 := 0#32
  rstf : BitVec 32 := 0#32
  rstp : BitVec 32 := 0#32
  rstm : BitVec 32 := 0#32
  deriving DecidableEq, Repr

/-- Everything but the queue and what is non-volatile. -/
structure Dev where
  freeIx : Nat := 0                              -- THE MODEL'S OWN: which free value comes next (notes/assumptions/6)
  uidNext : Nat := 1                             -- THE MODEL'S OWN: names for task runs
  cores : Store Core := []
  parts : Store Partition := []
  ctxs : Store Context := []
  mem : List Host.Cell := []                     -- the unified range, by address (R189)
  memPoison : Store Bool := []                   -- poisoned words of the unified range, by address / 8 (R214)
  tiers : Tiers := {}
  supers : Store Super := []
  consts : Store Word32 := []                    -- group constants Cj at 16 g + j (R259)
  fstep : Nat := 0
  fp : Nat := 0
  fovfn : Nat := 0
  fab : Fabric := {}
  queues : Store CmdQueue := []
  qserved : Nat := 63                            -- the queue that the queen served last (R309)
  chans : Store Channel := []
  jobs : List Job := []
  sec : Security := {}
  brd : Board := {}
  bb : BlackBox := {}
  tx : List Tx := []                             -- sent so far, oldest first
  deriving DecidableEq, Repr

structure State where
  pending : List Instr := []
  nv : NonVol := {}
  dev : Dev := {}
  deriving DecidableEq, Repr

/-- The machine after reset: every field at the value the Reset columns give, and where they give none at the value
notes/assumptions/3 names. The queue is empty. -/
def State.reset : State := {}

end Sys2Proof.Machine
end

