-- ==== Sys2Proof/Machine/Ops.lean ====
section
/-! DEFINITION. The named operations over the module's state that the meanings share: units and their wrappers, images and
tables, the unified range and the scratchpad with poison and guards, rings, events, faults and their entry. -/

namespace Sys2Proof.Machine
open Sys2Proof

/-- What one command answers. -/
abbrev Out := Host.Outcome State Fault Refusal

/-! ## Applying an effect -/

/-- The effect of a command that touches neither the queue nor what is non-volatile. -/
def State.onDev (s : State) (f : Dev → Dev) : Out := .next { s with dev := f s.dev }

/-- The same for a unit that has to exist. -/
def State.onUnit (s : State) (exists' : Bool) (f : Dev → Dev) : Out :=
  if exists' then s.onDev f else .fault .noSuchUnit

def nCores : Nat := 320
def nFrames : Nat := 20
def nPorts : Nat := 8
def nQueues : Nat := 64
def nChans : Nat := 69
def nParts : Nat := 4
def nCtxs : Nat := 32
def nCages : Nat := 8
def padBytes : Nat := 393216
def nRows : Nat := 12288

/-- An effect on logical core `n` (R3: L0 to L319). -/
def State.onCore (s : State) (n : Nat) (f : Dev → Dev) : Out := s.onUnit (decide (n < nCores)) f

/-! ## Units -/

def Dev.core (d : Dev) (n : Nat) : Core := Store.get {} d.cores n
def Dev.setCore (d : Dev) (n : Nat) (c : Core) : Dev := { d with cores := Store.set {} d.cores n c }
def Dev.modCore (d : Dev) (n : Nat) (f : Core → Core) : Dev := d.setCore n (f (d.core n))
def Dev.part (d : Dev) (p : Nat) : Partition := Store.get {} d.parts p
def Dev.setPart (d : Dev) (p : Nat) (x : Partition) : Dev := { d with parts := Store.set {} d.parts p x }
def Dev.modPart (d : Dev) (p : Nat) (f : Partition → Partition) : Dev := d.setPart p (f (d.part p))
def Dev.ctx (d : Dev) (c : Nat) : Context := Store.get {} d.ctxs c
def Dev.setCtx (d : Dev) (c : Nat) (x : Context) : Dev := { d with ctxs := Store.set {} d.ctxs c x }
def Dev.modCtx (d : Dev) (c : Nat) (f : Context → Context) : Dev := d.setCtx c (f (d.ctx c))
def Dev.sup (d : Dev) (x : Nat) : Super := Store.get {} d.supers x
def Dev.modSup (d : Dev) (x : Nat) (f : Super → Super) : Dev :=
  { d with supers := Store.set {} d.supers x (f (d.sup x)) }
def Dev.port (d : Dev) (e : Nat) : Port := Store.get {} d.fab.ports e
def Dev.modPort (d : Dev) (e : Nat) (f : Port → Port) : Dev :=
  { d with fab := { d.fab with ports := Store.set {} d.fab.ports e (f (d.port e)) } }
def Dev.queue (d : Dev) (q : Nat) : CmdQueue := Store.get {} d.queues q
def Dev.modQueue (d : Dev) (q : Nat) (f : CmdQueue → CmdQueue) : Dev :=
  { d with queues := Store.set {} d.queues q (f (d.queue q)) }
def Dev.chan (d : Dev) (e : Nat) : Channel := Store.get {} d.chans e
def Dev.modChan (d : Dev) (e : Nat) (f : Channel → Channel) : Dev :=
  { d with chans := Store.set {} d.chans e (f (d.chan e)) }
def Dev.frame (d : Dev) (f : Nat) : FrameSt := Store.get {} d.brd.frames f
def Dev.modFrame (d : Dev) (i : Nat) (f : FrameSt → FrameSt) : Dev :=
  { d with brd := { d.brd with frames := Store.set {} d.brd.frames i (f (d.frame i)) } }
def Dev.cage (d : Dev) (k : Nat) : Cage := Store.get {} d.brd.cages k
def Dev.modCage (d : Dev) (k : Nat) (f : Cage → Cage) : Dev :=
  { d with brd := { d.brd with cages := Store.set {} d.brd.cages k (f (d.cage k)) } }
def Dev.net (d : Dev) (n : Nat) : Network := if n = 0 then d.fab.netA else d.fab.netB
def Dev.modNet (d : Dev) (n : Nat) (f : Network → Network) : Dev :=
  if n = 0 then { d with fab := { d.fab with netA := f d.fab.netA } }
  else { d with fab := { d.fab with netB := f d.fab.netB } }
def Dev.modBrd (d : Dev) (f : Board → Board) : Dev := { d with brd := f d.brd }
def Dev.modTiers (d : Dev) (f : Tiers → Tiers) : Dev := { d with tiers := f d.tiers }
def Dev.modFab (d : Dev) (f : Fabric → Fabric) : Dev := { d with fab := f d.fab }
def Dev.modSec (d : Dev) (f : Security → Security) : Dev := { d with sec := f d.sec }
def Dev.send (d : Dev) (t : Tx) : Dev := { d with tx := d.tx ++ [t] }

/-- The next free 32-bit value (notes/assumptions/6), and the state past it. -/
def Dev.fresh32 (d : Dev) : Word32 × Dev := (Config.free32 d.freeIx, { d with freeIx := d.freeIx + 1 })
/-- A free choice among `n` possibilities. -/
def Dev.freshChoice (d : Dev) (n : Nat) : Nat × Dev :=
  (Config.freeChoice d.freeIx n % (max n 1), { d with freeIx := d.freeIx + 1 })
/-- Cycles of one wait (notes/assumptions/8). -/
def Dev.freshCycles (d : Dev) : Nat × Dev := (Config.freeCycles d.freeIx, { d with freeIx := d.freeIx + 1 })

/-- A 32-bit counter of Table 3-13 (wraps). -/
def bump (m : Store (BitVec 32)) (i n : Nat) : Store (BitVec 32) :=
  Store.modify 0#32 m i (fun v => v + BitVec.ofNat 32 n)

/-- A port counter of R302. -/
def Dev.portCnt (d : Dev) (e i : Nat) : Dev := d.modPort e (fun x => { x with cnt := bump x.cnt i 1 })
def netCnt (i n : Nat) (x : Network) : Network := { x with cnt := bump x.cnt i n }

/-! ## Egress: addresses, routes and the ports' service (R274, R276, R277, R278, R295) -/

/-- Modified EUI-64 link-local address of a MAC (R276). -/
def linkLocalOf (m : Nat) : Nat :=
  0xFE80 * 2 ^ 112 + (Nat.xor (m / 2 ^ 24) 0x020000) * 2 ^ 40 + 0xFFFE * 2 ^ 24 + m % 2 ^ 24

/-- The link-local address of a network: of its first port. -/
def linkLocal (net : Nat) : Nat := linkLocalOf (Config.portMac (4 * net)).toNat

def announceGroup (net : Nat) : Nat := (if net = 0 then 0xFF02 else 0xFF05) * 2 ^ 112 + 0x5747

/-- The source address of what a network sends: link-local until ADDR is written (R276). -/
def Dev.netSrc (d : Dev) (net : Nat) : Nat := if (d.net net).addr = 0 then linkLocal net else (d.net net).addr

/-- PCP and VID of the 802.1Q tag under TAG (R277). -/
def Dev.netTag (d : Dev) (net pcp : Nat) : Option (Nat × Nat) :=
  if (d.net net).tag then some (pcp, (d.net net).vid) else none

/-- The IPv6 header and tag of a frame of the module's own (R274, R276, R277). -/
def Dev.ipHdr (d : Dev) (net pcp dst : Nat) : IpHdr :=
  { src := d.netSrc net, dst := dst, tag := d.netTag net pcp, dscp := 8 * pcp }

def fwValid (e : List Nat) : Bool := bit (e.getD 4 0) 31
def fwNet (e : List Nat) : Nat := bits (e.getD 4 0) 30 30
def fwLen (e : List Nat) : Nat := min 128 (bits (e.getD 4 0) 29 22)
def fwMask (e : List Nat) : Nat := bits (e.getD 4 0) 11 8
def fwPfx (e : List Nat) : Nat :=
  e.getD 0 0 * 2 ^ 96 + e.getD 1 0 * 2 ^ 64 + e.getD 2 0 * 2 ^ 32 + e.getD 3 0

/-- The valid entry of a network with the longest matching prefix, ties to the lowest (R295). -/
def Dev.route (d : Dev) (net dst : Nat) : Option (List Nat) :=
  d.fab.fwd.foldl (fun best x =>
    let e := x.2
    if fwValid e && fwNet e == net && dst / 2 ^ (128 - fwLen e) == fwPfx e / 2 ^ (128 - fwLen e) then
      match best with
      | some b => if fwLen b < fwLen e then some e else best
      | none => some e
    else best) none

/-- The port of PMASK that a UDP source port selects (R295). -/
def maskPort (net mask src : Nat) : Option Nat :=
  let l := (List.range 4).filter (fun k => bit mask k)
  if l.isEmpty then none else (l[src % l.length]?).map (4 * net + ·)

def fwMac (e : List Nat) : Nat := bits (e.getD 6 0) 15 0 * 2 ^ 32 + bits (e.getD 5 0) 31 0

/-- Port and next-hop MAC that the forwarding table gives an address (R276, R295). -/
def Dev.egress (d : Dev) (net dst src : Nat) : Option (Nat × Nat) :=
  match d.route net dst with
  | some e => (maskPort net (fwMask e) src).map (fun o => (o, fwMac e))
  | none => none

/-- An address on the link: link-local, multicast, or with the upper 64 bits of ADDR (R276; notes/assumptions/152). -/
def Dev.onLink (d : Dev) (net dst : Nat) : Bool :=
  dst / 2 ^ 118 == 0x3FA || dst / 2 ^ 120 == 0xFF || ((d.net net).addr != 0 && dst / 2 ^ 64 == (d.net net).addr / 2 ^ 64)

/-- Weight of a priority in the round-robin of a port (Table 11-3). A priority without a class has weight 1
(notes/assumptions/24). -/
def portWeight (net q : Nat) : Nat :=
  if q = 5 then 4 else if q = 4 then (if net = 0 then 3 else 2) else 1

/-- The frame of a priority that leaves next: own and transit frames alternate (R277). Whether it is one of the module's own, and its
bytes. -/
def Port.headOf (x : Port) (q : Nat) : Option (Bool × Nat) :=
  if x.paused.contains q then none
  else match x.own.find? (fun t => t.prio == q), x.transit.find? (fun t => t.prio == q) with
    | some a, some b => if x.alt.contains q then some (false, b.bytes) else some (true, a.bytes)
    | some a, none => some (true, a.bytes)
    | none, some b => some (false, b.bytes)
    | none, none => none

/-- Deficit round-robin over priorities 5 to 0, from the priority whose turn it is downwards (R277): the priority that sends, with
the shares after it. -/
def Port.robin (net : Nat) : Nat → Port → Option Nat × Port
  | 0, x => (none, x)
  | f + 1, x =>
    let left := Store.get 0 x.deficit x.turn
    let next (x : Port) : Port :=
      let q := (x.turn + 5) % 6
      { x with turn := q, deficit := if (x.headOf q).isSome
        then Store.modify 0 x.deficit q (fun v => v + 8192 * portWeight net q) else x.deficit }
    match (if x.turn < 6 then x.headOf x.turn else none) with
    | none =>
      let empty := !(x.own.any (fun t => t.prio == x.turn) || x.transit.any (fun t => t.prio == x.turn))
      Port.robin net f (next { x with deficit := if empty then Store.set 0 x.deficit x.turn 0 else x.deficit })
    | some h => if h.2 ≤ left then (some x.turn, { x with deficit := Store.set 0 x.deficit x.turn (left - h.2) })
      else Port.robin net f (next x)

/-- The priority that a port serves next: 7 and 6 strictly first (R277). -/
def Port.pick (net : Nat) (x : Port) : Option Nat × Port :=
  if (x.headOf 7).isSome then (some 7, x)
  else if (x.headOf 6).isSome then (some 6, x)
  else if (List.range 6).all (fun q => (x.headOf q).isNone) then (none, x)
  else x.robin net 32

/-- A frame of that priority has left: the other kind's turn. -/
def Port.swap (x : Port) (q : Nat) (own : Bool) : Port :=
  { x with alt := if own then (if x.alt.contains q then x.alt else x.alt ++ [q]) else x.alt.filter (· != q) }

/-- The port can send a frame of a priority at once: it is up, the priority is not paused, and nothing that may leave waits. -/
def Port.clear (x : Port) (q : Nat) : Bool :=
  x.up && !(x.paused.contains q) && x.own.all (fun t => x.paused.contains t.prio) && x.transit.all (fun t => x.paused.contains t.prio)

/-- A frame leaves a port (TXF). -/
def Dev.leave (d : Dev) (e : Nat) (t : Tx) : Dev := (d.portCnt e 7).send t

/-- Own frames leave as long as the port serves one next. -/
def Dev.serveOwn : Nat → Dev → Nat → Dev
  | 0, d, _ => d
  | f + 1, d, e =>
    let x := d.port e
    let y := x.pick (e / 4)
    match (if x.up then y.1 else none) with
    | none => d
    | some q => match x.headOf q, x.own.find? (fun t => t.prio == q) with
      | some (true, _), some t =>
        Dev.serveOwn f ((d.modPort e (fun _ => { y.2.swap q true with own := x.own.erase t })).leave e t.tx) e
      | _, _ => d

/-- Send a frame of the module's own on a port, or have it wait (R277, R278). -/
def Dev.sendOn (d : Dev) (e prio bytes : Nat) (t : Tx) : Dev :=
  if (d.port e).clear prio then d.leave e t
  else
    let d := d.modPort e (fun x => { x with own := x.own ++ [⟨prio, bytes, t⟩] })
    d.serveOwn ((d.port e).own.length) e

/-- One of a network's ports that are up, as a free choice (notes/assumptions/152). -/
def Dev.anyPort (d : Dev) (net : Nat) : Option Nat × Dev :=
  let l := ((List.range 4).map (4 * net + ·)).filter (fun e => (d.port e).up)
  let x := d.freshChoice l.length
  (l[x.1]?, x.2)

/-- Port and next-hop MAC of a packet of the module's own: the forwarding table's, else a port that is up towards the address itself
when it is on the link or towards RTR, whose MAC neighbor discovery finds (R274, R276). Nothing when neither reaches it. -/
def Dev.nextHop (d : Dev) (net dst src : Nat) : Option (Nat × Option Nat) × Dev :=
  match d.egress net dst src with
  | some o => (some (o.1, some o.2), d)
  | none =>
    let rtr := (d.net net).rtr
    let via := if d.onLink net dst then some dst else if rtr = 0 then none else some rtr
    match (if (d.route net dst).isSome then none else via) with
    | none => (none, d)
    | some a =>
      match d.anyPort net with
      | (none, d) => (none, d)
      | (some e, d) =>
        if a / 2 ^ 120 = 0xFF || (d.net net).neigh.contains a then (some (e, none), d)
        else (some (e, none), (d.modNet net (fun x => { x with neigh := x.neigh ++ [a] })).sendOn e 7 86
          (.solicit e (d.ipHdr net 7 a) a))

/-- A command packet leaves on network B, counted in TXF on the port that its route gives (R277, R302; notes/assumptions/24). -/
def Dev.sendCmd (d : Dev) (dst : Nat) (t : Tx) : Dev :=
  match d.egress 1 dst (d.net 1).udpp with
  | some o => d.leave o.1 t
  | none => d.send t

def modCode : ModState → Nat
  | .off => 0 | .standby => 1 | .minimal => 2 | .booting => 3 | .ready => 4 | .degraded => 5 | .tripped => 6

/-- The module runs (Ready or Degraded). -/
def Dev.up (d : Dev) : Bool := d.brd.state == .ready || d.brd.state == .degraded

/-! ## Partitions and contexts -/

/-- A partition whose barrier and cores run; after a DISCARD it waits for the completion event (R353). -/
def Dev.running (d : Dev) (p : Nat) : Bool :=
  let x := d.part p
  x.image.isSome && x.started && !x.stopped && d.up && !(d.jobs.any (fun j => j.part == p && j.opcode == 0x52))

/-- The partition of a logical core (Table 13-1). -/
def Dev.partOf (d : Dev) (core : Nat) : Nat := if d.brd.pcfgMode then core / 80 else 0

/-- First logical core of a partition, and how many it has. -/
def Dev.partBase (d : Dev) (p : Nat) : Nat := if d.brd.pcfgMode then 80 * p else 0
def Dev.partSize (d : Dev) : Nat := if d.brd.pcfgMode then 80 else 320
def Dev.partCores (d : Dev) (p : Nat) : List Nat := List.range' (d.partBase p) d.partSize
def Dev.inPart (d : Dev) (p core : Nat) : Bool := decide (core < nCores) && d.partOf core == p

/-- The partition that a context belongs to (Table 13-1). -/
def Dev.partOfCtx (d : Dev) (c : Nat) : Nat := if d.brd.pcfgMode then c / 8 else 0

/-- Partitions that exist in the present mode. -/
def Dev.partExists (d : Dev) (p : Nat) : Bool :=
  if d.brd.pcfgMode then decide (p < Config.maxPartitions) else p == 0

/-- The context in the engines of a core's partition. -/
def Dev.ctxOf (d : Dev) (core : Nat) : Nat := ((d.part (d.partOf core)).resident).getD 0

/-- The stamp that a partition's events and SPR show: that of its resident context (R332). -/
def Dev.partStamp (d : Dev) (p : Nat) : Stamp :=
  match (d.part p).resident with
  | some c => (d.ctx c).stamp
  | none => {}

/-! ## The loaded image -/

/-- The bytes of a section, none when the image has no such section. -/
def Image.sec (i : Image) (stype ctx lcore : Nat) : List Byte :=
  match i.secs.find? (fun x => x.stype == stype && x.ctx == ctx && x.lcore == lcore) with
  | some x => x.bytes
  | none => []

/-- A section of the image in partition p (an image names the cores of a fall-back partition from 0,
notes/assumptions/11). -/
def Dev.imgSec (d : Dev) (p stype ctx lcore : Nat) : List Byte :=
  match (d.part p).image with
  | some i => i.sec stype ctx lcore
  | none => []

/-- A per-core section of the resident context of core `n`. -/
def Dev.coreSec (d : Dev) (n stype : Nat) : List Byte :=
  let p := d.partOf n
  d.imgSec p stype (d.ctxOf n) (n - d.partBase p)

/-- The code section of the resident context. -/
def Dev.code (d : Dev) (n : Nat) : List Byte := d.imgSec (d.partOf n) 1 (d.ctxOf n) 0

/-- The word at `pc` can be executed as a control instruction: it lies in the code section and is no inline word
(R113, R114). -/
def Dev.fetchOk (d : Dev) (n pc : Nat) : Bool :=
  pc % 4 == 0 && decide (pc + 4 ≤ (d.code n).length) &&
    (match (d.part (d.partOf n)).image with
     | some i => !(i.inlineWords.contains (d.ctxOf n, pc))
     | none => false)

/-- The image's word `i` of the header (Table 12-13). -/
def Image.hdr (i : Image) (w : Nat) : Nat := wordAt i.header (4 * w)

/-! ## Task descriptors (Table 5-5) -/

/-- Word `w` of descriptor `tid` of a task table. -/
def tdWord (tbl : List Byte) (tid w : Nat) : Nat := wordAt tbl (64 * tid + 4 * w)

/-- Successor for TEND selector k (Table 5-5). -/
def tdSucc (tbl : List Byte) (tid k : Nat) : Nat :=
  match k with
  | 0 => bits (tdWord tbl tid 2) 31 16
  | 1 => bits (tdWord tbl tid 2) 15 0
  | 2 => bits (tdWord tbl tid 3) 31 16
  | _ => bits (tdWord tbl tid 3) 15 0

def tdBarrier (tbl : List Byte) (tid : Nat) : Bool := bit (tdWord tbl tid 0) 7
def tdLast (tbl : List Byte) (tid : Nat) : Bool := bit (tdWord tbl tid 0) 6

/-- Write-set entry k in use: space (true for the unified range), first byte, bytes (Table 5-6). -/
def tdWs (tbl : List Byte) (tid k : Nat) : Option (Bool × Nat × Nat) :=
  if k < bits (tdWord tbl tid 0) 10 8 then
    let lo := tdWord tbl tid (8 + 2 * k)
    let hi := tdWord tbl tid (9 + 2 * k)
    some (bit hi 31, (lo + 2 ^ 32 * bits hi 30 28) * 64, (bits hi 27 0 + 1) * 64)
  else none

/-- The write set of a task (R120). -/
def writeSet (tbl : List Byte) (tid : Nat) : List (Bool × Nat × Nat) := (List.range 4).filterMap (tdWs tbl tid)

/-- `n` bytes from `a` lie in one entry of a write set, or across entries, byte by byte. -/
def inWriteSet (ws : List (Bool × Nat × Nat)) (uni : Bool) (a n : Nat) : Bool :=
  ws.any (fun e => e.1 == uni && decide (e.2.1 ≤ a) && decide (a + n ≤ e.2.1 + e.2.2)) ||
  (List.range n).all (fun i => ws.any (fun e => e.1 == uni && decide (e.2.1 ≤ a + i) && decide (a + i < e.2.1 + e.2.2)))

/-- `n` bytes from `a` meet a write set. -/
def meetsWriteSet (ws : List (Bool × Nat × Nat)) (uni : Bool) (a n : Nat) : Bool :=
  ws.any (fun e => e.1 == uni && decide (a < e.2.1 + e.2.2) && decide (e.2.1 < a + n))

/-! ## Rings and semaphores (Tables 7-2, 7-4) -/

/-- A declared ring: number, first row, rows per slot, slots, classes, producing core. -/
structure RingDecl where
  ix : Nat
  base : Nat
  rows : Nat
  n : Nat
  pcls : Nat
  ccls : Nat
  pcore : Nat
  deriving DecidableEq, Repr

def ringDecl (tbl : List Byte) (j : Nat) : Option RingDecl :=
  let w0 := wordAt tbl (8 * j)
  let w1 := wordAt tbl (8 * j + 4)
  if bit w1 0 then
    some ⟨j, bits w0 29 16, bits w0 15 4 + 1, bits w0 3 0 + 1, bits w1 31 28, bits w1 27 24, bits w1 23 15⟩
  else none

def ringDecls (tbl : List Byte) : List RingDecl := (List.range 32).filterMap (ringDecl tbl)

def Dev.rings (d : Dev) (n : Nat) : List RingDecl := ringDecls (d.coreSec n 3)
def Dev.ringOf (d : Dev) (n j : Nat) : Option RingDecl := ringDecl (d.coreSec n 3) j

def RingDecl.slotBytes (r : RingDecl) : Nat := 32 * r.rows
/-- First row of a slot, by its count from image start. -/
def RingDecl.slotRow (r : RingDecl) (k : Nat) : Nat := r.base + (k % r.n) * r.rows

/-- The ring and the slot number that hold a row. -/
def ringAt (rs : List RingDecl) (row : Nat) : Option (RingDecl × Nat) :=
  match rs.find? (fun r => decide (r.base ≤ row) && decide (row < r.base + r.rows * r.n)) with
  | some r => some (r, (row - r.base) / r.rows)
  | none => none

def Core.wBit (c : Core) (row : Nat) : Bool := Store.get false c.w row
def Core.uBit (c : Core) (row : Nat) : Bool := Store.get false c.u row

/-- A slot is filled when the W bits of all its rows are set (R163). -/
def Core.filled (c : Core) (r : RingDecl) (k : Nat) : Bool :=
  (List.range r.rows).all (fun i => c.wBit (r.slotRow k + i))

def Core.ringSt (c : Core) (j : Nat) : RingState := Store.get {} c.su.ring j
def Core.setRing (c : Core) (j : Nat) (x : RingState) : Core :=
  { c with su := { c.su with ring := Store.set {} c.su.ring j x } }

/-- The tail passes every filled slot (R163). -/
def tailFrom (c : Core) (r : RingDecl) (head : Nat) : Nat → Nat → Nat
  | 0, t => t
  | f + 1, t => if t < head + r.n && c.filled r t then tailFrom c r head f (t + 1) else t

def Core.advanceTails (c : Core) (rs : List RingDecl) : Core :=
  rs.foldl (fun c r =>
    let x := c.ringSt r.ix
    c.setRing r.ix { x with tail := tailFrom c r x.head r.n x.tail }) c

/-- The head passes every slot already released (R165). -/
def headFrom (rel : List Nat) : Nat → Nat → Nat
  | 0, h => h
  | f + 1, h => if rel.contains h then headFrom rel f (h + 1) else h

/-- Release slot number `k` of a ring (R165): its W and U bits clear, the head moves when every older slot is released,
and a ring with a remote producer sends it a credit message (R166). -/
def Core.release (c : Core) (r : RingDecl) (k : Nat) : Core :=
  let rows := List.range' (r.slotRow k) r.rows
  let c := { c with w := rows.foldl (fun m i => Store.set false m i false) c.w,
                    u := rows.foldl (fun m i => Store.set false m i false) c.u, progress := true }
  let x := c.ringSt r.ix
  -- the count of this slot: the oldest one not yet released that has this number
  let cnt := x.head + (k + r.n - x.head % r.n) % r.n
  let rel := cnt :: x.rel
  let h := headFrom rel r.n x.head
  let c := c.setRing r.ix { x with head := h, tail := max x.tail h, rel := rel.filter (fun i => decide (h ≤ i)) }
  if r.pcls = 2 then
    { c with su := { c.su with creditMsg := Store.modify 0 c.su.creditMsg r.ix (· + 1) } }
  else c

/-! ## Outcomes of an access -/

/-- What an access answers: a value, a wait (the instruction does not issue), or a fault with its address and space. -/
inductive Res (α : Type) where
  | ok (a : α)
  | wait
  | fault (code addr : Nat) (uni : Bool)
  deriving DecidableEq, Repr

def Res.bind {α β : Type} : Res α → (α → Res β) → Res β
  | .ok a, f => f a
  | .wait, _ => .wait
  | .fault c a u, _ => .fault c a u

/-! ## Scratchpad (R158, R160, R163, R164, R184, R214) -/

/-- Rows that `n` bytes from `a` touch. -/
def rowsOf (a n : Nat) : List Nat := if n = 0 then [] else List.range' (a / 32) ((a + n - 1) / 32 + 1 - a / 32)

/-- 8-byte words that `n` bytes from `a` touch. -/
def wordsOf (a n : Nat) : List Nat := if n = 0 then [] else List.range' (a / 8) ((a + n - 1) / 8 + 1 - a / 8)

/-- Every row of a destination range lies in a declared ring or, where the range meets it, in the write set (R120). -/
def destOk (rs : List RingDecl) (ws : List (Bool × Nat × Nat)) (r : Nat × Nat) : Bool :=
  inWriteSet ws false r.1 r.2 ||
  (rowsOf r.1 r.2).all (fun row =>
    let a := max r.1 (32 * row)
    (ringAt rs row).isSome || inWriteSet ws false a (min (r.1 + r.2) (32 * row + 32) - a))

def Core.padByte (c : Core) (a : Nat) : Byte := Store.get 0#8 c.pad a
def Core.padRead (c : Core) (a n : Nat) : List Byte := (List.range n).map (fun i => c.padByte (a + i))
def Core.padPoisoned (c : Core) (a n : Nat) : Bool := (wordsOf a n).any (fun w => Store.get false c.padPoison w)

/-- Store bytes: the written bits of the rows are set, a covered poisoned word is cleaned and a partly written one stays
poisoned (R214); `poison` says that the data itself is poisoned. -/
def Core.padWrite (c : Core) (a : Nat) (bs : List Byte) (poison : Bool) : Core :=
  let pad := (bs.zipIdx).foldl (fun m x => Store.set 0#8 m (a + x.2) x.1) c.pad
  let w := (rowsOf a bs.length).foldl (fun m i => Store.set false m i true) c.w
  let pp := (wordsOf a bs.length).foldl (fun m i =>
    if poison then Store.set false m i true
    else if a ≤ 8 * i && 8 * i + 8 ≤ a + bs.length then Store.set false m i false
    else m) c.padPoison
  { c with pad := pad, w := w, padPoison := pp }

/-- Who reads a scratchpad. -/
inductive Reader where
  | engine      -- matrix and vector engines
  | control
  | stream      -- a descriptor source
  deriving DecidableEq, Repr

/-- The checks of a scratchpad read over byte ranges: waits on slots that are not filled (R164), then the faults of an
unfetched row (R179), guard mode (R184) and poison (R214), lowest code first (R130). -/
def Core.readCheck (c : Core) (rs : List RingDecl) (guard : Bool) (who : Reader) (ranges : List (Nat × Nat)) :
    Res Unit :=
  let rows := (ranges.map (fun r => rowsOf r.1 r.2)).flatten
  let waits := rows.any (fun row => match ringAt rs row with
    | some (r, k) => !(c.filled r k)
    | none => false)
  if waits then .wait
  else
    match (if who = .engine then rows.find? (fun row => c.uBit row) else none) with
    | some row => .fault 0x0402 (32 * row) false
    | none =>
      match (if guard && who != .stream then
          rows.find? (fun row => (ringAt rs row).isNone && !(c.wBit row)) else none) with
      | some row => .fault 0x0403 (32 * row) false
      | none =>
        match (if who = .stream then none else ranges.find? (fun r => c.padPoisoned r.1 r.2)) with
        | some r => .fault 0x0501 r.1 false
        | none => .ok ()

/-- A write into a ring waits until its slots are drained (R164). -/
def Core.writeWaits (c : Core) (rs : List RingDecl) (ranges : List (Nat × Nat)) : Bool :=
  ((ranges.map (fun r => rowsOf r.1 r.2)).flatten).any (fun row => match ringAt rs row with
    | some (r, k) => c.filled r k
    | none => false)

/-- Apply write runs and let the tails follow. -/
def Core.padRuns (c : Core) (rs : List RingDecl) (runs : List (Nat × List Byte)) (poison : Bool) : Core :=
  let c' : Core := runs.foldl (fun (c : Core) r => c.padWrite r.1 r.2 poison) { c with progress := true }
  c'.advanceTails rs

/-- Join ascending cells into runs of consecutive bytes. -/
def mkRuns (cells : List (Nat × Byte)) : List (Nat × List Byte) :=
  cells.foldr (fun x acc =>
    match acc with
    | (a, bs) :: r => if x.1 + 1 = a then (x.1, x.2 :: bs) :: r else (x.1, [x.2]) :: acc
    | [] => [(x.1, [x.2])]) []

/-- Release every slot of a ring from which the ranges read at least one row (R165). -/
def Core.releaseRead (c : Core) (rs : List RingDecl) (ranges : List (Nat × Nat)) : Core :=
  let slots := (((ranges.map (fun r => rowsOf r.1 r.2)).flatten).filterMap (fun row =>
    match ringAt rs row with
    | some (r, k) => some (r, k)
    | none => none)).eraseDups
  slots.foldl (fun c x => c.release x.1 x.2) c

/-- Guard mode as the loaded image took it (R184). -/
def Dev.guard (d : Dev) (n : Nat) : Bool :=
  match (d.part (d.partOf n)).image with
  | some i => i.guard
  | none => false

/-! ## The unified range (R189, R192, R214) -/

def pageBytes : Nat := 524288
def uniTop : Nat := 2 ^ 41

def Dev.tm (d : Dev) (page : Nat) : TmEntry := Store.get {} d.tiers.map page
def Dev.setTm (d : Dev) (page : Nat) (e : TmEntry) : Dev :=
  { d with tiers := { d.tiers with map := Store.set {} d.tiers.map page e } }

/-- The partition that owns an address (R189). -/
def Dev.addrPart (d : Dev) (a : Nat) : Nat := if d.brd.pcfgMode then a / 2 ^ 39 % 4 else 0

/-- A page is in context c's map for reading (R192). -/
def Dev.mapRead (d : Dev) (c page : Nat) : Bool :=
  let e := d.tm page
  e.valid && e.part == d.partOfCtx c && (e.ctx == c || e.shr)

/-- A page is in context c's map for writing (R192). -/
def Dev.mapWrite (d : Dev) (c page : Nat) : Bool :=
  let e := d.tm page
  e.valid && e.part == d.partOfCtx c && e.ctx == c && !e.ro && !e.shr

/-- Pages that `n` bytes from `a` touch. -/
def pagesOf (a n : Nat) : List Nat :=
  if n = 0 then [] else List.range' (a / pageBytes) ((a + n - 1) / pageBytes + 1 - a / pageBytes)

def Dev.rangeRead (d : Dev) (c a n : Nat) : Bool := (pagesOf a n).all (d.mapRead c)
def Dev.rangeWrite (d : Dev) (c a n : Nat) : Bool := (pagesOf a n).all (d.mapWrite c)

def Dev.memByte (d : Dev) (a : Nat) : Byte := Store.get 0#8 d.mem a
def Dev.memRead (d : Dev) (a n : Nat) : List Byte := (List.range n).map (fun i => d.memByte (a + i))

/-- 64-byte granules that `n` bytes from `a` touch. -/
def granules (a n : Nat) : List Nat := if n = 0 then [] else List.range' (a / 64) ((a + n - 1) / 64 + 1 - a / 64)

/-- The poison granule of an address: 8 bytes in a comb-resident page, 64 elsewhere (R214). -/
def Dev.granule (d : Dev) (a : Nat) : Nat := if (d.tm (a / pageBytes)).dev = 5 then 8 else 64
/-- The 8-byte word of an address reads as poisoned, from memory or from a cached line's own word (R213, R214). -/
def Dev.wordBad (d : Dev) (w : Nat) : Bool := Store.get false d.memPoison w || Store.get false d.tiers.combBad w
def Dev.memPoisoned (d : Dev) (a n : Nat) : Bool := (wordsOf a n).any d.wordBad
/-- Mark words poisoned or clean. -/
def markWords (m : Store Bool) (ws : List Nat) (v : Bool) : Store Bool := ws.foldl (fun m w => Store.set false m w v) m

/-- Store bytes in the unified range, with the poison rules of R214: poisoned data poisons every granule it touches, other data cleans
those that it covers whole; a page on its way has them in both locations (R200). -/
def Dev.memPut (d : Dev) (a : Nat) (bs : List Byte) (poison : Bool) : Dev :=
  let mem := (bs.zipIdx).foldl (fun m x => Store.set 0#8 m (a + x.2) x.1) d.mem
  let g := d.granule a
  let e := a + bs.length
  let lo := if poison then a / g else (a + g - 1) / g
  let hi := if poison then (e + g - 1) / g else e / g
  let ws := if bs.isEmpty then [] else List.range' (lo * (g / 8)) ((hi - lo) * (g / 8))
  { d with mem := mem, memPoison := markWords d.memPoison ws poison,
           tiers := { d.tiers with oldBad := markWords d.tiers.oldBad ws false, newBad := markWords d.tiers.newBad ws false } }

/-! ## The comb (R207 to R209) -/

/-- The line lies in a comb-resident page (R210). -/
def Dev.residentLine (d : Dev) (line : Nat) : Bool := (d.tm (line / 1024)).dev == 5

/-- Slice and set of a line address L = A[40:9] (R207). -/
def Dev.combPlace (d : Dev) (line : Nat) : Nat × Nat :=
  if d.brd.pcfgMode then
    (4 * (line / 2 ^ 30 % 4) + Nat.xor (Nat.xor (line % 4) (line / 4 % 4)) (line / 16 % 4), line / 4 % 1024)
  else (Nat.xor (Nat.xor (line % 16) (line / 16 % 16)) (line / 256 % 16), line / 16 % 1024)

def Dev.combKey (d : Dev) (line : Nat) : Nat := let p := d.combPlace line; 1024 * p.1 + p.2
def Dev.combHas (d : Dev) (line : Nat) : Bool := (Store.get [] d.tiers.comb (d.combKey line)).contains line

/-- Cache ways of a slice: 16 less the resident ways (R210). -/
def Dev.cacheWays (d : Dev) (slice : Nat) : Nat :=
  16 - Store.get 0 d.tiers.ways (if d.brd.pcfgMode then slice / 4 else 0)

/-- The words of a line. -/
def lineWords (line : Nat) : List Nat := List.range' (64 * line) 64

/-- Put a line into the set `k` of `ways` cache ways, or to its front: the lines stand most recent first. A full set gives up a line
that is not its most recent one; which of the others is a free choice, since R208 calls the order pseudo-LRU and does not give it
(notes/assumptions/12). -/
def Tiers.useLine (t : Tiers) (k ways line choice : Nat) : Tiers :=
  let set := Store.get [] t.comb k
  if set.contains line then { t with comb := Store.set [] t.comb k (line :: set.filter (· != line)) }
  else if set.length < ways then { t with comb := Store.set [] t.comb k (line :: set) }
  else
    let out := set[1 + choice % (set.length - 1)]?
    { t with comb := Store.set [] t.comb k (line :: set.filter (fun l => some l != out)),
             combBad := match out with
               | some l => markWords t.combBad (lineWords l) false
               | none => t.combBad }

/-- Allocate a line. -/
def Dev.combAlloc (d : Dev) (line : Nat) : Dev :=
  let k := d.combKey line
  { d with freeIx := d.freeIx + 1, tiers := d.tiers.useLine k (d.cacheWays (k / 1024)) line (Config.freeChoice d.freeIx 16) }

/-- A write that does not pass through the comb invalidates the line (R209). -/
def Dev.combDrop (d : Dev) (a n : Nat) : Dev :=
  (List.range' (a / 512) ((a + n + 511) / 512 - a / 512)).foldl (fun d line =>
    let k := d.combKey line
    { d with tiers := { d.tiers with
        comb := Store.set [] d.tiers.comb k ((Store.get [] d.tiers.comb k).filter (· != line)),
        combBad := if d.tiers.combBad.isEmpty then [] else markWords d.tiers.combBad (lineWords line) false } }) d

/-- The slice that serves a line: of a comb-resident page its granule number gives it (R207, R210). -/
def Dev.combSlice (d : Dev) (line : Nat) : Nat :=
  if d.residentLine line then
    if d.brd.pcfgMode then 4 * (line / 2 ^ 30 % 4) + line % 4 else line % 16
  else (d.combPlace line).1

/-- The comb serves the line: it is cached, or lies in a resident page, which never misses (R210). -/
def Dev.combHit (d : Dev) (line : Nat) : Bool := d.residentLine line || d.combHas line

/-- A hit is counted, and a cached line becomes the most recent of its set (R208). -/
def Dev.combUse (d : Dev) (line : Nat) : Dev :=
  let d := { d with tiers := { d.tiers with combCnt := bump d.tiers.combCnt (4 * d.combSlice line) 1 } }
  if d.residentLine line then d else d.combAlloc line

/-- A fill of a line of the code or of a task table: these lie at addresses that the manual does not give, so that the fill takes no
miss register and its bytes are counted to no device (R208; notes/assumptions/12). -/
def Dev.tableFill (d : Dev) (a : Nat) : Dev :=
  let line := a / 512
  let k := d.combKey line
  let hit := (Store.get [] d.tiers.comb k).contains line
  { d with freeIx := d.freeIx + 1,
           tiers := { d.tiers.useLine k (d.cacheWays (k / 1024)) line (Config.freeChoice d.freeIx 16) with
                      combCnt := bump d.tiers.combCnt (4 * (k / 1024) + b2n (!hit)) 1 } }

/-! ## Accounting (R341) -/

def Dev.acct (d : Dev) (c : Nat) (f : Account → Account) : Dev := d.modCtx c (fun x => { x with acct := f x.acct })

/-- A device leaves power-down or self-refresh for an access (R414). -/
def Dev.wakeDev (d : Dev) (dev : Nat) : Dev :=
  if dev < 4 then if (d.sup dev).pstate = 0 then d else d.modSup dev (fun u => { u with pstate := 0 })
  else if dev = 4 then if d.brd.deepPstate = 0 then d else d.modBrd (fun b => { b with deepPstate := 0 })
  else d

/-- Bytes read from or written to a device, counted to context c. -/
def Dev.countDev (d : Dev) (c dev n : Nat) (write : Bool) : Dev :=
  let d := d.wakeDev dev
  if dev < 4 then d.acct c (fun x => if write then { x with swr := x.swr + n } else { x with srd := x.srd + n })
  else if dev = 4 then
    d.acct c (fun x => if write then { x with dwr := x.dwr + n } else { x with drd := x.drd + n })
  else d

/-- A page is accessed (REF, Table 8-3). -/
def Dev.touch (d : Dev) (a : Nat) : Dev :=
  let page := a / pageBytes
  let e := d.tm page
  if e.valid && !e.ref then d.setTm page { e with ref := true } else d

/-- Bytes read from or written to the device that holds an address, counted to context c; marks the page accessed. -/
def Dev.countMem (d : Dev) (c a n : Nat) (write : Bool) : Dev :=
  (d.touch a).countDev c (d.tm (a / pageBytes)).dev n write

/-- Refill a bucket: `rate` tokens up to its depth (R181). -/
def Bucket.refill (b : Bucket) (rate : Nat) : Bucket := { b with tokens := min (b.tokens + rate) (b.depth * 512) }
def Bucket.full (b : Bucket) : Bucket := { b with tokens := b.depth * 512 }
def Bucket.take (b : Bucket) (n : Nat) : Bucket := { b with tokens := b.tokens - n }

/-- Tokens of the device that holds a page; comb-resident pages have no device bucket. -/
def Dev.devTokens (d : Dev) (dev : Nat) : Option Nat :=
  if dev < 4 then some (d.sup dev).bucket.tokens
  else if dev = 4 then some d.brd.deepBucket.tokens
  else none
def Dev.takeTokens (d : Dev) (dev n : Nat) : Dev :=
  if dev < 4 then d.modSup dev (fun u => { u with bucket := u.bucket.take n })
  else if dev = 4 then d.modBrd (fun b => { b with deepBucket := b.deepBucket.take n })
  else d

/-- The turns at a device's bucket. -/
def Dev.tokens (d : Dev) (dev : Nat) : TokenTurn :=
  if dev < 4 then (d.sup dev).turn else if dev = 4 then d.brd.deepTurn else {}
def Dev.modTokens (d : Dev) (dev : Nat) (f : TokenTurn → TokenTurn) : Dev :=
  if dev < 4 then d.modSup dev (fun u => { u with turn := f u.turn })
  else if dev = 4 then d.modBrd (fun b => { b with deepTurn := f b.deepTurn })
  else d

/-- Core n comes no later than core m in logical-core order from the core after the one served last (R181). -/
def TokenTurn.before (t : TokenTurn) (n m : Nat) : Bool :=
  let rank (k : Nat) : Nat := (k + 2 * nCores - 1 - t.last) % nCores
  decide (rank n ≤ rank m)

/-- Core n has to wait at a device's bucket. -/
def Dev.tokensShort (d : Dev) (dev n : Nat) : Dev :=
  d.modTokens dev (fun t => if t.waiting.contains n then t else { t with waiting := t.waiting ++ [n] })
/-- Core n is served `len` tokens of a device's bucket. -/
def Dev.serveTokens (d : Dev) (dev n len : Nat) : Dev :=
  (d.takeTokens dev len).modTokens dev (fun _ => { last := n, waiting := (d.tokens dev).waiting.erase n })

/-- From thermal stage 1 a super's bucket meters every request to it (R181). -/
def Dev.hot (d : Dev) (dev : Nat) : Bool := decide (dev < 4) && (d.sup dev).stage != 0

/-- A request of `n` bytes that is no forager's: metered from thermal stage 1 of the super it goes to. -/
def Dev.meter (d : Dev) (a n : Nat) : Option Dev :=
  let dev := (d.tm (a / pageBytes)).dev
  if d.hot dev then if (d.sup dev).bucket.tokens < n then none else some (d.takeTokens dev n)
  else some d

/-- An allocating read's line misses: a miss register of its slice is taken, or the fill that is under way is joined; false when
all 256 of the slice are in use (R211), or a hot super grants no tokens (R181). The fill reads the line for context c. -/
def Dev.combMiss (d : Dev) (c line : Nat) : Bool × Dev :=
  let sl := (d.combPlace line).1
  if d.tiers.fills.contains (sl, line) then (true, d)
  else if 256 ≤ (d.tiers.fills.filter (fun f => f.1 == sl)).length then (false, d)
  else match d.meter (512 * line) 512 with
    | none => (false, d)
    | some d =>
      (true, ({ d with tiers := { d.tiers with fills := d.tiers.fills ++ [(sl, line)],
                                               combCnt := bump d.tiers.combCnt (4 * sl + 1) 1 } }).countMem c (512 * line) 512 false)

/-- A stream unit's read of `n` bytes of one line may issue: it hits, or allocates nothing, or finds a miss register (R208, R211). -/
def Dev.streamMay (d : Dev) (a : Nat) : Bool :=
  d.combHit (a / 512) || !((d.tm (a / pageBytes)).comba) || (d.combMiss 0 (a / 512)).1

/-- The same for a descriptor, whose requests to a hot super are metered (R181). -/
def Dev.readMeter (d : Dev) (a n : Nat) : Option Dev :=
  if !(d.streamMay a) then none
  else if d.combHit (a / 512) || (d.tm (a / pageBytes)).comba then some d
  else d.meter a n

/-- A stream unit's read of `n` bytes of one line: from the comb on a hit, which is not counted, through a fill where the page
allocates, else from the device (R208, R341). -/
def Dev.streamRead (d : Dev) (c a n : Nat) : Dev :=
  if d.combHit (a / 512) then (d.combUse (a / 512)).touch a
  else if (d.tm (a / pageBytes)).comba then (d.combMiss c (a / 512)).2
  else
    let sl := (d.combPlace (a / 512)).1
    ({ d with tiers := { d.tiers with combCnt := bump d.tiers.combCnt (4 * sl + 1) 1 } }).countMem c a n false

/-! ## Events and black-box records (R322, R323, R422, R423) -/

/-- The function channel of a code (Table 12-6). -/
def chanOf (code : Nat) : Nat :=
  if code / 256 = 0x0E then 64
  else if code = 0x0902 || code = 0x0705 then 66
  else if code / 256 = 0x0B then 67
  else if code / 256 = 0x0D then 68
  else 65

def idWord (r : Raise) : Nat := r.code * 2 ^ 16 + r.part % 4 * 2 ^ 14 + r.ctx % 32 * 2 ^ 9 + r.lcore % 512

def Dev.tele (d : Dev) (i : Nat) : Nat := (Store.get 0#16 d.brd.telem i).toNat
def Dev.stageBits (d : Dev) : Nat :=
  (d.sup 0).stage % 4 * 64 + (d.sup 1).stage % 4 * 16 + (d.sup 2).stage % 4 * 4 + (d.sup 3).stage % 4
/-- The wall clock as WCL fields carry it: 0 without synchronisation. -/
def Dev.wcl (d : Dev) : Nat := if d.brd.ptpSync then d.brd.wall else 0

/-- Words 3 to 62 of a record (Table 17-6). The µs since module reset are a free value: the model has no clock. -/
def Dev.recordWords (d : Dev) (r : Raise) (upt : Nat) : List Nat :=
  let st := d.partStamp r.part
  let det := (List.range 11).map (fun i => r.detail.getD i 0)
  [d.brd.bootn, upt % 2 ^ 32, upt / 2 ^ 32, d.wcl % 2 ^ 32, d.wcl / 2 ^ 32, idWord r,
   modCode d.brd.state * 2 ^ 24 + d.brd.dieStage % 4 * 2 ^ 22 + d.stageBits * 2 ^ 14 + d.brd.deepStage % 4 * 2 ^ 12,
   st.step, st.phase * 2 ^ 16 + (d.part r.part).epoch, r.w1, r.w2] ++ det ++
  [d.tele 2 * 2 ^ 16 + d.brd.vinMv / 10, d.tele 7 * 2 ^ 16 + d.tele 3,
   (d.sup 1).temp.toNat * 2 ^ 16 + (d.sup 0).temp.toNat, (d.sup 3).temp.toNat * 2 ^ 16 + (d.sup 2).temp.toNat,
   d.tele 8 * 2 ^ 16 + d.tele 4] ++ List.replicate 33 0

/-- Queue a record with its SEQ (R423). -/
def Dev.record (d : Dev) (r : Raise) : Dev :=
  let upt := (Config.free64 d.freeIx).toNat
  let rec' : BbRecord := ⟨d.bb.nextSeq, d.recordWords r upt⟩
  { d with freeIx := d.freeIx + 1, bb := { d.bb with nextSeq := d.bb.nextSeq + 1, queue := d.bb.queue ++ [rec'] } }

/-- The module sends events (R24: it sends nothing in Off, Standby and Tripped). -/
def Dev.sends (d : Dev) : Bool :=
  !(d.brd.state == .off || d.brd.state == .standby || d.brd.state == .tripped)

def evWords (d : Dev) (r : Raise) : List Nat :=
  [idWord r, r.w1, r.w2, d.wcl % 2 ^ 32, d.wcl / 2 ^ 32] ++ (List.range 11).map (fun i => r.detail.getD i 0)

/-- EVADDR of a channel (Table 12-11). -/
def Channel.dst (c : Channel) : Nat :=
  ((List.range 4).map (fun i => Store.get 0 c.addr i * 2 ^ (32 * (3 - i)))).sum

/-- An event message leaves for EVADDR and EVPORT of its channel (R323). -/
def Dev.sendEvent (d : Dev) (ch : Nat) (e : Event) : Dev :=
  let c := d.chan ch
  d.sendCmd c.dst (.event ch e.seq e.code e.words (modCode d.brd.state) e.step e.phase e.epoch (d.ipHdr 1 6 c.dst) c.port)

/-- Put an event on its channel: kept, numbered and sent, or counted in LOST (R323). -/
def Dev.emit (d : Dev) (ch : Nat) (r : Raise) : Dev :=
  let c := d.chan ch
  if c.en && decide (c.unacked.length < 64) && d.sends then
    let st := d.partStamp r.part
    let ep := (d.part r.part).epoch
    let e : Event := ⟨c.next, r.code, evWords d r, st.step, st.phase, ep⟩
    (d.modChan ch (fun c => { c with next := c.next + 1, unacked := c.unacked ++ [e] })).sendEvent ch e
  else d.modChan ch (fun c => { c with lost := min (c.lost + 1) 65535 })

/-- The channel can keep an event again: 0x0903 tells what was lost (R323). -/
def Dev.tellLost (d : Dev) (ch : Nat) : Dev :=
  let c := d.chan ch
  if c.lost != 0 && c.en && decide (c.unacked.length < 64) then
    let r : Raise := { code := 0x0903, chan := some ch, detail := [c.lost, ch] }
    ((d.record r).modChan ch (fun c => { c with lost := 0 })).emit ch r
  else d

def bbDepth : Nat := 16384

/-- A unit raises a code: a record first, then the event; while the record queue is full the unit holds it (R423). -/
def Dev.raise (d : Dev) (r : Raise) : Dev :=
  if bbDepth ≤ d.bb.queue.length then { d with bb := { d.bb with waiting := d.bb.waiting ++ [r] } }
  else
    match r.chan with
    | some ch => (d.record r).emit ch r
    | none => d.record r

/-- An event on the function channel of its code. -/
def Dev.event (d : Dev) (code part ctx lcore : Nat) (detail : List Nat) : Dev :=
  d.raise { code := code, chan := some (chanOf code), part := part, ctx := ctx, lcore := lcore, detail := detail }

/-- A black-box record without an event. -/
def Dev.recordOnly (d : Dev) (code part : Nat) (detail : List Nat) : Dev :=
  d.raise { code := code, chan := none, part := part, detail := detail }

/-- A context fault: reported, and the partition's reset is asked for (R343). -/
def Dev.contextFault (d : Dev) (code part ctx lcore : Nat) (detail : List Nat) : Dev :=
  (d.event code part ctx lcore detail).modPart part (fun x => { x with resetDue := true })

/-- A context fault that also unloads the image (R215, R218). -/
def Dev.unloadFault (d : Dev) (code part ctx : Nat) (detail : List Nat) : Dev :=
  (d.contextFault code part ctx 0x1FF detail).modPart part (fun x => { x with unloadDue := true })

/-! ## Sticky flags by task (R54) -/

def flagsOf (base : BitVec 12) (log : List FlagChg) : BitVec 12 :=
  log.foldl (fun f c => (f &&& ~~~c.clr) ||| c.set) base

def MatrixEngine.flags (m : MatrixEngine) : BitVec 12 := flagsOf m.flagBase m.flagLog
def VectorEngine.flags (v : VectorEngine) : BitVec 12 := flagsOf v.flagBase v.flagLog

def MatrixEngine.addFlags (m : MatrixEngine) (uid : Nat) (f : BitVec 12) : MatrixEngine :=
  if f = 0#12 then m else { m with flagLog := m.flagLog ++ [⟨uid, f, 0#12⟩] }
def VectorEngine.addFlags (v : VectorEngine) (uid : Nat) (f : BitVec 12) : VectorEngine :=
  if f = 0#12 then v else { v with flagLog := v.flagLog ++ [⟨uid, f, 0#12⟩] }

/-! ## Tasks on a core (R121 to R126) -/

/-- Task runs that are speculative: all but the first. -/
def Core.specUids (c : Core) : List Nat := (c.tasks.drop 1).map (·.uid)

/-- Engine entries of an uncapped task, or of a capped one whose buffer still drains, are held (R124, R125). -/
def Core.heldEntry (c : Core) (uid : Nat) : Bool :=
  c.specUids.contains uid || c.wbuf.any (fun e => e.uid == uid)

/-- Which unit a matrix instruction goes to: 1 array, 2 drainer, 3 aligner (Table 3-8). -/
def mxUnit (w0 : Nat) : Nat := bits w0 7 0

/-- A push enters an engine queue behind the entries of its own and of earlier tasks and before the held ones of later tasks:
the queue keeps program order, so that no result depends on how far speculation ran (R67, R124, R134;
notes/assumptions/55). -/
def pushInOrder {α : Type} (uid : α → Nat) (q : List α) (o : α) : List α :=
  q.filter (fun e => decide (uid e ≤ uid o)) ++ o :: q.filter (fun e => decide (uid o < uid e))

/-- Dispatch in queue order into free waiting slots (R67). -/
def Core.dispatchN : Nat → Core → Core
  | 0, c => c
  | f + 1, c =>
    match c.mx.queue with
    | [] => c
    | o :: rest =>
      if c.heldEntry o.uid then c
      else
        match mxUnit o.w0 with
        | 1 => if c.mx.array.isNone then
            dispatchN f { c with mx := { c.mx with queue := rest, array := some o } } else c
        | 2 => if c.mx.drainer.isNone then
            dispatchN f { c with mx := { c.mx with queue := rest, drainer := some o } } else c
        | 3 => if c.mx.aligner.isNone then
            dispatchN f { c with mx := { c.mx with queue := rest, aligner := some o } } else c
        | _ => c

def Core.dispatch (c : Core) : Core := Core.dispatchN 8 c

def keepOp (uids : List Nat) (o : Option MatOp) : Option MatOp :=
  match o with
  | some x => if uids.contains x.uid then none else some x
  | none => none

/-- Remove what discarded tasks left in the buffer and the engine queues (R126). -/
def Core.dropHeld (c : Core) (uids : List Nat) : Core :=
  { c with wbuf := c.wbuf.filter (fun e => !(uids.contains e.uid)),
           mx := { c.mx with queue := c.mx.queue.filter (fun o => !(uids.contains o.uid)) },
           vx := { c.vx with queue := c.vx.queue.filter (fun o => !(uids.contains o.uid)) } }

/-- Discard every speculative task (R126); TDISC counts them. -/
def Core.discardSpec (c : Core) : Core :=
  let uids := c.specUids
  { c.dropHeld uids with tasks := c.tasks.take 1, counters := bump c.counters 7 uids.length }

/-- A descriptor or its shadow of this task is still at work. -/
def sdBusy (m : Store (Option SDesc)) (uid : Nat) : Bool :=
  m.any (fun x => match x.2 with
    | some s => s.uid == uid
    | none => false)

/-- Every engine and stream write that the task issued is complete (R121). -/
def Core.writesDone (c : Core) (uid : Nat) : Bool :=
  !(c.wbuf.any (fun e => e.uid == uid)) && !(c.mx.queue.any (fun o => o.uid == uid)) &&
  !((c.mx.array.map (·.uid)) == some uid) && !((c.mx.drainer.map (·.uid)) == some uid) &&
  !((c.mx.aligner.map (·.uid)) == some uid) && !(c.vx.queue.any (fun o => o.uid == uid)) &&
  !(sdBusy c.su.desc uid) && !(sdBusy c.su.shadow uid)

/-- Fold what settled tasks left into the base of the sticky flags, oldest first. -/
def foldFlags (live : List Nat) : BitVec 12 → List FlagChg → BitVec 12 × List FlagChg
  | b, [] => (b, [])
  | b, c :: r => if live.contains c.uid then (b, c :: r) else foldFlags live ((b &&& ~~~c.clr) ||| c.set) r

/-- Forget ended tasks that have settled (R121). -/
def Core.settle (c : Core) : Core :=
  let ret := c.retired.filter (fun t => !(c.writesDone t.1))
  let live := ret.map (·.1) ++ c.tasks.map (·.uid)
  let m := foldFlags live c.mx.flagBase c.mx.flagLog
  let v := foldFlags live c.vx.flagBase c.vx.flagLog
  { c with retired := ret, mx := { c.mx with flagBase := m.1, flagLog := m.2 },
           vx := { c.vx with flagBase := v.1, flagLog := v.2,
                             wrote := c.vx.wrote.filter (fun w => live.contains w.1) } }

/-- Registers, masks and mailbox entries that a task wrote are undefined after its abort (R107): free values. The conversion control
counts as registers. -/
def scramble (ix : Nat) (v : VectorEngine) (uid : Nat) (regs : List Nat) : VectorEngine :=
  let mail := (v.mailbox.zipIdx).map (fun x => if v.mailOf[x.2]? = some uid then Config.free32 (ix + 10000 + x.2) else x.1)
  regs.foldl (fun v r =>
    if r < 32 then
      { v with v := (List.range 256).foldl (fun m l =>
          Store.set 0#32 m (256 * r + l) (Config.free32 (ix + 256 * r + l))) v.v }
    else if r < 40 then
      let w := (List.range 16).foldl (fun a k => a * 2 ^ 32 + (Config.free32 (ix + 8192 + 16 * r + k)).toNat) 0
      { v with m := Store.set 0#512 v.m (r - 32) (BitVec.ofNat 512 w) }
    else if r = 40 then
      { v with sid := (Config.free32 (ix + 10010)).setWidth 12, sq := (Config.free32 (ix + 10011)).setWidth 8 }
    else { v with idx0 := Config.free32 (ix + 10012) }) { v with mailbox := mail }

/-! ## Taking a fault (R129, R130, R185) -/

/-- Write the fault record, or count a later fault in LOST (R130). -/
def Core.recordFault (c : Core) (fi : FaultInfo) : Core :=
  match c.frec with
  | none => { c with frec := some fi }
  | some _ => { c with lost := min (c.lost + 1) 255 }

/-- The stream unit stops a task's descriptors, drops their shadows and those that the task armed, and closes its windows; the layer
schedule's windows are the capped task's (R177, R185). -/
def StreamUnit.stopTask (s : StreamUnit) (uid : Nat) (capped : Bool) : StreamUnit :=
  let mine (i : Nat) : Bool := match Store.get none s.desc i with
    | some sd => sd.uid == uid
    | none => false
  { s with
    desc := s.desc.filterMap (fun x => match x.2 with
      | some sd => if sd.uid == uid then
          (if sd.inflight = 0 then none else some (x.1, some { sd with stopped := true })) else some x
      | none => some x),
    shadow := s.shadow.filter (fun x => match x.2 with
      | some sd => !(sd.uid == uid || mine x.1)
      | none => true),
    win := s.win.filter (fun x => match x.2 with
      | some w => (match w.owner with
        | some o => !(o.1 == uid)
        | none => !capped)
      | none => true) }

/-- The bank with every valid bit clear (R83). -/
def Bank.invalidate (b : Bank) : Bank :=
  { b with ent := b.ent.filterMap (fun x =>
      let e : AccEntry := { x.2 with valid := false }
      if e = {} then none else some (x.1, e)) }

/-- An aborted task's MMAs that had not yet added their last contribution end, and the banks they target have their valid bits
cleared (R83). The array works in order; how many of the last ones are still in it is a free choice (notes/assumptions/143). -/
def MatrixEngine.abortArray (m : MatrixEngine) (uid choice : Nat) : MatrixEngine :=
  let still := (m.inArray.drop (choice % (m.inArray.length + 1))).filter (fun x => x.1 == uid)
  { m with bankA := if still.any (·.2.1) then m.bankA.invalidate else m.bankA,
           bankB := if still.any (·.2.2) then m.bankB.invalidate else m.bankB, inArray := [] }

/-- What an abort does on the core (R83, R107, R129): it idles, the aborted task's unissued work is dropped, the sticky flags
go back to what the other tasks left, and the fault is recorded. What a later task has already changed stays
(notes/assumptions/144). `ix` names the free values of undefined registers. -/
def Core.abort (c : Core) (uid : Nat) (fi : FaultInfo) (ix : Nat) : Core :=
  let c : Core := (c.discardSpec.recordFault fi).dropHeld [uid]
  let regs := (c.vx.wrote.filter (fun w => w.1 == uid)).map (·.2)
  let arr := keepOp [uid] c.mx.array
  let mx := c.mx.abortArray uid (Config.freeChoice (ix + 10020) (c.mx.inArray.length + 1))
  let c' : Core := { c with
    tasks := [], startNext := none, endl := true, atom := none,
    retired := c.retired ++ (c.tasks.filter (fun t => !(t.uid == uid))).map (fun t => (t.uid, t.tid)),
    mx := { mx with array := arr, drainer := keepOp [uid] c.mx.drainer, aligner := keepOp [uid] c.mx.aligner,
                    shadow := if arr.isNone then none else c.mx.shadow,
                    reload := if arr.isNone then none else c.mx.reload,
                    flagLog := c.mx.flagLog.filter (fun f => !(f.uid == uid)) },
    vx := scramble ix { c.vx with flagLog := c.vx.flagLog.filter (fun f => !(f.uid == uid)) } uid regs,
    su := c.su.stopTask uid ((c.tasks.head?.map (·.uid)) == some uid) }
  c'.dispatch.settle

/-- A switch waits: the engines and the stream unit of core n issue nothing (R186, R336). -/
def Dev.quiesced (d : Dev) (n : Nat) : Bool := (d.part (d.partOf n)).quiesce

/-- An engine of core n issues, unless a switch waits. -/
def State.onEngine (s : State) (n : Nat) (f : Dev → Dev) : Out := s.onCore n (fun d => if d.quiesced n then d else f d)

/-- A fault of Table 5-9 on core n: the abort, the event, and the context fault it becomes (R129, R343). -/
def Dev.abort (d : Dev) (n uid : Nat) (fi : FaultInfo) : Dev :=
  let p := d.partOf n
  let d1 := (d.modCore n (fun c => c.abort uid fi d.freeIx))
  let d2 := { d1 with freeIx := d1.freeIx + 11000, tiers := { d1.tiers with atomics := d1.tiers.atomics.filter (· != n) } }
  d2.contextFault fi.code p (d.ctxOf n) n []

/-- A fault of Table 7-12 (R187): recorded on the core, no task aborted. -/
def Dev.coreContextFault (d : Dev) (n : Nat) (fi : FaultInfo) : Dev :=
  (d.modCore n (fun c => c.recordFault fi)).contextFault fi.code (d.partOf n) (d.ctxOf n) n []

/-! ## Writes into the unified range (R180, R209) -/

/-- First byte of a window's chunk `k` (R178): every chunk of an open window lies in its partition (R330). -/
def winChunk (w : Window) (k : Nat) : Nat := ((w.base : Int) + (k : Int) * signed 32 (w.img.getD 2 0)).toNat

def winCount (w : Window) : Nat := w.img.getD 3 0
def winRingIx (w : Window) : Nat := bits (w.img.getD 1 0) 13 9

/-- A window's chunk has been fetched into its slot, and that slot has been released. -/
def StreamUnit.chunkReleased (s : StreamUnit) (w : Window) (k : Nat) : Bool :=
  let x := Store.get {} s.ring (winRingIx w)
  decide (k < w.chunk) && (decide (w.slot + k < x.head) || x.rel.contains (w.slot + k))

/-- A window stays open until its last chunk is released (R178). -/
def StreamUnit.winLive (s : StreamUnit) (w : Window) : Bool := !(s.chunkReleased w (winCount w - 1))

/-- The open windows. -/
def StreamUnit.live (s : StreamUnit) : List (Nat × Window) :=
  s.win.filterMap (fun x => match x.2 with
    | some w => if s.winLive w then some (x.1, w) else none
    | none => none)

/-- The chunks of a window, of `sz` bytes, that `n` bytes from `a` can meet. -/
def winMeets (w : Window) (sz a n : Nat) : List Nat :=
  let st := signed 32 (w.img.getD 2 0)
  if st = 0 then [winCount w - 1]
  else
    -- chunk k meets the bytes when base + k * st lies in (a - sz, a + n)
    let lo : Int := (a : Int) - sz + 1 - w.base
    let hi : Int := (a : Int) + n - 1 - w.base
    let k0 := if 0 < st then -((-lo) / st) else -(hi / (-st))
    let k1 := if 0 < st then hi / st else (-lo) / (-st)
    let f := k0.toNat
    if k1 < 0 then [] else List.range' f (min (k1.toNat + 1) (winCount w) - f)

/-- The first byte of a write that hits an open window's chunks not yet released (R180). -/
def StreamUnit.winHit (s : StreamUnit) (w : Window) (sz a n : Nat) : Option Nat :=
  match ((winMeets w sz a n).filter (fun k =>
      let b := winChunk w k
      decide (a < b + sz) && decide (b < a + n) && !(s.chunkReleased w k))).map (fun k => max a (winChunk w k)) with
  | x :: r => some (r.foldl min x)
  | [] => none

/-- The owner of a window: the task that opened it, or the capped task (R177). -/
def Core.winOwner (c : Core) (w : Window) : Nat × Nat :=
  match w.owner with
  | some o => o
  | none => match c.tasks with
    | t :: _ => (t.uid, t.tid)
    | [] => (0, 0)

/-- The windows of a core that a write hits: owner, offset of the WOPEN, first byte hit; the older owner first (R130). -/
def Core.staleHits (k : Core) (rings : List Byte) (a n : Nat) : List ((Nat × Nat) × Nat × Nat) :=
  let hits := k.su.live.filterMap (fun y =>
    match ringDecl rings (winRingIx y.2) with
    | none => none
    | some r => (k.su.winHit y.2 r.slotBytes a n).map (fun hit => (k.winOwner y.2, y.2.pc, hit)))
  hits.foldl (fun l x =>
    l.takeWhile (fun y => decide (y.1.1 ≤ x.1.1)) ++ x :: l.dropWhile (fun y => decide (y.1.1 ≤ x.1.1))) []

/-- A task of a context that is out of the engines is aborted: its saved core changes, the logical core records the fault (R130,
R180, R334). -/
def Dev.abortSaved (d : Dev) (c n uid : Nat) (fi : FaultInfo) : Dev :=
  let d := d.modCtx c (fun x => { x with saved := Store.modify {} x.saved n (fun k => k.abort uid fi d.freeIx) })
  let d := { d.modCore n (fun k => k.recordFault fi) with freeIx := d.freeIx + 11000 }
  d.contextFault fi.code (d.partOf n) c n []

/-- The stale-prefetch fault 0x0404 for every open window of the partition that the write hits, those of contexts that are out of
the engines too (R180). -/
def Dev.staleCheck (d : Dev) (p a n : Nat) : Dev :=
  let e := d.cores.foldl (fun e x =>
    if d.partOf x.1 == p then
      (x.2.staleHits (d.coreSec x.1 3) a n).foldl (fun e y => e.abort x.1 y.1.1 ⟨0x0404, true, y.1.2, y.2.1, y.2.2, true⟩) e
    else e) d
  d.ctxs.foldl (fun e c =>
    if d.partOfCtx c.1 == p then
      c.2.saved.foldl (fun e x =>
        (x.2.staleHits (d.imgSec p 3 c.1 (x.1 - d.partBase p)) a n).foldl (fun e y =>
          e.abortSaved c.1 x.1 y.1.1 ⟨0x0404, true, y.1.2, y.2.1, y.2.2, true⟩) e) e
    else e) e

/-- A write by a unit of the module that counts to no context: memory, the comb's copy, the windows it hits (R180, R209). -/
def Dev.unitWrite (d : Dev) (p a : Nat) (bs : List Byte) (poison : Bool) : Dev :=
  ((d.memPut a bs poison).combDrop a bs.length).staleCheck p a bs.length

/-- A write into the unified range from any source of a partition: memory, the comb's copy, the windows it hits.
`c` is the context it is counted to. -/
def Dev.uniWrite (d : Dev) (p c a : Nat) (bs : List Byte) (poison : Bool) : Dev :=
  (((d.memPut a bs poison).combDrop a bs.length).countMem c a bs.length true).staleCheck p a bs.length

/-- A write that passes through the comb: its copy of the line is updated and stays (R209); a word of it that is covered whole
is clean again. -/
def Dev.uniWriteThrough (d : Dev) (p c a : Nat) (bs : List Byte) (poison : Bool) : Dev :=
  let d := d.memPut a bs poison
  let ws := List.range' ((a + 7) / 8) ((a + bs.length) / 8 - (a + 7) / 8)
  let d := { d with tiers := { d.tiers with combBad := if d.tiers.combBad.isEmpty then [] else markWords d.tiers.combBad ws false } }
  (d.countMem c a bs.length true).staleCheck p a bs.length

end Sys2Proof.Machine
end

