-- ==== Sys2Proof/Machine/Operands.lean ====
section
/-! DEFINITION. Operand forms: the fields of matrix, vector and stream words, and where an operand lies in scratchpad. -/

namespace Sys2Proof.Machine
open Sys2Proof

/-! ## MMA (Table 3-9); addresses in 32-byte units become byte addresses -/

def mmaCols (o : MatOp) : Nat := bits o.w0 29 23 + 1
def mmaRows (o : MatOp) : Nat := bits o.w0 22 16 + 1
def mmaNeg (o : MatOp) : Bool := bit o.w0 15
def mmaDual (o : MatOp) : Bool := bit o.w0 14
def mmaBank (o : MatOp) : Bool := bit o.w0 13
def mmaAcc (o : MatOp) : Bool := bit o.w0 12
def mmaMode (o : MatOp) : Nat := bits o.w0 9 8
def mmaE (o : MatOp) : Int := signed 10 (bits o.w1 31 22)
def mmaPsh (o : MatOp) : Int := signed 6 (bits o.w1 21 16)
def mmaEmsk (o : MatOp) : Bool := bit o.w1 15
def mmaRmsk (o : MatOp) : Bool := bit o.w1 14
def mmaSh (o : MatOp) : Nat := bits o.w1 13 7
def mmaM (o : MatOp) : Nat := bits o.w1 6 0 + 1
def mmaX (o : MatOp) : Nat := 32 * bits o.w2 27 14
def mmaH (o : MatOp) : Nat := 32 * bits o.w2 13 0
def mmaXrel (o : MatOp) : Bool := bit o.w3 29
def mmaHrel (o : MatOp) : Bool := bit o.w3 28
def mmaXstride (o : MatOp) : Nat := 32 * bits o.w3 27 14
def mmaMask (o : MatOp) : Nat := 32 * bits o.w3 13 0

/-- Elements per cell row: two in PL4 (Table 3-1). -/
def mmaPer (o : MatOp) : Nat := if mmaMode o = 0 then 2 else 1
/-- Reduction elements of the instruction. -/
def mmaK (o : MatOp) : Nat := mmaRows o * mmaPer o
/-- Cell rows of one group of a held tile (R62). -/
def mmaSpan (o : MatOp) : Nat := if mmaMode o = 0 then 16 else 32
/-- Bytes of a side block of a held tile (Table 3-4). -/
def mmaSide (o : MatOp) : Nat :=
  match mmaMode o with
  | 2 => 0
  | 3 => 768
  | _ => 128
/-- Bytes of the held tile (R62). -/
def mmaHeldBytes (o : MatOp) : Nat := ceilDiv (mmaRows o) (mmaSpan o) * mmaSide o + mmaRows o * 128

/-- Where a streamed element lies: the byte of its code, the byte of its block's scale (or its unit exponent), and the
byte and bit of its sign. Row m, element k (R61, R63, R72). -/
structure XPlace where
  code : Nat
  scale : Nat
  sign : Nat
  deriving DecidableEq, Repr

/-- Where element k of streamed row m lies. With row shift the elements go on inside a unit where ROWS_e is no multiple of 32
(notes/assumptions/139). -/
def mmaPlace (o : MatOp) (m k : Nat) : XPlace :=
  let pl4 := mmaMode o == 0
  let sub (base j blk : Nat) : XPlace :=
    ⟨base + 32 + (if pl4 then j / 2 else j), (if mmaMode o = 3 then base + 16 + 2 * blk else base + blk), base + j / 8⟩
  if mmaSh o = 0 then sub (mmaX o + m * mmaXstride o) k (k / 32)
  else
    let g := m * (mmaSh o * mmaPer o) + k
    sub (mmaX o + g / 32 * mmaXstride o) (g % 32) 0

/-- Byte ranges of streamed row m that are consumed: codes, then the side bytes the mode reads (Table 3-3). Of a 160-byte row
only the bytes of the ROWS active elements count (notes/assumptions/140). -/
def mmaRowRanges (o : MatOp) (m : Nat) : List (Nat × Nat) :=
  if mmaSh o = 0 then
    let base := mmaX o + m * mmaXstride o
    let k := mmaK o
    let codes := (base + 32, if mmaMode o = 0 then (k + 1) / 2 else k)
    match mmaMode o with
    | 2 => [codes]
    | 3 => [(base, ceilDiv k 8), (base + 16, 2 * ceilDiv k 32), codes]
    | _ => [(base, ceilDiv k 32), codes]
  else
    let first := if m = 0 then 0 else (mmaK o + (m - 1) * (mmaSh o * mmaPer o)) / 32
    let last := (mmaK o + m * (mmaSh o * mmaPer o) + 31) / 32
    ((List.range' first (last - first)).map (fun u =>
      let base := mmaX o + u * mmaXstride o
      match mmaMode o with
      | 0 => [(base, 1), (base + 32, 16)]
      | 1 => [(base, 1), (base + 32, 32)]
      | 2 => [(base + 32, 32)]
      | _ => [(base, 4), (base + 16, 2), (base + 32, 32)])).flatten

/-- The masks of an MMA in scratchpad (R73, R74). -/
def mmaMaskRanges (o : MatOp) : List (Nat × Nat) :=
  (if mmaRmsk o then [(mmaMask o, 16)] else []) ++
  (if mmaEmsk o then [(mmaMask o + 32, 32 * mmaM o)] else [])

/-- Streamed row m is masked (R73). -/
def mmaRowMasked (c : Core) (o : MatOp) (m : Nat) : Bool :=
  mmaRmsk o && !(bit (c.padByte (mmaMask o + m / 8)).toNat (m % 8))

/-- Everything the array reads while it streams, masked rows left out where no row shifts (R73). -/
def mmaStreamRanges (c : Core) (o : MatOp) : List (Nat × Nat) :=
  ((List.range (mmaM o)).map (fun m =>
    if mmaSh o = 0 && mmaRowMasked c o m then [] else mmaRowRanges o m)).flatten

/-- All streamed bytes, masked rows included: what has to be in scratchpad at issue (R68), and what XREL releases
(notes/assumptions/141). -/
def mmaAllRanges (o : MatOp) : List (Nat × Nat) := ((List.range (mmaM o)).map (mmaRowRanges o)).flatten

/-- The streamed rows or unit records whole, as R61 and R63 lay them out: what the loader bounds (R80). -/
def mmaRecords (o : MatOp) : List (Nat × Nat) :=
  if mmaSh o = 0 then (List.range (mmaM o)).map (fun m => (mmaX o + m * mmaXstride o, 160))
  else (List.range ((mmaK o + (mmaM o - 1) * (mmaSh o * mmaPer o) + 31) / 32)).map (fun u => (mmaX o + u * mmaXstride o, 64))

/-- Whether the accumulation class of an instruction is I8 (R58). -/
def mmaI8 (o : MatOp) : Bool := mmaMode o == 2

/-- The banks an MMA adds into: A, B. -/
def mmaBanks (o : MatOp) : Bool × Bool := (mmaDual o || !mmaBank o, mmaDual o || mmaBank o)

/-! ## MDRAIN (Table 3-10) -/

def mdCols (o : MatOp) : Nat := bits o.w0 31 25 + 1
def mdM (o : MatOp) : Nat := bits o.w0 24 18 + 1
def mdZf (o : MatOp) : Bool := bit o.w0 17
def mdAscl (o : MatOp) : Bool := bit o.w0 16
def mdBank (o : MatOp) : Bool := bit o.w0 15
def mdRnd (o : MatOp) : Nat := bits o.w0 13 12
def mdFmt (o : MatOp) : Nat := bits o.w0 11 8
def mdSid (o : MatOp) : Nat := bits o.w1 27 16
def mdQ (o : MatOp) : Int := signed 8 (bits o.w1 15 8)
def mdScale (o : MatOp) : Nat := bits o.w1 7 0
def mdStride (o : MatOp) : Nat := 32 * bits o.w2 27 14
def mdAddr (o : MatOp) : Nat := 32 * bits o.w2 13 0
def mdIdx (o : MatOp) : Nat := o.w3
def mdPL (o : MatOp) : Bool := decide (mdFmt o ≤ 1)

/-- Bytes of one element of a packed destination format (Table 2-8). -/
def fmtBytes (f : Nat) : Nat :=
  match f with
  | 2 => 1 | 3 => 2 | 5 => 2 | 4 => 4 | 6 => 4 | 8 => 4 | 7 => 8 | 9 => 8 | _ => 1

/-- Bytes of one destination row. -/
def mdRowBytes (o : MatOp) : Nat :=
  if mdPL o then 32 + (if mdFmt o = 0 then mdCols o / 2 else mdCols o) else mdCols o * fmtBytes (mdFmt o)

/-- Destination rows of a drain. -/
def mdRanges (o : MatOp) : List (Nat × Nat) :=
  (List.range (mdM o)).map (fun m => (mdAddr o + m * mdStride o, mdRowBytes o))

/-! ## MALIGN (Table 3-11) -/

def maN (o : MatOp) : Nat := bits o.w0 26 20 + 1
def maRows (o : MatOp) : Nat := bits o.w0 19 13 + 1
def maHeld (o : MatOp) : Bool := bit o.w0 12
def maFp32 (o : MatOp) : Bool := bits o.w0 11 8 == 4
def maSstride (o : MatOp) : Nat := 32 * bits o.w1 27 14
def maSrc (o : MatOp) : Nat := 32 * bits o.w1 13 0
def maPstride (o : MatOp) : Nat := 32 * bits o.w2 27 14
def maDst (o : MatOp) : Nat := 32 * bits o.w2 13 0
def maPlanes (o : MatOp) : Nat := if maFp32 o then 3 else 2

def maSrcRanges (o : MatOp) : List (Nat × Nat) :=
  (List.range (maRows o)).map (fun r => (maSrc o + r * maSstride o, maN o * (if maFp32 o then 4 else 2)))

/-- Bytes of one plane (R76). -/
def maPlaneBytes (o : MatOp) : Nat :=
  if maHeld o then ceilDiv (maRows o) 32 * 768 + maRows o * 128 else maRows o * 160

def maDstRanges (o : MatOp) : List (Nat × Nat) :=
  (List.range (maPlanes o)).map (fun p => (maDst o + p * maPstride o, maPlaneBytes o))

/-- Byte ranges meet. -/
def rangesMeet (a b : List (Nat × Nat)) : Bool :=
  a.any (fun x => b.any (fun y => decide (x.1 < y.1 + y.2) && decide (y.1 < x.1 + x.2)))

/-- What a matrix instruction reads and writes in scratchpad, and which banks it uses. -/
def mxReads (o : MatOp) : List (Nat × Nat) :=
  match mxUnit o.w0 with
  | 1 => (mmaH o, mmaHeldBytes o) :: (mmaMaskRanges o ++ mmaAllRanges o)
  | 3 => maSrcRanges o
  | _ => []

def mxWrites (o : MatOp) : List (Nat × Nat) :=
  match mxUnit o.w0 with
  | 2 => mdRanges o
  | 3 => maDstRanges o
  | _ => []

/-- What a waiting instruction still has to read: of an MMA whose held tile is in the shadow hold, no longer the tile (R69, R70). -/
def MatrixEngine.stillReads (m : MatrixEngine) (o : MatOp) : List (Nat × Nat) :=
  if mxUnit o.w0 = 1 && (m.shadow.isSome || m.reload.isSome) then mmaMaskRanges o ++ mmaAllRanges o else mxReads o

def mxBanks (o : MatOp) : Bool × Bool :=
  match mxUnit o.w0 with
  | 1 => mmaBanks o
  | 2 => (!mdBank o, mdBank o)
  | _ => (false, false)

/-! ## Vector words (Tables 4-5 to 4-7) -/

def vOp (o : VecOp) : Nat := bits o.w0 6 0
def vMk (o : VecOp) : Nat := bits o.w0 31 29
def vPk (o : VecOp) : Bool := bit o.w0 28
def vVC (o : VecOp) : Nat := bits o.w0 27 23
def vVB (o : VecOp) : Nat := bits o.w0 22 18
def vVA (o : VecOp) : Nat := bits o.w0 17 13
def vVD (o : VecOp) : Nat := bits o.w0 12 8
def vBimm (o : VecOp) : Bool := bit o.w0 7

def lsPk (o : VecOp) : Bool := bit o.w0 27
def lsRel (o : VecOp) : Bool := bit o.w0 26
def lsMk (o : VecOp) : Nat := bits o.w0 25 23
def lsRnd (o : VecOp) : Nat := bits o.w0 22 21
def lsSmode (o : VecOp) : Nat := bits o.w0 20 19
def lsHeld (o : VecOp) : Bool := bit o.w0 18
def lsVC (o : VecOp) : Nat := bits o.w0 17 13
def lsV (o : VecOp) : Nat := bits o.w0 12 8
def lsFmt (o : VecOp) : Nat := bits o.w1 31 28
def lsStride (o : VecOp) : Nat := 32 * bits o.w1 27 14
def lsAddr (o : VecOp) : Nat := 32 * bits o.w1 13 0

/-- Bytes that one half of a load or store moves (Table 4-2), by format and mode; PL8 in packed mode moves two rows. -/
def lsHalfBytes (fmt : Nat) (pk held : Bool) : Nat :=
  match fmt with
  | 4 => 512 | 8 => 512
  | 3 => if pk then 512 else 256
  | 2 => 128
  | 1 => if held then 128 else if pk then 320 else 160
  | 0 => 160
  | 5 => 256
  | _ => 512

/-- The byte ranges of a VLD or VST (R93): PL4 in FP32 mode moves one row at ADDR. -/
def lsRanges (o : VecOp) : List (Nat × Nat) :=
  let n := lsHalfBytes (lsFmt o) (lsPk o) (lsHeld o)
  if lsFmt o = 0 && !lsPk o then [(lsAddr o, n)] else [(lsAddr o, n), (lsAddr o + lsStride o, n)]

/-- The byte ranges of a VLDB or VSTB (R96). -/
def lsByteRanges (o : VecOp) : List (Nat × Nat) := [(lsAddr o, 128), (lsAddr o + lsStride o, 128)]

/-! ## Stream descriptors (Table 7-5) and windows (Table 7-9) -/

def sdW (img : List Nat) (i : Nat) : Nat := img.getD i 0
def sdKind (i : List Nat) : Nat := bits (sdW i 0) 31 28
def sdSched (i : List Nat) : Bool := bit (sdW i 0) 27
def sdSring (i : List Nat) : Bool := bit (sdW i 0) 26
def sdDring (i : List Nat) : Bool := bit (sdW i 0) 25
def sdSrid (i : List Nat) : Nat := bits (sdW i 0) 24 20
def sdDrid (i : List Nat) : Nat := bits (sdW i 0) 19 15
def sdCsem (i : List Nat) : Nat := bits (sdW i 0) 14 9
def sdCsen (i : List Nat) : Bool := bit (sdW i 0) 8
def sdTesz (i : List Nat) : Nat := bits (sdW i 0) 7 6
def sdCscnt (i : List Nat) : Nat := bits (sdW i 0) 5 0 + 1
def sdSuni (i : List Nat) : Bool := bit (sdW i 2) 31
def sdScore (i : List Nat) : Nat := bits (sdW i 2) 30 22
def sdSaddr (i : List Nat) : Nat := sdW i 1 + 2 ^ 32 * bits (sdW i 2) 8 0
def sdDuni (i : List Nat) : Bool := bit (sdW i 4) 31
def sdDcore (i : List Nat) : Nat := bits (sdW i 4) 30 22
def sdDaddr (i : List Nat) : Nat := sdW i 3 + 2 ^ 32 * bits (sdW i 4) 8 0
def sdRun (i : List Nat) : Nat := bits (sdW i 5) 31 16 + 1
def sdRows (i : List Nat) : Nat := bits (sdW i 5) 15 0 + 1
def sdSstr (i : List Nat) : Int := signed 32 (sdW i 6)
def sdDstr (i : List Nat) : Int := signed 32 (sdW i 7)

/-- Address `i` rows of stride after a start. -/
def strided (base : Nat) (stride : Int) (i : Nat) : Int := (base : Int) + (i : Int) * stride

/-- Bytes that a descriptor moves. -/
def sdTotal (i : List Nat) : Nat := sdRun i * sdRows i

def winVreq (i : List Nat) : Bool := bit (sdW i 1) 31
def winRing (i : List Nat) : Nat := bits (sdW i 1) 13 9
def winBase (i : List Nat) : Nat := sdW i 0 + 2 ^ 32 * bits (sdW i 1) 8 0
def winChunks (i : List Nat) : Nat := sdW i 3
def winVersion (i : List Nat) : Nat := sdW i 4

end Sys2Proof.Machine
end

