-- ==== Sys2Proof/Machine/Flags.lean ====
section
/-! DEFINITION. Every flag and status word: conversion and arithmetic flags as the engines keep them (R54, Tables 3-12 and
4-8), the control status object (Table 5-10) and the stream status (Table 7-13). -/

namespace Sys2Proof.Machine
open Sys2Proof

/-- Conversion flags of Table 2-11 as the low byte of a numeric status word. -/
def convFlags (f : Flags) : BitVec 12 := f.setWidth 12
/-- Arithmetic flags as bits [11:8] of the vector status word (Table 4-8). -/
def arithFlags (f : AFlags) : BitVec 12 := (f.setWidth 12) <<< 8

def Bank.anyValid (b : Bank) : Bool := b.ent.any (fun x => x.2.valid)
def Bank.anyLock (b : Bank) : Bool := b.ent.any (fun x => x.2.lock)

/-- Instructions in the queue and in the units (Table 3-12). -/
def MatrixEngine.busy (m : MatrixEngine) : Bool :=
  !m.queue.isEmpty || m.array.isSome || m.drainer.isSome || m.aligner.isSome

/-- What the status words show: entries of a task that is still speculative are not in the queue yet, so that a status never
depends on how far speculation ran (R134). -/
def Core.shownMx (c : Core) : MatrixEngine :=
  let spec := c.specUids
  { c.mx with queue := c.mx.queue.filter (fun o => !(spec.contains o.uid)) }
def Core.shownVx (c : Core) : VectorEngine :=
  let spec := c.specUids
  { c.vx with queue := c.vx.queue.filter (fun o => !(spec.contains o.uid)) }

/-- The matrix status word (Table 3-12). -/
def MatrixEngine.status (m : MatrixEngine) : Nat :=
  b2n m.busy * 2 ^ 19 + b2n m.bankB.anyValid * 2 ^ 18 + b2n m.bankA.anyValid * 2 ^ 17 +
  b2n (m.bankA.anyLock || m.bankB.anyLock) * 2 ^ 16 + m.queue.length * 2 ^ 8 + m.flags.toNat % 256

/-- The vector status word (Table 4-8). -/
def VectorEngine.status (v : VectorEngine) : Nat :=
  v.mailbox.length * 2 ^ 21 + v.queue.length * 2 ^ 16 + b2n (!v.queue.isEmpty) * 2 ^ 15 + v.flags.toNat

/-- Clear the w1c bits named, on behalf of a task or of the host (uid 0). -/
def MatrixEngine.clear (m : MatrixEngine) (uid bitsSet : Nat) : MatrixEngine :=
  { m with flagLog := m.flagLog ++ [⟨uid, 0#12, BitVec.ofNat 12 (bitsSet % 32)⟩] }
def VectorEngine.clear (v : VectorEngine) (uid bitsSet : Nat) : VectorEngine :=
  { v with flagLog := v.flagLog ++ [⟨uid, 0#12, BitVec.ofNat 12 (bitsSet % 4096 / 256 * 256 + bitsSet % 32)⟩] }

/-- The control status object (Table 5-10). -/
def Core.status (c : Core) : Nat :=
  (match c.tasks with | t :: _ => t.tid | [] => 0xFFFF) * 2 ^ 16 + b2n c.endl * 2 ^ 15 + b2n c.frec.isSome * 2 ^ 14 +
  b2n (match c.tasks with | t :: _ => t.bwait.isSome | [] => false) * 2 ^ 13 + (c.tasks.length - 1) * 2 ^ 11 +
  c.wbuf.length

/-- The fault record's five words (Table 5-11). -/
def Core.faultWord (c : Core) (i : Nat) : Nat :=
  match c.frec with
  | none => if i = 1 then c.lost * 2 ^ 8 else 0
  | some f =>
    match i with
    | 1 => f.code * 2 ^ 16 + c.lost * 2 ^ 8 + b2n f.eng * 2 + 1
    | 2 => f.tid * 2 ^ 16
    | 3 => f.pc % 2 ^ 32
    | 4 => f.addr % 2 ^ 32
    | _ => b2n f.spc * 2 ^ 31 + f.addr / 2 ^ 32 % 512

/-- Tags in use: of requests in flight, and those that contexts which are out keep (R301, R336). -/
def StreamUnit.tags (s : StreamUnit) : Nat := (s.req.filter (fun r => !r.light)).length + s.parked.length
def StreamUnit.lights (s : StreamUnit) : Nat := (s.req.filter (fun r => r.light)).length

/-- The stream status (Table 7-13). -/
def StreamUnit.status (s : StreamUnit) : Nat :=
  s.tags * 2 ^ 25 + s.lights * 2 ^ 22 + s.desc.length * 2 ^ 16 + s.live.length * 2 ^ 10 + b2n s.blkd * 2 ^ 9 + s.blkn % 512

/-- Slots of a ring that are filled (Table 7-15). -/
def Core.nfill (c : Core) (r : RingDecl) : Nat := ((List.range r.n).filter (fun k => c.filled r k)).length

end Sys2Proof.Machine
end

