-- ==== Sys2Proof/Machine/Tables.lean ====
section
/-! DEFINITION. The image's tables as the module reads them in service: slice table and status records (chapter 10), block table
(chapter 9), phase table (chapter 6), channel table (chapter 11), semaphores (chapter 7). -/

namespace Sys2Proof.Machine
open Sys2Proof

/-! ## Slice table (Tables 10-1, 10-2, 12-15) -/

def slN (t : List Byte) : Nat := wordAt t 0
def slNrset (t : List Byte) : Nat := bits (wordAt t 4) 31 16
def slNmprog (t : List Byte) : Nat := bits (wordAt t 4) 15 0
def slStbase (t : List Byte) : Nat := wordAt t 8 + 2 ^ 32 * bits (wordAt t 12) 8 0
/-- Word w of descriptor i. -/
def slW (t : List Byte) (i w : Nat) : Nat := wordAt t (16 + 64 * i + 4 * w)
def slSlid (t : List Byte) (i : Nat) : Nat := slW t i 0
def slOwn (t : List Byte) (i : Nat) : Bool := bit (slW t i 1) 31
def slRep (t : List Byte) (i : Nat) : Bool := bit (slW t i 1) 30
def slG32 (t : List Byte) (i : Nat) : Bool := bit (slW t i 1) 29
def slClip (t : List Byte) (i : Nat) : Bool := bit (slW t i 1) 28
def slSup (t : List Byte) (i : Nat) : Nat := bits (slW t i 1) 27 26
def slGrp (t : List Byte) (i : Nat) : Nat := bits (slW t i 1) 25 22
def slSlot (t : List Byte) (i : Nat) : Nat := bits (slW t i 1) 21 11
def slEcnt (t : List Byte) (i : Nat) : Nat := slW t i 2
def slOph (t : List Byte) (i : Nat) : Nat := bits (slW t i 3) 31 16
def slCph (t : List Byte) (i : Nat) : Nat := bits (slW t i 3) 15 0
def slOrank (t : List Byte) (i : Nat) : Nat := bits (slW t i 4) 31 16
def slQ (t : List Byte) (i : Nat) : Int := signed 8 (bits (slW t i 4) 15 8)
def slOidx (t : List Byte) (i : Nat) : Nat := slW t i 5
def slState (t : List Byte) (i : Nat) : Nat := slW t i 6 + 2 ^ 32 * bits (slW t i 7) 8 0
def slRow (t : List Byte) (i : Nat) : Nat := slW t i 8 + 2 ^ 32 * bits (slW t i 9) 8 0
def slBlk (t : List Byte) (i : Nat) : Nat := bits (slW t i 9) 31 24
def slNrow (t : List Byte) (i : Nat) : Nat := bits (slW t i 9) 23 19 + 1
def slNcol (t : List Byte) (i : Nat) : Nat := bits (slW t i 9) 18 12 + 1
def slQidx (t : List Byte) (i : Nat) : Nat := bits (slW t i 9) 11 10
def slCol (t : List Byte) (i : Nat) : Nat := slW t i 10 + 2 ^ 32 * bits (slW t i 11) 8 0
def slSpill (t : List Byte) (i : Nat) : Nat := slW t i 12 + 2 ^ 32 * bits (slW t i 13) 8 0
def slRset (t : List Byte) (i : Nat) : Nat := bits (slW t i 14) 31 16

/-- Group entry g, word w (Table 10-5). -/
def grpW (t : List Byte) (g w : Nat) : Nat := wordAt t (16 + 64 * slN t + 16 * g + 4 * w)
def grpOpt (t : List Byte) (g : Nat) : Nat := bits (grpW t g 0) 31 29
def grpMprog (t : List Byte) (g : Nat) : Nat := bits (grpW t g 0) 28 24
def grpGnorm (t : List Byte) (g : Nat) : Bool := bit (grpW t g 0) 23
def grpNmom (t : List Byte) (g : Nat) : Nat :=
  match grpOpt t g with
  | 0 => 0
  | 1 => 1
  | 2 => 1
  | 3 => 2
  | _ => bits (grpW t g 0) 17 16
def grpNq (t : List Byte) (g : Nat) : Nat := bits (grpW t g 0) 15 8
def grpNork (t : List Byte) (g : Nat) : Nat := bits (grpW t g 1) 31 16
def grpNmod (t : List Byte) (g : Nat) : Nat := bits (grpW t g 1) 15 0 + 1

/-- Ranks of replica set k (Table 12-15). -/
def rsetRanks (t : List Byte) (k : Nat) : List Nat :=
  let base := 16 + 64 * slN t + 256 + 128 * k
  (List.range (leAt t base 2)).map (fun i => leAt t (base + 2 + 2 * i) 2)

/-- Word j of microprogram p. -/
def mprogWord (t : List Byte) (p j : Nat) : Nat := wordAt t (16 + 64 * slN t + 256 + 128 * slNrset t + 128 * p + 4 * j)

/-- Bytes of one buffer of the state region (R245). -/
def stateBytes (t : List Byte) (i : Nat) : Nat := (1 + grpNmom t (slGrp t i)) * 16384

/-- Bytes of a slice on the wire (R244). -/
def slWire (t : List Byte) (i : Nat) : Nat := if slG32 t i then 16384 else 8192

/-- The bytes of a slice's columns in its column-order tile, whose four groups are a side block of 128 bytes and 32 code rows of 128
bytes each (R235, R244): the scale bytes of side blocks 0 to 3 in turn, then the bytes of code rows 0 to 127 in turn, as R263 lists
them (notes/assumptions/20). -/
def colPieces (base q : Nat) : List (Nat × Nat) :=
  (List.range 4).map (fun g => (base + 4224 * g + 32 * q, 32)) ++
  (List.range 128).map (fun r => (base + 4224 * (r / 32) + 128 + 128 * (r % 32) + 32 * q, 32))

/-- Index of the owned or held slice with this SLID. -/
def slFind (t : List Byte) (slid : Nat) : Option Nat := (List.range (slN t)).find? (fun i => slSlid t i == slid)

/-! ## Block table (Tables 9-1, 9-2) -/

def bkMbd (t : List Byte) : Nat := bits (wordAt t 0) 27 18 + 1
def bkSpm (t : List Byte) : Nat := bits (wordAt t 0) 17 8 + 1
def bkNb (t : List Byte) : Nat := bits (wordAt t 0) 7 0 + 1
def bkMaxlen (t : List Byte) : Nat := bits (wordAt t 4) 23 0
def bkSbase (t : List Byte) : Nat := bits (wordAt t 8) 21 0 * pageBytes
def bkQuota (t : List Byte) : Nat := bits (wordAt t 12) 21 0
def bkCbase (t : List Byte) : Nat := bits (wordAt t 16) 21 0 * pageBytes
def bkW (t : List Byte) (b w : Nat) : Nat := wordAt t (32 + 16 * b + 4 * w)
def bkAnchor (t : List Byte) (b : Nat) : Bool := bit (bkW t b 0) 31
def bkBwb (t : List Byte) (b : Nat) : Nat := 32 * bits (bkW t b 0) 23 0
def bkWbase (t : List Byte) (b : Nat) : Nat := bits (bkW t b 1) 21 0 * pageBytes
def bkWbytes (t : List Byte) (b : Nat) : Nat := bits (bkW t b 2) 21 0 * pageBytes
/-- The offset from a copy in buffer 0 to the same copy in buffer 1: half the block's segment (R264). -/
def bkHalf (t : List Byte) (b : Nat) : Nat := bkWbytes t b / 2

/-! ## Slice status records (Table 10-2) -/

def Dev.stAddr (_d : Dev) (t : List Byte) (i : Nat) : Nat := slStbase t + 16 * i
def Dev.stWord (d : Dev) (t : List Byte) (i w : Nat) : Nat := leNat (d.memRead (d.stAddr t i + 4 * w) 4)
/-- Version a lies below version v. 0xFFFF_FFFF stands for the version before 0: a slice that has none yet
(notes/assumptions/48). -/
def verBefore (a v : Nat) : Bool := decide ((a + 1) % 2 ^ 32 ≤ v)

def Dev.slVn (d : Dev) (t : List Byte) (i : Nat) : Nat := d.stWord t i 0
def Dev.slOldv (d : Dev) (t : List Byte) (i : Nat) : Bool := bit (d.stWord t i 1) 31
def Dev.slAdj (d : Dev) (t : List Byte) (i buf : Nat) : Int := signed 8 (d.stWord t i 1 / 2 ^ (8 * buf))
def Dev.slCstep (d : Dev) (t : List Byte) (i : Nat) : Nat := d.stWord t i 2

/-- The module writes a status record: the comb's copy goes, and an open window that covers the record is hit (R180, R209). -/
def Dev.statWrite (d : Dev) (a : Nat) (bs : List Byte) : Dev := d.unitWrite (d.tm (a / pageBytes)).part a bs false

/-- Write a slice's status record: VN, OLDV, ADJ of both buffers, CSTEP. -/
def Dev.setStatus (d : Dev) (t : List Byte) (i vn : Nat) (oldv : Bool) (adj0 adj1 : Int) (cstep : Nat) : Dev :=
  d.statWrite (d.stAddr t i)
    (toLe 4 vn ++ toLe 4 (b2n oldv * 2 ^ 31 + unsigned 8 adj1 * 256 + unsigned 8 adj0) ++ toLe 4 cstep ++ toLe 4 0)

def Dev.setAdj (d : Dev) (t : List Byte) (i buf : Nat) (a : Int) : Dev :=
  d.statWrite (d.stAddr t i + 4 + buf) (toLe 1 (unsigned 8 a))
def Dev.setCstep (d : Dev) (t : List Byte) (i s : Nat) : Dev := d.statWrite (d.stAddr t i + 8) (toLe 4 s)

/-- cap(s) has been taken; a job that starts at step 0 has capped 0xFFFF_FFFF, the step before it (notes/assumptions/111). -/
def Partition.cappedTo (x : Partition) (s : Nat) : Bool := s == x.capped || !(verBefore x.capped s)

/-- The contexts of a partition's image. -/
def Dev.imgCtxs (d : Dev) (p : Nat) : List Nat :=
  match (d.part p).image with
  | some i => (List.range nCtxs).filter (fun c => bit (i.hdr 5) c)
  | none => []

/-- The slice table of a context. -/
def Dev.sliceTab (d : Dev) (c : Nat) : List Byte := d.imgSec (d.partOfCtx c) 0x0A c 0
/-- The block table of a context. -/
def Dev.blockTab (d : Dev) (c : Nat) : List Byte := d.imgSec (d.partOfCtx c) 0x09 c 0
/-- The phase table of a partition's image: the lengths of its phases (Table 6-4). -/
def Dev.phases (d : Dev) (p : Nat) : List Nat :=
  let t := d.imgSec p 0x06 0 0
  (List.range (t.length / 4)).map (fun i => wordAt t (4 * i) % 65536)

/-- The owned slices of a partition: context and local index. -/
def Dev.ownedSlices (d : Dev) (p : Nat) : List (Nat × Nat) :=
  ((d.imgCtxs p).map (fun c =>
    ((List.range (slN (d.sliceTab c))).filter (slOwn (d.sliceTab c))).map (fun i => (c, i)))).flatten

/-! ## Semaphores (Table 7-4) -/

/-- The counter that entry `i` of core `n` names: its core and entry. -/
def Dev.semTarget (d : Dev) (n i : Nat) : Nat × Nat :=
  let w := wordAt (d.coreSec n 4) (4 * i)
  (bits w 31 23, bits w 22 17)

/-! ## Channel table (Table 11-6) -/

/-- The valid entries of one direction (0 send, 1 receive), with their index in the table. -/
def Dev.chanEntries (d : Dev) (p dir : Nat) : List (Nat × List Nat) :=
  let t := d.imgSec p 0x0B 0 0
  (List.range (t.length / 32)).filterMap (fun i =>
    let e := (List.range 8).map (fun w => wordAt t (32 * i + 4 * w))
    if bit (e.getD 0 0) 0 && b2n (bit (e.getD 0 0) 3) == dir then some (i, e) else none)

def ceW (e : List Nat) (i : Nat) : Nat := e.getD i 0
def cePeer (e : List Nat) : Nat := bits (ceW e 0) 31 16
def ceChan (e : List Nat) : Nat := bits (ceW e 0) 15 4
def ceNet (e : List Nat) : Nat := bits (ceW e 0) 2 2
def ceFovok (e : List Nat) : Bool := bit (ceW e 0) 1
def ceCls (e : List Nat) : Nat := bits (ceW e 1) 31 28
def ceDest (e : List Nat) : Nat := bits (ceW e 1) 27 24
def ceCtx (e : List Nat) : Nat := bits (ceW e 1) 23 19
def ceMinc (e : List Nat) : Nat := bits (ceW e 1) 15 0
def ceBase (e : List Nat) : Nat := ceW e 2 + 2 ^ 32 * bits (ceW e 3) 8 0
def ceDcore (e : List Nat) : Nat := bits (ceW e 2) 31 23
def ceDrid (e : List Nat) : Nat := bits (ceW e 2) 22 18
def ceSlots (e : List Nat) : Nat := bits (ceW e 3) 31 28 + 1
def ceWph (e : List Nat) : Nat := bits (ceW e 3) 27 12
def ceSlotb (e : List Nat) : Nat := ceW e 4
def ceEbytes (e : List Nat) : Nat := ceW e 5
def ceCcore (e : List Nat) : Nat := bits (ceW e 6) 31 23
def ceCsem (e : List Nat) : Nat := bits (ceW e 6) 22 17
def ceCsen (e : List Nat) : Bool := bit (ceW e 6) 16

end Sys2Proof.Machine
end

