-- ==== Sys2Proof/Machine/MemoryTiers.lean ====
section
/-! DEFINITION. The memory tiers (chapter 8): page moves, the pin ledger, the layer schedule's actions on pages, comb fills and
atomics, patrol scrub, row repair, page retirement and tier-map errors. -/

namespace Sys2Proof.Machine
open Sys2Proof

/-- The 64 bits of a tier-map entry (Table 8-3). -/
def TmEntry.word (e : TmEntry) : Nat :=
  b2n e.valid * 2 ^ 63 + e.part % 4 * 2 ^ 61 + e.ctx % 32 * 2 ^ 56 + b2n e.shr * 2 ^ 55 + b2n e.ro * 2 ^ 54 +
  b2n e.nopf * 2 ^ 53 + b2n e.comba * 2 ^ 52 + e.hint % 8 * 2 ^ 49 + e.mst % 4 * 2 ^ 47 + e.pin % 64 * 2 ^ 41 +
  e.dev % 8 * 2 ^ 38 + b2n e.ref * 2 ^ 37 + b2n e.rtd * 2 ^ 36 + b2n e.pfpr * 2 ^ 35 + e.supx % 4 * 2 ^ 32 +
  e.ppn % 2 ^ 21

/-- First page and number of pages of a device that a partition may use (R189, R190). -/
def Dev.poolRange (d : Dev) (p dev : Nat) : Nat × Nat :=
  if dev < 4 then (0, if dev < Config.nSupers then Config.superPages else 0)
  else if dev = 4 then
    if d.brd.pcfgMode then (Config.deepShare * p, Config.deepShare) else (0, Config.deepPages)
  else
    let w := Store.get 0 d.tiers.ways p
    if d.brd.pcfgMode then (1024 * p, 4 * w) else (0, 16 * w)

/-- The first page not in use at or after a place in the pool, cyclically. -/
def freeFrom (used : List Nat) (base n : Nat) : Nat → Nat → Option Nat
  | 0, _ => none
  | f + 1, k => if used.contains (base + k % n) then freeFrom used base n f (k + 1) else some (base + k % n)

/-- Pages of the staging area of a load session: the highest of the partition's deep share (R326). -/
def stagingPages : Nat := 512

/-- Pages of a pool that are used, retired, or reserved for an open load session. -/
def Dev.takenPages (d : Dev) (p dev : Nat) : List Nat :=
  let r := d.poolRange p dev
  let l := ((d.tiers.used ++ d.tiers.retired).filter (fun x => x.1 == dev && decide (r.1 ≤ x.2) && decide (x.2 < r.1 + r.2))).map (·.2)
  if dev = 4 && (d.part p).load.isSome then
    l ++ (List.range' (r.1 + r.2 - stagingPages) stagingPages).filter (fun page => !(l.contains page))
  else l

def Dev.freeCount (d : Dev) (p dev : Nat) : Nat := (d.poolRange p dev).2 - (d.takenPages p dev).length

/-- A free page of a device; which one the pool gives is a free choice (notes/assumptions/14). -/
def Dev.freePage (d : Dev) (p dev : Nat) : Option Nat × Dev :=
  let r := d.poolRange p dev
  let taken := d.takenPages p dev
  if r.2 ≤ taken.length then (none, d)
  else
    let x := d.freshChoice r.2
    (freeFrom taken r.1 r.2 (taken.length + 1) x.1, x.2)

def Tiers.count (t : Tiers) (i : Nat) : Tiers := { t with cnt := bump t.cnt i 1 }

/-! ## The migration queue (R199, R202) -/

def moveQueueDepth : Nat := 256

/-- Queue a move of a page that the hints let move (R194); retirement moves go ahead of all others. -/
def Dev.queueMove (d : Dev) (m : Move) : Dev :=
  let e := d.tm m.page
  if !e.valid then d
  else if m.retire then d.modTiers (fun t => { t with queue := m :: t.queue })
  else if (e.hint == 3 || e.hint == 4) && !m.back then d
  else d.modTiers (fun t => { t with queue := t.queue ++ [m] })

def Dev.moveSpace (d : Dev) : Bool := decide (d.tiers.queue.length < moveQueueDepth)

/-- PROMOTE of one page by context c (R196, R204): a page that already lies there needs no move, one on its way waits in the queue
(R194, R202). -/
def Dev.promotePage (d : Dev) (c tgt page : Nat) : Dev :=
  let held := (d.ctx c).pins.contains page
  if !held && decide (4096 ≤ (d.ctx c).pins.length) then d.modTiers (fun t => t.count 18)
  else
    let e := d.tm page
    let d := if held then d
      else (d.modCtx c (fun x => { x with pins := x.pins ++ [page] })).setTm page { e with pin := e.pin + 1 }
    if e.dev = tgt && e.mst = 0 then d else d.queueMove { page := page, dev := tgt, ctx := some c }

/-- DEMOTE of one page by context c (R205). -/
def Dev.demotePage (d : Dev) (c page : Nat) : Dev :=
  let e := d.tm page
  if (d.ctx c).pins.contains page then
    let d := (d.modCtx c (fun x => { x with pins := x.pins.erase page })).setTm page { e with pin := e.pin - 1 }
    if e.pin ≤ 1 then d.queueMove { page := page, dev := 4, ctx := some c } else d.modTiers (fun t => t.count 19)
  else if e.pin = 0 then d.queueMove { page := page, dev := 4, ctx := some c }
  else d.modTiers (fun t => t.count 19)

/-- Pages one after another while the queue has space; answers how many are left. -/
def pagesWhile (f : Dev → Nat → Dev) : Nat → Nat → Dev → Nat × Dev
  | 0, _, d => (0, d)
  | n + 1, page, d => if d.moveSpace then pagesWhile f n (page + 1) (f d page) else (n + 1, d)

/-- The head of a resident context's due schedule entries, when it is of this action (R198). -/
def Dev.dueHead (d : Dev) (c act : Nat) : Option (List Nat) :=
  if (d.part (d.partOfCtx c)).resident == some c then
    match (d.ctx c).due with
    | e :: _ => if bits (e.getD 1 0) 31 28 = act then some e else none
    | [] => none
  else none

def entPage (e : List Nat) : Nat := bits (e.getD 2 0) 21 0
def entCount (e : List Nat) : Nat := bits (e.getD 3 0) 15 0 + 1

/-- The head entry is done, or its last `left` pages are still to come and wait for queue space (R198). -/
def Dev.dueStep (d : Dev) (c : Nat) (e : List Nat) (left : Nat) : Dev :=
  let rest := [e.getD 0 0, e.getD 1 0, entPage e + (entCount e - left), left - 1]
  d.modCtx c (fun x => { x with due := (if left = 0 then x.due.drop 1 else rest :: x.due.drop 1),
                                waitq := x.waitq || left != 0 })

def Dev.runPages (d : Dev) (c act : Nat) (f : Dev → Nat → Dev) : Dev :=
  match d.dueHead c act with
  | none => d
  | some e =>
    let x := pagesWhile f (entCount e) (entPage e) d
    x.2.dueStep c e x.1

/-- PROMOTE of the layer schedule table (R196, R204). -/
def execPromote (ctx : Nat) (s : State) : Out :=
  s.onUnit (decide (ctx < nCtxs)) (fun d =>
    match d.dueHead ctx 1 with
    | none => d
    | some e => d.runPages ctx 1 (fun d page => d.promotePage ctx (bits (e.getD 1 0) 9 8) page))

/-- DEMOTE of the layer schedule table (R196, R205). -/
def execDemote (ctx : Nat) (s : State) : Out :=
  s.onUnit (decide (ctx < nCtxs)) (fun d => d.runPages ctx 2 (fun d page => d.demotePage ctx page))

/-- An allocating read of a line by context c: served now on a hit; on a miss its fill is asked for (R208, R211). -/
def Dev.combLine (d : Dev) (c line : Nat) : Bool × Bool × Dev :=
  if d.combHit line then (true, true, (d.combUse line).touch (512 * line))
  else let x := d.combMiss c line; (false, x.1, x.2)

/-- Lines read into the comb one after another, as far as miss registers are free; answers how many are left. -/
def combLines (c : Nat) : Nat → Nat → Dev → Nat × Dev
  | 0, _, d => (0, d)
  | n + 1, line, d =>
    let x := d.combLine c line
    if x.2.1 then combLines c n (line + 1) x.2.2 else (n + 1, x.2.2)

/-- COMBW of the layer schedule table (R196): every line of its pages is asked for; while no miss register is free the rest waits
at the head of the table (R211). A fifth word of the waiting entry counts the lines already read. -/
def execCombw (ctx : Nat) (s : State) : Out :=
  s.onUnit (decide (ctx < nCtxs)) (fun d =>
    match d.dueHead ctx 4 with
    | none => d
    | some e =>
      let all := 1024 * entCount e
      let x := combLines ctx (all - e.getD 4 0) (1024 * entPage e + e.getD 4 0) d
      let rest := if x.1 = 0 then [] else [e.take 4 ++ [all - x.1]]
      x.2.modCtx ctx (fun k => { k with due := rest ++ k.due.drop 1 }))

/-! ## Moves (R199 to R203, R217, R218) -/

/-- Insert a page of a super by its physical number. -/
def insertPpn (x : Nat × TmEntry) : List (Nat × TmEntry) → List (Nat × TmEntry)
  | [] => [x]
  | y :: r => if x.2.ppn ≤ y.2.ppn then x :: y :: r else y :: insertPpn x r

/-- The pages of a super in sweep order, from its clock hand on. -/
def Dev.sweepOrder (d : Dev) (x : Nat) : List (Nat × TmEntry) :=
  let l := (d.tiers.map.filter (fun e => e.2.valid && e.2.dev == x)).foldr insertPpn []
  let hand := Store.get 0 d.tiers.sweep x
  l.filter (fun e => decide (hand ≤ e.2.ppn)) ++ l.filter (fun e => decide (e.2.ppn < hand))

/-- A page that may be evicted for space (R203). -/
def TmEntry.movable (e : TmEntry) : Bool := decide (e.hint ≤ 1) && e.pin == 0 && e.mst == 0

/-- The clock sweep: pages passed over, and the victim (R203). -/
def sweepFor (useRef : Bool) : List (Nat × TmEntry) → List Nat × Option (Nat × TmEntry)
  | [] => ([], none)
  | e :: r =>
    if e.2.movable && !(useRef && e.2.ref) then ([], some e)
    else let x := sweepFor useRef r; (e.1 :: x.1, x.2)

def Dev.clearRefs (d : Dev) (pages : List Nat) : Dev :=
  pages.foldl (fun d p => d.setTm p { d.tm p with ref := false }) d

/-- The victim that makes room in super x, with REF cleared on the pages the hand passes (R203). -/
def Dev.victim (d : Dev) (x : Nat) : Option Nat × Dev :=
  let l := d.sweepOrder x
  let a := sweepFor true l
  match a.2 with
  | some v => (some v.1, (d.clearRefs a.1).modTiers (fun t => { t with sweep := Store.set 0 t.sweep x (v.2.ppn + 1) }))
  | none =>
    let d := d.clearRefs a.1
    match (sweepFor false l).2 with
    | some v => (some v.1, d.modTiers (fun t => { t with sweep := Store.set 0 t.sweep x (v.2.ppn + 1) }))
    | none => (none, d)

def Dev.freeChannel (d : Dev) : Option Nat :=
  (List.range d.tiers.chn).find? (fun c => !(d.tiers.runs.any (fun r => r.ch == c)))

/-- A channel starts to copy a page (R199, R200). Where a hot super's bucket meters the move, no byte of it is granted yet. -/
def Dev.startRun (d : Dev) (ch page dev ppn : Nat) (retire back : Bool) (ctx : Option Nat) : Dev :=
  let left := if d.hot dev || d.hot (d.tm page).dev then some pageBytes else none
  (d.setTm page { d.tm page with mst := 1 }).modTiers (fun t =>
    { t with used := (dev, ppn) :: t.used, runs := t.runs ++ [{ ch := ch, page := page, dev := dev, ppn := ppn,
                                                                 retire := retire, back := back, left := left, ctx := ctx }] })

def Dev.setRun (d : Dev) (r : MoveRun) : Dev :=
  d.modTiers (fun t => { t with runs := t.runs.map (fun q => if q.ch = r.ch then r else q) })

/-- How many granules of 512 bytes a move has copied: the module has no cycle clock here, so this is a free choice between what was
known before and what the bucket has granted (R199, R200; notes/assumptions/150). -/
def Dev.cursorOf (d : Dev) (r : MoveRun) : Nat × Dev :=
  if r.copied then (1024, d)
  else
    let top := match r.left with
      | some l => (pageBytes - l) / 512
      | none => 1024
    let x := d.freshChoice (top - r.cursor + 1)
    (r.cursor + x.1, x.2.setRun { r with cursor := r.cursor + x.1 })

/-- The bucket of a hot super meters a move to or from it (R199): every 16 cycles it grants what it holds, at most CRATE of it. -/
def Dev.meterRun (d : Dev) (r : MoveRun) : Dev :=
  let src := (d.tm r.page).dev
  let hot := [src, r.dev].filter d.hot
  if r.copied || hot.isEmpty then d
  else
    let y := match r.left with
      | some l => (l, d)
      | none => let x := d.cursorOf r; (pageBytes - 512 * x.1, x.2)
    let n := hot.foldl (fun n x => min n (d.sup x).bucket.tokens) (min y.1 (16 * d.tiers.crate / 3))
    (hot.foldl (fun d x => d.takeTokens x n) y.2).modTiers (fun t =>
      { t with runs := t.runs.map (fun q => if q.ch = r.ch then { q with left := some (y.1 - n) } else q) })

def Dev.meterRuns (d : Dev) : Dev := d.tiers.runs.foldl (fun d r => d.meterRun r) d

/-! ### Poison of a page on its way (R200, R214) -/

def pageWords : Nat := 65536
/-- The words of a unified page that are poisoned. -/
def Dev.badWords (d : Dev) (page : Nat) : List Nat :=
  (d.memPoison.filter (fun x => x.1 / pageWords == page && x.2)).map (·.1)
/-- The word of a physical page that holds word `w` of its unified page. -/
def physWord (dev ppn w : Nat) : Nat := 2 ^ 40 * dev + ppn * pageWords + w % pageWords
/-- The poison of a page stays in the physical page that it leaves. -/
def Dev.keepPhys (d : Dev) (page dev ppn : Nat) : Dev :=
  d.modTiers (fun t => { t with physBad := markWords t.physBad ((d.badWords page).map (physWord dev ppn)) true })
/-- A physical page takes a unified page: what it held before is overwritten. -/
def Tiers.clearPhys (t : Tiers) (dev ppn : Nat) : Tiers :=
  { t with physBad := t.physBad.filter (fun x => !(x.1 / pageWords == (2 ^ 40 / pageWords) * dev + ppn)) }

/-! ### The old page of a flip (R201, R217) -/

/-- A request reads or writes a page. -/
def Request.uses (q : Request) (page : Nat) : Bool :=
  q.src == some page || q.runs.any (fun r => match r.1 with
    | .mem a => a / pageBytes == page
    | _ => false)

/-- A physical page is left: it goes back to its free pool, or, when it is being retired, to the retired list with the event 0x0505
(R201, R217). -/
def Dev.freePhys (d : Dev) (part ctx dev ppn : Nat) : Dev :=
  let d := d.modTiers (fun t => { t with used := t.used.erase (dev, ppn) })
  if d.tiers.retireDue.contains (dev, ppn) then
    (d.modTiers (fun t => { t with
      retired := (dev, ppn) :: t.retired, retireDue := t.retireDue.erase (dev, ppn),
      rowBad := t.rowBad.filter (fun r => !(r.1 == dev && r.2.2 == ppn)) })).event 0x0505 part ctx 0x1FF []
  else d

/-- Old pages whose last request has completed are free. -/
def Dev.settleLeaving (d : Dev) : Dev :=
  d.tiers.leaving.foldl (fun d l =>
    let reqs := l.reqs.filter (fun x => (d.core x.1).su.req.any (fun q => q.tag == x.2.1 && q.light == x.2.2))
    let fills := l.fills.filter d.tiers.fills.contains
    if reqs.isEmpty && fills.isEmpty then
      (d.modTiers (fun t => { t with leaving := t.leaving.erase l })).freePhys l.part l.ctx l.dev l.ppn
    else d.modTiers (fun t => { t with leaving := t.leaving.map (fun q =>
      if q = l then { l with reqs := reqs, fills := fills } else q) })) d

/-- A page leaves a physical page at a flip: requests issued before complete there. -/
def Dev.leavePage (d : Dev) (page part ctx dev ppn : Nat) : Dev :=
  let reqs := (d.cores.map (fun x => (x.2.su.req.filter (fun q => q.uses page)).map (fun q => (x.1, q.tag, q.light)))).flatten
  let fills := d.tiers.fills.filter (fun x => x.2 / 1024 == page)
  (d.modTiers (fun t => { t with leaving := t.leaving ++ [⟨dev, ppn, part, ctx, reqs, fills⟩] })).settleLeaving

def Dev.dropMove (d : Dev) (m : Move) : Dev := d.modTiers (fun t => { t with queue := t.queue.erase m })

/-- A retired fixed page finds no room (R218), or a retired page finds no deep page (R217): capacity loss. -/
def Dev.capacityLoss (d : Dev) (page : Nat) : Dev :=
  let e := d.tm page
  d.unloadFault 0x0506 e.part e.ctx []

/-- One move from the queue: it starts, it is dropped, or its victim starts (R202, R203, R205, R218). -/
def Dev.tryMove (d : Dev) (ch : Nat) (m : Move) : Dev :=
  let e := d.tm m.page
  let p := d.addrPart (m.page * pageBytes)
  if !e.valid || (e.dev == m.dev && !m.retire) then d.dropMove m
  else if m.dev = 4 && !m.retire && e.pin != 0 then (d.dropMove m).modTiers (fun t => t.count 19)
  else
    let x := d.freePage p m.dev
    match x.1 with
    | some ppn => (x.2.dropMove m).startRun ch m.page m.dev ppn m.retire m.back m.ctx
    | none =>
      if m.retire then (d.dropMove m).capacityLoss m.page
      else if m.dev = 4 then (d.dropMove m).modTiers (fun t => t.count 18)
      else
        let v := d.victim m.dev
        let f := v.2.freePage p 4
        match v.1, f.1 with
        | some page, some ppn =>
          (f.2.modTiers (fun t => { t with queue := t.queue.map (fun q => if q = m then { m with victim := some page } else q) })).startRun
            ch page 4 ppn false false none
        | _, _ =>
          let d := (v.2.dropMove m).modTiers (fun t => t.count 18)
          if m.back then d.capacityLoss m.page else d

/-- The oldest move that can start: its page is resident, and so is no victim still on its way out. -/
def Dev.nextMove (d : Dev) : Option Move :=
  d.tiers.queue.find? (fun m => (d.tm m.page).mst == 0 &&
    (match m.victim with
     | some v => (d.tm v).mst == 0
     | none => true))

/-- A migration channel takes the oldest move that can start (R199). -/
def execMigrationStart (s : State) : Out :=
  s.onDev (fun d =>
    match d.freeChannel, d.nextMove with
    | some ch, some m => d.tryMove ch m
    | _, _ => d)

/-- The last granule of a move lands: the flip is pending (R200). A move that a hot super meters lands when its bucket has granted
every byte (R199). -/
def execMigrationCopied (ch : Nat) (s : State) : Out :=
  s.onUnit (decide (ch < 8)) (fun d =>
    match d.tiers.runs.find? (fun r => r.ch == ch && !r.copied) with
    | none => d
    | some r =>
      if (d.hot r.dev || d.hot (d.tm r.page).dev) && r.left != some 0 then d
      else
      let d := match r.ctx with
        | some c => (d.countDev c (d.tm r.page).dev pageBytes false).countDev c r.dev pageBytes true
        | none => d
      ((d.setTm r.page { d.tm r.page with mst := 2 }).combDrop (r.page * pageBytes) pageBytes).modTiers (fun t =>
        { t with runs := t.runs.map (fun q => if q.ch = ch then { q with copied := true } else q) }))

/-- One flip (R201, R217, R218): a boundary action. The page's poison is from now on that of its new location. -/
def Dev.flip (d : Dev) (r : MoveRun) : Dev :=
  let e := d.tm r.page
  let d := d.keepPhys r.page e.dev e.ppn
  let of (m : Store Bool) : List Nat := (m.filter (fun x => x.1 / pageWords == r.page && x.2)).map (·.1)
  let d := { d with memPoison := markWords (markWords d.memPoison (of d.tiers.oldBad) false) (of d.tiers.newBad) true }
  let d := (d.setTm r.page { e with dev := r.dev, ppn := r.ppn, mst := 0, rtd := r.retire }).modTiers (fun t =>
    ({ t with runs := t.runs.filter (fun q => q.ch != r.ch),
              oldBad := markWords t.oldBad (of t.oldBad) false, newBad := markWords t.newBad (of t.newBad) false } : Tiers).clearPhys
      r.dev r.ppn |>.count 16)
  let d := d.leavePage r.page e.part e.ctx e.dev e.ppn
  let d := if d.tiers.retireDue.contains (r.dev, r.ppn) then d.queueMove { page := r.page, dev := 4, retire := true } else d
  if r.retire && e.hint == 3 then d.queueMove { page := r.page, dev := e.supx, back := true } else d

/-- Boundary action 1 of R138: every pending flip of the partition. -/
def Dev.flips (d : Dev) (p : Nat) : Dev :=
  (d.tiers.runs.filter (fun r => r.copied && d.addrPart (r.page * pageBytes) == p)).foldl (fun d r => d.flip r) d

/-! ## The comb (R208, R211, R212) -/

/-- An allocating read by context c: its line is served by the comb, or a miss register is taken for it if one is free (R211).
Answers whether the read is served now. -/
def Dev.combFetch (d : Dev) (c a : Nat) : Bool × Dev :=
  let x := d.combLine c (a / 512)
  (x.1, x.2.2)

/-- A fill completes: its line is in the comb and its register is free (R211). -/
def execCombFill (slice line : Nat) (s : State) : Out :=
  s.onUnit (decide (slice < 16)) (fun d =>
    if d.tiers.fills.contains (slice, line) then
      (({ d with tiers := { d.tiers with fills := d.tiers.fills.erase (slice, line) } }).combAlloc line).settleLeaving
    else d)

/-- The new value of an atomic (Table 8-9). -/
def atomicNew (fn : Nat) (old x : Word64) : Word64 :=
  match fn % 8 with
  | 0 => x
  | 1 => old + x
  | 2 => old &&& x
  | 3 => old ||| x
  | 4 => old ^^^ x
  | 5 => if old.toInt < x.toInt then x else old
  | 6 => if x.toInt < old.toInt then x else old
  | _ => BitVec.ofNat 64 (old.toNat / 2 ^ 32 * 2 ^ 32 +
      (numAdd 24 (f32 (old.toNat % 2 ^ 32)) (f32 (x.toNat % 2 ^ 32))).1)

/-- The comb slice of a line executes the core's atomic, if none older waits there; a line that misses is filled first (R212). -/
def Dev.combAtomic (d : Dev) (n : Nat) : Dev :=
  match (d.core n).atom with
  | none => d
  | some a =>
    let slice (m : Nat) : Option Nat := (d.core m).atom.map (fun b => d.combSlice (b.addr / 512))
    let ahead := d.tiers.atomics.takeWhile (· != n)
    if ahead.any (fun m => slice m == slice n) then d
    else if !(d.combHit (a.addr / 512)) then (d.combFetch (d.ctxOf n) a.addr).2
    else
      let sl := d.combSlice (a.addr / 512)
      let d := (d.combFetch (d.ctxOf n) a.addr).2
      let d := { d with tiers := { d.tiers with atomics := d.tiers.atomics.filter (· != n),
                                                combCnt := bump d.tiers.combCnt (4 * sl + 2) 1 } }
      let t := match (d.core n).tasks with
        | t :: _ => t
        | [] => {}
      if d.memPoisoned a.addr 8 then d.abort n a.task ⟨0x0501, false, t.tid, t.pc, a.addr, true⟩
      else
        let old := BitVec.ofNat 64 (leNat (d.memRead a.addr 8))
        let c := d.ctxOf n
        let d := d.modCore n (fun k => { k with atom := none, progress := true, tasks := k.tasks.map (fun u =>
          if u.uid = a.task then
            { u with pc := u.pc + 4, x := if a.xd = 0 then u.x else Store.set 0#64 u.x a.xd old }
          else u) })
        d.uniWriteThrough (d.partOf n) c a.addr (toLe 8 (atomicNew a.fn old a.operand).toNat) false

/-- COMB_ATOMIC (R212). -/
def execCombAtomic (core : Nat) (s : State) : Out := s.onCore core (fun d => d.combAtomic core)

/-! ## Errors and repair (R213 to R219) -/

/-- The mapped page that a physical page holds. -/
def Dev.pageAt (d : Dev) (dev ppn : Nat) : Option (Nat × TmEntry) :=
  d.tiers.map.find? (fun e => e.2.valid && e.2.dev == dev && e.2.ppn == ppn)

def devCount (t : Tiers) (dev i : Nat) : Tiers := { t with devCnt := bump t.devCnt (16 * dev + i) 1 }

/-- A row that qualifies for repair (R216). -/
def Tiers.addBad (t : Tiers) (x row ppn : Nat) : Tiers :=
  if t.rowBad.contains (x, row, ppn) then t else { t with rowBad := t.rowBad ++ [(x, row, ppn)] }

/-- The 0x0503 event of a granule of storage `st` at a byte address within it; `uni` is its unified address when a tier-map entry maps
its page (R214). -/
def Dev.uncorrectable (d : Dev) (st phys : Nat) (uni : Option Nat) (part ctx lcore : Nat) : Dev :=
  match uni with
  | some a => d.event 0x0503 part ctx lcore [2 ^ 31 + st, phys % 2 ^ 32, phys / 2 ^ 32, a % 2 ^ 32, a / 2 ^ 32]
  | none => d.event 0x0503 part ctx lcore [st, phys % 2 ^ 32, phys / 2 ^ 32, 0, 0]

/-- The eight words of a 64-byte granule whose first word is `w`. -/
def granWords (w : Nat) : List Nat := List.range' w 8

/-- An uncorrectable error in granule g of a super or of the deep: whether it is found for the first time, where a unified address
maps it, and the granule as poisoned (R200, R213, R214). In a move's old page a granule already copied is poisoned there only; in its
new page one already copied is poisoned in the new page only. -/
def Dev.memError (d : Dev) (dev g : Nat) : Bool × Option (Nat × TmEntry) × Dev :=
  let ppn := g / 8192
  let k := g % 8192 / 8
  let bad (m : Store Bool) (w : Nat) : Bool := Store.get false m w
  match d.pageAt dev ppn with
  | some e =>
    let w := e.1 * pageWords + g % 8192 * 8
    if bad d.memPoison w then (false, some e, d)
    else
      let x := match d.tiers.runs.find? (fun r => r.page == e.1) with
        | some r => d.cursorOf r
        | none => (0, d)
      let d := { x.2 with memPoison := markWords x.2.memPoison (granWords w) true }
      (true, some e, if k < x.1 then d.modTiers (fun t => { t with oldBad := markWords t.oldBad (granWords w) true }) else d)
  | none =>
    let phys := physWord dev ppn (g % 8192 * 8)
    match d.tiers.runs.find? (fun r => r.dev == dev && r.ppn == ppn) with
    | some r =>
      let w := r.page * pageWords + g % 8192 * 8
      let x := d.cursorOf r
      if k < x.1 then
        if bad d.tiers.newBad w || (bad d.memPoison w && !(bad d.tiers.oldBad w)) then (false, none, x.2)
        else (true, none, x.2.modTiers (fun t => { t with newBad := markWords t.newBad (granWords w) true }))
      else if bad d.tiers.physBad phys then (false, none, x.2)
      else (true, none, x.2.modTiers (fun t => { t with physBad := markWords t.physBad (granWords phys) true }))
    | none =>
      if bad d.tiers.physBad phys then (false, none, d)
      else (true, none, d.modTiers (fun t => { t with physBad := markWords t.physBad (granWords phys) true }))

/-- A read of granule g of a super (0 to 3) or of the deep (4); the operands say what its ECC found (R213, R214, R216). -/
def Dev.scrub (d : Dev) (x g : Nat) (corrected uncorr : Bool) : Dev :=
  let row := Config.rowOf g
  let ppn := g / 8192
  -- a new patrol cycle begins at the first granule of a super
  let d := if g = 0 && x < 4 then d.modTiers (fun t =>
    { t with rowErr := t.rowErr.filter (fun e => e.1 / 2 ^ 64 != x) }) else d
  let d := if !corrected then d
    else if x < 4 then d.modTiers (fun t =>
      let k := x * 2 ^ 64 + row
      let n := Store.get 0 t.rowErr k + 1
      let t := devCount { t with rowErr := Store.set 0 t.rowErr k n } x 3
      if 3 ≤ n then t.addBad x row ppn else t)
    else d.modTiers (fun t => devCount t 4 3)
  if uncorr then
    let y := d.memError x g
    if y.1 then
      let d := y.2.2.modTiers (fun t => let t := devCount t x 4; if x < 4 then t.addBad x row ppn else t)
      match y.2.1 with
      | some e => d.uncorrectable x (64 * g) (some (e.1 * pageBytes + g % 8192 * 64)) e.2.part e.2.ctx 0x1FF
      | none => d.uncorrectable x (64 * g) none 0 0 0x1FF
    else y.2.2
  else d

/-- An uncorrectable error in word g of the comb, which holds word `u` of the unified range: of a resident page, or in a cached line
(R213, R214). The model has no place of a line within its set, so the operands carry both (notes/assumptions/151). -/
def Dev.combError (d : Dev) (u g : Nat) : Dev :=
  let e := d.tm (u / pageWords)
  if d.wordBad u || !(d.combHit (u / 64)) then d
  else
    let d := if d.residentLine (u / 64) then { d with memPoison := Store.set false d.memPoison u true }
      else d.modTiers (fun t => { t with combBad := Store.set false t.combBad u true })
    d.uncorrectable 5 (8 * g) (if e.valid then some (8 * u) else none) e.part e.ctx 0x1FF

/-- An uncorrectable error in word g of a core's scratchpad (R160, R213, R214). -/
def Dev.padError (d : Dev) (n g : Nat) : Dev :=
  if Store.get false (d.core n).padPoison g then d
  else (d.modCore n (fun c => { c with padPoison := Store.set false c.padPoison g true })).uncorrectable
    6 (8 * g) none (d.partOf n) (d.ctxOf n) n

/-- An uncorrectable error in word g of the schedule SRAM (R213, R214). -/
def Dev.schedError (d : Dev) (g : Nat) : Dev :=
  if Store.get false d.tiers.schedBad g then d
  else (d.modTiers (fun t => { t with schedBad := Store.set false t.schedBad g true })).uncorrectable 8 (8 * g) none 0 0 0x1FF

/-- An uncorrectable error in word g of slot k of a super's accumulators (R213, R214, R251). -/
def Dev.accError (d : Dev) (x k g : Nat) : Dev :=
  if (d.sup x).accBad.contains (k, g) then d
  else
    let o := Store.get none (d.sup x).slots k
    (d.modSup x (fun u => { u with accBad := (k, g) :: u.accBad })).uncorrectable (9 + x) (8 * (4096 * k + g)) none
      ((o.map (·.part)).getD 0) ((o.map (·.ctx)).getD 0) 0x1FF

/-- PATROL_SCRUB: a read, by patrol scrub or by any other, of one granule of a storage of R214's list, and what its ECC found
(R213, R214; notes/assumptions/151). -/
def execPatrolScrub (site : EccSite) (granule : Nat) (corrected uncorrectable : Bool) (s : State) : Out :=
  let storage := site.storage
  let unit := site.unit
  s.onUnit (decide (storage < Config.nSupers) || (decide (4 ≤ storage) && decide (storage < 9 + Config.nSupers))) (fun d =>
    match storage with
    | 5 => if uncorrectable then d.combError unit granule else d
    | 6 => if uncorrectable then d.padError unit granule else d
    | 7 => d
    | 8 => if uncorrectable then d.schedError granule else d
    | _ =>
      if storage ≤ 4 then d.scrub storage granule corrected uncorrectable
      else if uncorrectable then d.accError (storage - 9) unit granule
      else d)

/-- Spare rows of a bank left for service (Table 8-2). -/
def sparesLeft (remaps : List (Nat × Nat × Nat)) (x bank : Nat) : Nat :=
  8 - (remaps.filter (fun r => r.1 == x && r.2.1 == bank)).length

/-- ROW_REPAIR: the base die remaps a qualifying row to the bank's next spare row; the flash record comes before the event
(R216, R219). -/
def execRowRepair (super bank row : Nat) (s : State) : Out :=
  if Config.nSupers ≤ super then .fault .noSuchUnit
  else
    let code := bank * 2 ^ 32 + row
    match s.dev.tiers.rowBad.find? (fun r => r.1 == super && r.2.1 == code) with
    | none => .next s
    | some r =>
      if sparesLeft s.nv.remaps super bank = 0 then .next s
      else
        let d := s.dev.modTiers (fun t => devCount { t with
          rowBad := t.rowBad.erase r, rowErr := Store.set 0 t.rowErr (super * 2 ^ 64 + code) 0 } super 5)
        .next { s with nv := { s.nv with remaps := s.nv.remaps ++ [(super, bank, row)] },
                       dev := d.event 0x0504 0 0 0x1FF [] }

/-- PAGE_RETIREMENT: a qualifying row's bank has no spare row left. The page that holds it moves to the deep ahead of all other
moves, or, while another move already takes it away, that move ends its use; a page that a move is on its way to, or that holds no
unified page, is retired when it is left (R202, R217, R219; notes/assumptions/46). -/
def execPageRetirement (super ppn : Nat) (s : State) : Out :=
  if Config.nSupers ≤ super then .fault .noSuchUnit
  else
    match s.dev.tiers.rowBad.find? (fun r => r.1 == super && r.2.2 == ppn &&
        sparesLeft s.nv.remaps super (r.2.1 / 2 ^ 32) == 0) with
    | none => .next s
    | some _ =>
      let d := s.dev
      let nv := if s.nv.retired.contains (super, ppn) then s.nv else { s.nv with retired := s.nv.retired ++ [(super, ppn)] }
      let due (d : Dev) : Dev := d.modTiers (fun t => { t with
        retireDue := if t.retireDue.contains (super, ppn) then t.retireDue else (super, ppn) :: t.retireDue })
      match d.pageAt super ppn with
      | some e =>
        if e.2.mst != 0 || d.tiers.queue.any (fun m => m.retire && m.page == e.1) then .next { s with nv := nv, dev := due d }
        else if d.freeCount (d.addrPart (e.1 * pageBytes)) 4 = 0 then .next { s with dev := d.capacityLoss e.1 }
        else .next { s with nv := nv, dev := (due d).queueMove { page := e.1, dev := 4, retire := true } }
      | none =>
        if d.tiers.used.contains (super, ppn) then .next { s with nv := nv, dev := due d }
        else .next { s with nv := nv, dev := (due d).freePhys 0 0 super ppn }

/-- TIER_MAP_ENTRY_ERROR: an uncorrectable entry loses a page's place (R214, R215). -/
def execTierMapEntryError (page : Nat) (s : State) : Out :=
  s.onUnit (decide (page < 2 ^ 22)) (fun d =>
    let e := d.tm page
    let p := if e.valid then e.part else d.addrPart (page * pageBytes)
    (d.uncorrectable 7 (8 * page) none p e.ctx 0x1FF).unloadFault 0x0507 p e.ctx [])

/-- TMLO_READ: reading TMLO captures the whole selected entry (Table 8-13). -/
def execTmloRead (s : State) : Out :=
  s.onDev (fun d => d.modTiers (fun t =>
    { t with tmhi := BitVec.ofNat 32 ((Store.get {} t.map t.tmsel).word / 2 ^ 32) }))

end Sys2Proof.Machine
end

