-- ==== Sys2Proof/Machine/Streams.lean ====
section
/-! DEFINITION. The stream unit (chapter 7): semaphores, arming and its checks, forager windows, the start, landing and completion
of transfers, credits, signals, the inbound hold and the smoker. Requests of descriptors are in Machine/Transfers.lean. -/

namespace Sys2Proof.Machine
open Sys2Proof

/-! ## Semaphores (R167, R168) -/

/-- Add to counter `i` held by core n: a sum above 65,535 leaves 65,535 and raises 0x0407. `src` is the task the
signal comes from, and whether its stream unit sent it (R172, R187); a signal from the network has none, and then the task and
the offset that the core records are free values (notes/assumptions/15). -/
def Dev.semAdd (d : Dev) (n i cnt : Nat) (src : Option SignalFrom) : Dev :=
  let v := Store.get 0 (d.core n).su.sem i + cnt
  let d := d.modCore n (fun c => { c with progress := true, su := { c.su with sem := Store.set 0 c.su.sem i (min v 65535) } })
  if v ≤ 65535 then d
  else match src with
    | some t => d.coreContextFault n ⟨0x0407, t.unit, t.tid, t.pc, 0, false⟩
    | none =>
      let x := d.fresh32
      let y := x.2.fresh32
      y.2.coreContextFault n ⟨0x0407, true, x.1.toNat % 65536, y.1.toNat, 0, false⟩

/-- Signal entry `i` of core n: at once when the counter is its own, as a message when it is another core's. -/
def Dev.signal (d : Dev) (n i cnt : Nat) (src : SignalFrom) : Dev :=
  let t := d.semTarget n i
  if t.1 = n then d.semAdd n t.2 cnt (some src)
  else d.modCore t.1 (fun c => { c with su := { c.su with
    signal := Store.modify [] c.su.signal n (fun q => q ++ [(t.2, cnt, src)]) } })

/-- SIGNAL_MESSAGE: the oldest signal from core `src` arrives (R168). -/
def execSignalMessage (core src : Nat) (s : State) : Out :=
  s.onCore core (fun d =>
    match Store.get [] (d.core core).su.signal src with
    | [] => d
    | m :: r =>
      (d.modCore core (fun c => { c with su := { c.su with signal := Store.set [] c.su.signal src r } })).semAdd
        core m.1 m.2.1 (some m.2.2))

/-! ## Credits (R166) -/

/-- CREDIT_MESSAGE: a release at the ring's core reaches its remote producer. -/
def execCreditMessage (core ring : Nat) (s : State) : Out :=
  s.onCore core (fun d =>
    let n := Store.get 0 (d.core core).su.creditMsg ring
    match d.ringOf core ring with
    | none => d
    | some r =>
      if n = 0 then d
      else
        let d := d.modCore core (fun c => { c with su := { c.su with creditMsg := Store.set 0 c.su.creditMsg ring (n - 1) } })
        d.modCore r.pcore (fun c => { c with progress := true, su := { c.su with
          credit := Store.modify 0 c.su.credit (core * 32 + ring) (· - 1) } }))

/-! ## Arming a descriptor (R169, R172, R173, R174, R247, R249, R282) -/

/-- Element bytes of a block transpose. -/
def sdElt (i : List Nat) : Nat := 2 ^ sdTesz i
/-- KIND 0x3 words (Table 10-3). -/
def sdAmode (i : List Nat) : Bool := bit (sdW i 4) 31
def sdAop (i : List Nat) : Nat := bits (sdW i 4) 30 28
def sdLidx (i : List Nat) : Nat := sdW i 3
def aopBytes (o : Nat) : Nat :=
  match o with
  | 1 => 8
  | 3 => 2
  | _ => 4
/-- KIND 0x4 words (Table 11-7). -/
def sdOffset (i : List Nat) : Nat := sdW i 3
def sdChan (i : List Nat) : Nat := bits (sdW i 4) 31 20

/-- Source rows: start and bytes (R170, R171). -/
def sdSrcRows (i : List Nat) : List (Int × Nat) :=
  (List.range (sdRows i)).map (fun j => (strided (sdSaddr i) (sdSstr i) j, sdRun i))

/-- Destination rows: of a copy, of a block transpose (32 output rows), of memory-side adds (contiguous, word 7 ignored). -/
def sdDstRows (i : List Nat) : List (Int × Nat) :=
  if sdKind i = 2 then
    (List.range 32).map (fun c => (strided (sdDaddr i) (sdDstr i) c, 32 * sdRows i * sdElt i))
  else if sdKind i = 3 then [((sdDaddr i : Int), sdTotal i)]
  else (List.range (sdRows i)).map (fun j => (strided (sdDaddr i) (sdDstr i) j, sdRun i))

/-- A reserved kind, element size or field (R173; the fields shown as "—" in Tables 7-5, 10-3 and 11-7). -/
def sdReserved (i : List Nat) : Bool :=
  let k := sdKind i
  k == 0 || decide (6 ≤ k) || sdTesz i == 3 || bits (sdW i 2) 21 9 != 0 ||
  (if k = 3 then bits (sdW i 4) 27 9 != 0 || (if sdAmode i then decide (4 ≤ sdAop i)
      else sdAop i != 0 || bits (sdW i 4) 8 0 != 0)
   else if k = 4 then bits (sdW i 4) 19 0 != 0
   else bits (sdW i 4) 21 9 != 0)

/-- The ring that a ring-mode source names: of consumer class 0x1 on the arming core. -/
def Dev.srcRing (d : Dev) (n : Nat) (i : List Nat) : Option RingDecl :=
  (d.ringOf n (sdSrid i)).filter (fun r => r.ccls == 1)
/-- The ring that a ring-mode destination names: of producer class 0x1 on the arming core, or of class 0x2 with the arming
core as its producer. -/
def Dev.dstRing (d : Dev) (n : Nat) (i : List Nat) : Option RingDecl :=
  (d.ringOf (sdDcore i) (sdDrid i)).filter (fun r =>
    (r.pcls == 1 && sdDcore i == n) || (r.pcls == 2 && r.pcore == n && sdDcore i != n))

def ringFits (r : Option RingDecl) (total : Nat) : Bool :=
  match r with
  | some r => total % r.slotBytes == 0
  | none => false

/-- First row that leaves the scratchpad. -/
def padOutside (rows : List (Int × Nat)) : Option (Int × Nat) :=
  rows.find? (fun r => decide (r.1 < 0) || decide ((padBytes : Int) < r.1 + r.2))
/-- A row that leaves the partition's addresses. -/
def Dev.rowOutside (d : Dev) (p : Nat) (r : Int × Nat) : Bool :=
  decide (r.1 < 0) || decide ((uniTop : Int) < r.1 + r.2) || d.addrPart r.1.toNat != p || d.addrPart (r.1.toNat + r.2 - 1) != p
/-- First row that leaves the partition's addresses. -/
def Dev.uniOutside (d : Dev) (p : Nat) (rows : List (Int × Nat)) : Option (Int × Nat) := rows.find? (d.rowOutside p)

/-- The send entry that a KIND 0x4 descriptor names: the first of that channel in table order that its context owns and that
is no SL channel (notes/assumptions/16). -/
def Dev.sendEntry (d : Dev) (p c chan : Nat) : Option (Nat × List Nat) :=
  (d.chanEntries p 0).find? (fun e => ceChan e.2 == chan && ceCtx e.2 == c && ceCls e.2 != 2)
/-- The context's SL send channel to a rank (R281). -/
def Dev.slEntry (d : Dev) (p c rank : Nat) : Option (Nat × List Nat) :=
  (d.chanEntries p 0).find? (fun e => ceCls e.2 == 2 && ceCtx e.2 == c && cePeer e.2 == rank)

/-- A KIND 0x3 slice can be sent: OWN or REP, the source totals its wire bytes, and a slice of another module has a
channel to its owner (R247). -/
def Dev.sliceOk (d : Dev) (p c : Nat) (i : List Nat) : Bool :=
  let t := d.sliceTab c
  decide (sdLidx i < slN t) && (slOwn t (sdLidx i) || slRep t (sdLidx i)) && sdTotal i == slWire t (sdLidx i) &&
  (slOwn t (sdLidx i) || (d.slEntry p c (slOrank t (sdLidx i))).isSome)

/-- The page of every destination byte lies in a super, or is a fixed page on its way back (R249). -/
def Dev.inSuper (d : Dev) (a n : Nat) : Bool :=
  (pagesOf a n).all (fun page => decide ((d.tm page).dev < 4) || (d.tm page).hint == 3)

/-- A fault of an arm: code, address, space. -/
abbrev ArmFault := Nat × Nat × Bool

/-- Every check of R173, R174, R247, R249 and R282 that an image fails, each with the start of the first row that breaks it. A row
outside the partition is a breach of the fence and not of the map (R330, R331); so is a ring of a core outside it
(notes/assumptions/129). -/
def Dev.armFaults (d : Dev) (n tid : Nat) (i : List Nat) : List ArmFault :=
  let p := d.partOf n
  let c := d.ctxOf n
  let k := sdKind i
  if sdReserved i then [(0x0408, 0, false)]
  else
    let hasSrc := k != 5
    let toRows := decide (k ≤ 2) || k == 5 || (k == 3 && sdAmode i)
    let dUni := (k == 3) || (decide (k ≤ 2) && sdDuni i)
    let sRing := sdSring i
    let dRing := sdDring i
    let src := if hasSrc && !sRing then sdSrcRows i else []
    let dst := if toRows && !dRing then sdDstRows i else []
    let at' (code : Nat) (uni : Bool) (r : Option (Int × Nat)) : List ArmFault :=
      match r with
      | some r => [(code, r.1.toNat, uni)]
      | none => []
    let own := writeSet (d.coreSec n 2) tid
    let dPad := !dUni
    let dcore := if k = 5 then n else sdDcore i
    -- write set (R120): rows in a declared ring of the destination core are exempt
    let allowed (a m : Nat) : Bool := if dPad then destOk (d.rings dcore) own (a, m) else inWriteSet own true a m
    let far := dRing && !(d.inPart p (sdDcore i))
    at' 0x0103 dUni (dst.find? (fun r => decide (r.1 < 0) || !(allowed r.1.toNat r.2))) ++
    (if hasSrc && !(sdSuni i) then at' 0x0401 false (padOutside src) else []) ++
    (if dPad then at' 0x0401 false (padOutside dst) else []) ++
    -- invalid descriptors
    (if (sRing && (!hasSrc || !(ringFits (d.srcRing n i) (sdTotal i)))) ||
        (dRing && (decide (3 ≤ k) || (!far && !(ringFits (d.dstRing n i) (sdTotal i))))) ||
        (k == 2 && sdRun i != 1024 * sdElt i) ||
        (sdSched i && !(decide (k ≤ 2) && (sRing || !(sdSuni i)) && (dRing || !(sdDuni i)))) ||
        (k == 3 && !(sdAmode i) && !(d.sliceOk p c i)) ||
        (k == 3 && sdAmode i && (sdDaddr i % aopBytes (sdAop i) != 0 || sdRun i % aopBytes (sdAop i) != 0 ||
          (d.rangeWrite c (sdDaddr i) (sdTotal i) && !(d.inSuper (sdDaddr i) (sdTotal i))))) ||
        (k == 4 && (d.sendEntry p c (sdChan i)).isNone) ||
        (k == 5 && dst.any (fun r => (rowsOf r.1.toNat r.2).any (fun row => (ringAt (d.rings n) row).isSome)))
      then [(0x0408, 0, false)] else []) ++
    (if hasSrc && sdSuni i then at' 0x0408 true (src.find? (fun r => !(d.rowOutside p r) && !(d.rangeRead c r.1.toNat r.2))) else []) ++
    (if dUni then at' 0x0408 true (dst.find? (fun r => !(d.rowOutside p r) && !(d.rangeWrite c r.1.toNat r.2))) else []) ++
    -- excluder (R330)
    (if hasSrc && !sRing && !(sdSuni i) && !(d.inPart p (sdScore i)) then [(0x0A01, sdScore i, false)] else []) ++
    (if decide (k ≤ 2) && (dRing || !(sdDuni i)) && !(d.inPart p (sdDcore i)) then [(0x0A01, sdDcore i, false)] else []) ++
    (if hasSrc && sdSuni i then at' 0x0A01 true (d.uniOutside p src) else []) ++
    (if dUni then at' 0x0A01 true (d.uniOutside p dst) else [])

/-- The lowest code of a list of faults, the first of that code (R130). -/
def lowestFault (l : List ArmFault) : Option ArmFault :=
  l.foldl (fun best f => match best with
    | none => some f
    | some b => if f.1 < b.1 then some f else some b) none

/-- A fault of a descriptor or window: 0x0408 aborts no task (R187), the others do. -/
def Dev.streamFault (d : Dev) (n uid tid pc : Nat) (f : ArmFault) : Dev :=
  let fi : FaultInfo := ⟨f.1, true, tid, pc, f.2.1, f.2.2⟩
  if f.1 = 0x0408 then d.coreContextFault n fi else d.abort n uid fi

/-- An arm takes effect (R172, R173). -/
def Dev.arm (d : Dev) (n uid tid pc i : Nat) (img : List Nat) : Dev :=
  let c := d.core n
  let busy := (Store.get none c.su.desc i).isSome
  let full := (Store.get none c.su.shadow i).isSome
  let fs := d.armFaults n tid img ++ (if busy && full then [(0x0405, 0, false)] else [])
  match lowestFault fs with
  | some f => d.streamFault n uid tid pc f
  | none =>
    let st := (d.ctx (d.ctxOf n)).stamp
    let sd : SDesc := { img := img, uid := uid, tid := tid, pc := pc, ctx := d.ctxOf n, step := st.step, phase := st.phase }
    d.modCore n (fun c => { c with progress := true, su :=
      if busy then { c.su with shadow := Store.set none c.su.shadow i (some sd) }
      else { c.su with desc := Store.set none c.su.desc i (some sd) } })

/-- The eight words of an image in scratchpad. -/
def Core.imgAt (c : Core) (a : Nat) : List Nat := (List.range 8).map (fun w => leNat (c.padRead (a + 4 * w) 4))

/-! ## Forager windows (R177, R178, R264, R330) -/

def winReserved (i : List Nat) : Bool :=
  bits (sdW i 1) 30 14 != 0 || sdW i 5 != 0 || sdW i 6 != 0 || sdW i 7 != 0

/-- WCLOSE: no new requests; a slot that was begun is filled by what follows (R166, R177). -/
def StreamUnit.closeWindow (s : StreamUnit) (i : Nat) : StreamUnit :=
  match Store.get none s.win i with
  | none => s
  | some w =>
    let j := winRingIx w
    let x := Store.get {} s.ring j
    { s with win := Store.set none s.win i none,
             ring := if w.off = 0 || w.chunk = winCount w then s.ring
                     else Store.set {} s.ring j { x with prod := w.slot + w.chunk } }

/-- The block whose buffer-0 half holds a range of addresses (R264). -/
def blockOf (t : List Byte) (lo hi : Nat) : Option Nat :=
  (List.range (bkNb t)).find? (fun b => decide (bkWbase t b ≤ lo) && decide (hi ≤ bkWbase t b + bkHalf t b) &&
    bkWbytes t b != 0)

/-- The slices of the context that a buffer-0 range touches (R244, R264). -/
def touched (t : List Byte) (b lo n : Nat) : List Nat :=
  (List.range (slN t)).filter (fun i => (slOwn t i || slRep t i) && slBlk t i == b &&
    rangesMeet [(lo, n)] ((slRow t i, 4224) :: colPieces (slCol t i) (slQidx t i)))

/-- What a versioned request meets (R264): 0 served, 1 waits, 2 stale. -/
def Dev.versionCheck (d : Dev) (t : List Byte) (v : Nat) (sl : List Nat) : Nat :=
  if sl.any (fun i => !(verBefore (d.slVn t i) v) && !(d.slVn t i == v || (d.slVn t i == v + 1 && d.slOldv t i))) then 2
  else if sl.any (fun i => verBefore (d.slVn t i) v) then 1
  else 0

/-- The extent of all chunks of a window, before its version is resolved: least address and end. -/
def winExtent (i : List Nat) (sz : Nat) : Int × Int :=
  let a : Int := winBase i
  let b : Int := strided (winBase i) (signed 32 (sdW i 2)) (winChunks i - 1)
  (min a b, max a b + sz)

/-- Open a window (R177): from a WOPEN (`owner` is its task), or from the layer schedule table. -/
def Dev.openWindow (d : Dev) (n i : Nat) (img : List Nat) (owner : Option (Nat × Nat)) (pc : Nat) : Dev :=
  let d := d.modCore n (fun c => { c with progress := true, su := c.su.closeWindow i })
  let p := d.partOf n
  let cx := d.ctxOf n
  let c := d.core n
  let o : Nat × Nat := match owner with
    | some o => o
    | none => match c.tasks with
      | t :: _ => (t.uid, t.tid)
      | [] => (0, 0)
  let fail (f : ArmFault) : Dev := d.streamFault n o.1 o.2 pc f
  match (d.ringOf n (winRing img)).filter (fun r => r.pcls == 3) with
  | none => fail (0x0408, 0, false)
  | some r =>
    let ex := winExtent img r.slotBytes
    if winReserved img || winChunks img = 0 || c.su.live.any (fun w => winRingIx w.2 == winRing img) then
      fail (0x0408, 0, false)
    else
      let t := d.blockTab cx
      let blk := blockOf t ex.1.toNat ex.2.toNat
      if winVreq img && (decide (ex.1 < 0) || blk.isNone) then fail (0x0408, winBase img, true)
      else
        match d.uniOutside p [(ex.1, (ex.2 - ex.1).toNat)] with
        | some x => fail (0x0A01, x.1.toNat, true)
        | none =>
          let b := blk.getD 0
          let half := if winVreq img && winVersion img % 2 = 1 then bkHalf t b else 0
          if winVreq img && d.versionCheck (d.sliceTab cx) (winVersion img)
              (touched (d.sliceTab cx) b (winBase img) r.slotBytes) == 2 then fail (0x0701, winBase img, true)
          else
            let w : Window := { img := img, base := winBase img + half, owner := owner, pc := pc, ctx := cx }
            d.modCore n (fun c => { c with su := { c.su with win := Store.set none c.su.win i (some w) } })

/-- OPENW of the layer schedule table (R177, R196, R198): the window image is entry ARGA of the image's window-image table. -/
def execOpenw (ctx : Nat) (s : State) : Out :=
  s.onUnit (decide (ctx < nCtxs)) (fun d =>
    match d.dueHead ctx 3 with
    | none => d
    | some e =>
      let p := d.partOfCtx ctx
      let tbl := d.imgSec p 0x08 ctx 0
      let img := (List.range 8).map (fun w => wordAt tbl (32 * entPage e + 4 * w))
      (d.openWindow (bits (e.getD 1 0) 23 15) (bits (e.getD 1 0) 14 10) img none 0xFFFFFFFF).dueStep ctx e 0)

/-! ## The smoker (R181) -/

/-- BUCKET_REFILL: 16 cycles pass (R181), and a hot super's bucket then grants moves their bytes (R199). From thermal stage 1 of a super its bucket refills at the cool rate,
from stage 1 of the deep the deep bucket at half its rate (Table 17-4). -/
def execBucketRefill (s : State) : Out :=
  s.onDev (fun d =>
    let d := (List.range nCores).foldl (fun d n =>
      d.modCore n (fun c => { c with su := { c.su with bucket := c.su.bucket.refill c.su.bucket.rate } })) d
    let d := (List.range Config.nSupers).foldl (fun d x =>
      d.modSup x (fun u => { u with bucket := u.bucket.refill (if u.stage = 0 then u.bucket.rate else u.cool) })) d
    (d.modBrd (fun b => { b with deepBucket := b.deepBucket.refill (if b.deepStage = 0 then b.deepBucket.rate else b.deepBucket.rate / 2) })).meterRuns)

/-! ## Forager requests (R178, R179, R195) -/

/-- A free tag of the core (R176); a context that is out keeps those of its sends (R336). -/
def StreamUnit.freeTag (s : StreamUnit) : Option Nat :=
  (List.range 64).find? (fun t => !(s.req.any (fun r => !r.light && r.tag == t)) && !(s.parked.any (fun x => x.2 == t)))

/-- A stream counter of Table 7-13 gains the cycles of one wait (notes/assumptions/8). -/
def Dev.suWaits (d : Dev) (n i : Nat) : Dev :=
  let x := d.freshCycles
  x.2.modCore n (fun c => { c with su := { c.su with counters := bump c.su.counters i x.1 } })

/-- Bytes of the unified range with their poison marks. -/
def Dev.memCells (d : Dev) (a n : Nat) : List (Byte × Bool) :=
  (List.range n).map (fun i => (d.memByte (a + i), d.wordBad ((a + i) / 8)))
def Core.padCells (c : Core) (a n : Nat) : List (Byte × Bool) :=
  (List.range n).map (fun i => (c.padByte (a + i), Store.get false c.padPoison ((a + i) / 8)))

/-- One destination byte: where it goes and what is written there. -/
abbrev Cell := Bool × Nat × Nat × Byte × Bool     -- unified range, core, address, byte, poison

def cellDest (x : Cell) : Dest := if x.1 then .mem x.2.2.1 else .pad x.2.1 x.2.2.1
/-- The run `y` begins right after the cell. -/
def follows (x : Cell) (dst : Dest) (poison : Bool) : Bool :=
  x.2.2.2.2 == poison &&
  (match dst with
   | .pad c a => !x.1 && c == x.2.1 && a == x.2.2.1 + 1
   | .mem a => x.1 && a == x.2.2.1 + 1
   | .away => false)

/-- Join destination bytes into runs. -/
def cellRuns (l : List Cell) : List (Dest × List Byte × Bool) :=
  l.foldr (fun x acc => match acc with
    | (dst, bs, p) :: r =>
      if follows x dst p then (cellDest x, x.2.2.2.1 :: bs, p) :: r else (cellDest x, [x.2.2.2.1], x.2.2.2.2) :: acc
    | [] => [(cellDest x, [x.2.2.2.1], x.2.2.2.2)]) []

/-- The window moves on by a request of `len` bytes; `s0` is the slot of its chunk 0. -/
def Window.advance (w : Window) (s0 len sz : Nat) : Window :=
  if w.off + len < sz then { w with slot := s0, off := w.off + len } else { w with slot := s0, off := 0, chunk := w.chunk + 1 }

def Core.setWin (c : Core) (i : Nat) (w : Window) : Core :=
  { c with su := { c.su with win := Store.set none c.su.win i (some w) } }

/-- A deep page that asks to be promoted on prefetch (R195), unless its hint lets no move happen (R194). -/
def Dev.prefetchPromotion (d : Dev) (page : Nat) : Dev :=
  let e := d.tm page
  if e.dev == 4 && e.pfpr && e.mst == 0 && d.moveSpace && !(e.hint == 3 || e.hint == 4) then
    (d.queueMove { page := page, dev := e.supx }).modTiers (fun t => t.count 20)
  else d

/-- The next request of an open window whose slot is drained and whose page is in its context's map: device and bytes. -/
def Dev.asks (d : Dev) (n : Nat) (w : Window) : Option (Nat × Nat) :=
  match d.ringOf n (winRingIx w) with
  | none => none
  | some r =>
    let c := d.core n
    let x := c.ringSt r.ix
    let k := if w.chunk = 0 && w.off = 0 then max x.prod x.tail else w.slot + w.chunk
    let a := winChunk w w.chunk + w.off
    let e := d.tm (a / pageBytes)
    if decide (w.chunk < winChunks w.img) && (w.off != 0 || (decide (k < x.head + r.n) && !(c.filled r k))) &&
        d.mapRead w.ctx (a / pageBytes) && !e.nopf then some (e.dev, min (r.slotBytes - w.off) (512 - a % 512))
    else none

/-- Core n waits on a device's bucket alone. -/
def Dev.waitsOn (d : Dev) (n dev : Nat) : Bool :=
  let c := d.core n
  c.su.freeTag.isSome && !(d.quiesced n) && c.su.live.any (fun x => match d.asks n x.2 with
    | some q => q.1 == dev && decide (q.2 ≤ c.su.bucket.tokens)
    | none => false)

/-- No core that waits on a device's bucket comes before core n (R181). -/
def Dev.tokenTurn (d : Dev) (dev n : Nat) : Bool :=
  (d.tokens dev).waiting.all (fun m => (d.tokens dev).before n m || !(d.waitsOn m dev))

/-- One request of window `i` (R178, R179, R181, R264). -/
def Dev.forage (d : Dev) (n i : Nat) : Dev :=
  let c := d.core n
  match Store.get none c.su.win i with
  | none => d
  | some w =>
    match d.ringOf n (winRingIx w) with
    | none => d
    | some r =>
      if winChunks w.img ≤ w.chunk || d.quiesced n then d
      else
        let x := c.ringSt r.ix
        let s0 := if w.chunk = 0 && w.off = 0 then max x.prod x.tail else w.slot
        let k := s0 + w.chunk
        -- the slot has to be drained (R166)
        if w.off = 0 && !(decide (k < x.head + r.n) && !(c.filled r k)) then d.suWaits n 6
        else
          let a := winChunk w w.chunk + w.off
          let len := min (r.slotBytes - w.off) (512 - a % 512)
          let page := a / pageBytes
          let e := d.tm page
          let dst := 32 * r.slotRow k + w.off
          let stepped (c : Core) (pin : Option (Nat × Nat)) : Core :=
            let c := c.setWin i { w.advance s0 len r.slotBytes with pin := pin }
            let y := c.ringSt r.ix
            { c.setRing r.ix { y with prod := max y.prod (k + 1) } with progress := true }
          if !(d.mapRead w.ctx page) || e.nopf then
            -- an unfetched slot: the rows are marked and no byte is written (R179)
            d.modCore n (fun c =>
              let c := stepped c w.pin
              let rows := rowsOf dst len
              let c := { c with w := rows.foldl (fun m y => Store.set false m y true) c.w,
                                u := rows.foldl (fun m y => Store.set false m y true) c.u,
                                su := { c.su with counters := bump c.su.counters 4 1 } }
              c.advanceTails (d.rings n))
          else
            let t := d.sliceTab w.ctx
            let bt := d.blockTab w.ctx
            let ex := winExtent w.img r.slotBytes
            let blk := (blockOf bt ex.1.toNat ex.2.toNat).getD 0
            let half := w.base - winBase w.img
            let vc := if winVreq w.img then d.versionCheck t (winVersion w.img) (touched t blk (a - half) len) else 0
            if vc = 2 then
              let o := c.winOwner w
              d.streamFault n o.1 o.2 w.pc (0x0701, a, true)
            else if vc = 1 then d
            else
              match c.su.freeTag with
              | none => d.suWaits n 7
              | some tag =>
                if c.su.bucket.tokens < len then d.suWaits n 5
                else if !(d.tokenTurn e.dev n) || (match d.devTokens e.dev with
                    | some v => decide (v < len)
                    | none => false) then (d.tokensShort e.dev n).suWaits n 5
                else
                let dm := d.serveTokens e.dev n len
                if !(dm.streamMay a) then d
                else
                  let cells := (d.memCells a len).zipIdx.map (fun y => (false, n, dst + y.2, y.1.1, y.1.2))
                  let rq : Request := { tag := tag, owner := .window i, runs := cellRuns cells, ring := true, src := some page,
                                          stamp := (d.part (d.partOf n)).beat }
                  let pin := if winVreq w.img then some (blk, winVersion w.img % 2) else none
                  let d := dm.modCore n (fun c =>
                    let c := stepped c pin
                    { c with su := { c.su with req := c.su.req ++ [rq], counters := bump c.su.counters 2 1,
                                               bucket := c.su.bucket.take len } })
                  (d.streamRead w.ctx a len).prefetchPromotion page

/-- FORAGER_REQUEST (R178). -/
def execForagerRequest (core win : Nat) (s : State) : Out :=
  s.onUnit (decide (core < nCores) && decide (win < 32)) (fun d => d.forage core win)

/-! ## Starting, landing and completing a transfer (R170 to R172, R176) -/

def Core.setDesc (c : Core) (i : Nat) (s : Option SDesc) : Core :=
  { c with su := { c.su with desc := Store.set none c.su.desc i s } }

/-- An armed descriptor of this kind starts. -/
def Dev.startKind (d : Dev) (n i kind : Nat) : Dev :=
  match Store.get none (d.core n).su.desc i with
  | none => d
  | some s => if sdKind s.img = kind && !s.started && !s.stopped && !(d.quiesced n) then
      d.modCore n (fun c => c.setDesc i (some { s with started := true })) else d

def onDesc (s : State) (core sd : Nat) (f : Dev → Dev) : Out :=
  s.onUnit (decide (core < nCores) && decide (sd < 32)) f

/-- COPY: the transfer starts (R170, R172). -/
def execCopy (core sd : Nat) (s : State) : Out := onDesc s core sd (fun d => d.startKind core sd 1)
/-- BLOCK_TRANSPOSE: the transfer starts (R171). -/
def execBlockTranspose (core sd : Nat) (s : State) : Out := onDesc s core sd (fun d => d.startKind core sd 2)
/-- SLICE_SEND: contributions or memory-side adds start (R247, R249). -/
def execSliceSend (core sd : Nat) (s : State) : Out := onDesc s core sd (fun d => d.startKind core sd 3)
/-- WEANTAER_SEND: a transfer to another module starts (R282). -/
def execWeantaerSend (core sd : Nat) (s : State) : Out := onDesc s core sd (fun d => d.startKind core sd 4)

/-- GUARD_CLEAR: the W bits of the destination rows of its own core are cleared; it moves nothing and holds no tag (R184). -/
def Dev.guardClear (d : Dev) (n i : Nat) : Dev :=
  match Store.get none (d.core n).su.desc i with
  | none => d
  | some s =>
    if sdKind s.img = 5 && !s.started && !s.stopped && !(d.quiesced n) then
      let rows := ((sdDstRows s.img).map (fun r => rowsOf r.1.toNat r.2)).flatten
      d.modCore n (fun c => { c.setDesc i (some { s with started := true, pos := sdTotal s.img }) with
        progress := true, w := rows.foldl (fun m y => Store.set false m y false) c.w })
    else d

/-- GUARD_CLEAR (R184). -/
def execGuardClear (core sd : Nat) (s : State) : Out := onDesc s core sd (fun d => d.guardClear core sd)

/-- Bytes arrive in a scratchpad: the core changes a slot only when a ring slot is filled by them (R183). -/
def Core.land (c : Core) (rs : List RingDecl) (a : Nat) (bs : List Byte) (poison : Bool) : Core :=
  let c := c.padWrite a bs poison
  let full := (rowsOf a bs.length).any (fun row => match ringAt rs row with
    | some (r, k) => c.filled r k
    | none => false)
  { c.advanceTails rs with progress := c.progress || full }

/-- One run of a request is written at its destination. -/
def Dev.landRun (d : Dev) (p cx : Nat) (r : Dest × List Byte × Bool) : Dev :=
  match r.1 with
  | .pad k a => d.modCore k (fun c => c.land (d.rings k) a r.2.1 r.2.2)
  | .mem a => d.uniWrite p cx a r.2.1 r.2.2
  | .away => d

def runCores (q : Request) : List Nat :=
  (q.runs.filterMap (fun r => match r.1 with
    | .pad k _ => some k
    | _ => none)).eraseDups

/-- A write that is not in ring mode meets a filled ring slot (R164, R166). -/
def Dev.landBlocked (d : Dev) (q : Request) : Bool :=
  !q.ring && q.runs.any (fun r => match r.1 with
    | .pad k a => (d.core k).writeWaits (d.rings k) [(a, r.2.1.length)]
    | _ => false)

/-- The request is done: its tag or light buffer is free, and its descriptor has one request less in flight. -/
def Core.endRequest (c : Core) (q : Request) : Core :=
  let su := { c.su with req := c.su.req.filter (fun x => !(x.tag == q.tag && x.light == q.light)) }
  let su := match q.owner with
    | .window _ => su
    | .desc i => match Store.get none su.desc i with
      | none => su
      | some s =>
        let s := { s with inflight := s.inflight - 1 }
        { su with desc := Store.set none su.desc i (if s.stopped && s.inflight = 0 then none else some s) }
  { c with su := su, progress := true }.settle

/-- A request's bytes are written at their destination. -/
def Dev.landAll (d : Dev) (n : Nat) (q : Request) : Dev :=
  let p := d.partOf n
  let cx := match q.owner with
    | .desc i => match Store.get none (d.core n).su.desc i with
      | some s => s.ctx
      | none => d.ctxOf n
    | .window _ => d.ctxOf n
  ((q.runs.foldl (fun d r => d.landRun p cx r) d).modCore n (fun c => c.endRequest q)).settleLeaving

/-- An older request of the same descriptor, or an older scheduled one, still goes to the same core, so this one lands later
(R147, R170). -/
def olderFirst (rs : List Request) (q : Request) : Bool :=
  (rs.takeWhile (fun x => !(x.tag == q.tag && x.light == q.light))).any (fun x =>
    (x.owner == q.owner || (x.sched && q.sched)) && (runCores x).any (fun k => (runCores q).contains k))

/-- The full inbound hold of a core has turned a write of this sender away, and the network stops accepting its writes there (R166). -/
def Dev.stopped (d : Dev) (n : Nat) (q : Request) : Bool :=
  ((runCores q).filter (· != n)).any (fun k => decide (16 ≤ (d.core k).su.hold.length) &&
    (d.core n).su.req.any (fun x => x.refused && (runCores x).contains k))

/-- REQUEST_LANDS: the bytes are written, or wait in the destination's inbound hold of 16; tags 64 to 67 name the light
buffers (R166, R175, R176). -/
def Dev.requestLands (d : Dev) (n tag : Nat) : Dev :=
  let rs := (d.core n).su.req
  match rs.find? (fun q => if tag < 64 then !q.light && q.tag == tag else q.light && q.tag == tag - 64) with
  | none => d
  | some q =>
    if q.held || q.runs.any (fun r => r.1 == .away) || olderFirst rs q || d.stopped n q then d
    else if d.landBlocked q then
      match (runCores q).filter (· != n) with
      | [] => d
      | k :: _ =>
        let mark (f : Request → Request) : Dev := d.modCore n (fun c => { c with su := { c.su with
          req := c.su.req.map (fun x => if x = q then f x else x) } })
        if 16 ≤ (d.core k).su.hold.length then mark (fun x => { x with refused := true })
        else
          let d := mark (fun x => { x with held := true, refused := false })
          let x := d.freshCycles
          x.2.modCore k (fun c => { c with su := { c.su with hold := c.su.hold ++ [⟨n, tag⟩],
                                                             counters := bump c.su.counters 9 x.1 } })
    else d.landAll n q

/-- REQUEST_LANDS (R176). -/
def execRequestLands (core tag : Nat) (s : State) : Out := s.onCore core (fun d => d.requestLands core tag)

/-- INBOUND_HOLD_WRITE: the oldest held write whose slots have drained is written, and its sender's tag frees (R166). -/
def Dev.inboundHoldWrite (d : Dev) (n : Nat) : Dev :=
  let req (h : InHold) : Option Request :=
    (d.core h.src).su.req.find? (fun q => q.held && (if h.tag < 64 then !q.light && q.tag == h.tag else q.light && q.tag == h.tag - 64))
  match (d.core n).su.hold.find? (fun h => match req h with
    | some q => !(d.landBlocked q)
    | none => true) with
  | none => d
  | some h =>
    let d' := d.modCore n (fun c => { c with su := { c.su with hold := c.su.hold.erase h } })
    match req h with
    | some q => d'.landAll h.src q
    | none => d'

/-- INBOUND_HOLD_WRITE (R166). -/
def execInboundHoldWrite (core : Nat) (s : State) : Out := s.onCore core (fun d => d.inboundHoldWrite core)

/-- DESCRIPTOR_COMPLETION: every request issued and every byte written or acknowledged; the signal goes out and the shadow
moves in (R172). -/
def Dev.completeDesc (d : Dev) (n i : Nat) : Dev :=
  match Store.get none (d.core n).su.desc i with
  | none => d
  | some s =>
    if s.started && !s.stopped && s.pos = sdTotal s.img && s.inflight = 0 then
      let d := d.modCore n (fun c => { c with progress := true, su := { c.su with
        desc := Store.set none c.su.desc i (Store.get none c.su.shadow i),
        shadow := Store.set none c.su.shadow i none } })
      let d := if sdCsen s.img then d.signal n (sdCsem s.img) (sdCscnt s.img) ⟨s.tid, s.pc, true⟩ else d
      d.modCore n Core.settle
    else d

/-- DESCRIPTOR_COMPLETION (R172). -/
def execDescriptorCompletion (core sd : Nat) (s : State) : Out := onDesc s core sd (fun d => d.completeDesc core sd)

end Sys2Proof.Machine
end

