-- ==== Sys2Proof/Machine/Control.lean ====
section
/-! DEFINITION. The control engine and its tasks (chapter 5): the control instructions, speculation, cap and discard. A command
executes one instruction of a task; its program counter is in State, and the word there has to be one that the loader checked as a
control instruction (R113, R114). -/

namespace Sys2Proof.Machine
open Sys2Proof

def slotIx : TaskSlot → Nat
  | .capped => 0
  | .spec1 => 1
  | .spec2 => 2

/-! ## Registers (R111) -/

/-- X0 reads as 0. -/
def TaskRun.reg (t : TaskRun) (r : XReg) : Word64 := if r.val = 0 then 0#64 else Store.get 0#64 t.x r.val
/-- A write to X0 is discarded. -/
def TaskRun.setReg (t : TaskRun) (r : XReg) (v : Word64) : TaskRun :=
  if r.val = 0 then t else { t with x := Store.set 0#64 t.x r.val v }
/-- The next instruction: `n` bytes on. -/
def TaskRun.step (t : TaskRun) (n : Nat) : TaskRun := { t with pc := t.pc + n }

def Core.modTask (c : Core) (ix : Nat) (f : TaskRun → TaskRun) : Core :=
  { c with tasks := c.tasks.modify ix f, progress := true }
def Dev.modTask (d : Dev) (n ix : Nat) (f : TaskRun → TaskRun) : Dev := d.modCore n (fun c => c.modTask ix f)
/-- The task goes on to its next instruction. -/
def Dev.advance (d : Dev) (n ix : Nat) : Dev := d.modTask n ix (·.step 4)
/-- The task's result register is written and it goes on. -/
def Dev.result (d : Dev) (n ix : Nat) (xd : XReg) (v : Word64) : Dev := d.modTask n ix (fun t => (t.setReg xd v).step 4)

/-! ## Faults of a control instruction (R124, R129) -/

/-- A fault of task `ix`: a speculative task holds it, the capped task is aborted. -/
def Dev.ctlFault (d : Dev) (n ix : Nat) (t : TaskRun) (code addr : Nat) (uni : Bool) : Dev :=
  let fi : FaultInfo := ⟨code, false, t.tid, t.pc, addr, uni⟩
  if ix = 0 then d.abort n t.uid fi
  else d.modCore n (fun c => { c with tasks := c.tasks.modify ix (fun u => { u with held := some fi }) })

/-! ## The uncapped-write buffer (R124, R125) -/

/-- The read checks of a stream image in scratchpad: it is poisoned (R214). -/
def Core.imgPoisoned (c : Core) (a : Nat) : Bool := c.padPoisoned a 32

/-- A store into scratchpad by the control engine, if its ring slots are drained (R164). -/
def Dev.padStore (d : Dev) (n a : Nat) (bs : List Byte) : Option Dev :=
  let rs := d.rings n
  if (d.core n).writeWaits rs [(a, bs.length)] then none
  else some (d.modCore n (fun c => c.padRuns rs [(a, bs)] false))

/-- A capped store into the unified range: written through, and the core's cached copy follows (R117, R209). -/
def Dev.uniStore (d : Dev) (n a : Nat) (bs : List Byte) : Dev :=
  let line := a / 64
  let d := d.modCore n (fun c => { c with progress := true, dcache := c.dcache.map (fun l =>
    if l.1 = line then (l.1, l.2.take (a % 64) ++ bs ++ l.2.drop (a % 64 + bs.length)) else l) })
  d.uniWriteThrough (d.partOf n) (d.ctxOf n) a bs false

/-- The effect of a buffered operation at its destination; nothing when it has to wait. -/
def Dev.doOp (d : Dev) (n : Nat) (e : BufEntry) : Option Dev :=
  let img (a : Nat) (f : List Nat → Dev) : Dev :=
    if (d.core n).imgPoisoned a then d.abort n e.uid ⟨0x0501, false, e.tid, e.pc, a, false⟩ else f ((d.core n).imgAt a)
  match e.op with
  | .store a bs => d.padStore n a bs
  | .gstore a bs => some (d.uniStore n a bs)
  | .sarm i a => some (img a (fun w => d.arm n e.uid e.tid e.pc i w))
  | .sems i cnt => some (d.signal n i cnt ⟨e.tid, e.pc, false⟩)
  | .wopen i a => some (img a (fun w => d.openWindow n i w (some (e.uid, e.tid)) e.pc))
  | .wclose i => some (d.modCore n (fun c => { c with progress := true, su := c.su.closeWindow i }))

/-- Drain the capped task's buffered entries in order, as far as they go (R125). -/
def Dev.drainN : Nat → Dev → Nat → Nat → Dev
  | 0, d, _, _ => d
  | f + 1, d, n, uid =>
    match (d.core n).wbuf with
    | [] => d
    | e :: rest =>
      if e.uid != uid then d
      else
        match (d.modCore n (fun c => { c with wbuf := rest })).doOp n e with
        | none => d
        | some d' => Dev.drainN f d' n uid

/-- The capped task is ready to issue: its buffer has drained, its held entries are released, and a fault it held is raised
(R125). Answers whether it can go on. -/
def Dev.capReady (d : Dev) (n : Nat) : Bool × Dev :=
  match (d.core n).tasks with
  | [] => (false, d)
  | t :: _ =>
    let d := d.drainN (d.core n).wbuf.length n t.uid
    match (d.core n).tasks with
    | [] => (false, d)
    | u :: _ =>
      if u.uid != t.uid || (d.core n).wbuf.any (fun e => e.uid == t.uid) then (false, d)
      else
        let d := d.modCore n Core.dispatch
        match u.held with
        | some fi => (false, d.abort n u.uid fi)
        | none => (true, d)

/-! ## The instruction cache (Table 5-4, R117, R133) -/

/-- Core n fetches from byte `pc` of the code of context `x`: a miss is counted in ICMISS and its line enters a set of four (Table
5-4); which line of a full set gives way is a free choice (notes/assumptions/12). -/
def Core.fetchLine (n x pc : Nat) (c : Core) : Core :=
  let line := x * 2 ^ 26 + pc / 64
  if c.icache.contains line then c
  else
    let set := c.icache.filter (fun l => l % 128 == line % 128)
    let out := set[Config.icacheVictim n (Store.get 0#32 c.counters 9) % 4]?
    { c with icache := line :: (if set.length < 4 then c.icache else c.icache.filter (fun l => some l != out)),
             counters := bump c.counters 9 1 }

/-- The fetch of core n from byte `pc` of its code; a miss fills the line through the comb (R208). -/
def Dev.fetch (d : Dev) (n pc : Nat) : Dev :=
  let x := d.ctxOf n
  if (d.core n).icache.contains (x * 2 ^ 26 + pc / 64) then d
  else (d.modCore n (Core.fetchLine n x pc)).tableFill (Config.codeAt x + pc / 64 * 64)

/-! ## One instruction -/

/-- Whether an instruction can execute in a speculative task, or stops it until it caps (Table 5-3). -/
inductive Uncapped where
  | runs
  | stalls
  deriving DecidableEq, Repr

/-- Execute one instruction of the task: nothing when the core has no such task, when it waits at the barrier, holds a
fault or has to stall; 0x0101 where the word was not checked as a control instruction (R113, R114). -/
def Dev.ctl (d : Dev) (w : Who) (u : Uncapped) (f : Dev → Nat → Nat → TaskRun → Dev) : Dev :=
  let n := w.core
  let ix := slotIx w.task
  let go (d : Dev) (t : TaskRun) : Dev :=
    if d.fetchOk n t.pc then f (d.fetch n t.pc) n ix t else d.ctlFault n ix t 0x0101 0 false
  match (d.core n).tasks[ix]? with
  | none => d
  | some t =>
    if t.bwait.isSome then d
    else if ix = 0 then
      let x := d.capReady n
      if x.1 then go x.2 t else x.2
    else if t.held.isSome || u = .stalls then d
    else go d t

def ctlExec (s : State) (w : Who) (u : Uncapped) (f : Dev → Nat → Nat → TaskRun → Dev) : Out :=
  s.onCore w.core (fun d => d.ctl w u f)

/-- xd = f(xa, xb). -/
def aluOp (s : State) (w : Who) (xd xa xb : XReg) (f : Word64 → Word64 → Word64) : Out :=
  ctlExec s w .runs (fun d n ix t => d.result n ix xd (f (t.reg xa) (t.reg xb)))

def imm14 (i : BitVec 14) : Word64 := i.signExtend 64
def bool64 (b : Bool) : Word64 := if b then 1#64 else 0#64

/-- xd = f(xa, sign-extended imm). -/
def aluImm (s : State) (w : Who) (xd xa : XReg) (imm : BitVec 14) (f : Word64 → Word64 → Word64) : Out :=
  ctlExec s w .runs (fun d n ix t => d.result n ix xd (f (t.reg xa) (imm14 imm)))

/-- ADD (Table 5-3). -/
def execAdd (w : Who) (xd xa xb : XReg) (s : State) : Out := aluOp s w xd xa xb (fun a b => a + b)
/-- SUB. -/
def execSub (w : Who) (xd xa xb : XReg) (s : State) : Out := aluOp s w xd xa xb (fun a b => a - b)
/-- MUL: low 64 bits. -/
def execMul (w : Who) (xd xa xb : XReg) (s : State) : Out := aluOp s w xd xa xb (fun a b => a * b)
/-- DIVU: division by 0 gives all ones. -/
def execDivu (w : Who) (xd xa xb : XReg) (s : State) : Out :=
  aluOp s w xd xa xb (fun a b => if b = 0#64 then BitVec.allOnes 64 else a / b)
/-- REMU: xb = 0 gives xa. -/
def execRemu (w : Who) (xd xa xb : XReg) (s : State) : Out := aluOp s w xd xa xb (fun a b => if b = 0#64 then a else a % b)
/-- AND. -/
def execAnd (w : Who) (xd xa xb : XReg) (s : State) : Out := aluOp s w xd xa xb (fun a b => a &&& b)
/-- OR. -/
def execOr (w : Who) (xd xa xb : XReg) (s : State) : Out := aluOp s w xd xa xb (fun a b => a ||| b)
/-- XOR. -/
def execXor (w : Who) (xd xa xb : XReg) (s : State) : Out := aluOp s w xd xa xb (fun a b => a ^^^ b)
/-- SHL by xb[5:0]. -/
def execShl (w : Who) (xd xa xb : XReg) (s : State) : Out := aluOp s w xd xa xb (fun a b => a <<< (b.toNat % 64))
/-- SHR: right logical, by xb[5:0]. -/
def execShr (w : Who) (xd xa xb : XReg) (s : State) : Out := aluOp s w xd xa xb (fun a b => a >>> (b.toNat % 64))
/-- SRA: right arithmetic, by xb[5:0]. -/
def execSra (w : Who) (xd xa xb : XReg) (s : State) : Out := aluOp s w xd xa xb (fun a b => a.sshiftRight (b.toNat % 64))
/-- SLT, signed. -/
def execSlt (w : Who) (xd xa xb : XReg) (s : State) : Out := aluOp s w xd xa xb (fun a b => bool64 (a.slt b))
/-- SLTU, unsigned. -/
def execSltu (w : Who) (xd xa xb : XReg) (s : State) : Out := aluOp s w xd xa xb (fun a b => bool64 (a.ult b))
/-- MIN, signed. -/
def execMin (w : Who) (xd xa xb : XReg) (s : State) : Out := aluOp s w xd xa xb (fun a b => if b.slt a then b else a)
/-- MAX, signed. -/
def execMax (w : Who) (xd xa xb : XReg) (s : State) : Out := aluOp s w xd xa xb (fun a b => if a.slt b then b else a)
/-- ADDI. -/
def execAddi (w : Who) (xd xa : XReg) (imm : BitVec 14) (s : State) : Out := aluImm s w xd xa imm (fun a b => a + b)
/-- ANDI. -/
def execAndi (w : Who) (xd xa : XReg) (imm : BitVec 14) (s : State) : Out := aluImm s w xd xa imm (fun a b => a &&& b)
/-- ORI. -/
def execOri (w : Who) (xd xa : XReg) (imm : BitVec 14) (s : State) : Out := aluImm s w xd xa imm (fun a b => a ||| b)
/-- XORI. -/
def execXori (w : Who) (xd xa : XReg) (imm : BitVec 14) (s : State) : Out := aluImm s w xd xa imm (fun a b => a ^^^ b)
/-- SLTI, signed. -/
def execSlti (w : Who) (xd xa : XReg) (imm : BitVec 14) (s : State) : Out := aluImm s w xd xa imm (fun a b => bool64 (a.slt b))

/-- Shift by imm[5:0]; imm[13:6] not 0 is an invalid instruction (Table 5-3, R114). -/
def shiftImm (s : State) (w : Who) (xd xa : XReg) (imm : BitVec 14) (f : Word64 → Nat → Word64) : Out :=
  ctlExec s w .runs (fun d n ix t =>
    if imm.toNat < 64 then d.result n ix xd (f (t.reg xa) imm.toNat) else d.ctlFault n ix t 0x0101 0 false)

/-- SHLI. -/
def execShli (w : Who) (xd xa : XReg) (imm : BitVec 14) (s : State) : Out := shiftImm s w xd xa imm (fun a k => a <<< k)
/-- SHRI. -/
def execShri (w : Who) (xd xa : XReg) (imm : BitVec 14) (s : State) : Out := shiftImm s w xd xa imm (fun a k => a >>> k)
/-- SRAI. -/
def execSrai (w : Who) (xd xa : XReg) (imm : BitVec 14) (s : State) : Out := shiftImm s w xd xa imm (fun a k => a.sshiftRight k)

/-- LUH: bits [51:33] = imm19, [63:52] copies of its bit 18, [32:0] unchanged. -/
def execLuh (w : Who) (xd : XReg) (imm : BitVec 19) (s : State) : Out :=
  ctlExec s w .runs (fun d n ix t =>
    d.result n ix xd (imm.signExtend 31 ++ (t.reg xd).extractLsb' 0 33))
/-- LUI: sign-extended imm19 shifted left by 14. -/
def execLui (w : Who) (xd : XReg) (imm : BitVec 19) (s : State) : Out :=
  ctlExec s w .runs (fun d n ix _ => d.result n ix xd (imm.signExtend 64 <<< (14 : Nat)))

/-! ## Loads and stores (R115 to R117, R120, R123, R124) -/

/-- The effective address xa + imm. -/
def TaskRun.ea (t : TaskRun) (xa : XReg) (imm : BitVec 14) : Nat := (t.reg xa + imm14 imm).toNat

/-- Earlier tasks that are not settled: retired ones, and those before this one (R123). -/
def Core.earlierTids (c : Core) (ix : Nat) : List Nat := c.retired.map (·.2) ++ (c.tasks.take ix).map (·.tid)

/-- A load falls in the write set of an earlier unsettled task (R123). -/
def Dev.loadWaits (d : Dev) (n ix : Nat) (uni : Bool) (a m : Nat) : Bool :=
  let tbl := d.coreSec n 2
  ((d.core n).earlierTids ix).any (fun tid => meetsWriteSet (writeSet tbl tid) uni a m)

/-- TWSW gains the cycles of this wait (notes/assumptions/8). -/
def Dev.twsw (d : Dev) (n : Nat) : Dev :=
  let x := d.freshCycles
  x.2.modCore n (fun c => { c with counters := bump c.counters 8 x.1 })

/-- What the task has buffered for a byte: the youngest entry that covers it. -/
def bufByte (b : List BufEntry) (uid : Nat) (uni : Bool) (a : Nat) : Option Byte :=
  b.foldl (fun r e =>
    if e.uid != uid then r
    else match e.op with
      | .store x bs => if !uni && x ≤ a && a < x + bs.length then bs[a - x]? else r
      | .gstore x bs => if uni && x ≤ a && a < x + bs.length then bs[a - x]? else r
      | _ => r) none

/-- Bytes as a load of the task sees them: the buffered ones over those found (R123). -/
def overlay (b : List BufEntry) (uid : Nat) (uni : Bool) (a : Nat) (bs : List Byte) : List Byte :=
  (bs.zipIdx).map (fun x => (bufByte b uid uni (a + x.2)).getD x.1)

/-- LD and LW: `m` bytes of scratchpad, zero-extended. -/
def padLoad (s : State) (w : Who) (xd xa : XReg) (imm : BitVec 14) (m : Nat) : Out :=
  ctlExec s w .runs (fun d n ix t =>
    let a := t.ea xa imm
    if a % m ≠ 0 then d.ctlFault n ix t 0x0102 a false
    else if padBytes < a + m then d.ctlFault n ix t 0x0401 a false
    else if d.loadWaits n ix false a m then d.twsw n
    else
      let c := d.core n
      let own := (List.range m).all (fun i => (bufByte c.wbuf t.uid false (a + i)).isSome)
      match (if own then .ok () else c.readCheck (d.rings n) (d.guard n) .control [(a, m)] : Res Unit) with
      | .wait => d
      | .fault code x uni => d.ctlFault n ix t code x uni
      | .ok _ => d.result n ix xd (BitVec.ofNat 64 (leNat (overlay c.wbuf t.uid false a (c.padRead a m)))))

/-- LD (Table 5-3). -/
def execLd (w : Who) (xd xa : XReg) (imm : BitVec 14) (s : State) : Out := padLoad s w xd xa imm 8
/-- LW: zero-extended. -/
def execLw (w : Who) (xd xa : XReg) (imm : BitVec 14) (s : State) : Out := padLoad s w xd xa imm 4

/-- A side effect of a capped task takes place now, or waits; one of a speculative task is buffered, or stalls while the
buffer of 1,024 entries is full (R124). -/
def Dev.effect (d : Dev) (n ix : Nat) (t : TaskRun) (op : BufOp) : Dev :=
  let e : BufEntry := ⟨t.uid, t.tid, t.pc, op⟩
  if ix = 0 then
    match d.doOp n e with
    | none => d
    | some d' =>
      -- a fault of the operation has ended the task, or it goes on
      d'.modCore n (fun c => { c with tasks := match c.tasks with
        | u :: r => if u.uid = t.uid then u.step 4 :: r else u :: r
        | [] => [] })
  else if 1024 ≤ (d.core n).wbuf.length then d
  else (d.modCore n (fun c => { c with wbuf := c.wbuf ++ [e] })).advance n ix

/-- The lowest of the faults that hold, else the effect (R130). -/
def Dev.orFault (d : Dev) (n ix : Nat) (t : TaskRun) (faults : List (Bool × Nat)) (a : Nat) (uni : Bool) (k : Dev) : Dev :=
  match faults.find? (·.1) with
  | some f => d.ctlFault n ix t f.2 a uni
  | none => k

/-- Bytes outside the write set; scratchpad rows in a ring are exempt (R120). -/
def Dev.outsideWs (d : Dev) (n tid : Nat) (uni : Bool) (a m : Nat) : Bool :=
  let ws := writeSet (d.coreSec n 2) tid
  !(if uni then inWriteSet ws true a m else destOk (d.rings n) ws (a, m))

/-- ST and SW. -/
def padStoreExec (s : State) (w : Who) (xb xa : XReg) (imm : BitVec 14) (m : Nat) : Out :=
  ctlExec s w .runs (fun d n ix t =>
    let a := t.ea xa imm
    d.orFault n ix t [(a % m != 0, 0x0102), (d.outsideWs n t.tid false a m, 0x0103), (decide (padBytes < a + m), 0x0401)]
      a false (d.effect n ix t (.store a (toLe m (t.reg xb).toNat))))

/-- ST (Table 5-3). -/
def execSt (w : Who) (xb xa : XReg) (imm : BitVec 14) (s : State) : Out := padStoreExec s w xb xa imm 8
/-- SW. -/
def execSw (w : Who) (xb xa : XReg) (imm : BitVec 14) (s : State) : Out := padStoreExec s w xb xa imm 4

/-- The access crosses the partition's fence (R189, R330). -/
def Dev.fenced (d : Dev) (n a : Nat) : Bool := decide (a < uniTop) && d.addrPart a != d.partOf n

/-- Put a line into the data cache: which line of a full set gives way is a free choice (Table 5-4 names no policy). -/
def Dev.cacheLine (d : Dev) (n line : Nat) (bs : List Byte) : Dev :=
  let set := (d.core n).dcache.filter (fun l => l.1 % 128 == line % 128)
  if set.length < 4 then d.modCore n (fun c => { c with dcache := (line, bs) :: c.dcache })
  else
    let x := d.freshChoice set.length
    let out := ((set[x.1]?).getD (0, [])).1
    x.2.modCore n (fun c => { c with dcache := (line, bs) :: c.dcache.filter (fun l => l.1 != out) })

/-- GLD and GLW: through the data cache and the comb (R117, R208, R211). -/
def uniLoad (s : State) (w : Who) (xd xa : XReg) (imm : BitVec 14) (m : Nat) : Out :=
  ctlExec s w .runs (fun d n ix t =>
    let a := t.ea xa imm
    let cx := d.ctxOf n
    d.orFault n ix t [(a % m != 0, 0x0102), (d.fenced n a, 0x0A01), (decide (uniTop ≤ a) || !(d.rangeRead cx a m), 0x0502)] a true
      (if d.loadWaits n ix true a m then d.twsw n
       else
        let give (d : Dev) (line : List Byte) : Dev :=
          d.result n ix xd (BitVec.ofNat 64 (leNat (overlay (d.core n).wbuf t.uid true a ((line.drop (a % 64)).take m))))
        match (d.core n).dcache.find? (fun l => l.1 == a / 64) with
        | some l => give d l.2
        | none =>
          let x := d.combFetch cx a
          if !x.1 then x.2
          else if d.memPoisoned a m then d.ctlFault n ix t 0x0501 a true
          else
            let bs := d.memRead (a / 64 * 64) 64
            let d := (x.2.modCore n (fun c => { c with counters := bump c.counters 10 1 })).cacheLine n (a / 64) bs
            give d bs))

/-- GLD (Table 5-3). -/
def execGld (w : Who) (xd xa : XReg) (imm : BitVec 14) (s : State) : Out := uniLoad s w xd xa imm 8
/-- GLW: zero-extended. -/
def execGlw (w : Who) (xd xa : XReg) (imm : BitVec 14) (s : State) : Out := uniLoad s w xd xa imm 4

/-- The faults of a write into the unified range, lowest code first; 0x0A01 stands over 0x0502 (R331). -/
def Dev.uniFaults (d : Dev) (n tid a m : Nat) : List (Bool × Nat) :=
  [(a % m != 0, 0x0102), (d.outsideWs n tid true a m, 0x0103), (d.fenced n a, 0x0A01),
   (decide (uniTop ≤ a) || !(d.rangeWrite (d.ctxOf n) a m), 0x0502)]

/-- GST and GSW: written through. -/
def uniStoreExec (s : State) (w : Who) (xb xa : XReg) (imm : BitVec 14) (m : Nat) : Out :=
  ctlExec s w .runs (fun d n ix t =>
    let a := t.ea xa imm
    d.orFault n ix t (d.uniFaults n t.tid a m) a true (d.effect n ix t (.gstore a (toLe m (t.reg xb).toNat))))

/-- GST (Table 5-3). -/
def execGst (w : Who) (xb xa : XReg) (imm : BitVec 14) (s : State) : Out := uniStoreExec s w xb xa imm 8
/-- GSW. -/
def execGsw (w : Who) (xb xa : XReg) (imm : BitVec 14) (s : State) : Out := uniStoreExec s w xb xa imm 4

/-- GATOM: sent to the comb; the task stands at it until the old value returns (R212). -/
def execGatom (w : Who) (xd xa xb : XReg) (fn : BitVec 3) (s : State) : Out :=
  ctlExec s w .stalls (fun d n ix t =>
    let a := (t.reg xa).toNat
    if (d.core n).atom.isSome then d
    else d.orFault n ix t (d.uniFaults n t.tid a 8) a true
      { d.modCore n (fun c => { c with progress := true, atom := some ⟨t.uid, xd.val, a, t.reg xb, fn.toNat⟩ }) with
        tiers := { d.tiers with atomics := d.tiers.atomics ++ [n] } })

/-! ## Branches -/

/-- pc + 4 × imm, in 64 bits. -/
def branchTo (pc : Nat) (off : Int) : Nat := (((pc : Int) + 4 * off) % 2 ^ 64).toNat

def branch (s : State) (w : Who) (xb xa : XReg) (imm : BitVec 14) (c : Word64 → Word64 → Bool) : Out :=
  ctlExec s w .runs (fun d n ix t =>
    d.modTask n ix (fun u => if c (t.reg xa) (t.reg xb) then { u with pc := branchTo t.pc imm.toInt } else u.step 4))

/-- BEQ. -/
def execBeq (w : Who) (xb xa : XReg) (imm : BitVec 14) (s : State) : Out := branch s w xb xa imm (fun a b => a == b)
/-- BNE. -/
def execBne (w : Who) (xb xa : XReg) (imm : BitVec 14) (s : State) : Out := branch s w xb xa imm (fun a b => a != b)
/-- BLT, signed. -/
def execBlt (w : Who) (xb xa : XReg) (imm : BitVec 14) (s : State) : Out := branch s w xb xa imm (fun a b => a.slt b)
/-- BGE, signed. -/
def execBge (w : Who) (xb xa : XReg) (imm : BitVec 14) (s : State) : Out := branch s w xb xa imm (fun a b => !(a.slt b))
/-- BLTU, unsigned. -/
def execBltu (w : Who) (xb xa : XReg) (imm : BitVec 14) (s : State) : Out := branch s w xb xa imm (fun a b => a.ult b)
/-- BGEU, unsigned. -/
def execBgeu (w : Who) (xb xa : XReg) (imm : BitVec 14) (s : State) : Out := branch s w xb xa imm (fun a b => !(a.ult b))

/-- JAL: xd = pc + 4; pc = pc + 4 × imm19. -/
def execJal (w : Who) (xd : XReg) (imm : BitVec 19) (s : State) : Out :=
  ctlExec s w .runs (fun d n ix t =>
    d.modTask n ix (fun u => { u.setReg xd (BitVec.ofNat 64 (t.pc + 4)) with pc := branchTo t.pc imm.toInt }))
/-- JR: xd = pc + 4; pc = (xa + imm) with bits [1:0] cleared. -/
def execJr (w : Who) (xd xa : XReg) (imm : BitVec 14) (s : State) : Out :=
  ctlExec s w .runs (fun d n ix t =>
    d.modTask n ix (fun u => { u.setReg xd (BitVec.ofNat 64 (t.pc + 4)) with pc := t.ea xa imm / 4 * 4 }))

/-! ## Tasks (R110, R111, R118, R119, R122, R125) -/

/-- TEND: the task ends; its successor caps if it is the first speculative task, else every speculative task is discarded and
the successor is to start (R119, R125). -/
def execTend (w : Who) (imm : BitVec 14) (s : State) : Out :=
  ctlExec s w .stalls (fun d n ix t =>
    if 4 ≤ imm.toNat then d.ctlFault n ix t 0x0101 0 false
    else
      let succ := tdSucc (d.coreSec n 2) t.tid imm.toNat
      let c := d.core n
      let ended (c : Core) : Core := { c with retired := c.retired ++ [(t.uid, t.tid)], progress := true }
      match c.tasks[1]? with
      | some u =>
        if u.tid = succ then
          let d := d.setCore n { ended c with tasks := c.tasks.drop 1, counters := bump c.counters 6 1 }
          (d.capReady n).2.modCore n Core.settle
        else d.setCore n ({ ended c.discardSpec with
          tasks := [], startNext := (if succ = 0xFFFF then none else some succ), endl := (c.endl || succ == 0xFFFF) }).settle
      | none => d.setCore n ({ ended c with
          tasks := [], startNext := (if succ = 0xFFFF then none else some succ), endl := (c.endl || succ == 0xFFFF) }).settle)

/-- A task's run as it starts: ARG0 to ARG3 in X1 to X4 (R111). -/
def startRun (tbl : List Byte) (tid uid : Nat) : TaskRun :=
  { uid := uid, tid := tid, pc := tdWord tbl tid 1,
    x := (List.range 4).foldl (fun x i => Store.set 0#64 x (i + 1) (BitVec.ofNat 64 (tdWord tbl tid (4 + i)))) [] }

/-- The task that a core can start now: the capped one that is due, or the predicted successor of its last task (R122); none while
the core's partition does not run. -/
def Dev.toStart (d : Dev) (n : Nat) : Option Nat :=
  let c := d.core n
  let tbl := d.coreSec n 2
  if !(d.running (d.partOf n)) then none else
  match c.tasks with
  | [] => c.startNext
  | t :: r =>
    if t.bwait.isSome || 2 ≤ r.length then none
    else
      let last := r.getLastD t
      let succ := tdSucc tbl last.tid 0
      if tdBarrier tbl last.tid || succ = 0xFFFF then none else some succ

/-- The fetch of a task's descriptor through the data cache; a miss fills the line through the comb (Table 5-4, R208). A task table
has no address that a program could read, so its lines stand above those of the unified range (notes/assumptions/12). -/
def Dev.fetchTask (d : Dev) (n tid : Nat) : Dev :=
  let a := Config.taskTableAt (d.ctxOf n) (n - d.partBase (d.partOf n)) + 64 * tid
  let line := uniTop / 64 + a / 64
  if (d.core n).dcache.any (fun l => l.1 == line) then d
  else ((d.modCore n (fun c => { c with counters := bump c.counters 10 1 })).cacheLine n line
    (((d.coreSec n 2).drop (64 * tid)).take 64)).tableFill a

/-- TASK_START (R110, R122): the descriptor is fetched. -/
def execTaskStart (core : Nat) (s : State) : Out :=
  s.onCore core (fun d =>
    match d.toStart core with
    | none => d
    | some tid =>
      let t := startRun (d.coreSec core 2) tid d.uidNext
      let d' := (d.fetchTask core tid).modCore core (fun c => { c with startNext := none, progress := true, tasks := c.tasks ++ [t] })
      { d' with uidNext := d.uidNext + 1 })

/-- TABT: the program-abort fault, its immediate in FADDRL (Table 5-9). -/
def execTabt (w : Who) (imm : BitVec 14) (s : State) : Out :=
  ctlExec s w .stalls (fun d n ix t => d.ctlFault n ix t 0x0104 (imm.signExtend 32).toNat false)

/-- A special register (Table 5-2). -/
def Dev.special (d : Dev) (n : Nat) (t : TaskRun) (sel : Nat) : Option Nat :=
  let st := (d.ctx (d.ctxOf n)).stamp
  match sel with
  | 0 => some t.tid
  | 1 => some n
  | 2 => some (d.ctxOf n)
  | 3 => some (d.partOf n)
  | 4 => some st.step
  | 5 => some st.phase
  | 6 => some (d.part (d.partOf n)).beat
  | _ => none

/-- SPR; a reserved selector is an invalid instruction (R114). -/
def execSpr (w : Who) (xd : XReg) (imm : BitVec 14) (s : State) : Out :=
  ctlExec s w .runs (fun d n ix t =>
    match d.special n t imm.toNat with
    | some v => d.result n ix xd (BitVec.ofNat 64 v)
    | none => d.ctlFault n ix t 0x0101 0 false)

/-- FENCE: waits for every engine and stream write the task has issued. -/
def execFence (w : Who) (s : State) : Out :=
  ctlExec s w .stalls (fun d n ix t => if (d.core n).writesDone t.uid then d.advance n ix else d)

/-- BWAIT: the core arrives at the barrier, its speculative tasks discarded (R127); it waits through imm further releases
(R409). -/
def execBwait (w : Who) (imm : BitVec 14) (s : State) : Out :=
  ctlExec s w .stalls (fun d n _ _ => d.modCore n (fun c =>
    let c := c.discardSpec
    { c with tasks := c.tasks.map (fun u => { u with bwait := some imm.toNat }) }))

/-- RNG: the full 64-bit output for stream xa[11:0] at index xb[31:0] (R153, R154). -/
def execRng (w : Who) (xd xa xb : XReg) (s : State) : Out :=
  ctlExec s w .runs (fun d n ix t =>
    d.result n ix xd (BitVec.ofNat 64 (genOutput (d.part (d.partOf n)).seed (d.ctx (d.ctxOf n)).stamp.step
      ((t.reg xa).toNat % 4096) ((t.reg xb).toNat % 2 ^ 32))))

/-! ## Pushes, the mailbox, engine status (R67, R90, R113, R120, R124) -/

/-- PUSHM: the four inline words go to the matrix queue; a full queue stalls, and so do more than 4 speculative entries. -/
def execPushm (w : Who) (w0 w1 w2 w3 : Word32) (s : State) : Out :=
  ctlExec s w .runs (fun d n ix t =>
    let d := d.fetch n (t.pc + 16)
    let c := d.core n
    let spec := (c.mx.queue.filter (fun o => c.specUids.contains o.uid)).length
    if 8 ≤ c.mx.queue.length || (ix != 0 && decide (4 ≤ spec)) then d
    else
      let o : MatOp := ⟨c.mx.nextSeq, t.uid, t.tid, t.pc, w0.toNat, w1.toNat, w2.toNat, w3.toNat⟩
      (d.modTask n ix (·.step 20)).modCore n (fun c =>
        ({ c with mx := { c.mx with queue := pushInOrder MatOp.uid c.mx.queue o, nextSeq := c.mx.nextSeq + 1 } } : Core).dispatch))

/-- Destination ranges of a vector store. -/
def vecDest (o : VecOp) : List (Nat × Nat) :=
  if vOp o = 0x61 then lsRanges o else if vOp o = 0x63 then lsByteRanges o else []

/-- PUSHV: the two inline words go to the vector queue, word 1 replaced by xs[31:0] unless xs is X0; a substituted store
address is checked against the write set. -/
def execPushv (w : Who) (xs : XReg) (w0 w1 : Word32) (s : State) : Out :=
  ctlExec s w .runs (fun d n ix t =>
    let d := d.fetch n (t.pc + 8)
    let c := d.core n
    let spec := (c.vx.queue.filter (fun o => c.specUids.contains o.uid)).length
    let w1 := if xs.val = 0 then w1.toNat else (t.reg xs).toNat % 2 ^ 32
    let o : VecOp := ⟨t.uid, t.tid, t.pc, w0.toNat, w1⟩
    match (if xs.val = 0 then none else (vecDest o).find? (fun r => d.outsideWs n t.tid false r.1 r.2)) with
    | some r => d.ctlFault n ix t 0x0103 r.1 false
    | none =>
      if 16 ≤ c.vx.queue.length || (ix != 0 && decide (8 ≤ spec)) then d
      else (d.modTask n ix (·.step 12)).modCore n
        (fun c => { c with vx := { c.vx with queue := pushInOrder VecOp.uid c.vx.queue o } }))

/-- MVR: the next mailbox entry, zero-extended; waits while the mailbox is empty. -/
def execMvr (w : Who) (xd : XReg) (s : State) : Out :=
  ctlExec s w .stalls (fun d n ix _ =>
    match (d.core n).vx.mailbox with
    | [] => d
    | v :: r => (d.modCore n (fun c => { c with vx := { c.vx with mailbox := r, mailOf := c.vx.mailOf.drop 1 } })).result n ix xd (v.setWidth 64))

/-- ESTAT: the status word of engine imm, then the w1c bits set in xa are cleared. -/
def execEstat (w : Who) (xd xa : XReg) (imm : BitVec 14) (s : State) : Out :=
  ctlExec s w .stalls (fun d n ix t =>
    let c := d.core n
    let m := (t.reg xa).toNat
    match imm.toNat with
    | 0 => (d.modCore n (fun c => { c with mx := c.mx.clear t.uid m })).result n ix xd (BitVec.ofNat 64 c.shownMx.status)
    | 1 => (d.modCore n (fun c => { c with vx := c.vx.clear t.uid m })).result n ix xd (BitVec.ofNat 64 c.shownVx.status)
    | _ => d.ctlFault n ix t 0x0101 0 false)

/-! ## Streams and semaphores (R168, R169, R172, R177) -/

/-- An instruction that reads a 32-byte image at scratchpad byte xa: entry number, alignment and range. -/
def imageOp (s : State) (w : Who) (xa : XReg) (imm : BitVec 14) (op : Nat → BufOp) : Out :=
  ctlExec s w .runs (fun d n ix t =>
    let a := (t.reg xa).toNat
    d.orFault n ix t [(decide (32 ≤ imm.toNat), 0x0101), (a % 32 != 0, 0x0102), (decide (padBytes < a + 32), 0x0401)] a false
      (d.effect n ix t (op a)))

/-- SARM (R169). -/
def execSarm (w : Who) (xa : XReg) (imm : BitVec 14) (s : State) : Out := imageOp s w xa imm (.sarm imm.toNat)
/-- WOPEN (R177). -/
def execWopen (w : Who) (xa : XReg) (imm : BitVec 14) (s : State) : Out := imageOp s w xa imm (.wopen imm.toNat)

/-- WCLOSE (R177). -/
def execWclose (w : Who) (imm : BitVec 14) (s : State) : Out :=
  ctlExec s w .runs (fun d n ix t =>
    d.orFault n ix t [(decide (32 ≤ imm.toNat), 0x0101)] 0 false (d.effect n ix t (.wclose imm.toNat)))

/-- SWAIT: waits until the descriptor and its shadow are idle (R172). -/
def execSwait (w : Who) (imm : BitVec 14) (s : State) : Out :=
  ctlExec s w .stalls (fun d n ix t =>
    if 32 ≤ imm.toNat then d.ctlFault n ix t 0x0101 0 false
    else if (Store.get none (d.core n).su.desc imm.toNat).isSome || (Store.get none (d.core n).su.shadow imm.toNat).isSome then d
    else d.advance n ix)

/-- SEMW: waits until the counter holds at least xa[15:0], and subtracts it (R168). -/
def execSemw (w : Who) (xa : XReg) (imm : BitVec 14) (s : State) : Out :=
  ctlExec s w .stalls (fun d n ix t =>
    let v := Store.get 0 (d.core n).su.sem imm.toNat
    let k := (t.reg xa).toNat % 65536
    if 64 ≤ imm.toNat then d.ctlFault n ix t 0x0101 0 false
    else if v < k then d.suWaits n 8
    else (d.modCore n (fun c => { c with su := { c.su with sem := Store.set 0 c.su.sem imm.toNat (v - k) } })).advance n ix)

/-- SEMS: adds xa[15:0] to the counter that entry imm names (R168). -/
def execSems (w : Who) (xa : XReg) (imm : BitVec 14) (s : State) : Out :=
  ctlExec s w .runs (fun d n ix t =>
    d.orFault n ix t [(decide (64 ≤ imm.toNat), 0x0101)] 0 false
      (d.effect n ix t (.sems imm.toNat ((t.reg xa).toNat % 65536))))

end Sys2Proof.Machine
end

