-- ==== Sys2Proof/Machine/Contexts.lean ====
section
/-! DEFINITION. Contexts in a partition (chapter 13): the image-start state of a core, what waits, the choice of the resident
context, and the switch. -/

namespace Sys2Proof.Machine
open Sys2Proof

/-! ## Image-start state (R110, R111, R163, R166, R167, R184) -/

/-- A core of a context at image start: scratchpad from its image, W bits, counters at INIT, buckets full, TID 0 due. -/
def startCore (pad rings sems : List Byte) (lcore : Nat) (rate depth : Nat) : Core :=
  let rs := ringDecls rings
  { startNext := some 0,
    pad := (pad.zipIdx).foldl (fun m x => Store.set 0#8 m x.2 x.1) [],
    w := (List.range (ceilDiv pad.length 32)).foldl (fun m row =>
      if (ringAt rs row).isNone then Store.set false m row true else m) [],
    su := { bucket := ⟨rate, depth, depth * 512⟩,
            sem := (List.range 64).foldl (fun m i =>
              let w := wordAt sems (4 * i)
              if bits w 31 23 = lcore && bits w 22 17 = i then Store.set 0 m i (bits w 15 0) else m) [] } }

/-- What a logical core keeps whatever context it runs: its fault record and profiling counters, its bucket's setting, the tags of
contexts that are out, and the instruction cache, which is never invalidated while an image is loaded (R117). -/
def Core.keep (old new : Core) : Core :=
  { new with icache := old.icache, frec := old.frec, lost := old.lost, counters := old.counters,
             mx := { new.mx with fed := old.mx.fed, gate := old.mx.gate, wait := old.mx.wait },
             vx := { new.vx with issued := old.vx.issued, trn := old.vx.trn, wait := old.vx.wait },
             su := { new.su with bucket := old.su.bucket.full, counters := old.su.counters, parked := old.su.parked } }

/-- The device buckets that an image of partition p uses are full when it starts (R181). -/
def Dev.fillBuckets (d : Dev) (p : Nat) : Dev :=
  let d := (List.range Config.nSupers).foldl (fun d x =>
    if d.brd.pcfgMode && x != p then d else d.modSup x (fun u => { u with bucket := u.bucket.full })) d
  d.modBrd (fun b => { b with deepBucket := b.deepBucket.full })

/-- The image-start state of core n of partition p for context c. -/
def Dev.startCoreOf (d : Dev) (p c n : Nat) : Core :=
  let l := n - d.partBase p
  let b := (d.core n).su.bucket
  startCore (d.imgSec p 5 c l) (d.imgSec p 3 c l) (d.imgSec p 4 c l) n b.rate b.depth

/-! ## Where a descriptor's next byte lies (R170, R171) -/

/-- Source address of byte `pos` of a transfer. -/
def sdSrcAt (i : List Nat) (pos : Nat) : Nat := (strided (sdSaddr i) (sdSstr i) (pos / sdRun i) + (pos % sdRun i : Nat)).toNat

/-- Destination address of byte `pos`. -/
def sdDstAt (i : List Nat) (pos : Nat) : Nat :=
  if sdKind i = 2 then
    let e := sdElt i
    let b := 1024 * e
    let k := pos % b / e
    (strided (sdDaddr i) (sdDstr i) (k % 32) + ((32 * (pos / b) + k / 32) * e + pos % e : Nat)).toNat
  else if sdKind i = 3 then sdDaddr i + pos
  else (strided (sdDaddr i) (sdDstr i) (pos / sdRun i) + (pos % sdRun i : Nat)).toNat

/-- A transposed block in a ring: the output rows of the block one after another (notes/assumptions/17). -/
def sdRingAt (i : List Nat) (pos : Nat) : Nat :=
  if sdKind i = 2 then
    let e := sdElt i
    let b := 1024 * e
    let k := pos % b / e
    pos / b * b + (k % 32 * 32 + k / 32) * e + pos % e
  else pos

/-- A transfer takes the light path (R175). -/
def lightPath (n : Nat) (i : List Nat) : Bool :=
  sdKind i == 1 && !(sdSring i) && !(sdSuni i) && sdScore i == n && (sdDring i || !(sdDuni i)) && decide (sdTotal i ≤ 256)

/-- Bytes of a transfer's next piece, as far as its source row bounds them. -/
def SDesc.pieceLen (s : SDesc) (n : Nat) : Nat :=
  if lightPath n s.img then sdTotal s.img else min (sdRun s.img - s.pos % sdRun s.img) (min 512 (sdTotal s.img - s.pos))

/-- A ring-mode producer may start its next slot: it is drained, and for a remote ring a credit is left (R166). -/
def Dev.slotFree (d : Dev) (n k : Nat) (r : RingDecl) : Bool :=
  let c := d.core k
  let x := c.ringSt r.ix
  let s := max x.prod x.tail
  decide (s < x.head + r.n) && !(c.filled r s) &&
  (r.pcls != 2 || decide (Store.get 0 (d.core n).su.credit (k * 32 + r.ix) < r.n))

/-! ## Waiters (R183) -/

/-- Rings whose slots are not filled under a read, or are filled under a write. -/
def Core.waitRings (c : Core) (rs : List RingDecl) (write : Bool) (ranges : List (Nat × Nat)) : List Nat :=
  (((ranges.map (fun r => rowsOf r.1 r.2)).flatten).filterMap (fun row => match ringAt rs row with
    | some (r, k) => if c.filled r k == write then some r.ix else none
    | none => none)).eraseDups

/-- A waiter: the task, its instruction, and the rings it waits on (core, ring). -/
structure Waiter where
  uid : Nat
  tid : Nat
  pc : Nat
  rings : List (Nat × Nat × Bool)                -- core, ring, and whether it waits as the producer
  deriving DecidableEq, Repr

/-- What waits on a ring guard, a credit or a held slot on core n (R183). -/
def Dev.waiters (d : Dev) (n : Nat) : List Waiter :=
  let c := d.core n
  let rs := d.rings n
  let mk (uid tid pc : Nat) (l : List (Nat × Nat × Bool)) : List Waiter := if l.isEmpty then [] else [⟨uid, tid, pc, l⟩]
  let mxs := (([c.mx.array, c.mx.drainer, c.mx.aligner].filterMap id).map (fun o =>
    mk o.uid o.tid o.pc ((c.waitRings rs false (c.mx.stillReads o)).map (fun r => (n, r, false)) ++ (c.waitRings rs true (mxWrites o)).map (fun r => (n, r, true))))).flatten
  let vxs := match c.vx.queue with
    | [] => []
    | o :: _ =>
      let rg := if vOp o = 0x60 || vOp o = 0x61 then lsRanges o
        else if vOp o = 0x62 || vOp o = 0x63 then lsByteRanges o else []
      let wr := vOp o == 0x61 || vOp o == 0x63
      mk o.uid o.tid o.pc ((c.waitRings rs wr rg).map (fun r => (n, r, wr)))
  let sds := (c.su.desc.map (fun x => match x.2 with
    | none => []
    | some s =>
      if s.stopped || s.pos = sdTotal s.img || sdKind s.img = 5 then []
      else
        let src := if sdSring s.img then
            match d.srcRing n s.img with
            | some r => if c.filled r (c.ringSt r.ix).head then [] else [(n, r.ix, false)]
            | none => []
          else if sdSuni s.img then []
          else ((d.core (sdScore s.img)).waitRings (d.rings (sdScore s.img)) false
              ((List.range (s.pieceLen n)).map (fun j => (sdSrcAt s.img (s.pos + j), 1)))).map
            (fun r => (sdScore s.img, r, false))
        let dst := if sdKind s.img ≤ 2 && sdDring s.img then
            match d.dstRing n s.img with
            | some r => if decide (s.slots.length ≤ sdRingAt s.img s.pos / r.slotBytes) && !(d.slotFree n (sdDcore s.img) r) then [(sdDcore s.img, r.ix, true)] else []
            | none => []
          else if sdKind s.img ≤ 2 && !(sdDuni s.img) && sdDcore s.img = n then
            (c.waitRings rs true ((List.range (s.pieceLen n)).map (fun j => (sdDstAt s.img (s.pos + j), 1)))).map
              (fun r => (n, r, true))
          else []
        mk s.uid s.tid s.pc (src ++ dst))).flatten
  let wins := (c.su.live.map (fun x =>
    let w := x.2
    match d.ringOf n (winRingIx w) with
    | none => []
    | some r =>
      let y := c.ringSt r.ix
      let k := if w.chunk = 0 && w.off = 0 then max y.prod y.tail else w.slot + w.chunk
      let o := c.winOwner w
      if w.chunk < winCount w && w.off = 0 && !(decide (k < y.head + r.n) && !(c.filled r k)) then
        mk o.1 o.2 w.pc [(n, r.ix, true)] else [])).flatten
  let holds := (c.su.hold.map (fun h =>
    match (d.core h.src).su.req.find? (fun q => q.held && q.tag == h.tag % 64 && q.light == decide (64 ≤ h.tag)) with
    | some q => match q.owner with
      | .desc i => match Store.get none (d.core h.src).su.desc i with
        | some s => mk s.uid s.tid s.pc [(n, 32, true)]
        | none => []
      | .window _ => []
    | none => [])).flatten
  mxs ++ vxs ++ sds ++ wins ++ holds

/-- A window or a metered descriptor of the core waits on smoker tokens alone: that is no waiter, and it keeps the core from being
blocked (R181, R183). -/
def Dev.tokenWait (d : Dev) (n : Nat) : Bool :=
  let c := d.core n
  let short (dev len : Nat) : Bool := decide (c.su.bucket.tokens < len) || (match d.devTokens dev with
    | some v => decide (v < len)
    | none => false)
  c.su.live.any (fun x => match d.asks n x.2 with
    | none => false
    | some q => short q.1 q.2 || !(d.tokenTurn q.1 n)) ||
  c.su.desc.any (fun x => match x.2 with
    | none => false
    | some s =>
      let len := s.pieceLen n
      s.started && !s.stopped && s.pos != sdTotal s.img &&
      ((sdSuni s.img && !(sdSring s.img) && (d.readMeter (sdSrcAt s.img s.pos) len).isNone) ||
       (decide (sdKind s.img ≤ 2) && sdDuni s.img && !(sdDring s.img) && (d.meter (sdDstAt s.img s.pos) len).isNone)))

/-! ## States and candidates (Table 13-3, R145, R338) -/

/-- The core idles: its task list has ended, an abort has emptied it, or it has no image (R119, R129). -/
def Core.idle (c : Core) : Bool := c.tasks.isEmpty && c.startNext.isNone

/-- The cores of a context of partition p, in the engines or in its save area. -/
def Dev.ctxCore (d : Dev) (p c n : Nat) : Core :=
  if (d.part p).resident == some c then d.core n else Store.get {} (d.ctx c).saved n

def Dev.modCtxCore (d : Dev) (p c n : Nat) (f : Core → Core) : Dev :=
  if (d.part p).resident == some c then d.modCore n f
  else d.modCtx c (fun x => { x with saved := Store.set {} x.saved n (f (Store.get {} x.saved n)) })

/-- Ended: every core of the context is idle (Table 13-3). -/
def Dev.ended (d : Dev) (p c : Nat) : Bool := (d.partCores p).all (fun n => (d.ctxCore p c n).idle)

/-- The stamp after one more beat (R144): step, phase, count. -/
def nextStamp (lens : List Nat) (s : Stamp) : Stamp :=
  let k := s.count + 1
  if k < lens.getD s.phase 1 then { s with count := k }
  else if s.phase + 1 < lens.length then { s with phase := s.phase + 1, count := 0 }
  else { step := (s.step + 1) % 2 ^ 32, phase := 0, count := 0 }

/-- The context would enter step s + 2 before cap(s) (R145). -/
def Dev.heldFor (d : Dev) (p c : Nat) : Bool :=
  let s := (d.ctx c).stamp
  let n := nextStamp (d.phases p) s
  n.step != s.step && decide (((d.part p).capped + 2) % 2 ^ 32 < n.step)

def Dev.nctx (d : Dev) (p : Nat) : Nat := (d.imgCtxs p).length

/-- A candidate of R338: in the image of a started partition, RUN = 1, not ended, and not waiting for a cap. -/
def Dev.candidate (d : Dev) (p c : Nat) : Bool :=
  let x := d.ctx c
  x.inMap && (d.part p).started && x.run && !(d.ended p c) && !(x.hold && d.heldFor p c)

/-- The contexts of a partition in ascending order from after `r`, wrapping. -/
def afterCtx (l : List Nat) (r : Nat) : List Nat := l.filter (fun c => decide (r < c)) ++ l.filter (fun c => decide (c < r))

/-- The context that R338 switches to: nothing when the resident one stays, `some none` when no candidate is left. -/
def Dev.choose (d : Dev) (p : Nat) : Option (Option Nat) :=
  let l := d.imgCtxs p
  let lat (c : Nat) : Bool := (d.ctx c).latency
  let first (o : List Nat) : Option Nat :=
    match o.find? (fun c => d.candidate p c && lat c) with
    | some c => some c
    | none => o.find? (d.candidate p)
  match (d.part p).resident with
  | none => match first l with
    | some c => some (some c)
    | none => none
  | some r =>
    let o := afterCtx l r
    match (if lat r then none else o.find? (fun c => d.candidate p c && lat c)) with
    | some c => some (some c)
    | none =>
      if !(d.candidate p r) then
        match first o with
        | some c => some (some c)
        | none => if (d.ctx r).hold && d.heldFor p r then none else some none
      else if (d.part p).qslice ≤ (d.part p).ranBeats then
        match o.find? (fun c => d.candidate p c && lat c == lat r) with
        | some c => some (some c)
        | none => none
      else none

/-! ## Remote dependencies (R339) -/

/-- The channel key of an entry. -/
def chanKey (p i : Nat) : Nat := 2 ^ 24 * p + i

def Dev.sendChan (d : Dev) (p i : Nat) : Option SendChan := Store.get none d.fab.send (chanKey p i)
def Dev.recvChan (d : Dev) (p i : Nat) : Option RecvChan := Store.get none d.fab.recv (chanKey p i)

/-- A transfer to another module: packets, or a slice that another module owns (R247, R282). -/
def Dev.remoteDesc (d : Dev) (s : SDesc) : Bool :=
  sdKind s.img == 4 || (sdKind s.img == 3 && !(sdAmode s.img) && !(slOwn (d.sliceTab s.ctx) (sdLidx s.img)))

/-- A transfer of the context has a packet not yet acknowledged, or part of one gathered, or something waits on a ring that a DEST 1
channel feeds (R339). -/
def Dev.remoteDep (d : Dev) (p c : Nat) : Bool :=
  ((d.chanEntries p 0).any (fun e => ceCtx e.2 == c && (match d.sendChan p e.1 with
    | some ch => (ch.sent ++ ch.waiting).any (fun k => k.desc.isSome)
    | none => false))) ||
  ((d.partCores p).any (fun n => (d.core n).su.desc.any (fun x => match x.2 with
    | some s => d.remoteDesc s && (!s.data.isEmpty || s.inflight != 0)
    | none => false))) ||
  ((d.chanEntries p 1).any (fun e => ceCtx e.2 == c && ceDest e.2 == 1 &&
    (d.partCores p).any (fun n => (d.waiters n).any (fun w => w.rings.any (fun r => r.1 == ceDcore e.2 && r.2.1 == ceDrid e.2)))))

/-! ## The switch (R84, R108, R186, R334 to R337, R340) -/

/-- A core as it is saved: caches and hold registers are not; an MMA whose tile was in the shadow hold reloads it (R84). -/
def Core.saved (c : Core) : Core :=
  { c with dcache := [], icache := [], mx := { c.mx with shadow := none, active := [], reload := c.mx.shadow.or c.mx.reload, inArray := [] } }

/-- The request belongs to a transfer to another module, whose tags a parked context keeps (R301, R336). -/
def Dev.remoteReq (d : Dev) (n : Nat) (q : Request) : Bool :=
  match q.owner with
  | .window _ => false
  | .desc i => match Store.get none (d.core n).su.desc i with
    | some s => d.remoteDesc s
    | none => false

/-- No core of the partition holds a tag, light buffer or inbound hold but for remote transfers (R186). -/
def Dev.quiet (d : Dev) (p : Nat) : Bool :=
  (d.partCores p).all (fun n =>
    (d.core n).su.hold.isEmpty && (d.core n).atom.isNone &&
    (d.core n).su.req.all (d.remoteReq n))

/-- Bytes that a save or a restore of the context moves (R335, R337). -/
def Dev.switchBytes (d : Dev) (p c : Nat) : Nat :=
  ((d.partCores p).map (fun n =>
    let k := d.ctxCore p c n
    (d.ctx c).saveb + 98304 * (b2n k.mx.bankA.anyValid + b2n k.mx.bankB.anyValid))).sum

/-- Take the resident context out of the engines (R336). The tags of its sends that are not yet acknowledged stay in use. -/
def Dev.switchOut (d : Dev) (p c : Nat) : Dev :=
  let bytes := d.switchBytes p c
  let saved := (d.partCores p).foldl (fun m n => Store.set {} m n (d.core n).saved) []
  let d := (d.partCores p).foldl (fun d n =>
    let old := d.core n
    let k := old.keep {}
    d.setCore n { k with su := { k.su with parked := k.su.parked ++ old.su.req.map (fun q => (c, q.tag)) } }) d
  ((d.modCtx c (fun x => { x with saved := saved })).acct c (fun a => { a with swr := a.swr + bytes })).modPart p
    (fun x => { x with resident := none })

/-- Transfers that completed while their context was out signal at its restore (R340). -/
def Dev.completeAll (d : Dev) (n : Nat) : Dev := ((d.core n).su.desc.map (·.1)).foldl (fun d i => d.completeDesc n i) d

/-- Bring a context into the engines: its cores with their tags, then the signals recorded while it was out (R336, R340). A
poisoned saved state is the context fault 0x0A02. -/
def Dev.switchIn (d : Dev) (p c cycles : Nat) : Dev :=
  let bad := (d.ctx c).saved.any (fun x => x.2.padPoison.any (fun y => y.2))
  let sig := (d.ctx c).deferred
  let bytes := d.switchBytes p c
  let d := (d.partCores p).foldl (fun d n =>
    let k := (d.core n).keep (Store.get {} (d.ctx c).saved n)
    d.setCore n { k with su := { k.su with parked := k.su.parked.filter (fun x => x.1 != c) } }) d
  let d := (d.modCtx c (fun x => { x with saved := [], deferred := [], parked := false })).acct c (fun a =>
    { a with nsw := a.nsw + 1, srd := a.srd + bytes, swcyc := a.swcyc + cycles })
  let d := d.modPart p (fun x => { x with resident := some c, ranBeats := 0, qslice := d.brd.qslice, swn := x.swn + 1, lastsw := cycles })
  let d := (d.partCores p).foldl Dev.completeAll d
  let d := sig.foldl (fun d x => d.semAdd x.1 x.2.1 x.2.2 none) d
  if bad then d.contextFault 0x0A02 p c 0x1FF [] else d

/-- Choose and install the first resident context (R338), at START and after a partition reset, for its first beat. The only context of an image is always
in place (R144, R334). -/
def Dev.firstResident (d : Dev) (p : Nat) : Dev :=
  match (if d.nctx p ≤ 1 then (d.imgCtxs p).head?.map some else d.choose p) with
  | some (some c) =>
    let d := (d.partCores p).foldl (fun d n => d.setCore n ((d.core n).keep (Store.get {} (d.ctx c).saved n))) d
    (d.modCtx c (fun x => { x with saved := [] })).modPart p
      (fun x => { x with resident := some c, ranBeats := 1, qslice := d.brd.qslice })
  | _ => d

/-- A core without a context: only what it keeps; tags of parked contexts are dropped with their channels (R344). -/
def Dev.emptyCore (d : Dev) (n : Nat) : Dev :=
  let k := (d.core n).keep {}
  d.setCore n { k with su := { k.su with parked := [] } }

/-- Every context of the image at its image-start state, none resident (R344). -/
def Dev.contextsToStart (d : Dev) (p : Nat) : Dev :=
  let d := (d.partCores p).foldl Dev.emptyCore d
  let d := (d.imgCtxs p).foldl (fun d c =>
    let saved := (d.partCores p).foldl (fun m n => Store.set {} m n (d.startCoreOf p c n)) []
    let st : Stamp := { step := (d.part p).s0 }
    d.modCtx c (fun x => { x with stamp := st, hold := false, parked := false, due := [], waitq := false, deferred := [], saved := saved })) d
  d.modPart p (fun x => { x with resident := none, pend := none, prwb := 0, ranBeats := 0, quiesce := false })

/-- Installation: every context at its image-start state, the only context of an image in its cores (R326, R334). -/
def Dev.contextsInPlace (d : Dev) (p : Nat) : Dev :=
  let d := d.contextsToStart p
  if d.nctx p ≤ 1 then d.firstResident p else d

/-- Every core of the only context begins its first task, also one that a core reset has emptied since the image came
(R315; notes/assumptions/57). -/
def Dev.firstTasks (d : Dev) (p : Nat) : Dev :=
  match (d.part p).resident with
  | none => d
  | some c => (d.partCores p).foldl (fun d n =>
      let k := d.startCoreOf p c n
      d.modCore n (fun x => { x with startNext := k.startNext, endl := false })) d

end Sys2Proof.Machine
end

