-- ==== Sys2Proof/Machine/Fabric.lean ====
section
/-! DEFINITION. The sending half of the fabric (chapter 11): data packet headers, keys and nonces of data packets, channels, the recovery
channels among them (R361), credits, retransmission and failover; and the ACK, NAK and CREDIT packets that answer received ones. -/

namespace Sys2Proof.Machine
open Sys2Proof

/-! ## The parity group (R360, Table 14-8), background commands and pins -/

def rcCode (r : Nat) : Nat := bits r 31 30
def rcGsize (r : Nat) : Nat := bits r 29 25
def rcPos (r : Nat) : Nat := bits r 19 16
def rcBlen (r : Nat) : Nat := bits r 15 0
/-- Parity chunks of a row: 1 with XOR, 2 with Reed–Solomon. -/
def rcE (r : Nat) : Nat := rcCode r % 3

/-- The rank at a position of the group. -/
def Partition.groupRank (x : Partition) (pos : Nat) : Nat :=
  bits (Store.get 0 x.grank (pos / 2)) (16 * (pos % 2) + 15) (16 * (pos % 2))

/-- Ranks of the successors (R360). -/
def Partition.successors (x : Partition) : List Nat :=
  (List.range (rcE x.rcfg)).map (fun i => x.groupRank ((rcPos x.rcfg + 1 + i) % (max 1 (rcGsize x.rcfg))))

/-- Ranks of the members whose successor this one is. -/
def Partition.predecessors (x : Partition) : List Nat :=
  let g := max 1 (rcGsize x.rcfg)
  (List.range (rcE x.rcfg)).map (fun i => x.groupRank ((rcPos x.rcfg + 2 * g - 1 - i) % g))

/-- Ranks of the other members. -/
def Partition.others (x : Partition) : List Nat :=
  ((List.range (rcGsize x.rcfg)).filter (fun i => i != rcPos x.rcfg)).map x.groupRank

/-- A background command has ended (R309): its completion event carries these DETAIL words. -/
def Dev.endJob (d : Dev) (q cseq : Nat) (detail : List Nat) : Dev :=
  { d with jobs := d.jobs.map (fun j => if j.queue = q && j.cseq = cseq && !j.done then { j with done := true, detail := detail } else j) }

/-- Release one pin of each block and buffer (R266). -/
def Dev.unpin (d : Dev) (l : List (Nat × Nat)) : Dev :=
  l.foldl (fun d x => d.modCtx x.1 (fun c => { c with blkPins := Store.modify 0 c.blkPins x.2 (fun n => n - 1) })) d

/-! ## Headers, keys and nonces (Table 11-4, R393 to R397) -/

/-- `n` big-endian bytes of a value (R12). -/
def toBe (n v : Nat) : List Byte := (toLe n v).reverse

/-- The 64 header bytes of a data packet as GCM authenticates them: RTX, ECE, CREQ, FOV and word 4 read as 0 (R394). -/
def hdrAad (h : DataHdr) : List Byte :=
  toBe 4 (h.ver * 2 ^ 28 + h.cls * 2 ^ 24 + h.type * 2 ^ 16 + b2n h.enc * 2 ^ 15 + b2n h.fin * 2 ^ 14 + b2n h.epw * 2 ^ 9) ++
  toBe 2 h.srank ++ toBe 2 h.drank ++ toBe 2 h.swid ++ toBe 2 (h.chan * 16) ++ toBe 4 h.seq ++ toBe 4 0 ++
  toBe 4 h.step ++ toBe 2 h.phase ++ toBe 2 h.plen ++ toBe 4 (h.epoch * 65536) ++
  toBe 4 h.tsw0 ++ toBe 4 h.tsw1 ++ toBe 4 h.tsw2 ++ toBe 4 h.tsw3 ++ toBe 4 (h.keyid * 65536) ++ toBe 12 h.iv

/-- The nonce that a data packet's header fixes (R394). -/
def hdrNonce (h : DataHdr) : Nat :=
  h.srank * 2 ^ 80 + h.drank * 2 ^ 64 + h.chan * 2 ^ 52 + h.epoch * 2 ^ 32 + h.seq

def keyKey (kind ix gen : Nat) : Nat := 2 * (kind * 32 + ix) + gen
def Dev.key (d : Dev) (kind ix gen : Nat) : Option Key := Store.get none d.sec.keys (keyKey kind ix gen)
def Dev.hasKey (d : Dev) (kind ix : Nat) : Bool := (d.key kind ix 0).isSome || (d.key kind ix 1).isSome

/-- KEYREL TYPE of a KEYID KIND (Tables 16-2 and 16-7). -/
def kindType (kind : Nat) : Nat := if kind = 1 then 4 else kind - 1

/-- The generation installed last. -/
def Dev.newestGen (d : Dev) (kind ix : Nat) : Nat :=
  match d.sec.installed.reverse.find? (fun x => x.2.1 == kindType kind && x.2.2.1 == ix && (d.key kind ix x.2.2.2).isSome) with
  | some x => x.2.2.2
  | none => if (d.key kind ix 1).isSome then 1 else 0

/-- The generation that traffic of a step goes under: the newest from its ASTEP on, else the older one when there is one
(R397). -/
def Dev.sendKey (d : Dev) (kind ix step : Nat) : Option (Nat × Key) :=
  let g := d.newestGen kind ix
  match d.key kind ix g with
  | none => none
  | some k =>
    match d.key kind ix (1 - g) with
    | some o => if k.astep ≤ step then some (g, k) else some (1 - g, o)
    | none => some (g, k)

def keyId (kind ix gen : Nat) : Nat := kind * 4096 + gen * 2048 + ix

/-- KIND and INDEX of the key that a channel of partition p sends under (Table 16-3): the swarm key, but for the log to LOGRANK the
session key of the lowest-numbered context that holds one. -/
def Dev.chanKeyOf (d : Dev) (p chan : Nat) : Nat × Nat :=
  if chan = 4067 then (3, ((d.imgCtxs p).find? (fun c => d.hasKey 3 c)).getD 0) else (4, p)

/-- A data packet's bytes as sent: sealed under its channel's key when one is installed (R396). -/
def Dev.sealPkt (d : Dev) (p : Nat) (h : DataHdr) (payload : List Byte) : DataHdr × List Byte :=
  let y := d.chanKeyOf p h.chan
  match d.sendKey y.1 y.2 h.step with
  | none => (h, payload)
  | some k =>
    let h : DataHdr := { h with enc := true, keyid := keyId y.1 y.2 k.1, iv := hdrNonce h }
    (h, Config.gcmSeal k.2.bytes h.iv (hdrAad h) payload)

/-- The key would see a nonce a second time (R395). -/
def nonceUsed (u : Nat × Nat) (q : Nat) : Bool :=
  (decide (u.1 ≤ q) && decide (q < u.2)) || (decide (u.1 < u.2) && decide (u.1 + 2 ^ 32 ≤ q))
def nonceUse (u : Nat × Nat) (q : Nat) : Nat × Nat := if u.1 = u.2 then (q, q + 1) else (min u.1 q, max u.2 (q + 1))

/-! ## Peers (R276, R277, R298) -/

/-- Peer-table index of a rank of partition p's swarm; the fall-back reaches ranks below 16,384 (R298). -/
def Dev.peerKey (d : Dev) (p r : Nat) : Option Nat :=
  if d.brd.pcfgMode then (if r < 16384 then some (16384 * p + r) else none) else some r
def Dev.peer (d : Dev) (p r : Nat) : Peer :=
  match d.peerKey p r with
  | some k => Store.get {} d.fab.peers k
  | none => {}
def Dev.modPeer (d : Dev) (k : Nat) (f : Peer → Peer) : Dev :=
  d.modFab (fun x => { x with peers := Store.modify {} x.peers k f })

/-- UDP source port of a channel (R279). -/
def srcPort (chan : Nat) : Nat := 49152 + chan % 16384

/-- Bytes of a packet's frame on the wire (R280, R341). -/
def Dev.frameBytes (d : Dev) (net plen : Nat) (enc : Bool) : Nat :=
  14 + 4 * b2n (d.net net).tag + 40 + 8 + 64 + plen + 16 * b2n enc + 4


/-- PCP of a channel class (Table 11-3); failover traffic is class FO. -/
def clsPcp (cls : Nat) (fov : Bool) : Nat :=
  if fov then 5 else match cls with
    | 1 => 5
    | 2 => 4
    | 3 => 4
    | 4 => 2
    | _ => 7

/-- Put a data packet on a network (TXP). -/
def Dev.emitPkt (d : Dev) (net pcp dst : Nat) (h : DataHdr) (payload : List Byte) : Dev :=
  let y := d.nextHop net dst (srcPort h.chan)
  match y.1 with
  | none => y.2
  | some o => (y.2.modNet net (netCnt 14 1)).sendOn o.1 pcp (d.frameBytes net h.plen h.enc)
      (.data net o.1 o.2 (d.ipHdr net pcp dst) h payload)

def Dev.acctNet (d : Dev) (c net n : Nat) (tx : Bool) : Dev :=
  d.acct c (fun a => match net, tx with
    | 0, true => { a with natx := a.natx + n }
    | 0, false => { a with narx := a.narx + n }
    | _, true => { a with nbtx := a.nbtx + n }
    | _, false => { a with nbrx := a.nbrx + n })

/-! ## Send channels (R282 to R289) -/

def Dev.setSend (d : Dev) (p i : Nat) (x : SendChan) : Dev :=
  d.modFab (fun f => { f with send := Store.set none f.send (chanKey p i) (some x) })
def Dev.setRecv (d : Dev) (p i : Nat) (x : RecvChan) : Dev :=
  d.modFab (fun f => { f with recv := Store.set none f.recv (chanKey p i) (some x) })
def Dev.modSend (d : Dev) (p i : Nat) (f : SendChan → SendChan) : Dev :=
  match d.sendChan p i with
  | some x => d.setSend p i (f x)
  | none => d
def Dev.modRecv (d : Dev) (p i : Nat) (f : RecvChan → RecvChan) : Dev :=
  match d.recvChan p i with
  | some x => d.setRecv p i (f x)
  | none => d

/-- Index of the recovery channel CHAN to or from a rank, past the image's 8,192 entries (R361). -/
def recIx (chan rank : Nat) : Nat := 8192 + (chan - 4064) * 65536 + rank
/-- What the channel table would hold of it: class RC on network B, no context, no MINC (R361). -/
def recEntry (peer chan dir : Nat) : List Nat := [peer * 2 ^ 16 + chan * 16 + dir * 8 + 5, 4 * 2 ^ 28, 0, 0, 0, 0, 0, 0]
/-- The context that a channel's faults name: its own, or the partition's first for a recovery channel. -/
def Dev.chanCtx (d : Dev) (p chan : Nat) (entry : List Nat) : Nat :=
  if chan < 4064 then ceCtx entry else ((d.imgCtxs p).head?).getD 0
/-- Network bytes of a channel are its context's; a recovery channel belongs to none (R341, R361). -/
def Dev.acctChan (d : Dev) (chan : Nat) (entry : List Nat) (net n : Nat) (tx : Bool) : Dev :=
  if chan < 4064 then d.acctNet (ceCtx entry) net n tx else d

/-- Receive-buffer cells of a packet (R286). -/
def cellsOf (plen : Nat) : Nat := max 1 (ceilDiv plen 512)

/-- A header with everything that does not depend on the channel's sequence. -/
def Dev.hdr (d : Dev) (p peer chan type step phase plen : Nat) : DataHdr :=
  { ver := 1, cls := 2, type := type, enc := false, fin := false, rtx := false, ece := false, creq := false, fov := false,
    epw := false, rsv := false, srank := (d.part p).rank, drank := peer, swid := (d.part p).swid, chan := chan, seq := 0,
    ackseq := 0, step := step, phase := phase, plen := plen, epoch := (d.part p).epoch, tsw0 := 0, tsw1 := 0, tsw2 := 0,
    tsw3 := 0, keyid := 0, iv := 0 }

/-- A channel runs over network B: it is of B, or of A and its peer's traffic has moved (R299). -/
def Dev.chanNet (d : Dev) (p : Nat) (x : SendChan) : Nat :=
  if ceNet x.entry = 0 && !((d.peer p x.peer).onb && ceFovok x.entry) then 0 else 1

/-- Transmit a packet of a channel, first or again. -/
def Dev.transmit (d : Dev) (p : Nat) (x : SendChan) (k : SentPkt) (rtx : Bool) : Dev :=
  let net := d.chanNet p x
  let fov := net != ceNet x.entry
  let pr := d.peer p x.peer
  let h : DataHdr := { k.hdr with seq := k.seq % 2 ^ 32, rtx := rtx, fov := fov }
  let y := d.sealPkt p h k.payload
  let d := (d.emitPkt net (clsPcp (ceCls x.entry) fov) (if net = 0 then pr.addrA else pr.addrB) y.1 y.2).acctChan
    x.chan x.entry net (d.frameBytes net h.plen y.1.enc) true
  if rtx then d.modNet net (netCnt 15 1) else d

/-- Bytes of a network's retry buffer in use: header and payload of every copy (R284). -/
def Dev.retryUsed (d : Dev) (net : Nat) : Nat :=
  (d.fab.send.map (fun x => match x.2 with
    | some c => if ceNet c.entry = net then (c.sent.map (fun k => k.payload.length + 64)).sum else 0
    | none => 0)).sum
def retryBytes : Nat := 8388608

/-- A CREDIT packet for the next packet of a channel (R288). -/
def Dev.askCredit (d : Dev) (p i : Nat) : Dev :=
  match d.sendChan p i with
  | none => d
  | some x =>
    match x.waiting with
    | [] => d
    | k :: _ =>
      let net := d.chanNet p x
      let pr := d.peer p x.peer
      let st := d.partStamp p
      let h : DataHdr := { d.hdr p x.peer x.chan 0x12 st.step st.phase 0 with
        seq := x.seq % 2 ^ 32, tsw0 := min 256 (cellsOf k.payload.length), fov := net != ceNet x.entry }
      ((d.emitPkt net 7 (if net = 0 then pr.addrA else pr.addrB) h []).modNet net (netCnt 19 1)).modSend p i
        (fun x => { x with askedCredit := true })

/-- Send what credit and the retry buffer allow; a sender short of credit sets CREQ, or asks with a CREDIT packet when
nothing of it is unacknowledged (R284, R286 to R288). -/
def Dev.pumpN : Nat → Dev → Nat → Nat → Dev
  | 0, d, _, _ => d
  | f + 1, d, p, i =>
    match d.sendChan p i with
    | none => d
    | some x =>
      match x.waiting with
      | [] => d
      | k :: rest =>
        let n := cellsOf k.payload.length
        if x.credit < n then
          if x.sent.isEmpty && !x.askedCredit then d.askCredit p i else d
        else if retryBytes < d.retryUsed (ceNet x.entry) + k.payload.length + 64 then d
        else
          let key := chanKey p i * 65536 + (d.part p).epoch
          let ki := d.chanKeyOf p x.chan
          match d.sendKey ki.1 ki.2 k.hdr.step with
          | some g =>
            if nonceUsed (Store.get (0, 0) g.2.used key) x.seq then
              if x.failed then d
              else (d.modSend p i (fun x => { x with failed := true })).contextFault 0x0D06 p (d.chanCtx p x.chan x.entry) 0x1FF []
            else
              let g2 : Key := { g.2 with used := Store.modify (0, 0) g.2.used key (fun u => nonceUse u x.seq) }
              let d := d.modSec (fun s => { s with keys := Store.set none s.keys (keyKey ki.1 ki.2 g.1) (some g2) })
              Dev.pumpN f (sendHead d p i x k rest n) p i
          | none => Dev.pumpN f (sendHead d p i x k rest n) p i
where
  /-- First transmission of the head: it takes its SEQ and its cells. -/
  sendHead (d : Dev) (p i : Nat) (x : SendChan) (k : SentPkt) (rest : List SentPkt) (n : Nat) : Dev :=
    let short := match rest with
      | r :: _ => decide (x.credit - n < cellsOf r.payload.length)
      | [] => false
    let k : SentPkt := { k with seq := x.seq, hdr := { k.hdr with creq := short } }
    let x : SendChan := { x with seq := x.seq + 1, credit := x.credit - n, sent := x.sent ++ [k], waiting := rest,
                                 creq := short, askedCredit := false }
    (d.setSend p i x).transmit p x k false

def Dev.pump (d : Dev) (p i : Nat) : Dev :=
  match d.sendChan p i with
  | some x => Dev.pumpN (x.waiting.length + 1) d p i
  | none => d

/-- Every channel of a network that waits for the retry buffer goes on, in channel-table order (R284). -/
def Dev.pumpAll (d : Dev) (net : Nat) : Dev :=
  (d.fab.send.map (·.1)).foldl (fun d k => match Store.get none d.fab.send k with
    | some x => if ceNet x.entry = net && !x.waiting.isEmpty then d.pump (k / 2 ^ 24) (k % 2 ^ 24) else d
    | none => d) d

/-- Form a packet on a channel. -/
def Dev.enqueue (d : Dev) (p i : Nat) (k : SentPkt) : Dev :=
  (d.modSend p i (fun x => { x with waiting := x.waiting ++ [k] })).pump p i

/-- WRITE packets of a message on a recovery channel, which opens with its first packet: STEP is the base's or the record's, PHASE the
stamp's at this moment (R143, R361; notes/assumptions/153). A channel that has failed takes nothing (R351). -/
def Dev.recSend (d : Dev) (p rank chan step offset : Nat) (bs : List Byte) : Dev :=
  let i := recIx chan rank
  let x : SendChan := (d.sendChan p i).getD { peer := rank, chan := chan, entry := recEntry rank chan 0 }
  if x.failed then d
  else
    let n := max 1 (ceilDiv bs.length 8192)
    let ph := (d.partStamp p).phase
    (List.range n).foldl (fun d k =>
      let b := (bs.drop (8192 * k)).take 8192
      let h : DataHdr := { d.hdr p rank chan 1 (step % 2 ^ 32) ph b.length with
        fin := decide (k + 1 = n), tsw0 := (offset + 8192 * k) % 2 ^ 32 }
      d.enqueue p i { seq := 0, hdr := h, payload := b }) (d.setSend p i x)

/-! ## Acknowledgement packets of a receive channel (R283 to R288) -/

/-- An ACK with the grant that is due (R284). -/
def Dev.sendAck (d : Dev) (p i net : Nat) : Dev :=
  match d.recvChan p i with
  | none => d
  | some x =>
    let pr := d.peer p x.peer
    let st := d.partStamp p
    let h : DataHdr := { d.hdr p x.peer x.chan 0x10 st.step st.phase 0 with
      ackseq := x.next % 2 ^ 32, tsw0 := x.grantDue, ece := x.ceDue, fov := net != ceNet x.entry }
    let y : RecvChan := { x with grantDue := 0, unacked := 0, ceDue := false }
    (d.emitPkt net 7 (if net = 0 then pr.addrA else pr.addrB) h []).setRecv p i y

/-- A NAK for NEXT, or one with EPW (R283, R285). -/
def Dev.sendNak (d : Dev) (p i net : Nat) (epw : Bool) : Dev :=
  match d.recvChan p i with
  | none => d
  | some x =>
    let pr := d.peer p x.peer
    let st := d.partStamp p
    let h : DataHdr := { d.hdr p x.peer x.chan 0x11 st.step st.phase 0 with
      ackseq := x.next % 2 ^ 32, tsw0 := x.next % 2 ^ 32, epw := epw, fov := net != ceNet x.entry }
    (d.emitPkt net 7 (if net = 0 then pr.addrA else pr.addrB) h []).modNet net (netCnt 16 1)

/-- Cells of a network reserved by MINC. -/
def Dev.reserved (d : Dev) (net : Nat) : Nat :=
  (d.fab.recv.map (fun x => match x.2 with
    | some c => if ceNet c.entry = net then c.minc else 0
    | none => 0)).sum

/-- Free cells of the shared pool (Table 11-13). -/
def Dev.freeCells (d : Dev) (net : Nat) : Nat := 24576 - d.reserved net - (d.net net).shared

/-- Grant shared cells to a channel if the pool holds them (R287, R288). -/
def Dev.grantShared (d : Dev) (p i n : Nat) : Option Dev :=
  match d.recvChan p i with
  | none => none
  | some x =>
    let net := ceNet x.entry
    if n ≤ d.freeCells net then
      some ((d.setRecv p i { x with shared := x.shared + n, grantDue := x.grantDue + n, want := 0 }).modNet net
        (fun y => { y with shared := y.shared + n }))
    else none

/-- Channels of a network that wait for shared cells: CHAN + 1, peer and key (R287, R288). -/
def Dev.wanting (d : Dev) (net : Nat) : List (Nat × Nat × Nat) :=
  d.fab.recv.filterMap (fun x => match x.2 with
    | some c => if ceNet c.entry = net && c.want != 0 then some (c.chan + 1, c.peer, x.1) else none
    | none => none)

/-- Ascending CHAN, and ascending peer among channels of one number. -/
def chanBefore (a b : Nat × Nat) : Bool := decide (a.1 < b.1) || (a.1 == b.1 && decide (a.2 < b.2))

/-- The waiting channel whose turn it is: the next one in ascending order after the last one served, round and round. -/
def Dev.nextWant (d : Dev) (net : Nat) : Option (Nat × Nat × Nat) :=
  let least (l : List (Nat × Nat × Nat)) : Option (Nat × Nat × Nat) :=
    l.foldl (fun m x => match m with
      | some y => if chanBefore (x.1, x.2.1) (y.1, y.2.1) then some x else some y
      | none => some x) none
  let l := d.wanting net
  match least (l.filter (fun x => chanBefore (d.net net).granted (x.1, x.2.1))) with
  | some x => some x
  | none => least l

/-- Grants from the pool, one chunk of 16 cells a turn, as long as it holds one (R287, R288): the channels served. -/
def Dev.grantTurns (net : Nat) : Nat → Dev → List Nat → Dev × List Nat
  | 0, d, l => (d, l)
  | f + 1, d, l =>
    match (if d.freeCells net < 16 then none else d.nextWant net) with
    | none => (d, l)
    | some x =>
      let d := d.modRecv (x.2.2 / 2 ^ 24) (x.2.2 % 2 ^ 24) (fun c =>
        { c with shared := c.shared + 16, grantDue := c.grantDue + 16, want := c.want - 16 })
      Dev.grantTurns net f (d.modNet net (fun y => { y with shared := y.shared + 16, granted := (x.1, x.2.1) }))
        (if l.contains x.2.2 then l else l ++ [x.2.2])

/-- Requests recorded while the pool was short are granted as cells return (R287, R288; notes/assumptions/18). -/
def Dev.serveWants (d : Dev) (net : Nat) : Dev :=
  let y := Dev.grantTurns net (d.freeCells net / 16) d []
  y.2.foldl (fun d k => match Store.get none d.fab.recv k with
    | some c => d.sendAck (k / 2 ^ 24) (k % 2 ^ 24) c.arr
    | none => d) y.1

/-- Cells of the packets of a channel that lie in the receive buffer. -/
def RecvChan.heldCells (x : RecvChan) : Nat := (x.held.map (fun k => cellsOf k.hdr.plen)).sum

/-- The `n` cells of a delivered packet return: to the channel through GRANT until its reserved cells are all with the sender or under
way again, beyond that to the shared pool (R286, R287; notes/assumptions/18). -/
def Dev.giveBack (d : Dev) (p i n : Nat) : Dev :=
  match d.recvChan p i with
  | none => d
  | some x =>
    let net := ceNet x.entry
    let out := x.minc + x.shared - (x.heldCells + n)
    let s := min x.shared (n - min n (x.minc - out))
    ((d.setRecv p i { x with shared := x.shared - s, grantDue := x.grantDue + (n - s) }).modNet net
      (fun y => { y with shared := y.shared - s })).serveWants net

/-! ## Channels at image start and reset (R283, R286, R290, R301) -/

/-- Window of a stamp on a channel with DEST 0 (R290). -/
def Dev.window (d : Dev) (p : Nat) (e : List Nat) (step phase : Nat) : Nat :=
  let w := max 1 (ceWph e)
  step * ((d.phases p).length / w) + phase / w

/-- Discard a partition's channels: sequences, credits, retry copies and held packets (R301). -/
def Dev.dropChannels (d : Dev) (p : Nat) : Dev :=
  let mine (k : Nat) : Bool := k / 2 ^ 24 == p
  let out (net : Nat) : Nat := (d.fab.recv.map (fun x => match x.2 with
    | some c => if mine x.1 && ceNet c.entry = net then c.shared else 0
    | none => 0)).sum
  let d := (d.modNet 0 (fun y => { y with shared := y.shared - out 0 })).modNet 1 (fun y => { y with shared := y.shared - out 1 })
  d.modFab (fun f => { f with send := f.send.filter (fun x => !(mine x.1)), recv := f.recv.filter (fun x => !(mine x.1)) })

/-- A partition's channels go, and the cells they held serve the others (R287, R301). -/
def Dev.closeChannels (d : Dev) (p : Nat) : Dev := ((d.dropChannels p).serveWants 0).serveWants 1

/-- Open the channels of a partition's image at a step: both directions at SEQ 0, windowed and input rings' control records
cleared, and MINC granted on every receive channel. OLDW is the window of (step, 0) (notes/assumptions/19). -/
def Dev.openChannels (d : Dev) (p step : Nat) : Dev :=
  let d := d.dropChannels p
  let d := (d.chanEntries p 0).foldl (fun d e =>
    d.setSend p e.1 { peer := cePeer e.2, chan := ceChan e.2, entry := e.2 }) d
  let d := (d.chanEntries p 1).foldl (fun d e =>
    let oldw := d.window p e.2 step 0
    let d := d.setRecv p e.1 { peer := cePeer e.2, chan := ceChan e.2, entry := e.2, minc := ceMinc e.2,
                               grantDue := ceMinc e.2, arr := ceNet e.2, oldw := if ceDest e.2 = 0 then oldw else 0 }
    let d := if ceDest e.2 = 0 then
        d.unitWrite p (ceBase e.2) (toLe 4 0 ++ toLe 4 oldw ++ List.replicate 120 0#8) false
      else if ceDest e.2 = 4 then
        (List.range (ceEbytes e.2)).foldl (fun d k => d.unitWrite p (ceBase e.2 + k * ceSlotb e.2) (List.replicate 16 0#8) false) d
      else d
    d.sendAck p e.1 (ceNet e.2)) d
  (d.serveWants 0).serveWants 1

/-! ## Acknowledged packets (R172, R176, R284) -/

/-- Free the requests of a descriptor whose bytes were sent, oldest first, up to `n` bytes. -/
def freeAway (c : Core) (sd n : Nat) : Nat → Core
  | 0 => c
  | f + 1 =>
    match c.su.req.find? (fun q => q.owner == .desc sd && q.runs.any (fun r => r.1 == .away)) with
    | none => c
    | some q =>
      let len := (q.runs.map (fun r => r.2.1.length)).sum
      if n < len then c else freeAway (c.endRequest q) sd (n - len) f

/-- The bytes of a descriptor's transfer, of context c, have been acknowledged, added or parked: the tags of a
context that is out are free too. -/
def Dev.awayDone (d : Dev) (p c : Nat) (t : Nat × Nat) (n : Nat) : Dev :=
  let old := (d.ctxCore p c t.1).su.req
  let d := d.modCtxCore p c t.1 (fun k => freeAway k t.2 n 64)
  let gone := (old.filter (fun q => !((d.ctxCore p c t.1).su.req.contains q))).map (·.tag)
  (if (d.part p).resident == some c then d
   else d.modCore t.1 (fun k => { k with su := { k.su with
     parked := k.su.parked.filter (fun x => !(x.1 == c && gone.contains x.2)) } })).settleLeaving

/-- A packet is acknowledged. -/
def Dev.acked (d : Dev) (p i : Nat) (k : SentPkt) : Dev :=
  match d.sendChan p i with
  | none => d
  | some x =>
    let d := match k.desc with
      | some t => d.awayDone p (ceCtx x.entry) t k.payload.length
      | none => d
    match k.push with
    | some w => d.modPart p (fun y => { y with pushWait := y.pushWait.erase w })
    | none => d

/-! ## Failover and path failure (R284, R299) -/

/-- Move a peer's traffic to network B: its unacknowledged packets go out again over B. -/
def Dev.failover (d : Dev) (p peer : Nat) : Dev :=
  match d.peerKey p peer with
  | none => d
  | some k =>
    let d := (d.modPeer k (fun x => { x with onb := true, heardA := false })).event 0x0808 p 0 0x1FF []
    let d := d.modNet 0 (netCnt 23 1)
    d.fab.send.foldl (fun d y => match y.2 with
      | some x => if y.1 / 2 ^ 24 == p && x.peer == peer && ceNet x.entry == 0 && ceFovok x.entry then
          let x : SendChan := { x with sent := x.sent.map (fun k => { k with tries := 0, mul := 1 }) }
          x.sent.foldl (fun d k => d.transmit p x k true) (d.setSend p (y.1 % 2 ^ 24) x)
        else d
      | none => d) d

/-- Network A traffic to a peer can move (R299). -/
def Dev.canFail (d : Dev) (p peer : Nat) : Bool :=
  d.fab.netA.fov && (d.peer p peer).addrB != 0 && !(d.peer p peer).onb

/-- The base being built is abandoned: pins dropped, the members told, 0x0B04 (R362). -/
def Dev.abandonBase (d : Dev) (p : Nat) : Dev :=
  let x := d.part p
  if x.bst = 0 then d
  else
    let d := d.unpin (x.basePins.map (fun y => (y.1, y.2.1)))
    let d := x.others.foldl (fun d r => d.recSend p r 4065 x.bbuild 0xFFFFFFFF []) d
    let d := x.baseDue.foldl (fun d j => d.endJob j.1 j.2 [0x0B04, x.bbuild]) d
    (d.modPart p (fun y => { y with bst := 0, bbuild := 0, baseNew := none, parity := [], parityGot := [], basePins := [],
                                    baseDue := [] })).event 0x0B04 p 0 0x1FF []

/-- RMAX is reached on a channel: on network A the peer's FOVOK channels move where failover is allowed; a channel that does not move
fails, with a context fault, or, a recovery channel, with an event and the base (R284, R299, R362). -/
def Dev.pathFailed (d : Dev) (p i : Nat) : Dev :=
  match d.sendChan p i with
  | none => d
  | some x =>
    if x.failed then d
    else
      let moves := ceNet x.entry = 0 && d.canFail p x.peer
      let d := if moves then d.failover p x.peer else d
      if moves && ceFovok x.entry then d
      else
        let d := (d.modSend p i (fun x => { x with failed := true })).modNet (d.chanNet p x) (netCnt 24 1)
        if x.chan < 4064 then d.contextFault 0x0804 p (ceCtx x.entry) 0x1FF []
        else
          let d := d.event 0x0804 p 0 0x1FF []
          if (d.part p).others.contains x.peer && x.chan != 4067 then d.abandonBase p else d

/-- Every port in PMASK of the entry that matches an address on network A is down (R299). -/
def Dev.pathDown (d : Dev) (dst : Nat) : Bool := match d.route 0 dst with
  | some w => !((List.range 4).any (fun k => bit (fwMask w) k && (d.port k).up))
  | none => false

/-- The peers whose network A ports are all down move to network B, as soon as links, FOV, the forwarding table or the peer table allow
(R299). -/
def Dev.judgePaths (d : Dev) : Dev :=
  (d.fab.peers.map (·.1)).foldl (fun d k =>
    let p := if d.brd.pcfgMode then k / 16384 else 0
    let r := if d.brd.pcfgMode then k % 16384 else k
    let q := Store.get {} d.fab.peers k
    if q.valid && d.pathDown q.addrA && d.canFail p r then d.failover p r else d) d

end Sys2Proof.Machine
end

