-- ==== Sys2Proof/Machine/Recompute.lean ====
section
/-! DEFINITION. Recomputation (chapter 9): micro-batches, stash plans and releases, with the nectar log's append (R350, R351). -/

namespace Sys2Proof.Machine
open Sys2Proof

/-! ## The nectar log (R350, R351) -/

def logDepth : Nat := 2097152

/-- Append a record to the log, send it to the successors and to LOGRANK (R350, R351). -/
def Dev.logAppend (d : Dev) (p type step : Nat) (tsw : List Nat) : Dev :=
  let x := d.part p
  let rec' : LogRecord := [type * 2 ^ 24 + x.epoch % 2 ^ 16, x.lsn, step] ++ (List.range 5).map (fun i => tsw.getD i 0)
  let d := d.modPart p (fun x => { x with log := x.log ++ [rec'], lsn := x.lsn + 1,
                                          logFull := decide (logDepth ≤ x.log.length + 1) })
  let bs := (rec'.map (toLe 4)).flatten
  let d := x.successors.foldl (fun d r => d.recSend p r 4064 step (32 * x.lsn) bs) d
  if bit x.logrank 16 then d.recSend p (bits x.logrank 15 0) 4067 step (32 * x.lsn) bs else d

def lrType (r : LogRecord) : Nat := bits (r.getD 0 0) 31 24
def lrLsn (r : LogRecord) : Nat := r.getD 1 0
def lrStep (r : LogRecord) : Nat := r.getD 2 0
def lrT (r : LogRecord) (i : Nat) : Nat := r.getD (3 + i) 0
/-- Context of a RECORD entry (Table 14-3). -/
def lrCtx (r : LogRecord) : Nat := bits (lrT r 4) 28 24

/-- The replay of a partition ends with a result (R365, Table 14-9). -/
def Dev.endReplay (d : Dev) (p result step : Nat) : Dev :=
  match (d.part p).replay with
  | none => d
  | some r => (d.modPart p (fun x => { x with replay := none })).endJob r.queue r.cseq [result, step]

/-- The newest step that any context of the partition has begun. -/
def Dev.newestStep (d : Dev) (p : Nat) : Nat :=
  ((d.imgCtxs p).map (fun c => (d.ctx c).stamp.step)).foldl max (d.part p).s0

/-! ## Sample slots, regions and plans (R224 to R231) -/

/-- x rounded up to a multiple of 512 bytes. -/
def gran (x : Nat) : Nat := ceilDiv x 512 * 512
def bkRsz (t : List Byte) : Nat := bkQuota t * 524288 / bkMbd t
def bkBwbMax (t : List Byte) : Nat :=
  ((List.range (bkNb t)).filter (fun b => !(bkAnchor t b))).foldl (fun m b => max m (bkBwb t b)) 0
/-- The fall-back order: one byte per non-anchor block. -/
def bkOrder (t : List Byte) : List Nat :=
  (List.range ((List.range (bkNb t)).filter (fun b => !(bkAnchor t b))).length).map (fun j => leAt t (32 + 16 * bkNb t + j) 1)

/-- Slots before a context's own: the partition's first slot and the contexts before it (R225). -/
def Dev.slotBase (d : Dev) (c : Nat) : Nat :=
  let p := d.partOfCtx c
  (if d.brd.pcfgMode then 160 * p else 0) +
  (((d.imgCtxs p).filter (fun k => decide (k < c))).map (fun k =>
    let t := d.blockTab k
    if t.isEmpty then 0 else bkSpm t * bkMbd t)).sum

/-- Switch blocks to their fall-back plan, in the fall-back order, until the need fits (R230). -/
def planLoop (t : List Byte) (tokens allowance : Nat) : List Nat → Nat → List Nat → Nat × List Nat
  | [], need, off => (need, off)
  | b :: r, need, off =>
    if need ≤ allowance then (need, off) else planLoop t tokens allowance r (need - gran (tokens * bkBwb t b)) (b :: off)

/-- The plan of a micro-batch of T tokens: the stash it needs, and the blocks whose boundary is not kept (R230). -/
def stashPlan (t : List Byte) (tokens : Nat) : Nat × List Nat :=
  let rb := gran (tokens * bkBwbMax t)
  let need := ((List.range' 1 (bkNb t - 1)).map (fun b => gran (tokens * bkBwb t b))).sum
  planLoop t tokens (bkRsz t - rb) (bkOrder t) need []

/-- BOFF of the stored boundaries (R231). -/
def stashOffsets (t : List Byte) (tokens : Nat) (off : List Nat) : List (Nat × Nat) :=
  (((List.range' 1 (bkNb t - 1)).filter (fun b => !(off.contains b))).foldl (fun (acc : Nat × List (Nat × Nat)) b =>
    (acc.1 + gran (tokens * bkBwb t b), acc.2 ++ [(b, acc.1)])) (0, [])).2

/-- A slot record (Table 9-5). -/
def slotRecord (f : FeedRec) (refused : Bool) (prefixLen mbn rbase : Nat) : List Byte :=
  toLe 8 f.rid ++ toLe 4 (2 ^ 31 + b2n refused * 2 ^ 30) ++ toLe 4 (if refused then 0 else f.tokens) ++ toLe 4 prefixLen ++
  toLe 4 mbn ++ toLe 8 f.addr ++ toLe 8 rbase ++ List.replicate 24 0#8

/-- A micro-batch record with READY and RELS 0 (Table 9-4). -/
def mbRecord (t : List Byte) (mbn step tokens nref : Nat) : List Byte :=
  let plan := stashPlan t tokens
  let off := plan.2
  let boff := stashOffsets t tokens off
  let keep (b : Nat) : Bool := decide (b < bkNb t) && !(off.contains b)
  toLe 4 mbn ++ toLe 4 step ++ toLe 4 tokens ++ toLe 4 (b2n (!off.isEmpty) * 2 ^ 30 + nref) ++ toLe 4 0 ++
  List.replicate 44 0#8 ++
  ((List.range 8).map (fun w => toLe 4 (((List.range 32).map (fun i => b2n (keep (32 * w + i)) * 2 ^ i)).sum))).flatten ++
  List.replicate 32 0#8 ++
  ((List.range 256).map (fun b => toLe 4 (match boff.find? (fun x => x.1 == b) with
    | some x => x.2
    | none => 0xFFFFFFFF))).flatten ++
  toLe 4 (bkRsz t - gran (tokens * bkBwbMax t)) ++ List.replicate 892 0#8

def mbAddr (t : List Byte) (r : Nat) : Nat := bkCbase t + 40960 + 2048 * r

/-- A sample is refused: no tokens, or more than MAXLEN (R228). -/
def sampleRefused (t : List Byte) (f : FeedRec) : Bool := f.tokens == 0 || decide (bkMaxlen t < f.tokens)

/-- The log entry of a sample; during a replay it is compared with the entry that the log holds (R350, R365). -/
def Dev.logSample (d : Dev) (p c step mbn : Nat) (f : FeedRec) (refused : Bool) : Dev :=
  let tsw := [f.rid % 2 ^ 32, f.rid / 2 ^ 32, f.cur, mbn, b2n refused * 2 ^ 31 + c * 2 ^ 24 + f.tokens % 2 ^ 24]
  let old := match (d.part p).replay with
    | some r => if step ≤ r.upto then (d.part p).log.find? (fun e => lrType e == 2 && lrCtx e == c && lrT e 2 == f.cur) else none
    | none => none
  match old with
  | none => d.logAppend p 2 step tsw
  | some e =>
    if lrT e 0 = tsw.getD 0 0 && lrT e 1 = tsw.getD 1 0 && lrT e 4 = tsw.getD 4 0 then d
    else (d.contextFault 0x0B06 p c 0x1FF []).endReplay p 0x0B06 step

/-- Step 1 of the preparation of micro-batch m of context c (R227 to R231). -/
def Dev.prepare (d : Dev) (c : Nat) : Dev :=
  let t := d.blockTab c
  let p := d.partOfCtx c
  let x := d.ctx c
  let m := x.nextMb
  let r := m % bkMbd t
  let spm := bkSpm t
  if t.isEmpty || !(d.part p).started || decide (x.feed.length < spm) || (Store.get none x.mbs r).isSome then d
  else
    let fs := x.feed.take spm
    let step := match fs with
      | f :: _ => f.step
      | [] => 0
    let tokens := ((fs.filter (fun f => !(sampleRefused t f))).map (·.tokens)).sum
    let nref := (fs.filter (sampleRefused t)).length
    let plan := stashPlan t tokens
    let rbase := bkSbase t + r * bkRsz t
    let slot := d.slotBase c + r * spm
    let d := (fs.foldl (fun (acc : Dev × Nat × Nat) f =>
      let ref := sampleRefused t f
      let d := acc.1.uniWrite p c (bkCbase t + 64 * (slot + acc.2.1)) (slotRecord f ref acc.2.2 m rbase) false
      let d := if ref then d.event 0x0601 p c 0x1FF [f.rid % 2 ^ 32, f.rid / 2 ^ 32, f.tokens] else d
      (d.logSample p c step m f ref, acc.2.1 + 1, acc.2.2 + (if ref then 0 else f.tokens))) (d, 0, 0)).1
    let d := d.uniWrite p c (mbAddr t r) (mbRecord t m step tokens nref) false
    let fb := plan.2.length
    let stash := (plan.1 + gran (tokens * bkBwbMax t)) / 512
    let d := d.modPart p (fun y => { y with
      refs := y.refs + BitVec.ofNat 32 nref,
      fbmb := y.fbmb + BitVec.ofNat 32 (if fb = 0 then 0 else 1), fbsw := y.fbsw + BitVec.ofNat 32 fb,
      stpk := BitVec.ofNat 32 (max y.stpk.toNat stash) })
    let mb : MicroBatch := { mbn := m, step := step, prepBeat := (d.part p).beat }
    d.modCtx c (fun x => { x with feed := x.feed.drop spm, nextMb := m + 1, mbs := Store.set none x.mbs r (some mb) })

/-- MICRO_BATCH_PREPARATION (R227). -/
def execMicroBatchPreparation (ctx : Nat) (s : State) : Out := s.onUnit (decide (ctx < nCtxs)) (fun d => d.prepare ctx)

/-- READY_WRITE: in a later beat than the preparation, READY becomes 1 (R227). -/
def Dev.readyWrite (d : Dev) (c r : Nat) : Dev :=
  let t := d.blockTab c
  let p := d.partOfCtx c
  match Store.get none (d.ctx c).mbs r with
  | none => d
  | some mb =>
    if mb.ready || decide ((d.part p).beat ≤ mb.prepBeat) then d
    else
      let a := mbAddr t r + 12
      let w := leNat (d.memRead a 4)
      let d := d.uniWrite p c a (toLe 4 (2 ^ 31 + w % 2 ^ 31)) false
      (d.modCtx c (fun x => { x with mbs := Store.set none x.mbs r (some { mb with ready := true }) })).modPart p
        (fun y => { y with mblast := mb.mbn })

/-- READY_WRITE (R227). -/
def execReadyWrite (ctx region : Nat) (s : State) : Out := s.onUnit (decide (ctx < nCtxs)) (fun d => d.readyWrite ctx region)

/-- Records of the context's FD channel are released (R229, R293). -/
def Dev.releaseRecords (d : Dev) (c n : Nat) : Dev :=
  let p := d.partOfCtx c
  match (d.chanEntries p 1).find? (fun e => ceCtx e.2 == c && ceDest e.2 == 4) with
  | none => d
  | some e =>
    let up (o : Option RecvChan) : Option RecvChan := o.map (fun h => { h with released := h.released + n })
    d.modFab (fun f => { f with recv := Store.modify none f.recv (chanKey p e.1) up })

/-- VALID = 0 in the slots of a region and READY = 0 in its record (R229, R240). -/
def Dev.clearRegion (d : Dev) (c r : Nat) : Dev :=
  let t := d.blockTab c
  let p := d.partOfCtx c
  let slot := d.slotBase c + r * bkSpm t
  let d := (List.range (bkSpm t)).foldl (fun d i =>
    let a := bkCbase t + 64 * (slot + i) + 8
    d.uniWrite p c a (toLe 4 (leNat (d.memRead a 4) % 2 ^ 31)) false) d
  let a := mbAddr t r + 12
  d.uniWrite p c a (toLe 4 (leNat (d.memRead a 4) % 2 ^ 31)) false

/-- The program has written RELS of a region: MBN of its record releases what the region holds, any other value is 0x0602 (R229). A
region that holds nothing has only its record to compare with. -/
def Dev.relsWrite (d : Dev) (c r : Nat) : Dev :=
  let t := d.blockTab c
  let p := d.partOfCtx c
  if t.isEmpty || decide (bkMbd t ≤ r) then d
  else if leNat (d.memRead (mbAddr t r + 16) 4) = leNat (d.memRead (mbAddr t r) 4) then
    let d := d.clearRegion c r
    if (Store.get none (d.ctx c).mbs r).isNone then d
    else (d.modCtx c (fun x => { x with mbs := Store.set none x.mbs r none })).releaseRecords c (bkSpm t)
  else d.contextFault 0x0602 p c 0x1FF []

/-- RELS_WRITE (R229). -/
def execRelsWrite (ctx region : Nat) (s : State) : Out := s.onUnit (decide (ctx < nCtxs)) (fun d => d.relsWrite ctx region)

end Sys2Proof.Machine
end

