-- ==== Sys2Proof/Machine/Parity.lean ====
section
/-! DEFINITION. The parity group's codes (R360), and what a module does with the messages of its members: parity contributions,
abandonments, log records and digest lists. -/

namespace Sys2Proof.Machine
open Sys2Proof

def gib : Nat := 2 ^ 30
/-- Chunk length C and data chunks D of a group (R357, R360). -/
def rcD (r : Nat) : Nat := rcGsize r - rcE r
def rcC (r : Nat) : Nat := rcBlen r / max 1 (rcD r)

/-! ## The codes (R360) -/

/-- Multiplication by α = 2 in GF(2^8) with polynomial 0x11D. -/
def gfDouble (b : Byte) : Byte := if 128 ≤ b.toNat then (b <<< 1) ^^^ 0x1D#8 else b <<< 1

/-- Multiplication, by the bits of the first factor. -/
def gfMulN : Nat → Byte → Byte → Byte
  | 0, _, _ => 0#8
  | n + 1, a, b => (if a.toNat % 2 = 1 then b else 0#8) ^^^ gfMulN n (a >>> 1) (gfDouble b)
def gfMul (a b : Byte) : Byte := gfMulN 8 a b

/-- α^k. -/
def gfPow : Nat → Byte
  | 0 => 1#8
  | k + 1 => gfDouble (gfPow k)

/-- The inverse of a byte other than 0. -/
def gfInv (a : Byte) : Byte :=
  match ((List.range 256).map (BitVec.ofNat 8)).find? (fun x => gfMul a x == 1#8) with
  | some x => x
  | none => 0#8

def xorBytes (a b : List Byte) : List Byte := List.zipWith (· ^^^ ·) a b
def scaleBytes (f : Byte) (a : List Byte) : List Byte := a.map (gfMul f)

/-- Row of chunk k of the member at position m. -/
def rcRow (r m k : Nat) : Nat := (m + 2 * rcGsize r - k - rcE r) % max 1 (rcGsize r)
/-- Position of the member whose chunk k lies in row j. -/
def rcMember (r j k : Nat) : Nat := (j + k + rcE r) % max 1 (rcGsize r)

/-- P and Q of a row's data chunks, in ascending index. -/
def parityOf (q : Bool) (n : Nat) (chunks : List (List Byte)) : List Byte :=
  (chunks.zipIdx).foldl (fun acc y => xorBytes acc (if q then scaleBytes (gfPow y.2) y.1 else y.1)) (List.replicate n 0#8)

/-- Recover data chunk x of a row from what is held of it, by index: data below D, P at D, Q at D + 1. Nothing when more is
missing than the code tolerates (R360). -/
def recoverChunk (d e n : Nat) (held : Nat → Option (List Byte)) (x : Nat) : Option (List Byte) :=
  let data := (List.range d).filterMap (fun k => (held k).map (fun b => (k, b)))
  let lost := (List.range d).filter (fun k => (held k).isNone)
  let missing := ((List.range (d + e)).filter (fun k => (held k).isNone)).length
  let p' (p : List Byte) := data.foldl (fun a y => xorBytes a y.2) p
  let q' (q : List Byte) := data.foldl (fun a y => xorBytes a (scaleBytes (gfPow y.1) y.2)) q
  if e < missing then none
  else match lost with
    | [_] => match held d with
      | some p => some (p' p)
      | none => (held (d + 1)).map (fun q => scaleBytes (gfInv (gfPow x)) (q' q))
    | [a, b] =>
      match held d, held (d + 1) with
      | some p, some q =>
        let y := if x = a then b else a
        some (scaleBytes (gfInv (gfPow x ^^^ gfPow y)) (xorBytes (scaleBytes (gfPow y) (p' p)) (q' q)))
      | _, _ => none
    | _ => (held x).map (fun b => b.take n)

/-- Contributions that complete the module's own parity rows: member's position and chunk. -/
def expected (r : Nat) : List (Nat × Nat) :=
  let rows := if rcCode r = 2 then [rcPos r, (rcPos r + rcGsize r - 1) % max 1 (rcGsize r)] else [rcPos r]
  (rows.map (fun j => (List.range (rcD r)).map (fun k => (rcMember r j k, k)))).flatten

/-! ## What members send: parity contributions, abandonments, log records, digest lists (R351, R359, R360, R362) -/

/-- Fold bytes of a contribution into parity from a place on (R360). -/
def foldParity (m : Store Byte) (at' : Nat) (bs : List Byte) : Store Byte :=
  (bs.zipIdx).foldl (fun m y => Store.modify 0#8 m (at' + y.2) (· ^^^ y.1)) m

/-- PARITY_CONTRIBUTION_RECEIPT: bytes of chunk k of the member at a position; a chunk counts when its last byte is folded. -/
def Dev.parityReceipt (d : Dev) (p member step k offset : Nat) (bs : List Byte) : Dev :=
  let x := d.part p
  let r := x.rcfg
  let j := rcRow r member k
  let isP := decide (j = rcPos r)
  let isQ := rcCode r == 2 && decide ((j + 1) % max 1 (rcGsize r) = rcPos r)
  if x.bst = 0 || step != x.bbuild || decide (rcGsize r ≤ member) || decide (rcD r ≤ k) || decide (rcC r * gib < offset + bs.length) ||
      !(isP || isQ) || x.parityGot.contains (member, k) then d
  else d.modPart p (fun y => { y with
    parity := if isP then foldParity y.parity offset bs else foldParity y.parity (2 ^ 40 + offset) (scaleBytes (gfPow k) bs),
    parityGot := if offset + bs.length = rcC r * gib then y.parityGot ++ [(member, k)] else y.parityGot })

/-- LOG_RECORD_RECEIPT: a successor keeps a predecessor's record; a DISCARD record cuts the mirror (R351, R352, R360). -/
def Dev.mirrorRecord (d : Dev) (p rank : Nat) (r : LogRecord) : Dev :=
  let x := d.part p
  if !x.started || !(x.predecessors.contains rank) then d
  else
    let old := Store.get [] x.mirror rank
    let old := if lrType r = 5 then old.filter (fun e => !(lrType e == 2 && decide (lrStep r < lrStep e))) else old
    d.modPart p (fun y => { y with mirror := Store.set [] y.mirror rank (old ++ [r]) })

/-- The chunk of a member whose bytes come next: the lowest data index of the module's own rows that it has not sent whole. Both rows of
the Reed–Solomon code come on one channel, and a member sends its chunks in ascending order (notes/assumptions/154). -/
def Partition.nextChunk (x : Partition) (member : Nat) : Option Nat :=
  (List.range (rcD x.rcfg)).find? (fun k =>
    let j := rcRow x.rcfg member k
    (decide (j = rcPos x.rcfg) || (rcCode x.rcfg == 2 && decide ((j + 1) % max 1 (rcGsize x.rcfg) = rcPos x.rcfg))) &&
    !(x.parityGot.contains (member, k)))

/-- Position of a rank in the group. -/
def Partition.position (x : Partition) (rank : Nat) : Option Nat :=
  (List.range (rcGsize x.rcfg)).find? (fun i => x.groupRank i == rank)

/-- A digest list of a predecessor, from an offset on (R359 step 3). -/
def Dev.storeDigests (d : Dev) (p rank offset : Nat) (bs : List Byte) : Dev :=
  d.modPart p (fun y =>
    let old := Store.get [] y.mirrorDig rank
    let at' := min offset old.length
    { y with mirrorDig := Store.set [] y.mirrorDig rank (old.take at' ++ bs ++ old.drop (at' + bs.length)) })

/-- A member's contribution or abandonment for a base step (R360, R362). -/
def Dev.memberPacket (d : Dev) (p rank step offset : Nat) (bs : List Byte) (run : Nat) : Dev :=
  let x := d.part p
  if bs.isEmpty && offset == 0xFFFFFFFF then (if step = x.bbuild then d.abandonBase p else d)
  else match x.position rank with
    | none => d
    | some m => match x.nextChunk m with
      | some k => d.parityReceipt p m step k run bs
      | none => d

end Sys2Proof.Machine
end

