-- ==== Sys2Proof/Machine/Vector.lean ====
section
/-! DEFINITION. The vector engine (chapter 4). A command issues the instruction at the head of the queue when it is of the named
operation and its issue conditions hold (R91); its whole effect is then one step. -/

namespace Sys2Proof.Machine
open Sys2Proof

/-! ## Registers (Table 4-1) -/

def Core.lane (c : Core) (r l : Nat) : Nat := (Store.get 0#32 c.vx.v (256 * r + l)).toNat
/-- Mask register m; M0 reads as all ones. -/
def Core.maskReg (c : Core) (m : Nat) : BitVec 512 := if m = 0 then BitVec.allOnes 512 else Store.get 0#512 c.vx.m m
def Core.maskBit (c : Core) (m k : Nat) : Bool := (c.maskReg m).getLsbD k

def Core.noteWrite (c : Core) (uid r : Nat) : Core :=
  if c.vx.wrote.contains (uid, r) then c else { c with vx := { c.vx with wrote := c.vx.wrote ++ [(uid, r)] } }

/-- Write all lanes of a register. -/
def Core.setLanes (c : Core) (uid r : Nat) (f : Nat → Nat) : Core :=
  let v := (List.range 256).foldl (fun m l => Store.set 0#32 m (256 * r + l) (BitVec.ofNat 32 (f l))) c.vx.v
  ({ c with vx := { c.vx with v := v } } : Core).noteWrite uid r

/-- Write a mask register; a write to M0 is ignored. -/
def Core.setMask (c : Core) (uid m : Nat) (v : BitVec 512) : Core :=
  if m = 0 then c else ({ c with vx := { c.vx with m := Store.set 0#512 c.vx.m m v } } : Core).noteWrite uid (32 + m)

def half (w : Nat) (hi : Bool) : Nat := if hi then w / 65536 else w % 65536

/-- Operand B of lane l (R98). -/
def opB (c : Core) (o : VecOp) (l : Nat) : Nat := if vBimm o then o.w1 else c.lane (vVB o) l

/-! ## Issue (R90, R91) -/

/-- VXWAIT gains the cycles of this wait. -/
def Dev.vxWaits (d : Dev) (n : Nat) : Dev :=
  let x := d.freshCycles
  x.2.modCore n (fun c => { c with vx := { c.vx with wait := c.vx.wait + BitVec.ofNat 32 x.1 } })

/-- The instruction leaves the queue; VXISS and the transcendental unit's cycles count it. -/
def Core.vxDone (c : Core) (trn : Nat) (f : BitVec 12) (uid : Nat) : Core :=
  let v := { c.vx with queue := c.vx.queue.drop 1, issued := c.vx.issued + 1#32, trn := c.vx.trn + BitVec.ofNat 32 trn }
  ({ c with vx := v.addFlags uid f, progress := true, vxIssued := true } : Core).settle

/-- The head of the queue, when it is an instruction of this operation and its task is capped. -/
def Core.vxHead (c : Core) (code : Nat) : Option VecOp :=
  match c.vx.queue with
  | o :: _ => if vOp o = code && !(c.heldEntry o.uid) then some o else none
  | [] => none

/-- Issue a head that needs only registers: `f` gives the registers after it and the flags it raises. -/
def Dev.vxIssue (d : Dev) (n code trn : Nat) (f : Core → VecOp → Core × BitVec 12) : Dev :=
  let c := d.core n
  match c.vxHead code with
  | none => if c.vx.queue.isEmpty then d else d.vxWaits n
  | some o => let r := f c o; d.setCore n (r.1.vxDone trn r.2 o.uid)

/-- A fault of a vector instruction (R106). -/
def Dev.vxFault (d : Dev) (n : Nat) (o : VecOp) (code addr : Nat) : Dev :=
  d.abort n o.uid ⟨code, true, o.tid, o.pc, addr, false⟩

/-! ## Element-wise operations -/

/-- An operation on elements: significant bits of the format, a, b, c; the result bits and its flags. -/
abbrev EltOp := Nat → Nat → Nat → Nat → Nat × AFlags

/-- Apply an element operation in FP32 or packed mode under the write mask (R89, R98). -/
def vMap (g : EltOp) (c : Core) (o : VecOp) : Core × BitVec 12 :=
  let mk := vMk o
  let elt (l : Nat) : Nat × BitVec 12 :=
    let a := c.lane (vVA o) l
    let b := opB c o l
    let x := c.lane (vVC o) l
    let old := c.lane (vVD o) l
    if vPk o then
      let one (hi : Bool) : Nat × BitVec 12 :=
        let k := 2 * l + b2n hi
        if c.maskBit mk k then
          let r := g 8 (half a hi) (half b hi) (half x hi)
          (r.1, arithFlags r.2)
        else (half old hi, 0#12)
      let lo := one false
      let hi := one true
      (lo.1 + 65536 * hi.1, lo.2 ||| hi.2)
    else if c.maskBit mk l then
      let r := g 24 a b x
      (r.1, arithFlags r.2)
    else (old, 0#12)
  let rs := (List.range 256).map elt
  let arr := rs.toArray
  (c.setLanes o.uid (vVD o) (fun l => (arr.getD l (0, 0#12)).1), rs.foldl (fun f r => f ||| r.2) 0#12)

/-- A comparison into mask VD[2:0] (Table 4-3): only the elements of the mode, under the write mask. -/
def vCmp (g : Nat → Nat → Nat → Bool) (c : Core) (o : VecOp) : Core × BitVec 12 :=
  let m := vVD o % 8
  let old := c.maskReg m
  let n := if vPk o then 512 else 256
  let v := (List.range n).foldl (fun (acc : BitVec 512) k =>
    if c.maskBit (vMk o) k then
      let l := if vPk o then k / 2 else k
      let a := c.lane (vVA o) l
      let b := opB c o l
      let r := if vPk o then g 8 (half a (k % 2 == 1)) (half b (k % 2 == 1)) else g 24 a b
      if r then acc ||| BitVec.twoPow 512 k else acc &&& ~~~(BitVec.twoPow 512 k)
    else acc) old
  (c.setMask o.uid m v, 0#12)

def flt (p w : Nat) : FNum := fromFloat p w
def noFlags (f : Nat → Nat → Nat → Nat → Nat) : EltOp := fun p a b c => (f p a b c, 0#4)
def signBit (p : Nat) : Nat := 2 ^ (p + 7)

def eFadd : EltOp := fun p a b _ => numAdd p (flt p a) (flt p b)
def eFsub : EltOp := fun p a b _ => numAdd p (flt p a) (flt p b).flip
def eFmul : EltOp := fun p a b _ => numMul p (flt p a) (flt p b)
def eFma : EltOp := fun p a b c => numFma p (flt p a) (flt p b) (flt p c)
def eFnma : EltOp := fun p a b c => numFma p (flt p a).flip (flt p b) (flt p c)
def eFmax : EltOp := noFlags (fun p a b _ => fltMaxMin p true a b)
def eFmin : EltOp := noFlags (fun p a b _ => fltMaxMin p false a b)
def eFabs : EltOp := noFlags (fun p a _ _ => a % signBit p)
def eFneg : EltOp := noFlags (fun p a _ _ => Nat.xor a (signBit p))
def eFcpys : EltOp := noFlags (fun p a b _ => a % signBit p + b / signBit p % 2 * signBit p)
/-- FMOV moves b's bits, a NaN's too (notes/assumptions/145). -/
def eFmov : EltOp := noFlags (fun _ _ b _ => b)
/-- A 32-bit integer operation (R97: wraps). -/
def eInt (f : Word32 → Word32 → Word32) : EltOp :=
  noFlags (fun _ a b _ => (f (BitVec.ofNat 32 a) (BitVec.ofNat 32 b)).toNat)
def eBits (f : Nat → Nat → Nat) : EltOp := noFlags (fun _ a b _ => f a b)
/-- Auto scale byte of |a| (R40, R43). -/
def eFscl : EltOp := noFlags (fun p a _ _ => blockScale none [flt p a])
def eUn (f : Nat → FNum → Nat × AFlags) : EltOp := fun p a _ _ => f p (flt p a)
def eDiv : EltOp := fun p a b _ => numDiv p (flt p a) (flt p b)

def cmpEq (p a b : Nat) : Bool := !isNaN (flt p a) && !isNaN (flt p b) && numEq (flt p a) (flt p b)
def cmpLt (p a b : Nat) : Bool := !isNaN (flt p a) && !isNaN (flt p b) && numLt (flt p a) (flt p b)
def cmpUn (p a b : Nat) : Bool := isNaN (flt p a) || isNaN (flt p b)

/-- IOTA: lane index, or element index when packed. -/
def vIota (c : Core) (o : VecOp) : Core × BitVec 12 :=
  (c.setLanes o.uid (vVD o) (fun l =>
    let old := c.lane (vVD o) l
    if vPk o then
      (if c.maskBit (vMk o) (2 * l) then 2 * l else old % 65536) +
        65536 * (if c.maskBit (vMk o) (2 * l + 1) then 2 * l + 1 else old / 65536)
    else if c.maskBit (vMk o) l then l else old), 0#12)

/-! ## Conversions between FP32 and packed BF16 -/

/-- The rounding of element j under the conversion control (R95). -/
def Dev.vxRnd (d : Dev) (n : Nat) (c : Core) (mode j : Nat) : Rnd :=
  if mode = 0 then .ne
  else
    let p := d.partOf n
    .sr (genU (d.part p).seed (d.partStamp p).step c.vx.sid.toNat ((c.vx.idx0.toNat + j) % 2 ^ 32))

def Core.advanceIdx (c : Core) (uid : Nat) (draws : Bool) (k : Nat) : Core :=
  if draws then ({ c with vx := { c.vx with idx0 := c.vx.idx0 + BitVec.ofNat 32 k } } : Core).noteWrite uid 41 else c

/-- CVTB: even elements from a, odd elements from b (R44). -/
def vCvtb (d : Dev) (n : Nat) (c : Core) (o : VecOp) : Core × BitVec 12 :=
  let mode := vVC o % 4
  let rs := (List.range 256).map (fun l =>
    let old := c.lane (vVD o) l
    let one (hi : Bool) : Nat × BitVec 12 :=
      let k := 2 * l + b2n hi
      if c.maskBit (vMk o) k then
        let r := toFloat 8 (f32 (if hi then opB c o l else c.lane (vVA o) l)) (d.vxRnd n c mode k)
        (r.1, convFlags r.2)
      else (half old hi, 0#12)
    let lo := one false
    let hi := one true
    (lo.1 + 65536 * hi.1, lo.2 ||| hi.2))
  let arr := rs.toArray
  let c1 := c.setLanes o.uid (vVD o) (fun l => (arr.getD l (0, 0#12)).1)
  (c1.advanceIdx o.uid (mode == 1) 512, rs.foldl (fun f r => f ||| r.2) 0#12)

/-- CVTFL and CVTFH: the even or odd elements of packed a, exactly (R44, R94). -/
def vCvtf (hi : Bool) (c : Core) (o : VecOp) : Core × BitVec 12 :=
  (c.setLanes o.uid (vVD o) (fun l =>
    if c.maskBit (vMk o) l then half (c.lane (vVA o) l) hi * 65536 else c.lane (vVD o) l), 0#12)

/-! ## Reductions (R101) -/

/-- One halving step: element i takes combine(x[i], x[i + w]) for i below w. -/
def reduceStep (f : Nat → Nat → Nat × AFlags) (w : Nat) (xs : List Nat × BitVec 12) : List Nat × BitVec 12 :=
  let rs := (List.range w).map (fun i => f (xs.1.getD i 0) (xs.1.getD (i + w) 0))
  (rs.map (·.1), rs.foldl (fun fl r => fl ||| arithFlags r.2) xs.2)

/-- Reduce 2^s elements in the fixed order. -/
def reduceAll (f : Nat → Nat → Nat × AFlags) : Nat → List Nat × BitVec 12 → List Nat × BitVec 12
  | 0, xs => xs
  | s + 1, xs => reduceAll f s (reduceStep f (2 ^ s) xs)

def vReduce (ident : Nat) (f : Nat → Nat → Nat × AFlags) (c : Core) (o : VecOp) : Core × BitVec 12 :=
  let s := 3 + vVC o % 8
  let g := 2 ^ s
  let rs := (List.range (256 / g)).map (fun b =>
    reduceAll f s ((List.range g).map (fun i =>
      let l := b * g + i
      if c.maskBit (vMk o) l then c.lane (vVA o) l else ident), 0#12))
  let arr := rs.toArray
  (c.setLanes o.uid (vVD o) (fun l => (arr.getD (l / g) ([], 0#12)).1.getD 0 0), rs.foldl (fun fl r => fl ||| r.2) 0#12)

/-! ## Mask operations -/

/-- MAND to MNOT on whole mask registers, under the write mask. -/
def vMaskOp (f : BitVec 512 → BitVec 512 → BitVec 512) (c : Core) (o : VecOp) : Core × BitVec 12 :=
  let m := vVD o % 8
  let mk := c.maskReg (vMk o)
  (c.setMask o.uid m ((f (c.maskReg (vVA o % 8)) (c.maskReg (vVB o % 8)) &&& mk) ||| (c.maskReg m &&& ~~~mk)), 0#12)

/-! ## Loads (R93, R94) -/

/-- A range that leaves the scratchpad (R102): the first byte of the half that does. -/
def rangeBreak (rs : List (Nat × Nat)) : Option Nat :=
  match rs.find? (fun r => decide (padBytes < r.1 + r.2)) with
  | some r => some r.1
  | none => none

/-- Element i of a PL streamed row at `base`, into a float of p significant bits. -/
def plRowElt (c : Core) (p : Nat) (pl4 : Bool) (base i : Nat) : Nat × Flags :=
  let b := (c.padByte (base + i / 32)).toNat
  let code :=
    if pl4 then
      let x := (c.padByte (base + 32 + i / 2)).toNat
      if i % 2 = 0 then x % 16 else x / 16
    else (c.padByte (base + 32 + i)).toNat
  plToFloat p pl4 b code

/-- The address of element i of a half: half 0 at ADDR, half 1 at ADDR + STRIDE. -/
def lsHalf (o : VecOp) (h : Nat) : Nat := lsAddr o + h * lsStride o

/-- What lane l (FP32 mode) or element k (packed mode) loads (Table 4-2), with its flags. A format that a substituted word 1 names
against Table 4-2 moves raw 32-bit elements (notes/assumptions/147). -/
def vldElt (c : Core) (o : VecOp) (k : Nat) : Nat × Flags :=
  if lsPk o then
    let h := k / 256
    let i := k % 256
    match lsFmt o with
    | 3 => (leNat (c.padRead (lsHalf o h + 2 * i) 2), 0#8)
    | 1 => plRowElt c 8 false (lsHalf o h + i / 128 * 160) (i % 128)
    | _ => plRowElt c 8 true (lsHalf o h) i
  else
    let h := k / 128
    let i := k % 128
    match lsFmt o with
    | 3 => (leNat (c.padRead (lsHalf o h + 2 * i) 2) * 65536, 0#8)
    | 2 => (i8ToFloat 24 (c.padByte (lsHalf o h + i)).toNat, 0#8)
    | 1 => plRowElt c 24 false (lsHalf o h) i
    | 0 => plRowElt c 24 true (lsAddr o) k
    | _ => (leNat (c.padRead (lsHalf o h + 4 * i) 4), 0#8)

/-- The register after a load, under the write mask. -/
def vldRun (c : Core) (o : VecOp) : Core × BitVec 12 :=
  let one (k : Nat) (old : Nat) : Nat × BitVec 12 :=
    if c.maskBit (lsMk o) k then let r := vldElt c o k; (r.1, convFlags r.2) else (old, 0#12)
  let rs := (List.range 256).map (fun l =>
    let old := c.lane (lsV o) l
    if lsPk o then
      let lo := one (2 * l) (old % 65536)
      let hi := one (2 * l + 1) (old / 65536)
      (lo.1 + 65536 * hi.1, lo.2 ||| hi.2)
    else one l old)
  let arr := rs.toArray
  (c.setLanes o.uid (lsV o) (fun l => (arr.getD l (0, 0#12)).1), rs.foldl (fun f r => f ||| r.2) 0#12)

def vldbRun (c : Core) (o : VecOp) : Core × BitVec 12 :=
  (c.setLanes o.uid (lsV o) (fun l =>
    if c.maskBit (lsMk o) l then (c.padByte (lsHalf o (l / 128) + l % 128)).toNat else c.lane (lsV o) l), 0#12)

/-- Issue a load: range, slots, faults, the register, the release (R91, R102, R106, R165). -/
def Dev.vxLoad (d : Dev) (n code : Nat) (ranges : VecOp → List (Nat × Nat)) (run : Core → VecOp → Core × BitVec 12) : Dev :=
  let c := d.core n
  match c.vxHead code with
  | none => if c.vx.queue.isEmpty then d else d.vxWaits n
  | some o =>
    match rangeBreak (ranges o) with
    | some a => d.vxFault n o 0x0401 a
    | none =>
      let rs := d.rings n
      match c.readCheck rs (d.guard n) .engine (ranges o) with
      | .wait => d.vxWaits n
      | .fault k a _ => d.vxFault n o k a
      | .ok _ =>
        let r := run c o
        let c1 := if lsRel o then r.1.releaseRead rs (ranges o) else r.1
        d.setCore n (c1.vxDone 0 r.2 o.uid)

/-! ## Stores (R93 to R96) -/

/-- Packed formats: element k's address, bytes and flags (Table 4-2); a format against Table 4-2 as in `vldElt`
(notes/assumptions/147). -/
def vstElt (c : Core) (o : VecOp) (k : Nat) (r : Rnd) : Nat × List Byte × Flags :=
  if lsPk o then
    (lsHalf o (k / 256) + 2 * (k % 256), toLe 2 (half (c.lane (lsV o) (k / 2)) (k % 2 == 1)), 0#8)
  else
    let w := c.lane (lsV o) k
    let base := lsHalf o (k / 128)
    let i := k % 128
    let q := signed 8 c.vx.sq.toNat
    match lsFmt o with
    | 3 => let y := toFloat 8 (f32 w) r; (base + 2 * i, toLe 2 y.1, y.2)
    | 2 => let y := toI8 q (f32 w) r; (base + i, toLe 1 (unsigned 8 y.1), y.2)
    | 5 => let y := toG 16 q (f32 w) r; (base + 2 * i, toLe 2 (unsigned 16 y.1), y.2)
    | 6 => let y := toG 32 q (f32 w) r; (base + 4 * i, toLe 4 (unsigned 32 y.1), y.2)
    | _ => (base + 4 * i, toLe 4 w, 0#8)

/-- The value of element k as a source of a PL store. -/
def vstVal (c : Core) (o : VecOp) (k : Nat) : FNum :=
  if lsPk o then bf16 (half (c.lane (lsV o) (k / 2)) (k % 2 == 1)) else f32 (c.lane (lsV o) k)

/-- A PL streamed row of `n` elements from element `k0` on, at `base` (R89, R95). -/
def vstPLRow (c : Core) (o : VecOp) (rnd : Nat → Rnd) (k0 n base : Nat) : List (Nat × Byte) × Flags :=
  let pl4 := lsFmt o == 0
  let blocks := (List.range (n / 32)).map (fun b =>
    let ks := List.range' (k0 + 32 * b) 32
    let sb := blockScale (if lsSmode o = 0 then none else some c.vx.sq.toNat) (ks.map (vstVal c o))
    (sb, ks.map (fun k => if c.maskBit (lsMk o) k then some (toPL pl4 sb (vstVal c o k) (rnd k)) else none)))
  let fl := blocks.foldl (fun f b => b.2.foldl (fun f x => match x with | some y => f ||| y.2 | none => f) f) 0#8
  let side := (List.range 32).map (fun i => (base + i, BitVec.ofNat 8 ((blocks.getD i (0, [])).1)))
  let codes := (blocks.map (·.2)).flatten
  let cells :=
    if pl4 then
      (List.range (n / 2)).filterMap (fun j =>
        let a := base + 32 + j
        let old := (c.padByte a).toNat
        match codes.getD (2 * j) none, codes.getD (2 * j + 1) none with
        | none, none => none
        | lo, hi =>
          let l := match lo with | some y => y.1 | none => old % 16
          let h := match hi with | some y => y.1 | none => old / 16
          some (a, BitVec.ofNat 8 (l + 16 * h)))
    else
      (codes.zipIdx).filterMap (fun y => match y.1 with
        | some z => some (base + 32 + y.2, BitVec.ofNat 8 z.1)
        | none => none)
  (side ++ cells, fl)

/-- A PL8 code row of a held tile (LAY = 1): no side block is written (R95). R43 is applied to each element alone, since the store
does not see the other rows of its block (notes/assumptions/146). -/
def vstHeldRow (c : Core) (o : VecOp) (rnd : Nat → Rnd) (h : Nat) : List (Nat × Byte) × Flags :=
  (List.range 128).foldl (fun acc i =>
    let k := 128 * h + i
    if c.maskBit (lsMk o) k then
      let sb := if lsSmode o = 2 then c.lane (lsVC o) i % 256 else c.vx.sq.toNat
      let y := toPL false sb (vstVal c o k) (rnd k)
      (acc.1 ++ [(lsHalf o h + i, BitVec.ofNat 8 y.1)], acc.2 ||| y.2)
    else acc) ([], 0#8)

/-- All cells that a VST writes, and its flags: half 0 first, so that where STRIDE makes the halves overlap half 1 stays
(notes/assumptions/148). -/
def vstCells (c : Core) (o : VecOp) (rnd : Nat → Rnd) : List (Nat × Byte) × Flags :=
  let join (xs : List (List (Nat × Byte) × Flags)) : List (Nat × Byte) × Flags :=
    ((xs.map (·.1)).flatten, xs.foldl (fun f x => f ||| x.2) 0#8)
  match lsFmt o with
  | 1 =>
    if lsHeld o then join [vstHeldRow c o rnd 0, vstHeldRow c o rnd 1]
    else if lsPk o then
      join ((List.range 4).map (fun j => vstPLRow c o rnd (128 * j) 128 (lsHalf o (j / 2) + j % 2 * 160)))
    else join ((List.range 2).map (fun h => vstPLRow c o rnd (128 * h) 128 (lsHalf o h)))
  | 0 =>
    if lsPk o then join ((List.range 2).map (fun h => vstPLRow c o rnd (256 * h) 256 (lsHalf o h)))
    else vstPLRow c o rnd 0 256 (lsAddr o)
  | _ =>
    (List.range (if lsPk o then 512 else 256)).foldl (fun acc k =>
      if c.maskBit (lsMk o) k then
        let y := vstElt c o k (rnd k)
        (acc.1 ++ y.2.1.zipIdx.map (fun z => (y.1 + z.2, z.1)), acc.2 ||| y.2.2)
      else acc) ([], 0#8)

/-- A store draws when its rounding is stochastic and its format converts (R95). -/
def vstDraws (o : VecOp) : Bool :=
  lsRnd o == 1 && !(lsFmt o == 4 || lsFmt o == 8 || (lsFmt o == 3 && lsPk o))

def vstRun (rnd : Nat → Rnd) (rs : List RingDecl) (c : Core) (o : VecOp) : Core × BitVec 12 :=
  let y := vstCells c o rnd
  ((c.padRuns rs (mkRuns y.1) false).advanceIdx o.uid (vstDraws o) (if lsPk o then 512 else 256), convFlags y.2)

def vstbRun (rs : List RingDecl) (c : Core) (o : VecOp) : Core × BitVec 12 :=
  let cells := (List.range 256).filterMap (fun l =>
    if c.maskBit (lsMk o) l then some (lsHalf o (l / 128) + l % 128, BitVec.ofNat 8 (c.lane (lsV o) l)) else none)
  (c.padRuns rs (mkRuns cells) false, 0#12)

/-- Issue a store: range, drained slots, the bytes (R91, R102). -/
def Dev.vxStore (d : Dev) (n code : Nat) (ranges : VecOp → List (Nat × Nat))
    (run : List RingDecl → Core → VecOp → Core × BitVec 12) : Dev :=
  let c := d.core n
  match c.vxHead code with
  | none => if c.vx.queue.isEmpty then d else d.vxWaits n
  | some o =>
    match rangeBreak (ranges o) with
    | some a => d.vxFault n o 0x0401 a
    | none =>
      let rs := d.rings n
      if c.writeWaits rs (ranges o) then d.vxWaits n
      else let r := run rs c o; d.setCore n (r.1.vxDone 0 r.2 o.uid)

/-! ## Configuration and mailbox -/

def vCfg (c : Core) (o : VecOp) : Core × BitVec 12 :=
  ((({ c with vx := { c.vx with sid := BitVec.ofNat 12 (bits o.w0 19 8), sq := BitVec.ofNat 8 (bits o.w0 27 20),
                                idx0 := BitVec.ofNat 32 o.w1 } } : Core).noteWrite o.uid 40).noteWrite o.uid 41, 0#12)

/-- VOUT waits while the mailbox holds 4 entries (R104). -/
def Dev.vout (d : Dev) (n : Nat) : Dev :=
  let c := d.core n
  match c.vxHead 0x71 with
  | none => if c.vx.queue.isEmpty then d else d.vxWaits n
  | some o =>
    if 4 ≤ c.vx.mailbox.length then d.vxWaits n
    else
      let v : VectorEngine := { c.vx with
        mailbox := c.vx.mailbox ++ [BitVec.ofNat 32 (c.lane (vVA o) 0)], mailOf := c.vx.mailOf ++ [o.uid] }
      d.setCore n (({ c with vx := v } : Core).vxDone 0 0#12 o.uid)

/-! ## The meanings, in the order of the table -/

def execFadd (core : Nat) (s : State) : Out := s.onEngine core (fun d => d.vxIssue core 0x01 0 (vMap eFadd))
def execFsub (core : Nat) (s : State) : Out := s.onEngine core (fun d => d.vxIssue core 0x02 0 (vMap eFsub))
def execFmul (core : Nat) (s : State) : Out := s.onEngine core (fun d => d.vxIssue core 0x03 0 (vMap eFmul))
def execFma (core : Nat) (s : State) : Out := s.onEngine core (fun d => d.vxIssue core 0x04 0 (vMap eFma))
def execFnma (core : Nat) (s : State) : Out := s.onEngine core (fun d => d.vxIssue core 0x05 0 (vMap eFnma))
def execFmax (core : Nat) (s : State) : Out := s.onEngine core (fun d => d.vxIssue core 0x06 0 (vMap eFmax))
def execFmin (core : Nat) (s : State) : Out := s.onEngine core (fun d => d.vxIssue core 0x07 0 (vMap eFmin))
def execFabs (core : Nat) (s : State) : Out := s.onEngine core (fun d => d.vxIssue core 0x08 0 (vMap eFabs))
def execFneg (core : Nat) (s : State) : Out := s.onEngine core (fun d => d.vxIssue core 0x09 0 (vMap eFneg))
def execFcpys (core : Nat) (s : State) : Out := s.onEngine core (fun d => d.vxIssue core 0x0A 0 (vMap eFcpys))
def execFmov (core : Nat) (s : State) : Out := s.onEngine core (fun d => d.vxIssue core 0x0B 0 (vMap eFmov))
def execFceq (core : Nat) (s : State) : Out := s.onEngine core (fun d => d.vxIssue core 0x10 0 (vCmp cmpEq))
def execFclt (core : Nat) (s : State) : Out := s.onEngine core (fun d => d.vxIssue core 0x11 0 (vCmp cmpLt))
def execFcle (core : Nat) (s : State) : Out := s.onEngine core (fun d => d.vxIssue core 0x12 0 (vCmp (fun p a b => cmpLt p a b || cmpEq p a b)))
def execFcun (core : Nat) (s : State) : Out := s.onEngine core (fun d => d.vxIssue core 0x13 0 (vCmp cmpUn))
def execIadd (core : Nat) (s : State) : Out := s.onEngine core (fun d => d.vxIssue core 0x18 0 (vMap (eInt (· + ·))))
def execIsub (core : Nat) (s : State) : Out := s.onEngine core (fun d => d.vxIssue core 0x19 0 (vMap (eInt (· - ·))))
def execImul (core : Nat) (s : State) : Out := s.onEngine core (fun d => d.vxIssue core 0x1A 0 (vMap (eInt (· * ·))))
def execVectorAnd (core : Nat) (s : State) : Out := s.onEngine core (fun d => d.vxIssue core 0x1B 0 (vMap (eBits Nat.land)))
def execVectorOr (core : Nat) (s : State) : Out := s.onEngine core (fun d => d.vxIssue core 0x1C 0 (vMap (eBits Nat.lor)))
def execVectorXor (core : Nat) (s : State) : Out := s.onEngine core (fun d => d.vxIssue core 0x1D 0 (vMap (eBits Nat.xor)))
def execVectorShl (core : Nat) (s : State) : Out := s.onEngine core (fun d => d.vxIssue core 0x1E 0 (vMap (eInt (fun a b => a <<< (b.toNat % 32)))))
def execVectorShr (core : Nat) (s : State) : Out := s.onEngine core (fun d => d.vxIssue core 0x1F 0 (vMap (eInt (fun a b => a >>> (b.toNat % 32)))))
def execVectorSra (core : Nat) (s : State) : Out := s.onEngine core (fun d => d.vxIssue core 0x20 0 (vMap (eInt (fun a b => a.sshiftRight (b.toNat % 32)))))
def execImax (core : Nat) (s : State) : Out := s.onEngine core (fun d => d.vxIssue core 0x21 0 (vMap (eInt (fun a b => if a.toInt < b.toInt then b else a))))
def execImin (core : Nat) (s : State) : Out := s.onEngine core (fun d => d.vxIssue core 0x22 0 (vMap (eInt (fun a b => if a.toInt < b.toInt then a else b))))
def execIceq (core : Nat) (s : State) : Out := s.onEngine core (fun d => d.vxIssue core 0x23 0 (vCmp (fun _ a b => a == b)))
def execIclt (core : Nat) (s : State) : Out := s.onEngine core (fun d => d.vxIssue core 0x24 0 (vCmp (fun _ a b => decide (signed 32 a < signed 32 b))))
def execIota (core : Nat) (s : State) : Out := s.onEngine core (fun d => d.vxIssue core 0x25 0 vIota)
def execFscl (core : Nat) (s : State) : Out := s.onEngine core (fun d => d.vxIssue core 0x26 0 (vMap eFscl))
def execRcp (core : Nat) (s : State) : Out := s.onEngine core (fun d => d.vxIssue core 0x30 4 (vMap (eUn numRcp)))
def execRsqrt (core : Nat) (s : State) : Out := s.onEngine core (fun d => d.vxIssue core 0x31 4 (vMap (eUn numRsqrt)))
def execSqrt (core : Nat) (s : State) : Out := s.onEngine core (fun d => d.vxIssue core 0x32 4 (vMap (eUn numSqrt)))
def execDiv (core : Nat) (s : State) : Out := s.onEngine core (fun d => d.vxIssue core 0x33 8 (vMap eDiv))
def execExp2 (core : Nat) (s : State) : Out := s.onEngine core (fun d => d.vxIssue core 0x34 4 (vMap (eUn (fun p => numExp p dyExp2))))
def execLog2 (core : Nat) (s : State) : Out := s.onEngine core (fun d => d.vxIssue core 0x35 4 (vMap (eUn (fun p => numLog p dyLog2))))
def execExp (core : Nat) (s : State) : Out := s.onEngine core (fun d => d.vxIssue core 0x36 8 (vMap (eUn (fun p => numExp p dyExp))))
def execLog (core : Nat) (s : State) : Out := s.onEngine core (fun d => d.vxIssue core 0x37 8 (vMap (eUn (fun p => numLog p dyLog))))
def execTanh (core : Nat) (s : State) : Out := s.onEngine core (fun d => d.vxIssue core 0x38 8 (vMap (eUn numTanh)))
def execSigm (core : Nat) (s : State) : Out := s.onEngine core (fun d => d.vxIssue core 0x39 8 (vMap (eUn numSigm)))
def execCvtb (core : Nat) (s : State) : Out := s.onEngine core (fun d => d.vxIssue core 0x40 0 (vCvtb d core))
def execCvtfl (core : Nat) (s : State) : Out := s.onEngine core (fun d => d.vxIssue core 0x41 0 (vCvtf false))
def execCvtfh (core : Nat) (s : State) : Out := s.onEngine core (fun d => d.vxIssue core 0x42 0 (vCvtf true))
def execRsum (core : Nat) (s : State) : Out := s.onEngine core (fun d => d.vxIssue core 0x48 0 (vReduce 0x80000000 (fun a b => numAdd 24 (f32 a) (f32 b))))
def execRmax (core : Nat) (s : State) : Out := s.onEngine core (fun d => d.vxIssue core 0x49 0 (vReduce 0xFF800000 (fun a b => (fltMaxMin 24 true a b, 0#4))))
def execRmin (core : Nat) (s : State) : Out := s.onEngine core (fun d => d.vxIssue core 0x4A 0 (vReduce 0x7F800000 (fun a b => (fltMaxMin 24 false a b, 0#4))))
def execMand (core : Nat) (s : State) : Out := s.onEngine core (fun d => d.vxIssue core 0x50 0 (vMaskOp (· &&& ·)))
def execMor (core : Nat) (s : State) : Out := s.onEngine core (fun d => d.vxIssue core 0x51 0 (vMaskOp (· ||| ·)))
def execMxor (core : Nat) (s : State) : Out := s.onEngine core (fun d => d.vxIssue core 0x52 0 (vMaskOp (· ^^^ ·)))
def execMnot (core : Nat) (s : State) : Out := s.onEngine core (fun d => d.vxIssue core 0x53 0 (vMaskOp (fun a _ => ~~~a)))
def execVld (core : Nat) (s : State) : Out := s.onEngine core (fun d => d.vxLoad core 0x60 lsRanges vldRun)
def execVst (core : Nat) (s : State) : Out := s.onEngine core (fun d => d.vxStore core 0x61 lsRanges (fun rs c o => vstRun (fun j => d.vxRnd core c (lsRnd o) j) rs c o))
def execVldb (core : Nat) (s : State) : Out := s.onEngine core (fun d => d.vxLoad core 0x62 lsByteRanges vldbRun)
def execVstb (core : Nat) (s : State) : Out := s.onEngine core (fun d => d.vxStore core 0x63 lsByteRanges vstbRun)
def execVcfg (core : Nat) (s : State) : Out := s.onEngine core (fun d => d.vxIssue core 0x70 0 vCfg)
def execVout (core : Nat) (s : State) : Out := s.onEngine core (fun d => d.vout core)

end Sys2Proof.Machine
end

