-- ==== Sys2Proof/Machine/Slices.lean ====
section
/-! DEFINITION. Slices and the fused update (chapter 10): contributions at the owner's supers, memory-side adds, overflow, the
update and its fingerprint, versions and pushes, and the global norm. -/

namespace Sys2Proof.Machine
open Sys2Proof

/-! ## Step parameters (R259, R317) -/

/-- The recorded value of a constant (or of NQ, index 16) in force for a step: of the greatest FSTEP not above it, the last. -/
def Partition.param (x : Partition) (g j step : Nat) : Option Nat :=
  (x.params.foldl (fun (best : Option (Nat × Nat)) q =>
    if q.grp = g && q.idx = j && decide (q.fstep ≤ step) then
      match best with
      | some b => if b.1 ≤ q.fstep then some (q.fstep, q.value) else best
      | none => some (q.fstep, q.value)
    else best) none).map (·.2)

/-- Constant Cj of group g for a step, FP32 bits. -/
def Dev.cst (d : Dev) (p g j step : Nat) : Nat :=
  match (d.part p).param g j step with
  | some v => v
  | none => (Store.get 0#32 d.consts (16 * g + j)).toNat

/-- NQ of group g for a step. -/
def Dev.nq (d : Dev) (p : Nat) (t : List Byte) (g step : Nat) : Int :=
  match (d.part p).param g 16 step with
  | some v => signed 8 v
  | none => signed 8 (grpNq t g)

/-! ## Elements and their bounds (R248, R250, R251) -/

/-- Element e of a contribution. -/
def wireElt (g32 : Bool) (data : List Byte) (e : Nat) : Int :=
  if g32 then signed 32 (leAt data (4 * e) 4) else signed 16 (leAt data (2 * e) 2)

def sliceElts (g32 : Bool) (data : List Byte) : List Int := (List.range 4096).map (wireElt g32 data)

/-- SATC: elements at the format's produced maximum (R248). -/
def satCount (g32 : Bool) (data : List Byte) : Nat :=
  let top := if g32 then 2 ^ 31 - 1 else 32767
  ((sliceElts g32 data).filter (fun x => x.natAbs == top)).length

def int64Bound : Int := 2 ^ 63

/-- Add an element to a running sum: the new sum, held at the bound of its sign once it reaches 2^63, and whether it did. -/
def sumAdd (s x : Int) : Int × Bool :=
  if int64Bound ≤ s + x then (int64Bound - 1, true)
  else if s + x ≤ -int64Bound then (-int64Bound, true)
  else (s + x, false)

/-! ## Super state -/

def Super.slot (u : Super) (k : Nat) : Option Slot := Store.get none u.slots k
def Super.count (u : Super) (i n : Nat) : Super := { u with cnt := bump u.cnt i n }

/-- A word of the slot reads poisoned (R251). -/
def Super.slotBad (u : Super) (k : Nat) : Bool := u.accBad.any (fun y => y.1 == k)

def parkDepth : Nat := 256
def updateDepth : Nat := 64

/-- The slot is free again; a complete slot that waits for queue space takes its place when it can (R418). -/
def Dev.freeSlot (d : Dev) (x k : Nat) : Dev :=
  d.modSup x (fun u =>
    let u : Super := { u with slots := Store.set none u.slots k none, queue := u.queue.erase k, late := u.late.erase k }
    match u.late with
    | l :: r => if u.queue.length < updateDepth then { u with queue := u.queue ++ [l], late := r } else u
    | [] => u)

/-! ## Step-done (R255, R263, R365) -/

/-- The fingerprint of a capped step's CAP record in the log, during a replay. -/
def Partition.capRecord (x : Partition) (s : Nat) : Option Nat :=
  (x.log.find? (fun r => lrType r == 4 && lrStep r == s)).map (fun r => lrT r 0 + 2 ^ 32 * lrT r 1)

/-- Step s of partition p is done if every owned slice is: the event 0x0902, and FSTEP, FPL, FPH and OVFN. A replay compares
the fingerprint first (R365). -/
def Dev.finishStep (d : Dev) (p s : Nat) : Dev :=
  let x := d.part p
  let sent := match x.doneStep with
    | some y => decide (s ≤ y.1)
    | none => false
  let ovfl := x.ovfSteps.contains s
  let own := d.ownedSlices p
  let complete := own.all (fun o =>
    let t := d.sliceTab o.1
    !(verBefore (if ovfl then d.slCstep t o.2 else d.slVn t o.2) s))
  if sent || !complete then d
  else
    let fp := if ovfl then 0 else Store.get 0 x.fpSum s
    let bad := match x.replay, x.capRecord s with
      | some r, some f => decide (s ≤ r.upto) && (ovfl || f != fp)
      | _, _ => false
    if bad then (d.event 0x0B07 p 0 0x1FF []).endReplay p 0x0B07 s
    else
      let n := Store.get 0 x.ovfn s
      let d := d.modPart p (fun y => { y with
        doneStep := some (s, ovfl)
        recCnt := if x.replay.any (fun r => decide (s ≤ r.upto)) && (x.capRecord s).isSome then bump y.recCnt 20 1 else y.recCnt })
      { d with fstep := s, fp := fp, fovfn := n }.event 0x0902 p 0 0x1FF
        [s, b2n ovfl, fp % 2 ^ 32, fp / 2 ^ 32, n % 65536, x.rank]

/-! ## Pushes (R267) -/

/-- Push a version's copies, or an ADJ alone, to the ranks of a slice's replica set. -/
def Dev.push (d : Dev) (p c i v : Nat) (adj : Int) (adjOnly first : Bool) : Dev :=
  let t := d.sliceTab c
  let st := (d.ctx c).stamp
  let half := if v % 2 = 1 then bkHalf (d.blockTab c) (slBlk t i) else 0
  let row := d.memRead (slRow t i + half) 4224
  let col := ((colPieces (slCol t i + half) (slQidx t i)).map (fun q => d.memRead q.1 q.2)).flatten
  ((rsetRanks t (slRset t i)).filter (· != (d.part p).rank)).foldl (fun d r =>
    match d.slEntry p c r with
    | none => d
    | some e =>
      let pkt (h : Nat) (data : List Byte) (last : Bool) : SentPkt :=
        let w2 := unsigned 8 adj * 2 ^ 24 + b2n adjOnly * 2 + h
        { seq := 0, payload := data, last := last, push := if last && first then some (e.1, slSlid t i) else none,
          hdr := { d.hdr p r (ceChan e.2) 0x03 st.step st.phase data.length with
            fin := last, tsw0 := slSlid t i, tsw1 := v, tsw2 := w2 } }
      let d := if first then d.modPart p (fun x => { x with pushWait := x.pushWait ++ [(e.1, slSlid t i)] }) else d
      if adjOnly then d.enqueue p e.1 (pkt 0 [] true)
      else (d.enqueue p e.1 (pkt 0 row false)).enqueue p e.1 (pkt 1 col true)) d

/-! ## Overflow (R255, R258) -/

/-- Step s of partition p fires no further update: its queued and late slots are freed, its spilled sums are forgotten. -/
def Dev.stopStep (d : Dev) (p s : Nat) : Dev :=
  let d := d.modPart p (fun x => { x with ovfSteps := if x.ovfSteps.contains s then x.ovfSteps else x.ovfSteps ++ [s],
                                          spilled := x.spilled.filter (fun y => y.2.2 != s) })
  (List.range Config.nSupers).foldl (fun d x =>
    ((d.sup x).queue ++ (d.sup x).late).foldl (fun d k =>
      match (d.sup x).slot k with
      | some sl => if sl.part = p && sl.step = s then d.freeSlot x k else d
      | none => d) d) d

/-- A slice overflows step s (R255). -/
def Dev.overflow (d : Dev) (x k : Nat) (sl : Slot) : Dev :=
  let p := sl.part
  let t := d.sliceTab sl.ctx
  let i := sl.lidx
  let s := sl.step
  let buf := (s + 1) % 2
  let adj := min 63 (d.slAdj t i buf + 3)
  let d := ((d.setAdj t i buf adj).freeSlot x k).modSup x (fun u => u.count 6 1)
  let d := d.modPart p (fun y => { y with ovfn := Store.modify 0 y.ovfn s (· + 1) })
  let d := d.push p sl.ctx i ((s + 2 ^ 32 - 1) % 2 ^ 32) adj true false
  let d := d.event 0x0705 p sl.ctx 0x1FF [slSlid t i, b2n sl.ovf, min sl.satc (2 ^ 32 - 1), s]
  (d.stopStep p s).finishStep p s

/-- The global norm of a group overflows step s: 0x0705, whatever has overflowed the step before (R258). -/
def Dev.normOverflow (d : Dev) (p g s : Nat) : Dev :=
  ((d.event 0x0705 p 0 0x1FF [0xFFFFFFFF, 2, 0, s, g]).stopStep p s).finishStep p s

/-! ## The gradient and clipping (R256, R257) -/

/-- An FP32 result with the flags gathered so far. -/
abbrev Fl := Nat × AFlags

/-- The element of e lies in the slice's valid extent (R244). -/
def validElt (t : List Byte) (i e : Nat) : Bool := decide (e / 128 < slNrow t i) && decide (e % 128 < slNcol t i)

/-- G of one element before clipping, with the flags of its conversion from G64, which R53 sets, and of its scaling by c10
(R49, R256). -/
def gradient (q adj : Int) (c10 : Nat) (sum : Int) : Nat × BitVec 12 :=
  let g0 := toFloat 24 (.fin (dyInt sum 0)) .ne
  let g1 : Nat × Flags := match f32 g0.1 with
    | .fin d => if d.m = 0 then (g0.1, 0#8) else toFloat 24 (.fin ⟨d.neg, d.m, d.e + q + adj⟩) .ne
    | _ => (g0.1, 0#8)
  let g := numMul 24 (f32 g1.1) (f32 c10)
  (g.1, convFlags g1.2 ||| arithFlags g.2)

def Dev.gradients (d : Dev) (p c i s : Nat) (sums : Nat → Int) : List Nat × BitVec 12 :=
  let t := d.sliceTab c
  let adj := d.slAdj t i ((s + 1) % 2)
  let c10 := d.cst p (slGrp t i) 10 s
  let gs := (List.range 4096).map (fun e => gradient (slQ t i) adj c10 (sums e))
  (gs.map (·.1), gs.foldl (fun f g => f ||| g.2) 0#12)

/-- N2: the sum of G squared over the slice in the tree order of R101; an invalid element enters as +0. -/
def norm2 (t : List Byte) (i : Nat) (g : List Nat) : Nat × BitVec 12 :=
  let sq := (g.zipIdx).map (fun x => if validElt t i x.2 then numMul 24 (f32 x.1) (f32 x.1) else (0, 0#4))
  let r := reduceAll (fun a b => numAdd 24 (f32 a) (f32 b)) 12 (sq.map (·.1), sq.foldl (fun f x => f ||| arithFlags x.2) 0#12)
  (r.1.getD 0 0, r.2)

/-- Multiply every G by a factor. -/
def scaleAll (f : Nat) (g : List Nat) : List Nat × BitVec 12 :=
  let r := g.map (fun x => numMul 24 (f32 x) (f32 f))
  (r.map (·.1), r.foldl (fun a x => a ||| arithFlags x.2) 0#12)

/-- Per-slice clipping (R257). -/
def clipSlice (t : List Byte) (i c11 : Nat) (g : List Nat) : List Nat × BitVec 12 :=
  let n2 := norm2 t i g
  let n := numSqrt 24 (f32 n2.1)
  if numLt (f32 c11) (f32 n.1) then
    let k := numDiv 24 (f32 c11) (f32 n.1)
    let r := scaleAll k.1 g
    (r.1, n2.2 ||| arithFlags n.2 ||| arithFlags k.2 ||| r.2)
  else (g, n2.2 ||| arithFlags n.2)

/-! ## Optimisers (R260, R261, Tables 10-8 to 10-10) -/

/-- A microprogram operation: OP, D, A, B, C. -/
structure MOp where
  op : Nat
  dst : Nat
  a : Nat
  b : Nat := 0
  c : Nat := 0
  deriving DecidableEq, Repr

def mopOf (w : Nat) : MOp := ⟨bits w 31 27, bits w 26 24, bits w 23 19, bits w 18 14, bits w 13 9⟩

/-- The sequences of Table 10-8 (P = 0, G = 1, M1 = 2, M2 = 3, T0 = 4, T1 = 5; Cj = 16 + j). -/
def builtin (opt : Nat) : List MOp :=
  match opt with
  | 0 => [⟨4, 4, 22, 0, 1⟩, ⟨5, 0, 16, 4, 0⟩]
  | 1 => [⟨4, 4, 22, 0, 1⟩, ⟨4, 2, 23, 2, 4⟩, ⟨5, 0, 16, 2, 0⟩]
  | 2 => [⟨4, 4, 22, 0, 1⟩, ⟨4, 2, 23, 2, 4⟩, ⟨4, 5, 23, 2, 4⟩, ⟨5, 0, 16, 5, 0⟩]
  | _ => [⟨3, 4, 18, 1, 0⟩, ⟨4, 2, 17, 2, 4⟩, ⟨3, 5, 1, 1, 0⟩, ⟨3, 5, 20, 5, 0⟩, ⟨4, 3, 19, 3, 5⟩, ⟨3, 4, 2, 24, 0⟩,
          ⟨3, 5, 3, 25, 0⟩, ⟨7, 5, 5, 0, 0⟩, ⟨1, 5, 5, 21, 0⟩, ⟨6, 4, 4, 5, 0⟩, ⟨4, 4, 22, 0, 4⟩, ⟨5, 0, 16, 4, 0⟩]

/-- The program of a group. -/
def grpProgram (t : List Byte) (g : Nat) : List MOp :=
  if grpOpt t g = 4 then (List.range 32).map (fun j => mopOf (mprogWord t (grpMprog t g) j)) else builtin (grpOpt t g)

/-- One operation of Table 10-10 in FP32. -/
def mopEval (op a b c : Nat) : Fl :=
  match op with
  | 0x01 => eFadd 24 a b c
  | 0x02 => eFsub 24 a b c
  | 0x03 => eFmul 24 a b c
  | 0x04 => eFma 24 a b c
  | 0x05 => eFnma 24 a b c
  | 0x06 => eDiv 24 a b c
  | 0x07 => numSqrt 24 (f32 a)
  | 0x08 => numRsqrt 24 (f32 a)
  | 0x09 => eFmax 24 a b c
  | 0x0A => eFmin 24 a b c
  | 0x0B => eFabs 24 a b c
  | 0x0C => eFneg 24 a b c
  | 0x0D => (a, 0#4)
  | 0x0E => eFcpys 24 a b c
  | 0x0F => (if numLt (f32 a) (f32 b) then c else 0, 0#4)
  | 0x10 => numExp 24 dyExp (f32 a)
  | _ => numLog 24 dyLog (f32 a)

/-- Run a program over the registers P, G, M1, M2, T0 to T3; END stops it. -/
def runOps (cst : Nat → Nat) : List MOp → List Nat → AFlags → List Nat × AFlags
  | [], r, f => (r, f)
  | o :: rest, r, f =>
    if o.op = 0 then (r, f)
    else
      let src (k : Nat) : Nat := if k < 8 then r.getD k 0 else cst (k - 16)
      let y := mopEval o.op (src o.a) (src o.b) (src o.c)
      runOps cst rest (r.set o.dst y.1) (f ||| y.2)

/-! ## Working copies and the fingerprint (R262, R263) -/

/-- The copies of a master: row-order cells and column-order cells (address, byte), with the conversion flags. -/
def copyCells (t : List Byte) (i half : Nat) (m : Nat → Nat) : List (Nat × Byte) × List (Nat × Byte) × Flags :=
  let q := slQidx t i
  let row := slRow t i + half
  let col := slCol t i + half
  let val (r c : Nat) : FNum := if validElt t i (128 * r + c) then f32 (m (128 * r + c)) else .fin ⟨false, 0, 0⟩
  let code (sb r c : Nat) : Nat × Flags := if validElt t i (128 * r + c) then toPL false sb (val r c) .ne else (0, 0#8)
  let rowScale := (List.range 128).map (fun c => blockScale none ((List.range 32).map (fun r => val r c)))
  let rowCodes := ((List.range 32).map (fun r => (List.range 128).map (fun c =>
    (row + 128 + 128 * r + c, code (rowScale.getD c 0) r c)))).flatten
  let blocks := ((List.range 32).map (fun r => (List.range 4).map (fun g =>
    let sb := blockScale none ((List.range 32).map (fun j => val r (32 * g + j)))
    (r, g, sb, (List.range 32).map (fun j => (col + 4224 * g + 128 + 128 * j + 32 * q + r, code sb r (32 * g + j))))))).flatten
  let rc := (rowScale.zipIdx).map (fun x => (row + x.2, BitVec.ofNat 8 x.1)) ++
    rowCodes.map (fun x => (x.1, BitVec.ofNat 8 x.2.1))
  let cc := blocks.map (fun b => (col + 4224 * b.2.1 + 32 * q + b.1, BitVec.ofNat 8 b.2.2.1)) ++
    (blocks.map (fun b => b.2.2.2.map (fun x => (x.1, BitVec.ofNat 8 x.2.1)))).flatten
  let fl := rowCodes.foldl (fun f x => f ||| x.2.2) 0#8
  (rc, cc, blocks.foldl (fun f b => b.2.2.2.foldl (fun f x => f ||| x.2.2) f) fl)

/-- Fold a byte string into a fingerprint, as little-endian 64-bit words (R263). -/
def fpFold (h : BitVec 64) (bs : List Byte) : BitVec 64 :=
  (List.range (bs.length / 8)).foldl (fun h w =>
    (h.rotateLeft 23 ^^^ BitVec.ofNat 64 (leAt bs (8 * w) 8)) * 0xC3A51F6B2D8794E1#64) h

/-- The fingerprint of a slice's version as it stands in memory (notes/assumptions/20 for the order of the column copy). -/
def Dev.fingerprint (d : Dev) (c i s : Nat) : Nat :=
  let t := d.sliceTab c
  let half := if s % 2 = 1 then bkHalf (d.blockTab c) (slBlk t i) else 0
  let st := d.memRead (slState t i + s % 2 * stateBytes t i) (stateBytes t i)
  let row := d.memRead (slRow t i + half) 4224
  let col := ((colPieces (slCol t i + half) (slQidx t i)).map (fun q => d.memRead q.1 q.2)).flatten
  (fpFold (fpFold (fpFold (BitVec.ofNat 64 (slSlid t i * 2 ^ 32 + s)) st) row) col).toNat

/-- Write both working copies of a version from its master (R262). -/
def Dev.writeCopies (d : Dev) (c i s : Nat) (m : Nat → Nat) (poison : Bool) : Dev × Flags :=
  let t := d.sliceTab c
  let half := if s % 2 = 1 then bkHalf (d.blockTab c) (slBlk t i) else 0
  let y := copyCells t i half m
  let put (d : Dev) (r : Nat × List Byte) : Dev := d.unitWrite (d.partOfCtx c) r.1 r.2 poison
  let sorted (l : List (Nat × Byte)) : List (Nat × Byte) := l.foldl (fun m x => Store.insert m x.1 x.2) []
  let d := (mkRuns (sorted y.1)).foldl put d
  ((mkRuns (sorted y.2.1)).foldl put d, y.2.2)

/-! ## Pins (R266) -/

/-- A block's buffer is pinned by an open window of the context or by a snapshot. -/
def Dev.pinned (d : Dev) (p c blk buf : Nat) : Bool :=
  Store.get 0 (d.ctx c).blkPins (2 * blk + buf) != 0 ||
  (d.partCores p).any (fun n => (d.ctxCore p c n).su.live.any (fun w => w.2.ctx == c && w.2.pin == some (blk, buf)))

/-- A page of the slice's state or copies is on its way back after a retirement (R218). -/
def Dev.movingBack (d : Dev) (c i : Nat) : Bool :=
  let t := d.sliceTab c
  let half := bkHalf (d.blockTab c) (slBlk t i)
  ((pagesOf (slState t i) (2 * stateBytes t i)) ++ pagesOf (slRow t i) 4224 ++ pagesOf (slRow t i + half) 4224 ++
    pagesOf (slCol t i) 16896 ++ pagesOf (slCol t i + half) 16896).any (fun page =>
      (d.tm page).hint == 3 && !(decide ((d.tm page).dev < 4)))

/-- cap(s) is held: version s + 1 may be written (R265). -/
def Dev.cappedTo (d : Dev) (p s : Nat) : Bool := (d.part p).cappedTo s

/-! ## The update (R256 to R263) -/

/-- ADJ of the next step (Table 10-6). -/
def nextAdj (g32 : Bool) (peak : Nat) (adj : Int) : Int :=
  let hi := if g32 then 2 ^ 30 else 16384
  let lo := if g32 then 2 ^ 26 else 2048
  let a := if hi ≤ peak then adj + 1 else if peak < lo then adj - 1 else adj
  max (-64) (min 63 a)

def Dev.words32 (d : Dev) (a n : Nat) : List Nat := (List.range n).map (fun e => leNat (d.memRead (a + 4 * e) 4))

/-- Apply the optimiser to a slice, write its version s, fold the fingerprint and push (R256 to R263, R267). `cf` is the global
norm's factor. -/
def Dev.applyUpdate (d : Dev) (x p c i s : Nat) (sums : Nat → Int) (peak : Nat) (poison : Bool) (cf : Option Nat) : Dev :=
  let t := d.sliceTab c
  let g := slGrp t i
  let old := slState t i + (s + 1) % 2 * stateBytes t i
  let new := slState t i + s % 2 * stateBytes t i
  let nm := grpNmom t g
  let poison := poison || d.memPoisoned old (stateBytes t i)
  let master := (d.words32 old 4096).toArray
  let m1 := if 1 ≤ nm then (d.words32 (old + 16384) 4096).toArray else #[]
  let m2 := if 2 ≤ nm then (d.words32 (old + 32768) 4096).toArray else #[]
  let g0 := d.gradients p c i s sums
  let g1 := if slClip t i then clipSlice t i (d.cst p g 11 s) g0.1 else (g0.1, 0#12)
  let g2 := match cf with
    | some f => scaleAll f g1.1
    | none => (g1.1, 0#12)
  let cst := fun j => d.cst p g j s
  let prog := grpProgram t g
  let rs := (g2.1.zipIdx).map (fun y =>
    if validElt t i y.2 then runOps cst prog [master.getD y.2 0, y.1, m1.getD y.2 0, m2.getD y.2 0, 0, 0, 0, 0] 0#4
    else ([master.getD y.2 0, 0, m1.getD y.2 0, m2.getD y.2 0], 0#4))
  let reg (k : Nat) : List Nat := rs.map (fun r => r.1.getD k 0)
  let bytesOf (l : List Nat) : List Byte := (l.map (toLe 4)).flatten
  let st := bytesOf (reg 0) ++ (if 1 ≤ nm then bytesOf (reg 2) else []) ++ (if 2 ≤ nm then bytesOf (reg 3) else [])
  let fl := rs.foldl (fun f r => f ||| arithFlags r.2) (g0.2 ||| g1.2 ||| g2.2)
  let d := (d.wakeDev x).unitWrite p new st poison
  let pm := (reg 0).toArray
  let y := d.writeCopies c i s (fun e => pm.getD e 0) poison
  let d := y.1
  let adj := nextAdj (slG32 t i) peak (d.slAdj t i ((s + 1) % 2))
  let a0 := if s % 2 = 0 then adj else d.slAdj t i 0
  let a1 := if s % 2 = 1 then adj else d.slAdj t i 1
  let d := d.setStatus t i s true a0 a1 (d.slCstep t i)
  let fp := d.fingerprint c i s
  let d := d.modPart p (fun q => { q with fpSum := Store.modify 0 q.fpSum s (fun h => (h + fp) % 2 ^ 64) })
  let d := d.modSup x (fun u => ({ u with flags := u.flags ||| fl ||| convFlags y.2 } : Super).count 2 1)
  (d.push p c i s adj false false).finishStep p s

/-! ## Completion of a slot (R252, R258) -/

/-- Global-norm key of a group and step. -/
def normKey (g s : Nat) : Nat := 2 ^ 32 * g + s

/-- A slice table of the partition's contexts whose group g has global-norm clipping, one with slices of the group first: it gives
NORK, NMOD and the constants (R258; notes/assumptions/21). -/
def Dev.normTable (d : Dev) (p g : Nat) : Option (List Byte) :=
  let l := ((d.imgCtxs p).map d.sliceTab).filter (fun t => !t.isEmpty && grpGnorm t g)
  match l.find? (fun t => (List.range (slN t)).any (fun i => slGrp t i == g)) with
  | some t => some t
  | none => l.head?

/-- The owned slices of a partition in a group with global-norm clipping (notes/assumptions/21). -/
def Dev.normSlices (d : Dev) (p g : Nat) : List (Nat × Nat) :=
  (d.ownedSlices p).filter (fun o => slGrp (d.sliceTab o.1) o.2 == g && grpGnorm (d.sliceTab o.1) g)

/-- NORK adds a partial; with NMOD + 1 of them it computes cf and sends it (R258). -/
def Dev.normArrive (d : Dev) (p g rank s : Nat) (value : Int) : Dev :=
  let key := normKey g s
  let x := d.part p
  match d.normTable p g with
  | none => d
  | some t =>
    let seen := Store.get [] x.normRanks key
    if grpNork t g != x.rank || seen.contains rank || (Store.get none x.normCf key).isSome then d
    else
      let old := Store.get 0 x.normTotal key
      let total := old + value
      let d := d.modPart p (fun x => { x with normTotal := Store.set 0 x.normTotal key total,
                                              normRanks := Store.set [] x.normRanks key (seen ++ [rank]) })
      if int64Bound ≤ total.natAbs then (if int64Bound ≤ old.natAbs then d else d.normOverflow p g s)
      else if seen.length + 1 < grpNmod t g then d
      else
        let v := (toFloat 24 (.fin (dyInt total (d.nq p t g s))) .ne).1
        let n := (numSqrt 24 (f32 v)).1
        let r := (numDiv 24 (f32 (d.cst p g 12 s)) (f32 n)).1
        let cf := fltMaxMin 24 false 0x3F800000 r
        (d.modPart p (fun x => { x with normCf := Store.set none x.normCf key (some (BitVec.ofNat 32 cf)) })).send
          (.factor p g s (BitVec.ofNat 32 cf) (d.partStamp p).step (d.partStamp p).phase)

/-- Phase 1 of the global norm: the slice's N2 joins the partial, its sums go to the spill region, the slot frees. -/
def Dev.spill (d : Dev) (x k : Nat) (sl : Slot) : Dev :=
  let p := sl.part
  let t := d.sliceTab sl.ctx
  let g := slGrp t sl.lidx
  let s := sl.step
  let key := normKey g s
  let gs := d.gradients p sl.ctx sl.lidx s (Store.get 0 sl.sum)
  let n2 := norm2 t sl.lidx gs.1
  -- the count of 2^NQ; a NaN has no stated count: a free value (notes/assumptions/22)
  let cnt : Option Int × Dev := match f32 n2.1 with
    | .fin v => (some ((if v.neg then -1 else 1) * (scaleRound v.m (v.e - d.nq p t g s) .ne : Int)), d)
    | .inf _ => (none, d)
    | .nan _ => (some (Config.free64 d.freeIx).toInt, { d with freeIx := d.freeIx + 1 })
  let d := cnt.2
  let d := d.unitWrite p (slSpill t sl.lidx) (((List.range 4096).map (fun e => toLe 8 (unsigned 64 (Store.get 0 sl.sum e)))).flatten) false
  let d := (d.freeSlot x k).modSup x (fun u => { u with flags := u.flags ||| gs.2 ||| n2.2 })
  let d := d.modPart p (fun q => { q with
    spilled := q.spilled ++ [(sl.ctx, sl.lidx, s)],
    normSum := Store.modify 0 q.normSum key (fun v => v + (cnt.1.getD 0)),
    normCount := Store.modify 0 q.normCount key (· + 1) })
  let d := d.modPart p (fun q => { q with peaks := Store.set 0 q.peaks (normKey sl.lidx s * 32 + sl.ctx) sl.peak })
  if cnt.1.isNone || int64Bound ≤ (Store.get 0 (d.part p).normSum key).natAbs then d.normOverflow p g s
  else if Store.get 0 (d.part p).normCount key = (d.normSlices p g).length then
    let v := Store.get 0 (d.part p).normSum key
    if grpNork t g = (d.part p).rank then d.normArrive p g (d.part p).rank s v
    else d.send (.norm p g (grpNork t g) s v (d.partStamp p).step (d.partStamp p).phase)
  else d

/-- COUNT has reached ECNT (R252). -/
def Dev.slotComplete (d : Dev) (x k : Nat) (sl : Slot) : Dev :=
  let t := d.sliceTab sl.ctx
  let d := d.setCstep t sl.lidx sl.step
  if sl.poison then d.contextFault 0x0704 sl.part sl.ctx 0x1FF []
  else if sl.ovf || sl.satc != 0 then d.overflow x k sl
  else if (d.part sl.part).ovfSteps.contains sl.step then (d.freeSlot x k).finishStep sl.part sl.step
  else if grpGnorm t (slGrp t sl.lidx) then d.spill x k sl
  else d.modSup x (fun u => if u.queue.length < updateDepth then { u with queue := u.queue ++ [k] } else { u with late := u.late ++ [k] })

/-! ## Contributions (R250, R251) -/

/-- DETAIL of the faults that a contribution raises (R271). -/
def contribDetail (d : Dev) (q : Contrib) (known : Bool) : List Nat :=
  [q.lidx, q.step, q.phase * 65536 + q.sender, if known then slSlid (d.sliceTab q.ctx) q.lidx else 0xFFFFFFFF]

/-- What the checks of R250 make of a contribution. -/
inductive Verdict where
  | drop
  | fault (code : Nat) (known : Bool)
  | park
  | add
  deriving DecidableEq, Repr

/-- Checks 4 to 6 (R250). -/
def Dev.lateChecks (d : Dev) (x : Nat) (q : Contrib) : Verdict :=
  let t := d.sliceTab q.ctx
  if !(verBefore (d.slVn t q.lidx) q.step) || !(verBefore (d.slCstep t q.lidx) q.step) then .fault 0x0702 true
  else if (d.slVn t q.lidx + 1) % 2 ^ 32 < q.step then .park
  else match (d.sup x).slot (slSlot t q.lidx) with
    | none => .add
    | some sl => if sl.part = q.part && sl.ctx = q.ctx && sl.lidx = q.lidx && sl.step = q.step then .add else .park

/-- Checks 1 to 6 (R250). -/
def Dev.checks (d : Dev) (x : Nat) (q : Contrib) : Verdict :=
  let t := d.sliceTab q.ctx
  if q.epoch != (d.part q.part).epoch then .drop
  else if !(decide (q.lidx < slN t) && slOwn t q.lidx && slSup t q.lidx == x) then .fault 0x0706 false
  else if !(decide (slOph t q.lidx ≤ q.phase) && decide (q.phase < slCph t q.lidx)) then .fault 0x0703 true
  else d.lateChecks x q

/-- Add a contribution to its slot, claiming it when free (R250, R251). -/
def Dev.addContrib (d : Dev) (x : Nat) (q : Contrib) : Dev :=
  let t := d.sliceTab q.ctx
  let k := slSlot t q.lidx
  let xs := sliceElts (slG32 t q.lidx) q.data
  let peak := xs.foldl (fun m y => max m y.natAbs) 0
  let held := (d.sup x).slot k
  let old : Slot := held.getD
    { lidx := q.lidx, step := q.step, count := 0, satc := 0, peak := 0, ovf := false, poison := false, part := q.part, ctx := q.ctx }
  let sums := (xs.zipIdx).map (fun y => (y.2, sumAdd (Store.get 0 old.sum y.2) y.1))
  let sl : Slot := { old with
    count := old.count + 1, satc := old.satc + q.satc, peak := max old.peak peak,
    ovf := old.ovf || sums.any (fun y => y.2.2), poison := old.poison || q.poison || (held.isSome && (d.sup x).slotBad k),
    sum := sums.foldl (fun m y => Store.set 0 m y.1 y.2.1) [] }
  let d := (d.wakeDev x).modSup x (fun u => ({ u with
    slots := Store.set none u.slots k (some sl), accBad := u.accBad.filter (fun y => y.1 != k) } : Super).count 3 1 |>.count 5 q.satc)
  if sl.count = slEcnt t q.lidx then d.slotComplete x k sl else d

/-- A contribution has been added, parked or dropped: a local one frees its tags (R250). A remote one is placed by its receive
channel (Machine/Network.lean). -/
def Dev.contribDone (d : Dev) (q : Contrib) : Dev :=
  match q.desc with
  | some t => d.awayDone q.part q.ctx t q.data.length
  | none => d

/-- CONTRIBUTION_ARRIVAL: the oldest contribution on its way to super x. One that would park while the park queue is full
goes behind the others and waits. Answers the contribution that was placed (R250). -/
def Dev.contribArrival (d : Dev) (x : Nat) : Dev × Option Contrib :=
  match (d.sup x).arrivals with
  | [] => (d, none)
  | q :: rest =>
    let d' := d.modSup x (fun u => { u with arrivals := rest })
    match d.checks x q with
    | .drop => (d'.modSup x (fun u => u.count 4 1) |>.contribDone q, some q)
    | .fault code known => ((d'.contribDone q).contextFault code q.part q.ctx 0x1FF (contribDetail d q known), some q)
    | .park =>
      if parkDepth ≤ (d.sup x).parkq.length then (d.modSup x (fun u => { u with arrivals := rest ++ [q] }), none)
      else (d'.modSup x (fun u => { u with parkq := u.parkq ++ [q] }) |>.contribDone q, some q)
    | .add => ((d'.addContrib x q).contribDone q, some q)

/-- PARKED_CONTRIBUTION_RETRY: parked entry k meets the checks again from step 4 (R250). -/
def Dev.parkedRetry (d : Dev) (x k : Nat) : Dev :=
  match (d.sup x).parkq[k]? with
  | none => d
  | some q =>
    let d' := d.modSup x (fun u => { u with parkq := u.parkq.eraseIdx k })
    match d.lateChecks x q with
    | .fault code known => d'.contextFault code q.part q.ctx 0x1FF (contribDetail d q known)
    | .add => d'.addContrib x q
    | _ => d

def execParkedContributionRetry (super k : Nat) (s : State) : Out :=
  s.onUnit (decide (super < Config.nSupers)) (fun d => d.parkedRetry super k)

/-! ## Memory-side adds (R249, Table 10-4) -/

/-- One element added. -/
def addElt (aop old x : Nat) : Nat :=
  match aop with
  | 0 => (old + x) % 2 ^ 32
  | 1 => (old + x) % 2 ^ 64
  | 2 => (numAdd 24 (f32 old) (f32 x)).1
  | _ => (numAdd 8 (bf16 old) (bf16 x)).1

/-- MEMORY_SIDE_ADD: the oldest add on its way to super x takes effect, element by element (R249). -/
def Dev.sideAdd (d : Dev) (x : Nat) : Dev :=
  match (d.sup x).adds with
  | [] => d
  | a :: rest =>
    let d := d.modSup x (fun u => { u with adds := rest })
    let p := d.partOf a.core
    match (d.core a.core).su.req.find? (fun q => !q.light && q.tag == a.tag) with
    | none => d
    | some q =>
      let c := match q.owner with
        | .desc i => match Store.get none (d.core a.core).su.desc i with
          | some s => s.ctx
          | none => d.ctxOf a.core
        | .window _ => d.ctxOf a.core
      let w := aopBytes a.aop
      let n := a.data.length
      let d := d.countMem c a.addr n false
      let d := (List.range (n / w)).foldl (fun d k =>
        let cells := (a.data.drop (k * w)).take w
        let at' := a.addr + k * w
        let v := addElt a.aop (leNat (d.memRead at' w)) (leNat (cells.map (·.1)))
        d.memPut at' (toLe w v) (cells.any (·.2) || d.memPoisoned at' w)) d
      ((((d.combDrop a.addr n).countMem c a.addr n true).staleCheck p a.addr n).modCore a.core (fun k => k.endRequest q)).settleLeaving

def execMemorySideAdd (super : Nat) (s : State) : Out :=
  s.onUnit (decide (super < Config.nSupers)) (fun d => d.sideAdd super)

/-! ## FUSED_UPDATE (R256) -/

/-- The update unit of super x waits (UWAIT). -/
def Dev.uwait (d : Dev) (x : Nat) : Dev := let y := d.freshCycles; y.2.modSup x (fun u => u.count 7 y.1)

/-- Version s of a slice may be written (R256, R265). -/
def Dev.mayWrite (d : Dev) (p c i s : Nat) : Bool :=
  d.cappedTo p ((s + 2 ^ 32 - 1) % 2 ^ 32) && !(d.pinned p c (slBlk (d.sliceTab c) i) (s % 2))

/-- One update of super x: the queued slot of local index i, or else a spilled slice of it whose factor has arrived. In
thermal stage 2 the unit takes none (R418). -/
def Dev.fusedUpdate (d : Dev) (x i : Nat) : Dev :=
  if 2 ≤ (d.sup x).stage then d
  else match (d.sup x).queue.findSome? (fun k => match (d.sup x).slot k with
      | some sl => if sl.lidx = i then some (k, sl) else none
      | none => none) with
  | some (k, sl) =>
    if d.mayWrite sl.part sl.ctx i sl.step && !(d.movingBack sl.ctx i) then
      if (d.sup x).slotBad k then d.contextFault 0x0704 sl.part sl.ctx 0x1FF []
      else (d.freeSlot x k).applyUpdate x sl.part sl.ctx i sl.step (Store.get 0 sl.sum) sl.peak false none
    else d.uwait x
  | none =>
    match (List.range nParts).findSome? (fun p => ((d.part p).spilled.find? (fun y =>
        y.2.1 == i && slSup (d.sliceTab y.1) i == x &&
        (Store.get none (d.part p).normCf (normKey (slGrp (d.sliceTab y.1) i) y.2.2)).isSome)).map (fun y => (p, y))) with
    | none => d
    | some (p, y) =>
      let t := d.sliceTab y.1
      let s := y.2.2
      if d.mayWrite p y.1 i s && !(d.movingBack y.1 i) then
        let cf := (Store.get none (d.part p).normCf (normKey (slGrp t i) s)).map (·.toNat)
        let sums := ((List.range 4096).map (fun e => signed 64 (leNat (d.memRead (slSpill t i + 8 * e) 8)))).toArray
        let pk := Store.get 0 (d.part p).peaks (normKey i s * 32 + y.1)
        (d.modPart p (fun q => { q with spilled := q.spilled.erase y })).applyUpdate x p y.1 i s (fun e => sums.getD e 0) pk
          (d.memPoisoned (slSpill t i) 32768) cf
      else d.uwait x

def execFusedUpdate (super lidx : Nat) (s : State) : Out :=
  s.onUnit (decide (super < Config.nSupers)) (fun d => d.fusedUpdate super lidx)

/-- NORM_PARTIAL_ARRIVAL (R258). -/
def execNormPartialArrival (part grp rank step : Nat) (value : Int) (s : State) : Out :=
  s.onUnit (decide (part < nParts)) (fun d => d.normArrive part grp rank step value)

/-- NORM_FACTOR_ARRIVAL: the held slices of the group may be updated (R258). -/
def execNormFactorArrival (part grp step : Nat) (cf : Word32) (s : State) : Out :=
  s.onUnit (decide (part < nParts)) (fun d =>
    d.modPart part (fun x => { x with normCf := Store.set none x.normCf (normKey grp step) (some cf) }))

/-! ## The first version (R315) and the reset of slices (R269) -/

/-- Encode and push version v of every owned slice without an optimiser, and treat it as capped (R315). -/
def Dev.encodeVersion (d : Dev) (p v : Nat) (keepAdj : Bool) : Dev :=
  (d.imgCtxs p).foldl (fun d c =>
    let t := d.sliceTab c
    (List.range (slN t)).foldl (fun d i =>
      let adj := fun b => if keepAdj || b != v % 2 then d.slAdj t i b else 0
      if slOwn t i then
        let m := (d.words32 (slState t i + v % 2 * stateBytes t i) 4096).toArray
        let y := d.writeCopies c i v (fun e => m.getD e 0) (d.memPoisoned (slState t i + v % 2 * stateBytes t i) 16384)
        let d := y.1.modSup (slSup t i) (fun u => { u with flags := u.flags ||| convFlags y.2 })
        let d := d.setStatus t i v false (adj 0) (adj 1) v
        d.push p c i v (adj (v % 2)) false true
      else d) d) d

/-- What the partition reset does to the slices: headers and queues of the partition go, VN and CSTEP fall back to the
newest capped version (R269). -/
def Dev.resetSlices (d : Dev) (p : Nat) : Dev :=
  let v := (d.part p).capped
  let d := (List.range Config.nSupers).foldl (fun d x => d.modSup x (fun u =>
    let mine (k : Nat) : Bool := match u.slot k with
      | some sl => sl.part == p
      | none => false
    { u with
      arrivals := u.arrivals.filter (fun q => q.part != p), parkq := u.parkq.filter (fun q => q.part != p),
      adds := u.adds.filter (fun a => d.partOf a.core != p), queue := u.queue.filter (fun k => !(mine k)),
      late := u.late.filter (fun k => !(mine k)), slots := u.slots.filter (fun y => !(mine y.1)) })) d
  let d := d.modPart p (fun x => { x with normSum := [], normCount := [], normTotal := [], normRanks := [], normCf := [],
                                          spilled := [], peaks := [], fpSum := [], ovfn := [], ovfSteps := [], pushWait := [],
                                          doneStep := none })
  (d.imgCtxs p).foldl (fun d c =>
    let t := d.sliceTab c
    (List.range (slN t)).foldl (fun d i => d.setStatus t i v false (d.slAdj t i 0) (d.slAdj t i 1) v) d) d

end Sys2Proof.Machine
end

