-- ==== Sys2Proof/Machine/Transfers.lean ====
section
/-! DEFINITION. The requests of a descriptor (chapters 7, 10, 11): one piece of a copy, a block transpose, a slice, memory-side adds or
a transfer to another module. -/

namespace Sys2Proof.Machine
open Sys2Proof

/-- Where the next source bytes lie, and how many of them one request can take: unified range, core, address, bytes. -/
abbrev Piece := Bool × Nat × Nat × Nat

/-- The next source piece; nothing while the ring slot at the head is not filled (R164, R170, R176). -/
def Dev.nextSrc (d : Dev) (n : Nat) (s : SDesc) : Option Piece :=
  let i := s.img
  if sdSring i then
    match d.srcRing n i with
    | none => none
    | some r =>
      let c := d.core n
      let h := (c.ringSt r.ix).head
      let off := s.pos % r.slotBytes
      if c.filled r h then some (false, n, 32 * r.slotRow h + off, r.slotBytes - off) else none
  else
    let a := sdSrcAt i s.pos
    let row := sdRun i - s.pos % sdRun i
    if sdSuni i then some (true, 0, a, min row (512 - a % 512)) else some (false, sdScore i, a, row)

/-- The source bytes of a piece with their poison marks. -/
def Dev.srcCells (d : Dev) (q : Piece) : List (Byte × Bool) :=
  if q.1 then d.memCells q.2.2.1 q.2.2.2 else (d.core q.2.1).padCells q.2.2.1 q.2.2.2

/-- The piece's scratchpad rows are not filled yet (R164). -/
def Dev.srcWaits (d : Dev) (q : Piece) : Bool :=
  !q.1 && (d.core q.2.1).readCheck (d.rings q.2.1) false .stream [(q.2.2.1, q.2.2.2)] == .wait

/-- After a read: the comb and the accounting of a unified piece, the release of a ring slot whose last byte was read. -/
def Dev.afterRead (d : Dev) (n : Nat) (s : SDesc) (q : Piece) : Dev :=
  if q.1 then d.streamRead s.ctx q.2.2.1 q.2.2.2
  else if sdSring s.img then
    match d.srcRing n s.img with
    | some r =>
      if (s.pos + q.2.2.2) % r.slotBytes = 0 then d.modCore n (fun c => c.release r ((c.ringSt r.ix).head)) else d
    | none => d
  else d

/-- Take ring slots for a ring-mode destination until `need` of them are taken, as far as they are free (R166). -/
def Dev.claim (n k : Nat) (r : RingDecl) : Nat → Nat → Dev → List Nat → Dev × List Nat
  | 0, _, d, l => (d, l)
  | f + 1, need, d, l =>
    if need ≤ l.length || !(d.slotFree n k r) then (d, l)
    else
      let x := (d.core k).ringSt r.ix
      let s := max x.prod x.tail
      let d := d.modCore k (fun c => c.setRing r.ix { x with prod := s + 1 })
      let d := if r.pcls = 2 then
          d.modCore n (fun c => { c with su := { c.su with credit := Store.modify 0 c.su.credit (k * 32 + r.ix) (· + 1) } })
        else d
      Dev.claim n k r f need d (l ++ [s])

/-- Destination of byte `pos` of a copy or transpose. -/
def Dev.dstCell (d : Dev) (n : Nat) (s : SDesc) (pos : Nat) (x : Byte × Bool) : Cell :=
  let i := s.img
  if sdDring i then
    match d.dstRing n i with
    | some r =>
      let b := sdRingAt i pos
      (false, sdDcore i, 32 * r.slotRow (s.slots.getD (b / r.slotBytes) 0) + b % r.slotBytes, x.1, x.2)
    | none => (false, sdDcore i, 0, x.1, x.2)
  else (sdDuni i, sdDcore i, sdDstAt i pos, x.1, x.2)

/-- A free light buffer (R175). -/
def StreamUnit.freeLight (s : StreamUnit) : Option Nat :=
  (List.range 4).find? (fun t => !(s.req.any (fun r => r.light && r.tag == t)))

/-- A ring source's bytes lie in a row that the forager left unfetched (R179): its first row. -/
def Dev.srcUnfetched (d : Dev) (n : Nat) (s : SDesc) (q : Piece) : Option Nat :=
  if sdSring s.img then (rowsOf q.2.2.1 q.2.2.2).find? (fun row => (d.core n).uBit row) else none

/-- The read of a piece, with the tokens that a hot super asks for taken; nothing when the comb has no miss register for it, or the
bucket not enough tokens (R181, R211). -/
def Dev.payRead (d : Dev) (q : Piece) : Option Dev := if q.1 then d.readMeter q.2.2.1 q.2.2.2 else some d

/-- What stops a request's read of a piece: a wait on its ring slots, an unfetched row, a miss register or tokens that the comb or a hot
super does not grant (R164, R179, R181, R211). -/
def Dev.readPiece (d : Dev) (n : Nat) (s : SDesc) (q : Piece) (go : Dev → Dev) : Dev :=
  if d.srcWaits q then d
  else match d.srcUnfetched n s q with
    | some row => d.streamFault n s.uid s.tid s.pc (0x0402, 32 * row, false)
    | none => if (d.payRead q).isNone then d else go d

/-- Issue a request of `len` bytes: it holds a tag or a light buffer until it lands (R176), and carries the sender's beat (R142).
`page` is the unified page that it reads or adds to. -/
def Dev.issue (d : Dev) (n i : Nat) (s : SDesc) (tag len : Nat) (light ring : Bool) (page : Option Nat)
    (runs : List (Dest × List Byte × Bool)) : Dev :=
  let rq : Request := { tag := tag, owner := .desc i, light := light, runs := runs, ring := ring, sched := sdSched s.img,
                        stamp := (d.part (d.partOf n)).beat, src := page }
  d.modCore n (fun c => { c.setDesc i (some { s with pos := s.pos + len, inflight := s.inflight + 1 }) with
    progress := true,
    su := { (c.setDesc i (some { s with pos := s.pos + len, inflight := s.inflight + 1 })).su with
      req := c.su.req ++ [rq], counters := bump c.su.counters (if light then 3 else 2) 1 } })

/-- The descriptor as it stands, nothing issued. -/
def Dev.keepDesc (d : Dev) (n i : Nat) (s : SDesc) : Dev := d.modCore n (fun c => c.setDesc i (some s))

/-- The light path: every source byte at once, once a light buffer is free (R175). -/
def Dev.lightRequest (d : Dev) (n i : Nat) (s : SDesc) : Dev :=
  let img := s.img
  let total := sdTotal img
  let rows := (List.range (sdRows img)).map (fun j => (sdSrcAt img (j * sdRun img), sdRun img))
  match (d.core n).su.freeLight with
  | none => d
  | some b =>
    if (d.core n).readCheck (d.rings n) false .stream rows == .wait then d
    else
      let ring := if sdDring img then d.dstRing n img else none
      let x : Dev × List Nat := match ring with
        | some r => Dev.claim n (sdDcore img) r 16 (ceilDiv total r.slotBytes) d s.slots
        | none => (d, s.slots)
      let d := x.1
      let s : SDesc := { s with slots := x.2 }
      let short := match ring with
        | some r => decide (s.slots.length < ceilDiv total r.slotBytes)
        | none => false
      let cells := ((rows.map (fun r => (d.core n).padCells r.1 r.2)).flatten.zipIdx).map (fun y => d.dstCell n s y.2 y.1)
      let own := !(sdDring img) && sdDcore img == n &&
        (d.core n).writeWaits (d.rings n) (cells.map (fun y => (y.2.2.1, 1)))
      if short || own then d.keepDesc n i s
      else d.issue n i s b total true (sdDring img) none (cellRuns cells)

/-- One request of a copy, or of a block transpose whose destination is no unified range (R170, R171): it ends with its source row,
with its destination row or slot, and at a boundary of 512 bytes of the unified range (R176). -/
def Dev.copyRequest (d : Dev) (n i : Nat) (s : SDesc) : Dev :=
  let img := s.img
  match d.nextSrc n s with
  | none => d
  | some q =>
    let ring := if sdDring img then d.dstRing n img else none
    let row := sdRun img - s.pos % sdRun img
    let lim := match ring with
      | some r => if sdKind img = 1 then r.slotBytes - s.pos % r.slotBytes else 512
      | none => if sdKind img = 1 then (if sdDuni img then min row (512 - sdDstAt img s.pos % 512) else row) else 512
    let len := min (min q.2.2.2 lim) (min 512 (sdTotal img - s.pos))
    let q : Piece := (q.1, q.2.1, q.2.2.1, len)
    d.readPiece n s q (fun d =>
      let need := match ring with
        | some r => ((List.range len).map (fun j => sdRingAt img (s.pos + j) / r.slotBytes + 1)).foldl max 0
        | none => 0
      let x : Dev × List Nat := match ring with
        | some r => Dev.claim n (sdDcore img) r 16 need d s.slots
        | none => (d, s.slots)
      let d := x.1
      let s : SDesc := { s with slots := x.2 }
      let cells := ((d.srcCells q).zipIdx).map (fun y => d.dstCell n s (s.pos + y.2) y.1)
      let own := !(sdDring img) && !(sdDuni img) && sdDcore img == n &&
        (d.core n).writeWaits (d.rings n) (cells.map (fun y => (y.2.2.1, 1)))
      if decide (s.slots.length < need) || own then d.keepDesc n i s
      else
        match (d.core n).su.freeTag with
        | none => (d.keepDesc n i s).suWaits n 7
        | some tag =>
          match (d.payRead q).bind (fun d => if sdDuni img && !(sdDring img) then d.meter (sdDstAt img s.pos) len else some d) with
          | none => d.keepDesc n i s
          | some d =>
            let page := if q.1 then some (q.2.2.1 / pageBytes) else none
            (d.issue n i s tag len false (sdDring img) page (cellRuns cells)).afterRead n s q)

/-- Where byte `k` of a transposed block, in the order of its output rows, stands in the block as it is read (R171). -/
def sdBlockAt (e k : Nat) : Nat := (k / e % 32 * 32 + k / (32 * e)) * e + k % e

/-- One request of a block transpose into the unified range (R171, R176): the block is read into the stream unit's buffer of 4 KiB, piece
by piece in address order; then each output row of 32 elements leaves, in a request that does not cross a boundary of 512 bytes. -/
def Dev.transposeRequest (d : Dev) (n i : Nat) (s : SDesc) : Dev :=
  let img := s.img
  let e := sdElt img
  let block := 1024 * e
  if s.data.length < block then
    let at' : SDesc := { s with pos := s.pos / block * block + s.data.length }
    match d.nextSrc n at' with
    | none => d
    | some q =>
      let len := min q.2.2.2 (min 512 (block - s.data.length))
      let q : Piece := (q.1, q.2.1, q.2.2.1, len)
      d.readPiece n at' q (fun d =>
        match (d.core n).su.freeTag with
        | none => d.suWaits n 7
        | some _ =>
          let cells := d.srcCells q
          let d := ((d.payRead q).getD d).modCore n (fun c =>
            let c := c.setDesc i (some { s with data := s.data ++ cells.map (·.1), marks := s.marks ++ cells.map (·.2) })
            { c with progress := true, su := { c.su with counters := bump c.su.counters 2 1 } })
          d.afterRead n at' q)
  else
    let k := s.pos % block
    -- output row k / (32 e) of this block
    let a := (strided (sdDaddr img) (sdDstr img) (k / (32 * e)) + (s.pos / block * (32 * e) + k % (32 * e) : Nat)).toNat
    let len := min (32 * e - k % (32 * e)) (512 - a % 512)
    match (d.core n).su.freeTag with
    | none => d.suWaits n 7
    | some tag =>
      match d.meter a len with
      | none => d
      | some d =>
        let cells := (List.range len).map (fun j =>
          (true, 0, a + j, s.data.getD (sdBlockAt e (k + j)) 0#8, s.marks.getD (sdBlockAt e (k + j)) false))
        let s' : SDesc := if k + len = block then { s with data := [], marks := [] } else s
        d.issue n i s' tag len false false none (cellRuns cells)

/-- One request of memory-side adds (R249): its page must lie in a super, or be on its way back there. -/
def Dev.addRequest (d : Dev) (n i : Nat) (s : SDesc) : Dev :=
  let img := s.img
  match d.nextSrc n s with
  | none => d
  | some q =>
    let w := aopBytes (sdAop img)
    let a := sdDaddr img + s.pos
    let e := d.tm (a / pageBytes)
    let m := min (min q.2.2.2 (512 - a % 512)) (sdTotal img - s.pos)
    let len := if m < w then min w (sdTotal img - s.pos) else m / w * w
    let q : Piece := (q.1, q.2.1, q.2.2.1, len)
    if d.srcWaits q then d
    else if 4 ≤ e.dev then
      if e.hint = 3 then d else d.streamFault n s.uid s.tid s.pc (0x0408, a, true)
    else d.readPiece n s q (fun d =>
      match (d.core n).su.freeTag with
      | none => d.suWaits n 7
      | some tag =>
        match (d.payRead q).bind (fun d => d.meter a len) with
        | none => d
        | some d =>
          let cells := d.srcCells q
          let add : SideAdd := { core := n, tag := tag, addr := a, aop := sdAop img, data := cells }
          ((d.issue n i s tag len false false (some (a / pageBytes)) [(.away, cells.map (·.1), false)]).afterRead n s q).modSup e.dev
            (fun u => { u with adds := u.adds ++ [add] }))

/-- The gathered slice leaves: to the super that owns it, or as SLICE packets to its owner (R247, R280). -/
def Dev.sendSlice (d : Dev) (n i : Nat) (s : SDesc) : Dev :=
  let p := d.partOf n
  let t := d.sliceTab s.ctx
  let l := sdLidx s.img
  let g32 := slG32 t l
  let satc := satCount g32 s.data
  if slOwn t l then
    let q : Contrib := { part := p, lidx := l, step := s.step, phase := s.phase, epoch := (d.part p).epoch,
                         sender := (d.part p).rank, satc := satc, poison := s.poisoned, data := s.data, ctx := s.ctx, desc := some (n, i) }
    d.modSup (slSup t l) (fun u => { u with arrivals := u.arrivals ++ [q] })
  else
    match d.slEntry p s.ctx (slOrank t l) with
    | none => d
    | some e =>
      let pkt (h : Nat) (fin : Bool) : SentPkt :=
        let hd : DataHdr := { d.hdr p (cePeer e.2) (ceChan e.2) 0x02 s.step s.phase 8192 with
          fin := fin, tsw0 := slOidx t l, tsw1 := (if h = 0 then satc * 65536 else 0) + h, tsw2 := b2n s.poisoned }
        { seq := 0, payload := (s.data.drop (8192 * h)).take 8192, desc := some (n, i), last := fin, hdr := hd }
      if g32 then (d.enqueue p e.1 (pkt 0 false)).enqueue p e.1 (pkt 1 true) else d.enqueue p e.1 (pkt 0 true)

/-- A WRITE packet of a KIND 0x4 transfer leaves (R282): the last `len` bytes before position `pos`. -/
def Dev.sendWrite (d : Dev) (n i : Nat) (s : SDesc) : Dev :=
  let p := d.partOf n
  match d.sendEntry p s.ctx (sdChan s.img) with
  | none => d
  | some e =>
    let fin := s.pos == sdTotal s.img
    let h : DataHdr := { d.hdr p (cePeer e.2) (ceChan e.2) 0x01 s.step s.phase s.data.length with
      fin := fin, tsw0 := (sdOffset s.img + (s.pos - s.data.length)) % 2 ^ 32, tsw1 := b2n s.poisoned }
    let k : SentPkt := { seq := 0, payload := s.data, desc := some (n, i), last := fin, hdr := h }
    d.enqueue p e.1 k

/-- Bytes join the descriptor's last request, which has not reached 512 of them (R176). -/
def Dev.extend (d : Dev) (n i : Nat) (s : SDesc) (bs : List Byte) (pois : Bool) : Dev :=
  let join : List Request → List Request := fun l => l.foldr (fun q acc =>
    if q.owner == .desc i && !(acc.any (fun x => x.owner == .desc i)) then
      { q with runs := q.runs ++ [(.away, bs, pois)] } :: acc else q :: acc) []
  d.modCore n (fun c => { c.setDesc i (some { s with pos := s.pos + bs.length }) with
    progress := true,
    su := { (c.setDesc i (some { s with pos := s.pos + bs.length })).su with req := join c.su.req } })

/-- Bytes of a slice or of a transfer to another module are gathered: every 512 of them hold a tag until the packet or the
contribution that carries them is acknowledged (R176, R247, R282). -/
def Dev.gatherRequest (d : Dev) (n i : Nat) (s : SDesc) : Dev :=
  let img := s.img
  match d.nextSrc n s with
  | none => d
  | some q =>
    let len := min (min q.2.2.2 (512 - s.pos % 512)) (sdTotal img - s.pos)
    let q : Piece := (q.1, q.2.1, q.2.2.1, len)
    d.readPiece n s q (fun d =>
      let cells := d.srcCells q
      let bs := cells.map (·.1)
      let pois := cells.any (·.2)
      let s1 : SDesc := { s with data := s.data ++ bs, poisoned := s.poisoned || pois }
      let send (d : Dev) (s2 : SDesc) : Dev :=
        let clear (d : Dev) : Dev := d.modCore n (fun c => match Store.get none c.su.desc i with
          | some z => c.setDesc i (some { z with data := [], poisoned := false })
          | none => c)
        if sdKind img = 4 then
          if s2.pos % 8192 = 0 || s2.pos = sdTotal img then (clear d).sendWrite n i s2 else d
        else if s2.pos = sdTotal img then (clear d).sendSlice n i s2
        else d
      if s.pos % 512 = 0 then
        match (d.core n).su.freeTag with
        | none => d.suWaits n 7
        | some tag => send ((((d.payRead q).getD d).issue n i s1 tag len false false none [(.away, bs, pois)]).afterRead n s q)
            { s1 with pos := s.pos + len, inflight := s.inflight + 1 }
      else send ((((d.payRead q).getD d).extend n i s1 bs pois).afterRead n s q) { s1 with pos := s.pos + len })

/-- DESCRIPTOR_REQUEST: a started descriptor issues its next request (R170 to R176, R247, R249, R282). -/
def Dev.descRequest (d : Dev) (n i : Nat) : Dev :=
  match Store.get none (d.core n).su.desc i with
  | none => d
  | some s =>
    let img := s.img
    if !s.started || s.stopped || s.pos = sdTotal img || sdKind img = 5 || d.quiesced n then d
    else if lightPath n img then d.lightRequest n i s
    else if sdKind img = 2 && sdDuni img && !(sdDring img) then d.transposeRequest n i s
    else if sdKind img ≤ 2 then d.copyRequest n i s
    else if sdKind img = 3 && sdAmode img then d.addRequest n i s
    else d.gatherRequest n i s

/-- DESCRIPTOR_REQUEST (R176). -/
def execDescriptorRequest (core sd : Nat) (s : State) : Out := onDesc s core sd (fun d => d.descRequest core sd)

end Sys2Proof.Machine
end

