-- ==== Sys2Proof/Machine/Network.lean ====
section
/-! DEFINITION. The receiving half of the fabric (chapter 11): frames and forwarding, data packets and their placement, acknowledgements,
timers, discovery, failback and links. -/

namespace Sys2Proof.Machine
open Sys2Proof

def onPort (s : State) (e : Nat) (f : Dev → Dev) : Out := s.onUnit (decide (e < nPorts)) f
def onNet (s : State) (n : Nat) (f : Dev → Dev) : Out := s.onUnit (decide (n < 2)) f
def onChan (s : State) (p : Nat) (f : Dev → Dev) : Out := s.onUnit (decide (p < nParts)) f

/-- A packet is discarded: RXD of the network's first port (notes/assumptions/23). -/
def Dev.rxd (d : Dev) (net : Nat) : Dev := d.portCnt (4 * net) 8

/-! ## Frames (R275, R276, R295, R296) -/

/-- The address is one of the module's on this network, or a group it has joined. -/
def Dev.ours (d : Dev) (net dst : Nat) : Bool :=
  dst == linkLocal net || ((d.net net).addr != 0 && dst == (d.net net).addr) || dst == announceGroup net ||
  d.fab.groups.contains dst

def transitBytes : Nat := 1048576
def Port.queued (x : Port) : Nat := (x.transit.map (·.bytes)).sum

/-- A PFC frame to a port's neighbour (R278, R296). -/
def Dev.sendPfc (d : Dev) (e prio : Nat) (on : Bool) : Dev := (d.portCnt e 10).leave e (.pfc e prio on)

/-- Send a transit frame towards NHMAC, or queue it; a frame with a bad FCS goes on only when its forwarding has begun, with an inverted
FCS (R275, R295, R296). -/
def Dev.forward (d : Dev) (inPort e mac : Nat) (f : EthFrame) : Dev :=
  let x := d.port e
  let net := e / 4
  if x.clear f.prio then (d.portCnt e 11).leave e (.forward e mac (f.hop - 1) f.bytes false (!f.fcsOk))
  else if !f.fcsOk then d
  else if transitBytes < x.queued + f.bytes then d.modNet net (netCnt 22 1)
  else
    let ce := f.ect && decide ((d.net net).kmin * 16384 < x.queued)
    let t : Transit := { prio := f.prio, bytes := f.bytes, inPort := inPort, ce := ce, mac := mac, hop := f.hop - 1 }
    let d := d.modPort e (fun x => { x with transit := x.transit ++ [t] })
    if net = 0 && bit d.fab.netA.pfcm f.prio && decide (786432 ≤ (d.port e).queued) && !(x.xoff.contains (inPort, f.prio)) then
      (d.modPort e (fun x => { x with xoff := x.xoff ++ [(inPort, f.prio)] })).sendPfc inPort f.prio true
    else d

/-- An ICMPv6 message for the module: a solicitation of one of its addresses is answered with an advertisement and an echo request with
its reply, an advertisement is noted, anything else is ignored (R274). -/
def Dev.icmpFor (d : Dev) (e : Nat) (src bytes : Nat) (m : Icmp) : Dev :=
  let net := e / 4
  match m with
  | .solicit a => if d.ours net a then d.sendOn e 7 86 (.icmp e (d.ipHdr net 7 src) (.advert a)) else d
  | .advert a => d.modNet net (fun x => { x with neigh := if x.neigh.contains a then x.neigh else x.neigh ++ [a] })
  | .echo => d.sendOn e 7 bytes (.icmp e (d.ipHdr net 7 src) .echo)
  | .other => d

/-- FRAME_RECEIVE (R275, R295). -/
def Dev.frameReceive (d : Dev) (e : Nat) (f : EthFrame) : Dev :=
  let net := e / 4
  let d := (d.portCnt e 6).modPort e (fun x => { x with cnt := bump (bump x.cnt 4 f.fecc) 5 f.fecu })
  let drop := d.portCnt e 8
  let badTag := match f.vlan with
    | some v => v != (d.net net).vid
    | none => false
  let mine := d.ours net f.dst || (f.icmp.isSome && f.dst / 2 ^ 120 == 0xFF)
  if badTag then drop
  else if f.lldp then if f.fcsOk then d else drop
  else if !f.ipv6 || f.extHdr then drop
  else if f.icmp.isNone && (!f.udpSumOk || !(f.udpDst == (d.net net).udpp || f.udpDst == 319 || f.udpDst == 320)) then drop
  else if mine then
    if !f.fcsOk then drop
    else match f.icmp with
      | some m => d.icmpFor e f.src f.bytes m
      | none => d
  else
    match d.route net f.dst with
    | none => drop
    | some w =>
      match (if f.hop ≤ 1 then none else maskPort net (fwMask w) f.udpSrc) with
      | none => drop
      | some o => (if f.fcsOk then d else drop).forward e o (fwMac w) f

/-- FRAME_RECEIVE (R275). -/
def execFrameReceive (port : Nat) (f : EthFrame) (s : State) : Out := onPort s port (fun d => d.frameReceive port f)

/-- TRANSIT_FRAME_DEPARTURE: the frame that the port serves next leaves, after the module's own frames that come before it; at 512 KiB
the paused neighbours hear XON (R277, R296). -/
def Dev.transitLeaves (d : Dev) (e : Nat) : Dev :=
  let d := d.serveOwn ((d.port e).own.length) e
  let x := d.port e
  let y := x.pick (e / 4)
  match y.1 with
  | none => d
  | some q => match x.transit.find? (fun t => t.prio == q) with
    | none => d
    | some t =>
      let d := (d.modPort e (fun _ => { y.2.swap q false with transit := x.transit.erase t })).leave e
        (.forward e t.mac t.hop t.bytes t.ce false)
      let d := if (d.port e).queued ≤ 524288 then
          ((d.port e).xoff.foldl (fun d q => d.sendPfc q.1 q.2 false) d).modPort e (fun x => { x with xoff := [] })
        else d
      d.serveOwn ((d.port e).own.length) e

/-- TRANSIT_FRAME_DEPARTURE (R296). -/
def execTransitFrameDeparture (port : Nat) (s : State) : Out :=
  onPort s port (fun d => if (d.port port).up then d.transitLeaves port else d)

/-- PFC_FRAME_RECEIVE: an A port pauses the priorities that PFCM enables (R278). -/
def execPfcFrameReceive (port prios : Nat) (s : State) : Out :=
  onPort s port (fun d =>
    let on := (List.range 8).filter (fun q => bit prios q && bit d.fab.netA.pfcm q && decide (port < 4))
    if on.isEmpty then d
    else (d.portCnt port 9).modPort port (fun x => { x with paused := x.paused ++ on.filter (fun q => !(x.paused.contains q)) }))

/-- PFC_PAUSE_EXPIRY (R278). -/
def execPfcPauseExpiry (port prio : Nat) (s : State) : Out :=
  onPort s port (fun d =>
    let d := d.modPort port (fun x => { x with paused := x.paused.filter (· != prio) })
    d.serveOwn ((d.port port).own.length) port)

/-! ## Limited events (R303, R423) -/

/-- One occurrence of a code limited to one event a second: whether the second has passed is a free choice, the first
occurrence is reported; DETAIL word 15 counts what was folded (notes/assumptions/25). -/
def Dev.limited (d : Dev) (code p : Nat) (last : Option Nat) (set : Option Nat → Dev → Dev) : Dev :=
  let x := d.freshChoice 2
  match last with
  | none => set (some 0) (d.event code p 0 0x1FF (List.replicate 10 0 ++ [1]))
  | some n =>
    if x.1 = 0 then set (some 0) (x.2.event code p 0 0x1FF (List.replicate 10 0 ++ [n + 1])) else set (some (n + 1)) x.2

def Dev.authFail (d : Dev) (net p : Nat) : Dev :=
  (d.modNet net (netCnt 21 1)).limited 0x0807 p (d.net net).authLast (fun v d => d.modNet net (fun x => { x with authLast := v }))
def Dev.unknownChan (d : Dev) (net p : Nat) : Dev :=
  d.limited 0x080A p (d.net net).unkLast (fun v d => d.modNet net (fun x => { x with unkLast := v }))

/-! ## Delivery (R283, R286, R290 to R293) -/

/-- What placement makes of the packet at NEXT: it waits, or `n` packets are delivered. -/
inductive Placed where
  | waits (d : Dev)
  | done (n : Nat) (d : Dev)

/-- Signal a counter from the network for context c: at once when it is resident, else at its restore (R290, R340). -/
def Dev.netSignal (d : Dev) (p c core entry : Nat) : Dev :=
  let w := wordAt (d.imgSec p 4 c (core - d.partBase p)) (4 * entry)
  let tc := bits w 31 23
  let te := bits w 22 17
  if (d.part p).resident == some c then d.semAdd tc te 1 none
  else d.modCtx c (fun x => { x with deferred := x.deferred ++ [(tc, te, 1)] })

/-- DEST 0: a windowed ring (R290). From thermal stage 1 the placement waits for the super's tokens (R181). -/
def Dev.placeWindow (d : Dev) (p i : Nat) (x : RecvChan) (k : HeldPkt) : Placed :=
  let e := x.entry
  let c := ceCtx e
  let w := d.window p e k.hdr.step k.hdr.phase
  let n := ceSlots e
  if k.hdr.type != 1 then .done 1 (d.rxd k.net)
  else if w < x.oldw then .done 1 (d.contextFault 0x0F02 p c 0x1FF [])
  else if x.oldw + n ≤ w then .waits d
  else
    let slot := w % n
    let off := k.hdr.tsw0
    let cnt := Store.get 0 x.slotCnt slot + k.hdr.plen
    if ceSlotb e < off + k.hdr.plen || ceEbytes e < cnt then .done 1 (d.contextFault 0x0805 p c 0x1FF [])
    else
      let a := ceBase e + 512 + slot * ceSlotb e + off
      match d.meter a k.hdr.plen with
      | none => .waits d
      | some d =>
        let d := d.uniWrite p c a k.payload (bit k.hdr.tsw1 0)
        let d := d.unitWrite p (ceBase e + 8 + 4 * slot) (toLe 4 cnt) false
        let d := d.modRecv p i (fun y => { y with slotCnt := Store.set 0 y.slotCnt slot cnt })
        .done 1 (if cnt = ceEbytes e && ceCsen e then d.netSignal p c (ceCcore e) (ceCsem e) else d)

/-- Place bytes of a DEST 1 packet into ring slots, in order from the tail, as far as slots are drained (R291). -/
def Dev.ringFill (d : Dev) (p i core : Nat) (r : RingDecl) (bs : List Byte) (poison : Bool) : Nat → Dev
  | 0 => d
  | f + 1 =>
    match d.recvChan p i with
    | none => d
    | some x =>
      let rest := bs.drop x.done
      if rest.isEmpty then d
      else
        let st := (d.core core).ringSt r.ix
        let k := if x.ringOff = 0 then max st.prod st.tail else x.ringSlot
        if x.ringOff = 0 && !(decide (k < st.head + r.n) && !((d.core core).filled r k)) then d
        else
          let n := min rest.length (r.slotBytes - x.ringOff)
          let d := d.modCore core (fun c => (c.setRing r.ix { c.ringSt r.ix with prod := k + 1 }).land (d.rings core)
            (32 * r.slotRow k + x.ringOff) (rest.take n) poison)
          let off := (x.ringOff + n) % r.slotBytes
          Dev.ringFill (d.setRecv p i { x with ringSlot := k, ringOff := off, done := x.done + n }) p i core r bs poison f

/-- DEST 1: a scratchpad ring of the resident context (R291). -/
def Dev.placeRing (d : Dev) (p i : Nat) (x : RecvChan) (k : HeldPkt) : Placed :=
  let e := x.entry
  if k.hdr.type != 1 then .done 1 (d.rxd k.net)
  else if (d.part p).resident != some (ceCtx e) then .waits d
  else match d.ringOf (ceDcore e) (ceDrid e) with
    | none => .done 1 (d.rxd k.net)
    | some r =>
      let d := d.ringFill p i (ceDcore e) r k.payload (bit k.hdr.tsw1 0) 513
      match d.recvChan p i with
      | some y => if y.done = k.payload.length then .done 1 (d.setRecv p i { y with done := 0 }) else .waits d
      | none => .waits d

/-- The packet held with a sequence number. -/
def RecvChan.at' (x : RecvChan) (seq : Nat) : Option HeldPkt := x.held.find? (fun k => k.hdr.seq == seq % 2 ^ 32)

/-- A contribution of this channel is at a super (R292). -/
def Dev.atSuper (d : Dev) (p i : Nat) : Bool :=
  (List.range Config.nSupers).any (fun s => (d.sup s).arrivals.any (fun q => q.chan == some (chanKey p i)))

/-- DEST 2: a contribution is handed to its super; it counts as placed when the super has added or parked it. A PUSH waits
for PUSH_RECEIPT (R292). -/
def Dev.placeSlice (d : Dev) (p i : Nat) (x : RecvChan) (k : HeldPkt) : Placed :=
  let c := ceCtx x.entry
  let t := d.sliceTab c
  if k.hdr.type = 3 then .waits d
  else if k.hdr.type != 2 || k.hdr.plen != 8192 then .done 1 (d.rxd k.net)
  else if d.atSuper p i then .waits d
  else
    let l := k.hdr.tsw0
    let known := decide (l < slN t) && slOwn t l
    let mk (data : List Byte) (poison : Bool) (cells : Nat) : Contrib :=
      { part := p, lidx := l, step := k.hdr.step, phase := k.hdr.phase, epoch := k.hdr.epoch, sender := k.hdr.srank,
        satc := bits k.hdr.tsw1 31 16, poison := poison, data := data, ctx := c, chan := some (chanKey p i), cells := cells }
    if !known then
      .done 1 (d.contextFault 0x0706 p c 0x1FF [l, k.hdr.step, k.hdr.phase * 65536 + k.hdr.srank, 0xFFFFFFFF])
    else if !(slG32 t l) then
      .waits (d.modSup (slSup t l) (fun u => { u with arrivals := u.arrivals ++ [mk k.payload (bit k.hdr.tsw2 0) 16] }))
    else if bit k.hdr.tsw1 0 then .done 1 (d.rxd k.net)
    else match x.at' (x.next + 1) with
      | none => .waits d
      | some k1 =>
        if k1.hdr.type = 2 && k1.hdr.plen = 8192 && bit k1.hdr.tsw1 0 && k1.hdr.tsw0 = l then
          .waits (d.modSup (slSup t l) (fun u => { u with
            arrivals := u.arrivals ++ [mk (k.payload ++ k1.payload) (bit k.hdr.tsw2 0 || bit k1.hdr.tsw2 0) 32] }))
        else .done 1 (d.rxd k.net)

/-- DEST 4: a record of the input ring (R293). -/
def Dev.placeFeed (d : Dev) (p i : Nat) (x : RecvChan) (k : HeldPkt) : Placed :=
  let e := x.entry
  let c := ceCtx e
  let n := max 1 (ceEbytes e)
  let first := k.hdr.tsw2 == 0
  if k.hdr.type != 4 then .done 1 (d.rxd k.net)
  else if first && decide (x.released + n ≤ x.recs) then .waits d
  else
    let r := if first then x.recs else x.recs - 1
    let base := ceBase e + r % n * ceSlotb e
    if ceSlotb e < 64 + k.hdr.tsw2 + k.hdr.plen then .done 1 (d.contextFault 0x0805 p c 0x1FF [])
    else match d.meter (base + 64) k.hdr.plen with
    | none => .waits d
    | some d =>
      let d := if first then
          (d.uniWrite p c base (toLe 4 k.hdr.tsw1 ++ toLe 4 k.hdr.tsw0 ++ toLe 4 (k.hdr.tsw3 % 2 ^ 24) ++ toLe 4 0) false).modRecv p i
            (fun y => { y with recs := y.recs + 1, recRid := k.hdr.tsw0 * 2 ^ 32 + k.hdr.tsw1, recTok := k.hdr.tsw3 % 2 ^ 24,
                               recStep := k.hdr.step })
        else d
      let d := d.uniWrite p c (base + 64 + k.hdr.tsw2) k.payload false
      if !k.hdr.fin then .done 1 d
      else
        let y := (d.recvChan p i).getD x
        let d := d.uniWrite p c (base + 12) (toLe 4 (k.hdr.tsw2 + k.hdr.plen)) false
        let d := d.modCtx c (fun z => { z with
          feed := z.feed ++ [⟨z.cursor, y.recRid, y.recTok, base, y.recStep⟩], cursor := z.cursor + 1 })
        .done 1 (if ceCsen e then d.netSignal p c (ceCcore e) (ceCsem e) else d)

/-- A recovery channel: a log record joins the mirror, a contribution is folded or waits until this module's base of that step has begun,
an abandonment or a digest list takes effect (R351, R359 to R362). -/
def Dev.placeRecovery (d : Dev) (p i : Nat) (x : RecvChan) (k : HeldPkt) : Placed :=
  let h := k.hdr
  let y := d.part p
  if h.type != 1 then .done 1 (d.rxd k.net)
  else if x.chan = 4064 then .done 1 (d.mirrorRecord p x.peer ((List.range 8).map (fun w => wordAt k.payload (4 * w))))
  else if x.chan = 4066 then .done 1 (if y.predecessors.contains x.peer then d.storeDigests p x.peer h.tsw0 k.payload else d)
  else if h.step != y.bbuild && verBefore y.capped h.step && !(h.tsw0 == 0xFFFFFFFF) then .waits d
  else
    .done 1 ((d.memberPacket p x.peer h.step h.tsw0 k.payload x.done).modRecv p i (fun z =>
      { z with done := if h.fin then 0 else z.done + k.payload.length }))

/-- `n` packets at NEXT are delivered: NEXT advances, their cells return, and after 8 deliveries an ACK leaves (R283, R284). -/
def Dev.delivered (d : Dev) (p i : Nat) : Nat → Dev
  | 0 => d
  | n + 1 =>
    match d.recvChan p i with
    | none => d
    | some x =>
      match x.at' x.next with
      | none => d
      | some k =>
        let d := d.setRecv p i { x with
          next := x.next + 1, held := x.held.erase k, unacked := x.unacked + 1, ceDue := x.ceDue || k.ce, nakSent := none }
        let d := (d.acctChan x.chan x.entry k.net (d.frameBytes k.net k.hdr.plen k.hdr.enc) false).giveBack p i (cellsOf k.hdr.plen)
        let d := if 8 ≤ x.unacked + 1 then d.sendAck p i k.net else d
        Dev.delivered d p i n

/-- Deliver what is in order and can be placed (R283). -/
def Dev.deliver (p i : Nat) : Nat → Dev → Dev
  | 0, d => d
  | f + 1, d =>
    match d.recvChan p i with
    | none => d
    | some x =>
      match x.at' x.next with
      | none => d
      | some k =>
        let r := if 4064 ≤ x.chan then d.placeRecovery p i x k else match ceDest x.entry with
          | 0 => d.placeWindow p i x k
          | 1 => d.placeRing p i x k
          | 2 => d.placeSlice p i x k
          | _ => d.placeFeed p i x k
        match r with
        | .waits d => d
        | .done n d => Dev.deliver p i f (d.delivered p i n)

def Dev.deliverAll (d : Dev) (p i : Nat) : Dev :=
  match d.recvChan p i with
  | some x => Dev.deliver p i (x.held.length + 1) d
  | none => d

/-! ## Receiving data packets (R279, R283, R285, R294, R298, R396) -/

/-- The module's partition that a packet names. -/
def Dev.swarmPart (d : Dev) (h : DataHdr) : Option Nat :=
  (List.range nParts).find? (fun p => d.partExists p && (d.part p).swid == h.swid && (d.part p).rank == h.drank)

def knownType (t : Nat) : Bool := [1, 2, 3, 4, 0x10, 0x11, 0x12, 0x20].contains t

/-- Header checks that discard a packet (R279, R393). -/
def badData (h : DataHdr) (udpLen : Nat) (payload : List Byte) : Bool :=
  h.ver != 1 || h.cls != 2 || udpLen != h.plen + (if h.enc then 80 else 64) || !(knownType h.type) || h.rsv ||
  decide (8192 < h.plen) || payload.length != h.plen + (if h.enc then 16 else 0) || (!h.enc && h.keyid != 0)

/-- A recovery channel that a rank of the group may send on to a started partition (Table 14-6). -/
def Partition.hears (x : Partition) (chan rank : Nat) : Bool :=
  x.started && ((chan == 4064 && x.predecessors.contains rank) || ((chan == 4065 || chan == 4066) && x.others.contains rank))

/-- A recovery channel opens with its first packet, SEQ from 0 and no reserved cells (R361). -/
def Dev.openRecovery (d : Dev) (p : Nat) (h : DataHdr) : Dev :=
  if 4064 ≤ h.chan && (d.part p).hears h.chan h.srank && (d.recvChan p (recIx h.chan h.srank)).isNone then
    d.setRecv p (recIx h.chan h.srank) { peer := h.srank, chan := h.chan, entry := recEntry h.srank h.chan 1, arr := 1 }
  else d

/-- Index of the receive channel that a packet names. -/
def Dev.findRecv (d : Dev) (p : Nat) (h : DataHdr) : Option Nat :=
  if 4064 ≤ h.chan then (if (d.recvChan p (recIx h.chan h.srank)).isSome then some (recIx h.chan h.srank) else none)
  else (d.chanEntries p 1).findSome? (fun e =>
    if cePeer e.2 = h.srank && ceChan e.2 = h.chan && (d.recvChan p e.1).isSome then some e.1 else none)
def Dev.findSend (d : Dev) (p : Nat) (h : DataHdr) : Option Nat :=
  if 4064 ≤ h.chan then (if (d.sendChan p (recIx h.chan h.srank)).isSome then some (recIx h.chan h.srank) else none)
  else (d.chanEntries p 0).findSome? (fun e =>
    if cePeer e.2 = h.srank && ceChan e.2 = h.chan && (d.sendChan p e.1).isSome then some e.1 else none)

/-- Authenticate and decrypt (R294, R394, R396): the plaintext, or nothing. -/
def Dev.openPkt (d : Dev) (p : Nat) (e : List Nat) (h : DataHdr) (payload : List Byte) : Option (List Byte) :=
  let feed := ceCls e == 3
  let kind := if feed then 2 else 4
  let ix := if feed then ceCtx e else p
  let need := bit (d.part p).encreq (if feed then 0 else if ceCls e = 4 then 2 else 1)
  if !h.enc then if need then none else some payload
  else if h.keyid != keyId kind ix (bits h.keyid 11 11) || h.iv != hdrNonce h then none
  else match d.key kind ix (bits h.keyid 11 11) with
    | some k => Config.gcmOpen k.bytes h.iv (hdrAad h) payload
    | none => none

/-- The packet is HALF 1 of the contribution or push whose HALF 0 waits at NEXT: the two are delivered as one (R292;
notes/assumptions/155). -/
def RecvChan.secondHalf (x : RecvChan) (h : DataHdr) : Bool :=
  h.seq == (x.next + 1) % 2 ^ 32 && ((h.type == 2 && bit h.tsw1 0) || (h.type == 3 && bit h.tsw2 0)) &&
  (x.at' x.next).any (fun k => k.hdr.type == h.type)

/-- A data packet in its channel's sequence space (R283, R287). -/
def Dev.sequence (d : Dev) (p i net : Nat) (h : DataHdr) (ce : Bool) (payload : List Byte) : Dev :=
  match d.recvChan p i with
  | none => d
  | some x =>
    let d := d.setRecv p i { x with arr := net }
    let next := x.next % 2 ^ 32
    let d := if h.creq then
        (match d.grantShared p i 16 with
         | some d => d
         | none => d.modRecv p i (fun y => { y with want := max y.want 16 }))
      else d
    if serialEarlier 32 h.seq next then (d.modNet net (netCnt 17 1)).sendAck p i net
    else
      let d := if (x.at' h.seq).isSome then d
        else d.modRecv p i (fun y => { y with held := y.held ++ [⟨h, payload, ce, net⟩] })
      if h.seq = next || x.secondHalf h then d.deliverAll p i
      else
        let d := d.modNet net (netCnt 18 1)
        -- at once, then at most once per RTO / 4 for one NEXT: whether that time has passed is a free choice
        let y := d.freshChoice 2
        if x.nakSent != some x.next then
          (d.modRecv p i (fun z => { z with nakSent := some x.next })).sendNak p i net false
        else if y.1 = 0 then y.2.sendNak p i net false
        else y.2

/-! ## Acknowledgements (R284, R285, R288, R289) -/

/-- ECE halves the rate, at most once in 16 µs (R289). -/
def SendChan.slow (x : SendChan) (rmin : Nat) : SendChan :=
  if x.eceSeen then x else { x with rate := max (x.rate / 2) (rmin * 2 ^ 32), eceSeen := true }

/-- A management packet with ENC set authenticates under the key that KEYID names (R294; Table 16-3 gives these packets no key of their
own). -/
def Dev.mgmtOk (d : Dev) (h : DataHdr) (payload : List Byte) : Bool :=
  !h.enc || (h.iv == hdrNonce h && match d.key (h.keyid / 4096) (h.keyid % 2048) (bits h.keyid 11 11) with
    | some k => (Config.gcmOpen k.bytes h.iv (hdrAad h) payload).isSome
    | none => false)

/-- Which partition and send channel an ACK or NAK answers; nothing when it is discarded. -/
def Dev.answers (d : Dev) (net : Nat) (h : DataHdr) (payload : List Byte) : Dev × Option (Nat × Nat) :=
  let d := d.modNet net (netCnt 13 1)
  if h.ver != 1 || h.cls != 2 || h.rsv then (d.rxd net, none)
  else match d.swarmPart h with
    | none => (d.rxd net, none)
    | some p =>
      if !((d.peer p h.srank).valid) then (d.rxd net, none)
      else if !(d.mgmtOk h payload) then (d.authFail net p, none)
      else match d.findSend p h with
        | none => (d.unknownChan net p, none)
        | some i => (d, some (p, i))

/-- The copies that an acknowledgement number frees: from the oldest on, those below it. A number exactly 2^31 ahead of the oldest frees
nothing (R284, R444). -/
def SendChan.below (x : SendChan) (n : Nat) : List SentPkt := x.sent.takeWhile (fun k => serialLater 32 n (k.seq % 2 ^ 32))

/-- ACK_RECEIVE: copies below ACKSEQ go, with their tags; the grant is added; channels that wait for the retry buffer go on (R284). -/
def Dev.ackReceive (d : Dev) (net : Nat) (h : DataHdr) (payload : List Byte) : Dev :=
  let a := d.answers net h payload
  match a.2 with
  | none => a.1
  | some (p, i) =>
    let d := a.1
    if serialEarlier 16 h.epoch (d.part p).epoch then d.modNet net (netCnt 25 1)
    else if h.epoch != (d.part p).epoch then d
    else match d.sendChan p i with
      | none => d
      | some x =>
        let gone := x.below h.ackseq
        let d := gone.foldl (fun d k => d.acked p i k) d
        let d := if h.ece then d.modNet net (netCnt 20 1) else d
        let rmin := (d.net (ceNet x.entry)).rmin
        let d := d.modSend p i (fun x =>
          let x := if h.ece then x.slow rmin else x
          { x with sent := x.sent.drop gone.length, credit := x.credit + h.tsw0, epwSeen := false,
                   askedCredit := x.askedCredit && h.tsw0 == 0 })
        (d.pump p i).pumpAll (ceNet x.entry)

/-- ACK_RECEIVE (R284). -/
def execAckReceive (net : Nat) (h : DataHdr) (s : State) : Out :=
  onNet s net (fun d => if h.type = 0x10 then d.ackReceive net h [] else d)

/-- A packet goes out again and counts towards RMAX; after RMAX times the path has failed (R284). -/
def Dev.retransmit (d : Dev) (p i : Nat) (x : SendChan) (k : SentPkt) (timer : Bool) : Dev :=
  if (d.net (d.chanNet p x)).rmax ≤ k.tries then d.pathFailed p i
  else
    let k' : SentPkt := { k with tries := k.tries + 1, mul := if timer then min 8 (2 * k.mul) else k.mul }
    let x' : SendChan := { x with sent := x.sent.map (fun q => if q.seq = k.seq then k' else q) }
    (d.setSend p i x').transmit p x' k' true

/-- NAK_RECEIVE: the missing packet goes out again; EPW says that the receiver's epoch is older (R284, R285). -/
def Dev.nakReceive (d : Dev) (net : Nat) (h : DataHdr) (payload : List Byte) : Dev :=
  let a := d.answers net h payload
  match a.2 with
  | none => a.1
  | some (p, i) =>
    let d := a.1
    if h.epw then d.modSend p i (fun x => { x with epwSeen := true })
    else if serialEarlier 16 h.epoch (d.part p).epoch then d.modNet net (netCnt 25 1)
    else if h.epoch != (d.part p).epoch then d
    else match d.sendChan p i with
      | none => d
      | some x => match x.sent.find? (fun k => k.seq % 2 ^ 32 == h.tsw0) with
        | some k => if x.failed then d else d.retransmit p i x k false
        | none => d

/-- NAK_RECEIVE (R284). -/
def execNakReceive (net : Nat) (h : DataHdr) (s : State) : Out :=
  onNet s net (fun d => if h.type = 0x11 then d.nakReceive net h [] else d)

/-- CREDIT_RECEIVE: shared cells in chunks of 16 at once, or recorded until the pool holds them (R288). -/
def Dev.creditReceive (d : Dev) (net : Nat) (h : DataHdr) (payload : List Byte) : Dev :=
  let d := d.modNet net (netCnt 13 1)
  if h.ver != 1 || h.cls != 2 || h.rsv then d.rxd net
  else match d.swarmPart h with
    | none => d.rxd net
    | some p =>
      if !((d.peer p h.srank).valid) then d.rxd net
      else if !(d.mgmtOk h payload) then d.authFail net p
      else
        let d := d.openRecovery p h
        match d.findRecv p h with
        | none => d.unknownChan net p
        | some i =>
          if serialEarlier 16 h.epoch (d.part p).epoch then d.modNet net (netCnt 25 1)
          else if h.epoch != (d.part p).epoch then d.sendNak p i net true
          else
            let d := d.modRecv p i (fun x => { x with arr := net })
            let n := ceilDiv (min 256 (max 1 h.tsw0)) 16 * 16
            match d.grantShared p i n with
            | some d => d.sendAck p i net
            | none => (d.modRecv p i (fun x => { x with want := n })).serveWants ((d.recvChan p i).elim 0 (fun x => ceNet x.entry))

/-- CREDIT_RECEIVE (R288). -/
def execCreditReceive (net : Nat) (h : DataHdr) (s : State) : Out :=
  onNet s net (fun d => if h.type = 0x12 then d.creditReceive net h [] else d)

/-- A data packet arrives (R279, R283, R285, R294, R298). Channel 4,070 has a command of its own (R381). -/
def Dev.dataReceive (d : Dev) (net : Nat) (h : DataHdr) (ce : Bool) (udpLen : Nat) (payload : List Byte) : Dev :=
  if badData h udpLen payload then (d.modNet net (netCnt 13 1)).rxd net
  else match h.type with
  | 0x10 => d.ackReceive net h payload
  | 0x11 => d.nakReceive net h payload
  | 0x12 => d.creditReceive net h payload
  | 0x20 => d.modNet net (netCnt 13 1)
  | _ =>
    let d := d.modNet net (netCnt 13 1)
    match d.swarmPart h with
    | none => d.rxd net
    | some p =>
      if !((d.peer p h.srank).valid) then d.rxd net
      else if h.chan = 4070 then d
      else
        let d := d.openRecovery p h
        match d.findRecv p h with
        | none => d.unknownChan net p
        | some i => match d.recvChan p i with
          | none => d
          | some x =>
            match d.openPkt p x.entry h payload with
            | none => d.authFail net p
            | some plain =>
              if serialEarlier 16 h.epoch (d.part p).epoch then d.modNet net (netCnt 25 1)
              else if h.epoch != (d.part p).epoch then d.sendNak p i net true
              else d.sequence p i net h ce plain

/-- DATA_PACKET_RECEIVE (R283). -/
def execDataPacketReceive (net : Nat) (h : DataHdr) (ce : Bool) (udpLen : Nat) (payload : List Byte) (s : State) : Out :=
  onNet s net (fun d => d.dataReceive net h ce udpLen payload)

/-- PLACEMENT_RETRY: the packet that waits at NEXT is placed if it can be now (R287, R290 to R293). -/
def execPlacementRetry (part chan : Nat) (s : State) : Out := onChan s part (fun d => d.deliverAll part chan)

/-- RELW_WRITE: the program has written RELW; its value must be OLDW (R290). -/
def Dev.relwWrite (d : Dev) (p i : Nat) : Dev :=
  match d.recvChan p i with
  | none => d
  | some x =>
    if ceDest x.entry != 0 then d
    else
      let b := ceBase x.entry
      if leNat (d.memRead b 4) != x.oldw % 2 ^ 32 then d.contextFault 0x0806 p (ceCtx x.entry) 0x1FF []
      else
        let slot := x.oldw % ceSlots x.entry
        let d := (d.unitWrite p (b + 8 + 4 * slot) (toLe 4 0) false).unitWrite p (b + 4) (toLe 4 (x.oldw + 1)) false
        (d.setRecv p i { x with slotCnt := Store.set 0 x.slotCnt slot 0, oldw := x.oldw + 1 }).deliverAll p i

/-- RELW_WRITE (R290). -/
def execRelwWrite (part chan : Nat) (s : State) : Out := onChan s part (fun d => d.relwWrite part chan)

/-! ## Contributions and pushes that came over the network (R250, R265, R267, R292) -/

/-- CONTRIBUTION_ARRIVAL: the super checks the oldest contribution; a placed one frees its receive cells (R250, R292). -/
def execContributionArrival (super : Nat) (s : State) : Out :=
  s.onUnit (decide (super < Config.nSupers)) (fun d =>
    let y := d.contribArrival super
    match y.2 with
    | none => y.1
    | some q =>
      match q.chan with
      | none => y.1
      | some k => (y.1.delivered (k / 2 ^ 24) (k % 2 ^ 24) (q.cells / 16)).deliverAll (k / 2 ^ 24) (k % 2 ^ 24))

/-- PUSH_RECEIPT: the push at NEXT of receive channel k is written once R265 allows, or dropped as stale (R265, R267, R292). -/
def Dev.pushReceipt (d : Dev) (p i : Nat) : Dev :=
  match d.recvChan p i with
  | none => d
  | some x =>
    match x.at' x.next with
    | none => d
    | some k =>
      if ceDest x.entry != 2 || k.hdr.type != 3 then d
      else
        let c := ceCtx x.entry
        let t := d.sliceTab c
        let v := k.hdr.tsw1
        let fin (n : Nat) (d : Dev) : Dev := (d.delivered p i n).deliverAll p i
        match slFind t k.hdr.tsw0 with
        | none => fin 1 (d.contextFault 0x0706 p c 0x1FF
            [0xFFFFFFFF, k.hdr.step, k.hdr.phase * 65536 + k.hdr.srank, k.hdr.tsw0])
        | some l =>
          let adj := signed 8 (bits k.hdr.tsw2 31 24)
          if bit k.hdr.tsw2 1 then fin 1 (if v = d.slVn t l then d.setAdj t l (v % 2) adj else d)
          else match x.at' (x.next + 1) with
            | none => d
            | some k1 =>
              if !(k1.hdr.type = 3 && bit k1.hdr.tsw2 0 && !(bit k.hdr.tsw2 0) && k1.hdr.tsw0 = k.hdr.tsw0 &&
                  k.hdr.plen = 4224 && k1.hdr.plen = 4224) then fin 1 (d.rxd k.net)
              else if !(verBefore (d.slVn t l) v) then fin 2 d
              else if !(d.mayWrite p c l v) then d.uwait (slSup t l)
              else match d.meter (slRow t l) 8448 with
              | none => d.uwait (slSup t l)
              | some d =>
                let half := if v % 2 = 1 then bkHalf (d.blockTab c) (slBlk t l) else 0
                let d := d.unitWrite p (slRow t l + half) k.payload false
                let d := ((colPieces (slCol t l + half) (slQidx t l)).foldl (fun (acc : Dev × List Byte) q =>
                  (acc.1.unitWrite p q.1 (acc.2.take q.2) false, acc.2.drop q.2)) (d, k1.payload)).1
                let a0 := if v % 2 = 0 then adj else d.slAdj t l 0
                let a1 := if v % 2 = 1 then adj else d.slAdj t l 1
                fin 2 (d.setStatus t l v (decide ((d.part p).s0 ≤ v) && (d.slVn t l + 1) % 2 ^ 32 == v) a0 a1 v)

/-- PUSH_RECEIPT (R267). -/
def execPushReceipt (part k : Nat) (s : State) : Out := onChan s part (fun d => d.pushReceipt part k)

/-! ## Timers (R284, R288, R289) -/

/-- ACK_TIMER: 2 µs after the first unacknowledged delivery. -/
def execAckTimer (part chan : Nat) (s : State) : Out :=
  onChan s part (fun d => match d.recvChan part chan with
    | some x => if x.unacked = 0 then d else d.sendAck part chan x.arr
    | none => d)

/-- RTO_EXPIRY: the timer of the packet with that SEQ has run out. It goes out again and its timer doubles, or the path has failed; after
an EPW answer it goes out without counting, once for each answer (R284, R285). -/
def Dev.rtoExpiry (d : Dev) (p i seq : Nat) : Dev :=
  match d.sendChan p i with
  | none => d
  | some x =>
    match x.sent.find? (fun k => k.seq % 2 ^ 32 == seq % 2 ^ 32) with
    | none => d
    | some k =>
      if x.failed then d
      else if x.epwSeen then
        let x' : SendChan := { x with epwSeen := false }
        (d.setSend p i x').transmit p x' k true
      else d.retransmit p i x k true

def execRtoExpiry (part : Nat) (pkt : KeptPkt) (s : State) : Out := onChan s part (fun d => d.rtoExpiry part pkt.chan pkt.seq)

/-- CREDIT_RETRY: an unanswered CREDIT is sent again (R288). -/
def execCreditRetry (part chan : Nat) (s : State) : Out :=
  onChan s part (fun d => match d.sendChan part chan with
    | some x => if x.askedCredit then d.askCredit part chan else d
    | none => d)

/-- RATE_INCREASE_TICK: 16 µs have passed (R289). -/
def execRateIncreaseTick (part chan : Nat) (s : State) : Out :=
  onChan s part (fun d => match d.sendChan part chan with
    | some x =>
      let inc := (d.net (ceNet x.entry)).aiinc
      d.setSend part chan { x with eceSeen := false,
                                   rate := if x.eceSeen then x.rate else min (400 * 2 ^ 32) (x.rate + inc * 2 ^ 32) }
    | none => d)

/-! ## Discovery (R297, R298) -/

/-- ANNOUNCE_RECEIVE: entries whose serial or address matches are up (R298). -/
def Dev.announce (d : Dev) (net src : Nat) (payload : List Byte) : Dev :=
  let ser := leAt payload 0 8
  let d := d.modNet net (netCnt 13 1)
  d.modFab (fun f => { f with peers := f.peers.map (fun x =>
    let q := x.2
    if q.valid && ((q.serial != 0 && q.serial == ser) || (src != 0 && (if net = 0 then q.addrA else q.addrB) == src)) then
      (x.1, { q with state := 1, miss := 0, serial := ser, heard := true, heardA := q.heardA || net == 0 })
    else x) })

def execAnnounceReceive (net src : Nat) (payload : List Byte) (s : State) : Out :=
  onNet s net (fun d => if payload.length = 64 then d.announce net src payload else d.rxd net)

/-- Big end of a 128-bit address first, as four little-endian words. -/
def addrWords (a : Nat) : List Byte := toLe 4 (a / 2 ^ 96) ++ toLe 4 (a / 2 ^ 64) ++ toLe 4 (a / 2 ^ 32) ++ toLe 4 a

/-- Version of the running Burfa: the manifest of its flash slot, or what manufacture put there (Tables 12-9 and 15-5). -/
def fwVersion (nv : NonVol) (d : Dev) : Nat :=
  let m := Store.get [] nv.slotManifest d.brd.slot
  if m.isEmpty then 2 ^ 24 + Config.fwMinor.toNat * 2 ^ 16 + Config.fwBuild.toNat else wordAt m 4

/-- Payload of the module's ANNOUNCE (Table 11-10). -/
def Dev.announcePayload (nv : NonVol) (d : Dev) : List Byte :=
  let up := ((List.range nPorts).map (fun e => b2n (d.port e).up * 2 ^ e)).sum
  let w2 := modCode d.brd.state * 2 ^ 24 + fwVersion nv d / 2 ^ 16 * 2 ^ 8 + up
  let memb := ((List.range nParts).map (fun p =>
    toLe 4 (if (d.part p).image.isSome then (d.part p).swid * 65536 + (d.part p).rank else 0))).flatten
  toLe 8 Config.serial.toNat ++ toLe 4 w2 ++ addrWords d.fab.netA.addr ++ addrWords d.fab.netB.addr ++ memb ++ toLe 4 0

/-- LLDP with the serial number, the port and ADDR, and ANNOUNCE to the network's group (R297). -/
def Dev.sayHello (nv : NonVol) (d : Dev) (e : Nat) : Dev :=
  (d.sendOn e 7 128 (.lldp e Config.serial.toNat (d.net (e / 4)).addr)).sendOn e 7 130
    (.announce e (d.ipHdr (e / 4) 7 (announceGroup (e / 4))) (d.announcePayload nv))

/-- ff02::16, where MLDv2 reports go. -/
def mldReports : Nat := 0xFF02 * 2 ^ 112 + 0x16

/-- The MLDv2 report by which a network joins a group, from one of its ports that are up (R276, R380). -/
def Dev.joinGroup (d : Dev) (net group : Nat) : Dev :=
  let x := d.anyPort net
  match x.1 with
  | some e => x.2.sendOn e 7 90 (.mld e (d.ipHdr net 7 mldReports) group)
  | none => d

/-- ANNOUNCE_TIMER: an up port sends LLDP and ANNOUNCE (R297). -/
def execAnnounceTimer (port : Nat) (s : State) : Out :=
  onPort s port (fun d => if (d.port port).up && d.sends then d.sayHello s.nv port else d)

/-- PEER_MISS_TICK: a second without an announce (R298). -/
def execPeerMissTick (entry : Nat) (s : State) : Out :=
  s.onUnit (decide (entry < 65536)) (fun d =>
    let q := Store.get {} d.fab.peers entry
    if !q.valid then d
    else if q.heard then d.modPeer entry (fun q => { q with heard := false })
    else
      let d := d.modPeer entry (fun q => { q with miss := min 255 (q.miss + 1), state := if q.miss + 1 = 3 then 3 else q.state })
      if q.miss + 1 = 3 then d.event 0x0803 (if d.brd.pcfgMode then entry / 16384 else 0) 0 0x1FF [] else d)

/-! ## Failback and links (R273, R299, R300) -/

/-- Some port of the path to an address on network A is up. -/
def Dev.pathUp (d : Dev) (dst : Nat) : Bool :=
  match d.route 0 dst with
  | some e => (List.range 4).any (fun k => bit (fwMask e) k && (d.port k).up)
  | none => (List.range 4).any (fun k => (d.port k).up)

/-- FAILBACK: the peer's channels return to network A (R300). -/
def Dev.failback (d : Dev) (p peer : Nat) : Dev :=
  match d.peerKey p peer with
  | none => d
  | some k =>
    let q := d.peer p peer
    let idle := d.fab.send.all (fun y => match y.2 with
      | some x => !(y.1 / 2 ^ 24 == p && x.peer == peer && ceNet x.entry == 0 && ceFovok x.entry) || x.sent.isEmpty
      | none => true)
    if q.onb && q.heardA && idle && d.pathUp q.addrA then
      (d.modPeer k (fun x => { x with onb := false })).event 0x0809 p 0 0x1FF []
    else d

def execFailback (part peer : Nat) (s : State) : Out := onChan s part (fun d => d.failback part peer)

/-- An enabled port with a supported medium gains link, and frames that wait for it leave (R273). -/
def Dev.portUp (d : Dev) (k : Nat) : Dev :=
  let x := d.port k
  if x.up || !x.en || x.dead || x.media = 0 then d
  else
    let d := (d.modPort k (fun x => { x with up := true, lock := true, andn := x.media == 1 })).event 0x0802 0 0 0x1FF []
    d.serveOwn ((d.port k).own.length) k

/-- LINK_UP (R273). -/
def execLinkUp (port : Nat) (s : State) : Out := onPort s port (fun d => d.portUp port)

/-- A port loses link; peers all of whose network A ports are down move to B (R299). -/
def Dev.linkLost (d : Dev) (e : Nat) : Dev :=
  if !((d.port e).up) then d
  else
    let d := (d.modPort e (fun x => { x with up := false, lock := false, andn := false })).event 0x0801 0 0 0x1FF []
    if 4 ≤ e then d else d.judgePaths

def execLinkDown (port : Nat) (s : State) : Out := onPort s port (fun d => d.linkLost port)

/-- PTP_MESSAGE: an event message of the domain on a port of network B sets or loses the wall clock, which nothing is ordered by
(R274, R416). -/
def execPtpMessage (src : PtpSource) (timeNs : Nat) (sync : Bool) (s : State) : Out :=
  onPort s src.port (fun d =>
    if d.brd.ptpEn && src.domain = d.brd.ptpDom && decide (4 ≤ src.port) then d.modBrd (fun b => { b with ptpSync := sync, wall := timeNs % 2 ^ 64 })
    else d)

end Sys2Proof.Machine
end

