-- ==== Sys2Proof/Machine/Power.lean ====
section
/-! DEFINITION. Power and heat (chapter 17): frame states and wakes, telemetry counts, thermal staging, the trip, super and deep
power-down, and the programming of black-box records. -/

namespace Sys2Proof.Machine
open Sys2Proof

/-! ## Frames (R408, R412, R413) -/

/-- Frames of a partition. -/
def Dev.partFrames (d : Dev) (p : Nat) : List Nat := if d.brd.pcfgMode then List.range' (5 * p) 5 else List.range nFrames

/-- The partition that a frame belongs to, if it exists. -/
def Dev.framePart (d : Dev) (f : Nat) : Option Nat :=
  let p := if d.brd.pcfgMode then f / 5 else 0
  if d.partExists p then some p else none

/-- A frame returns to Run early (R412). -/
def Dev.wakeFrame (d : Dev) (f : Nat) : Dev :=
  if (d.frame f).pstate = 1 || (d.frame f).pstate = 2 then d.modFrame f (fun x => { x with pstate := 0 }) else d

def Dev.wakeFrames (d : Dev) (p : Nat) : Dev := (d.partFrames p).foldl Dev.wakeFrame d

/-- Frames of a partition leave or enter Off, as it gains or loses an image or a load session (R413). -/
def Dev.powerFrames (d : Dev) (p : Nat) (on : Bool) : Dev :=
  (d.partFrames p).foldl (fun d f => d.modFrame f (fun y => { y with pstate := if on then 0 else 3 })) d

/-- FRAME_WAKE: traffic meets a frame in retention; a clock-gated frame takes it without waking (R412). -/
def execFrameWake (frame : Nat) (s : State) : Out :=
  s.onUnit (decide (frame < nFrames)) (fun d => if (d.frame frame).pstate = 2 then (d.wakeFrame frame).modBrd (fun b => { b with uwake := b.uwake + 1 }) else d)

/-- HOLD_CLOCK_GATE: 4,096 cycles without a release of a held or stopped partition (R413). -/
def execHoldClockGate (part : Nat) (s : State) : Out :=
  s.onUnit (decide (part < nParts)) (fun d =>
    let x := d.part part
    if x.image.isSome && (x.hold || x.stopped || decide (2 ≤ d.brd.dieStage)) then
      (d.partFrames part).foldl (fun d f =>
        if (d.frame f).pstate = 0 then d.modFrame f (fun y => { y with pstate := 1 }) else d) d
    else d)

/-! ## Power-down (R414) -/

/-- The super has nothing to do. -/
def Super.quiet (u : Super) : Bool := u.arrivals.isEmpty && u.adds.isEmpty

/-- A partition that holds a started image uses a super. -/
def Dev.superUsed (d : Dev) (x : Nat) : Bool :=
  (List.range nParts).any (fun p => (d.part p).image.isSome && (d.part p).started &&
    (!d.brd.pcfgMode || p == x)) ||
  d.tiers.runs.any (fun r => r.dev == x || (d.tm r.page).dev == x) ||
  (List.range nParts).any (fun p => (d.part p).bst != 0) || d.jobs.any (fun j => !j.done && (j.opcode == 0x70 || j.opcode == 0x62))

/-- SUPER_POWER_DOWN (R414). -/
def execSuperPowerDown (super : Nat) (selfRefresh : Bool) (s : State) : Out :=
  s.onUnit (decide (super < Config.nSupers)) (fun d =>
    if !((d.sup super).quiet) || (selfRefresh && d.superUsed super) then d
    else d.modSup super (fun u => { u with pstate := if selfRefresh then 2 else 1 }))

/-- DEEP_POWER_DOWN: self-refresh only when no partition holds a started image (R414). -/
def execDeepPowerDown (selfRefresh : Bool) (s : State) : Out :=
  s.onDev (fun d =>
    let used := (List.range nParts).any (fun p => (d.part p).image.isSome && (d.part p).started) ||
      !d.tiers.runs.isEmpty || (List.range nParts).any (fun p => (d.part p).load.isSome)
    if selfRefresh && used then d else d.modBrd (fun b => { b with deepPstate := if selfRefresh then 2 else 1 }))

/-! ## The black box (R421, R423) -/

def bbSlots : Nat := 1048576

/-- Program the oldest queued record: before the write position enters a sector the one after it is erased (R421). -/
def Dev.program (d : Dev) : Dev :=
  match d.bb.queue with
  | [] => d
  | r :: rest =>
    let slot := r.seq % bbSlots
    let gone := if slot % 1024 = 0 then (slot / 1024 + 1) % 1024 else 1024
    let recs := (d.bb.recs.filter (fun q => q.seq % bbSlots / 1024 != gone && q.seq % bbSlots != slot)) ++ [r]
    { d with bb := { d.bb with queue := rest, recs := recs } }

/-- A code that a unit holds is raised once the queue has room (R423). -/
def Dev.raiseWaiting (d : Dev) : Dev :=
  match d.bb.waiting with
  | [] => d
  | r :: rest => if d.bb.queue.length < bbDepth then { d with bb := { d.bb with waiting := rest } }.raise r else d

/-- BLACK_BOX_RECORD_PROGRAMMED (R423). -/
def execBlackBoxRecordProgrammed (s : State) : Out := s.onDev (fun d => d.program.raiseWaiting)

/-- Flush the record queue, on the hold-up store (R424). -/
def Dev.flush (d : Dev) : Dev := (List.range d.bb.queue.length).foldl (fun d _ => d.program) d

/-! ## Losing everything that is not kept (R24, R420, R424) -/

/-- The module without its volatile state: what stays is the flash (records), the straps and sensed inputs of the board and
what has been sent. The model's own counters go on. -/
def Dev.dark (d : Dev) (st : ModState) : Dev :=
  let b := d.brd
  { freeIx := d.freeIx, uidNext := d.uidNext, tx := d.tx,
    bb := { d.bb with queue := [], waiting := [] },
    brd := { state := st, slot := b.slot, cages := b.cages.map (fun x => (x.1, { x.2 with powered := false })), vinMv := b.vinMv,
             enable := b.enable, sb12 := b.sb12, internalRail := b.internalRail, present := b.present, faultPin := b.faultPin,
             ovlo := b.ovlo, ovloNew := b.ovloNew, ovHold := b.ovHold, huok := b.huok, uvw := b.uvw, telem := b.telem, bootn := b.bootn, psen := true } }

/-- A trip of a unit: the record at the head of the queue, everything off, Tripped with FAULT (R420). DETAIL word 5 names the
unit by its number of notes/assumptions/26. -/
def Dev.trip (d : Dev) (unit : Nat) : Dev :=
  if d.brd.state == .tripped || d.brd.state == .off || d.brd.state == .standby then d
  else
    let d := d.recordOnly 0x0E06 0 [unit]
    let q := d.bb.queue
    let d := { d with bb := { d.bb with queue := q.drop (q.length - 1) ++ q.take (q.length - 1) } }
    (d.flush.dark .tripped).modBrd (fun b => { b with faultPin := true })

/-! ## Staging (R417, R418, Table 17-3) -/

/-- A sensed unit's number in the model's table of stages: die sensors from 0, supers from 64, deep 68, input 69, inlet 70. -/
def senseIx : SenseUnit → Nat
  | .dieFrame f => f % 64
  | .super x => 64 + x % 4
  | .deep => 68
  | .input => 69
  | .inlet => 70

/-- Thresholds of Table 17-3 in the unit of the reading (0.125 °C, or W): enter 1, leave 1, enter 2, leave 2, trip. -/
def thresholds : SenseUnit → Int × Int × Option (Int × Int) × Option Int
  | .dieFrame _ => (760, 720, some (824, 776), some 880)
  | .super _ => (704, 672, some (760, 720), some 840)
  | .deep => (680, 640, none, some 840)
  | .input => (2400, 2300, none, none)
  | .inlet => (320, 304, none, none)

/-- Samples whose span covers 1 ms (Table 17-2). -/
def coolSpan : SenseUnit → Nat
  | .deep => 2
  | .inlet => 2
  | _ => 101

/-- One sample in the staging of its unit (R417): the new counters and stage, and whether it trips. A reading outside −40 °C
to 150 °C is none. -/
def stageStep (u : SenseUnit) (c : StageCnt) (r : Option Int) : StageCnt × Bool :=
  let isTemp := match u with
    | .input => false
    | _ => true
  let r := r.filter (fun v => !isTemp || (decide (-320 ≤ v) && decide (v ≤ 1200)))
  let t := thresholds u
  match r with
  | none => ({ c with badSensor := true, stage := 2, coolSamples := 0, hot1 := 0, hot2 := 0, trip := 0 }, false)
  | some v =>
    let hot1 := if t.1 ≤ v then min 3 (c.hot1 + 1) else 0
    let hot2 := match t.2.2.1 with
      | some h => if h.1 ≤ v then min 3 (c.hot2 + 1) else 0
      | none => 0
    let tr := match t.2.2.2 with
      | some h => if h ≤ v then min 2 (c.trip + 1) else 0
      | none => 0
    let leave := if c.badSensor then true
      else if c.stage = 2 then match t.2.2.1 with
        | some h => decide (v < h.2)
        | none => true
      else decide (v < t.2.1)
    let cool := if leave && c.stage != 0 then c.coolSamples + 1 else 0
    let left := decide (coolSpan u ≤ cool)
    let st0 := if left then c.stage - 1 else c.stage
    let st := if hot2 = 3 then 2 else if hot1 = 3 then max st0 1 else st0
    ({ hot1 := hot1, hot2 := hot2, trip := tr, coolSamples := if left then 0 else cool,
       badSensor := c.badSensor && !left, stage := st }, decide (tr = 2))

def Dev.stageCnt (d : Dev) (i : Nat) : StageCnt := Store.get {} d.brd.stages i

/-- Die stage: the highest of the die sensors', and 1 while the input is in its stage (Table 17-3). -/
def Dev.dieStageOf (d : Dev) : Nat :=
  max (((List.range 64).map (fun i => (d.stageCnt i).stage)).foldl max 0) (if (d.stageCnt 69).stage = 0 then 0 else 1)

/-- Events of a unit's stage change (R418). -/
def Dev.stageEvents (d : Dev) (code old new : Nat) (detail : List Nat) : Dev :=
  if old = new then d
  else
    let d := d.event code 0 0 0x1FF detail
    let d := if old < new then d.modBrd (fun b => { b with stgn := b.stgn + BitVec.ofNat 32 (new - old) }) else d
    if new = 2 then d.event 0x0E04 0 0 0x1FF [] else if old = 2 then d.event 0x0E05 0 0 0x1FF [] else d

/-- The reading is kept where its object shows it. -/
def Dev.keepReading (d : Dev) (u : SenseUnit) (r : Option Int) : Dev :=
  match r with
  | none => d
  | some v =>
    let w := BitVec.ofInt 16 v
    match u with
    | .dieFrame f =>
      let d := if f < nFrames then d.modFrame f (fun x => { x with temp := w }) else d
      d.modBrd (fun b => { b with telem := Store.set 0#16 b.telem 7 w })
    | .super x => d.modSup (x % 4) (fun s => { s with temp := w })
    | .deep => d.modBrd (fun b => { b with telem := Store.set 0#16 b.telem 8 w })
    | .input => d.modBrd (fun b => { b with telem := Store.set 0#16 b.telem 2 w })
    | .inlet => d.modBrd (fun b => { b with telem := Store.set 0#16 b.telem 3 w })

/-- THERMAL_SAMPLE: one sample of a sensor, in units of 0.125 °C or W (R415 to R420). -/
def Dev.thermal (d : Dev) (u : SenseUnit) (r : Option Int) : Dev :=
  let i := senseIx u
  let c := d.stageCnt i
  let y := stageStep u c r
  let oldDie := d.brd.dieStage
  let d := (d.keepReading u r).modBrd (fun b => { b with stages := Store.set {} b.stages i y.1 })
  let d := if y.1.badSensor && !c.badSensor then d.event 0x0E0B 0 0 0x1FF [] else d
  let die := d.dieStageOf
  let sensorDie := ((List.range 64).map (fun i => (d.stageCnt i).stage)).foldl max 0
  let d := d.modBrd (fun b => { b with dieStage := die, plim := decide (sensorDie = 0 && die = 1) })
  let d := match u with
    | .dieFrame _ => d
    | .super x => (d.modSup (x % 4) (fun s => { s with stage := y.1.stage })).stageEvents 0x0E02 c.stage y.1.stage
        [x % 4 * 256 + y.1.stage]
    | .deep => (d.modBrd (fun b => { b with deepStage := y.1.stage })).stageEvents 0x0E03 c.stage y.1.stage []
    | .input => d.stageEvents 0x0E07 (min 1 c.stage) (min 1 y.1.stage) []
    | .inlet =>
      let d := d.modBrd (fun b => { b with inhot := y.1.stage != 0 && !y.1.badSensor })
      if c.stage = 0 && y.1.stage = 1 then d.event 0x0E08 0 0 0x1FF [] else d
  let d := if die = 2 then (List.range nParts).foldl (fun d p => d.modPart p (fun x => { x with dieHeld := true })) d else d
  let d := d.stageEvents 0x0E01 oldDie die [die]
  if y.2 then d.trip i else d

/-- THERMAL_SAMPLE (R417). -/
def execThermalSample (u : SenseUnit) (reading : Option Int) (s : State) : Out := s.onDev (fun d => d.thermal u reading)

/-! ## Energy (R341, R415) -/

/-- Power and energy of the partition's frames and supers, and of the deep, over the beat that ends: sensed quantities, free values
(notes/assumptions/27). Answers the energy of the partition in µJ. -/
def Dev.meterPower (d : Dev) (p : Nat) : Nat × Dev :=
  let fr := (d.partFrames p).foldl (fun (acc : Nat × Dev) f =>
    let v := Config.free64 acc.2.freeIx
    let e := (v.toNat / 65536) % 2 ^ 24
    let d := { acc.2 with freeIx := acc.2.freeIx + 1 }
    let d := d.modFrame f (fun x => { x with power := v.setWidth 16, euj := x.euj + BitVec.ofNat 64 e })
    (acc.1 + e, d)) (0, d)
  let sups := if d.brd.pcfgMode then [p] else List.range Config.nSupers
  let d := fr.2
  let v := Config.free64 d.freeIx
  let d := { d with freeIx := d.freeIx + 1 }
  let d := d.modBrd (fun b => { b with deepPower := v.setWidth 16, deepEuj := b.deepEuj + BitVec.ofNat 64 ((v.toNat / 65536) % 2 ^ 24) })
  sups.foldl (fun (acc : Nat × Dev) x =>
    let v := Config.free64 acc.2.freeIx
    let e := (v.toNat / 65536) % 2 ^ 24
    let d := { acc.2 with freeIx := acc.2.freeIx + 1 }
    let d := d.modSup x (fun u => { u with power := v.setWidth 16, euj := u.euj + BitVec.ofNat 64 e })
    (acc.1 + e, d)) (fr.1, d)

end Sys2Proof.Machine
end

