-- ==== Sys2Proof/Machine/Beats.lean ====
section
/-! DEFINITION. Beats (chapter 6): the release of a beat with its boundary actions, stamps, the cap hold, context switches, frame
states and accounting; the deadlock and barrier-timeout faults. -/

namespace Sys2Proof.Machine
open Sys2Proof

def onPart (s : State) (p : Nat) (f : Dev → Dev) : Out := s.onUnit (decide (p < nParts)) f

/-! ## Arrival and drain (R127, R128, R135, R174) -/

/-- The core holds its arrival: it is idle, its frame is not in Run, or its capped task has executed BWAIT and everything
before it has drained. -/
def Dev.arrived (d : Dev) (n : Nat) : Bool :=
  let c := d.core n
  c.idle || (d.frame (n / 16)).pstate != 0 ||
  (match c.tasks with
   | [t] => t.bwait.isSome && c.wbuf.isEmpty
   | _ => false)

/-- Frames whose arrival the root has not seen, and frames with an undelivered transfer stamped with this beat. -/
def Dev.lateFrames (d : Dev) (p : Nat) : List Nat :=
  (d.partFrames p).filter (fun f => (d.partCores p).any (fun n => n / 16 == f && !(d.arrived n)))
def Dev.undrained (d : Dev) (p : Nat) : List Nat :=
  let k := (d.part p).beat
  (d.partFrames p).filter (fun f => (d.partCores p).any (fun n => n / 16 == f && (d.core n).su.req.any (fun q => q.sched && q.stamp == k)))

/-! ## The layer schedule (R196, R198) -/

/-- The schedule entries of a context, four words each. -/
def Dev.schedule (d : Dev) (c : Nat) : List (List Nat) :=
  let t := d.imgSec (d.partOfCtx c) 0x07 c 0
  (List.range (t.length / 16)).map (fun i => (List.range 4).map (fun w => wordAt t (16 * i + 4 * w)))

/-- Entries of the resident context's stamp fall due. -/
def Dev.scheduleDue (d : Dev) (c : Nat) : Dev :=
  let st := (d.ctx c).stamp
  let l := (d.schedule c).filter (fun e => bits (e.getD 0 0) 31 16 == st.phase && bits (e.getD 0 0) 15 0 == st.count)
  if l.isEmpty then d else d.modCtx c (fun x => { x with due := x.due ++ l })

/-! ## Stamps (R144, R145) -/

/-- The next stamp enters a new step while the log is full (R352). -/
def Dev.logHolds (d : Dev) (p c : Nat) : Bool :=
  (d.part p).logFull && (nextStamp (d.phases p) (d.ctx c).stamp).step != (d.ctx c).stamp.step

/-- The resident context's stamp may not advance at this release. -/
def Dev.mayNotAdvance (d : Dev) (p c : Nat) : Bool := d.heldFor p c || d.logHolds p c

/-- Advance the stamp of a context by the beat it has run. -/
def Dev.advanceStamp (d : Dev) (p c : Nat) : Dev :=
  d.modCtx c (fun x => { x with stamp := nextStamp (d.phases p) x.stamp, hold := false })

/-! ## Blocked reports (R183) -/

/-- The core was blocked throughout the beat that ends. -/
def Core.blocked (c : Core) : Bool :=
  !c.progress && c.su.req.isEmpty &&
  (c.idle || (match c.tasks with
    | [t] => t.bwait == some 0
    | _ => false))

/-! ## Frame states (R410, R411) -/

/-- Beats from a stamp until a phase and count next come round. -/
def beatsUntil (lens : List Nat) (s : Stamp) (phase count : Nat) : Nat :=
  let at' (p k : Nat) : Nat := (lens.take p).sum + k
  let total := max 1 lens.sum
  (at' phase count + total - at' s.phase s.count % total) % total

/-- D = E_f − j of a frame at the release that starts beat j; nothing when it has no bound. -/
def Dev.frameD (d : Dev) (p f : Nat) : Option Nat :=
  let r := (d.part p).resident
  let cores := (d.partCores p).filter (fun n => n / 16 == f)
  let ds := cores.filterMap (fun n =>
    let c := d.core n
    if c.idle then none
    else match c.tasks with
      | [t] => match t.bwait with
        | some m => some (m + 1)
        | none => some 0
      | _ => some 0)
  let os := match r with
    | none => []
    | some c => (d.schedule c).filterMap (fun e =>
        if bits (e.getD 1 0) 31 28 = 3 && cores.contains (bits (e.getD 1 0) 23 15) then
          some (beatsUntil (d.phases p) (d.ctx c).stamp (bits (e.getD 0 0) 31 16) (bits (e.getD 0 0) 15 0))
        else none)
  (ds ++ os).foldl (fun (m : Option Nat) x => match m with
    | some y => some (min x y)
    | none => some x) none

/-- The stream units of a frame hold nothing (R411). -/
def Dev.frameQuiet (d : Dev) (p f : Nat) : Bool :=
  ((d.partCores p).filter (fun n => n / 16 == f)).all (fun n =>
    let s := (d.core n).su
    s.req.isEmpty && s.hold.isEmpty && s.live.isEmpty && !(s.desc.any (fun x => x.2.isSome)))

/-- Boundary action 4: the state of each frame of the partition (R411). -/
def Dev.selectFrames (d : Dev) (p : Nat) : Dev :=
  (d.partFrames p).foldl (fun d f =>
    let dd := d.frameD p f
    let big := match dd with
      | some v => decide (d.brd.retb ≤ v)
      | none => true
    let small := match dd with
      | some v => decide (v < 2)
      | none => false
    let st := if !d.brd.psen || small then 0 else if big && d.frameQuiet p f then 2 else 1
    d.modFrame f (fun x => { x with
      pstate := st, dbeat := min 0x3FFF (dd.getD 0x3FFF),
      cgb := if x.pstate = 1 then x.cgb + 1 else x.cgb, rtb := if x.pstate = 2 then x.rtb + 1 else x.rtb })) d

/-! ## The release (R136 to R138) -/

/-- CTXSET takes effect (R333). -/
def Dev.applyRuns (d : Dev) (p : Nat) : Dev :=
  (d.imgCtxs p).foldl (fun d c => match (d.ctx c).nextRun with
    | some r => d.modCtx c (fun x => { x with run := r.1, latency := r.2, nextRun := none })
    | none => d) d

/-- A core at the start of the next beat: only read-only lines stay cached, a BWAIT counts down or ends, the reports are
taken (R128, R183, R409). A core that waits on smoker tokens is not blocked. -/
def Core.beatStart (c : Core) (ro : Nat → Bool) (tokens : Bool) : Core :=
  let b := c.blocked && !tokens
  { c with
    dcache := c.dcache.filter (fun l => ro (64 * l.1 / pageBytes)),
    tasks := c.tasks.map (fun t => match t.bwait with
      | some 0 => { t with bwait := none, pc := t.pc + 4 }
      | some (k + 1) => { t with bwait := some k }
      | none => t),
    progress := false, mxIssued := false, vxIssued := false, mx := { c.mx with inArray := [] },
    su := { c.su with blkn := if b then min 511 (c.su.blkn + 1) else 0, blkd := b } }

/-- What a beat is charged for that ends with context r in the engines, and with a switch to context t if one is made: of the beat's
energy a part, a free value, was spent in the switch, and is split by the bytes moved (R341). -/
def Dev.chargeBeat (d : Dev) (p : Nat) (r t : Option Nat) : Dev :=
  let cores := d.partCores p
  let y := d.meterPower p
  let z := match t with
    | some _ => y.2.freshChoice (y.1 + 1)
    | none => (0, y.2)
  let moved (c : Option Nat) : Nat := match c with
    | some c => d.switchBytes p c
    | none => 0
  let share := z.1 * moved t / max 1 (moved r + moved t)
  let e := match r with
    | some c => z.2.acct c (fun a => { a with
        rbeat := a.rbeat + 1, cbeat := a.cbeat + d.partSize, mxb := a.mxb + (cores.filter (fun n => (d.core n).mxIssued)).length,
        vxb := a.vxb + (cores.filter (fun n => (d.core n).vxIssued)).length, euj := a.euj + (y.1 - share) })
    | none => z.2
  match t with
  | some c => e.acct c (fun a => { a with euj := a.euj + share })
  | none => e

/-- Schedule entries of the partition waited for queue space in the beat that ends: MIGWAIT counts it (R198). -/
def Dev.countWaits (d : Dev) (p : Nat) : Dev :=
  let waits (c : Nat) : Bool := (d.ctx c).waitq || (!(d.ctx c).due.isEmpty && !d.moveSpace)
  let l := d.imgCtxs p
  let e := l.foldl (fun d c => if (d.ctx c).waitq then d.modCtx c (fun x => { x with waitq := false }) else d) d
  if l.any waits then e.modTiers (fun t => t.count 17) else e

/-- The release itself: the beat counter, the cores, the frames, the schedule. -/
def Dev.release (d : Dev) (p stretch cause frame holdc : Nat) : Dev :=
  let d := (d.partCores p).foldl (fun e n => e.modCore n (fun c => c.beatStart (fun page => (d.tm page).ro) (d.tokenWait n))) d
  let d := d.modBrd (fun b => { b with tholdc := if cause = 2 && (d.part p).dieHeld then b.tholdc + BitVec.ofNat 32 stretch else b.tholdc })
  let d := d.modPart p (fun x => { x with
    beat := (x.beat + 1) % 2 ^ 48, hold := false, dieHeld := false, bact := false, quiesce := false, ran := true, ranBeats := x.ranBeats + 1,
    strn := if stretch = 0 then x.strn else x.strn + 1, strc := x.strc + BitVec.ofNat 32 stretch,
    holdc := x.holdc + BitVec.ofNat 32 holdc,
    lastCause := if stretch = 0 then x.lastCause else cause, lastFrame := if stretch = 0 then x.lastFrame else if cause = 2 then 0 else frame })
  let d := (d.countWaits p).selectFrames p
  let d := (d.imgCtxs p).foldl (fun d c => d.modCtx c (fun x => { x with shown := x.acct })) d
  match (d.part p).resident with
  | some c => d.scheduleDue c
  | none => d

/-- A held partition: the release waits, its cycles are counted (R137, R145). -/
def Dev.holdPart (d : Dev) (p holdc : Nat) : Dev :=
  d.modPart p (fun x => { x with hold := true, quiesce := false, holdc := x.holdc + BitVec.ofNat 32 holdc })

/-- A partition without owned slices is done with a step when every context has left it (notes/assumptions/28). -/
def Dev.bareStep (d : Dev) (p s : Nat) : Dev :=
  if (d.ownedSlices p).isEmpty && (d.imgCtxs p).all (fun c => decide (s < (d.ctx c).stamp.step)) then d.finishStep p s else d

/-- The end of the resident context's beat may end a step. -/
def Dev.endStep (d : Dev) (p : Nat) (r : Option Nat) (s : Nat) : Dev := if r.isSome then d.bareStep p s else d

/-- The switch decided at this boundary (R336, R338): out with `r`, in with `t`; answers the cycles it took. A context that a cap held
counts its beat now; where the outgoing one is held, the release advances the stamp of the incoming one in its place, whose entries for the
beat that it had reached are issued first (R145). -/
def Dev.doSwitch (d : Dev) (p : Nat) (r t : Option Nat) (stuck : Bool) : Nat × Dev :=
  let d := d.wakeFrames p
  let pre := match r, t with
    | some a, some b => d.candidate p a && !((d.ctx a).latency) && (d.ctx b).latency
    | _, _ => false
  let d := match r with
    | some a => d.switchOut p a
    | none => d
  let y := d.freshCycles
  let d := match t with
    | some b => y.2.switchIn p b y.1
    | none => y.2
  let d := d.modPart p (fun x => { x with pend := none, prwb := 0, prmn := if pre then x.prmn + 1 else x.prmn })
  (y.1, match t with
  | some b => if (d.ctx b).hold then d.advanceStamp p b else if stuck then (d.scheduleDue b).advanceStamp p b else d
  | none => d)

/-- The resident context's remote streams are parked at the 64th boundary (R339). -/
def Dev.park (d : Dev) (p r : Nat) : Dev :=
  if d.remoteDep p r then
    (((d.modCtx r (fun x => { x with parked := true })).acct r (fun a => { a with parkn := a.parkn + 1 })).modPart p
      (fun x => { x with parkn := x.parkn + 1 })).event 0x0A04 p r 0x1FF []
  else d

/-- BEAT_RELEASE of partition p: the beat was stretched by `stretch` cycles (its cause and frame as Table 6-5 names them) and
held for a cap for `holdc` cycles (R136 to R138, R144, R145, R338, R339, R410). A switch waits until the stream units are quiet, and
nothing issues meanwhile (R186, R336); it stretches the beat with cause 2. -/
def Dev.beatRelease (d : Dev) (p stretch cause frame holdc : Nat) : Dev :=
  if !(d.running p) || !(d.lateFrames p).isEmpty || !(d.undrained p).isEmpty || decide (2 ≤ d.brd.dieStage) then d
  else
    let d0 := d
    let d := (d.applyRuns p).flips p
    let r := (d.part p).resident
    let single := decide (d.nctx p ≤ 1)
    if single && r.any (fun c => !((d.ctx c).run)) then d
    else
      -- action 2, for the beat that the resident context has run
      let stuck := match r with
        | some c => d.mayNotAdvance p c
        | none => false
      let d1 := match r with
        | some c => if stuck then d.modCtx c (fun x => { x with hold := true }) else d.advanceStamp p c
        | none => d
      let logged := match r with
        | some c => d.logHolds p c && !((d.ctx c).hold)
        | none => false
      let d1 := if logged then
          (d1.event 0x0B05 p 0 0x1FF []).modPart p (fun x => { x with recCnt := bump x.recCnt 19 1 })
        else d1
      -- action 3
      match (if single then none else d1.choose p) with
      | none =>
        if stuck then d1.holdPart p holdc
        else
          let d1 := d1.modPart p (fun x => { x with pend := none, prwb := 0 })
          ((d1.chargeBeat p r none).endStep p r (d.ctx (r.getD 0)).stamp.step).release p stretch cause frame holdc
      | some t =>
        let dep := match r with
          | some c => d1.remoteDep p c
          | none => false
        if dep && decide ((d.part p).prwb < 64) then
          let d1 := d1.modPart p (fun x => { x with pend := some t, prwb := x.prwb + 1 })
          let d2 := match r with
            | some c => d1.acct c (fun a => { a with prwt := a.prwt + 1 })
            | none => d1
          ((d2.chargeBeat p r none).endStep p r (d.ctx (r.getD 0)).stamp.step).release p stretch cause frame holdc
        else if r.isSome && !(d1.quiet p) then d0.modPart p (fun x => { x with bact := true, quiesce := true })
        else
          let d2 := (d1.chargeBeat p r t).endStep p r (d.ctx (r.getD 0)).stamp.step
          let d3 := match r with
            | some c => d2.park p c
            | none => d2
          let y := d3.doSwitch p r t stuck
          y.2.release p (stretch + y.1 + 1) 2 0 holdc

/-- BEAT_RELEASE (R136). -/
def execBeatRelease (part stretch cause frame holdc : Nat) (s : State) : Out :=
  onPart s part (fun d => d.beatRelease part stretch (cause % 3) (frame % 20) holdc)

/-! ## Faults of the barrier (R139, R183) -/

/-- DEADLOCK: every core of the resident context has been blocked for 256 beats and a waiter exists: the fault goes to the
lowest-numbered core that has one (R183). -/
def Dev.deadlock (d : Dev) (p c : Nat) : Dev :=
  if d.running p && (d.part p).resident == some c && (d.partCores p).all (fun n => decide (256 ≤ (d.core n).su.blkn)) then
    match (d.partCores p).find? (fun n => !(d.waiters n).isEmpty) with
    | none => d
    | some n =>
      match d.waiters n with
      | w :: _ => d.abort n w.uid ⟨0x0406, true, w.tid, w.pc, 0, false⟩
      | [] => d
  else d

/-- DEADLOCK (R183). -/
def execDeadlock (part ctx : Nat) (s : State) : Out := onPart s part (fun d => d.deadlock part ctx)

def frameMask (l : List Nat) : Nat := (l.map (fun f => 2 ^ f)).sum

/-- BARRIER_TIMEOUT: the release is late by more than 2^BTOEXP cycles (R139). -/
def Dev.barrierTimeout (d : Dev) (p : Nat) : Dev :=
  let a := d.lateFrames p
  let u := d.undrained p
  if d.running p && !(a.isEmpty && u.isEmpty) then d.contextFault 0x0F01 p (((d.part p).resident).getD 0) 0x1FF [frameMask a, frameMask u]
  else d

/-- BARRIER_TIMEOUT (R139). -/
def execBarrierTimeout (part : Nat) (s : State) : Out := onPart s part (fun d => d.barrierTimeout part)

end Sys2Proof.Machine
end

