-- ==== Sys2Proof/Machine/Params.lean ====
section
/-! DEFINITION. The parameter space (R319, R320): every object of blocks 0 to 15 with its value, its reserved bits, when a
write of it is refused and what the write does; the accesses that have a row of their own. -/

namespace Sys2Proof.Machine
open Sys2Proof

/-- One object as an access finds it: its value, its reserved bits, whether it may not change now, whether the value written
is out of range, and what the write does (Table 0-4: what an r field is written with is ignored). -/
structure Obj where
  val : Nat
  resv : Nat := 0
  busy : Bool := false
  bad : Bool := false
  write : Dev → Dev := fun d => d

/-- A mask of bits [hi:lo]. -/
def mask (hi lo : Nat) : Nat := 2 ^ (hi + 1) - 2 ^ lo

/-- An object that the owning chapter calls reserved (R319). -/
def rsvd : Option Obj := some { val := 0, resv := mask 31 0 }
/-- A read-only object with the reserved bits named. -/
def roObj (v : Nat) (resv : Nat := 0) : Option Obj := some { val := v, resv := resv }
/-- A counter in the layout of Table 3-13. -/
def cntObj (m : Store (BitVec 32)) (i : Nat) : Option Obj := roObj (Store.get 0#32 m i).toNat

/-- The object of a partition: that of one that does not exist reads as 0, and a write changes nothing (R155, R242, R328;
notes/assumptions/30). -/
def perPart (d : Dev) (p : Nat) (o : Option Obj) : Option Obj :=
  match o with
  | none => none
  | some x => if d.partExists p then some x else some { x with val := 0, busy := false, write := fun d => d }

/-- A bit set over a list of numbers. -/
def bitSet (n : Nat) (f : Nat → Bool) : Nat := ((List.range n).map (fun i => b2n (f i) * 2 ^ i)).sum

/-! ## Block 0: identity (Table 12-9) -/

def identVal (nv : NonVol) (d : Dev) (i : Nat) : Nat :=
  match i with
  | 0 => modCode d.brd.state
  | 1 => Config.serial.toNat % 2 ^ 32
  | 2 => Config.serial.toNat / 2 ^ 32
  | 3 => fwVersion nv d
  | _ => d.brd.spop % 16 * 2 ^ 16 + d.brd.dpop % 2 ^ 16

def objIdent (nv : NonVol) (d : Dev) (i : Nat) : Option Obj :=
  match i with
  | 0 => roObj (identVal nv d 0) (mask 31 8)
  | 4 => roObj (identVal nv d 4) (mask 31 20)
  | 1 | 2 | 3 => roObj (identVal nv d i)
  | _ => if i < 16 then rsvd else none

/-! ## Block 1: queues and event channels (Tables 12-10 and 12-11) -/

def objQueue (d : Dev) (q i : Nat) : Option Obj :=
  let x := d.queue q
  match i with
  | 0 => roObj (b2n (x.bound || q == 0) * 2 ^ 31 + b2n (q == 0) * 2 ^ 30 + x.part % 4 * 2 ^ 28 + x.ctx % 32 * 2 ^ 23 +
      x.heldc.length) (mask 22 5)
  | 1 => roObj x.next
  | 2 => roObj x.qcmd.toNat
  | _ => roObj x.qrty.toNat

def objChan (d : Dev) (e i v : Nat) : Option Obj :=
  let x := d.chan e
  match i with
  | 4 => some {
      val := b2n x.en * 2 ^ 31 + x.evrto * 2 ^ 16 + x.port
      resv := mask 30 24
      bad := bits v 23 16 == 0
      write := fun d => (d.modChan e (fun c => { c with en := bit v 31, evrto := bits v 23 16, port := bits v 15 0 })).tellLost e }
  | 5 => roObj (x.next % 2 ^ 32)
  | 6 => roObj (x.lost * 2 ^ 16 + x.unacked.length) (mask 15 7)
  | 7 => rsvd
  | _ => some { val := Store.get 0 x.addr i
                write := fun d => d.modChan e (fun c => { c with addr := Store.set 0 c.addr i v }) }

/-! ## Blocks 2 to 5: cores (Tables 5-10, 5-11, 3-12, 4-8, 7-13 to 7-15) -/

def objCtl (d : Dev) (n i : Nat) : Option Obj :=
  let c := d.core n
  match i with
  | 0 => roObj c.status
  | 1 => roObj (c.faultWord 1) (mask 7 2)
  | 2 => roObj (c.faultWord 2) (mask 15 0)
  | 3 => roObj (c.faultWord 3)
  | 4 => roObj (c.faultWord 4)
  | 5 => roObj (c.faultWord 5) (mask 30 9)
  | _ => if i < 11 then cntObj c.counters i else rsvd

def objMx (d : Dev) (n i v : Nat) : Option Obj :=
  let m := (d.core n).mx
  match i with
  | 0 => some { val := (d.core n).shownMx.status, resv := mask 31 20 + mask 15 12 + mask 7 5
                write := fun d => if v % 32 = 0 then d else d.modCore n (fun c => { c with mx := c.mx.clear 0 v }) }
  | 1 => roObj m.fed.toNat
  | 2 => roObj m.gate.toNat
  | 3 => roObj m.wait.toNat
  | _ => rsvd

def objVx (d : Dev) (n i v : Nat) : Option Obj :=
  let m := (d.core n).vx
  match i with
  | 0 => some { val := (d.core n).shownVx.status, resv := mask 31 24 + mask 14 12 + mask 7 5
                write := fun d => if v % 4096 = 0 then d else d.modCore n (fun c => { c with vx := c.vx.clear 0 v }) }
  | 1 => roObj m.issued.toNat
  | 2 => roObj m.trn.toNat
  | 3 => roObj m.wait.toNat
  | _ => rsvd

/-- A bucket's RATE and DEPTH (Table 7-14). -/
def bucketObj (b : Bucket) (v : Nat) (write : Bucket → Dev → Dev) : Option Obj :=
  some { val := b.rate * 2 ^ 16 + b.depth
         bad := bits v 31 16 == 0 || bits v 15 0 == 0
         write := write { b with rate := bits v 31 16, depth := bits v 15 0 } }

/-- Status of ring j of core n (Table 7-15). -/
def Dev.ringStatus (d : Dev) (n j : Nat) : Nat :=
  match d.ringOf n j with
  | none => 0
  | some r =>
    let c := d.core n
    let x := c.ringSt j
    let on (prod : Bool) : Bool := (d.partCores (d.partOf n)).any (fun k => (d.waiters k).any (fun w => w.rings.contains (n, j, prod)))
    x.head % r.n * 2 ^ 28 + x.tail % r.n * 2 ^ 24 + c.nfill r * 2 ^ 19 + b2n (on true) * 2 ^ 18 + b2n (on false) * 2 ^ 17 + 2 ^ 16

def objStream (d : Dev) (n i v : Nat) : Option Obj :=
  let s := (d.core n).su
  if i = 0 then roObj s.status
  else if i = 1 then bucketObj s.bucket v (fun b d => d.modCore n (fun c => { c with su := { c.su with bucket := b } }))
  else if i < 10 then cntObj s.counters i
  else if 16 ≤ i && i < 48 then roObj (d.ringStatus n (i - 16)) (mask 15 0)
  else rsvd

def objStreams (d : Dev) (i v : Nat) : Option Obj :=
  if i = 0 then some { val := d.brd.gctl, resv := mask 31 4, write := fun d => d.modBrd (fun b => { b with gctl := v % 16 }) }
  else if i < 5 then bucketObj (d.sup (i - 1)).bucket v (fun b d => d.modSup (i - 1) (fun u => { u with bucket := b }))
  else if i < 9 then some {
      val := (d.sup (i - 5)).cool * 2 ^ 16, resv := mask 15 0, bad := bits v 31 16 == 0
      write := fun d => d.modSup (i - 5) (fun u => { u with cool := bits v 31 16 }) }
  else if i = 9 then bucketObj d.brd.deepBucket v (fun b d => d.modBrd (fun x => { x with deepBucket := b }))
  else if i < 16 then rsvd
  else none

/-! ## Block 6: memory tiers (Tables 8-12 to 8-14) -/

/-- Pages of a device that save areas hold (R334). -/
def Dev.savePages (d : Dev) (dev : Nat) : Nat :=
  ((List.range nParts).map (fun p =>
    let n := d.nctx p
    if n < 2 || (d.part p).image.isNone then 0
    else if d.brd.pcfgMode then (if dev = p then 100 * n else 0)
    else if dev < Config.nSupers then 400 / Config.nSupers * n else 0)).sum

/-- Physical pages of a device. -/
def devPages (dev : Nat) : Nat :=
  if dev < Config.nSupers then Config.superPages else if dev = 4 then Config.deepPages else 0
def Dev.retd (d : Dev) (dev : Nat) : Nat := (d.tiers.retired.filter (fun x => x.1 == dev)).length
/-- CAP: populated pages less retired pages and save areas (Table 8-14, R334). -/
def Dev.capPages (d : Dev) (dev : Nat) : Nat := devPages dev - d.retd dev - d.savePages dev

/-- Fewest spare rows left in any bank of a super (Table 8-2). -/
def spMin (nv : NonVol) (x : Nat) : Nat :=
  (nv.remaps.filter (fun r => r.1 == x)).foldl (fun m r => min m (sparesLeft nv.remaps x r.2.1)) 8

def objTier (d : Dev) (i v : Nat) : Option Obj :=
  let t := d.tiers
  match i with
  | 0 => some { val := t.tmsel, resv := mask 31 22, write := fun d => d.modTiers (fun t => { t with tmsel := v }) }
  | 1 => roObj ((d.tm t.tmsel).word % 2 ^ 32)
  | 2 => roObj t.tmhi.toNat
  | 3 => some {
      val := t.chn * 2 ^ 8 + t.crate, resv := mask 31 12 + mask 7 6
      bad := bits v 11 8 == 0 || decide (8 < bits v 11 8) || bits v 5 0 == 0 || decide (32 < bits v 5 0)
      write := fun d => d.modTiers (fun t => { t with chn := bits v 11 8, crate := bits v 5 0 }) }
  | 4 => roObj (t.queue.length * 2 ^ 16 + t.runs.length * 2 ^ 12) (mask 31 25 + mask 11 0)
  | 5 => roObj (((List.range 4).map (fun p => Store.get 0 t.ways p * 16 ^ p)).sum) (mask 31 16)
  | _ => if 16 ≤ i && i < 21 then cntObj t.cnt i else if i < 32 then rsvd else none

def objDev (nv : NonVol) (d : Dev) (dev i : Nat) : Option Obj :=
  let free := devPages dev - ((d.tiers.used ++ d.tiers.retired).filter (fun x => x.1 == dev)).length
  match i with
  | 0 => roObj (d.capPages dev) (mask 31 22)
  | 1 => roObj (d.retd dev) (mask 31 22)
  | 2 => roObj free (mask 31 22)
  | 3 | 4 | 5 => cntObj d.tiers.devCnt (16 * dev + i)
  | 6 => roObj (if dev = 4 then Config.deepSpares.toNat else if dev < Config.nSupers then spMin nv dev else 0) (mask 31 8)
  | _ => rsvd

/-! ## Block 7: recomputation (Table 9-10) -/

/-- Sample slots of a partition with VALID set. -/
def Dev.slotsUsed (d : Dev) (p : Nat) : Nat :=
  ((d.imgCtxs p).map (fun c =>
    let t := d.blockTab c
    if t.isEmpty then 0
    else ((List.range (bkSpm t * bkMbd t)).filter (fun k =>
      bit (leNat (d.memRead (bkCbase t + 64 * (d.slotBase c + k) + 8) 4)) 31)).length)).sum

def objRecompute (d : Dev) (p i : Nat) : Option Obj :=
  let x := d.part p
  perPart d p (match i with
  | 0 => roObj (d.slotsUsed p * 2 ^ 10 + ((d.imgCtxs p).map (fun c => ((d.ctx c).mbs.filter (fun m => match m.2 with
      | some b => b.ready
      | none => false)).length)).sum) (mask 31 20)
  | 1 => roObj (x.mblast % 2 ^ 32)
  | 2 => roObj x.refs.toNat
  | 3 => roObj x.fbmb.toNat
  | 4 => roObj x.fbsw.toNat
  | 5 => roObj x.stpk.toNat
  | _ => rsvd)

/-! ## Block 8: slices (Table 10-12) -/

/-- The update unit has something to do. -/
def Super.busy (u : Super) : Bool := !u.queue.isEmpty || !u.late.isEmpty || !u.adds.isEmpty || !u.arrivals.isEmpty

def objSuper (d : Dev) (x i v : Nat) : Option Obj :=
  let u := d.sup x
  match i with
  | 0 => some {
      val := u.queue.length * 2 ^ 16 + b2n u.busy * 2 ^ 15 + u.flags.toNat
      resv := mask 31 23 + mask 14 12 + mask 7 5
      write := fun d => d.modSup x (fun u => { u with flags := u.flags &&& ~~~(BitVec.ofNat 12 v) }) }
  | 1 => roObj (u.slots.length * 2 ^ 16 + u.parkq.length) (mask 31 28 + mask 15 9)
  | _ => if i < 8 then cntObj u.cnt i else rsvd

/-- An image runs in some partition. -/
def Dev.anyStarted (d : Dev) : Bool := (List.range nParts).any (fun p => (d.part p).started)

/-- The slice table whose microprograms the read-only copies show: that of the first context that has one
(notes/assumptions/31). -/
def Dev.mprogTable (d : Dev) : List Byte :=
  match ((List.range nCtxs).map d.sliceTab).find? (fun t => !t.isEmpty) with
  | some t => t
  | none => []

def objSlice (d : Dev) (off v : Nat) : Option Obj :=
  if off < 0x40 then objSuper d (off / 16) (off % 16) v
  else if 0x100 ≤ off && off < 0x110 then
    match off - 0x100 with
    | 0 => roObj d.fstep
    | 1 => roObj (d.fp % 2 ^ 32)
    | 2 => roObj (d.fp / 2 ^ 32)
    | 3 => roObj d.fovfn (mask 31 16)
    | 4 => roObj (d.part 0).epoch (mask 31 16)
    | _ => rsvd
  else if 0x1000 ≤ off && off < 0x1100 then some {
    val := (Store.get 0#32 d.consts (off - 0x1000)).toNat
    busy := d.anyStarted
    write := fun d => { d with consts := Store.set 0#32 d.consts (off - 0x1000) (BitVec.ofNat 32 v) } }
  else if 0x2000 ≤ off && off < 0x2200 then
    let t := d.mprogTable
    roObj (if (off - 0x2000) / 32 < slNmprog t then mprogWord t ((off - 0x2000) / 32) ((off - 0x2000) % 32) else 0)
  else none

/-! ## Block 9: fabric (Tables 11-8, 11-9, 11-12, 11-13) -/

def objPort (d : Dev) (e i v : Nat) : Option Obj :=
  let x := d.port e
  match i with
  | 0 => roObj (x.media * 16 + b2n (!x.paused.isEmpty) * 8 + b2n x.lock * 4 + b2n x.andn * 2 + b2n x.up) (mask 31 8)
  | 1 => some {
      val := b2n x.en * 16 + x.pol, resv := mask 31 5
      write := fun d =>
        let d := d.modPort e (fun x => { x with en := bit v 4, pol := bits v 3 0 })
        if !(bit v 4) && (d.port e).up then d.linkLost e else d }
  | 2 => roObj ((Config.portMac e).toNat % 2 ^ 32)
  | 3 => roObj ((Config.portMac e).toNat / 2 ^ 32) (mask 31 16)
  | _ => if i < 12 then cntObj x.cnt i else rsvd

/-- Word i of a 128-bit address, word 0 holding bits [127:96]. -/
def addrWord (a i : Nat) : Nat := a / 2 ^ (96 - 32 * i) % 2 ^ 32
def setAddrWord (a i v : Nat) : Nat := a - addrWord a i * 2 ^ (96 - 32 * i) + v * 2 ^ (96 - 32 * i)

def objNet (d : Dev) (n i v : Nat) : Option Obj :=
  let x := d.net n
  if i = 0 then some {
      val := x.rto * 2 ^ 24 + x.rmax * 2 ^ 20 + x.pfcm * 2 ^ 12 + b2n x.fov * 2 ^ 11, resv := mask 10 0
      bad := bits v 31 24 == 0 || bits v 23 20 == 0 || (n == 1 && (bits v 19 12 != 0 || bit v 11))
      write := fun d => (d.modNet n (fun x => { x with rto := bits v 31 24, rmax := bits v 23 20, pfcm := bits v 19 12, fov := bit v 11 })).judgePaths }
  else if i = 1 then some {
      val := x.kmin * 2 ^ 24 + x.rmin * 2 ^ 16 + x.aiinc * 2 ^ 8, resv := mask 7 0
      bad := bits v 31 24 == 0 || decide (64 < bits v 31 24) || bits v 23 16 == 0 || decide (200 < bits v 23 16) ||
        bits v 15 8 == 0 || decide (100 < bits v 15 8)
      write := fun d => d.modNet n (fun x => { x with kmin := bits v 31 24, rmin := bits v 23 16, aiinc := bits v 15 8 }) }
  else if i < 6 then some { val := addrWord x.addr (i - 2)
                            write := fun d => d.modNet n (fun x => { x with addr := setAddrWord x.addr (i - 2) v }) }
  else if i < 10 then some { val := addrWord x.rtr (i - 6)
                             write := fun d => d.modNet n (fun x => { x with rtr := setAddrWord x.rtr (i - 6) v }) }
  else if i = 10 then some { val := x.udpp, resv := mask 31 16, write := fun d => d.modNet n (fun x => { x with udpp := v }) }
  else if i = 11 then roObj (d.freeCells n * 2 ^ 16 + d.reserved n)
  else if i = 12 then some {
      val := b2n x.tag * 2 ^ 12 + x.vid, resv := mask 31 13
      write := fun d => d.modNet n (fun x => { x with tag := bit v 12, vid := bits v 11 0 }) }
  else if i < 26 then cntObj x.cnt i
  else rsvd

/-- A word that is not staged. The staged copies of FTW and PTW hold only the words written since the last commit
(notes/assumptions/32). -/
def unstaged : Nat := 2 ^ 32

/-- Words of the selected peer-table entry (Table 11-9). -/
def Peer.word (x : Peer) (i : Nat) : Nat :=
  if i = 0 then b2n x.valid * 2 ^ 31 + b2n x.host * 2 ^ 30 + x.state * 2 ^ 28 + b2n x.onb * 2 ^ 27 + min x.miss 255
  else if i < 5 then addrWord x.addrA (i - 1)
  else if i < 9 then addrWord x.addrB (i - 5)
  else if i = 9 then x.serial % 2 ^ 32
  else if i = 10 then x.serial / 2 ^ 32
  else 0

/-- The rw fields of word i take a value. -/
def Peer.setWord (x : Peer) (i v : Nat) : Peer :=
  if i = 0 then { x with valid := bit v 31, host := bit v 30 }
  else if i < 5 then { x with addrA := setAddrWord x.addrA (i - 1) v }
  else if i < 9 then { x with addrB := setAddrWord x.addrB (i - 5) v }
  else x

/-- FTCMT: the staged words go into forwarding entry FTSEL (R302). -/
def Dev.ftCommit (d : Dev) : Dev :=
  let f := d.fab
  let old := Store.get [] f.fwd f.ftsel
  let new := (List.range 8).map (fun j =>
    let w := Store.get unstaged f.ftw j
    if w = unstaged then old.getD j 0 else w)
  { d with fab := { f with fwd := Store.set [] f.fwd f.ftsel (if new.all (· == 0) then [] else new), ftw := [] } }

/-- PTCMT: the staged words go into peer entry PTSEL (R302). -/
def Dev.ptCommit (d : Dev) : Dev :=
  let f := d.fab
  let new := (List.range 12).foldl (fun x j =>
    let w := Store.get unstaged f.ptw j
    if w = unstaged then x else Peer.setWord x j w) (Store.get {} f.peers f.ptsel)
  { d with fab := { f with peers := Store.set {} f.peers f.ptsel new, ptw := [] } }

def ftResv (j : Nat) : Nat := if j = 4 then mask 21 12 + mask 7 0 else if j = 6 then mask 31 16 else if j = 7 then mask 31 0 else 0
def ptResv (j : Nat) : Nat := if j = 0 then mask 26 8 else if j = 11 then mask 31 0 else 0

def objTables (d : Dev) (i v : Nat) : Option Obj :=
  let f := d.fab
  if i = 0 then some { val := f.ftsel, resv := mask 31 13, write := fun d => d.modFab (fun f => { f with ftsel := v }) }
  else if i < 9 then some {
      val := (Store.get [] f.fwd f.ftsel).getD (i - 1) 0, resv := ftResv (i - 1)
      bad := i == 5 && decide (128 < bits v 29 22)
      write := fun d => d.modFab (fun f => { f with ftw := Store.set unstaged f.ftw (i - 1) v }) }
  else if i = 9 then some { val := 0, write := fun d => d.ftCommit.judgePaths }
  else if i = 16 then some { val := f.ptsel, resv := mask 31 16, write := fun d => d.modFab (fun f => { f with ptsel := v }) }
  else if 17 ≤ i && i < 29 then some {
      val := (Store.get {} f.peers f.ptsel).word (i - 17), resv := ptResv (i - 17)
      write := fun d => d.modFab (fun f => { f with ptw := Store.set unstaged f.ptw (i - 17) v }) }
  else if i = 29 then some { val := 0, write := fun d => d.ptCommit.judgePaths }
  else rsvd

def objSwarm (d : Dev) (p v : Nat) : Option Obj :=
  let x := d.part p
  perPart d p (some {
    val := x.swid * 2 ^ 16 + x.rank, busy := x.started
    write := fun d => d.modPart p (fun x => { x with swid := bits v 31 16, rank := bits v 15 0 }) })

def objFabric (d : Dev) (off v : Nat) : Option Obj :=
  if off < 0x80 then objPort d (off / 16) (off % 16) v
  else if 0x100 ≤ off && off < 0x140 then objNet d ((off - 0x100) / 32) (off % 32) v
  else if 0x200 ≤ off && off < 0x240 then objTables d (off - 0x200) v
  else if 0x240 ≤ off && off < 0x244 then objSwarm d (off - 0x240) v
  else none

/-! ## Block 10: contexts and partitions (Table 13-9) -/

/-- The state of a context (Table 13-3). -/
def Dev.ctxState (d : Dev) (c : Nat) : Nat :=
  let p := d.partOfCtx c
  let x := d.ctx c
  if !x.inMap then 0
  else if (d.part p).started && d.ended p c then 4
  else if !x.run || !(d.part p).started then 1
  else if (d.part p).resident == some c then 3
  else 2

/-- MODE may not change while a partition holds an image (R328). -/
def Dev.anyImage (d : Dev) : Bool := (List.range nParts).any (fun p => (d.part p).image.isSome)

/-- A write of MODE (R328); a frame that belongs to no partition is held in retention, one of a partition without an image is
Off (R413). -/
def Dev.setMode (d : Dev) (v : Nat) : Dev :=
  let d := d.modBrd (fun b => { b with pcfgMode := bit v 0 })
  (List.range nFrames).foldl (fun d f => match d.framePart f with
    | none => d.modFrame f (fun y => { y with pstate := 2 })
    | some p => if (d.part p).load.isNone then d.modFrame f (fun y => { y with pstate := 3 }) else d) d

def objPart (d : Dev) (p i : Nat) : Option Obj :=
  let x := d.part p
  perPart d p (match i with
  | 0 => roObj (b2n x.resident.isSome * 2 ^ 31 + x.resident.getD 0 * 2 ^ 26 + b2n x.pend.isSome * 2 ^ 25 + x.prwb * 2 ^ 18) (mask 17 0)
  | 1 => roObj (x.lastsw % 2 ^ 32)
  | 2 => roObj x.swn.toNat
  | 3 => roObj x.prmn.toNat
  | 4 => roObj x.parkn.toNat
  | 5 => roObj x.prstn.toNat
  | _ => rsvd)

def objCtx (d : Dev) (c i : Nat) : Option Obj :=
  let x := d.ctx c
  match i with
  | 0 => roObj (d.ctxState c * 2 ^ 29 + b2n x.latency * 2 ^ 28 + b2n x.run * 2 ^ 27 + b2n x.parked * 2 ^ 26 + b2n x.hold * 2 ^ 25)
      (mask 24 0)
  | 1 => roObj x.saveb
  | _ => rsvd

def objContexts (d : Dev) (off v : Nat) : Option Obj :=
  if off = 0 then some { val := b2n d.brd.pcfgMode, resv := mask 31 1, busy := d.anyImage, write := fun d => d.setMode v }
  else if off = 1 then some {
      val := d.brd.qslice, resv := mask 31 16, bad := v % 2 ^ 16 == 0
      write := fun d => d.modBrd (fun b => { b with qslice := v }) }
  else if off < 0x10 then rsvd
  else if 0x100 ≤ off && off < 0x140 then objPart d ((off - 0x100) / 16) (off % 16)
  else if 0x200 ≤ off && off < 0x300 then objCtx d ((off - 0x200) / 8) (off % 8)
  else none

/-! ## Block 11: recovery (Table 14-8) -/

/-- RCFG has a value that START refuses: CODE 3, or a code whose group is not of 4 to 16 members or does not hold POS (R355;
the write takes any value, notes/assumptions/56). -/
def rcfgBad (v : Nat) : Bool :=
  rcCode v == 3 || (rcCode v != 0 && (decide (rcGsize v < 4) || decide (16 < rcGsize v) || decide (rcGsize v ≤ rcPos v)))

/-- BSAFE advances to a base: records written before that base's copy began are freed (R352). -/
def Partition.safeBase (x : Partition) (b : Nat) : Partition :=
  let log := match x.log.find? (fun r => lrType r == 6 && lrStep r == b) with
    | some r => x.log.filter (fun e => decide (lrT r 0 ≤ lrLsn e))
    | none => x.log
  { x with bsafe := b, log := log, logFull := decide (logDepth ≤ log.length) }

def objRecovery (d : Dev) (p i v : Nat) : Option Obj :=
  let x := d.part p
  let put (f : Partition → Partition) : Dev → Dev := fun d => d.modPart p f
  perPart d p (if i = 0 then some {
      val := x.rcfg, resv := mask 24 20, busy := x.started, write := put (fun x => { x with rcfg := v }) }
  else if i = 1 then roObj (x.bst * 2 ^ 30 + b2n x.replay.isSome * 2 ^ 29 + b2n x.rebld * 2 ^ 28 + x.interval) (mask 27 16)
  else if i = 2 then roObj x.blast
  else if i = 3 then some { val := x.bsafe, write := put (fun x => x.safeBase v) }
  else if i = 4 then roObj x.bbuild
  else if i = 5 then roObj (x.lsn % 2 ^ 32)
  else if i = 6 then some { val := x.logrank, resv := mask 31 17, write := put (fun x => { x with logrank := v }) }
  else if i = 7 then some { val := x.nmod, resv := mask 31 16, busy := x.started, write := put (fun x => { x with nmod := v }) }
  else if i = 8 then some {
      val := x.rates
      bad := bits v 31 16 == 0 || decide (200 < bits v 31 16) || bits v 15 0 == 0 || decide (256 < bits v 15 0)
      write := put (fun x => { x with rates := v }) }
  else if i < 17 then some {
      val := Store.get 0 x.grank (i - 9), busy := x.started
      write := put (fun x => { x with grank := Store.set 0 x.grank (i - 9) v }) }
  else if i < 22 then cntObj x.recCnt i
  else rsvd)

/-! ## Block 12: bring-up (Table 15-8) -/

/-- Cores of a frame: 17 positions (R3). -/
def physOf (f pos : Nat) : Nat := 17 * f + pos

/-- The position of logical core n, 31 when it has none (R375). -/
def Dev.positionOf (d : Dev) (n : Nat) : Nat :=
  match Store.get 0 d.brd.lmap n with
  | 0 => 31
  | k => k - 1

def Dev.lmapWord (d : Dev) (f first n : Nat) : Nat :=
  ((List.range n).map (fun j => d.positionOf (16 * f + first + j) * 2 ^ (5 * j))).sum

/-- Missing chunks of an update. -/
def Dev.missing (d : Dev) : Nat :=
  match d.brd.update with
  | some u => ceilDiv (wordAt u.manifest 12) 4096 - u.got.length
  | none => 0

def Dev.updRound (d : Dev) : Nat :=
  match d.brd.update with
  | some u => u.round
  | none => 0

def objBring (nv : NonVol) (d : Dev) (off : Nat) : Option Obj :=
  let b := d.brd
  if off = 0 then roObj (b.phase * 2 ^ 29 + b.dcause * 2 ^ 25 + b.dunit * 2 ^ 20 + b2n b.minb * 2 ^ 19 + b.slot * 2 ^ 18) (mask 17 0)
  else if off < 8 then roObj (Store.get 0 b.pt (off - 1) % 2 ^ 32)
  else if off = 8 then roObj (b.rounds * 2 ^ 30 + b.wfail * 2 ^ 21) (mask 20 0)
  else if off = 9 then roObj (b.ustate * 2 ^ 29 + d.updRound * 2 ^ 27 + d.missing) (mask 26 14)
  else if off = 16 then roObj nv.rstc.toNat
  else if off = 17 then roObj nv.rstf.toNat
  else if off = 18 then roObj nv.rstp.toNat
  else if off = 19 then roObj nv.rstm.toNat
  else if off < 32 then rsvd
  else if 0x100 ≤ off && off < 0x150 then
    let f := (off - 0x100) / 4
    match off % 4 with
    | 0 => roObj ((match Store.get 0 b.spare f with | 0 => 31 | k => k - 1) * 2 ^ 27 +
        b2n ((List.range 16).any (fun j => Store.get 0 nv.subst (16 * f + j) != 0)) * 2 ^ 26 +
        bitSet 17 (fun k => nv.failed.contains (physOf f k))) (mask 25 17)
    | 1 => roObj (d.lmapWord f 0 6) (mask 31 30)
    | 2 => roObj (d.lmapWord f 6 6) (mask 31 30)
    | _ => roObj (d.lmapWord f 12 4) (mask 31 20)
  else none

/-! ## Block 13: security (Table 16-9) -/

/-- Installed generations of a key, bit g for GEN g. -/
def Dev.gens (d : Dev) (kind ix : Nat) : Nat := b2n (d.key kind ix 0).isSome + 2 * b2n (d.key kind ix 1).isSome

/-- Word i of a 32-byte digest, word 0 holding bits [31:0]. -/
def digWord (l : List Byte) (i : Nat) : Nat := wordAt l (4 * i)
/-- A digest of zeros is held as nothing. -/
def setDigWord (l : List Byte) (i v : Nat) : List Byte :=
  let n := slice l 0 (4 * i) ++ toLe 4 v ++ slice l (4 * i + 4) (28 - 4 * i)
  if n.all (· == 0#8) then [] else n

/-- A key named for partition p or one of its contexts is installed. -/
def Dev.partHasKeys (d : Dev) (p : Nat) : Bool :=
  d.hasKey 4 p || (List.range nCtxs).any (fun c => d.partOfCtx c == p && (d.hasKey 2 c || d.hasKey 3 c))

def objSec (nv : NonVol) (d : Dev) (off v : Nat) : Option Obj :=
  if off = 0 then roObj (b2n nv.opened * 2 ^ 31 + nv.rbc * 2 ^ 16 + d.gens 1 0) (mask 30 24 + mask 15 2)
  else if off = 1 then roObj d.sec.attseq
  else if off < 10 then roObj (digWord nv.opkdig (off - 2))
  else if off = 10 then roObj d.sec.authc.toNat
  else if off = 11 then roObj d.sec.krefn.toNat
  else if off < 16 then rsvd
  else if 0x100 ≤ off && off < 0x140 then
    let p := (off - 0x100) / 16
    let x := d.part p
    let i := off % 16
    perPart d p (if i = 0 then some {
        val := x.encreq * 2 ^ 28 + d.gens 4 p, resv := mask 27 2, busy := x.started
        write := fun d => d.modPart p (fun x => { x with encreq := bits v 31 28 }) }
      else if i < 9 then some {
        val := digWord x.ksdig (i - 1), busy := d.partHasKeys p
        write := fun d => d.modPart p (fun x => { x with ksdig := setDigWord x.ksdig (i - 1) v }) }
      else rsvd)
  else if 0x200 ≤ off && off < 0x220 then
    let c := off - 0x200
    roObj (d.gens 3 c * 4 + d.gens 2 c) (mask 31 4)
  else none

/-! ## Block 14: power, thermal, black box and electrical (Tables 17-7 and 18-12) -/

/-- The oldest present record's SEQ: the next one when none is present (Table 17-6). -/
def Dev.bbOldest (d : Dev) : Nat :=
  match d.bb.recs with
  | r :: _ => r.seq
  | [] => d.bb.nextSeq

def objPower (d : Dev) (i v : Nat) : Option Obj :=
  let b := d.brd
  match i with
  | 0 => some {
      val := b2n b.psen * 2 ^ 8 + b.retb, resv := mask 31 9, bad := decide (bits v 7 0 < 2)
      write := fun d => d.modBrd (fun b => { b with psen := bit v 8, retb := bits v 7 0 }) }
  | 1 => roObj (b.dieStage * 2 ^ 30 + d.stageBits * 2 ^ 22 + b.deepStage * 2 ^ 20 + b2n b.plim * 2 ^ 19 + b2n b.inhot * 2 ^ 18 +
      b2n (b.stages.any (fun x => x.2.badSensor)) * 2 ^ 17) (mask 16 0)
  | 2 => roObj (b.vinMv % 2 ^ 16) (mask 31 16)
  | 3 => roObj (d.tele 1) (mask 31 16)
  | 4 => roObj (d.tele 2) (mask 31 16)
  | 5 => roObj (d.tele 3 * 2 ^ 16 + d.tele 4)
  | 6 => some {
      val := b2n b.ptpSync * 2 ^ 31 + b.ptpDom * 2 ^ 8 + b2n b.ptpEn, resv := mask 30 16 + mask 7 1
      write := fun d => d.modBrd (fun b => { b with ptpDom := bits v 15 8, ptpEn := bit v 0 }) }
  | 7 => roObj (d.bb.nextSeq % 2 ^ 32)
  | 8 => roObj (d.bb.nextSeq / 2 ^ 32 % 2 ^ 32)
  | 9 => roObj (d.bbOldest % 2 ^ 32)
  | 10 => roObj (d.bbOldest / 2 ^ 32 % 2 ^ 32)
  | 11 => roObj b.bootn
  | 16 => roObj b.stgn.toNat
  | 17 => roObj b.tholdc.toNat
  | 18 => roObj b.uwake.toNat
  | _ => if i < 32 then rsvd else none

def objFrame (d : Dev) (f i : Nat) : Option Obj :=
  let x := d.frame f
  match i with
  | 0 => roObj (x.pstate * 2 ^ 30 + min x.dbeat 0x3FFF * 2 ^ 16 + x.temp.toNat)
  | 1 => roObj x.power.toNat (mask 31 16)
  | 2 => roObj (x.euj.toNat % 2 ^ 32)
  | 3 => roObj (x.euj.toNat / 2 ^ 32)
  | 4 => roObj x.cgb.toNat
  | 5 => roObj x.rtb.toNat
  | _ => rsvd

def objSps (state : Nat) (temp power : BitVec 16) (e : BitVec 64) (i : Nat) : Option Obj :=
  match i with
  | 0 => roObj (state * 2 ^ 30 + temp.toNat) (mask 29 16)
  | 1 => roObj power.toNat (mask 31 16)
  | 2 => roObj (e.toNat % 2 ^ 32)
  | 3 => roObj (e.toNat / 2 ^ 32)
  | _ => rsvd

/-- CEN written: a cage without power has its port down; CEN from 0 to 1 gives a cut cage its power again (R438, R442). -/
def Dev.setCen (d : Dev) (k : Nat) (on : Bool) : Dev :=
  let d := d.modCage k (fun x => { x with
    cen := on, powered := on && x.prs && (x.powered || !x.cen), ocCut := x.ocCut && (x.cen || !on) })
  if !on && (d.port k).up then d.linkLost k else d

def objCage (d : Dev) (k i v : Nat) : Option Obj :=
  let x := d.cage k
  match i with
  | 0 => some {
      val := x.padv * 2 ^ 8 + b2n x.oc * 8 + b2n x.lpm * 4 + b2n x.cen * 2 + b2n x.prs, resv := mask 31 16 + mask 7 4
      write := fun d =>
        let d := d.modCage k (fun x => { x with oc := x.oc && !(bit v 3) })
        d.setCen k (bit v 1) }
  | 1 => roObj x.power.toNat (mask 31 16)
  | _ => rsvd

def objThermal (d : Dev) (off v : Nat) : Option Obj :=
  let b := d.brd
  if off < 0x20 then objPower d off v
  else if 0x100 ≤ off && off < 0x1A0 then objFrame d ((off - 0x100) / 8) (off % 8)
  else if 0x200 ≤ off && off < 0x240 then
    let x := (off - 0x200) / 8
    if x < 4 then objSps (d.sup x).pstate (d.sup x).temp (d.sup x).power (d.sup x).euj (off % 8) else rsvd
  else if 0x240 ≤ off && off < 0x248 then objSps b.deepPstate (Store.get 0#16 b.telem 8) b.deepPower b.deepEuj (off % 8)
  else if 0x300 ≤ off && off < 0x320 then objCage d ((off - 0x300) / 4) (off % 4) v
  else if 0x340 ≤ off && off < 0x350 then
    match off - 0x340 with
    | 0 => roObj (d.tele 5) (mask 31 16)
    | 1 => roObj (b2n b.huok * 2 ^ 31 + d.tele 6) (mask 30 16)
    | 2 => roObj (b2n b.ovlo * 8 + b2n b.uvw * 4 + b2n b.sb12 * 2 + b2n b.enable) (mask 31 4)
    | _ => rsvd
  else none

/-! ## Block 15: beats (Table 6-5) -/

def objBeats (d : Dev) (p i v : Nat) : Option Obj :=
  let x := d.part p
  let st := d.partStamp p
  perPart d p (match i with
  | 0 => roObj (x.beat % 2 ^ 32)
  | 1 => roObj (x.beat / 2 ^ 32 % 2 ^ 16) (mask 31 16)
  | 2 => roObj (if x.stopped then 0 else st.step)
  | 3 => roObj ((if x.stopped then 0 else st.phase) * 2 ^ 16 + b2n x.hold * 4 + b2n x.bact * 2 + b2n (x.started && !x.stopped)) (mask 15 3)
  | 4 => roObj x.strn.toNat
  | 5 => roObj x.strc.toNat
  | 6 => roObj x.holdc.toNat
  | 7 => roObj (x.lastCause * 2 ^ 5 + x.lastFrame) (mask 31 7)
  | 8 => roObj x.drep (mask 30 5)
  | 9 => some {
      val := x.btoexp, resv := mask 31 5, bad := decide (bits v 4 0 < 16) || decide (28 < bits v 4 0)
      write := fun d => d.modPart p (fun x => { x with btoexp := bits v 4 0 }) }
  | _ => rsvd)

/-! ## One access (R319, R320) -/

/-- The object a key names, as an access that writes `v` finds it; none for an unknown key (R319). A key above 24 bits lies
in no block. -/
def objAt (nv : NonVol) (d : Dev) (key v : Nat) : Option Obj :=
  let off := key % 2 ^ 18
  match key / 2 ^ 18 with
  | 0 => objIdent nv d off
  | 1 => if off < 0x100 then objQueue d (off / 4) (off % 4)
         else if 0x200 ≤ off && off < 0x428 then objChan d ((off - 0x200) / 8) (off % 8) v else none
  | 2 => if off < 0x1400 then objCtl d (off / 16) (off % 16) else none
  | 3 => if off < 0xA00 then objMx d (off / 8) (off % 8) v else none
  | 4 => if off < 0xA00 then objVx d (off / 8) (off % 8) v else none
  | 5 => if off < 0x5000 then objStream d (off / 64) (off % 64) v
         else if 0x8000 ≤ off && off < 0x8010 then objStreams d (off - 0x8000) v else none
  | 6 => if off < 0x20 then objTier d off v
         else if 0x100 ≤ off && off < 0x150 then objDev nv d ((off - 0x100) / 16) (off % 16)
         else if 0x200 ≤ off && off < 0x240 then (if off % 4 = 3 then rsvd else cntObj d.tiers.combCnt (off - 0x200)) else none
  | 7 => if off < 0x40 then objRecompute d (off / 16) (off % 16) else none
  | 8 => objSlice d off v
  | 9 => objFabric d off v
  | 10 => objContexts d off v
  | 11 => if off < 0x100 then objRecovery d (off / 64) (off % 64) v else none
  | 12 => objBring nv d off
  | 13 => objSec nv d off v
  | 14 => objThermal d off v
  | 15 => if off < 0x40 then objBeats d (off / 16) (off % 16) v else none
  | _ => none

/-- The key of TMLO, whose read captures the entry (Table 8-13). -/
def tmloKey : Nat := 0x180001

def Dev.captureTm (d : Dev) : Dev :=
  d.modTiers (fun t => { t with tmhi := BitVec.ofNat 32 ((Store.get {} t.map t.tmsel).word / 2 ^ 32) })

/-- A read: its value, and the state after it; none for an unknown key. -/
def paramRead (nv : NonVol) (d : Dev) (key : Nat) : Option (Nat × Dev) :=
  match objAt nv d key 0 with
  | none => none
  | some o => some (o.val % 2 ^ 32, if key = tmloKey then d.captureTm else d)

/-- The status of a write, and the state after it: unknown key, reserved field, busy, range, in that order (R320). -/
def paramWrite (nv : NonVol) (d : Dev) (key v : Nat) : Nat × Dev :=
  match objAt nv d key v with
  | none => (0x0006, d)
  | some o =>
    if v &&& o.resv ≠ 0 then (0x0004, d)
    else if o.busy then (0x0007, d)
    else if o.bad then (0x0005, d)
    else (0, o.write d)

/-- The partition whose own objects a key names (R402: the objects that the owning chapters give per partition). -/
def keyPart (key : Nat) : Option Nat :=
  let off := key % 2 ^ 18
  match key / 2 ^ 18 with
  | 7 => if off < 0x40 then some (off / 16) else none
  | 9 => if 0x240 ≤ off && off < 0x244 then some (off - 0x240) else none
  | 10 => if 0x100 ≤ off && off < 0x140 then some ((off - 0x100) / 16) else none
  | 11 => if off < 0x100 then some (off / 64) else none
  | 13 => if 0x100 ≤ off && off < 0x140 then some ((off - 0x100) / 16) else none
  | 15 => if off < 0x40 then some (off / 16) else none
  | _ => none

/-! ## Rows of their own -/

/-- One write as a command of its own: a refused one changes nothing. -/
def writeExec (s : State) (key v : Nat) : Out := .next { s with dev := (paramWrite s.nv s.dev key v).2 }

/-- PARAMETER_WRITE (R320). -/
def execParameterWrite (key : Nat) (value : Word32) (s : State) : Out := writeExec s key value.toNat

/-- FTCMT (R295, R302). -/
def execFtcmt (value : Word32) (s : State) : Out := writeExec s 0x240209 value.toNat

/-- PTCMT (R298, R302). -/
def execPtcmt (value : Word32) (s : State) : Out := writeExec s 0x24021D value.toNat

/-- PCFG_MODE_WRITE (R328). -/
def execPcfgModeWrite (value : Word32) (s : State) : Out := writeExec s 0x280000 value.toNat

/-- CEN_WRITE: a write of a cage's CGSTAT (R442). -/
def execCenWrite (cage : Nat) (value : Word32) (s : State) : Out :=
  if nCages ≤ cage then .fault .noSuchUnit else writeExec s (0x380300 + 4 * cage) value.toNat

end Sys2Proof.Machine
end

