-- ==== Sys2Proof/Machine/Security.lean ====
section
/-! DEFINITION. Command packets under keys, and who may send what: request and reply headers, keys, nonces, required
encryption, scope and authority (R305, R307, R393 to R396, R402). -/

namespace Sys2Proof.Machine
open Sys2Proof

/-! ## Headers as GCM authenticates them (Table 12-1, R394) -/

def reqAad (h : CmdHdr) : List Byte :=
  toBe 4 (h.ver * 2 ^ 28 + h.cls * 2 ^ 24 + h.kind * 2 ^ 20 + b2n h.enc * 2 ^ 15) ++ toBe 2 h.opcode ++ toBe 2 h.queue ++
  toBe 4 h.seq ++ toBe 4 h.plen ++ toBe 4 h.tag ++ toBe 4 (h.hrank * 65536) ++ List.replicate 24 0#8 ++
  toBe 4 (h.keyid * 65536) ++ toBe 12 h.iv

def replyAad (r : Reply) : List Byte :=
  toBe 4 (0x11100000 + b2n (r.keyid != 0) * 2 ^ 15) ++ toBe 2 r.opcode ++ toBe 2 r.queue ++ toBe 4 r.cseq ++
  toBe 4 (r.status * 65536 + r.payload.length) ++ toBe 4 r.tag ++ toBe 4 r.mstate ++
  toBe 4 (r.pmap % 2 ^ 32) ++ toBe 4 (r.pmap / 2 ^ 32 % 2 ^ 32) ++
  ((List.range 4).map (fun i => toBe 4 (r.pmap / 2 ^ (64 + 32 * i) % 2 ^ 32))).flatten ++
  toBe 4 (r.keyid * 65536) ++ toBe 12 r.iv

/-- The nonce of what the module originates under a key (R394). -/
def modNonce (n : Nat) : Nat := 0xFFFFFFFF * 2 ^ 64 + n

def keyidKind (k : Nat) : Nat := bits k 15 12
def keyidGen (k : Nat) : Nat := bits k 11 11
def keyidIx (k : Nat) : Nat := bits k 4 0

def Dev.setKey (d : Dev) (kind ix gen : Nat) (k : Option Key) : Dev :=
  d.modSec (fun s => { s with keys := Store.set none s.keys (keyKey kind ix gen) k })
def Dev.modKey (d : Dev) (kind ix gen : Nat) (f : Key → Key) : Dev :=
  match d.key kind ix gen with
  | some k => d.setKey kind ix gen (some (f k))
  | none => d

/-- The key that a KEYID names, when it is installed (R393). -/
def Dev.keyOf (d : Dev) (keyid : Nat) : Option Key :=
  if keyidKind keyid = 0 || 4 < keyidKind keyid || bits keyid 10 5 != 0 then none
  else d.key (keyidKind keyid) (keyidIx keyid) (keyidGen keyid)

/-- A reply sealed under the key that a KEYID names, as `d0` holds it; in the clear without one (R394, R396). -/
def Dev.sealReply (d0 d : Dev) (r : Reply) (keyid : Nat) : Reply × Dev :=
  match d0.keyOf keyid with
  | none => (r, d)
  | some k =>
    let r : Reply := { r with keyid := keyid, iv := modNonce k.modIv }
    let body := Config.gcmSeal k.bytes r.iv (replyAad r) r.payload
    ({ r with payload := body }, d.modKey (keyidKind keyid) (keyidIx keyid) (keyidGen keyid) (fun k => { k with modIv := k.modIv + 1 }))

/-! ## Payload shapes (Table 12-4) -/


/-- States in which an opcode is accepted (R312): 0 M, 1 D, 2 R. -/
def opStates (op : Nat) : Option Nat :=
  match op with
  | 0x01 | 0x80 => some 0
  | 0x02 | 0x10 | 0x60 | 0x61 | 0x70 | 0x90 => some 1
  | 0x11 | 0x12 | 0x20 | 0x21 | 0x30 | 0x31 | 0x32 | 0x40 | 0x41 | 0x42 | 0x43 | 0x50 | 0x51 | 0x52 | 0x53 | 0x62 | 0x63
  | 0xA0 | 0xA1 | 0xA2 | 0xB0 | 0xB1 => some 2
  | _ => none

def stateOk (st : ModState) (k : Nat) : Bool :=
  match st with
  | .ready => true
  | .degraded => decide (k ≤ 1)
  | .minimal => k == 0
  | _ => false

/-- PLEN fits the opcode, and every count is in its range (status 0x0003 otherwise). -/
def plenOk (op : Nat) (b : List Byte) : Bool :=
  let n := b.length
  match op with
  | 0x01 => n == 0
  | 0x02 => decide (n ≤ 8192)
  | 0x10 => n % 4 == 0 && decide (4 ≤ n) && decide (n ≤ 1024)
  | 0x11 | 0x12 => n % 8 == 0 && decide (8 ≤ n) && decide (n ≤ 2048)
  | 0x20 | 0x21 | 0x42 | 0x43 | 0x90 | 0xB1 => n == 4
  | 0x30 => n == 16 && decide (1 ≤ wordAt b 12) && decide (wordAt b 12 ≤ 8192)
  | 0x31 => decide (13 ≤ n)
  | 0x32 => n == 12 && decide (wordAt b 8 ≤ 4095)
  | 0x40 => n == 132
  | 0x41 => decide (9 ≤ n)
  | 0x50 => n == 20
  | 0x51 | 0x61 | 0xB0 => n == 8
  | 0x80 => n == 8 && decide (1 ≤ wordAt b 4) && decide (wordAt b 4 ≤ 32)
  | 0x52 | 0x60 | 0x62 | 0x63 => n == 12
  | 0x53 => decide (16 ≤ n) && n == 16 + 4 * ((List.range 16).filter (bit (wordAt b 12))).length
  | 0x70 => n == 32
  | 0xA0 => n == 32
  | 0xA1 => n == 335
  | 0xA2 => n == 299
  | _ => false

/-- Every reserved field and bit of the payload is 0 (status 0x0004 otherwise). -/
def resvOk (op : Nat) (b : List Byte) : Bool :=
  let z (w m : Nat) : Bool := w &&& m == 0
  let part := z (wordAt b 0) (mask 31 2)
  let ctx := z (wordAt b 0) (mask 31 5)
  match op with
  | 0x20 => z (wordAt b 0) (mask 7 6 + mask 15 10 + mask 30 21)
  | 0x21 => z (wordAt b 0) (mask 31 6)
  | 0x30 | 0x31 | 0xB1 => ctx
  | 0x32 => z (wordAt b 0) (mask 7 5 + mask 15 12 + mask 31 18)
  | 0x40 | 0x41 | 0x42 | 0x43 | 0x51 | 0x61 | 0x63 => part
  | 0x50 => part && z (wordAt b 16) (mask 31 16)
  | 0x52 | 0x62 => part && z (wordAt b 4) (mask 31 16)
  | 0x53 => part && z (wordAt b 4) (mask 15 4 + mask 23 17) && z (wordAt b 12) (mask 31 16)
  | 0x60 => part && z (wordAt b 4) (mask 31 16) && z (wordAt b 8) (mask 31 1)
  | 0x70 => part && z (wordAt b 24) (mask 31 16) && z (wordAt b 28) (mask 31 16)
  | 0x90 => z (wordAt b 0) (mask 15 2 + mask 31 25)
  | 0xA1 => z (wordAt b 0) (mask 23 21 + mask 31 25) && wordAt b 12 == 0
  | 0xA2 => wordAt b 28 == 0
  | 0xB0 => ctx && z (wordAt b 4) (mask 31 2)
  | _ => true

def hasPart (op : Nat) : Bool :=
  [0x40, 0x41, 0x42, 0x43, 0x50, 0x51, 0x52, 0x53, 0x60, 0x61, 0x62, 0x63, 0x70].contains op
def hasCtx (op : Nat) : Bool := [0x30, 0x31, 0x32, 0xB0, 0xB1].contains op

def rstLevel (b : List Byte) : Nat := bits (wordAt b 0) 1 0
def rstTarget (b : List Byte) : Nat := bits (wordAt b 0) 24 16
def qbQueue (b : List Byte) : Nat := bits (wordAt b 0) 5 0
def qbPart (b : List Byte) : Nat := bits (wordAt b 0) 9 8
def qbCtx (b : List Byte) : Nat := bits (wordAt b 0) 20 16
def qbUnbind (b : List Byte) : Bool := bit (wordAt b 0) 31
def krType (b : List Byte) : Nat := leAt b 0 2
def krTarget (b : List Byte) : Nat := bits (leAt b 2 2) 4 0
def krGen (b : List Byte) : Nat := bits (leAt b 2 2) 8 8

/-- The keys that a PREAD, PWRITE or PSWAP names. -/
def keysOf (op : Nat) (b : List Byte) : List Nat :=
  let w := if op = 0x10 then 4 else 8
  (List.range (b.length / w)).map (fun i => wordAt b (w * i))

/-! ## Scope (R307, R329) -/

/-- The partition that a queue belongs to: the one it is bound to, or the one whose range holds it (Table 13-1). -/
def Dev.queuePart (d : Dev) (q : Nat) : Nat :=
  if (d.queue q).bound then (d.queue q).part else if d.brd.pcfgMode then q / 16 else 0

/-- A request on a partition's queue acts outside it: status 0x0008. On the main path partition 0 holds every resource
(R328; notes/assumptions/33). An UNBIND names no context, and objects of the whole module may be read from every queue
(notes/assumptions/33). -/
def Dev.outOfScope (d : Dev) (q op : Nat) (b : List Byte) : Bool :=
  if q = 0 then false
  else
    let p := (d.queue q).part
    let c := (d.queue q).ctx
    if hasPart op then wordAt b 0 != p
    else if hasCtx op then bits (wordAt b 0) 4 0 != c
    else match op with
      | 0x20 => qbPart b != p || (!(qbUnbind b) && qbCtx b != c)
      | 0x21 => qbQueue b == 0 || d.queuePart (qbQueue b) != p
      | 0x90 => match rstLevel b with
        | 0 => !(d.inPart p (rstTarget b))
        | 1 => d.framePart (rstTarget b) != some p
        | 2 => rstTarget b != p
        | _ => true
      | 0x10 | 0x11 | 0x12 => (keysOf op b).any (fun k => match keyPart k with
        | some r => r != p
        | none => op != 0x10 && d.brd.pcfgMode)
      | 0xA1 => match krType b with
        | 1 | 2 => krTarget b != c
        | 3 => krTarget b != p
        | _ => true
      | 0xA2 => true
      | _ => false

/-! ## Authority (R402, Table 16-8) -/

/-- Operator authority: the request came under an operator session key. -/
def Cmd.operator (c : Cmd) : Bool := c.key.map (·.1) == some 1

/-- Context authority for context x. MEMWRITE also under x's content key (Table 16-3; notes/assumptions/34). -/
def Dev.ctxAuth (d : Dev) (c : Cmd) (x : Nat) : Bool :=
  c.operator || c.key == some (3, x) || (c.hdr.opcode == 0x31 && c.key == some (2, x)) ||
  (!(d.hasKey 3 x) && c.key == none && c.hdr.queue != 0 && (d.queue c.hdr.queue).part == d.partOfCtx x)

def Dev.partAuth (d : Dev) (c : Cmd) (p : Nat) : Bool :=
  c.operator || (List.range nCtxs).any (fun x => d.partOfCtx x == p && d.ctxAuth c x)

/-- The request has the authority that its opcode needs while OPEN is 0. -/
def Dev.authorised (d : Dev) (c : Cmd) : Bool :=
  let op := c.hdr.opcode
  let b := c.payload
  if op = 0x70 then d.ctxAuth c (keyidIx (wordAt b 28))
  else if hasCtx op then d.ctxAuth c (bits (wordAt b 0) 4 0)
  else if hasPart op then d.partAuth c (wordAt b 0)
  else match op with
    | 0x20 => d.partAuth c (qbPart b)
    | 0x21 => if qbQueue b = 0 then c.operator else d.partAuth c (d.queuePart (qbQueue b))
    | 0x11 | 0x12 => match (keysOf op b).map keyPart with
      | some p :: r => if r.all (· == some p) then d.partAuth c p else c.operator
      | _ => c.operator
    | 0x90 | 0xA2 => c.operator
    | _ => true

/-- PART or CTX of a request names something that the present mode does not have: status 0x0005. -/
def Dev.noSuchTarget (d : Dev) (op : Nat) (b : List Byte) : Bool :=
  if hasPart op then !(d.partExists (wordAt b 0))
  else match op with
    | 0x20 => !(qbUnbind b) && (!(d.partExists (qbPart b)) || d.partOfCtx (qbCtx b) != qbPart b)
    | 0x90 => match rstLevel b with
      | 0 => decide (nCores ≤ rstTarget b)
      | 1 => decide (nFrames ≤ rstTarget b)
      | 2 => !(d.partExists (rstTarget b))
      | _ => rstTarget b != 0
    | _ => false

/-- What every opcode is refused for before its own rules: unknown opcode, state, PLEN, reserved field, scope, authority,
a target that does not exist. The manual gives no order of these (notes/assumptions/35). 0 when none applies. -/
def refuse (nv : NonVol) (d : Dev) (c : Cmd) : Nat :=
  let op := c.hdr.opcode
  match opStates op with
  | none => 0x0002
  | some k =>
    if !(stateOk d.brd.state k) then 0x000A
    else if !(plenOk op c.payload) then 0x0003
    else if !(resvOk op c.payload) then 0x0004
    else if d.outOfScope c.hdr.queue op c.payload then 0x0008
    else if !nv.opened && !(d.authorised c) then 0x000B
    else if d.noSuchTarget op c.payload then 0x0005
    else 0

/-! ## Encrypted requests (R393, R394, R396) -/

/-- The class of requests of the queue's partition must be encrypted (Table 16-3). -/
def Dev.needsEnc (d : Dev) (q : Nat) : Bool := q != 0 && (d.queue q).bound && bit (d.part (d.queue q).part).encreq 3

/-- Under a required class, the session key of the bound context, or its content key for MEMWRITE. -/
def Dev.rightKey (d : Dev) (h : CmdHdr) : Bool :=
  let c := (d.queue h.queue).ctx
  keyidIx h.keyid == c && (keyidKind h.keyid == 3 || (keyidKind h.keyid == 2 && h.opcode == 0x31))

/-- Authenticate a command packet: the plaintext, or nothing. -/
def Dev.openCmd (d : Dev) (h : CmdHdr) (payload : List Byte) : Option (List Byte) :=
  let need := h.kind == 0 && d.needsEnc h.queue
  if !h.enc then if need then none else some payload
  else if need && !(d.rightKey h) then none
  else match d.keyOf h.keyid with
    | some k => Config.gcmOpen k.bytes h.iv (reqAad h) payload
    | none => none

/-- The counter rule: bits [95:64] are not the module's own, and the rest exceeds the last request's (R394). -/
def ivOk (k : Key) (iv : Nat) : Bool :=
  iv / 2 ^ 64 % 2 ^ 32 != 0xFFFFFFFF && (match k.hostIv with
    | some n => decide (n < iv % 2 ^ 64)
    | none => true)

/-- A request that breaks the counter rule: no reply, AUTHC counts it, 0x0D03 reports it at most once a second per key
(R394, R407; notes/assumptions/25). -/
def Dev.replayed (d : Dev) (h : CmdHdr) : Dev :=
  let d := d.modSec (fun s => { s with authc := s.authc + 1 })
  match d.keyOf h.keyid with
  | none => d
  | some k => d.limited 0x0D03 (d.queuePart h.queue) k.replays
      (fun v d => d.modKey (keyidKind h.keyid) (keyidIx h.keyid) (keyidGen h.keyid) (fun k => { k with replays := v }))

end Sys2Proof.Machine
end

