-- ==== Sys2Proof/Machine/Protocol.lean ====
section
/-! DEFINITION. The command protocol (chapter 12): packets, queues and replies, events and their acknowledgement, the
completion of background commands, and the opcodes that act on queues, parameters, memory and contexts. -/

namespace Sys2Proof.Machine
open Sys2Proof

def onQueue (s : State) (q : Nat) (r : Out) : Out := if q < nQueues then r else let _ := s; .fault .noSuchUnit

/-- The module listens to command packets (Table 1-6); in Minimal boot without a usable MAC on network B it answers nothing
(R372). -/
def Dev.listens (d : Dev) : Bool := d.brd.state == .ready || d.brd.state == .degraded ||
  (d.brd.state == .minimal && (List.range' 4 4).any (fun e => !((d.port e).dead)))

/-! ## Replies (R305, R308, R311) -/

/-- What a command answers. `keyid` names a key other than the request's (Table 16-3); `cache` is off for a command that reset
its own queue (R308). -/
structure Ans where
  status : Nat := 0
  payload : List Byte := []
  pmap : Nat := 0
  keyid : Option Nat := none
  cache : Bool := true
  deriving DecidableEq, Repr

def bad (status : Nat) : Ans := { status := status }

/-- The reply to a request, sealed under the key of the request as `d0` holds it. -/
def Dev.replyTo (d0 d : Dev) (c : Cmd) (a : Ans) (retry : Bool) : Reply × Dev :=
  let r : Reply := { dst := c.src, ip := d.ipHdr 1 6 c.src, queue := c.hdr.queue, cseq := c.hdr.seq, opcode := c.hdr.opcode, status := a.status,
                     retry := retry, tag := c.hdr.tag, mstate := modCode d.brd.state, pmap := a.pmap, payload := a.payload }
  sealReply d0 d r (match a.keyid with
    | some k => k
    | none => if c.hdr.enc then c.hdr.keyid else 0)

/-- A reply outside the sequence: not cached, NEXT unchanged (R307, R308). -/
def Dev.replyOnly (d : Dev) (c : Cmd) (status : Nat) : Dev :=
  let x := d.replyTo d c (bad status) false
  x.2.sendCmd c.src (.reply x.1)

/-- A command of the queue has executed: its reply is sent and cached, NEXT advances (R308). -/
def Dev.replied (d0 d : Dev) (q : Nat) (c : Cmd) (a : Ans) : Dev :=
  let x := d0.replyTo d c a false
  (x.2.sendCmd c.src (.reply x.1)).modQueue q (fun y =>
    let y := { y with cur := none, pos := 0, qcmd := y.qcmd + 1 }
    if a.cache then
      let l := y.cache ++ [{ req := c.hdr, body := c.payload, reply := x.1 }]
      { y with next := (y.next + 1) % 2 ^ 32, cache := l.drop (l.length - 16) }
    else y)

/-- A command takes its turn: an opcode that Table 12-4 does not hold is answered at once, any other waits for its row. -/
def Dev.take (d : Dev) (q : Nat) (c : Cmd) : Dev :=
  if (opStates c.hdr.opcode).isNone then d.replied d q c (bad 0x0002)
  else d.modQueue q (fun x => { x with cur := some c })

/-- Held commands that are now in order execute (R308). -/
def Dev.takeHeld : Nat → Dev → Nat → Dev
  | 0, d, _ => d
  | f + 1, d, q =>
    let x := d.queue q
    if x.cur.isSome then d
    else match x.heldc.find? (fun c => c.hdr.seq == x.next) with
      | none => d
      | some c => takeHeld f ((d.modQueue q (fun y => { y with heldc := y.heldc.filter (fun e => e.hdr.seq != x.next) })).take q c) q

/-- The queue's command has executed. -/
def Dev.finish (d0 d : Dev) (q : Nat) (c : Cmd) (a : Ans) : Dev := Dev.takeHeld 16 (d0.replied d q c a) q

/-- Round-robin service in ascending queue order (R309): of the queues that have a command, queue q comes first after the one
served last. -/
def Dev.myTurn (d : Dev) (q : Nat) : Bool :=
  let rank (r : Nat) : Nat := (r + 2 * nQueues - 1 - d.qserved) % nQueues
  (List.range nQueues).all (fun r => decide (rank q ≤ rank r) || (d.queue r).cur.isNone)

/-- Execute the command of queue q when its turn has come and the command is one of opcode `op` for which `mine` holds. What every
opcode is refused for comes first. Where `f` answers nothing the command has to wait, and the next queue has its turn. While the
record queue is full the queen executes no command (R423). -/
def runOp (s : State) (q op : Nat) (mine : Cmd → Bool) (f : Cmd → State → Option Ans × State) : Out :=
  onQueue s q (
    match (s.dev.queue q).cur with
    | none => .next s
    | some c =>
      if c.hdr.opcode != op || decide (bbDepth ≤ s.dev.bb.queue.length) || !(s.dev.myTurn q) then .next s
      else
        let st := refuse s.nv s.dev c
        if st == 0 && !(mine c) then .next s
        else
          let s := { s with dev := { s.dev with qserved := q } }
          if st != 0 then .next { s with dev := s.dev.finish s.dev q c (bad st) }
          else match f c s with
            | (none, t) => .next t
            | (some a, t) => .next { t with dev := s.dev.finish t.dev q c a })

/-- The common case: a command that acts on the device and always completes. -/
def devOp (s : State) (q op : Nat) (f : Cmd → Dev → Ans × Dev) : Out :=
  runOp s q op (fun _ => true) (fun c s => let r := f c s.dev; (some r.1, { s with dev := r.2 }))

/-- A background command (R309): accepted, and remembered until its completion event. -/
def Dev.startJob (d : Dev) (c : Cmd) (part ctx : Nat) (done : Bool) (status : Nat) (detail : List Nat) (lock : Bool) : Ans × Dev :=
  ({ status := 0x0001 },
   { d with jobs := d.jobs ++ [{ queue := c.hdr.queue, cseq := c.hdr.seq, opcode := c.hdr.opcode, part := part, ctx := ctx,
                                 done := done, status := status, detail := detail, lock := lock }] })

/-- The partition lock is held (R310). -/
def Dev.locked (d : Dev) (p : Nat) : Bool :=
  let x := d.part p
  x.load.isSome || x.resetDue || d.jobs.any (fun j => j.part == p && j.lock)

/-! ## Packets and sequencing (R305, R307, R308, R394) -/

/-- A packet that is discarded and counted in RXD (R305, R393). -/
def badCmd (net : Nat) (h : CmdHdr) (udpLen : Nat) (payload : List Byte) : Bool :=
  net == 0 || h.ver != 1 || h.cls != 1 || !(h.kind == 0 || h.kind == 3) || h.rsv || decide (8192 < h.plen) ||
  udpLen != h.plen + (if h.enc then 80 else 64) || payload.length != h.plen + (if h.enc then 16 else 0) ||
  (!h.enc && (h.keyid != 0 || h.iv != 0)) || decide ((if h.kind = 0 then 63 else 68) < h.queue)

/-- The same request, apart from RETRY. -/
def sameReq (a b : CmdHdr) : Bool := decide ({ a with retry := false } = { b with retry := false })

/-- R308 answers this request from the reply cache (R394's exception). -/
def Dev.fromCache (d : Dev) (h : CmdHdr) (body : List Byte) : Bool :=
  (d.queue h.queue).cache.any (fun e => sameReq e.req h && e.body == body)

/-- Acknowledge every event of a channel below `seq`, from the oldest on (R323); a number exactly 2^31 ahead of the oldest
acknowledges nothing (R444). -/
def Dev.ackEvents (d : Dev) (ch seq : Nat) : Dev :=
  (d.modChan ch (fun c => { c with unacked := c.unacked.dropWhile (fun e => serialLater 32 seq (e.seq % 2 ^ 32)) })).tellLost ch

/-- A request in the queue's window (R307, R308). -/
def Dev.request (d : Dev) (q : Nat) (c : Cmd) : Dev :=
  let x := d.queue q
  let same (y : Cmd) : Bool := y.hdr.opcode == c.hdr.opcode && y.payload == c.payload
  if q != 0 && (!x.bound || x.binder != c.src) then d.replyOnly c 0x0008
  else
    let k := (c.hdr.seq + 2 ^ 32 - x.next) % 2 ^ 32
    if k = 0 then
      match x.cur with
      | none => Dev.takeHeld 16 (d.take q c) q
      | some y => if same y then d else d.replyOnly c 0x0009
    else if k ≤ 15 then
      match x.heldc.find? (fun y => y.hdr.seq == c.hdr.seq) with
      | none => d.modQueue q (fun x => { x with heldc := x.heldc ++ [c] })
      | some y => if same y then d else d.replyOnly c 0x0009
    else
      match x.cache.find? (fun e => e.req.seq == c.hdr.seq) with
      | none => d.replyOnly c 0x0009
      | some e =>
        if e.req.opcode != c.hdr.opcode then d.replyOnly c 0x0009
        else (d.modQueue q (fun x => { x with qrty := x.qrty + 1 })).sendCmd e.reply.dst (.reply { e.reply with retry := true })

/-- A command packet (R305). -/
def Dev.cmdPacket (d : Dev) (net src : Nat) (h : CmdHdr) (udpLen : Nat) (payload : List Byte) : Dev :=
  if !d.listens then d
  else
    let d := d.modNet net (netCnt 13 1)
    if badCmd net h udpLen payload then d.rxd net
    else match d.openCmd h payload with
    | none => d.authFail net (d.queuePart h.queue)
    | some body =>
      if h.kind = 3 then d.ackEvents h.queue h.seq
      else
        let c : Cmd := { hdr := h, src := src, payload := body
                         key := if h.enc then some (keyidKind h.keyid, keyidIx h.keyid) else none }
        match (if h.enc then d.keyOf h.keyid else none) with
        | none => d.request h.queue c
        | some k =>
          if d.fromCache h body then d.request h.queue c
          else if !(ivOk k h.iv) then d.replayed h
          else (d.modKey (keyidKind h.keyid) (keyidIx h.keyid) (keyidGen h.keyid)
                  (fun k => { k with hostIv := some (h.iv % 2 ^ 64) })).request h.queue c

/-- COMMAND_PACKET_RECEIVE (R308). -/
def execCommandPacketReceive (net src : Nat) (h : CmdHdr) (udpLen : Nat) (payload : List Byte) (s : State) : Out :=
  onNet s net (fun d => d.cmdPacket net src h udpLen payload)

/-! ## Events (R323) and completions (R309) -/

/-- EVENT_ACKNOWLEDGEMENT (R323). -/
def execEventAcknowledgement (channel seq : Nat) (s : State) : Out :=
  s.onUnit (decide (channel < nChans)) (fun d => if d.listens then d.ackEvents channel (seq % 2 ^ 32) else d)

/-- EVENT_RESEND: every EVRTO, each unacknowledged event again, in SEQ order (R323). -/
def execEventResend (channel : Nat) (s : State) : Out :=
  s.onUnit (decide (channel < nChans)) (fun d =>
    let c := d.chan channel
    if c.en && d.sends then c.unacked.foldl (fun d e => d.sendEvent channel e) d else d)

/-! ## Identity, parameters and queues (R307, R320, R321) -/

/-- IDENT (R312). -/
def execIdent (q : Nat) (s : State) : Out :=
  devOp s q 0x01 (fun _ d => ({ payload := ((List.range 5).map (fun i => toLe 4 (identVal s.nv d i))).flatten }, d))

/-- ECHO (R312). -/
def execEcho (q : Nat) (s : State) : Out := devOp s q 0x02 (fun c d => ({ payload := c.payload }, d))

/-- Read keys in order up to the first refused one: the status, the values, the state. -/
def readKeys (nv : NonVol) : List Nat → Dev → List Nat → Nat × List Nat × Dev
  | [], d, vs => (0, vs, d)
  | k :: r, d, vs => match paramRead nv d k with
    | none => (0x0006, vs, d)
    | some x => readKeys nv r x.2 (vs ++ [x.1])

def words4 (l : List Nat) : List Byte := (l.map (toLe 4)).flatten

/-- PREAD (R320). -/
def execPread (q : Nat) (s : State) : Out :=
  devOp s q 0x10 (fun c d =>
    let r := readKeys s.nv (keysOf 0x10 c.payload) d []
    ({ status := r.1, payload := words4 r.2.1 }, r.2.2))

/-- Write entries in order up to the first refused one: the status, the values before each write, the state. A swap of
TMLO reads it. -/
def writeKeys (nv : NonVol) (swap : Bool) : List (Nat × Nat) → Dev → List Nat → Nat × List Nat × Dev
  | [], d, vs => (0, vs, d)
  | (k, v) :: r, d, vs =>
    let old := match objAt nv d k 0 with
      | some o => o.val % 2 ^ 32
      | none => 0
    let x := paramWrite nv d k v
    if x.1 ≠ 0 then (x.1, vs, d)
    else writeKeys nv swap r (if swap && k == tmloKey then x.2.captureTm else x.2) (vs ++ [old])

def entriesOf (b : List Byte) : List (Nat × Nat) :=
  (List.range (b.length / 8)).map (fun i => (wordAt b (8 * i), wordAt b (8 * i + 4)))

/-- PWRITE (R320). -/
def execPwrite (q : Nat) (s : State) : Out :=
  devOp s q 0x11 (fun c d =>
    let r := writeKeys s.nv false (entriesOf c.payload) d []
    ({ status := r.1, payload := words4 [r.2.1.length, r.1] }, r.2.2))

/-- PSWAP: each entry answers the value before its own write (R17, R320). -/
def execPswap (q : Nat) (s : State) : Out :=
  devOp s q 0x12 (fun c d =>
    let r := writeKeys s.nv true (entriesOf c.payload) d []
    ({ status := r.1, payload := words4 ([r.2.1.length, r.1] ++ r.2.1) }, r.2.2))

/-- NEXT to 0, held commands and the reply cache gone (R308). -/
def CmdQueue.restart (x : CmdQueue) : CmdQueue := { x with next := 0, heldc := [], cache := [] }

/-- QBIND (R307, R323, R329). -/
def execQbind (q : Nat) (s : State) : Out :=
  devOp s q 0x20 (fun c d =>
    let b := c.payload
    let t := qbQueue b
    let x := d.queue t
    if t = 0 then (bad 0x0005, d)
    else if qbUnbind b then
      if !x.bound then ({}, d)
      else if x.part != qbPart b then (bad 0x0008, d)
      else
        let d := d.modQueue t (fun x => { x.restart with bound := false, part := 0, ctx := 0, binder := 0 })
        ({ cache := t != q }, d.modChan t (fun e => { e with en := false, unacked := [] }))
    else if d.brd.pcfgMode && t / 16 != qbPart b then (bad 0x0008, d)
    else if x.bound then (bad 0x0007, d)
    else
      let d := d.modQueue t (fun x => { x with bound := true, part := qbPart b, ctx := qbCtx b, binder := c.src })
      let d := d.modChan t (fun e => { e with
        addr := (List.range 4).foldl (fun m i => Store.set 0 m i (addrWord c.src i)) e.addr, en := true })
      ({}, d.tellLost t))

/-- QRESET (R308). -/
def execQreset (q : Nat) (s : State) : Out :=
  devOp s q 0x21 (fun c d =>
    let t := qbQueue c.payload
    ({ cache := t != q }, d.modQueue t (·.restart)))

/-! ## Memory by command (R313, R403) -/

def mrCtx (b : List Byte) : Nat := bits (wordAt b 0) 4 0
def mrAddr (b : List Byte) : Nat := leAt b 4 8

/-- Every page of the range is private to context c (R403). -/
def Dev.privateRange (d : Dev) (c a n : Nat) : Bool :=
  d.hasKey 3 c && (pagesOf a n).all (fun page => (d.tm page).valid && (d.tm page).ctx == c)

/-- The range lies in the map, below the end of the range of addresses (R189, R192). -/
def Dev.hostRead (d : Dev) (c a n : Nat) : Bool := decide (a + n ≤ uniTop) && d.rangeRead c a n
def Dev.hostWrite (d : Dev) (c a n : Nat) : Bool := decide (a + n ≤ uniTop) && d.rangeWrite c a n
def crossesPage (a n : Nat) : Bool := a / pageBytes != (a + n - 1) / pageBytes

/-- MEMREAD (R313, R403). -/
def execMemread (q : Nat) (s : State) : Out :=
  devOp s q 0x30 (fun c d =>
    let x := mrCtx c.payload
    let a := mrAddr c.payload
    let n := wordAt c.payload 12
    if !(d.hostRead x a n) then (bad 0x000C, d)
    else if crossesPage a n then (bad 0x0005, d)
    else
      let priv := d.privateRange x a n
      let d' := d.countMem x a n false
      let d' := if priv && c.operator then
          d'.event 0x0D07 (d.partOfCtx x) x 0x1FF [a % 2 ^ 32, a / 2 ^ 32, n] else d'
      ({ payload := d.memRead a n
         pmap := (((granules a n).zipIdx).map (fun g => b2n (d.memPoisoned (64 * g.1) 64) * 2 ^ g.2)).sum
         keyid := if priv && c.key != some (3, x) then some (keyId 3 x (d.newestGen 3 x)) else none }, d'))

/-- MEMWRITE (R313, R403). -/
def execMemwrite (q : Nat) (s : State) : Out :=
  devOp s q 0x31 (fun c d =>
    let x := mrCtx c.payload
    let a := mrAddr c.payload
    let bs := c.payload.drop 12
    if c.operator && d.privateRange x a bs.length then (bad 0x000B, d)
    else if !(d.hostWrite x a bs.length) then (bad 0x000C, d)
    else if crossesPage a bs.length then (bad 0x0005, d)
    else ({}, d.uniWriteThrough (d.partOfCtx x) x a bs false))

def plCtx (b : List Byte) : Nat := bits (wordAt b 0) 4 0
def plAct (b : List Byte) : Nat := bits (wordAt b 0) 11 8
def plTgt (b : List Byte) : Nat := bits (wordAt b 0) 17 16
def plPage (b : List Byte) : Nat := wordAt b 4
def plCount (b : List Byte) : Nat := wordAt b 8 + 1

/-- A super that a partition may use (Table 13-1), populated. -/
def Dev.superOf (d : Dev) (p x : Nat) : Bool := decide (x < Config.nSupers) && (!d.brd.pcfgMode || x == p)

/-- The rules of R197 on pages, checked against PLACE (R314). -/
def Dev.placeBad (d : Dev) (b : List Byte) : Bool :=
  let c := plCtx b
  let act := plAct b
  let pages := List.range' (plPage b) (plCount b)
  !([1, 2, 4].contains act) || decide (2 ^ 22 < plPage b + plCount b) ||
  pages.any (fun page => !(d.mapRead c page)) ||
  ((act == 1 || act == 2) && pages.any (fun page => (d.tm page).hint == 3 || (d.tm page).hint == 4)) ||
  (act == 1 && !(d.superOf (d.partOfCtx c) (plTgt b))) ||
  (act == 4 && decide (64 < plCount b)) ||
  (act == 1 && decide (4096 < (d.ctx c).pins.length + (pages.filter (fun page => !((d.ctx c).pins.contains page))).length))

/-- What is left of a PLACE and the state after the part that fits now: pages that enter the migration queue one after another
(R314), or lines of a COMBW, read while miss registers are free (R196, R211). -/
def Dev.placeSome (d : Dev) (b : List Byte) (pos : Nat) : Nat × Dev :=
  match plAct b with
  | 4 => combLines (plCtx b) (1024 * plCount b - pos) (1024 * plPage b + pos) d
  | act =>
    let f (d : Dev) (page : Nat) : Dev := if act = 1 then d.promotePage (plCtx b) (plTgt b) page else d.demotePage (plCtx b) page
    pagesWhile f (plCount b - pos) (plPage b + pos) d

/-- PLACE: what is done of it stays done, and the reply waits until all of it is (R314). -/
def execPlace (q : Nat) (s : State) : Out :=
  runOp s q 0x32 (fun _ => true) (fun c s =>
    let b := c.payload
    let pos := (s.dev.queue q).pos
    if pos = 0 && s.dev.placeBad b then (some (bad 0x0005), s)
    else
      let r := s.dev.placeSome b pos
      let all := (if plAct b = 4 then 1024 else 1) * plCount b
      if r.1 = 0 then (some {}, { s with dev := r.2 })
      else (none, { s with dev := r.2.modQueue q (fun x => { x with pos := all - r.1 }) }))

/-! ## Black box, contexts and accounting (R333, R342, R425) -/

/-- A record's 256 bytes (Table 17-6). -/
def BbRecord.bytes (r : BbRecord) : List Byte :=
  let b := words4 ([0xB8B80100, r.seq % 2 ^ 32, r.seq / 2 ^ 32] ++ (List.range 60).map (fun i => r.words.getD i 0))
  b ++ toLe 4 (Config.crc32c b).toNat

/-- BBREAD (R425). -/
def execBbread (q : Nat) (s : State) : Out :=
  devOp s q 0x80 (fun c d =>
    ({ payload := ((List.range (wordAt c.payload 4)).map (fun i =>
        match d.bb.recs.find? (fun r => r.seq % 2 ^ 32 == (wordAt c.payload 0 + i) % 2 ^ 32) with
        | some r => r.bytes
        | none => List.replicate 256 0#8)).flatten }, d))

/-- CTXSET: CLASS and RUN from the next boundary (R333). A context outside the image is refused (notes/assumptions/37). -/
def execCtxset (q : Nat) (s : State) : Out :=
  devOp s q 0xB0 (fun c d =>
    let x := bits (wordAt c.payload 0) 4 0
    if (d.part (d.partOfCtx x)).image.isNone then (bad 0x000D, d)
    else if !((d.ctx x).inMap) then (bad 0x0005, d)
    else ({}, d.modCtx x (fun y => { y with nextRun := some (bit (wordAt c.payload 4) 1, bit (wordAt c.payload 4) 0) })))

/-- The accounting record (Table 13-6), as of the last release. -/
def Dev.acctRecord (d : Dev) (c : Nat) : List Byte :=
  let x := d.ctx c
  let a := x.shown
  toLe 4 (2 ^ 16 + d.ctxState c * 2 ^ 13 + d.partOfCtx c * 64 + b2n x.latency * 32 + c) ++ toLe 4 a.nsw ++
  ([a.rbeat, a.cbeat, a.mxb, a.vxb, a.srd, a.swr, a.drd, a.dwr, a.natx, a.narx, a.nbtx, a.nbrx, a.euj / 1000, a.swcyc].map
    (toLe 8)).flatten ++ toLe 4 a.prwt ++ toLe 4 a.parkn

/-- ACCTREAD (R342, R403). -/
def execAcctread (q : Nat) (s : State) : Out :=
  devOp s q 0xB1 (fun c d =>
    let x := bits (wordAt c.payload 0) 4 0
    if (d.part (d.partOfCtx x)).image.isNone then (bad 0x000D, d)
    else if !((d.ctx x).inMap) then (bad 0x0005, d)
    else ({ payload := d.acctRecord x
            keyid := if d.hasKey 3 x && c.key != some (3, x) then some (keyId 3 x (d.newestGen 3 x)) else none }, d))

end Sys2Proof.Machine
end

