-- ==== Sys2Proof/Machine/Attestation.lean ====
section
/-! DEFINITION. Attestation and key release (R398 to R400): the report, the checks of KEYREL, operator enrolment, and the end
of a report key. -/

namespace Sys2Proof.Machine
open Sys2Proof

/-- The configuration record (Table 16-5). -/
def configRecord (nv : NonVol) (d : Dev) : List Byte :=
  [BitVec.ofNat 8 (b2n d.brd.pcfgMode), BitVec.ofNat 8 nv.rbc, BitVec.ofNat 8 (b2n nv.opened), 0#8] ++
  toLe 2 (((List.range nParts).map (fun p => (d.part p).encreq % 16 * 16 ^ p)).sum) ++ List.replicate 2 0#8 ++
  slice nv.opkdig 0 32 ++ ((List.range nParts).map (fun p => slice (d.part p).ksdig 0 32)).flatten ++ List.replicate 24 0#8

/-- Bytes 0 to 709 of the attestation report (Table 16-6). -/
def reportBody (nv : NonVol) (d : Dev) (nonce xpub : List Byte) : List Byte :=
  toLe 4 0x54414B48 ++ toLe 4 d.sec.attseq ++ toLe 8 Config.serial.toNat ++ toLe 4 (fwVersion nv d) ++
  toLe 4 (modCode d.brd.state + nv.rbc % 256 * 2 ^ 8 + bitSet nParts (fun p => (d.part p).image.isSome) * 2 ^ 16 + b2n nv.opened * 2 ^ 20) ++
  slice nonce 0 32 ++ slice d.sec.m0 0 32 ++ slice d.sec.m1 0 32 ++ slice d.sec.m2 0 32 ++
  slice (Config.shake256 (configRecord nv d)) 0 32 ++
  ((List.range nParts).map (fun p => slice (Store.get [] d.sec.mImg p) 0 32)).flatten ++
  slice xpub 0 56 ++ slice (Config.ed448Public d.sec.ak) 0 57 ++ slice d.sec.dikPub 0 57 ++ slice d.sec.akCert 0 114 ++
  slice Config.dcert 0 114

/-- ATTEST: a new report number, a fresh report key, the signed report (R399). -/
def execAttest (q : Nat) (s : State) : Out :=
  devOp s q 0xA0 (fun c d =>
    let key := Config.freshReportKey d.freeIx
    let d := { d with freeIx := d.freeIx + 1, sec := { d.sec with attseq := (d.sec.attseq + 1) % 2 ^ 32 } }
    let body := reportBody s.nv d c.payload (Config.x448Public key)
    ({ payload := body ++ slice (Config.ed448Sign d.sec.ak body) 0 114 },
     d.modSec (fun x => { x with report := some (key, Config.shake256 body) })))

/-- REPORT_KEY_EXPIRY: 60 s after the report (R399). -/
def execReportKeyExpiry (s : State) : Out := s.onDev (fun d => d.modSec (fun x => { x with report := none }))

/-! ## KEYREL (R400, Table 16-7) -/

def krAttseq (b : List Byte) : Nat := wordAt b 4
def krAstep (b : List Byte) : Nat := wordAt b 8
def krBind (b : List Byte) : List Byte := slice b 72 32
def krSpub (b : List Byte) : List Byte := slice b 164 57
/-- KEYID KIND of a KEYREL TYPE (Tables 16-2 and 16-7). -/
def typeKind (t : Nat) : Nat := if t = 4 then 1 else t + 1
/-- The partition that a TARGET belongs to. -/
def Dev.krPart (d : Dev) (b : List Byte) : Nat :=
  match krType b with
  | 1 | 2 => d.partOfCtx (krTarget b)
  | 3 => krTarget b
  | _ => 0

/-- A context in a header's CTXMAP (Table 12-13). -/
def inCtxmap (header : List Byte) (c : Nat) : Bool := bit (wordAt header 20) c

/-- The released key, when WKEY unwraps under the report's key (R400 check 4). -/
def unwrap (b priv rdig : List Byte) : Option (List Byte) :=
  Config.gcmOpen (Config.shake256 (Config.x448 priv (slice b 16 56) ++ rdig)) (leNat (slice b 104 12).reverse) (slice b 0 16) (slice b 116 48)

/-- Check 2: the signer. -/
def signerOk (nv : NonVol) (d : Dev) (b : List Byte) : Bool :=
  let dig := Config.shake256 (krSpub b)
  match krType b with
  | 1 | 2 | 3 => let k := (d.part (d.krPart b)).ksdig
    !k.isEmpty && dig == slice k 0 32
  | 4 => !nv.opkdig.isEmpty && dig == slice nv.opkdig 0 32
  | _ => nv.opened || dig == slice nv.opkdig 0 32

/-- Check 6: the target. -/
def Dev.targetOk (d : Dev) (b : List Byte) : Bool :=
  let x := d.part (d.krPart b)
  let t := krTarget b
  match krType b with
  | 1 => x.image.any (fun i => inCtxmap i.header t) || x.load.any (fun l => inCtxmap l.header t)
  | 2 => x.image.isSome
  | 3 => decide (t < nParts) && x.image.isSome
  | _ => t == 0

/-- The first check of R400 that fails, 0 when none does. -/
def keyrelFails (nv : NonVol) (d : Dev) (b : List Byte) : Nat :=
  match d.sec.report with
  | none => 1
  | some r =>
    if krAttseq b != d.sec.attseq then 1
    else if !(signerOk nv d b) then 2
    else if !(Config.ed448Verify (krSpub b) (slice b 0 221) (slice b 221 114)) then 3
    else if krType b != 5 && (unwrap b r.1 r.2).isNone then 4
    else if d.sec.installed.contains (krAttseq b, krType b, krTarget b, krGen b) then 5
    else if !(d.targetOk b) then 6
    else 0

/-- What TYPE, TARGET and GEN an event names: the first word of the payload (notes/assumptions/38). -/
def krWord (b : List Byte) : Nat := wordAt b 0

/-- A KEYREL that a check refuses: 0x000B, 0x0D02 names the check (R400). -/
def Dev.keyRefused (d : Dev) (b : List Byte) (check : Nat) : Ans × Dev :=
  (bad 0x000B, (d.modSec (fun x => { x with krefn := x.krefn + 1 })).event 0x0D02 (d.krPart b) 0 0x1FF [check])

/-- A released key takes its generation (R392, R400). -/
def Dev.installKey (d : Dev) (b : List Byte) : Dev :=
  match d.sec.report with
  | none => d
  | some r =>
    match unwrap b r.1 r.2 with
    | none => d
    | some key =>
      let bind := if krType b = 1 && !((krBind b).all (· == 0#8)) then krBind b else []
      let d := d.setKey (typeKind (krType b)) (if krType b = 4 then 0 else krTarget b) (krGen b)
        (some { bytes := key, astep := krAstep b, bind := bind })
      (d.modSec (fun x => { x with installed := x.installed ++ [(krAttseq b, krType b, krTarget b, krGen b)] })).event
        0x0D01 (d.krPart b) (if krType b ≤ 2 then krTarget b else 0) 0x1FF [krWord b]

/-- KEYREL of TYPE 1 to 4 (R400). -/
def execKeyrel (q : Nat) (s : State) : Out :=
  runOp s q 0xA1 (fun c => krType c.payload != 5) (fun c s =>
    let b := c.payload
    if krType b = 0 || 5 < krType b then (some (bad 0x0005), s)
    else
      let k := keyrelFails s.nv s.dev b
      if k != 0 then let r := s.dev.keyRefused b k; (some r.1, { s with dev := r.2 })
      else (some {}, { s with dev := s.dev.installKey b }))

/-- OPERATOR_ENROLMENT: KEYREL of TYPE 5 sets OPKDIG, and OPEN is 0 from then on (R400). -/
def execOperatorEnrolment (q : Nat) (s : State) : Out :=
  runOp s q 0xA1 (fun c => krType c.payload == 5) (fun c s =>
    let b := c.payload
    let k := keyrelFails s.nv s.dev b
    if k != 0 then let r := s.dev.keyRefused b k; (some r.1, { s with dev := r.2 })
    else
      let d := s.dev.modSec (fun x => { x with installed := x.installed ++ [(krAttseq b, 5, krTarget b, krGen b)] })
      (some {}, { s with nv := { s.nv with opkdig := krBind b, opened := false }, dev := d.event 0x0D04 0 0 0x1FF [] }))

end Sys2Proof.Machine
end

