-- ==== Sys2Proof/Machine/CodeCheck.lean ====
section
/-! DEFINITION. What the loader judges in a code section (check 5 of Table 12-18): every control word (R114), every inline
matrix instruction (R80), every inline vector instruction (R102), and the tasks' static walk (R114, R120). -/

namespace Sys2Proof.Machine
open Sys2Proof

/-! ## Control words (Tables 5-1 to 5-3, R114) -/

/-- Control words whose fields Table 5-3 leaves no reserved value for. -/
def ctlFree : List Nat :=
  [0x11, 0x16, 0x17, 0x18, 0x1C, 0x1E, 0x1F] ++ List.range' 0x20 8 ++ List.range' 0x30 8 ++ [0x41, 0x43, 0x44, 0x52]

def ctlOk (w : Nat) : Bool :=
  let op := bits w 31 24
  let imm := bits w 13 0
  if (1 ≤ op && op ≤ 0x0F) || op = 0x45 then bits w 8 0 == 0
  else if op = 0x28 then bits w 8 3 == 0
  else if 0x19 ≤ op && op ≤ 0x1B then bits w 13 6 == 0
  else if op = 0x40 then bits w 13 2 == 0
  else if op = 0x42 then decide (imm ≤ 6)
  else if op = 0x50 || op = 0x51 then bits w 18 0 == 0
  else if op = 0x53 then decide (imm ≤ 1)
  else if op = 0x60 || op = 0x61 || op = 0x64 || op = 0x65 then decide (imm ≤ 31)
  else if op = 0x62 || op = 0x63 then decide (imm ≤ 63)
  else ctlFree.contains op

/-! ## Matrix words (R72, R80) -/

/-- Every byte range ends inside the scratchpad. -/
def inPad (l : List (Nat × Nat)) : Bool := l.all (fun r => decide (r.1 + r.2 ≤ padBytes))

def mmaOk (o : MatOp) : Bool :=
  bits o.w0 31 30 == 0 && bits o.w0 11 10 == 0 && bits o.w2 31 28 == 0 && bits o.w3 31 30 == 0 &&
  (!(mmaI8 o) || (decide (mmaE o = 0) && decide (mmaPsh o = 0))) &&
  (mmaSh o == 0 || (mmaSh o % (if mmaMode o = 0 then 16 else 32) == 0 && decide (mmaSh o ≤ mmaRows o))) &&
  inPad (mxReads o) && inPad (mmaRecords o)

/-- Q of a drain (Table 3-10): any for G16 and G32, 0 to 40 for I8, 0 otherwise. -/
def mdQOk (o : MatOp) : Bool :=
  let q := bits o.w1 15 8
  match mdFmt o with
  | 5 | 6 => true
  | 2 => decide (q ≤ 40)
  | _ => q == 0

def mdrainOk (o : MatOp) : Bool :=
  !(bit o.w0 14) && bits o.w1 31 28 == 0 && bits o.w2 31 28 == 0 && [4, 3, 1, 0, 5, 6, 2, 8].contains (mdFmt o) &&
  decide (mdRnd o ≤ 1) && (!([4, 8].contains (mdFmt o)) || mdRnd o == 0) && mdQOk o &&
  (!(mdPL o) || mdCols o % 32 == 0) && inPad (mxWrites o)

def malignOk (o : MatOp) : Bool :=
  bits o.w0 31 27 == 0 && bits o.w1 31 28 == 0 && bits o.w2 31 28 == 0 && o.w3 == 0 &&
  [3, 4].contains (bits o.w0 11 8) && maN o % 32 == 0 && inPad (mxReads o) && inPad (mxWrites o)

/-- A matrix instruction as the loader judges it (R80). -/
def matOk (o : MatOp) : Bool :=
  match mxUnit o.w0 with
  | 1 => mmaOk o
  | 2 => mdrainOk o
  | 3 => malignOk o
  | _ => false

/-! ## Vector words (R102, Tables 4-2, 4-3, 4-5 to 4-7) -/

/-- Operations with a B operand. -/
def vHasB (op : Nat) : Bool :=
  (decide (1 ≤ op) && decide (op ≤ 7)) || op == 0x0A || op == 0x0B || (decide (0x10 ≤ op) && decide (op ≤ 0x13)) ||
  (decide (0x18 ≤ op) && decide (op ≤ 0x24)) || op == 0x33 || op == 0x40

/-- Operations of Table 4-3 in the format of Table 4-5. -/
def vArith (op : Nat) : Bool :=
  (decide (1 ≤ op) && decide (op ≤ 0x0B)) || (decide (0x10 ≤ op) && decide (op ≤ 0x13)) ||
  (decide (0x18 ≤ op) && decide (op ≤ 0x26)) || (decide (0x30 ≤ op) && decide (op ≤ 0x39)) ||
  (decide (0x40 ≤ op) && decide (op ≤ 0x42)) || (decide (0x48 ≤ op) && decide (op ≤ 0x4A)) ||
  (decide (0x50 ≤ op) && decide (op ≤ 0x53)) || op == 0x71

/-- Table 4-3 lets the operation be packed; the conversions CVTB, CVTFL and CVTFH are packed by nature. -/
def vPkOk (op : Nat) : Bool :=
  (decide (1 ≤ op) && decide (op ≤ 0x0B)) || (decide (0x10 ≤ op) && decide (op ≤ 0x13)) ||
  (decide (0x1B ≤ op) && decide (op ≤ 0x1D)) || op == 0x25 || (decide (0x30 ≤ op) && decide (op ≤ 0x39)) ||
  (decide (0x40 ≤ op) && decide (op ≤ 0x42))

/-- `subst`: word 1 is replaced at the push (R113). -/
def vArithOk (o : VecOp) (subst : Bool) : Bool :=
  let op := vOp o
  (!(vBimm o) || vHasB op) && (!(vPk o) || vPkOk op) && (vBimm o || o.w1 == 0 || subst) &&
  (!(decide (0x48 ≤ op) && decide (op ≤ 0x4A)) || decide (vVC o % 8 ≤ 5)) && (op != 0x40 || decide (vVC o % 4 ≤ 1))

/-- A format, layout and mode that Table 4-2 allows. -/
def lsComboOk (store : Bool) (o : VecOp) : Bool :=
  match lsFmt o with
  | 4 | 8 | 2 => !(lsHeld o) && !(lsPk o)
  | 3 | 0 => !(lsHeld o)
  | 1 => if lsHeld o then store && !(lsPk o) else true
  | 5 | 6 => store && !(lsHeld o) && !(lsPk o)
  | _ => false

/-- SMODE and RND of a store: raw stores round nothing, and only PL stores take a scale mode. -/
def lsStoreOk (o : VecOp) : Bool :=
  let raw := lsFmt o == 4 || lsFmt o == 8 || (lsFmt o == 3 && lsPk o)
  (!raw || lsRnd o == 0) &&
  (if decide (lsFmt o ≤ 1) then (if lsHeld o then lsSmode o == 1 || lsSmode o == 2 else decide (lsSmode o ≤ 1)) else lsSmode o == 0)

def vLoadOk (o : VecOp) : Bool :=
  let op := vOp o
  let store := op == 0x61 || op == 0x63
  bits o.w0 31 28 == 0 && !(bit o.w0 7) && lsSmode o != 3 && decide (lsRnd o ≤ 1) && (if store then !(lsRel o) else lsRnd o == 0) &&
  (if op = 0x60 || op = 0x61 then lsComboOk store o && (if store then lsStoreOk o else lsSmode o == 0) && inPad (lsRanges o)
   else !(lsPk o) && decide (lsFmt o ≤ 0xA) && inPad (lsByteRanges o))

/-- A vector instruction as the loader judges it (R102). -/
def vecOk (o : VecOp) (subst : Bool) : Bool :=
  let op := vOp o
  if vArith op then vArithOk o subst
  else if 0x60 ≤ op && op ≤ 0x63 then vLoadOk o
  else if op = 0x70 then bits o.w0 31 28 == 0 && !(bit o.w0 7)
  else false

/-! ## The code section word by word (R113, R114) -/

/-- What stands at a place of the code that is no inline word. -/
inductive CodeItem where
  | ctl (off w : Nat)
  | pushm (off : Nat) (o : MatOp)
  | pushv (off xs : Nat) (o : VecOp)
  deriving DecidableEq, Repr

def CodeItem.off : CodeItem → Nat
  | .ctl o _ => o
  | .pushm o _ => o
  | .pushv o _ _ => o

/-- Bytes that an item and its inline words take. -/
def CodeItem.size : CodeItem → Nat
  | .ctl _ _ => 4
  | .pushm _ _ => 20
  | .pushv _ _ _ => 12

/-- Read the code's words in order: the items up to the first invalid instruction, and its byte offset; an engine instruction has that
of the PUSHM or PUSHV that pushes it, as FPC does (Table 5-11). -/
def scanCode : List Nat → Nat → List CodeItem × Option Nat
  | [], _ => ([], none)
  | w :: r, off =>
    if !(ctlOk w) then ([], some off)
    else if bits w 31 24 = 0x50 then
      match r with
      | a :: b :: c :: e :: r' =>
        let o : MatOp := ⟨0, 0, 0, off, a, b, c, e⟩
        if matOk o then let x := scanCode r' (off + 20); (.pushm off o :: x.1, x.2) else ([], some off)
      | _ => ([], some off)
    else if bits w 31 24 = 0x51 then
      match r with
      | a :: b :: r' =>
        let o : VecOp := ⟨0, 0, off, a, b⟩
        if vecOk o (bits w 23 19 != 0) then let x := scanCode r' (off + 12); (.pushv off (bits w 23 19) o :: x.1, x.2)
        else ([], some off)
      | _ => ([], some off)
    else let x := scanCode r (off + 4); (.ctl off w :: x.1, x.2)

/-- The words of a section. -/
def secWords : List Byte → List Nat
  | a :: b :: c :: d :: r => leNat [a, b, c, d] :: secWords r
  | _ => []

def codeItems (code : List Byte) : List CodeItem × Option Nat := scanCode (secWords code) 0

/-- The inline words that a code section marks (R113). -/
def inlineOffs (items : List CodeItem) : List Nat :=
  (items.map (fun i => match i with
    | .ctl _ _ => []
    | .pushm o _ => [o + 4, o + 8, o + 12, o + 16]
    | .pushv o _ _ => [o + 4, o + 8])).flatten

/-! ## The static walk of a task (R114, R120) -/

/-- Where control can go after an item: a branch both ways, a JAL to its target and, when it keeps a link, past itself. -/
def CodeItem.next (i : CodeItem) : List Nat :=
  match i with
  | .pushm o _ => [o + 20]
  | .pushv o _ _ => [o + 12]
  | .ctl o w =>
    let op := bits w 31 24
    if 0x30 ≤ op && op ≤ 0x35 then [o + 4, branchTo o (signed 14 w)]
    else if op = 0x36 then (if bits w 23 19 = 0 then [] else [o + 4]) ++ [branchTo o (signed 19 w)]
    else if op = 0x37 || op = 0x40 || op = 0x41 then []
    else [o + 4]

/-- Items that a task reaches from places still to visit. -/
def walkCode (items : List CodeItem) : Nat → List Nat → List CodeItem → List CodeItem
  | 0, _, seen => seen
  | _, [], seen => seen
  | f + 1, o :: todo, seen =>
    match items.find? (fun i => i.off == o) with
    | none => walkCode items f todo seen
    | some i => if seen.contains i then walkCode items f todo seen else walkCode items f (i.next ++ todo) (i :: seen)

def reach (items : List CodeItem) (entry : Nat) : List CodeItem := walkCode items (2 * items.length + 2) [entry] []

/-- A reachable TEND picks a successor 0xFFFF on a task that is not LAST: the lowest place of one (R114). -/
def badTend (tbl : List Byte) (tid : Nat) (items : List CodeItem) : Option Nat :=
  ((items.filter (fun i => match i with
    | .ctl _ w => bits w 31 24 == 0x40 && tdSucc tbl tid (bits w 1 0) == 0xFFFF && !(tdLast tbl tid)
    | _ => false)).map CodeItem.off).min?

/-- The static scratchpad destinations of an item. -/
def CodeItem.dests : CodeItem → List (Nat × Nat)
  | .ctl _ _ => []
  | .pushm _ o => mxWrites o
  | .pushv _ xs o => if xs = 0 then vecDest o else []

end Sys2Proof.Machine
end

