-- ==== Sys2Proof/Machine/ImageCheck.lean ====
section
/-! DEFINITION. The loader's checks of an image, in the order of Table 12-18, and the load report of the first that fails (R325,
R326, R401). -/

namespace Sys2Proof.Machine
open Sys2Proof

/-! ## The image under load -/

/-- Header fields (Table 12-13). -/
def hdImglen (h : List Byte) : Nat := wordAt h 8
def hdNsec (h : List Byte) : Nat := bits (wordAt h 12) 31 16
def hdNctx (h : List Byte) : Nat := bits (wordAt h 12) 15 0
def hdPmode (h : List Byte) : Bool := bit (wordAt h 16) 23
def hdNlc (h : List Byte) : Nat := bits (wordAt h 16) 22 14 + 1
def hdCways (h : List Byte) : Nat := bits (wordAt h 16) 13 10
def hdShrw (h : List Byte) : Bool := bit (wordAt h 16) 9
def hdCtxs (h : List Byte) : List Nat := (List.range nCtxs).filter (bit (wordAt h 20))
def hdImgdig (h : List Byte) : List Byte := slice h 32 32

/-- The header checks of LBEGIN (R325, R326); words 16 to 31 are not listed and have to be 0. -/
def headerOk (d : Dev) (fwMajor : Nat) (h : List Byte) : Bool :=
  wordAt h 0 == 0x31574B48 && wordAt h 4 == 0x00010080 && decide (hdImglen h ≤ 268435456) &&
  decide (1 ≤ hdNsec h) && decide (hdNsec h ≤ 16384) && decide (1 ≤ hdNctx h) && decide (hdNctx h ≤ 32) &&
  bits (wordAt h 16) 31 24 == fwMajor && hdPmode h == d.brd.pcfgMode && hdNlc h == d.partSize &&
  bits (wordAt h 16) 6 0 == 0 && wordAt h 24 == 0 && wordAt h 28 == 0 &&
  (List.range 16).all (fun i => wordAt h (64 + 4 * i) == 0)

/-- A section table entry (Table 12-14) with the section's bytes as staged, and its plaintext unless it does not decrypt. -/
structure SecEnt where
  stype : Nat
  ctx : Nat
  enc : Bool
  lcore : Nat
  off : Nat
  len : Nat
  raw : List Byte
  plain : Option (List Byte)
  deriving DecidableEq, Repr

def stagedBytes (m : Store Byte) (off n : Nat) : List Byte := (List.range n).map (fun i => Store.get 0#8 m (off + i))

/-- Decrypt a section (R401): nonce, ciphertext and tag, under the newest content key of its context. -/
def Dev.openSection (d : Dev) (ctx : Nat) (aad b : List Byte) : Option (List Byte) :=
  match d.key 2 ctx (d.newestGen 2 ctx) with
  | some k => if b.length < 28 then none else Config.gcmOpen k.bytes (leNat (b.take 12).reverse) aad (b.drop 12)
  | none => none

def Dev.secEnt (d : Dev) (h : List Byte) (m : Store Byte) (i : Nat) : SecEnt :=
  let raw := stagedBytes m (128 + 64 * i) 64
  let w := wordAt raw 0
  let off := wordAt raw 4
  let len := wordAt raw 8
  let b := if off + len ≤ hdImglen h then stagedBytes m off len else []
  { stype := bits w 31 24, ctx := bits w 23 19, enc := bit w 18, lcore := bits w 17 9, off := off, len := len, raw := raw
    plain := if bit w 18 then d.openSection (bits w 23 19) (raw.take 12) b else some b }

/-- What a check that fails reports (Table 12-8). -/
structure LoadErr where
  status : Nat
  sec : Nat := 0xFFFF
  entry : Nat := 0
  lcore : Nat := 0x1FF
  need : Nat := 0
  got : Nat := 0
  deriving DecidableEq, Repr

/-- An image under load into a partition. -/
structure LoadJob where
  d : Dev
  p : Nat
  h : List Byte
  ents : List SecEnt

/-- The first element for which `f` has something to say, with its index. -/
def firstAt {α : Type} (l : List α) (f : Nat → α → Option LoadErr) : Option LoadErr :=
  (l.zipIdx).findSome? (fun x => f x.2 x.1)

def failIf (b : Bool) (e : LoadErr) : Option LoadErr := if b then some e else none

def SecEnt.bytes (e : SecEnt) : List Byte := e.plain.getD []
/-- The core that a report names: of a per-core section only. -/
def SecEnt.repCore (e : SecEnt) : Nat := if 2 ≤ e.stype && e.stype ≤ 5 then e.lcore else 0x1FF

/-- A section and its index; empty where the image has none. -/
def LoadJob.find (j : LoadJob) (stype ctx lcore : Nat) : Option (Nat × SecEnt) :=
  ((j.ents.zipIdx).find? (fun x => x.1.stype == stype && x.1.ctx == ctx && x.1.lcore == lcore)).map (fun x => (x.2, x.1))
def LoadJob.bytes (j : LoadJob) (stype ctx lcore : Nat) : List Byte :=
  match j.find stype ctx lcore with
  | some x => x.2.bytes
  | none => []
/-- Run a check over every section of one type. -/
def LoadJob.each (j : LoadJob) (stype : Nat) (f : Nat → SecEnt → Option LoadErr) : Option LoadErr :=
  firstAt j.ents (fun i e => if e.stype = stype then f i e else none)

/-! ## Check 1: layout (R325) -/

/-- LENGTH as Table 12-15 requires, of the plaintext where a section is encrypted. A block table and a slice table are of whole words
here; that their parts fill them is for checks 14 and 15. A task table holds at least one descriptor (R110). -/
def SecEnt.lenOk (e : SecEnt) : Bool :=
  let n := if e.enc then e.len - 28 else e.len
  (!e.enc || decide (28 ≤ e.len)) &&
  match e.stype with
  | 1 | 6 | 9 => n % 4 == 0
  | 2 => n % 64 == 0 && decide (64 ≤ n) && decide (n ≤ 64 * 65535)
  | 3 | 4 => n == 256
  | 5 => true
  | 7 | 0x0C => n % 16 == 0
  | 8 | 0x0B => n % 32 == 0
  | _ => n % 4 == 0 && decide (16 ≤ n)

/-- Reserved fields of the window images (R16, Table 7-9; notes/assumptions/156). -/
def SecEnt.winsOk (e : SecEnt) : Bool :=
  e.stype != 8 || (List.range (e.bytes.length / 32)).all (fun k =>
    !(winReserved ((List.range 8).map (fun w => wordAt e.bytes (32 * k + 4 * w)))))

/-- Section data neither overlaps nor repeats an earlier section. -/
def SecEnt.clashes (a b : SecEnt) : Bool :=
  (decide (a.off < b.off + b.len) && decide (b.off < a.off + a.len)) ||
  (a.stype == b.stype && a.ctx == b.ctx && a.lcore == b.lcore)

def LoadJob.entOk (j : LoadJob) (i : Nat) (e : SecEnt) : Bool :=
  bits (wordAt e.raw 0) 8 0 == 0 && (List.range 5).all (fun k => wordAt e.raw (12 + 4 * k) == 0) &&
  decide (1 ≤ e.stype) && decide (e.stype ≤ 0x0C) && e.off % 64 == 0 && decide (128 + 64 * hdNsec j.h ≤ e.off) &&
  decide (e.off + e.len ≤ hdImglen j.h) &&
  (if 2 ≤ e.stype && e.stype ≤ 5 then decide (e.lcore < hdNlc j.h) else e.lcore == 0) &&
  (!([6, 0x0B, 0x0C].contains e.stype) || e.ctx == 0) && e.lenOk && e.winsOk && !((j.ents.take i).any (fun b => SecEnt.clashes b e))

/-- Sections that R325 requires. -/
def LoadJob.required (j : LoadJob) : List (Nat × Nat × Nat) :=
  ((hdCtxs j.h).map (fun c => [(1, c, 0), (7, c, 0), (8, c, 0)] ++
    ((List.range (hdNlc j.h)).map (fun l => [(2, c, l), (3, c, l), (4, c, l)])).flatten)).flatten ++
  [(6, 0, 0), (0x0B, 0, 0), (0x0C, 0, 0)]

def LoadJob.check1 (j : LoadJob) : Option LoadErr :=
  if hdImglen j.h < 128 + 64 * hdNsec j.h then some { status := 0x0101 }
  else match firstAt j.ents (fun i e => failIf (!(j.entOk i e)) { status := 0x0101, sec := i, lcore := e.repCore }) with
    | some e => some e
    | none => (j.required.find? (fun r => (j.find r.1 r.2.1 r.2.2).isNone)).map (fun r =>
        { status := 0x0101, entry := r.1, lcore := if 2 ≤ r.1 && r.1 ≤ 4 then r.2.2 else 0x1FF })

/-! ## Checks 2 to 4: digests, keys, contexts -/

/-- Every DIG, of the plaintext (R401), then IMGDIG. A section that does not decrypt is left to check 3. -/
def LoadJob.check2 (j : LoadJob) : Option LoadErr :=
  match firstAt j.ents (fun i e => match e.plain with
    | some b => failIf (Config.shake256 b != slice e.raw 32 32) { status := 0x0102, sec := i, lcore := e.repCore }
    | none => none) with
  | some e => some e
  | none => failIf (Config.shake256 (slice j.h 0 32 ++ (j.ents.map (·.raw)).flatten) != hdImgdig j.h) { status := 0x0102 }

def LoadJob.check3 (j : LoadJob) : Option LoadErr :=
  let bound (c g : Nat) : Bool := match j.d.key 2 c g with
    | some k => k.bind.isEmpty || k.bind == hdImgdig j.h
    | none => true
  if (hdCtxs j.h).any (fun c => !(bound c 0) || !(bound c 1)) then some { status := 0x0103 }
  else firstAt j.ents (fun i e => failIf e.plain.isNone { status := 0x0103, sec := i, lcore := e.repCore })

def LoadJob.check4 (j : LoadJob) : Option LoadErr :=
  let cs := hdCtxs j.h
  if cs.any (fun c => j.d.partOfCtx c != j.p) || cs.length != hdNctx j.h then
    some { status := 0x0114, need := hdNctx j.h, got := cs.length }
  else firstAt j.ents (fun i e =>
    failIf (!([6, 0x0B, 0x0C].contains e.stype) && !(cs.contains e.ctx)) { status := 0x0114, sec := i, lcore := e.repCore })

/-! ## Checks 5 and 6: code and tasks -/

def taskCount (tbl : List Byte) : Nat := tbl.length / 64

def LoadJob.check5 (j : LoadJob) : Option LoadErr :=
  j.each 1 (fun i e =>
    let x := codeItems e.bytes
    match x.2 with
    | some off => some { status := 0x0104, sec := i, entry := off }
    | none =>
      (j.ents.filter (fun t => t.stype == 2 && t.ctx == e.ctx)).findSome? (fun t =>
        (List.range (taskCount t.bytes)).findSome? (fun tid =>
          (badTend t.bytes tid (reach x.1 (tdWord t.bytes tid 1))).map (fun off =>
            { status := 0x0104, sec := i, entry := off }))))

/-- A segment (Table 12-17). -/
structure Seg where
  first : Nat
  n : Nat
  ctx : Nat
  shr : Bool
  ro : Bool
  hint : Nat
  supx : Nat
  w : Nat                                        -- word 2
  deriving DecidableEq, Repr

def segAt (t : List Byte) (i : Nat) : Seg :=
  let w := wordAt t (16 * i + 8)
  ⟨bits (wordAt t (16 * i)) 21 0, bits (wordAt t (16 * i + 4)) 21 0 + 1, bits w 31 27, bit w 26, bit w 25, bits w 22 20,
   bits w 18 17, w⟩
def segsOf (t : List Byte) : List Seg := (List.range (t.length / 16)).map (segAt t)
def LoadJob.segs (j : LoadJob) : List Seg := segsOf (j.bytes 0x0C 0 0)
def Seg.has (g : Seg) (page : Nat) : Bool := decide (g.first ≤ page) && decide (page < g.first + g.n)

/-- The maps that the segments will give (R192). -/
def LoadJob.mapRead (j : LoadJob) (c page : Nat) : Bool := j.segs.any (fun g => g.has page && (g.ctx == c || g.shr))
def LoadJob.mapWrite (j : LoadJob) (c page : Nat) : Bool := j.segs.any (fun g => g.has page && g.ctx == c && !g.ro && !g.shr)
def LoadJob.rangeWrite (j : LoadJob) (c a n : Nat) : Bool := decide (a + n ≤ uniTop) && (pagesOf a n).all (j.mapWrite c)

/-- Rules of a task descriptor (R118). -/
def LoadJob.taskOk (j : LoadJob) (e : SecEnt) (tid : Nat) : Bool :=
  let t := e.bytes
  let w0 := tdWord t tid 0
  let nws := bits w0 10 8
  let entry := tdWord t tid 1
  bits w0 31 16 == tid && bits w0 15 11 == 0 && bits w0 5 4 == 0 && bits w0 3 0 == 1 && decide (nws ≤ 4) &&
  entry % 4 == 0 && decide (entry < (j.bytes 1 e.ctx 0).length) &&
  (List.range 4).all (fun k => tdSucc t tid k == 0xFFFF || decide (tdSucc t tid k < taskCount t)) &&
  (List.range 4).all (fun k => decide (k < nws) || (tdWord t tid (8 + 2 * k) == 0 && tdWord t tid (9 + 2 * k) == 0)) &&
  (writeSet t tid).all (fun r => if r.1 then j.rangeWrite e.ctx r.2.1 r.2.2 else decide (r.2.1 + r.2.2 ≤ padBytes))

/-- Static destinations of a task's reachable instructions lie in its write set or in a ring (R120). -/
def LoadJob.taskDests (j : LoadJob) (items : List CodeItem) (e : SecEnt) (tid : Nat) : Bool :=
  let rs := ringDecls (j.bytes 3 e.ctx e.lcore)
  let ws := writeSet e.bytes tid
  (reach items (tdWord e.bytes tid 1)).all (fun i => i.dests.all (destOk rs ws))

def LoadJob.check6 (j : LoadJob) : Option LoadErr :=
  j.each 2 (fun i e =>
    let items := (codeItems (j.bytes 1 e.ctx 0)).1
    (List.range (taskCount e.bytes)).findSome? (fun tid =>
      failIf (!(j.taskOk e tid) || !(j.taskDests items e tid)) { status := 0x0105, sec := i, entry := tid, lcore := e.lcore }))

/-! ## Checks 7 to 10: phases, scratchpads, rings, semaphores -/

def LoadJob.phases (j : LoadJob) : List Nat := secWords (j.bytes 6 0 0)

def LoadJob.check7 (j : LoadJob) : Option LoadErr :=
  j.each 6 (fun i e =>
    let l := secWords e.bytes
    if l.length = 0 || 1024 < l.length then some { status := 0x0106, sec := i, need := l.length, got := 1024 }
    else firstAt l (fun k w => failIf (w % 65536 == 0 || bits w 31 16 != 0) { status := 0x0106, sec := i, entry := k }))

def LoadJob.check8 (j : LoadJob) : Option LoadErr :=
  j.each 5 (fun i e => failIf (decide (padBytes < e.bytes.length))
    { status := 0x0112, sec := i, entry := padBytes, lcore := e.lcore, need := e.bytes.length, got := padBytes })

/-- The logical core that a per-core section is of. -/
def LoadJob.coreOf (j : LoadJob) (e : SecEnt) : Nat := j.d.partBase j.p + e.lcore

/-- Rules of a ring declaration (R162). -/
def LoadJob.ringOk (j : LoadJob) (e : SecEnt) (k : Nat) : Bool :=
  let w0 := wordAt e.bytes (8 * k)
  let w1 := wordAt e.bytes (8 * k + 4)
  match ringDecl e.bytes k with
  | none => w0 == 0 && w1 == 0
  | some r =>
    bits w0 31 30 == 0 && bits w1 14 1 == 0 && decide (3 ≤ r.n) && decide (r.base + r.rows * r.n ≤ nRows) &&
    (List.range k).all (fun m => match ringDecl e.bytes m with
      | some q => decide (q.base + q.rows * q.n ≤ r.base) || decide (r.base + r.rows * r.n ≤ q.base)
      | none => true) &&
    decide (1 ≤ r.pcls) && decide (r.pcls ≤ 6) && [1, 4, 5].contains r.ccls &&
    (if r.pcls = 2 then r.pcore != j.coreOf e && j.d.inPart j.p r.pcore else r.pcore == 0)

/-- Rings with a remote producer: section, entry, context, producing core. -/
def LoadJob.remoteRings (j : LoadJob) : List (Nat × Nat × Nat × Nat × Nat) :=
  ((j.ents.zipIdx).map (fun x => if x.1.stype = 3 then
    (ringDecls x.1.bytes).filterMap (fun r => if r.pcls = 2 then some (x.2, x.1.lcore, r.ix, x.1.ctx, r.pcore) else none)
    else [])).flatten

def LoadJob.check9 (j : LoadJob) : Option LoadErr :=
  match j.each 3 (fun i e => (List.range 32).findSome? (fun k =>
      failIf (!(j.ringOk e k)) { status := 0x0107, sec := i, entry := k, lcore := e.lcore })) with
  | some e => some e
  | none =>
    let l := j.remoteRings
    firstAt l (fun k r =>
      failIf (((l.take k).filter (fun q => q.2.2.2 == r.2.2.2)).length == 32)
        { status := 0x0107, sec := r.1, entry := r.2.2.1, lcore := r.2.1, need := 33, got := 32 })

/-- The semaphore entry is a counter (R167). -/
def LoadJob.isCounter (j : LoadJob) (ctx core i : Nat) : Bool :=
  let w := wordAt (j.bytes 4 ctx (core - j.d.partBase j.p)) (4 * i)
  j.d.inPart j.p core && bits w 31 23 == core && bits w 22 17 == i

/-- Rules of a semaphore entry (R167); `waited` names the entries that an SEMW of the core's tasks reaches. -/
def LoadJob.semOk (j : LoadJob) (e : SecEnt) (waited : List Nat) (i : Nat) : Bool :=
  let w := wordAt e.bytes (4 * i)
  let home := bits w 31 23
  !(bit w 16) && j.d.inPart j.p home &&
  (j.isCounter e.ctx (j.coreOf e) i ||
    (bits w 15 0 == 0 && j.isCounter e.ctx home (bits w 22 17) && !(waited.contains i)))

/-- Semaphores that the tasks of a core wait on. -/
def LoadJob.waited (j : LoadJob) (ctx lcore : Nat) : List Nat :=
  let items := (codeItems (j.bytes 1 ctx 0)).1
  let t := j.bytes 2 ctx lcore
  (((List.range (taskCount t)).map (fun tid => (reach items (tdWord t tid 1)).filterMap (fun i => match i with
    | .ctl _ w => if bits w 31 24 = 0x62 then some (bits w 13 0) else none
    | _ => none))).flatten).eraseDups

def LoadJob.check10 (j : LoadJob) : Option LoadErr :=
  j.each 4 (fun i e =>
    let waited := j.waited e.ctx e.lcore
    (List.range 64).findSome? (fun k =>
      failIf (!(j.semOk e waited k)) { status := 0x0108, sec := i, entry := k, lcore := e.lcore }))

/-! ## Check 11: segments and placement (R192, R193, R334) -/

def LoadJob.segOk (j : LoadJob) (t : List Byte) (k : Nat) : Bool :=
  let g := segAt t k
  bits (wordAt t (16 * k)) 31 22 == 0 && bits (wordAt t (16 * k + 4)) 31 22 == 0 && bits g.w 16 0 == 0 &&
  wordAt t (16 * k + 12) == 0 && (!g.shr || g.ro) && decide (g.hint ≤ 4) && (hdCtxs j.h).contains g.ctx &&
  decide (g.first + g.n ≤ 2 ^ 22) && j.d.addrPart (g.first * pageBytes) == j.p &&
  j.d.addrPart ((g.first + g.n - 1) * pageBytes) == j.p &&
  (!(g.hint == 1 || g.hint == 3 || bit g.w 19) || j.d.superOf j.p g.supx) &&
  (List.range k).all (fun m =>
    let q := segAt t m
    decide (q.first + q.n ≤ g.first) || decide (g.first + g.n ≤ q.first) || (q.shr && g.shr && q.ctx != g.ctx))

/-- The pages of segments that `f` picks, shared ones declared by several contexts counted once, in ascending order. -/
def LoadJob.pagesBy (j : LoadJob) (f : Seg → Bool) : List Nat :=
  (((((j.segs.filter f).map (fun g => List.range' g.first g.n)).flatten).mergeSort).foldl (fun l x =>
    if l.head? == some x then l else x :: l) []).reverse

/-- How many pages some segments hold, shared ones declared by several contexts counted once. -/
def pagesIn (l : List Seg) : Nat :=
  ((l.mergeSort (fun a b => decide (a.first ≤ b.first))).foldl (fun (x : Nat × Nat) g =>
    (max x.1 (g.first + g.n), x.2 + (g.first + g.n - max x.1 g.first))) (0, 0)).2

/-- Save-area pages in a super (R334). -/
def LoadJob.saveNeed (j : LoadJob) (x : Nat) : Nat :=
  let n := (hdCtxs j.h).length
  if n < 2 then 0
  else if j.d.brd.pcfgMode then (if x = j.p then 100 * n else 0)
  else if x < Config.nSupers then 400 / Config.nSupers * n else 0

/-- Free pages of a super of the partition. -/
def LoadJob.superHave (j : LoadJob) (x : Nat) : Nat := if j.d.superOf j.p x then j.d.freeCount j.p x else 0

/-- Resident comb pages of the image (R210); CWAYS above 12 is check 12's to refuse. -/
def LoadJob.combHave (j : LoadJob) : Nat := (if j.d.brd.pcfgMode then 4 else 16) * min (hdCways j.h) 12

/-- Segments in the order in which their pages come to the deep, with their entries: those of HINT 0, then those of HINT 2 (R193). -/
def deepOrder (l : List Seg) : List (Nat × Seg) :=
  let by' (h : Nat) : List (Nat × Seg) := ((l.zipIdx).filterMap (fun x => if x.1.hint = h then some (x.2, x.1) else none)).mergeSort
    (fun a b => decide (a.2.first ≤ b.2.first))
  by' 0 ++ by' 2

/-- Pages of the segments that the deep has to take, where the supers have `room` left. -/
def deepNeed (l : List Seg) (room : Nat) : Nat :=
  pagesIn (l.filter (fun g => g.hint == 2)) + (pagesIn (l.filter (fun g => g.hint == 0)) - room)

/-- Pages against R193; ENTRY names a segment that the resource is short for (notes/assumptions/54). -/
def LoadJob.fits (j : LoadJob) (sec : Nat) : Option LoadErr :=
  let l := j.segs
  let inSuper (x : Nat) (g : Seg) : Bool := (g.hint == 1 || g.hint == 3) && g.supx == x
  let at' (f : Seg → Bool) : Nat := (((l.zipIdx).find? (fun x => f x.1)).map Prod.snd).getD 0
  let need (x : Nat) : Nat := pagesIn (l.filter (inSuper x)) + j.saveNeed x
  match (List.range 4).find? (fun x => decide (j.superHave x < need x)) with
  | some x => some { status := 0x0109, sec := sec, entry := at' (inSuper x), need := need x, got := j.superHave x }
  | none =>
    let comb := pagesIn (l.filter (fun g => g.hint == 4))
    if j.combHave < comb then
      some { status := 0x0109, sec := sec, entry := at' (fun g => g.hint == 4), need := comb, got := j.combHave }
    else
      let room := ((List.range 4).map (fun x => j.superHave x - need x)).sum
      let have' := j.d.freeCount j.p 4
      let order := deepOrder l
      match (List.range order.length).find? (fun k => decide (have' < deepNeed ((order.take (k + 1)).map Prod.snd) room)) with
      | none => none
      | some k =>
        let all := pagesIn l + ((List.range 4).map j.saveNeed).sum
        let phys := ((List.range 4).map j.superHave).sum + j.combHave + have'
        some (if phys < all then { status := 0x0109, sec := sec, entry := (order.map Prod.fst).getD k 0, need := all, got := phys }
          else { status := 0x0109, sec := sec, entry := (order.map Prod.fst).getD k 0,
                 need := deepNeed (order.map Prod.snd) room, got := have' })

def LoadJob.check11 (j : LoadJob) : Option LoadErr :=
  j.each 0x0C (fun i e =>
    ((List.range (e.bytes.length / 16)).findSome? (fun k => failIf (!(j.segOk e.bytes k)) { status := 0x0109, sec := i, entry := k })) <|>
    j.fits i)

def LoadJob.check12 (j : LoadJob) : Option LoadErr :=
  failIf (decide (12 < hdCways j.h)) { status := 0x0113, need := hdCways j.h, got := 12 }

/-! ## Check 13: layer schedules (R197) -/

def lsPhase (t : List Byte) (k : Nat) : Nat := bits (wordAt t (16 * k)) 31 16
def lsBoff (t : List Byte) (k : Nat) : Nat := bits (wordAt t (16 * k)) 15 0
def lsAct (t : List Byte) (k : Nat) : Nat := bits (wordAt t (16 * k + 4)) 31 28
def lsPages (t : List Byte) (k : Nat) : List Nat :=
  List.range' (bits (wordAt t (16 * k + 8)) 21 0) (bits (wordAt t (16 * k + 12)) 15 0 + 1)

def LoadJob.schedOk (j : LoadJob) (e : SecEnt) (k : Nat) : Bool :=
  let t := e.bytes
  let w1 := wordAt t (16 * k + 4)
  let a := bits (wordAt t (16 * k + 8)) 21 0
  let act := lsAct t k
  let fixed (page : Nat) : Bool := j.segs.any (fun g => g.has page && (g.hint == 3 || g.hint == 4))
  bits w1 27 24 == 0 && bits w1 7 0 == 0 && bits (wordAt t (16 * k + 8)) 31 22 == 0 &&
  bits (wordAt t (16 * k + 12)) 31 16 == 0 &&
  (k == 0 || decide (lsPhase t (k - 1) < lsPhase t k) ||
    (lsPhase t (k - 1) == lsPhase t k && decide (lsBoff t (k - 1) ≤ lsBoff t k))) &&
  decide (lsPhase t k < j.phases.length) && decide (lsBoff t k < j.phases.getD (lsPhase t k) 0) &&
  match act with
  | 1 => (lsPages t k).all (fun g => j.mapRead e.ctx g && !(fixed g)) && j.d.superOf j.p (bits w1 9 8)
  | 2 => (lsPages t k).all (fun g => j.mapRead e.ctx g && !(fixed g))
  | 3 => wordAt t (16 * k + 12) == 0 && j.d.inPart j.p (bits w1 23 15) && decide (32 * a + 32 ≤ (j.bytes 8 e.ctx 0).length)
  | 4 => (lsPages t k).all (j.mapRead e.ctx) && decide ((lsPages t k).length ≤ 64)
  | _ => false

/-- Pins held after the first `k` entries of a table, from a set of pages. -/
def pinsAfter (t : List Byte) (k : Nat) : List Nat :=
  (List.range k).foldl (fun pins i =>
    if lsAct t i = 1 then pins ++ (lsPages t i).filter (fun g => !(pins.contains g))
    else if lsAct t i = 2 then pins.filter (fun g => !((lsPages t i).contains g))
    else pins) []

/-- Layer schedule entries of every loaded image. -/
def Dev.schedTotal (d : Dev) : Nat :=
  ((List.range nParts).map (fun p => match (d.part p).image with
    | some i => ((i.secs.filter (fun s => s.stype == 7)).map (fun s => s.bytes.length / 16)).sum
    | none => 0)).sum

def LoadJob.check13 (j : LoadJob) : Option LoadErr :=
  match j.each 7 (fun i e => (List.range (e.bytes.length / 16)).findSome? (fun k =>
      let pins := (pinsAfter e.bytes (k + 1)).length
      (failIf (!(j.schedOk e k)) { status := 0x010A, sec := i, entry := k }) <|>
      (failIf (decide (4096 < pins)) { status := 0x010A, sec := i, entry := k, need := pins, got := 4096 }))) with
  | some e => some e
  | none =>
    let n := j.d.schedTotal + ((j.ents.filter (fun e => e.stype == 7)).map (fun e => e.bytes.length / 16)).sum
    failIf (decide (65536 < n)) { status := 0x010A, need := n, got := 65536 }

/-! ## Check 14: block tables (Table 9-3, R239) -/

/-- First row of Table 9-3. -/
def blockShape (t : List Byte) : Bool :=
  let nb := bkNb t
  let order := bkOrder t
  t.length == 32 + 16 * nb + ceilDiv order.length 4 * 4 && bits (wordAt t 0) 31 28 == 1 && bits (wordAt t 4) 31 24 == 0 && bits (wordAt t 8) 31 22 == 0 && bits (wordAt t 12) 31 22 == 0 &&
  bits (wordAt t 16) 31 22 == 0 && wordAt t 20 == 0 && wordAt t 24 == 0 && wordAt t 28 == 0 &&
  bkAnchor t 0 && bkBwb t 0 == 0 &&
  (List.range nb).all (fun b => (b == 0 || bkBwb t b != 0) && bits (bkW t b 0) 30 24 == 0 && bits (bkW t b 1) 31 22 == 0 &&
    bits (bkW t b 2) 31 22 == 0 && bkW t b 3 == 0) &&
  (List.range nb).all (fun b => bkAnchor t b || order.contains b) && order.all (fun b => decide (b < nb) && !(bkAnchor t b)) &&
  (t.drop (32 + 16 * nb + order.length)).all (· == 0xFF#8)

/-- The end of the control segment: of the segment that holds CBASE. -/
def LoadJob.ctrlEnd (j : LoadJob) (c : Nat) (t : List Byte) : Nat :=
  match j.segs.find? (fun g => g.ctx == c && g.has (bkCbase t / pageBytes)) with
  | some g => (g.first + g.n) * pageBytes
  | none => bkCbase t

/-- Third row: stash and control segments in the context's own writable map, with their hints. -/
def LoadJob.stashMap (j : LoadJob) (c : Nat) (t : List Byte) : Bool :=
  let own (page : Nat) (hints : List Nat) : Bool :=
    j.segs.any (fun g => g.has page && g.ctx == c && !g.ro && !g.shr && hints.contains g.hint)
  (List.range' (bkSbase t / pageBytes) (bkQuota t)).all (fun g => own g [1, 3, 4]) && own (bkCbase t / pageBytes) [4]

def maxT (t : List Byte) : Nat := bkSpm t * bkMaxlen t

/-- Fourth row: the bytes that the plan with only anchors stored needs at MAXT. -/
def anchorNeed (t : List Byte) : Nat :=
  gran (maxT t * bkBwbMax t) +
  (((List.range (bkNb t)).filter (fun b => b != 0 && bkAnchor t b)).map (fun b => gran (maxT t * bkBwb t b))).sum

/-- Seventh row: a write-set entry that meets the control segment names lines with a RELS word only. -/
def relsOnly (t : List Byte) (stop : Nat) (r : Bool × Nat × Nat) : Bool :=
  let lo := max r.2.1 (bkCbase t)
  let hi := min (r.2.1 + r.2.2) stop
  !r.1 || decide (hi ≤ lo) ||
  (List.range ((hi - lo) / 64)).all (fun i =>
    let a := lo + 64 * i
    decide (bkCbase t + 40960 ≤ a) && (a - bkCbase t - 40960) % 2048 == 0 &&
    decide ((a - bkCbase t - 40960) / 2048 < bkMbd t))

/-- The first task of a context with an entry that is not: its section, number and core. -/
def LoadJob.relsBad (j : LoadJob) (c : Nat) (t : List Byte) : Option LoadErr :=
  firstAt j.ents (fun i e => if e.stype == 2 && e.ctx == c then
    (List.range (taskCount e.bytes)).findSome? (fun tid =>
      failIf (!((writeSet e.bytes tid).all (relsOnly t (j.ctrlEnd c t)))) { status := 0x010B, sec := i, entry := tid, lcore := e.lcore })
    else none)

/-- Eighth row: two blocks' weight ranges overlap, by block. A block with no weights has an empty range, which overlaps none; the
blocks compared are those of one table (DESIGN CHOICE, notes/assumptions/157). -/
def weightClash (t : List Byte) : Option Nat :=
  (List.range (bkNb t)).find? (fun b => bkWbytes t b != 0 && (List.range b).any (fun a => bkWbytes t a != 0 &&
    decide (bkWbase t a < bkWbase t b + bkWbytes t b) && decide (bkWbase t b < bkWbase t a + bkWbytes t a)))

def slotsNeeded (t : List Byte) : Nat := bkSpm t * bkMbd t

/-- Sample slots that the block tables before the k-th section, and that one, need (R225). -/
def LoadJob.slotsUpTo (j : LoadJob) (k : Nat) : Nat :=
  (((j.ents.take (k + 1)).filter (fun e => e.stype == 9)).map (fun e => slotsNeeded e.bytes)).sum

/-- Block tables, in the order of Table 9-3. ENTRY is the byte offset of the header field or of the block entry (notes/assumptions/54). -/
def LoadJob.check14 (j : LoadJob) : Option LoadErr :=
  let each := j.each 9
  let have' := if j.d.brd.pcfgMode then 160 else 640
  (each (fun i e => failIf (!(blockShape e.bytes)) { status := 0x010B, sec := i })) <|>
  (each (fun i e => failIf (bkQuota e.bytes * pageBytes % (512 * bkMbd e.bytes) != 0) { status := 0x010B, sec := i, entry := 12 })) <|>
  (each (fun i e => failIf (!(j.stashMap e.ctx e.bytes)) { status := 0x010C, sec := i, entry := 8 })) <|>
  (each (fun i e => failIf (decide (bkRsz e.bytes < anchorNeed e.bytes))
    { status := 0x010C, sec := i, entry := 12, need := anchorNeed e.bytes, got := bkRsz e.bytes })) <|>
  (each (fun i e =>
    let size := j.ctrlEnd e.ctx e.bytes - bkCbase e.bytes
    let need := 40960 + 2048 * bkMbd e.bytes
    failIf (decide (size < need)) { status := 0x010C, sec := i, entry := 16, need := need, got := size })) <|>
  (each (fun i _ => failIf (decide (have' < j.slotsUpTo i)) { status := 0x010D, sec := i, need := j.slotsUpTo i, got := have' })) <|>
  (each (fun _ e => j.relsBad e.ctx e.bytes)) <|>
  (each (fun i e => (weightClash e.bytes).map (fun b => { status := 0x010E, sec := i, entry := 32 + 16 * b }))) <|>
  (failIf (hdShrw j.h) { status := 0x010E })

/-! ## Check 15: slice tables (R246, R261), then slot windows -/

/-- Operands that an operation uses. -/
def mopArity (op : Nat) : Nat :=
  if op = 0 then 0 else if op = 4 || op = 5 || op = 0x0F then 3
  else if op = 1 || op = 2 || op = 3 || op = 6 || op = 9 || op = 0x0A || op = 0x0E then 2 else 1

def mopOk (w : Nat) : Bool :=
  let n := mopArity (bits w 31 27)
  let src (k f : Nat) : Bool := if k < n then decide (f ≤ 7) || decide (16 ≤ f) else f == 0
  decide (bits w 31 27 ≤ 0x11) && bits w 8 0 == 0 && (n != 0 || bits w 26 24 == 0) &&
  src 0 (bits w 23 19) && src 1 (bits w 18 14) && src 2 (bits w 13 9)

/-- A microprogram up to its END (R261). -/
def mprogOk : List Nat → Bool
  | [] => true
  | w :: r => mopOk w && (bits w 31 27 == 0 || mprogOk r)

def groupOk (t : List Byte) (g : Nat) : Bool :=
  let w0 := grpW t g 0
  decide (grpOpt t g ≤ 4) && bits w0 22 18 == 0 && bits w0 7 0 == 0 && grpW t g 2 == 0 && grpW t g 3 == 0 &&
  (grpOpt t g != 4 || (bits w0 17 16 != 3 && decide (grpMprog t g < slNmprog t)))

def rsetOk (t : List Byte) (k : Nat) : Bool :=
  let base := 16 + 64 * slN t + 256 + 128 * k
  let n := leAt t base 2
  decide (1 ≤ n) && decide (n ≤ 63) && (List.range 63).all (fun i => decide (i < n) || leAt t (base + 2 + 2 * i) 2 == 0)

/-- Bytes of the range lie in fixed pages of a super, in the context's own map. -/
def LoadJob.fixedIn (j : LoadJob) (c x a n : Nat) : Bool :=
  decide (a + n ≤ uniTop) &&
  (pagesOf a n).all (fun page => j.segs.any (fun g => g.has page && g.ctx == c && g.hint == 3 && g.supx == x))

/-- The status records lie in fixed pages of the context (R245; notes/assumptions/82). -/
def LoadJob.recordsFixed (j : LoadJob) (c : Nat) (t : List Byte) : Bool :=
  decide (slStbase t + 16 * slN t ≤ uniTop) &&
  (pagesOf (slStbase t) (16 * slN t)).all (fun page => j.segs.any (fun g => g.has page && g.ctx == c && g.hint == 3))

/-- Rules of one slice descriptor (R246). -/
def LoadJob.sliceOk (j : LoadJob) (c : Nat) (t : List Byte) (i : Nat) : Bool :=
  let b := j.bytes 9 c 0
  let blk := slBlk t i
  let q := slQidx t i
  let lo := bkWbase b blk
  let hi := lo + bkHalf b blk
  (slOwn t i || slRep t i) && bits (slW t i 1) 10 0 == 0 && bits (slW t i 4) 7 0 == 0 && bits (slW t i 7) 31 9 == 0 &&
  !(bit (slW t i 9) 9) && bits (slW t i 11) 31 9 == 0 && bits (slW t i 13) 31 9 == 0 && bits (slW t i 14) 15 0 == 0 &&
  slW t i 15 == 0 && decide (slRset t i < slNrset t) &&
  !b.isEmpty && decide (blk < bkNb b) && bkWbytes b blk != 0 &&
  decide (lo ≤ slRow t i) && decide (slRow t i + 4224 ≤ hi) && (slRow t i - lo) % 16896 == 4224 * q &&
  decide (lo ≤ slCol t i) && decide (slCol t i + 16896 ≤ hi) &&
  (!(slOwn t i) ||
    (slEcnt t i != 0 && decide (slOph t i < slCph t i) && decide (slCph t i ≤ j.phases.length) &&
     j.fixedIn c (slSup t i) (slState t i) (2 * stateBytes t i) &&
     (!(grpGnorm t (slGrp t i)) || j.fixedIn c (slSup t i) (slSpill t i) 32768)))

/-- Every descriptor of the image: section, index, table. -/
def LoadJob.allSlices (j : LoadJob) : List (Nat × Nat × List Byte) :=
  ((j.ents.zipIdx).map (fun x => if x.1.stype = 0x0A then
    (List.range (slN x.1.bytes)).map (fun i => (x.2, i, x.1.bytes)) else [])).flatten

/-- A descriptor repeats an earlier SLID, or its state region meets an earlier one's. -/
def sliceClash (a b : Nat × Nat × List Byte) : Bool :=
  slSlid a.2.2 a.2.1 == slSlid b.2.2 b.2.1 ||
  (slOwn a.2.2 a.2.1 && slOwn b.2.2 b.2.1 &&
    decide (slState a.2.2 a.2.1 < slState b.2.2 b.2.1 + 2 * stateBytes b.2.2 b.2.1) &&
    decide (slState b.2.2 b.2.1 < slState a.2.2 a.2.1 + 2 * stateBytes a.2.2 a.2.1))

/-- Two owned slices of one super share a slot in overlapping windows (R246). -/
def slotClash (a b : Nat × Nat × List Byte) : Bool :=
  let x := a.2.2
  let y := b.2.2
  slOwn x a.2.1 && slOwn y b.2.1 && slSup x a.2.1 == slSup y b.2.1 && slSlot x a.2.1 == slSlot y b.2.1 &&
  decide (slOph x a.2.1 < slCph y b.2.1) && decide (slOph y b.2.1 < slCph x a.2.1)

/-- The parts of a slice table fill it, and its subheader is as Table 12-16 has it. -/
def sliceShape (t : List Byte) : Bool :=
  decide (slNmprog t ≤ 16) && t.length == 16 + 64 * slN t + 256 + 128 * slNrset t + 128 * slNmprog t && bits (wordAt t 12) 31 9 == 0

/-- Slice tables, then slot windows. ENTRY is the index of a descriptor, or the byte offset of another part (notes/assumptions/54). -/
def LoadJob.check15 (j : LoadJob) : Option LoadErr :=
  match j.each 0x0A (fun i e => failIf (!(sliceShape e.bytes)) { status := 0x010F, sec := i }) with
  | some e => some e
  | none =>
    let l := j.allSlices
    (j.each 0x0A (fun i e =>
      let t := e.bytes
      let grps := 16 + 64 * slN t
      let sets := grps + 256
      let progs := sets + 128 * slNrset t
      let fail (n : Nat) : LoadErr := { status := 0x010F, sec := i, entry := n }
      (failIf (slN t != 0 && !(j.recordsFixed e.ctx t)) (fail 8)) <|>
      ((List.range 16).findSome? (fun g => failIf (!(groupOk t g)) (fail (grps + 16 * g)))) <|>
      ((List.range (slNrset t)).findSome? (fun k => failIf (!(rsetOk t k)) (fail (sets + 128 * k)))) <|>
      ((List.range (slNmprog t)).findSome? (fun k =>
        failIf (!(mprogOk ((List.range 32).map (mprogWord t k)))) (fail (progs + 128 * k)))) <|>
      ((List.range (slN t)).findSome? (fun k => failIf (!(j.sliceOk e.ctx t k)) (fail k))))) <|>
    (firstAt l (fun k s => failIf ((l.take k).any (sliceClash s)) { status := 0x010F, sec := s.1, entry := s.2.1 })) <|>
    (firstAt l (fun k s => failIf ((l.take k).any (slotClash s)) { status := 0x0110, sec := s.1, entry := s.2.1 }))

/-! ## Check 16: the channel table (R281, R329, R361) -/

/-- A class on its network (Table 11-3), and a DEST that suits it (R281). -/
def classOk (net cls dest : Nat) (recv : Bool) : Bool :=
  (match cls with
   | 1 | 2 => net == 0
   | 3 | 4 => net == 1
   | _ => false) &&
  (!recv || match cls with
    | 1 => decide (dest ≤ 1)
    | 2 => dest == 2
    | 3 => dest == 4
    | _ => dest == 0)

def LoadJob.destRing (j : LoadJob) (c core ring : Nat) : Bool :=
  j.d.inPart j.p core && (match ringDecl (j.bytes 3 c (core - j.d.partBase j.p)) ring with
    | some r => r.pcls == 1
    | none => false)

/-- Rules of one receive entry's words 2 to 6. -/
def LoadJob.recvOk (j : LoadJob) (e : List Nat) : Bool :=
  let c := ceCtx e
  bits (ceW e 3) 11 9 == 0 && bits (ceW e 6) 15 0 == 0 && ceSlotb e % 512 == 0 &&
  (match ceDest e with
   | 0 => ceWph e != 0 && j.phases.length % ceWph e == 0 && decide (2 ≤ ceSlots e) &&
          j.rangeWrite c (ceBase e) (512 + ceSlots e * ceSlotb e)
   | 1 => bits (ceW e 2) 17 0 == 0 && j.destRing c (ceDcore e) (ceDrid e)
   | 4 => j.rangeWrite c (ceBase e) (ceEbytes e * ceSlotb e)
   | _ => true) &&
  j.isCounter c (ceCcore e) (ceCsem e)

def LoadJob.chanOk (j : LoadJob) (e : List Nat) : Bool :=
  let recv := bit (ceW e 0) 3
  decide (ceChan e < 4064) && bits (ceW e 1) 18 16 == 0 && ceW e 7 == 0 && (hdCtxs j.h).contains (ceCtx e) &&
  (!(ceFovok e) || ceNet e == 0) && classOk (ceNet e) (ceCls e) (ceDest e) recv &&
  (if recv then j.recvOk e
   else ceDest e == 0 && ceMinc e == 0 && (List.range 5).all (fun i => ceW e (2 + i) == 0))

/-- Entries in use, with their index. -/
def chanList (t : List Byte) : List (Nat × List Nat) :=
  (List.range (t.length / 32)).filterMap (fun i =>
    let e := (List.range 8).map (fun w => wordAt t (32 * i + 4 * w))
    if bit (e.getD 0 0) 0 then some (i, e) else none)

/-- An entry clashes with an earlier one: the same (PEER, CHAN) of one direction, a second FD receive channel of a context,
a second SL send channel of a context to a peer. -/
def chanClash (a b : List Nat) : Bool :=
  let recv := bit (ceW a 0) 3
  recv == bit (ceW b 0) 3 &&
  ((cePeer a == cePeer b && ceChan a == ceChan b) ||
   (ceCtx a == ceCtx b && ceCls a == ceCls b &&
     ((recv && ceCls a == 3) || (!recv && ceCls a == 2 && cePeer a == cePeer b))))

/-- Ranks to which a context needs an SL send channel. -/
def LoadJob.neededRanks (j : LoadJob) (t : List Byte) : List Nat :=
  (((List.range (slN t)).map (fun i =>
    (if slRep t i && !(slOwn t i) then [slOrank t i] else []) ++ (if slOwn t i then rsetRanks t (slRset t i) else []))).flatten).filter
    (· != (j.d.part j.p).rank)

/-- The channel table, entry by entry, then the send channels that slices need. -/
def LoadJob.check16 (j : LoadJob) : Option LoadErr :=
  let limit := if j.d.brd.pcfgMode then 5120 else 20480
  j.each 0x0B (fun i e =>
    let l := chanList e.bytes
    (firstAt l (fun k x =>
      let upTo := l.take (k + 1)
      let n := (upTo.filter (fun y => bit (ceW y.2 0) 3 == bit (ceW x.2 0) 3)).length
      let cells := ((upTo.filter (fun y => bit (ceW y.2 0) 3 && ceNet y.2 == ceNet x.2)).map (fun y => ceMinc y.2)).sum
      (failIf (decide (4096 < n)) { status := 0x0111, sec := i, entry := x.1, need := n, got := 4096 }) <|>
      (failIf (!(j.chanOk x.2) || (l.take k).any (fun y => chanClash y.2 x.2)) { status := 0x0111, sec := i, entry := x.1 }) <|>
      (failIf (decide (limit < cells)) { status := 0x0111, sec := i, entry := x.1, need := cells, got := limit }))) <|>
    ((j.ents.filter (fun s => s.stype == 0x0A)).findSome? (fun s =>
      failIf ((j.neededRanks s.bytes).any (fun r => !(l.any (fun x =>
        !(bit (ceW x.2 0) 3) && ceCls x.2 == 2 && ceCtx x.2 == s.ctx && cePeer x.2 == r)))) { status := 0x0111, sec := i })))

/-- Table 12-18, in order: what the first check that fails reports. -/
def LoadJob.firstFailure (j : LoadJob) : Option LoadErr :=
  j.check1 <|> j.check2 <|> j.check3 <|> j.check4 <|> j.check5 <|> j.check6 <|> j.check7 <|> j.check8 <|> j.check9 <|>
  j.check10 <|> j.check11 <|> j.check12 <|> j.check13 <|> j.check14 <|> j.check15 <|> j.check16

end Sys2Proof.Machine
end

