-- ==== Sys2Proof/Machine/Loader.lean ====
section
/-! DEFINITION. Loading and unloading an image (R326): the load session, the installation, and what an unload leaves (R191, R206,
R270, R392). -/

namespace Sys2Proof.Machine
open Sys2Proof

/-- Partition named by word 0 of the payload. -/
def pyPart (b : List Byte) : Nat := wordAt b 0

/-! ## The load session (R310, R326, R392) -/

/-- Erase every generation of a key (R392). -/
def Dev.eraseKey (d : Dev) (kind ix : Nat) : Dev := (d.setKey kind ix 0 none).setKey kind ix 1 none

/-- The session ends; without an installed image the content keys of its contexts go, and the frames are Off again (R392,
R413). An LCOMMIT that has not completed ends with it, without an image (R310; notes/assumptions/158). -/
def Dev.endSession (d : Dev) (p : Nat) (installed : Bool) : Dev :=
  match (d.part p).load with
  | none => d
  | some l =>
    let d := d.modPart p (fun x => { x with load := none })
    if installed then d
    else
      let d := { d with jobs := d.jobs.map (fun (j : Job) => if j.opcode = 0x42 && j.part = p && !j.done then
        { j with done := true, lock := false, status := 0x000A, detail := [0xFFFF, 0, 0x1FF, 0, 0, 0] } else j) }
      (hdCtxs l.header).foldl (fun d c => d.eraseKey 2 c) (d.powerFrames p false)

/-- LBEGIN (R326, R413). Whether the lock or the header is judged first is not said: the lock (notes/assumptions/39). -/
def execLbegin (q : Nat) (s : State) : Out :=
  devOp s q 0x40 (fun c d =>
    let p := pyPart c.payload
    let h := slice c.payload 4 128
    if d.locked p || (d.part p).image.isSome then (bad 0x0007, d)
    else if !(headerOk d (fwVersion s.nv d / 2 ^ 24) h) then (bad 0x0101, d)
    else ({}, (d.modPart p (fun x => { x with load := some { queue := q, header := h } })).powerFrames p true))

/-- LDATA (R326). What it brings after the session's LCOMMIT is accepted and changes nothing of the image that LCOMMIT checks
(notes/assumptions/158). -/
def execLdata (q : Nat) (s : State) : Out :=
  devOp s q 0x41 (fun c d =>
    let p := pyPart c.payload
    let off := wordAt c.payload 4
    let data := c.payload.drop 8
    match (d.part p).load with
    | none => (bad 0x000D, d)
    | some l =>
      if l.queue != q then (bad 0x0007, d)
      else if hdImglen l.header < off + data.length then (bad 0x0005, d)
      else if l.commit then ({}, d)
      else
        let m := (data.zipIdx).foldl (fun m x => Store.set 0#8 m (off + x.2) x.1) l.staging
        ({}, d.modPart p (fun x => { x with load := some { l with staging := m } })))

/-! ## Installation (R193, R326, R333 to R335, R151) -/

/-- Take `n` free pages of a device from partition p's pool. -/
def Dev.takePages (p dev : Nat) : Nat → Dev → List (Nat × Nat) × Dev
  | 0, d => ([], d)
  | n + 1, d =>
    let x := d.freePage p dev
    match x.1 with
    | none => ([], x.2)
    | some ppn =>
      let y := Dev.takePages p dev n (x.2.modTiers (fun t => { t with used := (dev, ppn) :: t.used }))
      ((dev, ppn) :: y.1, y.2)

/-- Take `n` free pages of a device for a partition's own use. -/
def Dev.reservePages (p dev n : Nat) (d : Dev) : Dev :=
  let x := Dev.takePages p dev n d
  x.2.modPart p (fun y => { y with pages := x.1 ++ y.pages })

/-- Give pages back to their pools. -/
def Dev.freePages (d : Dev) (l : List (Nat × Nat)) : Dev :=
  d.modTiers (fun t => { t with used := t.used.filter (fun u => !(l.contains u)) })

/-- Place a page of a segment: on the first of the devices with a free page. -/
def Dev.placePage (d : Dev) (p : Nat) (g : Seg) (page : Nat) (devs : List Nat) : Dev :=
  match devs.find? (fun dev => d.freeCount p dev != 0) with
  | none => d
  | some dev =>
    let x := d.freePage p dev
    match x.1 with
    | none => x.2
    | some ppn =>
      (x.2.modTiers (fun t => ({ t with used := (dev, ppn) :: t.used } : Tiers).clearPhys dev ppn)).setTm page
        { valid := true, part := p, ctx := g.ctx, shr := g.shr, ro := g.ro, nopf := bit g.w 24, comba := bit g.w 23,
          hint := g.hint, pfpr := bit g.w 19, supx := g.supx, dev := dev, ppn := ppn }

/-- Supers of a partition, lowest number first. -/
def Dev.supersOf (d : Dev) (p : Nat) : List Nat := (List.range 4).filter (d.superOf p)

/-- Place the pages of the segments that `f` picks, in ascending order. -/
def LoadJob.placeBy (j : LoadJob) (f : Seg → Bool) (devs : Seg → List Nat) (d : Dev) : Dev :=
  (j.pagesBy f).foldl (fun d page =>
    match j.segs.find? (fun g => g.has page) with
    | some g => d.placePage j.p g page (devs g)
    | none => d) d

/-- The three passes of R193. -/
def LoadJob.place (j : LoadJob) (d : Dev) : Dev :=
  let d := j.placeBy (fun g => g.hint == 1 || g.hint == 3 || g.hint == 4) (fun g => if g.hint = 4 then [5] else [g.supx]) d
  let d := j.placeBy (fun g => g.hint == 0) (fun _ => d.supersOf j.p ++ [4]) d
  j.placeBy (fun g => g.hint == 2) (fun _ => [4]) d

/-- Resident ways: the cached lines of the ways that a slice gives up are dropped (R210). -/
def Dev.setWays (d : Dev) (p n : Nat) : Dev :=
  let mine (k : Nat) : Bool := !d.brd.pcfgMode || k / 4096 == p
  d.modTiers (fun t => { t with ways := Store.set 0 t.ways p n
                                comb := t.comb.map (fun x => if mine x.1 then (x.1, x.2.take (16 - n)) else x) })

/-- Pages of the segments read as 0 (R326). -/
def Dev.clearPages (d : Dev) (has : Nat → Bool) : Dev :=
  { d with mem := d.mem.filter (fun x => !(has (x.1 / pageBytes)))
           memPoison := d.memPoison.filter (fun x => !(has (x.1 / pageWords)))
           tiers := { d.tiers with
             comb := d.tiers.comb.map (fun x => (x.1, x.2.filter (fun line => !(has (line * 512 / pageBytes)))))
             combBad := d.tiers.combBad.filter (fun x => !(has (x.1 / pageWords))) } }

/-- The determinism report (Table 6-5, object 8; R151). A float memory-side add is seen where a descriptor image stands at a
32-byte boundary of a scratchpad image (notes/assumptions/40). -/
def LoadJob.report (j : LoadJob) : Nat :=
  let ws := ((j.ents.filter (fun e => e.stype == 1)).map (fun e => (codeItems e.bytes).1)).flatten
  let gatom := ws.any (fun i => match i with
    | .ctl _ w => bits w 31 24 == 0x28
    | _ => false)
  let beat := ws.any (fun i => match i with
    | .ctl _ w => bits w 31 24 == 0x42 && bits w 13 0 == 6
    | _ => false)
  let fadd := (j.ents.filter (fun e => e.stype == 5)).any (fun e => (List.range (e.bytes.length / 32)).any (fun k =>
    let img := (List.range 8).map (fun w => wordAt e.bytes (32 * k + 4 * w))
    sdKind img == 3 && sdAmode img && decide (2 ≤ sdAop img) && decide (sdAop img ≤ 3)))
  let low := b2n (!fadd) + 2 * b2n (!gatom && !fadd) + 4 * b2n (!beat) + 8 * b2n (bit (wordAt j.h 16) 8) + 16 * b2n (bit (wordAt j.h 16) 7)
  low + 2 ^ 31 * b2n (low == 31)

/-- Rows of the scratchpad extent of a context on a core (R335). -/
def LoadJob.extentRows (j : LoadJob) (c l : Nat) : Nat :=
  let rs := ringDecls (j.bytes 3 c l)
  let ws := ((j.ents.filter (fun e => e.stype == 2 && e.ctx == c)).map (fun e =>
    ((List.range (taskCount e.bytes)).map (writeSet e.bytes)).flatten)).flatten
  let pads := (j.bytes 5 c l).length
  ((List.range nRows).filter (fun row =>
    decide (32 * row < pads) || (ringAt rs row).isSome || ws.any (fun r => !r.1 && decide (r.2.1 < 32 * row + 32) &&
      decide (32 * row < r.2.1 + r.2.2)))).length

/-- SAVEB: of the core whose extent is the largest (R335; notes/assumptions/41). -/
def LoadJob.saveb (j : LoadJob) (c : Nat) : Nat :=
  32 * ((List.range (hdNlc j.h)).map (j.extentRows c)).foldl max 0 + 50316

/-- The image as installed. -/
def LoadJob.image (j : LoadJob) : Image :=
  { header := j.h
    secs := j.ents.map (fun e => { stype := e.stype, ctx := e.ctx, lcore := e.lcore, bytes := e.bytes })
    inlineWords := ((j.ents.filter (fun e => e.stype == 1)).map (fun e =>
      (inlineOffs (codeItems e.bytes).1).map (fun o => (e.ctx, o)))).flatten
    guard := bit j.d.brd.gctl j.p }

/-- Install a checked image; the staging area is released last (R326 steps 5 and 6). -/
def LoadJob.install (j : LoadJob) : Dev :=
  let d := j.d.setWays j.p (hdCways j.h)
  let d := (List.range 4).foldl (fun d x => Dev.reservePages j.p x (j.saveNeed x) d) d
  let d := (j.place d).clearPages (fun page => j.segs.any (fun g => g.has page))
  let d := (hdCtxs j.h).foldl (fun d c => d.setCtx c { inMap := true, run := true, saveb := j.saveb c }) d
  let d := d.modPart j.p (fun x => { x with image := some j.image, drep := j.report, started := false, stopped := false, ran := false, beat := 0 })
  ((d.contextsInPlace j.p).modSec (fun s => { s with mImg := Store.set [] s.mImg j.p (hdImgdig j.h) })).endSession j.p true

/-- The load report (Table 12-8). -/
def LoadErr.words (e : LoadErr) : List Nat := [e.sec % 65536, e.entry, e.lcore, e.need % 2 ^ 32, e.got % 2 ^ 32, 0]

/-- LCOMMIT is accepted; the session stays open and the lock held until it completes, and a second LCOMMIT meanwhile is refused
(R309, R310; notes/assumptions/158). -/
def execLcommit (q : Nat) (s : State) : Out :=
  devOp s q 0x42 (fun c d =>
    let p := pyPart c.payload
    match (d.part p).load with
    | none => (bad 0x000D, d)
    | some l =>
      if l.queue != q || l.commit then (bad 0x0007, d)
      else (d.modPart p (fun x => { x with load := some { l with commit := true } })).startJob c p 0 false 0 [] true)

/-- The checks of the session's image, and its installation when none fails: the final status, the load report, the state (R326
steps 4 to 7). -/
def Dev.commit (d : Dev) (p : Nat) (l : LoadSession) : Nat × List Nat × Dev :=
  let j : LoadJob := ⟨d, p, l.header, (List.range (hdNsec l.header)).map (d.secEnt l.header l.staging)⟩
  match j.firstFailure with
  | some e => (e.status, e.words, d.endSession p false)
  | none => (0, [0xFFFF, 0, 0x1FF, 0, 0, j.report], j.install)

/-! ## Completion of background commands (R309) -/

/-- A background command can complete: it has ended, or what it waits for has come (R315: every push of START and of a
DISCARD's re-encoding is acknowledged; notes/assumptions/36), or it is an LCOMMIT, which checks and installs as it completes. -/
def Dev.jobReady (d : Dev) (j : Job) : Bool :=
  j.done || j.opcode == 0x42 || ((j.opcode == 0x50 || j.opcode == 0x52) && (d.part j.part).pushWait.isEmpty)

/-- What a background command does as it ends: its final status, its DETAIL, the state. -/
def Dev.jobEnd (d : Dev) (j : Job) : Nat × List Nat × Dev :=
  if j.done || j.opcode != 0x42 then (j.status, j.detail, d.unpin j.pins)
  else match (d.part j.part).load with
    | some l => d.commit j.part l
    | none => (j.status, j.detail, d)

/-- The completion event of a background command (R309, R318). -/
def Dev.complete (d : Dev) (q cseq : Nat) : Dev :=
  match d.jobs.find? (fun j => j.queue == q && j.cseq == cseq && d.jobReady j) with
  | none => d
  | some j =>
    let r := ({ d with jobs := d.jobs.erase j }).jobEnd j
    r.2.2.raise { code := 0x0901, chan := some q, part := j.part, ctx := j.ctx, w1 := r.1 * 2 ^ 16 + j.opcode, w2 := j.cseq,
                  detail := r.2.1 }

/-- COMMAND_COMPLETE (R309). -/
def execCommandComplete (q cseq : Nat) (s : State) : Out :=
  onQueue s q (.next { s with dev := s.dev.complete q cseq })

/-! ## Unload (R191, R206, R270, R326, R392) -/

/-- What an unload leaves of a partition: its settings and its counts since module reset. -/
def Partition.unloaded (x : Partition) : Partition :=
  { x with
    image := none, started := false, stopped := false, ran := false, beat := 0, unloadDue := false, seed := 0, s0 := 0, capped := 0,
    doneStep := none, ovfSteps := [], fpSum := [], ovfn := [], hold := false, bact := false, drep := 0, resident := none,
    pend := none, prwb := 0, ranBeats := 0, params := [], normSum := [], normCount := [], normTotal := [], normRanks := [],
    normCf := [], spilled := [], peaks := [], pushWait := [], log := [], mirror := [], mirrorDig := [], lsn := 0,
    logFull := false, baseNow := false, baseJobs := [], baseDue := [], slotsKept := false, pages := [], blast := 0xFFFFFFFF,
    bsafe := 0xFFFFFFFF, bst := 0, bbuild := 0, baseOld := none, baseNew := none, parity := [], parityOld := [],
    parityGot := [], basePins := [], replay := none, restored := none, restCur := [], rebld := false }

/-- The tier-map entries of a partition's image. -/
def Dev.partEntries (d : Dev) (p : Nat) : List (Nat × TmEntry) := d.tiers.map.filter (fun x => x.2.valid && x.2.part == p)

/-- The physical pages and moves that an image holds go back; a page that is being retired goes to the retired list, and poison
stays in the physical page (R191, R206, R214, R217). -/
def Dev.returnPages (d : Dev) (p : Nat) : Dev :=
  let ents := d.partEntries p
  let mine (page : Nat) : Bool := ents.any (fun e => e.1 == page)
  let back := ents.map (fun e => (e.2.ctx, e.2.dev, e.2.ppn)) ++ (d.part p).pages.map (fun x => (0, x.1, x.2)) ++
    (d.tiers.runs.filter (fun r => mine r.page)).map (fun r => (0, r.dev, r.ppn))
  let d := ents.foldl (fun d e => d.keepPhys e.1 e.2.dev e.2.ppn) d
  let clean (m : Store Bool) : Store Bool := m.filter (fun x => !(mine (x.1 / pageWords)))
  let d := { d with memPoison := clean d.memPoison }.modTiers (fun t => { t with
    map := t.map.filter (fun x => !(mine x.1)), oldBad := clean t.oldBad, newBad := clean t.newBad, combBad := clean t.combBad,
    queue := t.queue.filter (fun m => !(mine m.page)), runs := t.runs.filter (fun r => !(mine r.page)) })
  back.foldl (fun d x => d.freePhys p x.1 x.2.1 x.2.2) d

/-- Background commands of a partition that the unload ends: every base that a BASE awaits is abandoned, a replay is over
(notes/assumptions/42). -/
def Dev.endPartJobs (d : Dev) (p : Nat) : Dev :=
  let d := ((d.part p).baseJobs ++ (d.part p).baseDue).foldl (fun d j => d.endJob j.1 j.2 [0x0B04, 0]) d
  d.endReplay p 0x0B04 (d.part p).capped

/-- Remove a loaded image. -/
def Dev.unload (d : Dev) (p : Nat) : Dev :=
  match (d.part p).image with
  | none => d
  | some i =>
    let cs := hdCtxs i.header
    let d := (d.endPartJobs p).closeChannels p
    let d := (d.partCores p).foldl (fun d n => d.setCore n { (d.core n).keep {} with icache := [] }) d
    let d := ((d.settleLeaving).returnPages p).setWays p 0
    let d := (List.range Config.nSupers).foldl (fun d x => d.modSup x (fun u =>
      let mine (k : Nat) : Bool := (Store.get none u.slots k).any (fun sl => sl.part == p)
      { u with arrivals := u.arrivals.filter (fun q => q.part != p), parkq := u.parkq.filter (fun q => q.part != p),
               adds := u.adds.filter (fun a => d.partOf a.core != p), queue := u.queue.filter (fun k => !(mine k)),
               late := u.late.filter (fun k => !(mine k)), slots := u.slots.filter (fun y => !(mine y.1)) })) d
    let d := cs.foldl (fun d c => ((d.setCtx c {}).eraseKey 2 c).eraseKey 3 c) d
    let d := d.eraseKey 4 p
    let d := d.powerFrames p false
    let d := { d with consts := [], sec := { d.sec with mImg := Store.set [] d.sec.mImg p [] } }
    (d.modPart p Partition.unloaded).event 0x0904 p 0 0x1FF []

/-- UNLOAD: abandons an open session, or removes the image (R310, R326). -/
def execUnload (q : Nat) (s : State) : Out :=
  devOp s q 0x43 (fun c d =>
    let p := pyPart c.payload
    match (d.part p).load with
    | some l => if l.queue = q || q = 0 then ({}, d.endSession p false) else (bad 0x0007, d)
    | none =>
      if d.locked p then (bad 0x0007, d)
      else if (d.part p).image.isNone then (bad 0x000D, d)
      else ({}, d.unload p))

end Sys2Proof.Machine
end

