-- ==== Sys2Proof/Machine/BringUp.lean ====
section
/-! DEFINITION. Bring-up (R370 to R379, R391, R398, R404, R405): the phases P0 to P6, the defect map and the logical numbers, and
Minimal boot. What the tests and the links find is the command's operand. -/

namespace Sys2Proof.Machine
open Sys2Proof

/-- The module without its queue: what is non-volatile, and the rest. -/
abbrev Mod := NonVol × Dev

/-! ## The defect map and logical numbers (R4, R5, R375, R377) -/

/-- Working positions of a frame, ascending. -/
def goodPos (failed : List Nat) (f : Nat) : List Nat := (List.range 17).filter (fun k => !(failed.contains (physOf f k)))

/-- Physical cores join the failed ones for good (R375). -/
def NonVol.fail (nv : NonVol) (l : List Nat) : NonVol :=
  { nv with failed := nv.failed ++ (l.filter (fun k => !(nv.failed.contains k))).eraseDups }

/-- A field substitution record stands for frame f. -/
def NonVol.substituted (nv : NonVol) (f : Nat) : Bool := (List.range 16).any (fun j => Store.get 0 nv.subst (16 * f + j) != 0)

/-- Position of index j of frame f, plus 1: the recorded one, or the j-th working position (R4, R375). -/
def NonVol.indexPos (nv : NonVol) (f j : Nat) : Nat :=
  if nv.substituted f then Store.get 0 nv.subst (16 * f + j)
  else match (goodPos nv.failed f)[j]? with
    | some k => k + 1
    | none => 0

/-- Number the cores of a frame; the first working position without a number is the spare (R4). -/
def Dev.numberFrame (nv : NonVol) (d : Dev) (f : Nat) : Dev :=
  let l := (List.range 16).map (nv.indexPos f)
  let sp := match (goodPos nv.failed f).find? (fun k => !(l.contains (k + 1))) with
    | some k => k + 1
    | none => 0
  d.modBrd (fun b => { b with
    lmap := (l.zipIdx).foldl (fun m x => Store.set 0 m (16 * f + x.2) x.1) b.lmap, spare := Store.set 0 b.spare f sp })

/-- The logical core on a position of frame f. -/
def Dev.logicalAt (d : Dev) (phys : Nat) : Option Nat :=
  (List.range' (16 * (phys / 17)) 16).find? (fun n => Store.get 0 d.brd.lmap n == phys % 17 + 1)

/-- The spare of its frame takes over a failed core's number, and the mapping is recorded; without one the number is lost
(R5, R377). Answers the spare's position, plus 1. -/
def substitute (x : Mod) (n : Nat) : Nat × Mod :=
  let f := n / 16
  let sp := Store.get 0 x.2.brd.spare f
  let d := x.2.modBrd (fun b => { b with lmap := Store.set 0 b.lmap n sp, spare := Store.set 0 b.spare f 0 })
  let nv := if sp = 0 then x.1 else
    { x.1 with subst := (List.range' (16 * f) 16).foldl (fun m k => Store.set 0 m k (Store.get 0 d.brd.lmap k)) x.1.subst }
  (sp, nv, d)

/-- A position has failed: for good, and no spare any more. -/
def failPosition (x : Mod) (phys : Nat) : Mod :=
  (x.1.fail [phys], x.2.modBrd (fun b => { b with
    spare := if Store.get 0 b.spare (phys / 17) = phys % 17 + 1 then Store.set 0 b.spare (phys / 17) 0 else b.spare }))

/-- A cause of Degraded is noted; the first one stands (notes/assumptions/44). -/
def Dev.cause (d : Dev) (c unit : Nat) : Dev :=
  d.modBrd (fun b => if b.dcause = 0 then { b with dcause := c, dunit := unit } else b)

/-! ## P0 and P1: the boot ROM (R370, R391, R398, R404, R421, R422, R432) -/

/-- What a boot starts from: everything volatile gone, the next SEQ after the last programmed one. -/
def bootStart (x : Mod) (fromP0 : Bool) : Mod :=
  let nv := { x.1 with bootn := x.1.bootn + 1, rstm := x.1.rstm + 1 }
  let d := x.2.dark .booting
  let last := (d.bb.recs.map (·.seq + 1)).foldl max 0
  let d := { d with bb := { d.bb with nextSeq := last } }
  let d := d.modBrd (fun b => { b with bootn := nv.bootn % 2 ^ 32, ovlo := b.ovlo && (!fromP0 || b.ovloNew) })
  let d := if d.brd.ovloNew then (d.recordOnly 0x0E0F 0 []).modBrd (fun b => { b with ovloNew := false }) else d
  (nv, d)

def NonVol.manifest (nv : NonVol) (slot : Nat) : List Byte :=
  let m := Store.get [] nv.slotManifest slot
  if m.isEmpty then Config.factoryManifest slot else m

/-- Rollback value of a slot (Table 15-5, notes/assumptions/43). -/
def NonVol.rbv (nv : NonVol) (slot : Nat) : Nat :=
  let m := Store.get [] nv.slotManifest slot
  if m.isEmpty then 0 else wordAt m 8

/-- A slot's Burfa verifies: digest and signature as the operand says, the rollback value here (R404, R405). -/
def slotOk (nv : NonVol) (env : BringUpEnv) (slot : Nat) : Bool :=
  env.burfaOk.contains slot && decide (nv.rbc ≤ nv.rbv slot) && decide (nv.rbv slot ≤ 255)

/-- Measurements and keys of the boot ROM (R391, R398). -/
def Dev.bootKeys (nv : NonVol) (d : Dev) (slot : Nat) : Dev :=
  let m0 := Config.shake256 Config.bootRom
  let m1 := Config.shake256 (slice (nv.manifest slot) 0 128)
  let dik := Config.shake456 (Config.uds ++ [0#8])
  let cdi := Config.shake256 (Config.uds ++ m0 ++ m1)
  let ak := Config.shake456 (cdi ++ [1#8])
  (d.modSec (fun s => { s with
    m0 := m0, m1 := m1, ak := ak, dikPub := Config.ed448Public dik,
    akCert := Config.ed448Sign dik (Config.ed448Public ak ++ m0 ++ m1) })).modBrd (fun b => { b with slot := slot })

/-! ## P2 to P5 (R374, R375, R379) -/

/-- The record of a failed test (R374). -/
def Dev.bist (cls : Nat) (d : Dev) (unit row : Nat) : Dev :=
  d.recordOnly 0x0C04 0 [cls * 2 ^ 24 + unit, row % 2 ^ 32, row / 2 ^ 32]

def bistList (cls n : Nat) (l : List Nat) (d : Dev) : Dev := (l.filter (fun k => decide (k < n))).foldl (fun d k => d.bist cls k 0) d

/-- P2: the frames' BIST and the chip-level tests. -/
def Dev.phase2 (d : Dev) (env : BringUpEnv) : Dev :=
  let d := bistList 8 nPorts env.portFail (bistList 7 4 env.chipFail (bistList 2 16 env.combFail
    (bistList 1 nFrames env.deadFrames (bistList 0 340 env.failed d))))
  let d := env.portFail.foldl (fun d e => if e < nPorts then d.modPort e (fun x => { x with dead := true }) else d) d
  (env.combFail.filter (fun k => decide (k < 16))).foldl (fun d k => d.cause 4 k) d

/-- P3: the defect maps are merged and the logical numbers assigned. -/
def phase3 (x : Mod) (env : BringUpEnv) : Mod :=
  let new := (env.failed.filter (fun k => decide (k < 340)) ++
    ((env.deadFrames.filter (fun f => decide (f < nFrames))).map (fun f => (List.range 17).map (physOf f))).flatten).filter
      (fun k => !(x.1.failed.contains k))
  let nv := x.1.fail new
  let nv := { nv with subst := nv.subst.filter (fun y => !(new.any (fun k => k / 17 == y.1 / 16))) }
  (nv, (List.range nFrames).foldl (fun d f =>
    let d := d.numberFrame nv f
    if (goodPos nv.failed f).length < 16 then d.cause 1 f else d) x.2)

/-- A super row that fails the pattern: repaired, or a page retired. Which page holds a row is not given (notes/assumptions/13). -/
def superRow (x : Mod) (r : Nat × Nat) : Mod :=
  let d := x.2.bist 4 r.1 r.2
  let bank := r.2 / 2 ^ 32
  if sparesLeft x.1.remaps r.1 bank != 0 then
    ({ x.1 with remaps := x.1.remaps ++ [(r.1, bank, r.2 % 2 ^ 32)] }, d.recordOnly 0x0504 0 [])
  else
    let y := d.freshChoice Config.superPages
    ({ x.1 with retired := x.1.retired ++ [(r.1, y.1)] }, y.2.recordOnly 0x0505 0 [])

/-- Deep pages retired for want of a repair resource: which ones is not given (notes/assumptions/14). -/
def deepRetire : Nat → Mod → Mod
  | 0, x => x
  | n + 1, x =>
    let y := x.2.freshChoice Config.deepPages
    deepRetire n ({ x.1 with retired := x.1.retired ++ [(4, y.1)] }, y.2.recordOnly 0x0505 0 [])

/-- P4: the memories are tested; the tier map is at its reset state, retired pages are never allocated (R191, R219). -/
def phase4 (x : Mod) (env : BringUpEnv) : Mod :=
  let bad := env.superFail.filter (fun k => decide (k < Config.nSupers))
  let d := bad.foldl (fun d k => (d.bist 3 k 0).cause 3 k) x.2
  let x := (env.superRows.filter (fun r => decide (r.1 < Config.nSupers))).foldl superRow (x.1, d)
  let d := (env.deepFail.filter (fun k => decide (k < Config.nDeep))).foldl (fun d k => (d.bist 5 k 0).cause 5 k) x.2
  let d := (env.deepRows.filter (fun r => decide (r.1 < Config.nDeep))).foldl (fun d r => d.bist 6 r.1 r.2) d
  let x := deepRetire env.deepRetired (x.1, d)
  (x.1, (x.2.modTiers (fun t => { t with retired := x.1.retired })).modBrd (fun b => { b with
    spop := 2 ^ Config.nSupers - 1, dpop := 2 ^ Config.nDeep - 1 }))

/-- A core whose firmware store is incomplete after round 3 (R379). -/
def waggleFailed (x : Mod) (phys : Nat) : Mod :=
  let n := x.2.logicalAt phys
  let y := failPosition (x.1, x.2.raise { code := 0x0C05, chan := none, lcore := n.getD 0x1FF }) phys
  match n with
  | none => y
  | some n =>
    let z := substitute y n
    if z.1 = 0 then (z.2.1, z.2.2.cause 6 (n / 16)) else z.2

/-- P5: core firmware by on-die waggle, and the measurement M2. -/
def phase5 (x : Mod) (env : BringUpEnv) (slot : Nat) : Mod :=
  let bad := (env.waggleFail.filter (fun k => decide (k < 340) && !(x.1.failed.contains k))).eraseDups
  let x := bad.foldl waggleFailed x
  (x.1, (x.2.modBrd (fun b => { b with rounds := env.waggleRounds % 4, wfail := bad.length })).modSec (fun s =>
    { s with m2 := slice (x.1.manifest slot) 96 32 }))

/-! ## P6: cages and ports (R273, R274, R276, R297, R438) -/

/-- Power a cage; a device that advertises more than 15 W stays in low-power mode and its port down. -/
def Dev.powerCage (d : Dev) (k : Nat) : Dev :=
  let c := d.cage k
  (d.modCage k (fun c => { c with powered := c.prs, lpm := c.prs && decide (15 < c.padv) })).modPort k (fun x => { x with
    media := if c.prs && decide (c.padv ≤ 15) then c.media else 0 })

def Dev.phase6 (d : Dev) (env : BringUpEnv) (ports : List Nat) : Dev :=
  let d := ports.foldl (fun d k => (d.modCage k (fun c => { c with cen := true, oc := false, ocCut := false })).powerCage k) d
  let d := (ports.filter env.linksUp.contains).foldl Dev.portUp d
  [0, 1].foldl (fun d n => d.joinGroup n (announceGroup n)) d

/-- The first LLDP and ANNOUNCE (R371). -/
def Dev.firstAnnounce (nv : NonVol) (d : Dev) : Dev :=
  (List.range nPorts).foldl (fun d e => if (d.port e).up then d.sayHello nv e else d) d

/-! ## The boot (R370 to R372, R405) -/

/-- Minimal boot: only ports E4 to E7; without a usable MAC on network B the module asserts FAULT and answers nothing
(R372). -/
def Dev.minimal (d : Dev) (env : BringUpEnv) : Dev :=
  let d := d.modBrd (fun b => { b with state := .minimal, phase := 7 })
  let netB := env.netBOk && (List.range' 4 4).any (fun e => !((d.port e).dead))
  if netB then d.phase6 env (List.range' 4 4)
  else ((List.range' 4 4).foldl (fun d e => d.modPort e (fun x => { x with dead := true })) d).modBrd (fun b => { b with faultPin := true })

/-- The end of P6: Ready, or Degraded with its event; Ready takes up the rollback counter (R371, R389, R405). -/
def bootEnd (x : Mod) (env : BringUpEnv) (slot : Nat) : Mod :=
  let d := x.2.modBrd (fun b => { b with
    phase := 7, state := if b.dcause = 0 then .ready else .degraded,
    pt := (env.phaseUs.take 7).zipIdx.foldl (fun m y => Store.set 0 m y.2 y.1) [] })
  if d.brd.dcause != 0 then (x.1, (d.event 0x0C03 0 0 0x1FF [d.brd.dunit * 16 + d.brd.dcause]).firstAnnounce x.1)
  else if x.1.rbc < x.1.rbv slot then
    let nv := { x.1 with rbc := x.1.rbv slot }
    (nv, (d.event 0x0D05 0 0 0x1FF []).firstAnnounce nv)
  else (x.1, d.firstAnnounce x.1)

/-- P0 or P1 to the end of P6; `quick` forces Minimal boot (R436). -/
def boot (x : Mod) (fromP0 quick : Bool) (env : BringUpEnv) : Mod :=
  let x := bootStart x fromP0
  if quick then (x.1, (x.2.modBrd (fun b => { b with minb := true })).minimal env)
  else
    let a := x.1.bootSlot
    let first := slotOk x.1 env a
    if !first && !(slotOk x.1 env (1 - a)) then (x.1, x.2.minimal env)
    else
      let slot := if first then a else 1 - a
      let d := if first then x.2 else x.2.recordOnly 0x0C06 0 [3]
      let d := (d.bootKeys x.1 slot).phase2 env
      if env.chipFail.any (fun k => decide (k < 4)) then (x.1, d.minimal env)
      else
        let x := phase4 (phase3 (x.1, d) env) env
        if !env.coreFwOk then (x.1, x.2.minimal env)
        else
          let x := phase5 x env slot
          bootEnd (x.1, x.2.phase6 env (List.range nPorts)) env slot

/-! ## ENABLE (R370, R371, R432, R436) -/

/-- P0 may start: both rails, and after an overvoltage the input within its range. -/
def Dev.mayStart (d : Dev) : Bool :=
  d.brd.enable && d.brd.sb12 && decide (48000 ≤ d.brd.vinMv) && !d.brd.ovHold && (!d.brd.ovlo || decide (d.brd.vinMv ≤ 58000)) &&
  (d.brd.state == .standby || d.brd.state == .booting)

/-- ENABLE_ASSERT: a rising edge. Above 59 V the overvoltage response comes instead; below 48 V the module waits in Standby. -/
def execEnableAssert (quick : Bool) (env : BringUpEnv) (s : State) : Out :=
  if s.dev.brd.enable then .next s
  else
    let d := s.dev.modBrd (fun b => { b with enable := true })
    if 59000 < d.brd.vinMv then .next { s with dev := d.modBrd (fun b => { b with ovlo := true, ovloNew := true, ovHold := true, faultPin := true }) }
    else if !d.mayStart then .next { s with dev := d }
    else let x := boot (s.nv, d) true quick env; .next { s with nv := x.1, dev := x.2 }

/-- BRING_UP_TIMEOUT: 5 s (8 s with new hard repairs) after ENABLE, none of Ready, Degraded and Minimal boot (R371). -/
def execBringUpTimeout (s : State) : Out :=
  s.onDev (fun d => if d.brd.enable && !d.up && d.brd.state != .minimal then d.modBrd (fun b => { b with faultPin := true }) else d)

end Sys2Proof.Machine
end

