-- ==== Sys2Proof/Machine/Resets.lean ====
section
/-! DEFINITION. The reset levels (R384 to R387): a core or frame alone, a partition with its sparing (R376, R377), the module; and
the failure of a partition reset (R343). -/

namespace Sys2Proof.Machine
open Sys2Proof

/-! ## What a partition reset absorbs (Table 15-7) -/

/-- A replay that a reset cuts short completes with status 0x000A (notes/assumptions/45). -/
def Dev.cutReplay (d : Dev) (p : Nat) : Dev :=
  match (d.part p).replay with
  | none => d
  | some r =>
    let d := d.modPart p (fun x => { x with replay := none })
    { d with jobs := d.jobs.map (fun j => if j.queue = r.queue && j.cseq = r.cseq && !j.done then { j with done := true, status := 0x000A } else j) }

/-- Queued moves of the partition go; moves in progress complete (R206; notes/assumptions/46). -/
def Dev.dropMoves (d : Dev) (p : Nat) : Dev :=
  d.modTiers (fun t => { t with queue := t.queue.filter (fun m => !((Store.get {} t.map m.page).part == p)) })

/-- What is drained: bytes on their way to memory, memory-side adds, and atomics at the comb (Table 15-7). -/
def Dev.drainPart (d : Dev) (p : Nat) : Dev :=
  let d := (d.partCores p).foldl (fun d n => (d.core n).su.req.foldl (fun d q => q.runs.foldl (fun d r => match r.1 with
    | .mem a => ((d.memPut a r.2.1 r.2.2).combDrop a r.2.1.length).countMem (d.ctxOf n) a r.2.1.length true
    | _ => d) d) d) d
  let d := (List.range Config.nSupers).foldl (fun d x => (d.sup x).adds.foldl (fun d a =>
    if d.partOf a.core != p then d
    else
      let w := aopBytes a.aop
      ((List.range (a.data.length / w)).foldl (fun d k =>
        let cells := (a.data.drop (k * w)).take w
        let at' := a.addr + k * w
        let v := addElt a.aop (leNat (d.memRead at' w)) (leNat (cells.map (·.1)))
        d.memPut at' (toLe w v) (cells.any (·.2) || d.memPoisoned at' w)) d).combDrop a.addr a.data.length) d) d
  let mine := d.tiers.atomics.filter (fun n => d.partOf n == p)
  let d := mine.foldl (fun d n => match (d.core n).atom with
    | none => d
    | some a =>
      if d.memPoisoned a.addr 8 then d
      else (d.memPut a.addr (toLe 8 (atomicNew a.fn (BitVec.ofNat 64 (leNat (d.memRead a.addr 8))) a.operand).toNat) false)) d
  d.modTiers (fun t => { t with atomics := t.atomics.filter (fun n => !(mine.contains n)) })

/-- Every region is released: VALID = 0 in every slot, READY = 0 and RELS = 0 in every record (R240); placed records that no
micro-batch has taken go with their ring. -/
def Dev.clearStash (d : Dev) (p : Nat) : Dev :=
  (d.imgCtxs p).foldl (fun d c =>
    let t := d.blockTab c
    let d := if t.isEmpty then d else (List.range (bkMbd t)).foldl (fun d r =>
      (d.clearRegion c r).uniWrite p c (mbAddr t r + 16) (toLe 4 0) false) d
    d.modCtx c (fun x => { x with mbs := [], feed := [] })) d

/-! ## Sparing in service (R376, R377) -/

/-- The module becomes Degraded in service: 0x0C03 (R377, R389). -/
def Dev.degrade (d : Dev) (c unit : Nat) : Dev :=
  ((d.cause c unit).modBrd (fun b => { b with state := if b.state == .ready then .degraded else b.state })).event
    0x0C03 0 0 0x1FF [unit % 32 * 16 + c]

/-- One failed logical core: its frame's spare takes its number, or the module becomes Degraded. -/
def spareCore (p : Nat) (x : Mod) (y : Nat × Nat) : Mod :=
  let z := substitute x y.1
  if z.1 = 0 then (z.2.1, z.2.2.degrade 2 (y.1 / 16))
  else (z.2.1, z.2.2.event 0x0C02 p 0 0x1FF [y.1 / 16, y.2 % 17, z.1 - 1, y.1])

/-- The quick BIST's failures and the cores that raised 0x0C01 are marked failed, then replaced. -/
def sparing (x : Mod) (p : Nat) (bist : List Nat) : Mod :=
  let d := x.2
  let frames := d.partFrames p
  let mineF (k : Nat) : Bool := frames.contains (k / 17)
  let called := (d.brd.coreFail.filter (d.inPart p)).filterMap (fun n => match Store.get 0 d.brd.lmap n with
    | 0 => none
    | k + 1 => some (physOf (n / 16) k))
  let found := (bist.filter (fun k => mineF k && !(x.1.failed.contains k) && !(called.contains k))).eraseDups
  let all := called ++ found
  let lost := all.filterMap (fun k => (d.logicalAt k).map (fun n => (n, k)))
  let d := found.foldl (fun d k => d.raise { code := 0x0C01, chan := none, part := p, lcore := (d.logicalAt k).getD 0x1FF }) d
  let d := d.modBrd (fun b => { b with coreFail := b.coreFail.filter (fun n => !(d.inPart p n)) })
  lost.foldl (spareCore p) (all.foldl failPosition (x.1, d))

/-! ## The partition reset (R384, R386) -/

/-- The cores of the partition at image start, with clear fault records and stream counters; the stamps stay until the host acts. -/
def Dev.coresToStart (d : Dev) (p : Nat) : Dev :=
  let stamps := (d.imgCtxs p).map (fun c => (c, (d.ctx c).stamp))
  let d := d.contextsToStart p
  let d := stamps.foldl (fun d y => d.modCtx y.1 (fun x => { x with stamp := y.2 })) d
  (d.partCores p).foldl (fun d n => d.modCore n (fun c => { c with
    frec := none, lost := 0, su := { c.su with counters := [], blkn := 0, blkd := false } })) (d.fillBuckets p)

/-- Steps 1 to 5 of R384. -/
def partitionReset (x : Mod) (p : Nat) (bist : List Nat) : Mod :=
  let started := (x.2.part p).started
  let d := (x.2.drainPart p).endSession p false
  let d := d.cutReplay p
  let d := if started then d.openChannels p (((d.part p).capped + 1) % 2 ^ 32) else d
  let d := (d.abandonBase p).dropMoves p
  let d := if started then (d.resetSlices p).clearStash p else d
  let y := sparing (x.1, d.wakeFrames p) p bist
  let d := (y.2.coresToStart p).settleLeaving.modPart p (fun x => { x with
    stopped := x.started, ran := false, resetDue := false, beat := 0, hold := false, bact := false, strn := 0, strc := 0,
    holdc := 0, lastCause := 0, lastFrame := 0, mblast := 0, refs := 0, fbmb := 0, fbsw := 0, stpk := 0, prstn := x.prstn + 1 })
  ({ y.1 with rstp := y.1.rstp + 1 }, d.firstResident p)

/-- The reset that a context fault asks for, with the forced unload of R215 and R218. -/
def faultReset (x : Mod) (p : Nat) (bist : List Nat) : Mod :=
  let y := partitionReset x p bist
  if (x.2.part p).unloadDue then (y.1, (y.2.unload p).modPart p (fun x => { x with unloadDue := false })) else y

/-- A RESET at partition level: 0x0007 while the lock is held (R310). -/
def resetPart (p : Nat) (bist : List Nat) (s : State) : Ans × State :=
  if s.dev.locked p then (bad 0x0007, s)
  else let y := partitionReset (s.nv, s.dev) p bist; ({}, { s with nv := y.1, dev := y.2 })

/-- The queue whose turn has come to a RESET of a level. -/
def resetLevel (l : Nat) (c : Cmd) : Bool := rstLevel c.payload == l

/-- PARTITION_RESET: the one that a fault asks for, or else a queue's RESET LEVEL 2. `bist` lists the physical cores that fail the
quick BIST. -/
def execPartitionReset (part : Nat) (bist : List Nat) (s : State) : Out :=
  if nParts ≤ part then .fault .noSuchUnit
  else if (s.dev.part part).resetDue then
    let y := faultReset (s.nv, s.dev) part bist
    .next { s with nv := y.1, dev := y.2 }
  else
    let mine (c : Cmd) : Bool := resetLevel 2 c && rstTarget c.payload == part
    match (List.range nQueues).find? (fun q => (s.dev.queue q).cur.any (fun c => c.hdr.opcode == 0x90 && mine c) && s.dev.myTurn q) with
    | none => .next s
    | some q => runOp s q 0x90 mine (fun _ s => let r := resetPart part bist s; (some r.1, r.2))

/-! ## Cores and frames (R385) -/

/-- A core alone: engines, queues, registers, stream state and scratchpad. -/
def Dev.resetCore (d : Dev) (n : Nat) : Dev := d.setCore n ((d.core n).keep {})

/-- A reset of some cores of one frame: as a partition reset where their partition has started, else alone. -/
def resetCores (cores : List Nat) (p : Nat) (frame : Bool) (bist : List Nat) (s : State) : Ans × State :=
  let one (nv : NonVol) : NonVol := if frame then { nv with rstf := nv.rstf + 1 } else { nv with rstc := nv.rstc + 1 }
  if (s.dev.part p).started then
    if s.dev.locked p then (bad 0x0007, s)
    else let y := partitionReset (one s.nv, s.dev) p bist; ({}, { s with nv := y.1, dev := y.2 })
  else
    let d := match cores with
      | n :: _ => s.dev.wakeFrame (n / 16)
      | [] => s.dev
    ({}, { s with nv := one s.nv, dev := cores.foldl Dev.resetCore d })

/-- CORE_RESET: RESET LEVEL 0 (R384, R385, R412). -/
def execCoreReset (q : Nat) (bist : List Nat) (s : State) : Out :=
  runOp s q 0x90 (resetLevel 0) (fun c s =>
    let n := rstTarget c.payload
    let r := resetCores [n] (s.dev.partOf n) false bist s
    (some r.1, r.2))

/-- FRAME_RESET: RESET LEVEL 1. -/
def execFrameReset (q : Nat) (bist : List Nat) (s : State) : Out :=
  runOp s q 0x90 (resetLevel 1) (fun c s =>
    let f := rstTarget c.payload
    let r := resetCores (List.range' (16 * f) 16) ((s.dev.framePart f).getD 0) true bist s
    (some r.1, r.2))

/-! ## Failures and the module (R343, R376, R384) -/

/-- CORE_FAILURE: an uncorrectable error in the firmware store, or a parity error in the core's state (R376). -/
def execCoreFailure (core : Nat) (s : State) : Out :=
  s.onCore core (fun d =>
    (d.contextFault 0x0C01 (d.partOf core) (d.ctxOf core) core []).modBrd (fun b => { b with
      coreFail := if b.coreFail.contains core then b.coreFail else b.coreFail ++ [core] }))

/-- A reset of the partition is going on: one that a fault asks for, or that of a RESET or DISCARD being executed while the
partition holds an image (R343, R384). -/
def Dev.resetting (d : Dev) (p : Nat) : Bool :=
  (d.part p).resetDue || ((d.part p).image.isSome && (List.range nQueues).any (fun q => (d.queue q).cur.any (fun c =>
    (c.hdr.opcode == 0x90 && ((rstLevel c.payload == 2 && rstTarget c.payload == p) ||
      ((d.part p).started && ((rstLevel c.payload == 0 && d.inPart p (rstTarget c.payload)) ||
        (rstLevel c.payload == 1 && d.framePart (rstTarget c.payload) == some p))))) ||
    (c.hdr.opcode == 0x52 && pyPart c.payload == p))))

/-- PARTITION_RESET_FAILURE: a reset that does not end within 500 ms: 0x0A03, and the image goes (R343). A command that asked for it
finds the partition without an image. -/
def execPartitionResetFailure (part : Nat) (s : State) : Out :=
  s.onUnit (decide (part < nParts)) (fun d =>
    if !(d.resetting part) then d
    else ((d.event 0x0A03 part 0 0x1FF []).unload part).modPart part (fun x => { x with resetDue := false, unloadDue := false }))

/-- MODULE_RESET: RESET LEVEL 3. The reply goes out first, the black box is drained, then P1 to P6 run (Tables 15-6 and 15-7). -/
def execModuleReset (q : Nat) (env : BringUpEnv) (s : State) : Out :=
  onQueue s q (
    match (s.dev.queue q).cur with
    | none => .next s
    | some c =>
      if c.hdr.opcode != 0x90 || decide (bbDepth ≤ s.dev.bb.queue.length) || !(s.dev.myTurn q) then .next s
      else
        let st := refuse s.nv s.dev c
        if st == 0 && !(resetLevel 3 c) then .next s
        else
        let s := { s with dev := { s.dev with qserved := q } }
        if st != 0 then .next { s with dev := s.dev.finish s.dev q c (bad st) }
        else
          let x := boot (s.nv, (s.dev.replied s.dev q c {}).flush) false false env
          .next { s with nv := x.1, dev := x.2 })

end Sys2Proof.Machine
end

