-- ==== Sys2Proof/Machine/Update.lean ====
section
/-! DEFINITION. Firmware update across the installation (R380 to R383, R404): FWUPDATE, the waggle's chunks and bitmaps, and the
staged bundle. -/

namespace Sys2Proof.Machine
open Sys2Proof

def mfBlen (m : List Byte) : Nat := wordAt m 12
def mfSwid (m : List Byte) : Nat := bits (wordAt m 16) 31 16
def mfSrank (m : List Byte) : Nat := bits (wordAt m 16) 15 0
def mfCfoff (m : List Byte) : Nat := wordAt m 20
def mfCflen (m : List Byte) : Nat := wordAt m 24
/-- MGRP: word 8 holds bits [127:96]. -/
def mfGroup (m : List Byte) : Nat := wordAt m 32 * 2 ^ 96 + wordAt m 36 * 2 ^ 64 + wordAt m 40 * 2 ^ 32 + wordAt m 44
def mfChunks (m : List Byte) : Nat := ceilDiv (mfBlen m) 4096

/-- Why FWUPDATE refuses a payload of manifest, VSIG and VPUB; 0 when it does not (R380, R404). -/
def updateFails (nv : NonVol) (d : Dev) (b : List Byte) : Nat :=
  let m := slice b 0 128
  if wordAt m 0 != 0x4D464B48 || decide (33554432 < mfBlen m) || decide (4194304 < mfCflen m) ||
      decide (mfBlen m < mfCfoff m + mfCflen m) then 0x0005
  else if Config.shake256 (slice b 242 57) != Config.vkdig || !(Config.ed448Verify (slice b 242 57) m (slice b 128 114)) ||
      decide (255 < wordAt m 8) || decide (wordAt m 8 < nv.rbc) then 0x000B
  else if d.freeCount 0 4 < 64 then 0x0011
  else if d.brd.update.isSome then 0x0007
  else 0

/-- FWUPDATE (R380). -/
def execFwupdate (q : Nat) (s : State) : Out :=
  runOp s q 0xA2 (fun _ => true) (fun c s =>
    let b := c.payload
    let st := updateFails s.nv s.dev b
    if st != 0 then (some (bad st), s)
    else
      let m := slice b 0 128
      let x := Dev.takePages 0 4 64 s.dev
      let d := x.2.modBrd (fun y => { y with
        ustate := 1, update := some { manifest := m, queue := c.hdr.queue, cseq := c.hdr.seq, pages := x.1 } })
      let d := (d.modFab (fun f => { f with groups := f.groups ++ [mfGroup m] })).joinGroup 1 (mfGroup m)
      let r := d.startJob c 0 0 false 0 [] false
      (some r.1, { s with dev := r.2 }))

/-- WAGGLE_CHUNK: a good chunk goes into staging, any other packet on the channel is discarded (R381). -/
def Dev.waggleChunk (d : Dev) (swid srank seq offset : Nat) (payload : List Byte) : Dev :=
  match d.brd.update with
  | none => d.rxd 1
  | some u =>
    let m := u.manifest
    if swid != mfSwid m || srank != mfSrank m || payload.length != 4100 || offset != 4096 * seq || decide (mfChunks m ≤ seq) then d.rxd 1
    else if Config.crc32c (payload.take 4096) != BitVec.ofNat 32 (wordAt payload 4096) then d
    else
      d.modBrd (fun b => { b with update := some { u with
        staging := ((payload.take 4096).zipIdx).foldl (fun s x => Store.set 0#8 s (offset + x.2) x.1) u.staging,
        got := if u.got.contains seq then u.got else u.got ++ [seq] } })

/-- WAGGLE_CHUNK (R381). The FIN ends a round only for the sender of MISSING_BITMAP_SEND. -/
def execWaggleChunk (swid srank seq offset : Nat) (fin : Bool) (payload : List Byte) (s : State) : Out :=
  let _ := fin
  s.onDev (fun d => d.waggleChunk swid srank seq offset payload)

/-- The update is over: its pages are free, its group is left, its command ends with RESULT (R382, R383). -/
def Dev.endUpdate (d : Dev) (u : Update) (ustate result : Nat) : Dev :=
  ((d.freePages u.pages).modFab (fun f => { f with groups := f.groups.erase (mfGroup u.manifest) })).endJob u.queue u.cseq [result]
    |>.modBrd (fun b => { b with update := none, ustate := ustate })

def Dev.failUpdate (d : Dev) (u : Update) (result : Nat) : Dev := (d.endUpdate u 5 result).event 0x0C06 0 0 0x1FF [result]

/-- MISSING_BITMAP_SEND: the round is over and chunks are missing; after round 3 the update fails with RESULT 1 (R382). -/
def execMissingBitmapSend (s : State) : Out :=
  s.onDev (fun d => match d.brd.update with
    | none => d
    | some u =>
      let miss := (List.range (mfChunks u.manifest)).filter (fun k => !(u.got.contains k))
      if miss.isEmpty then d
      else if 3 ≤ u.round then d.failUpdate u 1
      else (d.send (.bitmap u.round miss)).modBrd (fun b => { b with ustate := 2, update := some { u with round := u.round + 1 } }))

/-- UPDATE_STAGED: every chunk is present; the digests are checked and the bundle goes into the inactive slot (R383). -/
def execUpdateStaged (s : State) : Out :=
  match s.dev.brd.update with
  | none => .next s
  | some u =>
    let m := u.manifest
    let bytes (off n : Nat) : List Byte := (List.range n).map (fun i => Store.get 0#8 u.staging (off + i))
    if u.got.length < mfChunks m then .next s
    else if Config.shake256 (bytes 0 (mfBlen m)) != slice m 64 32 || Config.shake256 (bytes (mfCfoff m) (mfCflen m)) != slice m 96 32 then
      s.onDev (fun d => d.failUpdate u 2)
    else
      let slot := 1 - s.dev.brd.slot
      .next { s with nv := { s.nv with slotManifest := Store.set [] s.nv.slotManifest slot m, bootSlot := slot }
                     dev := (s.dev.endUpdate u 4 0).event 0x0C07 0 0 0x1FF [] }

end Sys2Proof.Machine
end

