-- ==== Sys2Proof/Machine/Bases.lean ====
section
/-! DEFINITION. Base states (R355 to R362): the shard and its digests, the parity group's codes, and a base from its start at a CAP
to its completion or abandonment. -/

namespace Sys2Proof.Machine
open Sys2Proof

/-! ## The shard (R358, Tables 14-4 and 14-5) -/

def mib : Nat := 2 ^ 20

/-- Number of the first record on a context's FD channel that steps up to b have not consumed (R353, Table 14-4). -/
def Partition.cursorAt (x : Partition) (c b : Nat) : Nat :=
  match (x.log.filter (fun r => lrType r == 2 && lrCtx r == c && decide (lrStep r ≤ b))).getLast? with
  | some r => (lrT r 2 + 1) % 2 ^ 32
  | none => Store.get 0 x.restCur c

/-- Micro-batch number that follows the records of steps up to b. -/
def Partition.mbAfter (x : Partition) (c b : Nat) : Nat :=
  let mine := x.log.filter (fun r => lrType r == 2 && lrCtx r == c)
  match (mine.filter (fun r => decide (lrStep r ≤ b))).getLast? with
  | some r => lrT r 3 + 1
  | none => match mine with
    | r :: _ => lrT r 3
    | [] => 0

/-- Constants and NQ of a group for a step, as the header holds them. -/
def Dev.headerParams (d : Dev) (p g step : Nat) : List Byte :=
  let t := match d.imgCtxs p with
    | c :: _ => d.sliceTab c
    | [] => []
  ((List.range 16).map (fun j => toLe 4 (d.cst p g j step))).flatten ++ toLe 4 (unsigned 32 (d.nq p t g step))

/-- Byte offset of the first state region in the shard of n owned slices. -/
def shardStates (n : Nat) : Nat := ceilDiv (4096 + 16 * n) mib * mib

def Dev.ownStateBytes (d : Dev) (o : Nat × Nat) : Nat := stateBytes (d.sliceTab o.1) o.2

/-- Bytes of the module's shard up to the end of its last state region. -/
def Dev.shardLen (d : Dev) (p : Nat) : Nat :=
  let own := d.ownedSlices p
  shardStates own.length + (own.map d.ownStateBytes).sum

def imgDigest (x : Partition) : List Byte := match x.image with
  | some i => hdImgdig i.header
  | none => []

/-- The header of the shard of version b (Table 14-4). -/
def Dev.shardHeader (nv : NonVol) (d : Dev) (p b : Nat) : List Byte :=
  let x := d.part p
  toLe 4 1 ++ toLe 4 b ++ toLe 2 x.rank ++ toLe 2 x.swid ++ toLe 4 (d.ownedSlices p).length ++ toLe 8 x.seed ++ toLe 2 x.epoch ++
  toLe 2 x.nmod ++ toLe 1 (fwVersion nv d / 2 ^ 24) ++ List.replicate 3 0#8 ++ slice (imgDigest x) 0 32 ++
  ((List.range 32).map (fun c => toLe 8 (x.cursorAt c b))).flatten ++
  ((List.range 16).map (fun g => d.headerParams p g (b + 1))).flatten ++ toLe 4 x.lsn ++ List.replicate 2684 0#8

/-- The slice entries (Table 14-5), in ascending local index. -/
def Dev.shardEntries (d : Dev) (p b : Nat) : List (List Nat) :=
  let own := d.ownedSlices p
  (own.zipIdx).map (fun y =>
    let t := d.sliceTab y.1.1
    let i := y.1.2
    [slSlid t i, shardStates own.length + ((own.take y.2).map d.ownStateBytes).sum,
     grpNmom t (slGrp t i) * 256 + unsigned 8 (d.slAdj t i (b % 2)), 0])

/-- The state regions of buffer b mod 2. -/
def Dev.shardRegions (d : Dev) (p b : Nat) : List (List Byte) :=
  (d.ownedSlices p).map (fun o =>
    let t := d.sliceTab o.1
    d.memRead (slState t o.2 + b % 2 * stateBytes t o.2) (stateBytes t o.2))

/-- A shard's bytes up to the end of its last state region; zeros follow. -/
def BaseSlot.bytes (b : BaseSlot) : List Byte :=
  let head := b.header ++ (b.entries.map (fun e => (e.map (toLe 4)).flatten)).flatten
  head ++ List.replicate (shardStates b.entries.length - head.length) 0#8 ++ b.states.flatten

/-- Region r of the shard. -/
def BaseSlot.region (b : BaseSlot) (r : Nat) : List Byte := slice b.bytes (r * gib) gib

/-- Digest of a region (R359 step 2). -/
def regionDigest (swid rank step r : Nat) (bytes : List Byte) : List Byte :=
  Config.shake256 (toLe 2 swid ++ toLe 2 rank ++ toLe 4 step ++ toLe 4 r ++ toLe 4 0 ++ bytes)

def BaseSlot.withDigests (b : BaseSlot) (swid rank n : Nat) : BaseSlot :=
  { b with digests := (List.range n).map (fun r => regionDigest swid rank b.step r (b.region r)) }

/-- The digest of the digest list, as eight DETAIL words. -/
def BaseSlot.listDigest (b : BaseSlot) : List Nat :=
  let l := Config.shake256 b.digests.flatten
  (List.range 8).map (fun i => wordAt l (4 * i))

/-! ## A base is due (R356, R359) -/

/-- Pins on state buffer v mod 2 of every block with owned slices. -/
def Dev.versionPins (d : Dev) (p v : Nat) : List (Nat × Nat) :=
  ((d.ownedSlices p).map (fun o => (o.1, 2 * slBlk (d.sliceTab o.1) o.2 + v % 2))).eraseDups

def Dev.takePins (d : Dev) (l : List (Nat × Nat)) : Dev :=
  l.foldl (fun d y => d.modCtx y.1 (fun c => { c with blkPins := Store.modify 0 c.blkPins y.2 (· + 1) })) d

/-- The base of capped step b starts, or is skipped. -/
def Dev.dueBase (nv : NonVol) (d : Dev) (p b : Nat) : Dev :=
  let x := d.part p
  if !x.slotsKept || !(x.baseNow || b % x.interval == 0) then d
  else if x.bst = 0 && (x.blast = 0xFFFFFFFF || x.bsafe = x.blast) then
    let pins := d.versionPins p b
    let slot : BaseSlot := { step := b, header := d.shardHeader nv p b, entries := d.shardEntries p b, lsnb := x.lsn }
    (d.takePins pins).modPart p (fun x => { x with
      bst := 1, bbuild := b, baseNow := false, baseNew := some slot, basePins := pins.map (fun y => (y.1, y.2, 0)), parity := [],
      parityGot := [], baseDue := x.baseJobs, baseJobs := [] })
  else
    let d := x.baseJobs.foldl (fun d j => d.endJob j.1 j.2 [0x0B03, b]) d
    (d.modPart p (fun x => { x with baseNow := false, baseJobs := [], recCnt := bump x.recCnt 18 1 })).event 0x0B03 p 0 0x1FF []

/-- BASE_COPIED: every region has its digest; pins released, the digest list and the chunks go out (R359 steps 1 to 4, R360). -/
def Dev.baseCopied (d : Dev) (p : Nat) : Dev :=
  let x := d.part p
  match x.baseNew with
  | none => d
  | some b =>
    if x.bst != 1 then d
    else
      let b := ({ b with states := d.shardRegions p b.step } : BaseSlot).withDigests x.swid x.rank (rcBlen x.rcfg)
      let d := (d.unpin (x.basePins.map (fun y => (y.1, y.2.1)))).modPart p (fun y => { y with bst := 2, baseNew := some b, basePins := [] })
      let d := d.event 0x0B01 p 0 0x1FF ([0, 0] ++ b.listDigest)
      let d := x.successors.foldl (fun d r => d.recSend p r 4066 b.step 0 b.digests.flatten) d
      (List.range (rcD x.rcfg)).foldl (fun d k =>
        let chunk := slice b.bytes (k * rcC x.rcfg * gib) (rcC x.rcfg * gib)
        let j := rcRow x.rcfg (rcPos x.rcfg) k
        let d := d.recSend p (x.groupRank j) 4065 b.step 0 chunk
        if rcCode x.rcfg = 2 then d.recSend p (x.groupRank ((j + 1) % max 1 (rcGsize x.rcfg))) 4065 b.step 0 chunk else d) d

/-- BASE_COPIED (R359). -/
def execBaseCopied (part : Nat) (s : State) : Out := onPart s part (fun d => d.baseCopied part)

/-- PARITY_CONTRIBUTION_RECEIPT (R360). -/
def execParityContributionReceipt (part member step chunk offset : Nat) (payload : List Byte) (s : State) : Out :=
  onPart s part (fun d => d.parityReceipt part member step chunk offset payload)

/-- Every packet that a partition sent to its group on a recovery channel is acknowledged. -/
def Dev.recIdle (d : Dev) (p chan : Nat) : Bool :=
  d.fab.send.all (fun y => match y.2 with
    | some x => !(y.1 / 2 ^ 24 == p && x.chan == chan) || (x.waiting.isEmpty && x.sent.isEmpty)
    | none => true)

/-- BASE_COMPLETE: every contribution is held, every send acknowledged (R359 step 5). -/
def Dev.baseComplete (d : Dev) (p : Nat) : Dev :=
  let x := d.part p
  match x.baseNew with
  | none => d
  | some b =>
    if x.bst != 2 || !((expected x.rcfg).all x.parityGot.contains) || !(d.recIdle p 4065) || !(d.recIdle p 4066) then d
    else
      let d := d.modPart p (fun y => { y with
        bst := 0, bbuild := 0, blast := b.step, baseOld := some b, baseNew := y.baseOld, parity := y.parityOld, parityOld := y.parity,
        parityGot := [], baseDue := [], recCnt := bump y.recCnt 17 1 })
      let d := (d.logAppend p 6 b.step [b.lsnb, 0, 0, 0, 0]).event 0x0B02 p 0 0x1FF []
      x.baseDue.foldl (fun d j => d.endJob j.1 j.2 ([0, b.step] ++ b.listDigest)) d

/-- BASE_COMPLETE (R359). -/
def execBaseComplete (part : Nat) (s : State) : Out := onPart s part (fun d => d.baseComplete part)

/-- BASE_ABANDONMENT: a recovery channel to a member has failed, or a member has abandoned the base (R362). -/
def execBaseAbandonment (part : Nat) (by' : Abandoner) (s : State) : Out :=
  onPart s part (fun d => match by' with
    | .self => d.abandonBase part
    | .member r => if (d.part part).others.contains r then d.abandonBase part else d)

/-- LOG_RECORD_RECEIPT (R351). -/
def execLogRecordReceipt (part rank : Nat) (words : List Nat) (s : State) : Out :=
  onPart s part (fun d => d.mirrorRecord part rank ((List.range 8).map (fun i => words.getD i 0 % 2 ^ 32)))

end Sys2Proof.Machine
end

