-- ==== Sys2Proof/Machine/Electrical.lean ====
section
/-! DEFINITION. The electrical events (R424, R431 to R438, R443): the input, the standby rail, the hold-up store, ENABLE's fall and
the cages. -/

namespace Sys2Proof.Machine
open Sys2Proof

/-- The queen runs (R371, R372). -/
def Dev.powered (d : Dev) : Bool := d.up || d.brd.state == .minimal

/-- Everything queued is programmed, what units hold included (R423, R424). -/
def Dev.flushAll (d : Dev) : Dev :=
  let d := d.flush
  ((List.range d.bb.waiting.length).foldl (fun d _ => d.raiseWaiting) d).flush

/-- The power-off sequence of R424 with a record: the flush on the hold-up store, then Standby, or Off without the standby rail.
While HUOK is 0 any number of the queued records may stay unprogrammed (R433). -/
def Dev.powerOff (d : Dev) (code : Nat) : Dev :=
  let d := d.recordOnly code 0 []
  let d := if d.brd.huok then d.flushAll else
    let x := d.freshChoice (d.bb.queue.length + 1)
    (List.range x.1).foldl (fun d _ => d.program) x.2
  (d.dark (if d.brd.sb12 then .standby else .off)).modBrd (fun b => { b with
    huok := false, internalRail := false, present := b.sb12, uvw := false })

/-- The state of a module that is not powered up: Standby with the rail, Off without (Table 1-6). -/
def Dev.atRest (d : Dev) : Dev := d.modBrd (fun b => { b with state := if b.sb12 then .standby else .off, present := b.sb12 })

/-- P0 starts if it may. -/
def startUp (s : State) (d : Dev) (env : BringUpEnv) : Out :=
  if d.mayStart then let x := boot (s.nv, d) true false env; .next { s with nv := x.1, dev := x.2 } else .next { s with dev := d }

/-! ## ENABLE's fall and the 54 V input (R424, R432, R435, R436) -/

/-- ENABLE_DEASSERT (R424, R435, R436): also the way out of Tripped. -/
def execEnableDeassert (s : State) : Out :=
  s.onDev (fun d =>
    if !d.brd.enable then d
    else
      let d := d.modBrd (fun b => { b with enable := false, faultPin := false, ovHold := false })
      if d.powered then d.powerOff 0x0E0A else d.atRest)

/-- POWER_LOSS: below 45.0 V for 20 µs (R424, R432). How far below is a free value. -/
def execPowerLoss (s : State) : Out :=
  s.onDev (fun d =>
    let x := d.freshChoice 45000
    let d := x.2.modBrd (fun b => { b with vinMv := x.1, uvw := false })
    if d.powered then d.powerOff 0x0E09 else d)

/-- INPUT_OVERVOLTAGE: above 59.0 V for 20 µs (R432). How far above is a free value. -/
def execInputOvervoltage (s : State) : Out :=
  s.onDev (fun d =>
    let x := d.freshChoice 6000
    let d := x.2.modBrd (fun b => { b with vinMv := 59001 + x.1, uvw := false })
    if !d.brd.enable then d.modBrd (fun b => { b with ovlo := true, ovloNew := true })
    else
      let on := d.powered
      let d := if on then d.powerOff 0x0E0F else d
      d.modBrd (fun b => { b with ovlo := true, ovloNew := b.ovloNew || !on, ovHold := true, faultPin := true }))

/-- INPUT_LOW: from 45.0 V to 48.0 V; the event comes once per entry (R432). -/
def execInputLow (mv : Nat) (s : State) : Out :=
  s.onDev (fun d =>
    if mv < 45000 || 48000 ≤ mv then d
    else
      let d' := d.modBrd (fun b => { b with vinMv := mv, uvw := true })
      if d.powered && !d.brd.uvw then d'.event 0x0E0D 0 0 0x1FF [] else d')

/-- INPUT_POWER_RETURN: the input is back at 48.0 V or more; a module that waits in Standby starts at P0 (R424, R432, R436). -/
def execInputPowerReturn (mv : Nat) (env : BringUpEnv) (s : State) : Out :=
  if mv < 48000 || 59000 < mv then .next s
  else startUp s (s.dev.modBrd (fun b => { b with vinMv := mv, uvw := false })) env

/-! ## The standby rail and the hold-up store (R433, R435) -/

/-- STANDBY_RAIL_LOST: a module that runs keeps running on the internal rail, any other is Off (R24, R433). -/
def execStandbyRailLost (s : State) : Out :=
  s.onDev (fun d =>
    if !d.brd.sb12 then d
    else
      let d := d.modBrd (fun b => { b with sb12 := false })
      if d.powered then (d.modBrd (fun b => { b with internalRail := true })).event 0x0E0E 0 0 0x1FF []
      else d.atRest.modBrd (fun b => { b with faultPin := false }))

/-- STANDBY_RAIL_PRESENT: PRESENT is driven; from Off the module enters Standby, or starts at P0 where ENABLE is asserted
(R24, R370, R435). -/
def execStandbyRailPresent (env : BringUpEnv) (s : State) : Out :=
  let d := s.dev.modBrd (fun b => { b with sb12 := true, internalRail := false, present := true })
  startUp s (if d.brd.state == .off || (d.brd.state == .booting && !d.brd.enable) then d.atRest else d) env

/-- HOLD_UP_CHARGED (R433). -/
def execHoldUpCharged (s : State) : Out := s.onDev (fun d => if d.brd.sb12 then d.modBrd (fun b => { b with huok := true }) else d)

/-! ## Cages (R438) -/

def onCage (s : State) (k : Nat) (f : Dev → Dev) : Out := s.onUnit (decide (k < nCages)) f

/-- CAGE_OVERCURRENT. -/
def execCageOvercurrent (cage : Nat) (s : State) : Out :=
  onCage s cage (fun d =>
    if !((d.cage cage).powered) then d
    else ((d.modCage cage (fun c => { c with oc := true, ocCut := true, powered := false })).linkLost cage).event 0x0E0C 0 0 0x1FF [cage])

/-- The queen powers this cage: all while the module runs, 4 to 7 in Minimal boot. -/
def Dev.cageServed (d : Dev) (k : Nat) : Bool := d.up || (d.brd.state == .minimal && decide (4 ≤ k))

/-- DEVICE_INSERTION: an inserted device is powered, unless its cage's power is cut or off, and its port trains (R273, R438). -/
def execDeviceInsertion (cage watts media : Nat) (trained : Bool) (s : State) : Out :=
  onCage s cage (fun d =>
    if (d.cage cage).prs then d
    else
      let d := d.modCage cage (fun c => { c with prs := true, padv := watts % 256, media := if media ≤ 3 then media else 0, ocCut := c.ocCut && c.oc })
      if d.cageServed cage && (d.cage cage).cen && !((d.cage cage).ocCut) then
        let d := d.powerCage cage
        if trained then d.portUp cage else d
      else d)

/-- DEVICE_REMOVAL: reported as link down. -/
def execDeviceRemoval (cage : Nat) (s : State) : Out :=
  onCage s cage (fun d =>
    if !((d.cage cage).prs) then d
    else ((d.linkLost cage).modCage cage (fun c => { c with prs := false, padv := 0, lpm := false, powered := false, media := 0 })).modPort cage
      (fun x => { x with media := 0 }))

end Sys2Proof.Machine
end

