-- ==== Sys2Proof/Machine/Matrix.lean ====
section
/-! DEFINITION. The matrix engine (chapter 3): MMA, the held-tile load, MDRAIN and MALIGN. A command issues the instruction that
waits in its unit's slot, when its issue conditions hold; the instruction's whole effect is then one step. -/

namespace Sys2Proof.Machine
open Sys2Proof

/-- Earlier instructions of the engine that have not issued. -/
def MatrixEngine.earlier (m : MatrixEngine) (o : MatOp) : List MatOp :=
  ([m.array, m.drainer, m.aligner].filterMap id).filter 
    (fun e => decide (e.uid < o.uid) || e.uid == o.uid && decide (e.seq < o.seq))

/-- An earlier instruction still has to read or write what this one needs (R68, R70). Two instructions that write the same bytes
keep queue order, which R70 does not list (notes/assumptions/142). -/
def MatrixEngine.conflict (m : MatrixEngine) (o e : MatOp) : Bool :=
  rangesMeet (m.stillReads o) (mxWrites e) || rangesMeet (mxWrites o) (m.stillReads e) || rangesMeet (mxWrites o) (mxWrites e) ||
  (mxUnit o.w0 != mxUnit e.w0 && ((mxBanks o).1 && (mxBanks e).1 || (mxBanks o).2 && (mxBanks e).2))

def MatrixEngine.blocked (m : MatrixEngine) (o : MatOp) : Bool := (m.earlier o).any (m.conflict o)

/-- A fault of a matrix instruction (R82): it aborts the task that pushed it. -/
def Dev.mxFault (d : Dev) (n : Nat) (o : MatOp) (code addr : Nat) : Dev :=
  d.abort n o.uid ⟨code, true, o.tid, o.pc, addr, false⟩

/-- MXWAIT gains the cycles of this wait (Table 3-13, notes/assumptions/8). -/
def Dev.mxWaits (d : Dev) (n : Nat) : Dev :=
  let x := d.freshCycles
  x.2.modCore n (fun c => { c with mx := { c.mx with wait := c.mx.wait + BitVec.ofNat 32 x.1 } })

/-- After an issue: the slot is free, the queue moves on, ended tasks may settle. -/
def Core.mxDone (c : Core) : Core :=
  ({ c with progress := true, mxIssued := true } : Core).dispatch.settle

/-! ## Operand elements -/

/-- One operand element: code or digit, scale byte or unit exponent, digit sign. -/
structure Elt where
  code : Nat
  scale : Int
  sign : Bool
  deriving DecidableEq, Repr

/-- Element k of streamed row m (Table 3-3). -/
def xElt (c : Core) (o : MatOp) (m k : Nat) : Elt :=
  let p := mmaPlace o m k
  let byte := (c.padByte p.code).toNat
  match mmaMode o with
  | 0 => ⟨if k % 2 = 0 then byte % 16 else byte / 16, (c.padByte p.scale).toNat, false⟩
  | 1 => ⟨byte, (c.padByte p.scale).toNat, false⟩
  | 2 => ⟨byte, 0, false⟩
  | _ => ⟨byte, signed 16 (leNat (c.padRead p.scale 2)), bit (c.padByte p.sign).toNat (k % 8)⟩

/-- Element k of column n of the held tile (Table 3-4). -/
def hElt (o : MatOp) (t : Array Byte) (n k : Nat) : Elt :=
  let r := k / mmaPer o
  let g := r / mmaSpan o
  let base := g * (mmaSide o + mmaSpan o * 128)
  let at' (i : Nat) : Nat := (t.getD i 0#8).toNat
  let byte := at' (base + mmaSide o + r % mmaSpan o * 128 + n)
  match mmaMode o with
  | 0 => ⟨if k % 2 = 0 then byte % 16 else byte / 16, at' (base + n), false⟩
  | 1 => ⟨byte, at' (base + n), false⟩
  | 2 => ⟨byte, 0, false⟩
  | _ => ⟨byte, signed 16 (at' (base + 512 + 2 * n) + 256 * at' (base + 513 + 2 * n)),
      bit (at' (base + 4 * n + r % 32 / 8)) (r % 8)⟩

/-- The contribution of one product (R64). -/
def mmaContribution (o : MatOp) (x h : Elt) : Int :=
  let p := match mmaMode o with
    | 0 => plContribution true x.code x.scale.toNat h.code h.scale.toNat (mmaPsh o) (mmaE o)
    | 1 => plContribution false x.code x.scale.toNat h.code h.scale.toNat (mmaPsh o) (mmaE o)
    | 2 => signed 8 x.code * signed 8 h.code
    | _ => digitContribution x.sign x.code x.scale h.sign h.code h.scale (mmaPsh o) (mmaE o)
  if mmaNeg o then -p else p

/-- Element k of streamed row m is masked (R74). -/
def mmaEltMasked (c : Core) (o : MatOp) (m k : Nat) : Bool :=
  mmaEmsk o && !(bit (c.padByte (mmaMask o + 32 + 32 * m + k / 8)).toNat (k % 8))

/-- Add a row's products into one entry in reduction order (R65); the flag says that it overflowed now (R34). -/
def mmaEntry (o : MatOp) (xs hs : List Elt) (e : AccEntry) : AccEntry × Bool :=
  let start : Int × Bool × Bool := if e.valid then (e.a, e.lock, false) else (0, false, false)
  let r := (xs.zip hs).foldl (fun (s : Int × Bool × Bool) p =>
    let y := accAdd s.1 s.2.1 (mmaContribution o p.1 p.2)
    (y.1, y.2.1, s.2.2 || y.2.2)) start
  (⟨r.1, true, r.2.1⟩, r.2.2)

/-- An instruction's effect on one bank (R66): the mode record, then every fed entry. -/
def mmaBankRun (c : Core) (o : MatOp) (t : Array Byte) (b : Bank) : Bank × Bool :=
  let b0 : Bank := { mode := some (mmaI8 o, mmaE o), ent := if mmaAcc o then b.ent else [] }
  let ks := List.range (mmaK o)
  (List.range (mmaM o)).foldl (fun acc m =>
    if mmaRowMasked c o m then acc
    else
      let live := ks.filter (fun k => !(mmaEltMasked c o m k))
      let xs := live.map (xElt c o m)
      (List.range (mmaCols o)).foldl (fun (acc : Bank × Bool) n =>
        let key := 128 * m + n
        let r := mmaEntry o xs (live.map (hElt o t n)) (Store.get {} acc.1.ent key)
        ({ acc.1 with ent := Store.set {} acc.1.ent key r.1 }, acc.2 || r.2)) acc) (b0, false)

/-- The bank's mode record lets this class and exponent in (R66). -/
def modeOk (b : Bank) (i8 : Bool) (e : Int) : Bool :=
  match b.mode with
  | none => true
  | some m => m.1 == i8 && decide (m.2 = e)

/-- What the engine is after an MMA has run (R66, R73, R86). -/
def mmaRun (c : Core) (o : MatOp) (held : List Byte) : Core :=
  let t := held.toArray
  let ra := if (mmaBanks o).1 then mmaBankRun c o t c.mx.bankA else (c.mx.bankA, false)
  let rb := if (mmaBanks o).2 then mmaBankRun c o t c.mx.bankB else (c.mx.bankB, false)
  let gated := ((List.range (mmaM o)).filter (mmaRowMasked c o)).length
  let mx := { c.mx with
    bankA := ra.1, bankB := rb.1, array := none, shadow := none, active := held,
    inArray := c.mx.inArray ++ [(o.uid, mmaBanks o)],
    fed := c.mx.fed + BitVec.ofNat 32 (mmaM o - gated), gate := c.mx.gate + BitVec.ofNat 32 gated }
  { c with mx := mx.addFlags o.uid (if ra.2 || rb.2 then convFlags fAOV else 0#12) }

/-- Issue the MMA in the array's slot (R68). -/
def Dev.mma (d : Dev) (n : Nat) : Dev :=
  let c := d.core n
  match c.mx.array, c.mx.shadow with
  | some o, some held =>
    if c.mx.blocked o then d.mxWaits n
    else
      let rs := d.rings n
      match c.readCheck rs false .stream (mmaMaskRanges o ++ mmaAllRanges o) with
      | .wait => d.mxWaits n
      | _ =>
        if mmaAcc o && (((mmaBanks o).1 && !(modeOk c.mx.bankA (mmaI8 o) (mmaE o))) ||
            ((mmaBanks o).2 && !(modeOk c.mx.bankB (mmaI8 o) (mmaE o)))) then d.mxFault n o 0x0202 0
        else
          match c.readCheck rs (d.guard n) .engine (mmaMaskRanges o ++ mmaStreamRanges c o) with
          | .wait => d.mxWaits n
          | .fault code a _ => d.mxFault n o code a
          | .ok _ =>
            let c1 := mmaRun c o held
            let c2 := if mmaXrel o then c1.releaseRead rs (mmaAllRanges o) else c1
            d.setCore n c2.mxDone
  | some _, none => d.mxWaits n
  | none, _ => d

def execMma (core : Nat) (s : State) : Out := s.onEngine core (fun d => d.mma core)

/-- Load the held tile of the MMA in the array's slot into the shadow hold (R69); HREL releases its ring slots in the cycle after the
load ends (R165). After a context switch an MMA that had its tile reloads that tile, whatever has become of its slot
(R84, R87; notes/assumptions/149). -/
def Dev.heldLoad (d : Dev) (n : Nat) : Dev :=
  let c := d.core n
  match c.mx.array, c.mx.shadow with
  | some o, none =>
    let rs := d.rings n
    let held := [(mmaH o, mmaHeldBytes o)]
    if c.mx.reload.isSome then
      d.setCore n { c with mx := { c.mx with shadow := c.mx.reload, reload := none }, progress := true }
    else if (c.mx.earlier o).any (fun e => rangesMeet held (mxWrites e)) then d
    else
      match c.readCheck rs (d.guard n) .engine held with
      | .wait => d
      | .fault code a _ => d.mxFault n o code a
      | .ok _ =>
        let c1 : Core := { c with mx := { c.mx with shadow := some (c.padRead (mmaH o) (mmaHeldBytes o)) }, progress := true }
        d.setCore n (if mmaHrel o then c1.releaseRead rs held else c1)
  | _, _ => d

def execHeldTileLoad (core : Nat) (s : State) : Out := s.onEngine core (fun d => d.heldLoad core)

/-! ## Drains (R75, R81) -/

/-- The rounding of element index `i` in stream `sid` (R38, R153). -/
def Dev.rnd (d : Dev) (n mode sid i : Nat) : Rnd :=
  if mode = 0 then .ne
  else
    let p := d.partOf n
    .sr (genU (d.part p).seed (d.partStamp p).step sid (i % 2 ^ 32))

/-- One drained element of a packed format, and its flags (Table 2-10). -/
def drainElt (fmt : Nat) (q e a : Int) (r : Rnd) : List Byte × Flags :=
  let x : FNum := .fin (dyInt a (e - 30))
  match fmt with
  | 4 => let y := toFloat 24 x r; (toLe 4 y.1, y.2)
  | 3 => let y := toFloat 8 x r; (toLe 2 y.1, y.2)
  | 5 => let y := toG 16 q x r; (toLe 2 (unsigned 16 y.1), y.2)
  | 6 => let y := toG 32 q x r; (toLe 4 (unsigned 32 y.1), y.2)
  | 2 => let y := toI8 q (.fin (dyInt a 0)) r; (toLe 1 (unsigned 8 y.1), y.2)
  | _ => let y := toIntSat (dyInt a 0) 0 (2 ^ 31) (2 ^ 31 - 1) .ne; (toLe 4 (unsigned 32 y.1), fIf y.2 fSAT)

/-- A drained row of a packed format: the cells it writes, and its flags. -/
def drainRow (o : MatOp) (b : Bank) (e : Int) (rnd : Nat → Rnd) (m : Nat) : List (Nat × Byte) × Flags :=
  let es := fmtBytes (mdFmt o)
  (List.range (mdCols o)).foldl (fun acc n =>
    let x := Store.get {} b.ent (128 * m + n)
    let base := mdAddr o + m * mdStride o + n * es
    if x.valid then
      let y := drainElt (mdFmt o) (mdQ o) e x.a (rnd (mdIdx o + 128 * m + n))
      (acc.1 ++ y.1.zipIdx.map (fun z => (base + z.2, z.1)), acc.2 ||| y.2)
    else if mdZf o then (acc.1 ++ (List.range es).map (fun i => (base + i, 0#8)), acc.2)
    else acc) ([], 0#8)

/-- A drained PL row (R75, R81): scale bytes and codes of every block that is written, then the side area's reserved
bytes when anything is. `c` is the core as the drain's earlier rows leave it: a nibble that is kept comes from there. -/
def drainPLRow (c : Core) (o : MatOp) (b : Bank) (e : Int) (rnd : Nat → Rnd) (m : Nat) : List (Nat × Byte) × Flags :=
  let pl4 := mdFmt o == 0
  let base := mdAddr o + m * mdStride o
  let ent (n : Nat) : AccEntry := Store.get {} b.ent (128 * m + n)
  let val (n : Nat) : FNum := .fin (dyInt (ent n).a (e - 30))
  let blocks := List.range (mdCols o / 32)
  let r := blocks.foldl (fun (acc : List (Nat × Byte) × List (Nat × Byte) × Flags) k =>
    let ns := List.range' (32 * k) 32
    let valid := ns.filter (fun n => (ent n).valid)
    if valid.isEmpty && !(mdZf o) then acc
    else
      let sb := if valid.isEmpty then (if mdAscl o then 0 else mdScale o)
        else blockScale (if mdAscl o then none else some (mdScale o)) (valid.map val)
      let codes := ns.map (fun n => if (ent n).valid then (some (toPL pl4 sb (val n) (rnd (mdIdx o + 128 * m + n))))
        else if mdZf o then some (0, 0#8) else none)
      let fl := codes.foldl (fun f x => match x with | some y => f ||| y.2 | none => f) 0#8
      let cells :=
        if pl4 then
          (List.range 16).filterMap (fun j =>
            let a := base + 32 + 16 * k + j
            let old := (c.padByte a).toNat
            match codes.getD (2 * j) none, codes.getD (2 * j + 1) none with
            | none, none => none
            | lo, hi =>
              let l := match lo with | some y => y.1 | none => old % 16
              let h := match hi with | some y => y.1 | none => old / 16
              some (a, BitVec.ofNat 8 (l + 16 * h)))
        else
          (codes.zipIdx).filterMap (fun y => match y.1 with
            | some z => some (base + 32 + 32 * k + y.2, BitVec.ofNat 8 z.1)
            | none => none)
      (acc.1 ++ [(base + k, BitVec.ofNat 8 sb)], acc.2.1 ++ cells, acc.2.2 ||| fl)) ([], [], 0#8)
  if r.1.isEmpty then ([], r.2.2)
  else
    let named := if pl4 then 8 else 4
    (r.1 ++ (List.range' named (32 - named)).map (fun i => (base + i, 0#8)) ++ r.2.1, r.2.2)

/-- The class a drain's format belongs to (R81): true for I8. -/
def mdI8 (o : MatOp) : Bool := mdFmt o == 2 || mdFmt o == 8

/-- The MMAs that may still add once every one into this bank has added its last contribution (R70): they add in order. -/
def addedInto (bankB : Bool) : List (Nat × Bool × Bool) → List (Nat × Bool × Bool)
  | [] => []
  | x :: r => if (x :: r).any (fun y => if bankB then y.2.2 else y.2.1) then addedInto bankB r else x :: r

/-- Drained row m of bank `b`: the cells it writes, and its flags. -/
def drainAnyRow (c : Core) (o : MatOp) (b : Bank) (rnd : Nat → Rnd) (m : Nat) : List (Nat × Byte) × Flags :=
  let e := match b.mode with | some m => m.2 | none => 0
  if mdPL o then drainPLRow c o b e rnd m else drainRow o b e rnd m

/-- The bank that a drain reads. -/
def mdSource (c : Core) (o : MatOp) : Bank := if mdBank o then c.mx.bankB else c.mx.bankA

/-- Drain these rows in order: the core with their bytes, and the flags so far. -/
def drainRows (rs : List RingDecl) (o : MatOp) (b : Bank) (rnd : Nat → Rnd) : List Nat → Core × Flags → Core × Flags
  | [], x => x
  | m :: r, x =>
    let y := drainAnyRow x.1 o b rnd m
    drainRows rs o b rnd r (x.1.padRuns rs (mkRuns y.1) false, x.2 ||| y.2)

/-- What the core is after a drain (R81): every row written, the bank unchanged. -/
def drainRun (c : Core) (rs : List RingDecl) (o : MatOp) (rnd : Nat → Rnd) : Core :=
  let x := drainRows rs o (mdSource c o) rnd (List.range (mdM o)) (c, 0#8)
  let mx := { x.1.mx with drainer := none, inArray := addedInto (mdBank o) x.1.mx.inArray }
  { x.1 with mx := mx.addFlags o.uid (convFlags x.2) }

/-- Issue the drain in the drainer's slot (R70). -/
def Dev.mdrain (d : Dev) (n : Nat) : Dev :=
  let c := d.core n
  match c.mx.drainer with
  | none => d
  | some o =>
    let rs := d.rings n
    if c.mx.blocked o || c.writeWaits rs (mdRanges o) then d
    else
      match (mdSource c o).mode with
      | some m => if m.1 == mdI8 o then
          d.setCore n (drainRun c rs o (fun i => d.rnd n (mdRnd o) (mdSid o) i)).mxDone
        else d.mxFault n o 0x0202 0
      | none => d.setCore n (drainRun c rs o (fun i => d.rnd n (mdRnd o) (mdSid o) i)).mxDone

def execMdrain (core : Nat) (s : State) : Out := s.onEngine core (fun d => d.mdrain core)

/-! ## Block alignment (R50, R76) -/

/-- Source element (r, n) of an MALIGN. -/
def maVal (c : Core) (o : MatOp) (r n : Nat) : FNum :=
  let base := maSrc o + r * maSstride o
  if maFp32 o then f32 (leNat (c.padRead (base + 4 * n) 4)) else bf16 (leNat (c.padRead (base + 2 * n) 2))

def fnumNeg : FNum → Bool
  | .fin d => d.neg
  | .inf n => n
  | .nan n => n

/-- The planes of one element: sign and magnitude of each (Table 3-7), and its flags (R50). -/
def maPlanesOf (fp : Bool) (xb : Int) (x : FNum) : List (Bool × Nat) × Flags :=
  let neg := fnumNeg x
  if fp then
    let a := alignMag 24 xb x
    ([(neg, a.1 / 65536), (neg, a.1 / 256 % 256), (neg, a.1 % 256)], a.2)
  else
    let a := alignMag 8 xb x
    let res := match x with
      | .fin d =>
        let h : Dy := ⟨!d.neg, a.1, xb - 7⟩
        let rr := dyAdd d h
        (rr.neg && rr.m != 0, scaleRound rr.m (rr.e + 15 - xb) .ne)
      | _ => (false, 0)
    ([(neg, a.1), res], a.2)

/-- The unit exponent of plane p (Table 3-7). -/
def maUnit (fp : Bool) (xb : Int) (p : Nat) : Int :=
  match fp, p with
  | true, 1 => xb - 15
  | true, 2 => xb - 23
  | false, 1 => xb - 15
  | _, _ => xb - 7

/-- The blocks of an MALIGN: for the streamed layout 32 consecutive elements of a row, for the held layout 32 consecutive
rows of a column; the element positions of each, none where a partial block lacks one. -/
def maBlocks (o : MatOp) : List (Nat × Nat × List (Option (Nat × Nat))) :=
  if maHeld o then
    ((List.range (ceilDiv (maRows o) 32)).map (fun g => (List.range (maN o)).map (fun n =>
      (g, n, (List.range 32).map (fun i => if 32 * g + i < maRows o then some (32 * g + i, n) else none))))).flatten
  else
    ((List.range (maRows o)).map (fun r => (List.range (maN o / 32)).map (fun k =>
      (r, k, (List.range 32).map (fun i => some (r, 32 * k + i)))))).flatten

/-- Bits of a list as little-endian bytes. -/
def bitBytes (l : List Bool) : List Byte :=
  toLe (l.length / 8) (l.foldr (fun b acc => b2n b + 2 * acc) 0)

/-- The cells that one block writes in every plane (R76). -/
def maBlockCells (c : Core) (o : MatOp) (b : Nat × Nat × List (Option (Nat × Nat))) : List (Nat × Byte) × Flags :=
  let vals := b.2.2.map (fun p => match p with
    | some q => maVal c o q.1 q.2
    | none => .fin ⟨false, 0, 0⟩)
  let xb := (alignExp vals).getD 0
  let els := vals.map (maPlanesOf (maFp32 o) xb)
  let fl := els.foldl (fun f e => f ||| e.2) 0#8
  let cells := ((List.range (maPlanes o)).map (fun p =>
    let base := maDst o + p * maPstride o
    let pl := els.map (fun e => e.1.getD p (false, 0))
    let signs := bitBytes (pl.map (·.1))
    let unit := toLe 2 (unsigned 16 (maUnit (maFp32 o) xb p))
    let place (a : Nat) (l : List Byte) : List (Nat × Byte) := l.zipIdx.map (fun x => (a + x.2, x.1))
    if maHeld o then
      let g := base + b.1 * (768 + 32 * 128)
      place (g + 4 * b.2.1) signs ++ place (g + 512 + 2 * b.2.1) unit ++
        (pl.zipIdx).filterMap (fun x => match b.2.2.getD x.2 none with
          | some q => some (g + 768 + q.1 % 32 * 128 + b.2.1, BitVec.ofNat 8 x.1.2)
          | none => none)
    else
      let row := base + 160 * b.1
      place (row + 4 * b.2.1) signs ++ place (row + 16 + 2 * b.2.1) unit ++
        place (row + 32 + 32 * b.2.1) (pl.map (fun x => BitVec.ofNat 8 x.2)) ++
        place (row + 24) (List.replicate 8 0#8))).flatten
  (cells, fl)

/-- Some block holds an infinity or a NaN (R50). -/
def maInvalid (c : Core) (o : MatOp) : Bool :=
  (maBlocks o).any (fun b => (alignExp (b.2.2.map (fun p => match p with
    | some q => maVal c o q.1 q.2
    | none => .fin ⟨false, 0, 0⟩))).isNone)

/-- What the core is after an MALIGN (R76). -/
def malignRun (c : Core) (rs : List RingDecl) (o : MatOp) : Core :=
  let blocks := (maBlocks o).map (maBlockCells c o)
  let c1 := blocks.foldl (fun (c : Core) b => c.padRuns rs (mkRuns b.1) false) c
  let fl := blocks.foldl (fun f b => f ||| b.2) 0#8
  { c1 with mx := { c1.mx with aligner := none }.addFlags o.uid (convFlags fl) }

/-- Issue the MALIGN in the aligner's slot (R70). -/
def Dev.malign (d : Dev) (n : Nat) : Dev :=
  let c := d.core n
  match c.mx.aligner with
  | none => d
  | some o =>
    let rs := d.rings n
    if c.mx.blocked o || c.writeWaits rs (maDstRanges o) then d
    else
      match c.readCheck rs (d.guard n) .engine (maSrcRanges o) with
      | .wait => d
      | .fault code a _ => d.mxFault n o code a
      | .ok _ => if maInvalid c o then d.mxFault n o 0x0201 0 else d.setCore n (malignRun c rs o).mxDone

def execMalign (core : Nat) (s : State) : Out := s.onEngine core (fun d => d.malign core)

end Sys2Proof.Machine
end

