-- ==== Sys2Proof/Machine/Training.lean ====
section
/-! DEFINITION. The commands of a training job: START, CAP, STEPPARAM and SNAPSHOT (R315 to R318, R349, R355, R396). -/

namespace Sys2Proof.Machine
open Sys2Proof

/-! ## START (R315) -/

/-- The recovery configuration is invalid (R355). -/
def Partition.badConfig (x : Partition) : Bool :=
  rcfgBad x.rcfg || (rcCode x.rcfg != 0 && x.groupRank (rcPos x.rcfg) != x.rank)

/-- A key that ENCREQ makes necessary is missing (R396; notes/assumptions/47). -/
def Dev.keyMissing (d : Dev) (p : Nat) : Bool :=
  let x := d.part p
  let cs := d.imgCtxs p
  let feeds (c : Nat) : Bool := (d.chanEntries p 1).any (fun e => ceDest e.2 == 4 && ceCtx e.2 == c)
  let bound (c : Nat) : Bool := (List.range nQueues).any (fun q => (d.queue q).bound && (d.queue q).part == p && (d.queue q).ctx == c)
  (bit x.encreq 0 && cs.any (fun c => feeds c && !(d.hasKey 2 c))) || (bit x.encreq 1 && !(d.hasKey 4 p)) ||
  (bit x.encreq 2 && ((rcCode x.rcfg != 0 && !(d.hasKey 4 p)) || (bit x.logrank 16 && !(cs.any (d.hasKey 3))))) ||
  (bit x.encreq 3 && cs.any (fun c => bound c && !(d.hasKey 3 c)))

/-- Deep pages of the log areas (R349). -/
def Partition.logPages (x : Partition) : Nat := 128 * (1 + rcE x.rcfg)

/-- Version and status of every slice that the module does not own: it waits for the push of version v (notes/assumptions/48). -/
def Dev.replicasBefore (d : Dev) (p v : Nat) : Dev :=
  (d.imgCtxs p).foldl (fun d c =>
    let t := d.sliceTab c
    (List.range (slN t)).foldl (fun d i =>
      if slOwn t i then d else 
        d.setStatus t i ((v + 2 ^ 32 - 1) % 2 ^ 32) false (d.slAdj t i 0) (d.slAdj t i 1) ((v + 2 ^ 32 - 1) % 2 ^ 32)) d) d

/-- The stamp of every context at the start of a step (R144). -/
def Dev.stampsAt (d : Dev) (p step : Nat) : Dev :=
  (d.imgCtxs p).foldl (fun d c => d.modCtx c (fun x => { x with stamp := { step := step }, due := [], hold := false })) d

/-- The stamps of every context at the start of a step, cores at image start, the first resident context and its schedule. -/
def Dev.beginStep (d : Dev) (p step : Nat) : Dev :=
  let d := d.stampsAt p step
  let d := if (d.part p).resident.isNone then d.firstResident p else d
  match (d.part p).resident with
  | some c => d.scheduleDue c
  | none => d

/-- The job starts: what START does once it is accepted. -/
def Dev.startJobAt (nv : NonVol) (d : Dev) (p seed s0 epoch : Nat) : Dev :=
  let v := (s0 + 2 ^ 32 - 1) % 2 ^ 32
  let d := d.reservePages p 4 (d.part p).logPages
  let d := d.modPart p (fun x => { x with
    started := true, stopped := false, ran := false, seed := seed, s0 := s0, epoch := epoch, capped := v, doneStep := none,
    ovfSteps := [], log := [], lsn := 0, logFull := false, restCur := [], restored := none, beat := 0 })
  let d := (d.imgCtxs p).foldl (fun d c => d.modCtx c (fun x => { x with cursor := 0, feed := [], nextMb := 0, mbs := [] })) d
  let x := d.part p
  let d := (d.fillBuckets p).openChannels p s0
  let d := (d.logAppend p 1 s0 [seed % 2 ^ 32, seed / 2 ^ 32, x.nmod, x.rank, fwVersion nv d / 2 ^ 24]).replicasBefore p v
  let d := ((d.stampsAt p s0).encodeVersion p v false).applyRuns p
  let d := if d.nctx p ≤ 1 then d.firstTasks p else d.contextsToStart p
  d.beginStep p s0

/-- START (R315, R349, R355, R396). -/
def execStart (q : Nat) (s : State) : Out :=
  devOp s q 0x50 (fun c d =>
    let b := c.payload
    let p := pyPart b
    let x := d.part p
    if x.image.isNone then (bad 0x000D, d)
    else if x.started || d.locked p then (bad 0x0007, d)
    else if d.keyMissing p then (bad 0x000B, d)
    else if x.badConfig then (bad 0x0005, d)
    else if d.freeCount p 4 < x.logPages then (bad 0x0011, d)
    else (d.startJobAt s.nv p (leAt b 4 8) (wordAt b 12) (wordAt b 16 % 2 ^ 16)).startJob c p 0 false 0 [] true)

/-! ## CAP (R268, R316) -/

/-- This module has sent step-done for s, without OVFL. -/
def Partition.doneWith (x : Partition) (s : Nat) : Bool :=
  x.doneStep.any (fun y => decide (s ≤ y.1)) && !(x.ovfSteps.contains s)

/-- The status of a CAP of step s: 0 takes it when it is the next one. -/
def Partition.capStatus (x : Partition) (s : Nat) : Nat :=
  if !x.started then 0x000D
  else if s = (x.capped + 1) % 2 ^ 32 then (if x.doneWith s then 0 else 0x000F)
  else if x.cappedTo s then 0
  else 0x0005

/-- cap(s) is taken: logged, a due base starts, and a replay up to s ends (R350, R356, R365). -/
def Dev.takeCap (nv : NonVol) (d : Dev) (p s : Nat) : Dev :=
  let fp := Store.get 0 (d.part p).fpSum s
  let d := (d.modPart p (fun x => { x with capped := s, fpSum := Store.set 0 x.fpSum s 0, ovfn := Store.set 0 x.ovfn s 0 })).logAppend
    p 4 s [fp % 2 ^ 32, fp / 2 ^ 32, 0, 0, 0]
  let d := d.dueBase nv p s
  match (d.part p).replay with
  | some r => if r.upto = s then d.endReplay p 0 s else d
  | none => d

/-- CAP (R316). -/
def execCap (q : Nat) (s : State) : Out :=
  devOp s q 0x51 (fun c d =>
    let p := pyPart c.payload
    let t := wordAt c.payload 4
    let x := d.part p
    let st := x.capStatus t
    if st != 0 then (bad st, d)
    else if t = (x.capped + 1) % 2 ^ 32 then ({}, d.takeCap s.nv p t)
    else ({}, d))

/-! ## STEPPARAM (R317) -/

/-- The parameters that a STEPPARAM names: group, index, first step, value. -/
def paramsOf (b : List Byte) : List StepParam :=
  let w := wordAt b 4
  let js := (List.range 16).filter (bit (wordAt b 12))
  let cs := (js.zipIdx).map (fun y => (⟨bits w 3 0, y.1, wordAt b 8, wordAt b (16 + 4 * y.2)⟩ : StepParam))
  if bit w 16 then cs ++ [⟨bits w 3 0, 16, wordAt b 8, bits w 31 24⟩] else cs

/-- VALUE of a PARAM record: FP32 bits, or NQ sign-extended (Table 14-3). -/
def StepParam.logged (q : StepParam) : Nat := if q.idx = 16 then unsigned 32 (signed 8 q.value) else q.value

/-- Record step parameters, each with its PARAM record. -/
def Dev.recordParams (d : Dev) (p : Nat) (l : List StepParam) : Dev :=
  l.foldl (fun d q => (d.modPart p (fun x => { x with params := x.params ++ [q] })).logAppend p 3 (d.newestStep p)
    [q.grp + 16 * q.idx, q.fstep, q.logged, 0, 0]) d

/-- STEPPARAM (R317, R365). -/
def execStepparam (q : Nat) (s : State) : Out :=
  devOp s q 0x53 (fun c d =>
    let p := pyPart c.payload
    let f := wordAt c.payload 8
    let x := d.part p
    if !x.started then (bad 0x000D, d)
    else if f ≤ d.newestStep p || x.replay.any (fun r => decide (f ≤ r.upto)) then (bad 0x0005, d)
    else ({}, d.recordParams p (paramsOf c.payload)))

/-! ## SNAPSHOT (R318) -/

/-- The version is capped, and every owned slice retains it. -/
def Dev.retains (d : Dev) (p v : Nat) : Bool :=
  let x := d.part p
  (v == x.capped || (v + 1) % 2 ^ 32 == x.capped) && (d.ownedSlices p).all (fun o =>
    let t := d.sliceTab o.1
    d.slVn t o.2 == v || (d.slVn t o.2 == (v + 1) % 2 ^ 32 && d.slOldv t o.2))

/-- The shard of version v, with its digests. A shard longer than BLEN has the regions that it fills (notes/assumptions/49). -/
def Dev.snapshotOf (nv : NonVol) (d : Dev) (p v : Nat) : BaseSlot :=
  let x := d.part p
  let b : BaseSlot := { step := v, header := d.shardHeader nv p v, entries := d.shardEntries p v, states := d.shardRegions p v, lsnb := x.lsn }
  b.withDigests x.swid x.rank (max (rcBlen x.rcfg) (ceilDiv (d.shardLen p) gib))

/-- SNAPSHOT: the stream goes out under a pin that the completion releases (R318, R396). -/
def execSnapshot (q : Nat) (s : State) : Out :=
  devOp s q 0x70 (fun c d =>
    let b := c.payload
    let p := pyPart b
    let v := wordAt b 4
    let k := wordAt b 28 % 2 ^ 16
    if !((d.part p).started) then (bad 0x000D, d)
    else if keyidKind k != 3 || (d.keyOf k).isNone || !((d.imgCtxs p).contains (keyidIx k)) then (bad 0x000B, d)
    else if !(d.retains p v) then (bad 0x000E, d)
    else
      let pins := d.versionPins p v
      let snap := d.snapshotOf s.nv p v
      let d := (d.takePins pins).send (.stream p v (leNat (slice b 8 16).reverse) (wordAt b 24 % 2 ^ 16) k snap.bytes (d.partStamp p).step (d.partStamp p).phase)
      let r := d.startJob c p 0 true 0 snap.listDigest false
      (r.1, { r.2 with jobs := r.2.jobs.map (fun j => if j.queue = c.hdr.queue && j.cseq = c.hdr.seq then { j with pins := pins } else j) }))

end Sys2Proof.Machine
end

