-- ==== Sys2Proof/Machine/Recovery.lean ====
section
/-! DEFINITION. Recovery without checkpoints (R352 to R366): DISCARD, BASE, PTEST, REBUILD and REPLAY. -/

namespace Sys2Proof.Machine
open Sys2Proof

/-! ## DISCARD (R352, R353, R363, R386) -/

/-- RECORD entries of steps after c leave the log, then the DISCARD record follows (R352). -/
def Dev.cutLog (d : Dev) (p c epoch revert : Nat) : Dev :=
  (d.modPart p (fun x => { x with log := x.log.filter (fun r => !(lrType r == 2 && decide (c < lrStep r))) })).logAppend
    p 5 c [epoch, revert, 0, 0, 0]

/-- Cursors and micro-batch numbers of every context after step c. -/
def Dev.setCursors (d : Dev) (p : Nat) (cur mb : Nat → Nat) : Dev :=
  (d.imgCtxs p).foldl (fun d c => d.modCtx c (fun x => { x with cursor := cur c, nextMb := mb c, feed := [], mbs := [] })) d

/-- Steps 1 to 3 of R353. The channels open in the new epoch, at the step that follows the one that counts as capped, before the log's
record goes out on them (R283; notes/assumptions/50). -/
def discardStart (x : Mod) (p epoch revert : Nat) (bist : List Nat) : Mod :=
  let y := x.2.part p
  let z := if y.stopped && !y.ran then x else partitionReset x p bist
  let c := (z.2.part p).capped
  let first := ((if revert = 0xFFFFFFFF then c else revert) + 1) % 2 ^ 32
  let d := ((z.2.modPart p (fun y => { y with epoch := epoch })).openChannels p first).cutLog p c epoch revert
  (z.1, d.abandonBase p)

/-- DISCARD with REVERT = 0xFFFFFFFF: the cores begin step c + 1, unless the module is left Degraded by its reset (R353,
R377; notes/assumptions/51). -/
def discardStep (x : Mod) (p epoch : Nat) (bist : List Nat) : Bool × Mod :=
  let old := x.2.part p
  let y := discardStart x p epoch 0xFFFFFFFF bist
  let c := (y.2.part p).capped
  let d := y.2.setCursors p (fun k => old.cursorAt k c) (fun k => old.mbAfter k c)
  if !(d.brd.state == .ready) then (false, y.1, d)
  else (true, y.1, (d.modPart p (fun z => { z with stopped := false, doneStep := none, restored := none })).beginStep p ((c + 1) % 2 ^ 32))

/-- The complete base of step b that the module holds. -/
def Partition.base (x : Partition) (b : Nat) : Option BaseSlot :=
  if x.baseOld.any (fun y => y.step == b) then x.baseOld
  else if x.bst = 0 && x.baseNew.any (fun y => y.step == b) then x.baseNew else none

/-- Restore a base: state, ADJ, VN, cursors and constants; the cores are held until REPLAY (R363). -/
def Dev.restoreBase (d : Dev) (p : Nat) (b : BaseSlot) : Dev :=
  let own := d.ownedSlices p
  let d := (own.zipIdx).foldl (fun d y =>
    let t := d.sliceTab y.1.1
    let i := y.1.2
    let adj := signed 8 ((b.entries.getD y.2 []).getD 2 0)
    let keep := fun k => if k = b.step % 2 then adj else d.slAdj t i k
    (d.unitWrite p (slState t i + b.step % 2 * stateBytes t i) (b.states.getD y.2 []) false).setStatus t i b.step false (keep 0) (keep 1)
      b.step) d
  let d := d.replicasBefore p b.step
  let h := b.header
  let cs := (List.range 256).foldl (fun m k => Store.set 0#32 m k (BitVec.ofNat 32 (wordAt h (320 + 68 * (k / 16) + 4 * (k % 16))))) d.consts
  let nqs := (List.range 16).map (fun g => (⟨g, 16, 0, wordAt h (320 + 68 * g + 64) % 256⟩ : StepParam))
  let cur := fun k => leAt h (64 + 8 * k) 8
  let x := d.part p
  let d := ({ d with consts := cs }).setCursors p cur (fun k => x.mbAfter k b.step)
  let d := d.modPart p (fun y => { y with
    params := nqs, capped := b.step, stopped := true, restored := some b.step, doneStep := none
    restCur := (List.range nCtxs).foldl (fun m k => Store.set 0 m k (cur k)) [] })
  (d.imgCtxs p).foldl (fun d c => d.modCtx c (fun x => { x with stamp := { step := (b.step + 1) % 2 ^ 32 }, due := [], hold := false })) d

/-- DISCARD (R353, R363). -/
def execDiscard (q : Nat) (bist : List Nat) (s : State) : Out :=
  runOp s q 0x52 (fun _ => true) (fun c s =>
    let b := c.payload
    let p := pyPart b
    let ep := wordAt b 4 % 2 ^ 16
    let rv := wordAt b 8
    let x := s.dev.part p
    if !x.started then (some (bad 0x000D), s)
    else if s.dev.locked p then (some (bad 0x0007), s)
    else if !(serialLater 16 ep x.epoch) then (some (bad 0x0005), s)
    else if rv = 0xFFFFFFFF then
      let y := discardStep (s.nv, s.dev) p ep bist
      let r := y.2.2.startJob c p 0 true (if y.1 then 0 else 0x000A) [0, (y.2.2.part p).capped] true
      (some r.1, { s with nv := y.2.1, dev := r.2 })
    else match x.base rv with
      | none => (some (bad 0x000E), s)
      | some base =>
        let y := discardStart (s.nv, s.dev) p ep rv bist
        let r := (y.2.restoreBase p base).startJob c p 0 true (if y.2.brd.state == .ready then 0 else 0x000A) ([0, rv] ++ base.listDigest) true
        (some r.1, { s with nv := y.1, dev := r.2 }))

/-! ## BASE (R355 to R357) -/

/-- Deep pages of the two base slots. -/
def Partition.slotPages (x : Partition) : Nat := 2 * 2048 * (rcBlen x.rcfg + rcE x.rcfg * rcC x.rcfg)

/-- The group has no base: no code, a BLEN that is not a multiple of D, or a shard longer than BLEN (R355, R357). -/
def Dev.noBase (d : Dev) (p : Nat) : Bool :=
  let r := (d.part p).rcfg
  rcCode r == 0 || rcBlen r % max 1 (rcD r) != 0 || decide (rcBlen r * gib < d.shardLen p)

/-- BASE: the bases that follow, by INTERVAL, and one at the next CAP with NOW (R356). -/
def execBase (q : Nat) (s : State) : Out :=
  devOp s q 0x60 (fun c d =>
    let b := c.payload
    let p := pyPart b
    let n := wordAt b 4 % 2 ^ 16
    let x := d.part p
    if !x.started then (bad 0x000D, d)
    else if n = 0 || d.noBase p then (bad 0x0005, d)
    else if !x.slotsKept && decide (d.freeCount p 4 < x.slotPages) then (bad 0x0011, d)
    else
      let d := if x.slotsKept then d else d.reservePages p 4 x.slotPages
      (d.modPart p (fun x => { x with
        slotsKept := true, interval := n, baseNow := x.baseNow || bit (wordAt b 8) 0,
        baseJobs := x.baseJobs ++ [(c.hdr.queue, c.hdr.seq)] })).startJob c p 0 false 0 [] false)

/-! ## PTEST (R366) -/

/-- A region of the stored parity. -/
def parityRegion (m : Store Byte) (r : Nat) : List Byte := (List.range gib).map (fun i => Store.get 0#8 m (r * gib + i))

/-- The mismatches of one tested region, as row and region: of the own chunks' digests, and of each parity row against the
fetched data chunks, D for P and then D for Q. -/
def ptestRegion (x : Partition) (b : BaseSlot) (region : Nat) (fetched : List (List Byte)) : List (Nat × Nat) :=
  let r := x.rcfg
  let own := ((List.range (rcD r)).filter (fun k =>
    let i := k * rcC r + region
    regionDigest x.swid x.rank b.step i (b.region i) != b.digests.getD i [])).map (fun k => (rcRow r (rcPos r) k, region))
  let p := if parityOf false gib (fetched.take (rcD r)) != parityRegion x.parityOld region then [(rcPos r, region)] else []
  let q := if rcCode r = 2 && parityOf true gib (fetched.drop (rcD r)) != parityRegion x.parityOld (1024 + region) then
    [((rcPos r + rcGsize r - 1) % max 1 (rcGsize r), region)] else []
  own ++ p ++ q

/-- PTEST (R366). -/
def execPtest (q : Nat) (fetched : List (List Byte)) (s : State) : Out :=
  devOp s q 0x61 (fun c d =>
    let p := pyPart c.payload
    let g := wordAt c.payload 4
    let x := d.part p
    match x.baseOld with
    | none => (bad 0x000E, d)
    | some b =>
      let r := x.rcfg
      if g != 0xFFFFFFFF && decide (rcC r ≤ g) then (bad 0x0005, d)
      else
        let regions := if g = 0xFFFFFFFF then List.range (rcC r) else [g]
        let n := rcD r * rcE r
        let miss := ((regions.zipIdx).map (fun y => ptestRegion x b y.1 ((fetched.drop (y.2 * n)).take n))).flatten
        let d := miss.foldl (fun d y => d.event 0x0B0A p 0 0x1FF [y.1, y.2]) d
        (d.modPart p (fun x => { x with recCnt := bump x.recCnt 21 miss.length })).startJob c p 0 true 0
          ([0, miss.length] ++ b.listDigest) false)

/-! ## REBUILD (R364) -/

/-- Why a rebuild of base b ends: 0x0B09 with a source missing, 0x0B08 with a region that does not match its digest; else the
shard's bytes. `held` gives what is fetched of a row, by index (data, then P, then Q). -/
def rebuildShard (x : Partition) (b : Nat) (digests : List (List Byte)) (held : Nat → Nat → Option (List Byte)) : Nat × List Byte :=
  let r := x.rcfg
  let n := rcC r * gib
  let ch := (List.range (rcD r)).map (fun k =>
    let j := rcRow r (rcPos r) k
    recoverChunk (rcD r) (rcE r) n (fun i => if i = k then none else held j i) k)
  if ch.any Option.isNone || digests.length != rcBlen r then (0x0B09, [])
  else
    let bytes := (ch.filterMap id).flatten
    if (List.range (rcBlen r)).any (fun i => regionDigest x.swid x.rank b i (slice bytes (i * gib) gib) != digests.getD i []) then (0x0B08, [])
    else (0, bytes)

/-- The slot that a shard's bytes hold. -/
def slotOf (b : Nat) (bytes : List Byte) (digests : List (List Byte)) : BaseSlot :=
  let n := wordAt bytes 12
  let ents := (List.range n).map (fun i => (List.range 4).map (fun w => wordAt bytes (4096 + 16 * i + 4 * w)))
  { step := b, header := slice bytes 0 4096, entries := ents, digests := digests, lsnb := wordAt bytes 1408
    states := ents.map (fun e => slice bytes (e.getD 1 0) ((1 + bits (e.getD 2 0) 9 8) * 16384)) }

/-- The parity that the position holds, computed from the other members' chunks (R364 step 5). -/
def rebuildParity (r : Nat) (held : Nat → Nat → Option (List Byte)) : Store Byte :=
  let n := rcC r * gib
  let row (q : Bool) (j : Nat) := parityOf q n ((List.range (rcD r)).map (fun k => (held j k).getD []))
  let m := foldParity [] 0 (row false (rcPos r))
  if rcCode r = 2 then foldParity m (2 ^ 40) (row true ((rcPos r + rcGsize r - 1) % max 1 (rcGsize r))) else m

/-- The chunks that step 5 needs are there. -/
def paritySources (r : Nat) (held : Nat → Nat → Option (List Byte)) : Bool :=
  (expected r).all (fun y => (held (rcRow r y.1 y.2) y.2).isSome)

/-- The partition with the mirrored log as its own (R364 step 2) and its pages reserved, started and stopped. -/
def Dev.rebuilt (d : Dev) (p : Nat) (log : List LogRecord) (slot : BaseSlot) (par : Store Byte) : Dev :=
  let h := slot.header
  let d := d.contextsToStart p
  let disc := (log.filter (fun r => lrType r == 5)).getLast?
  let d := d.modPart p (fun x => { x with
    started := true, stopped := true, ran := false, log := log, seed := leAt h 16 8, s0 := (slot.step + 1) % 2 ^ 32
    epoch := match disc with
      | some r => if serialLater 16 (lrT r 0 % 2 ^ 16) (leAt h 24 2) then lrT r 0 % 2 ^ 16 else leAt h 24 2
      | none => leAt h 24 2
    lsn := match log.getLast? with
      | some r => lrLsn r + 1
      | none => 0
    logFull := decide (logDepth ≤ log.length), slotsKept := true, blast := slot.step, baseOld := some slot, parityOld := par })
  ((d.applyRuns p).restoreBase p slot).openChannels p ((slot.step + 1) % 2 ^ 32)

/-- REBUILD: the operands are what the members serve: the digest list, the mirrored log, chunks and parity as row, index and
bytes, and whether a member answers that it does not hold the base (R364; notes/assumptions/52). -/
def execRebuild (q : Nat) (digests mirror : List (List Byte)) (chunks : List (Nat × Nat × List Byte)) (noBase : Bool) (s : State) : Out :=
  devOp s q 0x62 (fun c d =>
    let p := pyPart c.payload
    let b := wordAt c.payload 8
    let x := d.part p
    if x.image.isNone then (bad 0x000D, d)
    else if d.locked p then (bad 0x0007, d)
    else if wordAt c.payload 4 % 2 ^ 16 != x.rank || x.started || x.badConfig || d.noBase p then (bad 0x0005, d)
    else if d.freeCount p 4 < x.logPages + x.slotPages then (bad 0x0011, d)
    else
      let held (j i : Nat) : Option (List Byte) := (chunks.find? (fun y => y.1 == j && y.2.1 == i)).map (·.2.2)
      let r := if noBase || !(paritySources x.rcfg held) then (0x0B09, []) else rebuildShard x b digests held
      if r.1 != 0 then (d.event r.1 p 0 0x1FF []).startJob c p 0 true 0 [r.1, b] true
      else
        let slot := slotOf b r.2 digests
        let log := mirror.map (fun e => (List.range 8).map (fun i => wordAt e (4 * i)))
        let d := (d.reservePages p 4 (x.logPages + x.slotPages)).rebuilt p log slot (rebuildParity x.rcfg held)
        d.startJob c p 0 true 0 ([0, b] ++ slot.listDigest) true)

/-! ## REPLAY (R152, R365) -/

/-- The run identity differs from the restored base's, or from the START record's. -/
def wrongRun (nv : NonVol) (d : Dev) (x : Partition) (h : List Byte) : Bool :=
  slice h 32 32 != slice (imgDigest x) 0 32 || leAt h 8 2 != x.rank || leAt h 26 2 != x.nmod || leAt h 28 1 != fwVersion nv d / 2 ^ 24 ||
  x.log.any (fun r => lrType r == 1 && lrT r 2 % 2 ^ 16 != x.nmod)

/-- The PARAM records that a replay up to t applies. -/
def Partition.replayParams (x : Partition) (b t : Nat) : List StepParam :=
  (x.log.filter (fun r => lrType r == 3 && decide (b + 1 ≤ lrT r 1) && decide (lrT r 1 ≤ t))).map (fun r =>
    let idx := bits (lrT r 0) 8 4
    ⟨bits (lrT r 0) 3 0, idx, lrT r 1, if idx = 16 then lrT r 2 % 256 else lrT r 2⟩)

/-- REPLAY (R365). -/
def execReplay (q : Nat) (s : State) : Out :=
  devOp s q 0x63 (fun c d =>
    let p := pyPart c.payload
    let f := wordAt c.payload 4
    let t := wordAt c.payload 8
    let x := d.part p
    let caps := (x.log.filter (fun r => lrType r == 4)).getLast?
    if x.image.isNone || !x.started then (bad 0x000D, d)
    else if d.locked p then (bad 0x0007, d)
    else match x.restored with
      | none => (bad 0x0005, d)
      | some b =>
        if f != (b + 1) % 2 ^ 32 || decide (t < f) || !(caps.any (fun r => decide (t ≤ lrStep r))) then (bad 0x0005, d)
        else match x.base b with
          | none => (bad 0x000E, d)
          | some base =>
            if wrongRun s.nv d x base.header then (bad 0x0010, d)
            else
              let d := d.modPart p (fun y => { y with
                stopped := false, ran := false, restored := none, params := y.params ++ y.replayParams b t
                replay := some { first := f, upto := t, queue := c.hdr.queue, cseq := c.hdr.seq } })
              (((d.stampsAt p f).encodeVersion p b true).beginStep p f).startJob c p 0 false 0 [] true)

end Sys2Proof.Machine
end

