-- ==== Sys2Proof/Machine/Dispatch.lean ====
section
/-! DEFINITION. What each command does: one arm per row of spec/opcode_table.json. -/
namespace Sys2Proof.Machine
open Sys2Proof

def exec (i : Instr) (s : State) : Host.Outcome State Fault Refusal :=
  match i with
  | .add w xd xa xb => Sys2Proof.Machine.execAdd w xd xa xb s
  | .sub w xd xa xb => Sys2Proof.Machine.execSub w xd xa xb s
  | .mul w xd xa xb => Sys2Proof.Machine.execMul w xd xa xb s
  | .divu w xd xa xb => Sys2Proof.Machine.execDivu w xd xa xb s
  | .remu w xd xa xb => Sys2Proof.Machine.execRemu w xd xa xb s
  | .and w xd xa xb => Sys2Proof.Machine.execAnd w xd xa xb s
  | .or w xd xa xb => Sys2Proof.Machine.execOr w xd xa xb s
  | .xor w xd xa xb => Sys2Proof.Machine.execXor w xd xa xb s
  | .shl w xd xa xb => Sys2Proof.Machine.execShl w xd xa xb s
  | .shr w xd xa xb => Sys2Proof.Machine.execShr w xd xa xb s
  | .sra w xd xa xb => Sys2Proof.Machine.execSra w xd xa xb s
  | .slt w xd xa xb => Sys2Proof.Machine.execSlt w xd xa xb s
  | .sltu w xd xa xb => Sys2Proof.Machine.execSltu w xd xa xb s
  | .min w xd xa xb => Sys2Proof.Machine.execMin w xd xa xb s
  | .max w xd xa xb => Sys2Proof.Machine.execMax w xd xa xb s
  | .addi w xd xa imm => Sys2Proof.Machine.execAddi w xd xa imm s
  | .andi w xd xa imm => Sys2Proof.Machine.execAndi w xd xa imm s
  | .ori w xd xa imm => Sys2Proof.Machine.execOri w xd xa imm s
  | .xori w xd xa imm => Sys2Proof.Machine.execXori w xd xa imm s
  | .shli w xd xa imm => Sys2Proof.Machine.execShli w xd xa imm s
  | .shri w xd xa imm => Sys2Proof.Machine.execShri w xd xa imm s
  | .srai w xd xa imm => Sys2Proof.Machine.execSrai w xd xa imm s
  | .slti w xd xa imm => Sys2Proof.Machine.execSlti w xd xa imm s
  | .luh w xd imm => Sys2Proof.Machine.execLuh w xd imm s
  | .lui w xd imm => Sys2Proof.Machine.execLui w xd imm s
  | .ld w xd xa imm => Sys2Proof.Machine.execLd w xd xa imm s
  | .lw w xd xa imm => Sys2Proof.Machine.execLw w xd xa imm s
  | .st w xb xa imm => Sys2Proof.Machine.execSt w xb xa imm s
  | .sw w xb xa imm => Sys2Proof.Machine.execSw w xb xa imm s
  | .gld w xd xa imm => Sys2Proof.Machine.execGld w xd xa imm s
  | .glw w xd xa imm => Sys2Proof.Machine.execGlw w xd xa imm s
  | .gst w xb xa imm => Sys2Proof.Machine.execGst w xb xa imm s
  | .gsw w xb xa imm => Sys2Proof.Machine.execGsw w xb xa imm s
  | .gatom w xd xa xb fn => Sys2Proof.Machine.execGatom w xd xa xb fn s
  | .beq w xb xa imm => Sys2Proof.Machine.execBeq w xb xa imm s
  | .bne w xb xa imm => Sys2Proof.Machine.execBne w xb xa imm s
  | .blt w xb xa imm => Sys2Proof.Machine.execBlt w xb xa imm s
  | .bge w xb xa imm => Sys2Proof.Machine.execBge w xb xa imm s
  | .bltu w xb xa imm => Sys2Proof.Machine.execBltu w xb xa imm s
  | .bgeu w xb xa imm => Sys2Proof.Machine.execBgeu w xb xa imm s
  | .jal w xd imm => Sys2Proof.Machine.execJal w xd imm s
  | .jr w xd xa imm => Sys2Proof.Machine.execJr w xd xa imm s
  | .tend w imm => Sys2Proof.Machine.execTend w imm s
  | .taskStart core => Sys2Proof.Machine.execTaskStart core s
  | .tabt w imm => Sys2Proof.Machine.execTabt w imm s
  | .spr w xd imm => Sys2Proof.Machine.execSpr w xd imm s
  | .fence w => Sys2Proof.Machine.execFence w s
  | .bwait w imm => Sys2Proof.Machine.execBwait w imm s
  | .rng w xd xa xb => Sys2Proof.Machine.execRng w xd xa xb s
  | .pushm w w0 w1 w2 w3 => Sys2Proof.Machine.execPushm w w0 w1 w2 w3 s
  | .pushv w xs w0 w1 => Sys2Proof.Machine.execPushv w xs w0 w1 s
  | .mvr w xd => Sys2Proof.Machine.execMvr w xd s
  | .estat w xd xa imm => Sys2Proof.Machine.execEstat w xd xa imm s
  | .sarm w xa imm => Sys2Proof.Machine.execSarm w xa imm s
  | .swait w imm => Sys2Proof.Machine.execSwait w imm s
  | .semw w xa imm => Sys2Proof.Machine.execSemw w xa imm s
  | .sems w xa imm => Sys2Proof.Machine.execSems w xa imm s
  | .wopen w xa imm => Sys2Proof.Machine.execWopen w xa imm s
  | .wclose w imm => Sys2Proof.Machine.execWclose w imm s
  | .mma core => Sys2Proof.Machine.execMma core s
  | .heldTileLoad core => Sys2Proof.Machine.execHeldTileLoad core s
  | .mdrain core => Sys2Proof.Machine.execMdrain core s
  | .malign core => Sys2Proof.Machine.execMalign core s
  | .fadd core => Sys2Proof.Machine.execFadd core s
  | .fsub core => Sys2Proof.Machine.execFsub core s
  | .fmul core => Sys2Proof.Machine.execFmul core s
  | .fma core => Sys2Proof.Machine.execFma core s
  | .fnma core => Sys2Proof.Machine.execFnma core s
  | .fmax core => Sys2Proof.Machine.execFmax core s
  | .fmin core => Sys2Proof.Machine.execFmin core s
  | .fabs core => Sys2Proof.Machine.execFabs core s
  | .fneg core => Sys2Proof.Machine.execFneg core s
  | .fcpys core => Sys2Proof.Machine.execFcpys core s
  | .fmov core => Sys2Proof.Machine.execFmov core s
  | .fceq core => Sys2Proof.Machine.execFceq core s
  | .fclt core => Sys2Proof.Machine.execFclt core s
  | .fcle core => Sys2Proof.Machine.execFcle core s
  | .fcun core => Sys2Proof.Machine.execFcun core s
  | .iadd core => Sys2Proof.Machine.execIadd core s
  | .isub core => Sys2Proof.Machine.execIsub core s
  | .imul core => Sys2Proof.Machine.execImul core s
  | .vectorAnd core => Sys2Proof.Machine.execVectorAnd core s
  | .vectorOr core => Sys2Proof.Machine.execVectorOr core s
  | .vectorXor core => Sys2Proof.Machine.execVectorXor core s
  | .vectorShl core => Sys2Proof.Machine.execVectorShl core s
  | .vectorShr core => Sys2Proof.Machine.execVectorShr core s
  | .vectorSra core => Sys2Proof.Machine.execVectorSra core s
  | .imax core => Sys2Proof.Machine.execImax core s
  | .imin core => Sys2Proof.Machine.execImin core s
  | .iceq core => Sys2Proof.Machine.execIceq core s
  | .iclt core => Sys2Proof.Machine.execIclt core s
  | .iota core => Sys2Proof.Machine.execIota core s
  | .fscl core => Sys2Proof.Machine.execFscl core s
  | .rcp core => Sys2Proof.Machine.execRcp core s
  | .rsqrt core => Sys2Proof.Machine.execRsqrt core s
  | .sqrt core => Sys2Proof.Machine.execSqrt core s
  | .div core => Sys2Proof.Machine.execDiv core s
  | .exp2 core => Sys2Proof.Machine.execExp2 core s
  | .log2 core => Sys2Proof.Machine.execLog2 core s
  | .exp core => Sys2Proof.Machine.execExp core s
  | .log core => Sys2Proof.Machine.execLog core s
  | .tanh core => Sys2Proof.Machine.execTanh core s
  | .sigm core => Sys2Proof.Machine.execSigm core s
  | .cvtb core => Sys2Proof.Machine.execCvtb core s
  | .cvtfl core => Sys2Proof.Machine.execCvtfl core s
  | .cvtfh core => Sys2Proof.Machine.execCvtfh core s
  | .rsum core => Sys2Proof.Machine.execRsum core s
  | .rmax core => Sys2Proof.Machine.execRmax core s
  | .rmin core => Sys2Proof.Machine.execRmin core s
  | .mand core => Sys2Proof.Machine.execMand core s
  | .mor core => Sys2Proof.Machine.execMor core s
  | .mxor core => Sys2Proof.Machine.execMxor core s
  | .mnot core => Sys2Proof.Machine.execMnot core s
  | .vld core => Sys2Proof.Machine.execVld core s
  | .vst core => Sys2Proof.Machine.execVst core s
  | .vldb core => Sys2Proof.Machine.execVldb core s
  | .vstb core => Sys2Proof.Machine.execVstb core s
  | .vcfg core => Sys2Proof.Machine.execVcfg core s
  | .vout core => Sys2Proof.Machine.execVout core s
  | .copy core sd => Sys2Proof.Machine.execCopy core sd s
  | .blockTranspose core sd => Sys2Proof.Machine.execBlockTranspose core sd s
  | .sliceSend core sd => Sys2Proof.Machine.execSliceSend core sd s
  | .weantaerSend core sd => Sys2Proof.Machine.execWeantaerSend core sd s
  | .guardClear core sd => Sys2Proof.Machine.execGuardClear core sd s
  | .descriptorRequest core sd => Sys2Proof.Machine.execDescriptorRequest core sd s
  | .requestLands core tag => Sys2Proof.Machine.execRequestLands core tag s
  | .descriptorCompletion core sd => Sys2Proof.Machine.execDescriptorCompletion core sd s
  | .creditMessage core ring => Sys2Proof.Machine.execCreditMessage core ring s
  | .signalMessage core src => Sys2Proof.Machine.execSignalMessage core src s
  | .inboundHoldWrite core => Sys2Proof.Machine.execInboundHoldWrite core s
  | .foragerRequest core win => Sys2Proof.Machine.execForagerRequest core win s
  | .bucketRefill => Sys2Proof.Machine.execBucketRefill s
  | .beatRelease part stretch cause frame holdc => Sys2Proof.Machine.execBeatRelease part stretch cause frame holdc s
  | .deadlock part ctx => Sys2Proof.Machine.execDeadlock part ctx s
  | .barrierTimeout part => Sys2Proof.Machine.execBarrierTimeout part s
  | .frameWake frame => Sys2Proof.Machine.execFrameWake frame s
  | .holdClockGate part => Sys2Proof.Machine.execHoldClockGate part s
  | .promote ctx => Sys2Proof.Machine.execPromote ctx s
  | .demote ctx => Sys2Proof.Machine.execDemote ctx s
  | .openw ctx => Sys2Proof.Machine.execOpenw ctx s
  | .combw ctx => Sys2Proof.Machine.execCombw ctx s
  | .migrationStart => Sys2Proof.Machine.execMigrationStart s
  | .migrationCopied ch => Sys2Proof.Machine.execMigrationCopied ch s
  | .combAtomic core => Sys2Proof.Machine.execCombAtomic core s
  | .combFill slice line => Sys2Proof.Machine.execCombFill slice line s
  | .patrolScrub site granule corrected uncorrectable => Sys2Proof.Machine.execPatrolScrub site granule corrected uncorrectable s
  | .rowRepair super bank row => Sys2Proof.Machine.execRowRepair super bank row s
  | .pageRetirement super ppn => Sys2Proof.Machine.execPageRetirement super ppn s
  | .tierMapEntryError page => Sys2Proof.Machine.execTierMapEntryError page s
  | .microBatchPreparation ctx => Sys2Proof.Machine.execMicroBatchPreparation ctx s
  | .readyWrite ctx region => Sys2Proof.Machine.execReadyWrite ctx region s
  | .relsWrite ctx region => Sys2Proof.Machine.execRelsWrite ctx region s
  | .contributionArrival super => Sys2Proof.Machine.execContributionArrival super s
  | .parkedContributionRetry super k => Sys2Proof.Machine.execParkedContributionRetry super k s
  | .memorySideAdd super => Sys2Proof.Machine.execMemorySideAdd super s
  | .fusedUpdate super lidx => Sys2Proof.Machine.execFusedUpdate super lidx s
  | .pushReceipt part k => Sys2Proof.Machine.execPushReceipt part k s
  | .normPartialArrival part grp rank step value => Sys2Proof.Machine.execNormPartialArrival part grp rank step value s
  | .normFactorArrival part grp step cf => Sys2Proof.Machine.execNormFactorArrival part grp step cf s
  | .frameReceive port f => Sys2Proof.Machine.execFrameReceive port f s
  | .dataPacketReceive net h ce udpLen payload => Sys2Proof.Machine.execDataPacketReceive net h ce udpLen payload s
  | .placementRetry part chan => Sys2Proof.Machine.execPlacementRetry part chan s
  | .relwWrite part chan => Sys2Proof.Machine.execRelwWrite part chan s
  | .ackReceive net h => Sys2Proof.Machine.execAckReceive net h s
  | .nakReceive net h => Sys2Proof.Machine.execNakReceive net h s
  | .creditReceive net h => Sys2Proof.Machine.execCreditReceive net h s
  | .ackTimer part chan => Sys2Proof.Machine.execAckTimer part chan s
  | .rtoExpiry part pkt => Sys2Proof.Machine.execRtoExpiry part pkt s
  | .creditRetry part chan => Sys2Proof.Machine.execCreditRetry part chan s
  | .rateIncreaseTick part chan => Sys2Proof.Machine.execRateIncreaseTick part chan s
  | .pfcFrameReceive port prios => Sys2Proof.Machine.execPfcFrameReceive port prios s
  | .announceReceive net src payload => Sys2Proof.Machine.execAnnounceReceive net src payload s
  | .announceTimer port => Sys2Proof.Machine.execAnnounceTimer port s
  | .peerMissTick entry => Sys2Proof.Machine.execPeerMissTick entry s
  | .failback part peer => Sys2Proof.Machine.execFailback part peer s
  | .linkUp port => Sys2Proof.Machine.execLinkUp port s
  | .linkDown port => Sys2Proof.Machine.execLinkDown port s
  | .ptpMessage src timeNs sync => Sys2Proof.Machine.execPtpMessage src timeNs sync s
  | .commandPacketReceive net src h udpLen payload => Sys2Proof.Machine.execCommandPacketReceive net src h udpLen payload s
  | .ident q => Sys2Proof.Machine.execIdent q s
  | .echo q => Sys2Proof.Machine.execEcho q s
  | .pread q => Sys2Proof.Machine.execPread q s
  | .pwrite q => Sys2Proof.Machine.execPwrite q s
  | .pswap q => Sys2Proof.Machine.execPswap q s
  | .qbind q => Sys2Proof.Machine.execQbind q s
  | .qreset q => Sys2Proof.Machine.execQreset q s
  | .memread q => Sys2Proof.Machine.execMemread q s
  | .memwrite q => Sys2Proof.Machine.execMemwrite q s
  | .place q => Sys2Proof.Machine.execPlace q s
  | .lbegin q => Sys2Proof.Machine.execLbegin q s
  | .ldata q => Sys2Proof.Machine.execLdata q s
  | .lcommit q => Sys2Proof.Machine.execLcommit q s
  | .unload q => Sys2Proof.Machine.execUnload q s
  | .start q => Sys2Proof.Machine.execStart q s
  | .cap q => Sys2Proof.Machine.execCap q s
  | .discard q bist => Sys2Proof.Machine.execDiscard q bist s
  | .stepparam q => Sys2Proof.Machine.execStepparam q s
  | .base q => Sys2Proof.Machine.execBase q s
  | .ptest q fetched => Sys2Proof.Machine.execPtest q fetched s
  | .rebuild q digests mirror chunks noBase => Sys2Proof.Machine.execRebuild q digests mirror chunks noBase s
  | .replay q => Sys2Proof.Machine.execReplay q s
  | .snapshot q => Sys2Proof.Machine.execSnapshot q s
  | .bbread q => Sys2Proof.Machine.execBbread q s
  | .coreReset q bist => Sys2Proof.Machine.execCoreReset q bist s
  | .frameReset q bist => Sys2Proof.Machine.execFrameReset q bist s
  | .partitionReset part bist => Sys2Proof.Machine.execPartitionReset part bist s
  | .moduleReset q env => Sys2Proof.Machine.execModuleReset q env s
  | .attest q => Sys2Proof.Machine.execAttest q s
  | .keyrel q => Sys2Proof.Machine.execKeyrel q s
  | .operatorEnrolment q => Sys2Proof.Machine.execOperatorEnrolment q s
  | .fwupdate q => Sys2Proof.Machine.execFwupdate q s
  | .ctxset q => Sys2Proof.Machine.execCtxset q s
  | .acctread q => Sys2Proof.Machine.execAcctread q s
  | .commandComplete q cseq => Sys2Proof.Machine.execCommandComplete q cseq s
  | .eventAcknowledgement channel seq => Sys2Proof.Machine.execEventAcknowledgement channel seq s
  | .eventResend channel => Sys2Proof.Machine.execEventResend channel s
  | .tmloRead => Sys2Proof.Machine.execTmloRead s
  | .ftcmt value => Sys2Proof.Machine.execFtcmt value s
  | .ptcmt value => Sys2Proof.Machine.execPtcmt value s
  | .pcfgModeWrite value => Sys2Proof.Machine.execPcfgModeWrite value s
  | .cenWrite cage value => Sys2Proof.Machine.execCenWrite cage value s
  | .parameterWrite key value => Sys2Proof.Machine.execParameterWrite key value s
  | .logRecordReceipt part rank words => Sys2Proof.Machine.execLogRecordReceipt part rank words s
  | .baseCopied part => Sys2Proof.Machine.execBaseCopied part s
  | .parityContributionReceipt part member step chunk offset payload => Sys2Proof.Machine.execParityContributionReceipt part member step chunk offset payload s
  | .baseComplete part => Sys2Proof.Machine.execBaseComplete part s
  | .baseAbandonment part by' => Sys2Proof.Machine.execBaseAbandonment part by' s
  | .enableAssert quick env => Sys2Proof.Machine.execEnableAssert quick env s
  | .bringUpTimeout => Sys2Proof.Machine.execBringUpTimeout s
  | .coreFailure core => Sys2Proof.Machine.execCoreFailure core s
  | .partitionResetFailure part => Sys2Proof.Machine.execPartitionResetFailure part s
  | .waggleChunk swid srank seq offset fin payload => Sys2Proof.Machine.execWaggleChunk swid srank seq offset fin payload s
  | .missingBitmapSend => Sys2Proof.Machine.execMissingBitmapSend s
  | .updateStaged => Sys2Proof.Machine.execUpdateStaged s
  | .reportKeyExpiry => Sys2Proof.Machine.execReportKeyExpiry s
  | .thermalSample u reading => Sys2Proof.Machine.execThermalSample u reading s
  | .superPowerDown super selfRefresh => Sys2Proof.Machine.execSuperPowerDown super selfRefresh s
  | .deepPowerDown selfRefresh => Sys2Proof.Machine.execDeepPowerDown selfRefresh s
  | .blackBoxRecordProgrammed => Sys2Proof.Machine.execBlackBoxRecordProgrammed s
  | .powerLoss => Sys2Proof.Machine.execPowerLoss s
  | .enableDeassert => Sys2Proof.Machine.execEnableDeassert s
  | .inputOvervoltage => Sys2Proof.Machine.execInputOvervoltage s
  | .inputLow mv => Sys2Proof.Machine.execInputLow mv s
  | .standbyRailLost => Sys2Proof.Machine.execStandbyRailLost s
  | .standbyRailPresent env => Sys2Proof.Machine.execStandbyRailPresent env s
  | .holdUpCharged => Sys2Proof.Machine.execHoldUpCharged s
  | .cageOvercurrent cage => Sys2Proof.Machine.execCageOvercurrent cage s
  | .deviceInsertion cage watts media trained => Sys2Proof.Machine.execDeviceInsertion cage watts media trained s
  | .deviceRemoval cage => Sys2Proof.Machine.execDeviceRemoval cage s
  | .inputPowerReturn mv env => Sys2Proof.Machine.execInputPowerReturn mv env s
  | .pfcPauseExpiry port prio => Sys2Proof.Machine.execPfcPauseExpiry port prio s
  | .transitFrameDeparture port => Sys2Proof.Machine.execTransitFrameDeparture port s

end Sys2Proof.Machine
end

