-- ==== Sys2Proof/WellFormed.lean ====
section
/-! DEFINITION. Which commands are well formed: every unit they name exists, and every field fits its place in the manual's layout. -/

namespace Sys2Proof

/-- The task's core exists: L0 to L319 (R3). -/
def Who.wf (w : Who) : Bool := decide (w.core < 320)

/-- Fields of a data packet header fit Table 11-4. -/
def DataHdr.wf (h : DataHdr) : Bool :=
  decide (h.ver < 16) && decide (h.cls < 16) && decide (h.type < 256) && decide (h.srank < 65536) && decide (h.drank < 65536) &&
  decide (h.swid < 65536) && decide (h.chan < 4096) && decide (h.seq < 2 ^ 32) && decide (h.ackseq < 2 ^ 32) &&
  decide (h.step < 2 ^ 32) && decide (h.phase < 65536) && decide (h.plen < 65536) && decide (h.epoch < 65536) &&
  decide (h.tsw0 < 2 ^ 32) && decide (h.tsw1 < 2 ^ 32) && decide (h.tsw2 < 2 ^ 32) && decide (h.tsw3 < 2 ^ 32) &&
  decide (h.keyid < 65536) && decide (h.iv < 2 ^ 96)

/-- Fields of a command packet header fit Table 12-1. -/
def CmdHdr.wf (h : CmdHdr) : Bool :=
  decide (h.ver < 16) && decide (h.cls < 16) && decide (h.kind < 16) && decide (h.opcode < 65536) && decide (h.queue < 65536) &&
  decide (h.seq < 2 ^ 32) && decide (h.plen < 65536) && decide (h.tag < 2 ^ 32) && decide (h.hrank < 65536) &&
  decide (h.keyid < 65536) && decide (h.iv < 2 ^ 96)

/-- Header fields of an Ethernet frame fit theirs. -/
def EthFrame.wf (f : EthFrame) : Bool :=
  f.vlan.all (fun v => decide (v < 4096)) && decide (f.udpSrc < 65536) && decide (f.udpDst < 65536) && decide (f.dst < 2 ^ 128) &&
  decide (f.hop < 256) && decide (f.prio < 8) && decide (f.bytes ≤ 9216) && decide (f.src < 2 ^ 128)

/-- The sensed unit exists (Table 17-3). -/
def SenseUnit.wf : SenseUnit → Bool
  | .dieFrame f => decide (f < 64)
  | .super x => decide (x < Config.nSupers)
  | .deep | .input | .inlet => true

/-- What the bring-up finds names units that exist (R2, R371). -/
def BringUpEnv.wf (e : BringUpEnv) : Bool :=
  e.failed.all (fun k => decide (k < 340)) && e.deadFrames.all (fun f => decide (f < 20)) && e.combFail.all (fun x => decide (x < 16)) &&
  e.superFail.all (fun x => decide (x < Config.nSupers)) && e.deepFail.all (fun x => decide (x < Config.nDeep)) &&
  e.portFail.all (fun x => decide (x < 8)) && e.linksUp.all (fun x => decide (x < 8)) && e.burfaOk.all (fun x => decide (x < 2)) &&
  decide (e.waggleRounds ≤ 3) && e.waggleFail.all (fun k => decide (k < 340))

/-- The storage, unit and granule of a patrol scrub exist (R213; notes/assumptions/151): a super, the deep, a core's scratchpad, a
slice of the comb, the schedule SRAM, or the accumulators of a super. -/
def scrubWf (storage unit granule : Nat) : Bool :=
  if storage < 4 then decide (storage < Config.nSupers) && decide (granule < Config.superPages * 8192)
  else match storage with
    | 4 => decide (granule < Config.deepPages * 8192)
    | 5 => decide (unit < 2 ^ 38) && decide (granule < 2 ^ 24)
    | 6 => decide (unit < 320) && decide (granule < 49152)
    | 8 => decide (granule < 131072)
    | 9 | 10 | 11 | 12 => decide (storage - 9 < Config.nSupers) && decide (unit < 2048) && decide (granule < 4096)
    | _ => false

/-- The command is well formed. -/
def Instr.wf : Instr → Bool
  | .add w _ _ _ | .sub w _ _ _ | .mul w _ _ _ | .divu w _ _ _ | .remu w _ _ _ | .and w _ _ _ | .or w _ _ _ | .xor w _ _ _
  | .shl w _ _ _ | .shr w _ _ _ | .sra w _ _ _ | .slt w _ _ _ | .sltu w _ _ _ | .min w _ _ _ | .max w _ _ _
  | .addi w _ _ _ | .andi w _ _ _ | .ori w _ _ _ | .xori w _ _ _ | .shli w _ _ _ | .shri w _ _ _ | .srai w _ _ _ | .slti w _ _ _
  | .luh w _ _ | .lui w _ _ | .ld w _ _ _ | .lw w _ _ _ | .st w _ _ _ | .sw w _ _ _ | .gld w _ _ _ | .glw w _ _ _
  | .gst w _ _ _ | .gsw w _ _ _ | .gatom w _ _ _ _ | .beq w _ _ _ | .bne w _ _ _ | .blt w _ _ _ | .bge w _ _ _
  | .bltu w _ _ _ | .bgeu w _ _ _ | .jal w _ _ | .jr w _ _ _ | .tend w _ | .tabt w _ | .spr w _ _ | .fence w | .bwait w _
  | .rng w _ _ _ | .pushm w _ _ _ _ | .pushv w _ _ _ | .mvr w _ | .estat w _ _ _ | .sarm w _ _ | .swait w _ | .semw w _ _
  | .sems w _ _ | .wopen w _ _ | .wclose w _ => w.wf
  | .taskStart n | .mma n | .heldTileLoad n | .mdrain n | .malign n | .fadd n | .fsub n | .fmul n | .fma n | .fnma n | .fmax n
  | .fmin n | .fabs n | .fneg n | .fcpys n | .fmov n | .fceq n | .fclt n | .fcle n | .fcun n | .iadd n | .isub n | .imul n
  | .vectorAnd n | .vectorOr n | .vectorXor n | .vectorShl n | .vectorShr n | .vectorSra n | .imax n | .imin n | .iceq n
  | .iclt n | .iota n | .fscl n | .rcp n | .rsqrt n | .sqrt n | .div n | .exp2 n | .log2 n | .exp n | .log n | .tanh n | .sigm n
  | .cvtb n | .cvtfl n | .cvtfh n | .rsum n | .rmax n | .rmin n | .mand n | .mor n | .mxor n | .mnot n | .vld n | .vst n
  | .vldb n | .vstb n | .vcfg n | .vout n | .inboundHoldWrite n | .combAtomic n | .coreFailure n => decide (n < 320)
  | .copy n i | .blockTranspose n i | .sliceSend n i | .weantaerSend n i | .guardClear n i | .descriptorRequest n i
  | .descriptorCompletion n i | .creditMessage n i | .foragerRequest n i => decide (n < 320) && decide (i < 32)
  | .requestLands n _ => decide (n < 320)
  | .signalMessage n m => decide (n < 320) && decide (m < 320)
  | .bucketRefill | .migrationStart | .tmloRead | .bringUpTimeout | .missingBitmapSend | .updateStaged | .reportKeyExpiry
  | .deepPowerDown _ | .blackBoxRecordProgrammed | .powerLoss | .enableDeassert | .inputOvervoltage | .standbyRailLost
  | .holdUpCharged | .ftcmt _ | .ptcmt _ | .pcfgModeWrite _ => true
  | .beatRelease p _ c f _ => decide (p < 4) && decide (c < 3) && decide (f < 20)
  | .deadlock p c => decide (p < 4) && decide (c < 32)
  | .barrierTimeout p | .holdClockGate p | .partitionResetFailure p | .partitionReset p _ | .baseCopied p | .baseComplete p =>
    decide (p < 4)
  | .baseAbandonment p b => decide (p < 4) && (match b with | .self => true | .member r => decide (r < 65536))
  | .frameWake f => decide (f < 20)
  | .promote c | .demote c | .openw c | .combw c | .microBatchPreparation c => decide (c < 32)
  | .readyWrite c r | .relsWrite c r => decide (c < 32) && decide (r < 256)
  | .migrationCopied ch => decide (ch < 8)
  | .combFill s l => decide (s < 16) && decide (l < 2 ^ 32)
  | .patrolScrub e g _ _ => scrubWf e.storage e.unit g
  | .rowRepair x _ _ => decide (x < Config.nSupers)
  | .pageRetirement x p => decide (x < Config.nSupers) && decide (p < Config.superPages)
  | .tierMapEntryError p => decide (p < 2 ^ 22)
  | .contributionArrival x | .parkedContributionRetry x _ | .memorySideAdd x | .fusedUpdate x _ | .superPowerDown x _ =>
    decide (x < Config.nSupers)
  | .pushReceipt p k | .placementRetry p k | .relwWrite p k | .ackTimer p k | .creditRetry p k
  | .rateIncreaseTick p k => decide (p < 4) && decide (k < 2 ^ 24)
  | .rtoExpiry p k => decide (p < 4) && decide (k.chan < 2 ^ 24) && decide (k.seq < 2 ^ 32)
  | .normPartialArrival p g r t _ => decide (p < 4) && decide (g < 16) && decide (r < 65536) && decide (t < 2 ^ 32)
  | .normFactorArrival p g t _ => decide (p < 4) && decide (g < 16) && decide (t < 2 ^ 32)
  | .frameReceive e f => decide (e < 8) && f.wf
  | .dataPacketReceive n h _ u pl => decide (n < 2) && h.wf && decide (u < 65536) && decide (pl.length < 65536)
  | .ackReceive n h | .nakReceive n h | .creditReceive n h => decide (n < 2) && h.wf
  | .pfcFrameReceive e q => decide (e < 8) && decide (q < 256)
  | .announceReceive n a pl => decide (n < 2) && decide (a < 2 ^ 128) && decide (pl.length < 65536)
  | .announceTimer e | .linkUp e | .linkDown e | .transitFrameDeparture e => decide (e < 8)
  | .pfcPauseExpiry e q => decide (e < 8) && decide (q < 8)
  | .peerMissTick k => decide (k < 65536)
  | .failback p r => decide (p < 4) && decide (r < 65536)
  | .ptpMessage e _ _ => decide (e.port < 8) && decide (e.domain < 256)
  | .commandPacketReceive n a h u pl =>
    decide (n < 2) && decide (a < 2 ^ 128) && h.wf && decide (u < 65536) && decide (pl.length < 65536)
  | .ident q | .echo q | .pread q | .pwrite q | .pswap q | .qbind q | .qreset q | .memread q | .memwrite q | .place q | .lbegin q
  | .ldata q | .lcommit q | .unload q | .start q | .cap q | .stepparam q | .base q | .replay q | .snapshot q | .bbread q | .attest q
  | .keyrel q | .operatorEnrolment q | .fwupdate q | .ctxset q | .acctread q => decide (q < 64)
  | .discard q l | .coreReset q l | .frameReset q l => decide (q < 64) && l.all (fun k => decide (k < 340))
  | .ptest q _ => decide (q < 64)
  | .rebuild q _ _ _ _ => decide (q < 64)
  | .moduleReset q e => decide (q < 64) && e.wf
  | .commandComplete q c => decide (q < 64) && decide (c < 2 ^ 32)
  | .eventAcknowledgement c n => decide (c < 69) && decide (n < 2 ^ 32)
  | .eventResend c => decide (c < 69)
  | .cenWrite k _ | .cageOvercurrent k | .deviceRemoval k => decide (k < 8)
  | .deviceInsertion k w m _ => decide (k < 8) && decide (w < 65536) && decide (m < 8)
  | .parameterWrite k _ => decide (k < 2 ^ 32)
  | .logRecordReceipt p r ws => decide (p < 4) && decide (r < 65536) && decide (ws.length = 8)
  | .parityContributionReceipt p m t k _ _ => decide (p < 4) && decide (m < 16) && decide (t < 2 ^ 32) && decide (k < 16)
  | .enableAssert _ e | .standbyRailPresent e => e.wf
  | .inputPowerReturn v e => decide (v < 2 ^ 16) && e.wf
  | .inputLow v => decide (v < 2 ^ 16)
  | .waggleChunk a r n o _ _ => decide (a < 65536) && decide (r < 65536) && decide (n < 2 ^ 32) && decide (o < 2 ^ 32)
  | .thermalSample u _ => u.wf

end Sys2Proof
end

