-- ==== Sys2Proof/Safety.lean ====
section
/-! DEFINITION. The terms that claims use: which outcomes are safe, what a step leaves alone, the canonical form of memory, what
counts as a core ready to execute, and the invariants of what is non-volatile. -/

namespace Sys2Proof.Machine
open Sys2Proof

/-- The machine goes on. -/
def outNext (o : Out) : Bool := match o with
  | .next _ => true
  | _ => false

/-- The state after, if the machine goes on. -/
def outState (o : Out) : Option State := match o with
  | .next t => some t
  | _ => none

/-! ## Memory -/

/-- The unified range is in its one canonical form: addresses strictly rising, no entry that an unlisted address reads as. -/
def Memory.wf (m : List Host.Cell) : Bool := Store.wf 0#8 m

/-! ## What a step leaves alone -/

/-- Of everything but the cores nothing has changed, nor has any core but `n`, which is now `c`. -/
def OnlyCore (s t : State) (n : Nat) (c : Core) : Prop :=
  t.pending = s.pending ∧ t.nv = s.nv ∧ { t.dev with cores := s.dev.cores } = s.dev ∧
  t.dev.core n = c ∧ ∀ m, m ≠ n → t.dev.core m = s.dev.core m

/-- The queue and what is non-volatile are as before. -/
def SameOutside (s t : State) : Prop := t.pending = s.pending ∧ t.nv = s.nv

/-! ## A task that executes its next instruction (R113, R122 to R125) -/

/-- Task `t` stands at `w`, waits neither at the barrier nor for its buffer, holds no fault, and its next word is one that the loader
checked as a control instruction. -/
def Dev.issues (d : Dev) (w : Who) (t : TaskRun) : Bool :=
  decide (w.core < nCores) && ((d.core w.core).tasks[slotIx w.task]? == some t) && t.bwait.isNone && t.held.isNone &&
  (w.task != .capped || !((d.core w.core).wbuf.any (fun e => e.uid == t.uid))) && d.fetchOk w.core t.pc

/-- The device with the engine entries of a capped task in their units, as far as these have room (R125). -/
def Dev.dispatched (d : Dev) (w : Who) : Dev := if w.task = .capped then d.modCore w.core Core.dispatch else d

/-- The device as the instruction of such a task finds it: the task's engine entries are in their units, and the instruction has been
fetched (R117, R125, R208). -/
def Dev.readyDev (d : Dev) (w : Who) : Dev :=
  match (d.core w.core).tasks[slotIx w.task]? with
  | some t => (d.dispatched w).fetch w.core t.pc
  | none => d.dispatched w

/-- Its core. -/
def Dev.readyCore (d : Dev) (w : Who) : Core := (d.readyDev w).core w.core

/-- Outside core `n`, which is now `c`, nothing has changed since `s` but what fetching its instructions did to the comb: its lines,
its counters and the count of free choices, which are those of `d`. -/
def OnlyIssuer (s t : State) (d : Dev) (n : Nat) (c : Core) : Prop :=
  SameOutside s t ∧
  { t.dev with cores := s.dev.cores, freeIx := s.dev.freeIx,
               tiers := { t.dev.tiers with comb := s.dev.tiers.comb, combBad := s.dev.tiers.combBad,
                                           combCnt := s.dev.tiers.combCnt } } = s.dev ∧
  t.dev.tiers = d.tiers ∧ t.dev.freeIx = d.freeIx ∧ t.dev.core n = c ∧ ∀ m, m ≠ n → t.dev.core m = s.dev.core m

end Sys2Proof.Machine
end

