-- ==== Sys2Proof/Certificates/Slice0/Obligations.lean ====
section
/-! DEFINITION. The statements that provers are asked for, each formalising a rule of the manual. -/

open Sys2Proof Sys2Proof.Machine

namespace Sys2Proof.Machine.Claims

/-- `f` as a 64-bit word, modulo 2^64. -/
def w64 (i : Int) : Word64 := BitVec.ofInt 64 i

/-- The register forms of Table 5-3 with their results, as integers modulo 2^64. -/
def aluTable : List ((Who → XReg → XReg → XReg → Instr) × (Word64 → Word64 → Word64)) :=
  [(.add, fun a b => w64 (a.toInt + b.toInt)), (.sub, fun a b => w64 (a.toInt - b.toInt)),
   (.mul, fun a b => w64 (a.toInt * b.toInt)),
   (.divu, fun a b => if b.toNat = 0 then w64 (-1) else w64 (a.toNat / b.toNat)),
   (.remu, fun a b => if b.toNat = 0 then a else w64 (a.toNat % b.toNat)),
   (.and, fun a b => a &&& b), (.or, fun a b => a ||| b), (.xor, fun a b => a ^^^ b),
   (.shl, fun a b => w64 (a.toNat * 2 ^ (b.toNat % 64))), (.shr, fun a b => w64 (a.toNat / 2 ^ (b.toNat % 64))),
   (.sra, fun a b => w64 (a.toInt / 2 ^ (b.toNat % 64))),
   (.slt, fun a b => if a.toInt < b.toInt then 1 else 0), (.sltu, fun a b => if a.toNat < b.toNat then 1 else 0),
   (.min, fun a b => w64 (Min.min a.toInt b.toInt)), (.max, fun a b => w64 (Max.max a.toInt b.toInt))]

/-- The immediate forms: the immediate is sign-extended. -/
def immTable : List ((Who → XReg → XReg → BitVec 14 → Instr) × (Word64 → Int → Word64)) :=
  [(.addi, fun a i => w64 (a.toInt + i)), (.andi, fun a i => a &&& w64 i), (.ori, fun a i => a ||| w64 i),
   (.xori, fun a i => a ^^^ w64 i), (.slti, fun a i => if a.toInt < i then 1 else 0)]

/-- The immediate shifts, by 0 to 63. -/
def shiftTable : List ((Who → XReg → XReg → BitVec 14 → Instr) × (Word64 → Nat → Word64)) :=
  [(.shli, fun a k => w64 (a.toNat * 2 ^ k)), (.shri, fun a k => w64 (a.toNat / 2 ^ k)), (.srai, fun a k => w64 (a.toInt / 2 ^ k))]

/-- The conditional branches. -/
def branchTable : List ((Who → XReg → XReg → BitVec 14 → Instr) × (Word64 → Word64 → Bool)) :=
  [(.beq, fun a b => decide (a.toNat = b.toNat)), (.bne, fun a b => decide (a.toNat ≠ b.toNat)),
   (.blt, fun a b => decide (a.toInt < b.toInt)), (.bge, fun a b => decide (b.toInt ≤ a.toInt)),
   (.bltu, fun a b => decide (a.toNat < b.toNat)), (.bgeu, fun a b => decide (b.toNat ≤ a.toNat))]

/-- The command answers a state in which only the core of `w` has changed: `f` has been applied to the run of the task, and
nothing else has changed but its engines' dispatch and the fetch through its instruction cache and the comb. -/
def Writes (c : Instr) (s : State) (w : Who) (f : TaskRun → TaskRun) : Prop :=
  ∃ t, exec c s = .next t ∧ OnlyIssuer s t (s.dev.readyDev w) w.core ((s.dev.readyCore w).modTask (slotIx w.task) f)

end Sys2Proof.Machine.Claims

open Sys2Proof.Machine.Claims

/-- The module's step takes the command at the front of the queue and runs it with the rest. -/
def Obligations.StepRunsTheFrontCommand : Prop :=
  ∀ (c : Instr) (rest : List Instr) (s : State), step { s with pending := c :: rest } = exec c { s with pending := rest }

/-- Every well-formed command answers a next state. -/
def Sys2Proof.Machine.Claims.WellFormedCommandsComplete : Prop := ∀ (c : Instr) (s : State), c.wf = true → ∃ t, exec c s = .next t

/-- No step is refused; a step that faults has met a command naming a unit that the module does not have; on an empty queue the module
idles (the model's choice, notes/assumptions/1). -/
def Sys2Proof.Machine.Claims.StepsAreNeverRefused : Prop :=
  ∀ s : State, (s.pending = [] → step s = .next s) ∧
    ((∃ t, step s = .next t) ∨ (step s = .fault .noSuchUnit ∧ ∃ c rest, s.pending = c :: rest ∧ c.wf = false))

/-- Every well-formed command answers a next state, and no step is refused. -/
def Obligations.CommandsCompleteAndStepsAreNeverRefused : Prop := WellFormedCommandsComplete ∧ StepsAreNeverRefused

/-- What is non-volatile never goes back: a failed position stays failed (R375), a retired page stays retired, and OPEN stays 0 once
an operator is enrolled (R400). -/
def Obligations.NonVolatileNeverGoesBack : Prop :=
  ∀ (k : Nat) (r : Nat × Nat) (s t : State), step s = .next t →
    (k ∈ s.nv.failed → k ∈ t.nv.failed) ∧ (r ∈ s.nv.retired → r ∈ t.nv.retired) ∧ (s.nv.opened = false → t.nv.opened = false)

/-- Serial-number arithmetic on n bits (R444): which values are later and which earlier; a difference of exactly 2^(n−1) makes a value
earlier and not later. -/
def Obligations.SerialNumbersAreCompared : Prop :=
  ∀ n a b : Nat, 1 ≤ n →
    (serialLater n a b = true ↔ 1 ≤ ((a : Int) - b) % 2 ^ n ∧ ((a : Int) - b) % 2 ^ n ≤ 2 ^ (n - 1) - 1) ∧
    (serialEarlier n a b = true ↔ 2 ^ (n - 1) ≤ ((a : Int) - b) % 2 ^ n ∧ ((a : Int) - b) % 2 ^ n ≤ 2 ^ n - 1) ∧
    serialEarlier n (b + 2 ^ (n - 1)) b = true ∧ serialLater n (b + 2 ^ (n - 1)) b = false

/-- X0 reads as 0 and a write to it is discarded; another register reads as what was last written to it; a task starts with the
arguments of its descriptor in X1 to X4, zero-extended, and with 0 in every other register, whatever ran before it (R111). -/
def Obligations.RegistersReadWhatWasWritten : Prop :=
  (∀ (t : TaskRun) (r q : XReg) (v : Word64),
    t.reg 0 = 0#64 ∧ t.setReg 0 v = t ∧ (r.val ≠ 0 → (t.setReg r v).reg r = v) ∧ (q ≠ r → (t.setReg r v).reg q = t.reg q) ∧
    (t.setReg r v).pc = t.pc) ∧
  ∀ (s : State) (n tid : Nat), n < nCores → s.dev.toStart n = some tid →
    ∃ t u, exec (.taskStart n) s = .next t ∧ (t.dev.core n).tasks.getLast? = some u ∧ u.tid = tid ∧
      ∀ r : XReg, u.reg r = if 1 ≤ r.val ∧ r.val ≤ 4 then BitVec.ofNat 64 (tdWord (s.dev.coreSec n 2) tid (3 + r.val)) else 0#64

/-- The register instructions of Table 5-3. -/
def Sys2Proof.Machine.Claims.RegisterInstructionsWriteTheirResult : Prop :=
  ∀ (s : State) (w : Who) (t : TaskRun) (xd xa xb : XReg), s.dev.issues w t = true →
    ∀ y ∈ aluTable, Writes (y.1 w xd xa xb) s w (fun u => (u.setReg xd (y.2 (t.reg xa) (t.reg xb))).step 4)

/-- The immediate instructions of Table 5-3. -/
def Sys2Proof.Machine.Claims.ImmediateInstructionsWriteTheirResult : Prop :=
  ∀ (s : State) (w : Who) (t : TaskRun) (xd xa : XReg) (i : BitVec 14) (j : BitVec 19), s.dev.issues w t = true →
    (∀ y ∈ immTable, Writes (y.1 w xd xa i) s w (fun u => (u.setReg xd (y.2 (t.reg xa) i.toInt)).step 4)) ∧
    (i.toNat < 64 → ∀ y ∈ shiftTable, Writes (y.1 w xd xa i) s w (fun u => (u.setReg xd (y.2 (t.reg xa) i.toNat)).step 4)) ∧
    Writes (.lui w xd j) s w (fun u => (u.setReg xd (w64 (j.toInt * 2 ^ 14))).step 4) ∧
    Writes (.luh w xd j) s w (fun u => (u.setReg xd (w64 (j.toInt * 2 ^ 33 + ((t.reg xd).toNat % 2 ^ 33 : Nat)))).step 4)

/-- The register and the immediate instructions of Table 5-3. -/
def Obligations.RegisterAndImmediateInstructionsWriteTheirResult : Prop := RegisterInstructionsWriteTheirResult ∧ ImmediateInstructionsWriteTheirResult

/-- An instruction fetch: a hit in the core's instruction cache changes nothing; a miss counts in ICMISS, brings the line into the cache
and through the comb, and changes nothing else than these and the free choice of what gives way (Table 5-4, R208). -/
def Sys2Proof.Machine.Claims.FetchesFillTheCaches : Prop :=
  ∀ (d : Dev) (n pc : Nat),
    let line := d.ctxOf n * 2 ^ 26 + pc / 64
    ((d.core n).icache.contains line = true → d.fetch n pc = d) ∧
    ((d.core n).icache.contains line = false →
      (d.fetch n pc).combHas ((Config.codeAt (d.ctxOf n) + pc / 64 * 64) / 512) = true ∧
      ∃ ic x b k, { d.fetch n pc with cores := d.cores } =
          { d with freeIx := d.freeIx + 1, tiers := { d.tiers with comb := x, combBad := b, combCnt := k } } ∧
        (d.fetch n pc).core n = { d.core n with icache := line :: ic, counters := bump (d.core n).counters 9 1 } ∧
        (∀ l ∈ ic, l ∈ (d.core n).icache) ∧ ∀ m, m ≠ n → (d.fetch n pc).core m = d.core m)

/-- Branches and jumps: the target is pc + 4 × immediate; JAL and JR leave pc + 4 in xd. -/
def Sys2Proof.Machine.Claims.BranchesAndJumpsMoveThePc : Prop :=
  ∀ (s : State) (w : Who) (t : TaskRun) (xd xa xb : XReg) (i : BitVec 14) (j : BitVec 19), s.dev.issues w t = true →
    (∀ y ∈ branchTable, Writes (y.1 w xb xa i) s w (fun u =>
      { u with pc := if y.2 (t.reg xa) (t.reg xb) then (((t.pc : Int) + 4 * i.toInt) % 2 ^ 64).toNat else u.pc + 4 })) ∧
    Writes (.jal w xd j) s w (fun u =>
      { u.setReg xd (w64 (t.pc + 4)) with pc := (((t.pc : Int) + 4 * j.toInt) % 2 ^ 64).toNat }) ∧
    Writes (.jr w xd xa i) s w (fun u =>
      { u.setReg xd (w64 (t.pc + 4)) with pc := ((((t.reg xa).toInt + i.toInt) % 2 ^ 64) / 4 * 4).toNat })

/-- The fetch of an instruction, and the branches and jumps. -/
def Obligations.FetchesBranchesAndJumps : Prop := FetchesFillTheCaches ∧ BranchesAndJumpsMoveThePc

namespace Sys2Proof.Machine.Claims

/-- The effective address of a load or store. -/
def effective (t : TaskRun) (xa : XReg) (i : BitVec 14) : Nat := (((t.reg xa).toInt + i.toInt) % 2 ^ 64).toNat

/-- `m` aligned bytes at `a` of core `n`'s scratchpad can be read by the control engine on behalf of task `t`: in range, filled,
clean, and in no write set of an earlier task that has not settled (R123, R164, R184, R214). -/
def padReadable (d : Dev) (w : Who) (a m : Nat) : Bool :=
  a % m == 0 && decide (a + m ≤ padBytes) && !(d.loadWaits w.core (slotIx w.task) false a m) &&
  decide ((d.core w.core).readCheck (d.rings w.core) (d.guard w.core) .control [(a, m)] = .ok ())

/-- `m` aligned bytes at `a` of the core's scratchpad can be written by the task: in range, in its write set or in a ring whose slots
are drained (R120, R164). -/
def padWritable (d : Dev) (w : Who) (t : TaskRun) (a m : Nat) : Bool :=
  a % m == 0 && decide (a + m ≤ padBytes) && !(d.outsideWs w.core t.tid false a m)

/-- `m` aligned bytes at `a` of the unified range are in the context's map and partition (R189, R192, R330). -/
def uniReadable (d : Dev) (w : Who) (a m : Nat) : Bool :=
  a % m == 0 && decide (a < uniTop) && !(d.fenced w.core a) && d.rangeRead (d.ctxOf w.core) a m &&
  !(d.loadWaits w.core (slotIx w.task) true a m)

def uniWritable (d : Dev) (w : Who) (t : TaskRun) (a m : Nat) : Bool :=
  a % m == 0 && decide (a < uniTop) && !(d.fenced w.core a) && d.rangeWrite (d.ctxOf w.core) a m &&
  !(d.outsideWs w.core t.tid true a m)

/-- No open window of any core, nor of a core that a context keeps while it is out: no write can meet a stale prefetch (R180). -/
def noWindows (d : Dev) : Bool :=
  d.cores.all (fun x => x.2.su.live.isEmpty) && d.ctxs.all (fun c => c.2.saved.all (fun x => x.2.su.live.isEmpty))

def wide : List ((Who → XReg → XReg → BitVec 14 → Instr) × Nat) := [(.ld, 8), (.lw, 4)]
def wideSt : List ((Who → XReg → XReg → BitVec 14 → Instr) × Nat) := [(.st, 8), (.sw, 4)]
def wideUni : List ((Who → XReg → XReg → BitVec 14 → Instr) × Nat) := [(.gld, 8), (.glw, 4)]
def wideUniSt : List ((Who → XReg → XReg → BitVec 14 → Instr) × Nat) := [(.gst, 8), (.gsw, 4)]

/-- The buffer has gained an entry for the task, which has gone on (R124). -/
def Buffers (c : Instr) (s : State) (w : Who) (t : TaskRun) (op : BufOp) : Prop :=
  ∃ u, exec c s = .next u ∧
    OnlyIssuer s u (s.dev.readyDev w) w.core (({ s.dev.readyCore w with
      wbuf := (s.dev.core w.core).wbuf ++ [⟨t.uid, t.tid, t.pc, op⟩] } : Core).modTask (slotIx w.task) (·.step 4))

/-- The capped task is aborted with a fault of this code and address: the core idles with its speculative tasks discarded, the fault is
recorded or, behind one already recorded, counted, the partition's reset is asked for; no byte of memory and no other core changes
(R129, R130, R343). -/
def FaultsCapped (c : Instr) (s : State) (w : Who) (t : TaskRun) (code addr : Nat) : Prop :=
  ∃ u, exec c s = .next u ∧ SameOutside s u ∧ (u.dev.core w.core).tasks = [] ∧ (u.dev.core w.core).startNext = none ∧
    (u.dev.core w.core).endl = true ∧
    ((s.dev.core w.core).frec = none → (u.dev.core w.core).frec.map (fun f => (f.code, f.eng, f.tid, f.pc, f.addr)) =
      some (code, false, t.tid, t.pc, addr)) ∧
    ((s.dev.core w.core).frec ≠ none → (u.dev.core w.core).frec = (s.dev.core w.core).frec ∧
      (u.dev.core w.core).lost = min ((s.dev.core w.core).lost + 1) 255) ∧
    (u.dev.part (s.dev.partOf w.core)).resetDue = true ∧ u.dev.mem = s.dev.mem ∧
    (u.dev.core w.core).pad = (s.dev.core w.core).pad ∧ ∀ m, m ≠ w.core → u.dev.core m = s.dev.core m

/-- A speculative task holds the fault (R124); nothing else has changed. -/
def Holds (c : Instr) (s : State) (w : Who) (t : TaskRun) (code addr : Nat) : Prop :=
  ∃ u uni, exec c s = .next u ∧ OnlyIssuer s u (s.dev.readyDev w) w.core { s.dev.readyCore w with
    tasks := (s.dev.core w.core).tasks.modify (slotIx w.task) (fun q =>
      { q with held := some ⟨code, false, t.tid, t.pc, addr, uni⟩ }) }

end Sys2Proof.Machine.Claims

/-- LD and LW: the zero-extended little-endian value of the bytes, the task's own buffered stores over the scratchpad's (R11, R123). -/
def Obligations.ScratchpadLoadsReadTheirBytes : Prop :=
  ∀ (s : State) (w : Who) (t : TaskRun) (xd xa : XReg) (i : BitVec 14), s.dev.issues w t = true →
    ∀ y ∈ wide, padReadable s.dev w (effective t xa i) y.2 = true →
      Writes (y.1 w xd xa i) s w (fun u => (u.setReg xd (BitVec.ofNat 64 (leNat (overlay (s.dev.core w.core).wbuf t.uid false
        (effective t xa i) ((s.dev.core w.core).padRead (effective t xa i) y.2))))).step 4)

/-- ST and SW: a capped task writes the register's low bytes, little-endian, at the effective address when the slots are drained; a
speculative one buffers them (R117, R124, R164). -/
def Sys2Proof.Machine.Claims.ScratchpadStoresWriteOrBuffer : Prop :=
  ∀ (s : State) (w : Who) (t : TaskRun) (xb xa : XReg) (i : BitVec 14), s.dev.issues w t = true →
    ∀ y ∈ wideSt, padWritable s.dev w t (effective t xa i) y.2 = true →
      (w.task = .capped → (s.dev.core w.core).writeWaits (s.dev.rings w.core) [(effective t xa i, y.2)] = false →
        ∃ u, exec (y.1 w xb xa i) s = .next u ∧
          OnlyIssuer s u (s.dev.readyDev w) w.core { (s.dev.readyCore w).padRuns (s.dev.rings w.core)
              [(effective t xa i, toLe y.2 (t.reg xb).toNat)] false with
            tasks := (s.dev.core w.core).tasks.modify 0 (·.step 4) }) ∧
      (w.task ≠ .capped → (s.dev.core w.core).wbuf.length < 1024 →
        Buffers (y.1 w xb xa i) s w t (.store (effective t xa i) (toLe y.2 (t.reg xb).toNat)))

/-- A write into a scratchpad changes exactly its bytes, sets the written bits of the rows it touches and no others. -/
def Sys2Proof.Machine.Claims.ScratchpadWritesChangeOnlyTheirBytes : Prop :=
  ∀ (c : Core) (rs : List RingDecl) (a x : Nat) (bs : List Byte) (p : Bool),
    (c.padRuns rs [(a, bs)] p).padByte x = (if a ≤ x ∧ x < a + bs.length then bs.getD (x - a) 0#8 else c.padByte x) ∧
    (c.padRuns rs [(a, bs)] p).wBit x = (c.wBit x || (rowsOf a bs.length).contains x) ∧
    (c.padRuns rs [(a, bs)] p).tasks = c.tasks ∧ (c.padRuns rs [(a, bs)] p).mx = c.mx ∧ (c.padRuns rs [(a, bs)] p).vx = c.vx

/-- ST and SW, and what a write into a scratchpad changes (R117, R124, R164). -/
def Obligations.ScratchpadStoresWriteTheirBytesOrBuffer : Prop := ScratchpadStoresWriteOrBuffer ∧ ScratchpadWritesChangeOnlyTheirBytes

/-- GLD and GLW: from the data cache, or else from memory through the comb; where the comb misses, a miss register is taken and the task
stands. Memory keeps every byte, and no other core changes (R117, R208, R211). -/
def Obligations.UnifiedLoadsReadTheirBytes : Prop :=
  ∀ (s : State) (w : Who) (t : TaskRun) (xd xa : XReg) (i : BitVec 14) (line : List Byte), s.dev.issues w t = true →
    ∀ y ∈ wideUni, uniReadable s.dev w (effective t xa i) y.2 = true →
      ((s.dev.core w.core).dcache.find? (fun l => l.1 == effective t xa i / 64) = some (effective t xa i / 64, line) →
        Writes (y.1 w xd xa i) s w (fun u => (u.setReg xd (BitVec.ofNat 64 (leNat (overlay (s.dev.core w.core).wbuf t.uid true
          (effective t xa i) ((line.drop (effective t xa i % 64)).take y.2))))).step 4)) ∧
      ((s.dev.core w.core).dcache.find? (fun l => l.1 == effective t xa i / 64) = none →
        (s.dev.readyDev w).combHit (effective t xa i / 512) = false →
        s.dev.tiers.fills.contains ((s.dev.combPlace (effective t xa i / 512)).1, effective t xa i / 512) = false →
        (s.dev.tiers.fills.filter (fun f => f.1 == (s.dev.combPlace (effective t xa i / 512)).1)).length < 256 →
        s.dev.hot (s.dev.tm (effective t xa i / pageBytes)).dev = false →
        ∃ u, exec (y.1 w xd xa i) s = .next u ∧ u.dev.mem = s.dev.mem ∧ (∀ m, u.dev.core m = if m = w.core then s.dev.readyCore w else s.dev.core m) ∧
          u.dev.tiers.fills = s.dev.tiers.fills ++ [((s.dev.combPlace (effective t xa i / 512)).1, effective t xa i / 512)]) ∧
      ((s.dev.core w.core).dcache.find? (fun l => l.1 == effective t xa i / 64) = none →
        (s.dev.readyDev w).combHit (effective t xa i / 512) = true → (s.dev.readyDev w).memPoisoned (effective t xa i) y.2 = false →
        ∃ u, exec (y.1 w xd xa i) s = .next u ∧ u.dev.mem = s.dev.mem ∧
          (u.dev.core w.core).tasks[slotIx w.task]? = some ((t.setReg xd (BitVec.ofNat 64 (leNat (overlay (s.dev.core w.core).wbuf
            t.uid true (effective t xa i) (s.dev.memRead (effective t xa i) y.2))))).step 4) ∧
          (∃ bs, (u.dev.core w.core).dcache.find? (fun l => l.1 == effective t xa i / 64) = some (effective t xa i / 64, bs) ∧
            bs = s.dev.memRead (effective t xa i / 64 * 64) 64) ∧
          (u.dev.core w.core).pad = (s.dev.core w.core).pad ∧ ∀ m, m ≠ w.core → u.dev.core m = s.dev.core m)

/-- GST, GSW and GATOM: a capped store changes exactly its bytes of memory, a speculative one is buffered; GATOM waits at the comb with
its operands and changes no byte yet (R117, R124, R209, R212). -/
def Obligations.UnifiedStoresWriteOrBuffer : Prop :=
  ∀ (s : State) (w : Who) (t : TaskRun) (xb xa xd : XReg) (i : BitVec 14) (fn : BitVec 3), s.dev.issues w t = true →
    (∀ y ∈ wideUniSt, uniWritable s.dev w t (effective t xa i) y.2 = true →
      (w.task = .capped → noWindows s.dev = true →
        ∃ u, exec (y.1 w xb xa i) s = .next u ∧ SameOutside s u ∧
          (u.dev.core w.core).tasks = (s.dev.core w.core).tasks.modify 0 (·.step 4) ∧
          (∀ x, u.dev.memByte x = if effective t xa i ≤ x ∧ x < effective t xa i + y.2
            then (toLe y.2 (t.reg xb).toNat).getD (x - effective t xa i) 0#8 else s.dev.memByte x) ∧
          (u.dev.core w.core).pad = (s.dev.core w.core).pad ∧ ∀ m, m ≠ w.core → u.dev.core m = s.dev.core m) ∧
      (w.task ≠ .capped → (s.dev.core w.core).wbuf.length < 1024 →
        Buffers (y.1 w xb xa i) s w t (.gstore (effective t xa i) (toLe y.2 (t.reg xb).toNat)))) ∧
    (w.task = .capped → (s.dev.core w.core).atom = none → uniWritable s.dev w t (t.reg xa).toNat 8 = true →
      ∃ u, exec (.gatom w xd xa xb fn) s = .next u ∧ u.dev.mem = s.dev.mem ∧ u.dev.tiers.atomics = s.dev.tiers.atomics ++ [w.core] ∧
        (u.dev.core w.core).atom = some ⟨t.uid, xd.val, (t.reg xa).toNat, t.reg xb, fn.toNat⟩ ∧
        (u.dev.core w.core).tasks = (s.dev.core w.core).tasks)

/-- A misaligned scratchpad access is fault 0x0102, one past the end 0x0401, a store outside the write set 0x0103, an immediate shift
of 64 or more 0x0101: the capped task is aborted, a speculative one holds the fault (R114, R115, R120, R124, R129, R130). -/
def Sys2Proof.Machine.Claims.ControlFaultsAbortOrAreHeld : Prop :=
  ∀ (s : State) (w : Who) (t : TaskRun) (x y : XReg) (i : BitVec 14), s.dev.issues w t = true →
    let both := fun (c : Instr) (code addr : Nat) =>
      (w.task = .capped → FaultsCapped c s w t code addr) ∧ (w.task ≠ .capped → Holds c s w t code addr)
    (effective t y i % 8 ≠ 0 → both (.ld w x y i) 0x0102 (effective t y i) ∧ both (.st w x y i) 0x0102 (effective t y i)) ∧
    (effective t y i % 4 ≠ 0 → both (.lw w x y i) 0x0102 (effective t y i) ∧ both (.sw w x y i) 0x0102 (effective t y i)) ∧
    (effective t y i % 8 = 0 → padBytes < effective t y i + 8 → both (.ld w x y i) 0x0401 (effective t y i)) ∧
    (effective t y i % 8 = 0 → s.dev.outsideWs w.core t.tid false (effective t y i) 8 = true → both (.st w x y i) 0x0103 (effective t y i)) ∧
    (64 ≤ i.toNat → both (.shli w x y i) 0x0101 0 ∧ both (.shri w x y i) 0x0101 0 ∧ both (.srai w x y i) 0x0101 0)

/-- TASK_START, TEND, TABT, BWAIT, FENCE, SPR and RNG (R110, R111, R119, R122, R125, R127, R129, R153). The effect of TABT is the
program-abort fault 0x0104 with its sign-extended immediate in the fault address (Table 5-9). -/
def Obligations.TasksStartEndAndWait : Prop :=
  ∀ (s : State) (w : Who) (t : TaskRun) (xd xa xb : XReg) (i : BitVec 14) (n tid : Nat),
    (n < nCores → s.dev.toStart n = some tid →
      ∃ u, exec (.taskStart n) s = .next u ∧ u.dev.mem = s.dev.mem ∧
        (u.dev.core n).tasks = (s.dev.core n).tasks ++ [startRun (s.dev.coreSec n 2) tid s.dev.uidNext] ∧
        (startRun (s.dev.coreSec n 2) tid s.dev.uidNext).pc = tdWord (s.dev.coreSec n 2) tid 1 ∧
        ∀ k : XReg, 1 ≤ k.val → k.val ≤ 4 → (startRun (s.dev.coreSec n 2) tid s.dev.uidNext).reg k =
          BitVec.ofNat 64 (tdWord (s.dev.coreSec n 2) tid (3 + k.val))) ∧
    (s.dev.issues w t = true → w.task = .capped →
      ((s.dev.core w.core).tasks = [t] → i.toNat < 4 → tdSucc (s.dev.coreSec w.core 2) t.tid i.toNat ≠ 0xFFFF →
        ∃ u, exec (.tend w i) s = .next u ∧ (u.dev.core w.core).tasks = [] ∧
          (u.dev.core w.core).startNext = some (tdSucc (s.dev.coreSec w.core 2) t.tid i.toNat) ∧
          (u.dev.core w.core).endl = (s.dev.core w.core).endl) ∧
      ((s.dev.core w.core).tasks = [t] → i.toNat < 4 → tdSucc (s.dev.coreSec w.core 2) t.tid i.toNat = 0xFFFF →
        ∃ u, exec (.tend w i) s = .next u ∧ (u.dev.core w.core).tasks = [] ∧ (u.dev.core w.core).startNext = none ∧
          (u.dev.core w.core).endl = true) ∧
      (∀ (v : TaskRun) (r : List TaskRun), (s.dev.core w.core).tasks = t :: v :: r → i.toNat < 4 →
        tdSucc (s.dev.coreSec w.core 2) t.tid i.toNat = v.tid → v.uid ≠ t.uid → v.held = none →
        (s.dev.core w.core).wbuf.any (fun e => e.uid == v.uid) = false →
        ∃ u, exec (.tend w i) s = .next u ∧ (u.dev.core w.core).tasks = v :: r) ∧
      FaultsCapped (.tabt w i) s w t 0x0104 (i.toInt % 2 ^ 32).toNat ∧
      (∃ u, exec (.bwait w i) s = .next u ∧ (u.dev.core w.core).tasks = [{ t with bwait := some i.toNat }]) ∧
      ((s.dev.core w.core).dispatch.writesDone t.uid = true → Writes (.fence w) s w (·.step 4)) ∧
      ((s.dev.core w.core).dispatch.writesDone t.uid = false →
        ∃ u, exec (.fence w) s = .next u ∧ (u.dev.core w.core).tasks = (s.dev.core w.core).tasks)) ∧
    (s.dev.issues w t = true →
      (∀ v, s.dev.special w.core t i.toNat = some v → Writes (.spr w xd i) s w (fun u => (u.setReg xd (BitVec.ofNat 64 v)).step 4)) ∧
      Writes (.rng w xd xa xb) s w (fun u => (u.setReg xd (BitVec.ofNat 64 (genOutput (s.dev.part (s.dev.partOf w.core)).seed
        (s.dev.ctx (s.dev.ctxOf w.core)).stamp.step ((t.reg xa).toNat % 2 ^ 12) ((t.reg xb).toNat % 2 ^ 32)))).step 4))

/-- PUSHM, PUSHV, MVR and ESTAT (R67, R90, R104, R113, R120, R124, R134). A push enters its queue in program order while the queue and,
for a speculative task, its share of it have room; ESTAT and MVR belong to a capped task. -/
def Obligations.PushesAndMailboxReads : Prop :=
  ∀ (s : State) (w : Who) (t : TaskRun) (xd xs : XReg) (a b c e : Word32) (v : Word32) (r : List Word32), s.dev.issues w t = true →
    let k := s.dev.readyCore w
    let next (n : Nat) : Dev := (s.dev.readyDev w).fetch w.core (t.pc + n)
    let after (n m : Nat) : Core := ((next n).core w.core).modTask (slotIx w.task) (·.step m)
    (k.mx.queue.length < 8 →
      (w.task = .capped ∨ (k.mx.queue.filter (fun o => k.specUids.contains o.uid)).length < 4) →
      ∃ u, exec (.pushm w a b c e) s = .next u ∧ OnlyIssuer s u (next 16) w.core ({ after 16 20 with
          mx := { k.mx with
            queue := pushInOrder MatOp.uid k.mx.queue ⟨k.mx.nextSeq, t.uid, t.tid, t.pc, a.toNat, b.toNat, c.toNat, e.toNat⟩,
            nextSeq := k.mx.nextSeq + 1 } } : Core).dispatch) ∧
    (k.vx.queue.length < 16 →
      (w.task = .capped ∨ (k.vx.queue.filter (fun o => k.specUids.contains o.uid)).length < 8) →
      (xs.val = 0 ∨ (vecDest ⟨t.uid, t.tid, t.pc, a.toNat, (t.reg xs).toNat % 2 ^ 32⟩).all
        (fun q => !(s.dev.outsideWs w.core t.tid false q.1 q.2)) = true) →
      ∃ u, exec (.pushv w xs a b) s = .next u ∧ OnlyIssuer s u (next 8) w.core { after 8 12 with
          vx := { k.vx with
            queue := pushInOrder VecOp.uid k.vx.queue
              ⟨t.uid, t.tid, t.pc, a.toNat, if xs.val = 0 then b.toNat else (t.reg xs).toNat % 2 ^ 32⟩ } }) ∧
    (w.task = .capped →
      (k.vx.mailbox = v :: r →
        ∃ u, exec (.mvr w xd) s = .next u ∧ OnlyIssuer s u (s.dev.readyDev w) w.core
          { k.modTask 0 (fun q => (q.setReg xd (BitVec.ofNat 64 v.toNat)).step 4) with
            vx := { k.vx with mailbox := r, mailOf := k.vx.mailOf.drop 1 } }) ∧
      (∃ u m, exec (.estat w xd xs 1#14) s = .next u ∧ OnlyIssuer s u (s.dev.readyDev w) w.core
          { k.modTask 0 (fun q => (q.setReg xd (BitVec.ofNat 64 k.shownVx.status)).step 4) with vx := { k.vx with flagLog := m } } ∧
        (u.dev.core w.core).vx.flags = k.vx.flags &&& ~~~(BitVec.ofNat 12 (t.reg xs).toNat &&& 0xF1F#12)) ∧
      (∃ u m, exec (.estat w xd xs 0#14) s = .next u ∧ OnlyIssuer s u (s.dev.readyDev w) w.core
          { k.modTask 0 (fun q => (q.setReg xd (BitVec.ofNat 64 k.shownMx.status)).step 4) with mx := { k.mx with flagLog := m } } ∧
        (u.dev.core w.core).mx.flags = k.mx.flags &&& ~~~(BitVec.ofNat 12 (t.reg xs).toNat &&& 0x01F#12)))

/-- SARM, WOPEN, WCLOSE, SEMS, SEMW and SWAIT: a speculative task buffers the first four; SEMW takes from its counter and SWAIT goes on
when the entry is idle (R124, R168, R169, R172, R177). -/
def Sys2Proof.Machine.Claims.StreamInstructionsTakeEffectOrBuffer : Prop :=
  ∀ (s : State) (w : Who) (t : TaskRun) (xa : XReg) (i : BitVec 14), s.dev.issues w t = true →
    (w.task ≠ .capped → (s.dev.core w.core).wbuf.length < 1024 →
      (i.toNat < 32 → (t.reg xa).toNat % 32 = 0 → (t.reg xa).toNat + 32 ≤ padBytes →
        Buffers (.sarm w xa i) s w t (.sarm i.toNat (t.reg xa).toNat) ∧ Buffers (.wopen w xa i) s w t (.wopen i.toNat (t.reg xa).toNat)) ∧
      (i.toNat < 32 → Buffers (.wclose w i) s w t (.wclose i.toNat)) ∧
      (i.toNat < 64 → Buffers (.sems w xa i) s w t (.sems i.toNat ((t.reg xa).toNat % 2 ^ 16)))) ∧
    (w.task = .capped →
      (i.toNat < 32 → ∃ u, exec (.wclose w i) s = .next u ∧ (u.dev.core w.core).su = (s.dev.core w.core).su.closeWindow i.toNat ∧
        (u.dev.core w.core).tasks = (s.dev.core w.core).tasks.modify 0 (·.step 4)) ∧
      (i.toNat < 32 → Store.get none (s.dev.core w.core).su.desc i.toNat = none → Store.get none (s.dev.core w.core).su.shadow i.toNat = none →
        Writes (.swait w i) s w (·.step 4)) ∧
      (i.toNat < 64 → (t.reg xa).toNat % 2 ^ 16 ≤ Store.get 0 (s.dev.core w.core).su.sem i.toNat →
        ∃ u, exec (.semw w xa i) s = .next u ∧
          (∀ k, Store.get 0 (u.dev.core w.core).su.sem k =
            if k = i.toNat then Store.get 0 (s.dev.core w.core).su.sem k - (t.reg xa).toNat % 2 ^ 16
            else Store.get 0 (s.dev.core w.core).su.sem k) ∧
          (u.dev.core w.core).tasks = (s.dev.core w.core).tasks.modify 0 (·.step 4)))

namespace Sys2Proof.Machine.Claims

/-- Only the core `n` has changed. -/
def OnlyCoreChanged (s t : State) (n : Nat) : Prop := ∃ c, OnlyCore s t n c

/-- The vector instruction at the head of core n's queue is `o`, its task is capped, and no context switch waits (R90, R124, R186). -/
def vecHead (s : State) (n : Nat) (o : VecOp) (rest : List VecOp) : Prop :=
  n < nCores ∧ s.dev.quiesced n = false ∧ (s.dev.core n).vx.queue = o :: rest ∧ (s.dev.core n).heldEntry o.uid = false

/-- The instruction has issued: it has left the queue and only its core has changed, of which neither the tasks nor the matrix engine's
banks and flags. -/
def vecIssued (s t : State) (n : Nat) (rest : List VecOp) : Prop :=
  OnlyCoreChanged s t n ∧ (t.dev.core n).vx.queue = rest ∧ (t.dev.core n).tasks = (s.dev.core n).tasks ∧
  (t.dev.core n).frec = (s.dev.core n).frec ∧ (t.dev.core n).mx.bankA = (s.dev.core n).mx.bankA ∧
  (t.dev.core n).mx.bankB = (s.dev.core n).mx.bankB ∧ (t.dev.core n).mx.flags = (s.dev.core n).mx.flags

/-- Nor has the scratchpad, with its poison, or the stream unit. -/
def padKept (s t : State) (n : Nat) : Prop :=
  (t.dev.core n).pad = (s.dev.core n).pad ∧ (t.dev.core n).padPoison = (s.dev.core n).padPoison ∧
  (t.dev.core n).w = (s.dev.core n).w ∧ (t.dev.core n).u = (s.dev.core n).u ∧ (t.dev.core n).su = (s.dev.core n).su

/-- Nor have the masks, the mailbox and the conversion control but IDX0. -/
def ctlKept (s t : State) (n : Nat) : Prop :=
  (t.dev.core n).vx.m = (s.dev.core n).vx.m ∧ (t.dev.core n).vx.mailbox = (s.dev.core n).vx.mailbox ∧
  (t.dev.core n).vx.sid = (s.dev.core n).vx.sid ∧ (t.dev.core n).vx.sq = (s.dev.core n).vx.sq

/-- Of the lanes only those of register r have changed: they are now `f`. -/
def lanesAre (s t : State) (n r : Nat) (f : Nat → Nat) : Prop :=
  (∀ q l, l < 256 → q ≠ r → (t.dev.core n).lane q l = (s.dev.core n).lane q l) ∧ ∀ l, l < 256 → (t.dev.core n).lane r l = f l % 2 ^ 32

/-- All of these but register r, IDX0 and the flags, which have gained `fl`. -/
def vecWrites (s t : State) (n : Nat) (rest : List VecOp) (r : Nat) (fl : BitVec 12) (f : Nat → Nat) : Prop :=
  vecIssued s t n rest ∧ padKept s t n ∧ ctlKept s t n ∧ lanesAre s t n r f ∧
  (t.dev.core n).vx.flags = (s.dev.core n).vx.flags ||| fl

/-- Element k of a lane's two halves: `f` where the mask lets it be written, else what register r holds. -/
def packedLane (c : Core) (mk r : Nat) (f : Bool → Nat) (l : Nat) : Nat :=
  let g := fun hi => if c.maskBit mk (2 * l + b2n hi) then f hi else if hi then c.lane r l / 2 ^ 16 else c.lane r l % 2 ^ 16
  g false + 2 ^ 16 * g true

/-- The byte at `a` after cells are written in order over what `c` holds. -/
def cellByte (c : Core) (cells : List (Nat × Byte)) (a : Nat) : Byte :=
  match cells.reverse.find? (fun z => z.1 == a) with
  | some z => z.2
  | none => c.padByte a

/-- The W bits of a core after a read that releases the ring slots of these ranges, if it does (R165). -/
def wAfterRead (s : State) (n : Nat) (rel : Bool) (ranges : List (Nat × Nat)) : Store Bool :=
  if rel then ((s.dev.core n).releaseRead (s.dev.rings n) ranges).w else (s.dev.core n).w

/-- A 32-bit integer result (R97: modulo 2^32). -/
def int32 (f : Int → Int → Int) : EltOp := fun _ a b _ => (unsigned 32 (f (signed 32 a) (signed 32 b)), 0#4)

/-- The element-wise instructions of Table 4-3 with their opcodes: the results on elements. -/
def eltTable : List ((Nat → Instr) × Nat × EltOp) :=
  [(.fadd, 0x01, fun p a b _ => numAdd p (fromFloat p a) (fromFloat p b)),
   (.fsub, 0x02, fun p a b _ => numAdd p (fromFloat p a) (fromFloat p b).flip),
   (.fmul, 0x03, fun p a b _ => numMul p (fromFloat p a) (fromFloat p b)),
   (.fma, 0x04, fun p a b c => numFma p (fromFloat p a) (fromFloat p b) (fromFloat p c)),
   (.fnma, 0x05, fun p a b c => numFma p (fromFloat p a).flip (fromFloat p b) (fromFloat p c)),
   (.fmax, 0x06, fun p a b _ => (fltMaxMin p true a b, 0#4)), (.fmin, 0x07, fun p a b _ => (fltMaxMin p false a b, 0#4)),
   (.fabs, 0x08, fun p a _ _ => (a % 2 ^ (p + 7), 0#4)), (.fneg, 0x09, fun p a _ _ => (Nat.xor a (2 ^ (p + 7)), 0#4)),
   (.fcpys, 0x0A, fun p a b _ => (a % 2 ^ (p + 7) + b / 2 ^ (p + 7) % 2 * 2 ^ (p + 7), 0#4)), (.fmov, 0x0B, fun _ _ b _ => (b, 0#4)),
   (.iadd, 0x18, int32 (· + ·)), (.isub, 0x19, int32 (· - ·)), (.imul, 0x1A, int32 (· * ·)),
   (.vectorAnd, 0x1B, fun _ a b _ => (Nat.land a b, 0#4)), (.vectorOr, 0x1C, fun _ a b _ => (Nat.lor a b, 0#4)),
   (.vectorXor, 0x1D, fun _ a b _ => (Nat.xor a b, 0#4)),
   (.vectorShl, 0x1E, fun _ a b _ => (a * 2 ^ (b % 32) % 2 ^ 32, 0#4)), (.vectorShr, 0x1F, fun _ a b _ => (a % 2 ^ 32 / 2 ^ (b % 32), 0#4)),
   (.vectorSra, 0x20, fun _ a b _ => (unsigned 32 (signed 32 a / 2 ^ (b % 32)), 0#4)),
   (.imax, 0x21, int32 max), (.imin, 0x22, int32 min),
   (.fscl, 0x26, fun p a _ _ => (blockScale none [fromFloat p a], 0#4)),
   (.rcp, 0x30, fun p a _ _ => numRcp p (fromFloat p a)), (.rsqrt, 0x31, fun p a _ _ => numRsqrt p (fromFloat p a)),
   (.sqrt, 0x32, fun p a _ _ => numSqrt p (fromFloat p a)), (.div, 0x33, fun p a b _ => numDiv p (fromFloat p a) (fromFloat p b)),
   (.exp2, 0x34, fun p a _ _ => numExp p dyExp2 (fromFloat p a)), (.log2, 0x35, fun p a _ _ => numLog p dyLog2 (fromFloat p a)),
   (.exp, 0x36, fun p a _ _ => numExp p dyExp (fromFloat p a)), (.log, 0x37, fun p a _ _ => numLog p dyLog (fromFloat p a)),
   (.tanh, 0x38, fun p a _ _ => numTanh p (fromFloat p a)), (.sigm, 0x39, fun p a _ _ => numSigm p (fromFloat p a))]

/-- The comparisons of Table 4-3: what sets the mask bit. A comparison with a NaN is false, but for FCUN. -/
def cmpTable : List ((Nat → Instr) × Nat × (Nat → Nat → Nat → Bool)) :=
  [(.fceq, 0x10, fun p a b => !isNaN (fromFloat p a) && !isNaN (fromFloat p b) && numEq (fromFloat p a) (fromFloat p b)),
   (.fclt, 0x11, fun p a b => !isNaN (fromFloat p a) && !isNaN (fromFloat p b) && numLt (fromFloat p a) (fromFloat p b)),
   (.fcle, 0x12, fun p a b => !isNaN (fromFloat p a) && !isNaN (fromFloat p b) &&
     (numLt (fromFloat p a) (fromFloat p b) || numEq (fromFloat p a) (fromFloat p b))),
   (.fcun, 0x13, fun p a b => isNaN (fromFloat p a) || isNaN (fromFloat p b)),
   (.iceq, 0x23, fun _ a b => decide (a = b)), (.iclt, 0x24, fun _ a b => decide (signed 32 a < signed 32 b))]

/-- The mask operations. -/
def maskTable : List ((Nat → Instr) × Nat × (Bool → Bool → Bool)) :=
  [(.mand, 0x50, fun a b => a && b), (.mor, 0x51, fun a b => a || b), (.mxor, 0x52, fun a b => a ^^ b), (.mnot, 0x53, fun a _ => !a)]

/-- The reductions: the identity that a lane under the mask contributes, and the combination. -/
def reduceTable : List ((Nat → Instr) × Nat × Nat × (Nat → Nat → Nat × AFlags)) :=
  [(.rsum, 0x48, 0x80000000, fun a b => numAdd 24 (f32 a) (f32 b)), (.rmax, 0x49, 0xFF800000, fun a b => (fltMaxMin 24 true a b, 0#4)),
   (.rmin, 0x4A, 0x7F800000, fun a b => (fltMaxMin 24 false a b, 0#4))]

/-- The half of a lane. -/
def halfOf (w : Nat) (hi : Bool) : Nat := if hi then w / 2 ^ 16 else w % 2 ^ 16

/-- The operand b of lane l: a register, or word 1 for every lane (R98). -/
def bOf (c : Core) (o : VecOp) (l : Nat) : Nat := if vBimm o then o.w1 else c.lane (vVB o) l

/-- What the accumulator of an entry holds at its start: its value, or 0 when it is not valid (R66). -/
def entryStart (e : AccEntry) : Int := if e.valid then e.a else 0

end Sys2Proof.Machine.Claims

/-- The element-wise instructions: every unmasked element takes the operation's result and every masked one keeps its value, in FP32
mode on 256 lanes and in packed mode on 512 halves; other registers, masks and memory keep theirs, and the flags gather (R54, R89, R98). -/
def Obligations.ElementwiseInstructionsWriteUnderTheMask : Prop :=
  ∀ (s : State) (n : Nat) (o : VecOp) (rest : List VecOp), vecHead s n o rest → ∀ y ∈ eltTable, vOp o = y.2.1 →
    ∃ t, exec (y.1 n) s = .next t ∧ vecIssued s t n rest ∧ padKept s t n ∧ ctlKept s t n ∧
      (t.dev.core n).vx.idx0 = (s.dev.core n).vx.idx0 ∧
      (∀ r l, l < 256 → r ≠ vVD o → (t.dev.core n).lane r l = (s.dev.core n).lane r l) ∧
      (vPk o = false → ∀ l, l < 256 → (t.dev.core n).lane (vVD o) l =
        if (s.dev.core n).maskBit (vMk o) l then
          (y.2.2 24 ((s.dev.core n).lane (vVA o) l) (bOf (s.dev.core n) o l) ((s.dev.core n).lane (vVC o) l)).1 % 2 ^ 32
        else (s.dev.core n).lane (vVD o) l) ∧
      (vPk o = true → ∀ l, l < 256 → (t.dev.core n).lane (vVD o) l =
        let g := fun hi => if (s.dev.core n).maskBit (vMk o) (2 * l + b2n hi) then
            (y.2.2 8 (halfOf ((s.dev.core n).lane (vVA o) l) hi) (halfOf (bOf (s.dev.core n) o l) hi)
              (halfOf ((s.dev.core n).lane (vVC o) l) hi)).1
          else halfOf ((s.dev.core n).lane (vVD o) l) hi
        (g false + 2 ^ 16 * g true) % 2 ^ 32) ∧
      (t.dev.core n).vx.flags = (s.dev.core n).vx.flags ||| (vMap y.2.2 (s.dev.core n) o).2

/-- The comparisons and mask operations write mask VD[2:0] under the write mask; M0 reads as all ones and a write to it is discarded;
a comparison changes only the elements of its mode (R98, R99, Table 4-3). -/
def Obligations.ComparisonsAndMaskOperationsWriteTheirMask : Prop :=
  ∀ (s : State) (n : Nat) (o : VecOp) (rest : List VecOp), vecHead s n o rest →
    (∀ y ∈ cmpTable, vOp o = y.2.1 → ∃ t, exec (y.1 n) s = .next t ∧ vecIssued s t n rest ∧ padKept s t n ∧
      (t.dev.core n).vx.v = (s.dev.core n).vx.v ∧ (t.dev.core n).vx.flags = (s.dev.core n).vx.flags ∧
      (t.dev.core n).vx.mailbox = (s.dev.core n).vx.mailbox ∧
      (∀ m k, m ≠ vVD o % 8 → (t.dev.core n).maskBit m k = (s.dev.core n).maskBit m k) ∧
      (∀ k, k < 512 → (t.dev.core n).maskBit 0 k = true) ∧
      (vVD o % 8 ≠ 0 → ∀ k, k < 512 → (t.dev.core n).maskBit (vVD o % 8) k =
        if (s.dev.core n).maskBit (vMk o) k = true ∧ (vPk o = true ∨ k < 256) then
          (if vPk o then y.2.2 8 (halfOf ((s.dev.core n).lane (vVA o) (k / 2)) (k % 2 == 1)) (halfOf (bOf (s.dev.core n) o (k / 2)) (k % 2 == 1))
           else y.2.2 24 ((s.dev.core n).lane (vVA o) k) (bOf (s.dev.core n) o k))
        else (s.dev.core n).maskBit (vVD o % 8) k)) ∧
    (∀ y ∈ maskTable, vOp o = y.2.1 → ∃ t, exec (y.1 n) s = .next t ∧ vecIssued s t n rest ∧ padKept s t n ∧
      (t.dev.core n).vx.v = (s.dev.core n).vx.v ∧ (t.dev.core n).vx.flags = (s.dev.core n).vx.flags ∧
      (t.dev.core n).vx.mailbox = (s.dev.core n).vx.mailbox ∧
      (∀ m k, m ≠ vVD o % 8 → (t.dev.core n).maskBit m k = (s.dev.core n).maskBit m k) ∧
      (vVD o % 8 ≠ 0 → ∀ k, k < 512 → (t.dev.core n).maskBit (vVD o % 8) k =
        if (s.dev.core n).maskBit (vMk o) k then
          y.2.2 ((s.dev.core n).maskBit (vVA o % 8) k) ((s.dev.core n).maskBit (vVB o % 8) k)
        else (s.dev.core n).maskBit (vVD o % 8) k))

/-- IOTA, the conversions, the reductions, VCFG and VOUT (R44, R89, R94, R95, R101, R104): CVTB rounds to nearest even or by the random
stream SID at IDX0, which then has moved on by 512; a reduction writes each group's result to all its lanes, for the group codes 0 to 5
that R101 gives. -/
def Obligations.IotaConversionsReductionsAndMailbox : Prop :=
  ∀ (s : State) (n : Nat) (o : VecOp) (rest : List VecOp), vecHead s n o rest →
    let c := s.dev.core n
    (vOp o = 0x25 → ∃ t, exec (.iota n) s = .next t ∧ (t.dev.core n).vx.idx0 = c.vx.idx0 ∧
      vecWrites s t n rest (vVD o) 0#12 (fun l => if vPk o then packedLane c (vMk o) (vVD o) (fun hi => 2 * l + b2n hi) l
        else if c.maskBit (vMk o) l then l else c.lane (vVD o) l)) ∧
    (∀ y ∈ [(Instr.cvtfl, 0x41, false), (Instr.cvtfh, 0x42, true)], vOp o = y.2.1 →
      ∃ t, exec (y.1 n) s = .next t ∧ (t.dev.core n).vx.idx0 = c.vx.idx0 ∧ vecWrites s t n rest (vVD o) 0#12 (fun l =>
        if c.maskBit (vMk o) l then halfOf (c.lane (vVA o) l) y.2.2 * 2 ^ 16 else c.lane (vVD o) l)) ∧
    (vOp o = 0x40 → vVC o % 4 ≤ 1 →
      let r := fun k => if vVC o % 4 = 0 then Rnd.ne else Rnd.sr (genU (s.dev.part (s.dev.partOf n)).seed
        (s.dev.partStamp (s.dev.partOf n)).step c.vx.sid.toNat ((c.vx.idx0.toNat + k) % 2 ^ 32))
      let e := fun l hi => toFloat 8 (f32 (if hi then bOf c o l else c.lane (vVA o) l)) (r (2 * l + b2n hi))
      ∃ t fl, exec (.cvtb n) s = .next t ∧ vecWrites s t n rest (vVD o) fl (fun l =>
          packedLane c (vMk o) (vVD o) (fun hi => (e l hi).1) l) ∧
        (∀ i, fl.getLsbD i = true ↔ ∃ l hi, l < 256 ∧ c.maskBit (vMk o) (2 * l + b2n hi) = true ∧ (e l hi).2.getLsbD i = true) ∧
        (t.dev.core n).vx.idx0 = if vVC o % 4 = 0 then c.vx.idx0 else c.vx.idx0 + 512#32) ∧
    (∀ y ∈ reduceTable, vOp o = y.2.1 → vVC o % 8 ≤ 5 →
      let g := 2 ^ (3 + vVC o % 8)
      let red := fun b => reduceAll y.2.2.2 (3 + vVC o % 8) ((List.range g).map (fun i =>
        if c.maskBit (vMk o) (b * g + i) then c.lane (vVA o) (b * g + i) else y.2.2.1), 0#12)
      ∃ t fl, exec (y.1 n) s = .next t ∧ (t.dev.core n).vx.idx0 = c.vx.idx0 ∧
        vecWrites s t n rest (vVD o) fl (fun l => (red (l / g)).1.getD 0 0) ∧
        ∀ i, fl.getLsbD i = true ↔ ∃ b, b < 256 / g ∧ (red b).2.getLsbD i = true) ∧
    (vOp o = 0x70 → ∃ t, exec (.vcfg n) s = .next t ∧ vecIssued s t n rest ∧ padKept s t n ∧ (t.dev.core n).vx.v = c.vx.v ∧
      (t.dev.core n).vx.m = c.vx.m ∧ (t.dev.core n).vx.mailbox = c.vx.mailbox ∧ (t.dev.core n).vx.flags = c.vx.flags ∧
      (t.dev.core n).vx.sid.toNat = bits o.w0 19 8 ∧ (t.dev.core n).vx.sq.toNat = bits o.w0 27 20 ∧
      (t.dev.core n).vx.idx0 = BitVec.ofNat 32 o.w1) ∧
    (vOp o = 0x71 → c.vx.mailbox.length < 4 → ∃ t, exec (.vout n) s = .next t ∧ vecIssued s t n rest ∧ padKept s t n ∧
      (t.dev.core n).vx.v = c.vx.v ∧ (t.dev.core n).vx.m = c.vx.m ∧ (t.dev.core n).vx.flags = c.vx.flags ∧
      (t.dev.core n).vx.idx0 = c.vx.idx0 ∧
      (t.dev.core n).vx.mailbox.map (·.toNat) = c.vx.mailbox.map (·.toNat) ++ [c.lane (vVA o) 0]) ∧
    (vOp o = 0x71 → 4 ≤ c.vx.mailbox.length → ∃ t, exec (.vout n) s = .next t ∧ OnlyCoreChanged { s with dev := { s.dev with
        freeIx := s.dev.freeIx + 1 } } t n ∧ (t.dev.core n).vx.queue = o :: rest ∧ (t.dev.core n).vx.mailbox = c.vx.mailbox)

/-- VLD, VLDB, VST and VSTB (R91, R93 to R96, R102, R165): a load whose rows are in range and readable fills its register under the
mask, changes no byte, and with REL releases the ring slots that it read; a store whose slots are drained writes the cells of its
elements in order, a non-PL format at its elements' places, and no other byte, and IDX0 moves on by the elements that drew. -/
def Obligations.VectorLoadsAndStoresMoveTheirBytes : Prop :=
  ∀ (s : State) (n : Nat) (o : VecOp) (rest : List VecOp), vecHead s n o rest →
    let c := s.dev.core n
    let rnd := fun j => s.dev.vxRnd n c (lsRnd o) j
    (vOp o = 0x60 → rangeBreak (lsRanges o) = none → c.readCheck (s.dev.rings n) (s.dev.guard n) .engine (lsRanges o) = .ok () →
      ∃ t fl, exec (.vld n) s = .next t ∧ vecIssued s t n rest ∧ ctlKept s t n ∧ (t.dev.core n).vx.idx0 = c.vx.idx0 ∧
        (t.dev.core n).pad = c.pad ∧ (t.dev.core n).w = wAfterRead s n (lsRel o) (lsRanges o) ∧
        lanesAre s t n (lsV o) (fun l => if lsPk o then packedLane c (lsMk o) (lsV o) (fun hi => (vldElt c o (2 * l + b2n hi)).1) l
          else if c.maskBit (lsMk o) l then (vldElt c o l).1 else c.lane (lsV o) l) ∧
        (t.dev.core n).vx.flags = c.vx.flags ||| fl ∧
        ∀ i, fl.getLsbD i = true ↔ ∃ k, k < (if lsPk o then 512 else 256) ∧ c.maskBit (lsMk o) k = true ∧
          (vldElt c o k).2.getLsbD i = true) ∧
    (vOp o = 0x62 → rangeBreak (lsByteRanges o) = none →
      c.readCheck (s.dev.rings n) (s.dev.guard n) .engine (lsByteRanges o) = .ok () →
      ∃ t, exec (.vldb n) s = .next t ∧ vecIssued s t n rest ∧ ctlKept s t n ∧ (t.dev.core n).vx.idx0 = c.vx.idx0 ∧
        (t.dev.core n).pad = c.pad ∧ (t.dev.core n).w = wAfterRead s n (lsRel o) (lsByteRanges o) ∧
        lanesAre s t n (lsV o) (fun l => if c.maskBit (lsMk o) l then
          (c.padByte (lsAddr o + l / 128 * lsStride o + l % 128)).toNat else c.lane (lsV o) l) ∧
        (t.dev.core n).vx.flags = c.vx.flags) ∧
    (vOp o = 0x61 → rangeBreak (lsRanges o) = none → c.writeWaits (s.dev.rings n) (lsRanges o) = false →
      ∃ t, exec (.vst n) s = .next t ∧ vecIssued s t n rest ∧ ctlKept s t n ∧ (t.dev.core n).vx.v = c.vx.v ∧
        (t.dev.core n).vx.flags = c.vx.flags ||| convFlags (vstCells c o rnd).2 ∧
        (t.dev.core n).vx.idx0 = (if vstDraws o then c.vx.idx0 + BitVec.ofNat 32 (if lsPk o then 512 else 256) else c.vx.idx0) ∧
        (∀ a, (t.dev.core n).padByte a = cellByte c (vstCells c o rnd).1 a) ∧
        (2 ≤ lsFmt o → (lsPk o = true → lsFmt o = 3) → lsHalfBytes (lsFmt o) (lsPk o) (lsHeld o) ≤ lsStride o → ∀ k, k < (if lsPk o then 512 else 256) →
          c.maskBit (lsMk o) k = true → (t.dev.core n).padRead (vstElt c o k (rnd k)).1 (vstElt c o k (rnd k)).2.1.length =
            (vstElt c o k (rnd k)).2.1)) ∧
    (vOp o = 0x63 → rangeBreak (lsByteRanges o) = none → c.writeWaits (s.dev.rings n) (lsByteRanges o) = false →
      ∃ t, exec (.vstb n) s = .next t ∧ vecIssued s t n rest ∧ ctlKept s t n ∧ (t.dev.core n).vx.v = c.vx.v ∧
        (t.dev.core n).vx.idx0 = c.vx.idx0 ∧ (t.dev.core n).vx.flags = c.vx.flags ∧
        (∀ l, l < 256 → c.maskBit (lsMk o) l = true → l < lsStride o ∨ 128 ≤ l →
          (t.dev.core n).padByte (lsAddr o + l / 128 * lsStride o + l % 128) = BitVec.ofNat 8 (c.lane (lsV o) l)) ∧
        (∀ a, (∀ l, l < 256 → c.maskBit (lsMk o) l = true → lsAddr o + l / 128 * lsStride o + l % 128 ≠ a) →
          (t.dev.core n).padByte a = c.padByte a))

/-- HELD_TILE_LOAD takes the held bytes into the shadow, or takes again those that a switch left behind; MMA runs with them: the mode
record of its banks, every entry of an active column in an unmasked row takes the row's products on top of what it held, or on top of
nothing where the instruction does not accumulate, no other entry and no byte of the scratchpad changes (R59, R66, R68, R69, R73, R84). -/
def Sys2Proof.Machine.Claims.MatrixMultiplyUsesTheHeldTile : Prop :=
  ∀ (s : State) (n : Nat) (o : MatOp) (held : List Byte), n < nCores → s.dev.quiesced n = false →
    let c := s.dev.core n
    c.mx.array = some o →
    (c.mx.shadow = none → c.mx.reload = none →
      (c.mx.earlier o).any (fun e => rangesMeet [(mmaH o, mmaHeldBytes o)] (mxWrites e)) = false →
      c.readCheck (s.dev.rings n) (s.dev.guard n) .engine [(mmaH o, mmaHeldBytes o)] = .ok () →
      ∃ t, exec (.heldTileLoad n) s = .next t ∧ OnlyCoreChanged s t n ∧
        (t.dev.core n).mx = { c.mx with shadow := some (c.padRead (mmaH o) (mmaHeldBytes o)) } ∧
        (t.dev.core n).pad = c.pad ∧ (t.dev.core n).vx = c.vx ∧ (t.dev.core n).tasks = c.tasks ∧
        (t.dev.core n).w = wAfterRead s n (mmaHrel o) [(mmaH o, mmaHeldBytes o)]) ∧
    (c.mx.shadow = none → c.mx.reload = some held →
      ∃ t, exec (.heldTileLoad n) s = .next t ∧
        OnlyCore s t n { c with mx := { c.mx with shadow := some held, reload := none }, progress := true }) ∧
    (c.mx.shadow = some held → c.mx.blocked o = false →
      c.readCheck (s.dev.rings n) false .stream (mmaMaskRanges o ++ mmaAllRanges o) = .ok () →
      (mmaAcc o = true → ((mmaBanks o).1 = true → modeOk c.mx.bankA (mmaI8 o) (mmaE o) = true) ∧
        ((mmaBanks o).2 = true → modeOk c.mx.bankB (mmaI8 o) (mmaE o) = true)) →
      c.readCheck (s.dev.rings n) (s.dev.guard n) .engine (mmaMaskRanges o ++ mmaStreamRanges c o) = .ok () →
      ∃ t, exec (.mma n) s = .next t ∧ OnlyCoreChanged s t n ∧ (t.dev.core n).pad = c.pad ∧ (t.dev.core n).vx.v = c.vx.v ∧
        (t.dev.core n).tasks = c.tasks ∧ (t.dev.core n).w = wAfterRead s n (mmaXrel o) (mmaAllRanges o) ∧
        (t.dev.core n).mx.shadow = none ∧ (t.dev.core n).mx.active = held ∧
        ∀ y ∈ [((mmaBanks o).1, c.mx.bankA, (t.dev.core n).mx.bankA), ((mmaBanks o).2, c.mx.bankB, (t.dev.core n).mx.bankB)],
          (y.1 = false → y.2.2 = y.2.1) ∧
          (y.1 = true → y.2.2.mode = some (mmaI8 o, mmaE o) ∧ ∀ m k, k < 128 →
            let old : AccEntry := if mmaAcc o then Store.get {} y.2.1.ent (128 * m + k) else {}
            let live := (List.range (mmaK o)).filter (fun j => !(mmaEltMasked c o m j))
            Store.get {} y.2.2.ent (128 * m + k) = if m < mmaM o ∧ k < mmaCols o ∧ mmaRowMasked c o m = false then
              (mmaEntry o (live.map (xElt c o m)) (live.map (hElt o held.toArray k)) old).1 else old))

/-- The accumulation of a row into an entry is exact while no partial sum leaves the accumulator's range: the start plus every
contribution, in any entry whose lock is clear (R34, R65, R66). -/
def Sys2Proof.Machine.Claims.AccumulationIsTheExactSum : Prop :=
  ∀ (o : MatOp) (xs hs : List Elt) (e : AccEntry), e.lock = false →
    (∀ k, k ≤ (xs.zip hs).length → -2 ^ 47 < entryStart e + (((xs.zip hs).take k).map (fun p => mmaContribution o p.1 p.2)).sum ∧
      entryStart e + (((xs.zip hs).take k).map (fun p => mmaContribution o p.1 p.2)).sum < 2 ^ 47) →
    mmaEntry o xs hs e =
      (⟨entryStart e + ((xs.zip hs).map (fun p => mmaContribution o p.1 p.2)).sum, true, false⟩, false)

/-- MMA and the held tile load, and that an entry takes the exact sum. -/
def Obligations.MatrixMultiplyAddsExactSums : Prop := MatrixMultiplyUsesTheHeldTile ∧ AccumulationIsTheExactSum

/-- MDRAIN and MALIGN: no bank changes; a drain into rows that do not overlap leaves there what each row's valid entries round to, in a
format that a drain can have; MALIGN into planes that do not overlap leaves there the digits of every block; no other byte changes
(R70, R75, R76, R81). -/
def Obligations.DrainAndAlignWriteTheirRows : Prop :=
  ∀ (s : State) (n : Nat) (o : MatOp), n < nCores → s.dev.quiesced n = false →
    let c := s.dev.core n
    let rnd := fun i => s.dev.rnd n (mdRnd o) (mdSid o) i
    (c.mx.drainer = some o → c.mx.blocked o = false → c.writeWaits (s.dev.rings n) (mdRanges o) = false →
      (∀ m, (mdSource c o).mode = some m → m.1 = mdI8 o) →
      ∃ t, exec (.mdrain n) s = .next t ∧ OnlyCoreChanged s t n ∧
        t.dev.core n = (drainRun c (s.dev.rings n) o rnd).mxDone ∧
        (t.dev.core n).mx.bankA = c.mx.bankA ∧ (t.dev.core n).mx.bankB = c.mx.bankB ∧ (t.dev.core n).vx.v = c.vx.v ∧
        (t.dev.core n).tasks = c.tasks ∧
        (mdRowBytes o ≤ mdStride o ∨ mdM o = 1 → mdFmt o ∈ [0, 1, 2, 3, 4, 5, 6, 8] →
          (∀ m, m < mdM o → ∀ z ∈ (drainAnyRow c o (mdSource c o) rnd m).1, (t.dev.core n).padByte z.1 = z.2) ∧
          (mdPL o = false → ∀ m k, m < mdM o → k < mdCols o →
            let x : AccEntry := Store.get {} (mdSource c o).ent (128 * m + k)
            let e := match (mdSource c o).mode with | some q => q.2 | none => 0
            let a := mdAddr o + m * mdStride o + k * fmtBytes (mdFmt o)
            (t.dev.core n).padRead a (fmtBytes (mdFmt o)) =
              if x.valid then (drainElt (mdFmt o) (mdQ o) e x.a (rnd (mdIdx o + 128 * m + k))).1
              else if mdZf o then List.replicate (fmtBytes (mdFmt o)) 0#8 else c.padRead a (fmtBytes (mdFmt o)))) ∧
        ∀ a, (∀ r ∈ mdRanges o, a < r.1 ∨ r.1 + r.2 ≤ a) → mdFmt o ∈ [0, 1, 2, 3, 4, 5, 6, 8] → (t.dev.core n).padByte a = c.padByte a) ∧
    (c.mx.aligner = some o → c.mx.blocked o = false → c.writeWaits (s.dev.rings n) (maDstRanges o) = false →
      c.readCheck (s.dev.rings n) (s.dev.guard n) .engine (maSrcRanges o) = .ok () → maInvalid c o = false →
      ∃ t, exec (.malign n) s = .next t ∧ OnlyCoreChanged s t n ∧ (t.dev.core n).mx.bankA = c.mx.bankA ∧
        (t.dev.core n).mx.bankB = c.mx.bankB ∧ (t.dev.core n).vx.v = c.vx.v ∧ (t.dev.core n).tasks = c.tasks ∧
        (maPlaneBytes o ≤ maPstride o → ∀ b ∈ maBlocks o, ∀ z ∈ (maBlockCells c o b).1, (t.dev.core n).padByte z.1 = z.2) ∧
        ∀ a, (∀ b ∈ maBlocks o, ∀ z ∈ (maBlockCells c o b).1, z.1 ≠ a) → (t.dev.core n).padByte a = c.padByte a)

/-- A fault of an engine aborts the task that pushed the instruction (R82, R102, R106): MMA into a bank of another mode, MDRAIN from a
bank of the other class (0x0202), MALIGN of an infinity or a NaN (0x0201), a vector load or store whose substituted address leaves the
scratchpad (0x0401). -/
def Sys2Proof.Machine.Claims.MatrixFaultsAbortTheirTask : Prop :=
  ∀ (s : State) (n : Nat) (o : MatOp) (v : VecOp) (rest : List VecOp), n < nCores → s.dev.quiesced n = false →
    let c := s.dev.core n
    let aborts := fun (i : Instr) (code tid pc : Nat) => ∃ t, exec i s = .next t ∧ (t.dev.core n).tasks = [] ∧
      (c.frec = none → (t.dev.core n).frec.map (fun f => (f.code, f.eng, f.tid, f.pc)) = some (code, true, tid, pc)) ∧
      (t.dev.part (s.dev.partOf n)).resetDue = true ∧ (t.dev.core n).pad = c.pad ∧ t.dev.mem = s.dev.mem ∧
      ∀ m, m ≠ n → t.dev.core m = s.dev.core m
    (c.mx.array = some o → c.mx.shadow ≠ none → c.mx.blocked o = false →
      c.readCheck (s.dev.rings n) false .stream (mmaMaskRanges o ++ mmaAllRanges o) = .ok () → mmaAcc o = true →
      (((mmaBanks o).1 && !(modeOk c.mx.bankA (mmaI8 o) (mmaE o))) || ((mmaBanks o).2 && !(modeOk c.mx.bankB (mmaI8 o) (mmaE o)))) = true →
      aborts (.mma n) 0x0202 o.tid o.pc) ∧
    (c.mx.drainer = some o → c.mx.blocked o = false → c.writeWaits (s.dev.rings n) (mdRanges o) = false →
      (∃ m, (mdSource c o).mode = some m ∧ m.1 ≠ mdI8 o) → aborts (.mdrain n) 0x0202 o.tid o.pc) ∧
    (c.mx.aligner = some o → c.mx.blocked o = false → c.writeWaits (s.dev.rings n) (maDstRanges o) = false →
      c.readCheck (s.dev.rings n) (s.dev.guard n) .engine (maSrcRanges o) = .ok () → maInvalid c o = true →
      aborts (.malign n) 0x0201 o.tid o.pc) ∧
    (vecHead s n v rest →
      (∀ y ∈ [(Instr.vld, 0x60), (Instr.vst, 0x61)], vOp v = y.2 → rangeBreak (lsRanges v) ≠ none → aborts (y.1 n) 0x0401 v.tid v.pc) ∧
      ∀ y ∈ [(Instr.vldb, 0x62), (Instr.vstb, 0x63)], vOp v = y.2 → rangeBreak (lsByteRanges v) ≠ none →
        aborts (y.1 n) 0x0401 v.tid v.pc)

/-- Faults of the control engine and of the matrix engine (R83, R114, R115, R120, R124, R129, R130). -/
def Obligations.FaultsAbortTheirTaskOrAreHeld : Prop := ControlFaultsAbortOrAreHeld ∧ MatrixFaultsAbortTheirTask

namespace Sys2Proof.Machine.Claims

/-- The transfers of each kind, by the command that starts them. -/
def startTable : List ((Nat → Nat → Instr) × Nat) := [(.copy, 1), (.blockTranspose, 2), (.sliceSend, 3), (.weantaerSend, 4)]

/-- A request whose turn it is to land: it is in flight under this tag, nobody holds it, nothing older goes first, the network accepts
this sender's writes there, and its bytes go to one run in a scratchpad. -/
def landable (d : Dev) (n tag : Nat) (q : Request) (k a : Nat) (bs : List Byte) (p : Bool) : Prop :=
  (d.core n).su.req.find? (fun q => if tag < 64 then !q.light && q.tag == tag else q.light && q.tag == tag - 64) = some q ∧
  q.held = false ∧ q.runs = [(.pad k a, bs, p)] ∧ olderFirst (d.core n).su.req q = false ∧ d.stopped n q = false

/-- The capped task of `w` has gone on to its next instruction; outside its core nothing has changed but the comb by the fetch, and on
it neither the scratchpad nor the engines' registers. -/
def WentOn (s u : State) (w : Who) : Prop :=
  OnlyIssuer s u (s.dev.readyDev w) w.core (u.dev.core w.core) ∧
  (u.dev.core w.core).tasks = (s.dev.core w.core).tasks.modify 0 (·.step 4) ∧ (u.dev.core w.core).pad = (s.dev.core w.core).pad ∧
  (u.dev.core w.core).vx = (s.dev.core w.core).vx ∧ (u.dev.core w.core).mx.bankA = (s.dev.core w.core).mx.bankA ∧
  (u.dev.core w.core).mx.bankB = (s.dev.core w.core).mx.bankB

end Sys2Proof.Machine.Claims

/-- SARM, WOPEN and SEMS of a capped task: an image that passes the arming checks fills the idle entry, or the shadow of a busy one, with
its stamp, a window opens with its image, and the counter gains the count up to 65,535; the task goes on (R143, R168, R169, R172,
R177). -/
def Sys2Proof.Machine.Claims.ArmsAndSignalsOfCappedTasks : Prop :=
  ∀ (s : State) (w : Who) (t : TaskRun) (xa : XReg) (i : BitVec 14), s.dev.issues w t = true → w.task = .capped →
    (i.toNat < 32 → (t.reg xa).toNat % 32 = 0 → (t.reg xa).toNat + 32 ≤ padBytes →
      (s.dev.core w.core).imgPoisoned (t.reg xa).toNat = false →
      s.dev.armFaults w.core t.tid ((s.dev.core w.core).imgAt (t.reg xa).toNat) = [] →
      let old := (s.dev.core w.core).su
      let sd : SDesc := { img := (s.dev.core w.core).imgAt (t.reg xa).toNat, uid := t.uid, tid := t.tid, pc := t.pc, ctx := s.dev.ctxOf w.core,
                          step := (s.dev.ctx (s.dev.ctxOf w.core)).stamp.step, phase := (s.dev.ctx (s.dev.ctxOf w.core)).stamp.phase }
      (Store.get none old.desc i.toNat = none →
        ∃ u, exec (.sarm w xa i) s = .next u ∧ WentOn s u w ∧
          (u.dev.core w.core).su = { old with desc := Store.set none old.desc i.toNat (some sd) }) ∧
      (Store.get none old.desc i.toNat ≠ none → Store.get none old.shadow i.toNat = none →
        ∃ u, exec (.sarm w xa i) s = .next u ∧ WentOn s u w ∧
          (u.dev.core w.core).su = { old with shadow := Store.set none old.shadow i.toNat (some sd) })) ∧
    (i.toNat < 32 → (t.reg xa).toNat % 32 = 0 → (t.reg xa).toNat + 32 ≤ padBytes →
      (s.dev.core w.core).imgPoisoned (t.reg xa).toNat = false →
      let img := (s.dev.core w.core).imgAt (t.reg xa).toNat
      winReserved img = false → winChunks img ≠ 0 → winVreq img = false →
      (∃ r, (s.dev.ringOf w.core (winRing img)) = some r ∧ r.pcls = 3 ∧
        s.dev.uniOutside (s.dev.partOf w.core) [((winExtent img r.slotBytes).1, ((winExtent img r.slotBytes).2 - (winExtent img r.slotBytes).1).toNat)] = none) →
      (s.dev.core w.core).su.win = [] →
      ∃ u, exec (.wopen w xa i) s = .next u ∧ WentOn s u w ∧
        (u.dev.core w.core).su = { (s.dev.core w.core).su with win := Store.set none [] i.toNat (some
          { img := img, base := winBase img, owner := some (t.uid, t.tid), pc := t.pc, ctx := s.dev.ctxOf w.core }) }) ∧
    (i.toNat < 64 → s.dev.semTarget w.core i.toNat = (w.core, i.toNat) →
      Store.get 0 (s.dev.core w.core).su.sem i.toNat + (t.reg xa).toNat % 2 ^ 16 ≤ 65535 →
      ∃ u, exec (.sems w xa i) s = .next u ∧ WentOn s u w ∧
        ∀ k, Store.get 0 (u.dev.core w.core).su.sem k = Store.get 0 (s.dev.core w.core).su.sem k +
          (if k = i.toNat then (t.reg xa).toNat % 2 ^ 16 else 0))

/-- The stream instructions of speculative and of capped tasks (R124, R143, R168, R169, R172, R177). -/
def Obligations.StreamInstructionsArmSignalAndBuffer : Prop := StreamInstructionsTakeEffectOrBuffer ∧ ArmsAndSignalsOfCappedTasks

/-- COPY, BLOCK_TRANSPOSE, SLICE_SEND and WEANTAER_SEND start an armed descriptor of their kind; GUARD_CLEAR clears exactly the W bits
of its destination rows and moves no byte (R170, R171, R172, R184, R247, R282). -/
def Obligations.ArmedDescriptorsStart : Prop :=
  ∀ (s : State) (n i : Nat) (x : SDesc), n < nCores → i < 32 → Store.get none (s.dev.core n).su.desc i = some x →
    x.started = false → x.stopped = false → s.dev.quiesced n = false →
    (∀ y ∈ startTable, sdKind x.img = y.2 → ∃ t, exec (y.1 n i) s = .next t ∧
      OnlyCore s t n ((s.dev.core n).setDesc i (some { x with started := true }))) ∧
    (sdKind x.img = 5 → ∃ t, exec (.guardClear n i) s = .next t ∧ OnlyCoreChanged s t n ∧
      (t.dev.core n).pad = (s.dev.core n).pad ∧ (t.dev.core n).su.req = (s.dev.core n).su.req ∧
      Store.get none (t.dev.core n).su.desc i = some { x with started := true, pos := sdTotal x.img } ∧
      ∀ r, (t.dev.core n).wBit r = ((s.dev.core n).wBit r && !((sdDstRows x.img).any (fun q => (rowsOf q.1.toNat q.2).contains r))))

/-- DESCRIPTOR_REQUEST of a copy between addresses: at most 512 bytes, one tag, from the row's next byte on; REQUEST_LANDS writes exactly
the request's bytes and frees its tag; DESCRIPTOR_COMPLETION lets the shadow move in and signals (R170, R172, R176). -/
def Obligations.TransfersIssueLandAndComplete : Prop :=
  ∀ (s : State) (n i tag : Nat) (x : SDesc) (q : Request) (k a : Nat) (bs : List Byte) (p : Bool), n < nCores → i < 32 →
    Store.get none (s.dev.core n).su.desc i = some x → x.started = true → x.stopped = false → s.dev.quiesced n = false →
    (sdKind x.img = 1 → sdSring x.img = false → sdDring x.img = false → sdSuni x.img = false → sdDuni x.img = false →
      lightPath n x.img = false → x.pos < sdTotal x.img → (s.dev.core n).su.freeTag = some tag →
      (let len := min (sdRun x.img - x.pos % sdRun x.img) (min 512 (sdTotal x.img - x.pos))
       s.dev.srcWaits (false, sdScore x.img, sdSrcAt x.img x.pos, len) = false ∧ sdDcore x.img ≠ n) →
      ∃ t, exec (.descriptorRequest n i) s = .next t ∧ OnlyCoreChanged s t n ∧ (t.dev.core n).pad = (s.dev.core n).pad ∧
        Store.get none (t.dev.core n).su.desc i = some { x with
          pos := x.pos + min (sdRun x.img - x.pos % sdRun x.img) (min 512 (sdTotal x.img - x.pos)), inflight := x.inflight + 1 } ∧
        (t.dev.core n).su.req.length = (s.dev.core n).su.req.length + 1 ∧
        ∃ r, (t.dev.core n).su.req.getLast? = some r ∧ r.tag = tag ∧ r.light = false ∧ r.owner = .desc i ∧
          r.stamp = (s.dev.part (s.dev.partOf n)).beat ∧ r.sched = sdSched x.img ∧
          (r.runs.map (fun z => z.2.1)).flatten =
            ((s.dev.core (sdScore x.img)).padCells (sdSrcAt x.img x.pos)
              (min (sdRun x.img - x.pos % sdRun x.img) (min 512 (sdTotal x.img - x.pos)))).map (·.1)) ∧
    (landable s.dev n tag q k a bs p → s.dev.landBlocked q = true → k ≠ n → (s.dev.core k).su.hold.length < 16 →
      ∃ t, exec (.requestLands n tag) s = .next t ∧ t.dev.mem = s.dev.mem ∧ (∀ m, (t.dev.core m).pad = (s.dev.core m).pad) ∧
        (t.dev.core k).su.hold = (s.dev.core k).su.hold ++ [⟨n, tag⟩]) ∧
    (q.owner = .desc i → landable s.dev n tag q k a bs p → s.dev.landBlocked q = false →
      ∃ t, exec (.requestLands n tag) s = .next t ∧ t.dev.mem = s.dev.mem ∧
        (∀ z, (t.dev.core k).padByte z = if a ≤ z ∧ z < a + bs.length then bs.getD (z - a) 0#8 else (s.dev.core k).padByte z) ∧
        (∀ m, m ≠ k → (t.dev.core m).pad = (s.dev.core m).pad) ∧
        (t.dev.core n).su.req = (s.dev.core n).su.req.filter (fun z => !(z.tag == q.tag && z.light == q.light)) ∧
        (Store.get none (t.dev.core n).su.desc i).map (·.inflight) = some (x.inflight - 1)) ∧
    (x.pos = sdTotal x.img → x.inflight = 0 → (sdCsen x.img = true → s.dev.semTarget n (sdCsem x.img) = (n, sdCsem x.img) ∧
        Store.get 0 (s.dev.core n).su.sem (sdCsem x.img) + sdCscnt x.img ≤ 65535) →
      ∃ t, exec (.descriptorCompletion n i) s = .next t ∧ OnlyCoreChanged s t n ∧
        Store.get none (t.dev.core n).su.desc i = Store.get none (s.dev.core n).su.shadow i ∧
        Store.get none (t.dev.core n).su.shadow i = none ∧
        ∀ z, Store.get 0 (t.dev.core n).su.sem z = Store.get 0 (s.dev.core n).su.sem z +
          (if sdCsen x.img = true ∧ z = sdCsem x.img then sdCscnt x.img else 0))

/-- CREDIT_MESSAGE, SIGNAL_MESSAGE, INBOUND_HOLD_WRITE and BUCKET_REFILL (R166, R168, R181). -/
def Obligations.MessagesArriveAndBucketsRefill : Prop :=
  ∀ (s : State) (n src j : Nat), n < nCores → src < nCores →
    (∀ r m, s.dev.ringOf n j = some r → Store.get 0 (s.dev.core n).su.creditMsg j = m + 1 →
      ∃ t, exec (.creditMessage n j) s = .next t ∧ t.dev.mem = s.dev.mem ∧
        Store.get 0 (t.dev.core n).su.creditMsg j = m ∧
        Store.get 0 (t.dev.core r.pcore).su.credit (n * 32 + j) = Store.get 0 (s.dev.core r.pcore).su.credit (n * 32 + j) - 1) ∧
    (∀ m r, Store.get [] (s.dev.core n).su.signal src = m :: r → Store.get 0 (s.dev.core n).su.sem m.1 + m.2.1 ≤ 65535 →
      ∃ t, exec (.signalMessage n src) s = .next t ∧ OnlyCoreChanged s t n ∧ Store.get [] (t.dev.core n).su.signal src = r ∧
        ∀ k, Store.get 0 (t.dev.core n).su.sem k = Store.get 0 (s.dev.core n).su.sem k + (if k = m.1 then m.2.1 else 0)) ∧
    (∀ h r q k a bs p, (s.dev.core n).su.hold = h :: r → h.src ≠ n →
      (s.dev.core h.src).su.req.find? (fun q => q.held && (if h.tag < 64 then !q.light && q.tag == h.tag else q.light && q.tag == h.tag - 64)) = some q →
      q.runs = [(.pad k a, bs, p)] → k = n → s.dev.landBlocked q = false →
      ∃ t, exec (.inboundHoldWrite n) s = .next t ∧ t.dev.mem = s.dev.mem ∧ (t.dev.core n).su.hold = r ∧
        (∀ z, (t.dev.core n).padByte z = if a ≤ z ∧ z < a + bs.length then bs.getD (z - a) 0#8 else (s.dev.core n).padByte z) ∧
        (t.dev.core h.src).su.req = (s.dev.core h.src).su.req.filter (fun z => !(z.tag == q.tag && z.light == q.light))) ∧
    (∃ t, exec .bucketRefill s = .next t ∧ t.dev.mem = s.dev.mem ∧
      (t.dev.core n).su.bucket.tokens = min ((s.dev.core n).su.bucket.tokens + (s.dev.core n).su.bucket.rate) ((s.dev.core n).su.bucket.depth * 512) ∧
      (t.dev.core n).pad = (s.dev.core n).pad ∧
      ∀ x, x < Config.nSupers → s.dev.tiers.runs = [] → (t.dev.sup x).bucket.tokens = min ((s.dev.sup x).bucket.tokens +
        (if (s.dev.sup x).stage = 0 then (s.dev.sup x).bucket.rate else (s.dev.sup x).cool)) ((s.dev.sup x).bucket.depth * 512))

/-- FORAGER_REQUEST: a chunk whose page is in no map of the window's context marks its rows unfetched and writes no byte (R179); one
that is mapped takes a tag and the tokens of its bytes in its turn, as soon as the comb can take its read (R178, R181, R211). -/
def Obligations.ForagerRequestsFetchOrMark : Prop :=
  ∀ (s : State) (n i : Nat) (w : Window) (r : RingDecl), n < nCores → i < 32 →
    Store.get none (s.dev.core n).su.win i = some w → s.dev.ringOf n (winRingIx w) = some r → w.chunk < winChunks w.img → winVreq w.img = false →
    s.dev.quiesced n = false →
    let c := s.dev.core n
    let x := c.ringSt r.ix
    let k := (if w.chunk = 0 ∧ w.off = 0 then max x.prod x.tail else w.slot) + w.chunk
    let a := winChunk w w.chunk + w.off
    let len := min (r.slotBytes - w.off) (512 - a % 512)
    (w.off = 0 → k < x.head + r.n ∧ c.filled r k = false) →
    (s.dev.mapRead w.ctx (a / pageBytes) = false ∨ (s.dev.tm (a / pageBytes)).nopf = true →
      ∃ t, exec (.foragerRequest n i) s = .next t ∧ OnlyCoreChanged s t n ∧ (t.dev.core n).pad = c.pad ∧
        (t.dev.core n).su.req = c.su.req ∧
        ∀ y, (t.dev.core n).uBit y = (c.uBit y || (rowsOf (32 * r.slotRow k + w.off) len).contains y)) ∧
    (∀ tag, s.dev.mapRead w.ctx (a / pageBytes) = true → (s.dev.tm (a / pageBytes)).nopf = false → c.su.freeTag = some tag →
      len ≤ c.su.bucket.tokens → (∀ v, s.dev.devTokens (s.dev.tm (a / pageBytes)).dev = some v → len ≤ v) →
      s.dev.tokenTurn (s.dev.tm (a / pageBytes)).dev n = true → (s.dev.serveTokens (s.dev.tm (a / pageBytes)).dev n len).streamMay a = true →
      ∃ t, exec (.foragerRequest n i) s = .next t ∧ t.dev.mem = s.dev.mem ∧ (t.dev.core n).pad = c.pad ∧
        (t.dev.core n).su.bucket.tokens = c.su.bucket.tokens - len ∧
        ∃ q, (t.dev.core n).su.req = c.su.req ++ [q] ∧ q.tag = tag ∧ q.owner = .window i ∧
          (q.runs.map (fun z => z.2.1)).flatten = (s.dev.memCells a len).map (·.1))

namespace Sys2Proof.Machine.Claims

/-- The boundary of the beat of partition p has come: the partition runs, every frame has arrived and drained, and no die stage 2 holds the
release (R136, R137, R418). -/
def atBoundary (d : Dev) (p : Nat) : Prop :=
  p < nParts ∧ d.running p = true ∧ d.lateFrames p = [] ∧ d.undrained p = [] ∧ d.brd.dieStage < 2

/-- The barrier of partition p can release with nothing else to do at the boundary: neither a CTXSET nor a pending flip waits for it
(R138). -/
def canRelease (d : Dev) (p : Nat) : Prop :=
  atBoundary d p ∧ (∀ c ∈ d.imgCtxs p, (d.ctx c).nextRun = none) ∧ ∀ r ∈ d.tiers.runs, r.copied = false

/-- The entry at the head of a resident context's due schedule names this action (R198). -/
def duePage (d : Dev) (c act : Nat) (e : List Nat) (rest : List (List Nat)) : Prop :=
  c < nCtxs ∧ (d.part (d.partOfCtx c)).resident = some c ∧ (d.ctx c).due = e :: rest ∧ bits (e.getD 1 0) 31 28 = act

end Sys2Proof.Machine.Claims

/-- BEAT_RELEASE in a partition of one context: the beat counts on, the stamp advances unless the cap hold or the full log stops it, and
then the partition is held; no byte of memory changes. BWAIT counts down and ends, the accounts of the beat are shown, and a flip that
waits for the boundary gives its page the new place (R128, R136, R137, R138, R144, R145, R201, R341, R352). -/
def Sys2Proof.Machine.Claims.BeatReleaseAdvancesOrHolds : Prop :=
  ∀ (s : State) (p stretch cause frame holdc c : Nat), s.dev.imgCtxs p = [c] → (s.dev.part p).resident = some c →
    (canRelease s.dev p → (s.dev.ctx c).run = true →
      (s.dev.mayNotAdvance p c = false →
        ∃ t, exec (.beatRelease p stretch cause frame holdc) s = .next t ∧ SameOutside s t ∧ t.dev.mem = s.dev.mem ∧
          (t.dev.part p).beat = ((s.dev.part p).beat + 1) % 2 ^ 48 ∧ (t.dev.part p).hold = false ∧ (t.dev.part p).quiesce = false ∧
          (t.dev.ctx c).stamp = nextStamp (s.dev.phases p) (s.dev.ctx c).stamp ∧ (t.dev.ctx c).hold = false ∧
          (t.dev.part p).strc = (s.dev.part p).strc + BitVec.ofNat 32 stretch ∧
          (t.dev.part p).strn = (if stretch = 0 then (s.dev.part p).strn else (s.dev.part p).strn + 1) ∧
          (t.dev.part p).holdc = (s.dev.part p).holdc + BitVec.ofNat 32 holdc ∧
          (t.dev.ctx c).acct.rbeat = (s.dev.ctx c).acct.rbeat + 1 ∧
          (t.dev.ctx c).acct.cbeat = (s.dev.ctx c).acct.cbeat + s.dev.partSize ∧ (t.dev.ctx c).shown = (t.dev.ctx c).acct ∧
          (∀ n u k, n ∈ s.dev.partCores p → (s.dev.core n).tasks = [u] → u.bwait = some (k + 1) →
            (t.dev.core n).tasks = [{ u with bwait := some k }]) ∧
          (∀ n u, n ∈ s.dev.partCores p → (s.dev.core n).tasks = [u] → u.bwait = some 0 →
            (t.dev.core n).tasks = [{ u with bwait := none, pc := u.pc + 4 }]) ∧
          ∀ n, n ∈ s.dev.partCores p → (t.dev.core n).pad = (s.dev.core n).pad ∧ (t.dev.core n).su.ring = (s.dev.core n).su.ring ∧
            (t.dev.core n).su.sem = (s.dev.core n).su.sem ∧ (t.dev.core n).su.desc = (s.dev.core n).su.desc ∧
            (t.dev.core n).vx.v = (s.dev.core n).vx.v) ∧
      (s.dev.mayNotAdvance p c = true →
        ∃ t, exec (.beatRelease p stretch cause frame holdc) s = .next t ∧ SameOutside s t ∧ t.dev.mem = s.dev.mem ∧
          t.dev.cores = s.dev.cores ∧
          (t.dev.part p).beat = (s.dev.part p).beat ∧ (t.dev.part p).hold = true ∧ (t.dev.ctx c).stamp = (s.dev.ctx c).stamp ∧
          (t.dev.ctx c).hold = true ∧ (t.dev.part p).holdc = (s.dev.part p).holdc + BitVec.ofNat 32 holdc)) ∧
    (∀ r, atBoundary s.dev p → s.dev.tiers.runs.filter (fun r => r.copied && s.dev.addrPart (r.page * pageBytes) == p) = [r] →
      ∃ t, exec (.beatRelease p stretch cause frame holdc) s = .next t ∧ SameOutside s t ∧ t.dev.mem = s.dev.mem ∧
        t.dev.tm r.page = { s.dev.tm r.page with dev := r.dev, ppn := r.ppn, mst := 0, rtd := r.retire } ∧
        ∀ k, k ≠ r.page → t.dev.tm k = s.dev.tm k)

/-- A context may be ahead of the newest capped step by at most two: the stamp that would enter step s + 2 before cap(s) does not
(R145; while no step number has wrapped). -/
def Sys2Proof.Machine.Claims.StampsStayWithinTwoOfTheCap : Prop :=
  ∀ (s t : State) (p stretch cause frame holdc c : Nat), canRelease s.dev p → s.dev.imgCtxs p = [c] →
    (s.dev.part p).resident = some c → (s.dev.part p).capped + 2 < 2 ^ 32 →
    (s.dev.ctx c).stamp.step ≤ (s.dev.part p).capped + 2 →
    exec (.beatRelease p stretch cause frame holdc) s = .next t →
    (t.dev.ctx c).stamp.step ≤ (t.dev.part p).capped + 2

/-- BEAT_RELEASE, and that a stamp stays within two steps of the newest capped one. -/
def Obligations.BeatReleaseAdvancesHoldsAndStaysNearTheCap : Prop := BeatReleaseAdvancesOrHolds ∧ StampsStayWithinTwoOfTheCap

/-- DEADLOCK, BARRIER_TIMEOUT, FRAME_WAKE and HOLD_CLOCK_GATE (R139, R183, R412, R413). -/
def Obligations.BarrierFaultsAndFrameStates : Prop :=
  ∀ (s : State) (p c n f : Nat), p < nParts → f < nFrames →
    (∀ u r, s.dev.running p = true → (s.dev.part p).resident = some c →
      (∀ m ∈ s.dev.partCores p, 256 ≤ (s.dev.core m).su.blkn) →
      (s.dev.partCores p).find? (fun n => !(s.dev.waiters n).isEmpty) = some n → s.dev.waiters n = u :: r →
      ∃ t, exec (.deadlock p c) s = .next t ∧ t.dev.mem = s.dev.mem ∧ (t.dev.core n).tasks = [] ∧
        (t.dev.part (s.dev.partOf n)).resetDue = true ∧
        ((s.dev.core n).frec = none → (t.dev.core n).frec.map (fun f => (f.code, f.tid, f.pc)) = some (0x0406, u.tid, u.pc))) ∧
    (s.dev.running p = true → s.dev.lateFrames p ≠ [] →
      ∃ t, exec (.barrierTimeout p) s = .next t ∧ t.dev.mem = s.dev.mem ∧ (t.dev.part p).resetDue = true) ∧
    ((s.dev.frame f).pstate = 2 → ∃ t, exec (.frameWake f) s = .next t ∧ t.dev.cores = s.dev.cores ∧ t.dev.mem = s.dev.mem ∧
      (t.dev.frame f).pstate = 0 ∧ (∀ g, g ≠ f → t.dev.frame g = s.dev.frame g) ∧ t.dev.brd.uwake = s.dev.brd.uwake + 1#32) ∧
    ((s.dev.part p).image.isSome = true → (s.dev.part p).hold = true →
      ∃ t, exec (.holdClockGate p) s = .next t ∧ t.dev.cores = s.dev.cores ∧ t.dev.mem = s.dev.mem ∧
        (∀ g, g ∈ s.dev.partFrames p → (s.dev.frame g).pstate = 0 → (t.dev.frame g).pstate = 1) ∧
        ∀ g, g ∉ s.dev.partFrames p → t.dev.frame g = s.dev.frame g)

/-- PROMOTE and DEMOTE of one page: pinned or unpinned in the context's ledger and the tier map, and the move queued, unless the page
lies there already or another context still pins it; a page that the ledger holds keeps its pins, and one that finds the ledger full is
neither pinned nor moved and counts in PRNOV (R194, R196, R202, R204, R205); COMBW has every line of its pages served by the comb
or asked for, as far as miss registers are free, and else waits with the rest (R196, R211); OPENW opens its window; the entry is done
(R177, R196, R198). -/
def Obligations.ScheduleEntriesAct : Prop :=
  ∀ (s : State) (c page : Nat) (e : List Nat) (rest : List (List Nat)), entPage e = page →
    (duePage s.dev c 1 e rest → entCount e = 1 → (s.dev.ctx c).pins.contains page = false → (s.dev.ctx c).pins.length < 4096 →
      s.dev.moveSpace = true → (s.dev.tm page).valid = true →
      ∃ t, exec (.promote c) s = .next t ∧ t.dev.mem = s.dev.mem ∧ t.dev.cores = s.dev.cores ∧ (t.dev.ctx c).due = rest ∧
        (t.dev.ctx c).pins = (s.dev.ctx c).pins ++ [page] ∧ (t.dev.tm page) = { s.dev.tm page with pin := (s.dev.tm page).pin + 1 } ∧
        (∀ k, k ≠ page → t.dev.tm k = s.dev.tm k) ∧
        ((s.dev.tm page).hint ≠ 3 → (s.dev.tm page).hint ≠ 4 →
          ((s.dev.tm page).dev ≠ bits (e.getD 1 0) 9 8 ∨ (s.dev.tm page).mst ≠ 0) →
          t.dev.tiers.queue = s.dev.tiers.queue ++ [{ page := page, dev := bits (e.getD 1 0) 9 8, ctx := some c }]) ∧
        ((s.dev.tm page).dev = bits (e.getD 1 0) 9 8 → (s.dev.tm page).mst = 0 → t.dev.tiers.queue = s.dev.tiers.queue)) ∧
    (duePage s.dev c 1 e rest → entCount e = 1 → s.dev.moveSpace = true →
      (s.dev.ctx c).pins.contains page = true ∨ 4096 ≤ (s.dev.ctx c).pins.length →
      ∃ t, exec (.promote c) s = .next t ∧ t.dev.mem = s.dev.mem ∧ t.dev.cores = s.dev.cores ∧ (t.dev.ctx c).due = rest ∧
        (t.dev.ctx c).pins = (s.dev.ctx c).pins ∧ (∀ k, t.dev.tm k = s.dev.tm k) ∧
        ((s.dev.ctx c).pins.contains page = false → t.dev.tiers.queue = s.dev.tiers.queue ∧
          Store.get 0#32 t.dev.tiers.cnt 18 = Store.get 0#32 s.dev.tiers.cnt 18 + 1#32)) ∧
    (duePage s.dev c 2 e rest → entCount e = 1 → (s.dev.ctx c).pins.contains page = true → s.dev.moveSpace = true →
      (s.dev.tm page).valid = true → (s.dev.tm page).hint ≠ 3 → (s.dev.tm page).hint ≠ 4 → (s.dev.tm page).pin ≠ 0 →
      ∃ t, exec (.demote c) s = .next t ∧ t.dev.mem = s.dev.mem ∧ t.dev.cores = s.dev.cores ∧ (t.dev.ctx c).due = rest ∧
        (t.dev.ctx c).pins = (s.dev.ctx c).pins.erase page ∧ (t.dev.tm page) = { s.dev.tm page with pin := (s.dev.tm page).pin - 1 } ∧
        (∀ k, k ≠ page → t.dev.tm k = s.dev.tm k) ∧
        ((s.dev.tm page).pin = 1 →
          t.dev.tiers.queue = s.dev.tiers.queue ++ [{ page := page, dev := 4, ctx := some c }]) ∧
        ((s.dev.tm page).pin ≠ 1 → t.dev.tiers.queue = s.dev.tiers.queue ∧
          Store.get 0#32 t.dev.tiers.cnt 19 = Store.get 0#32 s.dev.tiers.cnt 19 + 1#32)) ∧
    (duePage s.dev c 4 e rest →
      let all := 1024 * entCount e
      let served (d : Dev) (line : Nat) : Prop :=
        d.combHit line = true ∨ d.tiers.fills.contains ((d.combPlace line).1, line) = true
      ∃ t k, exec (.combw c) s = .next t ∧ t.dev.mem = s.dev.mem ∧ t.dev.cores = s.dev.cores ∧ k ≤ all ∧
        (t.dev.ctx c).due = (if k = all then rest else (e.take 4 ++ [k]) :: rest) ∧
        (∀ j, e.getD 4 0 ≤ j → j < k → served t.dev (1024 * page + j)) ∧
        ((∀ j, e.getD 4 0 ≤ j → j < all → s.dev.combHit (1024 * page + j) = true) → k = all)) ∧
    (duePage s.dev c 3 e rest →
      let n := bits (e.getD 1 0) 23 15
      let img := (List.range 8).map (fun w => wordAt (s.dev.imgSec (s.dev.partOfCtx c) 0x08 c 0) (32 * page + 4 * w))
      s.dev.ctxOf n = c → winReserved img = false → winChunks img ≠ 0 → winVreq img = false →
      (∃ r, (s.dev.ringOf n (winRing img)) = some r ∧ r.pcls = 3 ∧
        s.dev.uniOutside (s.dev.partOf n) [((winExtent img r.slotBytes).1, ((winExtent img r.slotBytes).2 - (winExtent img r.slotBytes).1).toNat)] = none) →
      (s.dev.core n).su.win = [] →
      ∃ t, exec (.openw c) s = .next t ∧ t.dev.mem = s.dev.mem ∧ (t.dev.ctx c).due = rest ∧
        (Store.get none (t.dev.core n).su.win (bits (e.getD 1 0) 14 10)).map (fun x => (x.img, x.base, x.owner)) =
          some (img, winBase img, none) ∧ ∀ m, m ≠ n → t.dev.core m = s.dev.core m)

/-- MIGRATION_START, MIGRATION_COPIED and the flip: a move starts on a free channel with a free page, MST goes 1, then 2, then 0 with the
new place; no byte of the unified range changes at any of these, and a move that a hot super meters lands only when its bucket has
granted every byte (R199 to R202). -/
def Obligations.MigrationMovesThePageAndKeepsItsBytes : Prop :=
  ∀ (s : State) (m : Move) (ch ppn : Nat) (r : MoveRun) (d' : Dev),
    (s.dev.nextMove = some m → s.dev.freeChannel = some ch → (s.dev.tm m.page).valid = true → (s.dev.tm m.page).dev ≠ m.dev →
      (s.dev.tm m.page).pin = 0 → s.dev.freePage (s.dev.addrPart (m.page * pageBytes)) m.dev = (some ppn, d') →
      ∃ t, exec .migrationStart s = .next t ∧ t.dev.mem = s.dev.mem ∧ t.dev.cores = s.dev.cores ∧
        t.dev.tm m.page = { s.dev.tm m.page with mst := 1 } ∧ (∀ k, k ≠ m.page → t.dev.tm k = s.dev.tm k) ∧
        t.dev.tiers.queue = s.dev.tiers.queue.erase m ∧ (m.dev, ppn) ∈ t.dev.tiers.used ∧
        ∃ q, t.dev.tiers.runs = s.dev.tiers.runs ++ [q] ∧ q.ch = ch ∧ q.page = m.page ∧ q.dev = m.dev ∧ q.ppn = ppn ∧ q.copied = false) ∧
    (ch < 8 → s.dev.tiers.runs.find? (fun r => r.ch == ch && !r.copied) = some r →
      ((s.dev.hot r.dev = false ∧ s.dev.hot (s.dev.tm r.page).dev = false) ∨ r.left = some 0 →
        ∃ t, exec (.migrationCopied ch) s = .next t ∧ t.dev.mem = s.dev.mem ∧ t.dev.cores = s.dev.cores ∧
          t.dev.tm r.page = { s.dev.tm r.page with mst := 2 } ∧ (∀ k, k ≠ r.page → t.dev.tm k = s.dev.tm k) ∧
          ∀ q ∈ t.dev.tiers.runs, q.ch = ch → q.copied = true) ∧
      ((s.dev.hot r.dev = true ∨ s.dev.hot (s.dev.tm r.page).dev = true) → r.left ≠ some 0 →
        exec (.migrationCopied ch) s = .next s)) ∧
    ((s.dev.flip r).mem = s.dev.mem ∧ (s.dev.flip r).cores = s.dev.cores ∧ (s.dev.flip r).tm r.page =
      { s.dev.tm r.page with dev := r.dev, ppn := r.ppn, mst := 0, rtd := r.retire } ∧
      (∀ k, k ≠ r.page → (s.dev.flip r).tm k = s.dev.tm k) ∧
      (s.dev.flip r).tiers.runs = s.dev.tiers.runs.filter (fun q => q.ch != r.ch))

/-- COMB_FILL and COMB_ATOMIC: the line enters the comb and its register frees; an atomic at the head of its slice's order whose line the
comb serves replaces exactly its 8 bytes by the function's value and hands the old value to xd, one whose line misses takes a miss
register and waits (R211, R212, Table 8-9). -/
def Obligations.CombFillsAndAtomics : Prop :=
  ∀ (s : State) (n sl line : Nat) (a : Atomic) (u : TaskRun) (more : List Nat),
    (sl < 16 → s.dev.tiers.fills.contains (sl, line) = true →
      ∃ t, exec (.combFill sl line) s = .next t ∧ t.dev.mem = s.dev.mem ∧ t.dev.cores = s.dev.cores ∧
        t.dev.tiers.fills = s.dev.tiers.fills.erase (sl, line) ∧ t.dev.combHas line = true) ∧
    (n < nCores → (s.dev.core n).atom = some a → s.dev.tiers.atomics = n :: more → (s.dev.core n).tasks = [u] → u.uid = a.task →
      (s.dev.combHit (a.addr / 512) = true → s.dev.memPoisoned a.addr 8 = false → noWindows s.dev = true →
        ∃ t, exec (.combAtomic n) s = .next t ∧ SameOutside s t ∧ (t.dev.core n).atom = none ∧
          (t.dev.core n).tasks = [{ u with pc := u.pc + 4, x := (if a.xd = 0 then u.x else Store.set 0#64 u.x a.xd (BitVec.ofNat 64 (leNat (s.dev.memRead a.addr 8)))) }] ∧
          t.dev.tiers.atomics = more.filter (· != n) ∧ (∀ m, m ≠ n → t.dev.core m = s.dev.core m) ∧
          (t.dev.core n).pad = (s.dev.core n).pad ∧
          ∀ z, t.dev.memByte z = if a.addr ≤ z ∧ z < a.addr + 8
            then (toLe 8 (atomicNew a.fn (BitVec.ofNat 64 (leNat (s.dev.memRead a.addr 8))) a.operand).toNat).getD (z - a.addr) 0#8
            else s.dev.memByte z) ∧
      (s.dev.combHit (a.addr / 512) = false →
        (s.dev.tiers.fills.filter (fun f => f.1 == (s.dev.combPlace (a.addr / 512)).1)).length < 256 →
        s.dev.hot (s.dev.tm (512 * (a.addr / 512) / pageBytes)).dev = false →
        ∃ t, exec (.combAtomic n) s = .next t ∧ SameOutside s t ∧ t.dev.mem = s.dev.mem ∧ t.dev.cores = s.dev.cores ∧
          t.dev.tiers.atomics = s.dev.tiers.atomics ∧
          t.dev.tiers.fills.contains ((s.dev.combPlace (a.addr / 512)).1, a.addr / 512) = true))

/-- PATROL_SCRUB, ROW_REPAIR, PAGE_RETIREMENT, TIER_MAP_ENTRY_ERROR and TMLO_READ: what each leaves in the counters, the poison marks and
what is non-volatile, and that no byte of memory changes (R160, R213 to R219, Table 8-13). The operands of PATROL_SCRUB are the model's
(notes/assumptions/151). -/
def Obligations.ErrorsAreCountedRepairedAndRetired : Prop :=
  ∀ (s : State) (x g n k bank row ppn page : Nat) (e : Nat × TmEntry) (r : Nat × Nat × Nat),
    (x < Config.nSupers ∨ x = 4 →
      (∃ t, exec (.patrolScrub ⟨x, 0⟩ g true false) s = .next t ∧ SameOutside s t ∧ t.dev.mem = s.dev.mem ∧ t.dev.memPoison = s.dev.memPoison ∧
        Store.get 0#32 t.dev.tiers.devCnt (16 * x + 3) = Store.get 0#32 s.dev.tiers.devCnt (16 * x + 3) + 1#32) ∧
      (s.dev.pageAt x (g / 8192) = some e → Store.get false s.dev.memPoison (e.1 * pageWords + g % 8192 * 8) = false →
        ∃ t, exec (.patrolScrub ⟨x, 0⟩ g false true) s = .next t ∧ SameOutside s t ∧ t.dev.mem = s.dev.mem ∧
          (∀ w, w < 8 → Store.get false t.dev.memPoison (e.1 * pageWords + g % 8192 * 8 + w) = true) ∧
          Store.get 0#32 t.dev.tiers.devCnt (16 * x + 4) = Store.get 0#32 s.dev.tiers.devCnt (16 * x + 4) + 1#32) ∧
      (s.dev.pageAt x (g / 8192) = some e → Store.get false s.dev.memPoison (e.1 * pageWords + g % 8192 * 8) = true → g ≠ 0 →
        exec (.patrolScrub ⟨x, 0⟩ g false true) s = .next s)) ∧
    (n < nCores → Store.get false (s.dev.core n).padPoison g = false →
      ∃ t, exec (.patrolScrub ⟨6, n⟩ g false true) s = .next t ∧ SameOutside s t ∧ t.dev.mem = s.dev.mem ∧
        (t.dev.core n).padPoison = Store.set false (s.dev.core n).padPoison g true ∧ ∀ m, m ≠ n → t.dev.core m = s.dev.core m) ∧
    (s.dev.wordBad k = false → s.dev.combHit (k / 64) = true →
      ∃ t, exec (.patrolScrub ⟨5, k⟩ g false true) s = .next t ∧ SameOutside s t ∧ t.dev.mem = s.dev.mem ∧ t.dev.cores = s.dev.cores ∧
        t.dev.wordBad k = true) ∧
    (Store.get false s.dev.tiers.schedBad g = false →
      ∃ t, exec (.patrolScrub ⟨8, 0⟩ g false true) s = .next t ∧ SameOutside s t ∧ t.dev.mem = s.dev.mem ∧ t.dev.cores = s.dev.cores ∧
        Store.get false t.dev.tiers.schedBad g = true) ∧
    (x < Config.nSupers → (s.dev.sup x).accBad.contains (k, g) = false →
      ∃ t, exec (.patrolScrub ⟨9 + x, k⟩ g false true) s = .next t ∧ SameOutside s t ∧ t.dev.mem = s.dev.mem ∧ t.dev.cores = s.dev.cores ∧
        (t.dev.sup x).accBad = (k, g) :: (s.dev.sup x).accBad ∧ (t.dev.sup x).slots = (s.dev.sup x).slots) ∧
    (x < Config.nSupers → s.dev.tiers.rowBad.find? (fun q => q.1 == x && q.2.1 == bank * 2 ^ 32 + row) = some r →
      sparesLeft s.nv.remaps x bank ≠ 0 →
      ∃ t, exec (.rowRepair x bank row) s = .next t ∧ t.dev.mem = s.dev.mem ∧ t.pending = s.pending ∧
        t.nv = { s.nv with remaps := s.nv.remaps ++ [(x, bank, row)] } ∧ t.dev.tiers.rowBad = s.dev.tiers.rowBad.erase r) ∧
    (x < Config.nSupers →
      s.dev.tiers.rowBad.find? (fun q => q.1 == x && q.2.2 == ppn && sparesLeft s.nv.remaps x (q.2.1 / 2 ^ 32) == 0) = some r →
      s.nv.retired.contains (x, ppn) = false →
      (s.dev.pageAt x ppn = none → s.dev.tiers.used.contains (x, ppn) = false →
        ∃ t, exec (.pageRetirement x ppn) s = .next t ∧ t.dev.mem = s.dev.mem ∧ t.pending = s.pending ∧
          t.nv = { s.nv with retired := s.nv.retired ++ [(x, ppn)] } ∧ (x, ppn) ∈ t.dev.tiers.retired) ∧
      (s.dev.pageAt x ppn = none → s.dev.tiers.used.contains (x, ppn) = true →
        ∃ t, exec (.pageRetirement x ppn) s = .next t ∧ t.dev.mem = s.dev.mem ∧ t.pending = s.pending ∧
          t.nv = { s.nv with retired := s.nv.retired ++ [(x, ppn)] } ∧ (x, ppn) ∈ t.dev.tiers.retireDue) ∧
      (s.dev.pageAt x ppn = some e → e.2.mst = 0 → (s.dev.tiers.queue.any (fun m => m.retire && m.page == e.1)) = false →
        s.dev.freeCount (s.dev.addrPart (e.1 * pageBytes)) 4 ≠ 0 → (s.dev.tm e.1).valid = true →
        ∃ t, exec (.pageRetirement x ppn) s = .next t ∧ t.dev.mem = s.dev.mem ∧ t.pending = s.pending ∧
          t.nv = { s.nv with retired := s.nv.retired ++ [(x, ppn)] } ∧ (x, ppn) ∈ t.dev.tiers.retireDue ∧
          t.dev.tiers.queue = { page := e.1, dev := 4, retire := true } :: s.dev.tiers.queue)) ∧
    (page < 2 ^ 22 → (s.dev.tm page).valid = true → ∃ t, exec (.tierMapEntryError page) s = .next t ∧ SameOutside s t ∧
      t.dev.mem = s.dev.mem ∧ (t.dev.part (s.dev.tm page).part).resetDue = true ∧ (t.dev.part (s.dev.tm page).part).unloadDue = true) ∧
    (∃ t, exec .tmloRead s = .next t ∧ t.dev.tiers.map = s.dev.tiers.map ∧ t.dev.mem = s.dev.mem ∧
      t.dev.tiers.tmhi = BitVec.ofNat 32 ((s.dev.tm s.dev.tiers.tmsel).word / 2 ^ 32))

/-- MICRO_BATCH_PREPARATION takes a full set of samples into the next region and writes its record with the micro-batch's number and
READY 0, READY_WRITE sets READY in a later beat, RELS_WRITE of the record's own number frees the region, with VALID 0 in its slots and
READY 0, and any other value is context fault 0x0602 (R227 to R229, Table 9-4). -/
def Obligations.MicroBatchesArePreparedAndReleased : Prop :=
  ∀ (s : State) (c r : Nat) (mb : MicroBatch), c < nCtxs →
    let tab := s.dev.blockTab c
    ((tab).isEmpty = false → (s.dev.part (s.dev.partOfCtx c)).started = true →
      bkSpm tab ≤ (s.dev.ctx c).feed.length → Store.get none (s.dev.ctx c).mbs ((s.dev.ctx c).nextMb % bkMbd tab) = none →
      let a := mbAddr tab ((s.dev.ctx c).nextMb % bkMbd tab)
      ∃ t, exec (.microBatchPreparation c) s = .next t ∧ SameOutside s t ∧
        (t.dev.ctx c).feed = (s.dev.ctx c).feed.drop (bkSpm tab) ∧ (t.dev.ctx c).nextMb = (s.dev.ctx c).nextMb + 1 ∧
        (Store.get none (t.dev.ctx c).mbs ((s.dev.ctx c).nextMb % bkMbd tab)).map (fun m => (m.mbn, m.ready)) =
          some ((s.dev.ctx c).nextMb, false) ∧
        leNat (t.dev.memRead a 4) = (s.dev.ctx c).nextMb % 2 ^ 32 ∧ leNat (t.dev.memRead (a + 12) 4) / 2 ^ 31 = 0) ∧
    (Store.get none (s.dev.ctx c).mbs r = some mb → mb.ready = false → mb.prepBeat < (s.dev.part (s.dev.partOfCtx c)).beat →
      ∃ t, exec (.readyWrite c r) s = .next t ∧ SameOutside s t ∧
        Store.get none (t.dev.ctx c).mbs r = some { mb with ready := true } ∧ (t.dev.part (s.dev.partOfCtx c)).mblast = mb.mbn ∧
        (∀ z, z < mbAddr tab r + 12 ∨ mbAddr tab r + 16 ≤ z → t.dev.memByte z = s.dev.memByte z) ∧
        leNat (t.dev.memRead (mbAddr tab r + 12) 4) = 2 ^ 31 + leNat (s.dev.memRead (mbAddr tab r + 12) 4) % 2 ^ 31) ∧
    (tab.isEmpty = false → r < bkMbd tab →
      (leNat (s.dev.memRead (mbAddr tab r + 16) 4) = leNat (s.dev.memRead (mbAddr tab r) 4) →
        ∃ t, exec (.relsWrite c r) s = .next t ∧ SameOutside s t ∧ Store.get none (t.dev.ctx c).mbs r = none ∧
          leNat (t.dev.memRead (mbAddr tab r + 12) 4) = leNat (s.dev.memRead (mbAddr tab r + 12) 4) % 2 ^ 31 ∧
          ∀ i, i < bkSpm tab →
            leNat (t.dev.memRead (bkCbase tab + 64 * (s.dev.slotBase c + r * bkSpm tab + i) + 8) 4) / 2 ^ 31 = 0) ∧
      (leNat (s.dev.memRead (mbAddr tab r + 16) 4) ≠ leNat (s.dev.memRead (mbAddr tab r) 4) →
        ∃ t, exec (.relsWrite c r) s = .next t ∧ SameOutside s t ∧ t.dev.mem = s.dev.mem ∧ t.dev.cores = s.dev.cores ∧
          (t.dev.part (s.dev.partOfCtx c)).resetDue = true ∧ (t.dev.ctx c).mbs = (s.dev.ctx c).mbs))

/-- CONTRIBUTION_ARRIVAL and PARKED_CONTRIBUTION_RETRY: an admissible contribution is added to its slot, one of a later step is parked, one
of another epoch is dropped and counted; MEMORY_SIDE_ADD adds element by element and changes only its bytes (R249, R250, R251). -/
def Obligations.ContributionsAreAddedParkedOrDropped : Prop :=
  ∀ (s : State) (x k : Nat) (q : Contrib) (rest : List Contrib), x < Config.nSupers →
    ((s.dev.sup x).arrivals = q :: rest → q.chan = none → q.desc = none →
      (s.dev.checks x q = .drop → ∃ t, exec (.contributionArrival x) s = .next t ∧ t.dev.mem = s.dev.mem ∧
        (t.dev.sup x).arrivals = rest ∧ (t.dev.sup x).slots = (s.dev.sup x).slots ∧ (t.dev.sup x).parkq = (s.dev.sup x).parkq ∧
        Store.get 0#32 (t.dev.sup x).cnt 4 = Store.get 0#32 (s.dev.sup x).cnt 4 + 1#32) ∧
      (s.dev.checks x q = .park → (s.dev.sup x).parkq.length < parkDepth →
        ∃ t, exec (.contributionArrival x) s = .next t ∧ t.dev.mem = s.dev.mem ∧ (t.dev.sup x).arrivals = rest ∧
          (t.dev.sup x).parkq = (s.dev.sup x).parkq ++ [q]) ∧
      (s.dev.checks x q = .add →
        (∀ sl, (s.dev.sup x).slot (slSlot (s.dev.sliceTab q.ctx) q.lidx) = some sl → sl.count + 1 < slEcnt (s.dev.sliceTab q.ctx) q.lidx) →
        ((s.dev.sup x).slot (slSlot (s.dev.sliceTab q.ctx) q.lidx) = none → 1 < slEcnt (s.dev.sliceTab q.ctx) q.lidx) →
        ∃ t, exec (.contributionArrival x) s = .next t ∧ t.dev.mem = s.dev.mem ∧ (t.dev.sup x).arrivals = rest ∧
          ∃ sl, (t.dev.sup x).slot (slSlot (s.dev.sliceTab q.ctx) q.lidx) = some sl ∧
            sl.count = (match (s.dev.sup x).slot (slSlot (s.dev.sliceTab q.ctx) q.lidx) with | some o => o.count + 1 | none => 1) ∧
            ∀ y, y < 4096 →
              let old := match (s.dev.sup x).slot (slSlot (s.dev.sliceTab q.ctx) q.lidx) with
                | some o => Store.get 0 o.sum y
                | none => 0
              let v := old + wireElt (slG32 (s.dev.sliceTab q.ctx) q.lidx) q.data y
              v.natAbs < int64Bound → Store.get 0 sl.sum y = v) ∧
      (s.dev.checks x q = .fault 0x0702 true → ∃ t, exec (.contributionArrival x) s = .next t ∧ t.dev.mem = s.dev.mem ∧
        (t.dev.part q.part).resetDue = true)) ∧
    ((s.dev.sup x).parkq[k]? = some q → s.dev.lateChecks x q = .add →
        (s.dev.sup x).slot (slSlot (s.dev.sliceTab q.ctx) q.lidx) = none → 1 < slEcnt (s.dev.sliceTab q.ctx) q.lidx →
      ∃ t, exec (.parkedContributionRetry x k) s = .next t ∧ t.dev.mem = s.dev.mem ∧
        (t.dev.sup x).parkq = (s.dev.sup x).parkq.eraseIdx k ∧
        ((t.dev.sup x).slot (slSlot (s.dev.sliceTab q.ctx) q.lidx)).map (·.count) = some 1) ∧
    (∀ a r rq, (s.dev.sup x).adds = a :: r → (s.dev.core a.core).su.req.find? (fun q => !q.light && q.tag == a.tag) = some rq →
      ∃ t, exec (.memorySideAdd x) s = .next t ∧ SameOutside s t ∧ (t.dev.sup x).adds = r ∧
        (∀ z, z < a.addr ∨ a.addr + a.data.length ≤ z → t.dev.memByte z = s.dev.memByte z) ∧
        ∀ y, let w := aopBytes a.aop
          (y + 1) * w ≤ a.data.length →
          t.dev.memRead (a.addr + y * w) w =
            toLe w (addElt a.aop (leNat (s.dev.memRead (a.addr + y * w) w)) (leNat (((a.data.drop (y * w)).take w).map (·.1)))))

/-- FUSED_UPDATE of a queued slot whose step may be written frees the slot and writes the slice's next version from its sums and peak,
with VN and OLDV in its status record; one whose previous step is not capped waits with every byte of memory unchanged, and so does one
whose buffer is pinned or whose pages are on their way back; a slot with a poisoned word is context fault 0x0704 (R218, R251, R256,
R262, R263, R265). -/
def Sys2Proof.Machine.Claims.UpdatesWriteTheNextVersionOrWait : Prop :=
  ∀ (s : State) (x i k : Nat) (sl : Slot), x < Config.nSupers → (s.dev.sup x).stage < 2 →
    (s.dev.sup x).queue.findSome? (fun k => match (s.dev.sup x).slot k with
      | some sl => if sl.lidx = i then some (k, sl) else none
      | none => none) = some (k, sl) →
    (s.dev.mayWrite sl.part sl.ctx i sl.step = true → s.dev.movingBack sl.ctx i = false →
      ((s.dev.sup x).slotBad k = false →
        ∃ t, exec (.fusedUpdate x i) s = .next t ∧ SameOutside s t ∧
          t.dev = (s.dev.freeSlot x k).applyUpdate x sl.part sl.ctx i sl.step (Store.get 0 sl.sum) sl.peak false none ∧
          (t.dev.sup x).slot k = none ∧ t.dev.slVn (s.dev.sliceTab sl.ctx) i = sl.step % 2 ^ 32 ∧
          t.dev.slOldv (s.dev.sliceTab sl.ctx) i = true) ∧
      ((s.dev.sup x).slotBad k = true →
        ∃ t, exec (.fusedUpdate x i) s = .next t ∧ SameOutside s t ∧ t.dev.mem = s.dev.mem ∧ (t.dev.part sl.part).resetDue = true)) ∧
    (s.dev.mayWrite sl.part sl.ctx i sl.step = false ∨ s.dev.movingBack sl.ctx i = true →
      ∃ t, exec (.fusedUpdate x i) s = .next t ∧ SameOutside s t ∧ t.dev.mem = s.dev.mem ∧ t.dev.parts = s.dev.parts ∧
        (t.dev.sup x).slots = (s.dev.sup x).slots ∧ (t.dev.sup x).queue = (s.dev.sup x).queue) ∧
    ((s.dev.part sl.part).capped < sl.step - 1 → sl.step < 2 ^ 32 → s.dev.mayWrite sl.part sl.ctx i sl.step = false)

/-- NORM_PARTIAL_ARRIVAL and NORM_FACTOR_ARRIVAL: a rank's partial joins the total once, the last one fixes and sends the factor, a total
of 2^63 overflows the step, a factor is kept for its group and step, and no byte of memory changes (R258). -/
def Sys2Proof.Machine.Claims.GlobalNormPartialsAndFactorsAreKept : Prop :=
  ∀ (s : State) (p g rank step : Nat) (v : Int) (cf : Word32) (tab : List Byte), p < nParts →
    (s.dev.normTable p g = some tab → grpNork tab g = (s.dev.part p).rank →
      Store.get none (s.dev.part p).normCf (normKey g step) = none →
      let ranks := Store.get [] (s.dev.part p).normRanks (normKey g step)
      let old := Store.get 0 (s.dev.part p).normTotal (normKey g step)
      (ranks.contains rank = false → (old + v).natAbs < int64Bound →
        ∃ t, exec (.normPartialArrival p g rank step v) s = .next t ∧ SameOutside s t ∧ t.dev.mem = s.dev.mem ∧ t.dev.cores = s.dev.cores ∧
          Store.get 0 (t.dev.part p).normTotal (normKey g step) = old + v ∧
          Store.get [] (t.dev.part p).normRanks (normKey g step) = ranks ++ [rank] ∧
          (ranks.length + 1 < grpNmod tab g → Store.get none (t.dev.part p).normCf (normKey g step) = none) ∧
          (grpNmod tab g ≤ ranks.length + 1 → ∃ f, Store.get none (t.dev.part p).normCf (normKey g step) = some f ∧
            t.dev.tx = s.dev.tx ++ [.factor p g step f (s.dev.partStamp p).step (s.dev.partStamp p).phase])) ∧
      (ranks.contains rank = false → old.natAbs < int64Bound → int64Bound ≤ (old + v).natAbs →
        ∃ t, exec (.normPartialArrival p g rank step v) s = .next t ∧ SameOutside s t ∧ t.dev.mem = s.dev.mem ∧
          (t.dev.part p).ovfSteps.contains step = true) ∧
      (ranks.contains rank = true → exec (.normPartialArrival p g rank step v) s = .next s)) ∧
    (∃ t, exec (.normFactorArrival p g step cf) s = .next t ∧ SameOutside s t ∧ t.dev.mem = s.dev.mem ∧ t.dev.cores = s.dev.cores ∧
      Store.get none (t.dev.part p).normCf (normKey g step) = some cf ∧
      ∀ k, k ≠ normKey g step → Store.get none (t.dev.part p).normCf k = Store.get none (s.dev.part p).normCf k)

/-- FUSED_UPDATE, NORM_PARTIAL_ARRIVAL and NORM_FACTOR_ARRIVAL. -/
def Obligations.UpdatesAndGlobalNorms : Prop := UpdatesWriteTheNextVersionOrWait ∧ GlobalNormPartialsAndFactorsAreKept

namespace Sys2Proof.Machine.Claims

/-- A counter of a port, and one of a network (R302). -/
def portCounter (d : Dev) (e i : Nat) : BitVec 32 := Store.get 0#32 (d.port e).cnt i
def netCounter (d : Dev) (n i : Nat) : BitVec 32 := Store.get 0#32 (d.net n).cnt i

/-- A received data packet is one of receive channel i of partition p: the header passes the checks, the peer is known, and the payload
opens (R279, R294, R298). -/
def received (d : Dev) (h : DataHdr) (udpLen : Nat) (payload : List Byte) (p i : Nat) (x : RecvChan) (plain : List Byte) : Prop :=
  badData h udpLen payload = false ∧ h.type < 5 ∧ h.chan ≠ 4070 ∧ d.swarmPart h = some p ∧ (d.peer p h.srank).valid = true ∧
  d.findRecv p h = some i ∧ d.recvChan p i = some x ∧ d.openPkt p x.entry h payload = some plain

/-- And it is of the partition's epoch (R285). -/
def accepts (d : Dev) (h : DataHdr) (udpLen : Nat) (payload : List Byte) (p i : Nat) (x : RecvChan) (plain : List Byte) : Prop :=
  received d h udpLen payload p i x plain ∧ h.epoch = (d.part p).epoch ∧ h.epoch < 65536

/-- An answer of the receiver of one of this partition's send channels: it passes the checks, and authenticates where it is encrypted
(R284, R285, R294). -/
def answered (d : Dev) (h : DataHdr) (p i : Nat) (x : SendChan) : Prop :=
  h.ver = 1 ∧ h.cls = 2 ∧ h.rsv = false ∧ d.mgmtOk h [] = true ∧ d.swarmPart h = some p ∧ (d.peer p h.srank).valid = true ∧
  d.findSend p h = some i ∧ d.sendChan p i = some x ∧ h.epoch = (d.part p).epoch ∧ h.epoch < 65536

/-- The forwarding table gives an address on a network a port that can send a frame of this priority at once (R276 to R278, R295). -/
def pathClear (d : Dev) (net dst chan pcp : Nat) : Prop :=
  ∃ o, d.egress net dst (srcPort chan) = some o ∧ (d.port o.1).clear pcp = true

/-- The address of a peer on a network. -/
def peerAddr (d : Dev) (p r net : Nat) : Nat := if net = 0 then (d.peer p r).addrA else (d.peer p r).addrB

/-- A WRITE on a windowed channel can be placed: its window is open, it stays inside its slot and its count, and the super that it goes
to is in no thermal stage (R181, R290). -/
def windowOpen (d : Dev) (p : Nat) (x : RecvChan) (h : DataHdr) : Prop :=
  x.chan < 4064 ∧ ceDest x.entry = 0 ∧ h.type = 1 ∧ x.oldw ≤ d.window p x.entry h.step h.phase ∧
  d.window p x.entry h.step h.phase < x.oldw + ceSlots x.entry ∧ h.tsw0 + h.plen ≤ ceSlotb x.entry ∧
  Store.get 0 x.slotCnt (d.window p x.entry h.step h.phase % ceSlots x.entry) + h.plen ≤ ceEbytes x.entry ∧
  d.hot (d.tm ((ceBase x.entry + 512 + d.window p x.entry h.step h.phase % ceSlots x.entry * ceSlotb x.entry + h.tsw0) / pageBytes)).dev = false

/-- Memory after that WRITE: its bytes in the slot of its window, then the slot's count in the control record (R290). -/
def afterWindow (d : Dev) (p : Nat) (x : RecvChan) (h : DataHdr) (bs : List Byte) : List Host.Cell :=
  let slot := d.window p x.entry h.step h.phase % ceSlots x.entry
  ((d.memPut (ceBase x.entry + 512 + slot * ceSlotb x.entry + h.tsw0) bs (bit h.tsw1 0)).memPut
    (ceBase x.entry + 8 + 4 * slot) (toLe 4 (Store.get 0 x.slotCnt slot + h.plen)) false).mem

/-- The network on which a channel's last packet arrived has been noted (R299); this moves no cell. -/
def noted (d : Dev) (p i net : Nat) : Dev := d.modRecv p i (fun y => { y with arr := net })

/-- A frame from port e that waits at port o under entry w of the forwarding table: it goes to NHMAC with its hop limit one less, marked CE
past KMIN when it is capable of it (R295, R296). -/
def inTransit (d : Dev) (e o : Nat) (f : EthFrame) (w : List Nat) : Transit :=
  { prio := f.prio, bytes := f.bytes, inPort := e, mac := fwMac w, hop := f.hop - 1
    ce := f.ect && decide ((d.net (o / 4)).kmin * 16384 < (d.port o).queued) }

/-- The module has sent this much and nothing else. -/
def Sends (s t : State) (l : List Tx) : Prop := t.dev.tx = s.dev.tx ++ l

end Sys2Proof.Machine.Claims

/-- FRAME_RECEIVE: a frame with a foreign VLAN tag is discarded and counted, one for the module is taken and not sent on, another one
leaves towards NHMAC, its hop limit one less, on the port that its route and source port select when that port is free, and else waits
there as far as the buffer holds it; without a route or with hop limit 1 it is discarded and counted; a solicitation of one of the
module's addresses is answered (R274, R275, R295, R296). -/
def Sys2Proof.Machine.Claims.FramesAreTakenForwardedOrDiscarded : Prop :=
  ∀ (s : State) (e : Nat) (f : EthFrame), e < nPorts →
    let n := e / 4
    (∀ v, f.vlan = some v → v ≠ (s.dev.net n).vid →
      ∃ t, exec (.frameReceive e f) s = .next t ∧ SameOutside s t ∧ t.dev.mem = s.dev.mem ∧ Sends s t [] ∧
        portCounter t.dev e 6 = portCounter s.dev e 6 + 1#32 ∧ portCounter t.dev e 8 = portCounter s.dev e 8 + 1#32) ∧
    ((∀ v, f.vlan = some v → v = (s.dev.net n).vid) → f.fcsOk = true → f.ipv6 = true → f.lldp = false → f.extHdr = false →
      (f.icmp = none → f.udpSumOk = true → f.udpDst = (s.dev.net n).udpp →
        (s.dev.ours n f.dst = true → ∃ t, exec (.frameReceive e f) s = .next t ∧ SameOutside s t ∧ t.dev.mem = s.dev.mem ∧ Sends s t [] ∧
          portCounter t.dev e 6 = portCounter s.dev e 6 + 1#32 ∧ portCounter t.dev e 8 = portCounter s.dev e 8) ∧
        (s.dev.ours n f.dst = false → ∀ w, s.dev.route n f.dst = some w → 1 < f.hop → ∀ o, maskPort n (fwMask w) f.udpSrc = some o →
          ((s.dev.port o).clear f.prio = true →
            ∃ t, exec (.frameReceive e f) s = .next t ∧ SameOutside s t ∧ t.dev.mem = s.dev.mem ∧
              Sends s t [.forward o (fwMac w) (f.hop - 1) f.bytes false false]) ∧
          ((s.dev.port o).clear f.prio = false → (s.dev.port o).queued + f.bytes ≤ transitBytes →
            ∃ t, exec (.frameReceive e f) s = .next t ∧ SameOutside s t ∧ t.dev.mem = s.dev.mem ∧
              (t.dev.port o).transit = (s.dev.port o).transit ++ [inTransit s.dev e o f w]) ∧
          ((s.dev.port o).clear f.prio = false → transitBytes < (s.dev.port o).queued + f.bytes →
            ∃ t, exec (.frameReceive e f) s = .next t ∧ SameOutside s t ∧ t.dev.mem = s.dev.mem ∧ Sends s t [] ∧
              (t.dev.port o).transit = (s.dev.port o).transit ∧
              netCounter t.dev (o / 4) 22 = netCounter s.dev (o / 4) 22 + 1#32)) ∧
        (s.dev.ours n f.dst = false → s.dev.route n f.dst = none ∨ f.hop ≤ 1 →
          ∃ t, exec (.frameReceive e f) s = .next t ∧ SameOutside s t ∧ t.dev.mem = s.dev.mem ∧ Sends s t [] ∧
            portCounter t.dev e 8 = portCounter s.dev e 8 + 1#32)) ∧
      (∀ a, f.icmp = some (.solicit a) → s.dev.ours n f.dst = true → s.dev.ours n a = true → (s.dev.port e).clear 7 = true →
        ∃ t, exec (.frameReceive e f) s = .next t ∧ SameOutside s t ∧ t.dev.mem = s.dev.mem ∧
          Sends s t [.icmp e (s.dev.ipHdr n 7 f.src) (.advert a)]))

/-- TRANSIT_FRAME_DEPARTURE, PFC_FRAME_RECEIVE and PFC_PAUSE_EXPIRY: the oldest frame of the priority that the port serves next leaves,
priorities 7 and 6 before the others; a network A port pauses the priorities that PFCM enables until their pause ends, a network B port
none, and a frame of the module's own that waited for the pause then leaves (R277, R278, R296). -/
def Sys2Proof.Machine.Claims.TransitFramesLeaveAndPausesHold : Prop :=
  ∀ (s : State) (e prios q : Nat), e < nPorts →
    (∀ x, (s.dev.port e).up = true → (s.dev.port e).own = [] → (s.dev.port e).xoff = [] →
      ((s.dev.port e).pick (e / 4)).1 = some q → (s.dev.port e).transit.find? (fun x => x.prio == q) = some x →
      ∃ t, exec (.transitFrameDeparture e) s = .next t ∧ SameOutside s t ∧ t.dev.mem = s.dev.mem ∧
        Sends s t [.forward e x.mac x.hop x.bytes x.ce false] ∧ (t.dev.port e).transit = (s.dev.port e).transit.erase x) ∧
    (((s.dev.port e).headOf 7).isSome = true → ((s.dev.port e).pick (e / 4)).1 = some 7) ∧
    (((s.dev.port e).headOf 7).isSome = false → ((s.dev.port e).headOf 6).isSome = true → ((s.dev.port e).pick (e / 4)).1 = some 6) ∧
    (∃ t, exec (.pfcFrameReceive e prios) s = .next t ∧ SameOutside s t ∧ t.dev.mem = s.dev.mem ∧ Sends s t [] ∧
      ∀ k, k < 8 → ((t.dev.port e).paused.contains k = true ↔
        ((s.dev.port e).paused.contains k = true ∨ (e < 4 ∧ bit prios k = true ∧ bit s.dev.fab.netA.pfcm k = true)))) ∧
    (∃ t, exec (.pfcPauseExpiry e q) s = .next t ∧ SameOutside s t ∧ t.dev.mem = s.dev.mem ∧
      (∀ k, (t.dev.port e).paused.contains k = (decide (k ≠ q) && (s.dev.port e).paused.contains k)) ∧
      ((s.dev.port e).own = [] → Sends s t []) ∧
      ∀ l, (s.dev.port e).own = [l] → (s.dev.port e).up = true → (s.dev.port e).transit = [] → l.prio = q → 6 ≤ q → q < 8 →
        Sends s t [l.tx] ∧ (t.dev.port e).own = [])

/-- FRAME_RECEIVE, TRANSIT_FRAME_DEPARTURE, PFC_FRAME_RECEIVE and PFC_PAUSE_EXPIRY. -/
def Obligations.FramesAndPauses : Prop := FramesAreTakenForwardedOrDiscarded ∧ TransitFramesLeaveAndPausesHold

/-- DATA_PACKET_RECEIVE: a packet that fails the header checks is discarded and counted in RXD, one that does not open in AUTHF, one of
an earlier epoch in EPDN; a duplicate is answered with an ACK of NEXT; one above NEXT is held, and the first one is answered with a NAK
of NEXT; a WRITE at NEXT into an open window is placed and NEXT advances; one whose window is not open yet waits with every byte of
memory as it was (R279, R283, R285, R290, R294). -/
def Obligations.DataPacketsAreDeliveredHeldOrDiscarded : Prop :=
  ∀ (s : State) (net : Nat) (h : DataHdr) (ce : Bool) (u : Nat) (pl plain : List Byte) (p i : Nat) (x : RecvChan), net < 2 →
    (badData h u pl = true → ∃ t, exec (.dataPacketReceive net h ce u pl) s = .next t ∧ SameOutside s t ∧ t.dev.mem = s.dev.mem ∧
      t.dev.fab.recv = s.dev.fab.recv ∧ Sends s t [] ∧ portCounter t.dev (4 * net) 8 = portCounter s.dev (4 * net) 8 + 1#32) ∧
    (badData h u pl = false → h.type < 5 → h.chan ≠ 4070 → s.dev.swarmPart h = some p → (s.dev.peer p h.srank).valid = true →
      s.dev.findRecv p h = some i → s.dev.recvChan p i = some x → s.dev.openPkt p x.entry h pl = none →
      ∃ t, exec (.dataPacketReceive net h ce u pl) s = .next t ∧ SameOutside s t ∧ t.dev.mem = s.dev.mem ∧
        t.dev.fab.recv = s.dev.fab.recv ∧ netCounter t.dev net 21 = netCounter s.dev net 21 + 1#32) ∧
    (received s.dev h u pl p i x plain → serialEarlier 16 h.epoch (s.dev.part p).epoch = true →
      ∃ t, exec (.dataPacketReceive net h ce u pl) s = .next t ∧ SameOutside s t ∧ t.dev.mem = s.dev.mem ∧
        t.dev.fab.recv = s.dev.fab.recv ∧ Sends s t [] ∧ netCounter t.dev net 25 = netCounter s.dev net 25 + 1#32) ∧
    (received s.dev h u pl p i x plain → serialEarlier 16 h.epoch (s.dev.part p).epoch = false → h.epoch ≠ (s.dev.part p).epoch →
      pathClear s.dev net (peerAddr s.dev p x.peer net) x.chan 7 →
      ∃ t o m ip q, exec (.dataPacketReceive net h ce u pl) s = .next t ∧ SameOutside s t ∧ t.dev.mem = s.dev.mem ∧
        Sends s t [.data net o m ip q []] ∧ q.type = 0x11 ∧ q.epw = true) ∧
    (accepts s.dev h u pl p i x plain → p < nParts →
      (serialEarlier 32 h.seq (x.next % 2 ^ 32) = true → pathClear s.dev net (peerAddr s.dev p x.peer net) x.chan 7 →
        ∃ t o m ip q, exec (.dataPacketReceive net h ce u pl) s = .next t ∧ SameOutside s t ∧ t.dev.mem = s.dev.mem ∧
          netCounter t.dev net 17 = netCounter s.dev net 17 + 1#32 ∧
          Sends s t [.data net o m ip q []] ∧ q.type = 0x10 ∧ q.ackseq = x.next % 2 ^ 32) ∧
      (serialEarlier 32 h.seq (x.next % 2 ^ 32) = false → h.seq ≠ x.next % 2 ^ 32 → x.secondHalf h = false → x.at' h.seq = none →
        (∃ t y, exec (.dataPacketReceive net h ce u pl) s = .next t ∧ SameOutside s t ∧ t.dev.mem = s.dev.mem ∧
          t.dev.recvChan p i = some y ∧ y.next = x.next ∧ y.held = x.held ++ [⟨h, plain, ce, net⟩] ∧
          netCounter t.dev net 18 = netCounter s.dev net 18 + 1#32) ∧
        (x.nakSent ≠ some x.next → pathClear s.dev net (peerAddr s.dev p x.peer net) x.chan 7 →
          ∃ t o m ip q, exec (.dataPacketReceive net h ce u pl) s = .next t ∧ Sends s t [.data net o m ip q []] ∧ q.type = 0x11 ∧
            q.tsw0 = x.next % 2 ^ 32 ∧ q.epw = false)) ∧
      (h.seq = x.next % 2 ^ 32 → x.held = [] → windowOpen s.dev p x h →
        ∃ t y, exec (.dataPacketReceive net h ce u pl) s = .next t ∧ SameOutside s t ∧ t.dev.mem = afterWindow s.dev p x h plain ∧
          t.dev.recvChan p i = some y ∧ y.next = x.next + 1 ∧ y.held = []) ∧
      (h.seq = x.next % 2 ^ 32 → x.held = [] → x.chan < 4064 → ceDest x.entry = 0 → h.type = 1 →
        x.oldw + ceSlots x.entry ≤ s.dev.window p x.entry h.step h.phase →
        ∃ t y, exec (.dataPacketReceive net h ce u pl) s = .next t ∧ SameOutside s t ∧ t.dev.mem = s.dev.mem ∧
          t.dev.recvChan p i = some y ∧ y.next = x.next ∧ y.held = [⟨h, plain, ce, net⟩]))

/-- RELW_WRITE and PLACEMENT_RETRY: RELW equal to OLDW frees the oldest slot, zeroes its count and advances OLDW; any other value is the
context fault 0x0806 with every byte of memory as it was; the packet that waits at NEXT is placed once its window is open (R287, R290). -/
def Obligations.WindowsAreReleasedAndWaitingPacketsPlaced : Prop :=
  ∀ (s : State) (p i : Nat) (x : RecvChan), p < nParts → s.dev.recvChan p i = some x →
    (ceDest x.entry = 0 → leNat (s.dev.memRead (ceBase x.entry) 4) = x.oldw % 2 ^ 32 → x.held = [] →
      ∃ t y, exec (.relwWrite p i) s = .next t ∧ SameOutside s t ∧ t.dev.recvChan p i = some y ∧
        y = { x with oldw := x.oldw + 1, slotCnt := y.slotCnt } ∧ Store.get 0 y.slotCnt (x.oldw % ceSlots x.entry) = 0 ∧
        (∀ k, k ≠ x.oldw % ceSlots x.entry → Store.get 0 y.slotCnt k = Store.get 0 x.slotCnt k) ∧
        (noWindows s.dev = true → t.dev.cores = s.dev.cores) ∧
        t.dev.mem = ((s.dev.memPut (ceBase x.entry + 8 + 4 * (x.oldw % ceSlots x.entry)) (toLe 4 0) false).memPut
          (ceBase x.entry + 4) (toLe 4 (x.oldw + 1)) false).mem) ∧
    (ceDest x.entry = 0 → leNat (s.dev.memRead (ceBase x.entry) 4) ≠ x.oldw % 2 ^ 32 →
      ∃ t, exec (.relwWrite p i) s = .next t ∧ SameOutside s t ∧ t.dev.mem = s.dev.mem ∧ t.dev.fab.recv = s.dev.fab.recv ∧
        t.dev.fab.send = s.dev.fab.send ∧ (t.dev.part p).resetDue = true) ∧
    (∀ k, x.held = [k] → k.hdr.seq = x.next % 2 ^ 32 → windowOpen s.dev p x k.hdr →
      ∃ t y, exec (.placementRetry p i) s = .next t ∧ SameOutside s t ∧ t.dev.mem = afterWindow s.dev p x k.hdr k.payload ∧
        t.dev.recvChan p i = some y ∧ y.next = x.next + 1 ∧ y.held = [])

/-- ACK_RECEIVE, NAK_RECEIVE and CREDIT_RECEIVE: an ACK frees the oldest copies as far as they lie below ACKSEQ, adds GRANT and halves
the rate under ECE, a NAK has the named packet sent again with RTX set, counted and no credit spent, a CREDIT is granted in chunks of 16
cells or recorded (R284, R288, R289, R444). -/
def Obligations.AnswersFreeCopiesAndGrantCells : Prop :=
  ∀ (s : State) (net p i : Nat) (h : DataHdr), net < 2 → p < nParts →
    (∀ x, h.type = 0x10 → answered s.dev h p i x → x.waiting = [] →
      ∃ t y, exec (.ackReceive net h) s = .next t ∧ SameOutside s t ∧ t.dev.mem = s.dev.mem ∧ t.dev.sendChan p i = some y ∧
        y.sent = x.sent.dropWhile (fun k => serialLater 32 h.ackseq (k.seq % 2 ^ 32)) ∧ y.credit = x.credit + h.tsw0 ∧
        y.seq = x.seq ∧ y.waiting = [] ∧ y.epwSeen = false ∧
        y.rate = (if h.ece && !x.eceSeen then max (x.rate / 2) ((s.dev.net (ceNet x.entry)).rmin * 2 ^ 32) else x.rate)) ∧
    (∀ x k, h.type = 0x11 → h.epw = false → answered s.dev h p i x → x.failed = false →
      x.sent.find? (fun k => k.seq % 2 ^ 32 == h.tsw0) = some k → k.tries < (s.dev.net (s.dev.chanNet p x)).rmax →
      pathClear s.dev (s.dev.chanNet p x) (peerAddr s.dev p x.peer (s.dev.chanNet p x)) k.hdr.chan
        (clsPcp (ceCls x.entry) (s.dev.chanNet p x != ceNet x.entry)) →
      ∃ t o m ip q bs, exec (.nakReceive net h) s = .next t ∧ SameOutside s t ∧ t.dev.mem = s.dev.mem ∧
        t.dev.sendChan p i = some { x with sent := x.sent.map (fun q => if q.seq = k.seq then { k with tries := k.tries + 1 } else q) } ∧
        Sends s t [.data (s.dev.chanNet p x) o m ip q bs] ∧ q.seq = k.seq % 2 ^ 32 ∧ q.rtx = true) ∧
    (∀ x, h.type = 0x12 → h.ver = 1 → h.cls = 2 → h.rsv = false → s.dev.mgmtOk h [] = true → s.dev.swarmPart h = some p →
      (s.dev.peer p h.srank).valid = true → s.dev.findRecv p h = some i → s.dev.recvChan p i = some x →
      h.epoch = (s.dev.part p).epoch → h.epoch < 65536 →
      let n := ceilDiv (min 256 (max 1 h.tsw0)) 16 * 16
      (n ≤ (noted s.dev p i net).freeCells (ceNet x.entry) → pathClear s.dev net (peerAddr s.dev p x.peer net) x.chan 7 →
        ∃ t o m ip q y, exec (.creditReceive net h) s = .next t ∧ SameOutside s t ∧ t.dev.mem = s.dev.mem ∧
          Sends s t [.data net o m ip q []] ∧ q.type = 0x10 ∧ q.ackseq = x.next % 2 ^ 32 ∧ q.tsw0 = x.grantDue + n ∧
          t.dev.recvChan p i = some y ∧ y.shared = x.shared + n ∧
          (t.dev.net (ceNet x.entry)).shared = (s.dev.net (ceNet x.entry)).shared + n) ∧
      ((noted s.dev p i net).freeCells (ceNet x.entry) < 16 →
        ∃ t y, exec (.creditReceive net h) s = .next t ∧ SameOutside s t ∧ t.dev.mem = s.dev.mem ∧ Sends s t [] ∧
          t.dev.recvChan p i = some y ∧ y = { x with arr := net, want := n }))

/-- ACK_TIMER, RTO_EXPIRY, CREDIT_RETRY and RATE_INCREASE_TICK: what is unacknowledged is acknowledged; the copy whose timer has run out
goes out again and its timer doubles up to 8 × RTO, after RMAX times a channel that cannot move fails, an image's with a context fault
and a recovery channel without, and a network A channel that may move does; after an EPW answer one goes out uncounted; an unanswered
CREDIT is repeated; a rate without ECE rises by AIINC up to 400 Gb/s (R284, R285, R288, R289, R299, R351). -/
def Obligations.ChannelTimersRepeatOrFail : Prop :=
  ∀ (s : State) (p i seq : Nat), p < nParts →
    (∀ x, s.dev.recvChan p i = some x → x.unacked ≠ 0 → pathClear s.dev x.arr (peerAddr s.dev p x.peer x.arr) x.chan 7 →
      ∃ t o m ip q, exec (.ackTimer p i) s = .next t ∧ SameOutside s t ∧ t.dev.mem = s.dev.mem ∧
        Sends s t [.data x.arr o m ip q []] ∧ q.type = 0x10 ∧ q.ackseq = x.next % 2 ^ 32 ∧ q.tsw0 = x.grantDue ∧ q.ece = x.ceDue ∧
        t.dev.recvChan p i = some { x with grantDue := 0, unacked := 0, ceDue := false }) ∧
    (∀ x k, s.dev.sendChan p i = some x → x.sent.find? (fun k => k.seq % 2 ^ 32 == seq % 2 ^ 32) = some k → x.failed = false →
      let net := s.dev.chanNet p x
      let clear := pathClear s.dev net (peerAddr s.dev p x.peer net) k.hdr.chan (clsPcp (ceCls x.entry) (net != ceNet x.entry))
      (x.epwSeen = false → k.tries < (s.dev.net net).rmax → clear →
        ∃ t o m ip q bs, exec (.rtoExpiry p ⟨i, seq⟩) s = .next t ∧ SameOutside s t ∧ t.dev.mem = s.dev.mem ∧
          Sends s t [.data net o m ip q bs] ∧ q.seq = k.seq % 2 ^ 32 ∧ q.rtx = true ∧
          t.dev.sendChan p i = some { x with
            sent := x.sent.map (fun q => if q.seq = k.seq then { k with tries := k.tries + 1, mul := min 8 (2 * k.mul) } else q) }) ∧
      (x.epwSeen = true → clear →
        ∃ t o m ip q bs, exec (.rtoExpiry p ⟨i, seq⟩) s = .next t ∧ SameOutside s t ∧ t.dev.mem = s.dev.mem ∧
          Sends s t [.data net o m ip q bs] ∧ q.seq = k.seq % 2 ^ 32 ∧ q.rtx = true ∧
          t.dev.sendChan p i = some { x with epwSeen := false }) ∧
      (x.epwSeen = false → (s.dev.net net).rmax ≤ k.tries → ceNet x.entry = 1 ∨ s.dev.canFail p x.peer = false →
        (x.chan < 4064 → ∃ t, exec (.rtoExpiry p ⟨i, seq⟩) s = .next t ∧ SameOutside s t ∧ t.dev.mem = s.dev.mem ∧
          t.dev.sendChan p i = some { x with failed := true } ∧ (t.dev.part p).resetDue = true) ∧
        (x.chan = 4067 → ∃ t, exec (.rtoExpiry p ⟨i, seq⟩) s = .next t ∧ SameOutside s t ∧ t.dev.mem = s.dev.mem ∧
          t.dev.sendChan p i = some { x with failed := true } ∧ t.dev.parts = s.dev.parts)) ∧
      (x.epwSeen = false → (s.dev.net net).rmax ≤ k.tries → ceNet x.entry = 0 → s.dev.canFail p x.peer = true →
        ceFovok x.entry = true →
        ∃ t, exec (.rtoExpiry p ⟨i, seq⟩) s = .next t ∧ SameOutside s t ∧ t.dev.mem = s.dev.mem ∧ t.dev.parts = s.dev.parts ∧
          (t.dev.peer p x.peer).onb = true)) ∧
    (∀ x k rest, s.dev.sendChan p i = some x → x.waiting = k :: rest → x.askedCredit = true →
      let net := s.dev.chanNet p x
      pathClear s.dev net (peerAddr s.dev p x.peer net) x.chan 7 →
      ∃ t o m ip q, exec (.creditRetry p i) s = .next t ∧ SameOutside s t ∧ t.dev.mem = s.dev.mem ∧
        Sends s t [.data net o m ip q []] ∧ q.type = 0x12 ∧ q.seq = x.seq % 2 ^ 32 ∧ q.tsw0 = min 256 (cellsOf k.payload.length)) ∧
    (∀ x, s.dev.sendChan p i = some x →
      ∃ t, exec (.rateIncreaseTick p i) s = .next t ∧ SameOutside s t ∧ t.dev.mem = s.dev.mem ∧
        t.dev.sendChan p i = some { x with
          eceSeen := false,
          rate := if x.eceSeen then x.rate else min (400 * 2 ^ 32) (x.rate + (s.dev.net (ceNet x.entry)).aiinc * 2 ^ 32) })

/-- ANNOUNCE_RECEIVE, ANNOUNCE_TIMER, PEER_MISS_TICK and FAILBACK: a matching valid entry is up with MISS 0, an up port announces, a
second without an announce raises MISS and the third makes the peer down, channels return to network A when nothing is unacknowledged
(R297, R298, R300). -/
def Sys2Proof.Machine.Claims.PeersAreAnnouncedMissedAndReturned : Prop :=
  ∀ (s : State) (net src e k p r : Nat) (pl : List Byte), net < 2 → e < nPorts → k < 65536 → p < nParts →
    (pl.length = 64 → ∀ j, let q := Store.get {} s.dev.fab.peers j
      ∃ t, exec (.announceReceive net src pl) s = .next t ∧ SameOutside s t ∧ t.dev.mem = s.dev.mem ∧
        (q.valid = true → (q.serial ≠ 0 ∧ q.serial = leAt pl 0 8) ∨ (src ≠ 0 ∧ (if net = 0 then q.addrA else q.addrB) = src) →
          (Store.get {} t.dev.fab.peers j).state = 1 ∧ (Store.get {} t.dev.fab.peers j).miss = 0 ∧
          (Store.get {} t.dev.fab.peers j).serial = leAt pl 0 8) ∧
        (q.valid = false → Store.get {} t.dev.fab.peers j = q)) ∧
    ((s.dev.port e).clear 7 = true → s.dev.sends = true →
      ∃ t, exec (.announceTimer e) s = .next t ∧ SameOutside s t ∧
        { t.dev with tx := s.dev.tx, fab := { t.dev.fab with ports := s.dev.fab.ports } } = s.dev ∧
        Sends s t [.lldp e Config.serial.toNat (s.dev.net (e / 4)).addr,
          .announce e (s.dev.ipHdr (e / 4) 7 (announceGroup (e / 4))) (s.dev.announcePayload s.nv)] ∧
        (∀ o, o ≠ e → t.dev.port o = s.dev.port o) ∧ portCounter t.dev e 7 = portCounter s.dev e 7 + 2#32 ∧
        (s.dev.announcePayload s.nv).length = 64) ∧
    (let q := Store.get {} s.dev.fab.peers k
     q.valid = true →
      (q.heard = true → ∃ t, exec (.peerMissTick k) s = .next t ∧ SameOutside s t ∧
        Store.get {} t.dev.fab.peers k = { q with heard := false }) ∧
      (q.heard = false → ∃ t, exec (.peerMissTick k) s = .next t ∧ SameOutside s t ∧ t.dev.mem = s.dev.mem ∧
        Store.get {} t.dev.fab.peers k = { q with miss := min 255 (q.miss + 1), state := if q.miss + 1 = 3 then 3 else q.state })) ∧
    (∀ j, s.dev.peerKey p r = some j → (s.dev.peer p r).onb = true → (s.dev.peer p r).heardA = true → s.dev.fab.send = [] →
      s.dev.pathUp (s.dev.peer p r).addrA = true →
      ∃ t, exec (.failback p r) s = .next t ∧ SameOutside s t ∧ t.dev.mem = s.dev.mem ∧
        t.dev.peer p r = { s.dev.peer p r with onb := false })

/-- LINK_UP, LINK_DOWN and PTP_MESSAGE: an enabled port with a supported medium comes up, and a frame that waited for it leaves; a lost
network A port moves a peer whose ports are all down to network B, where that is allowed; a message of the domain on a port of network B
sets the wall clock and nothing else, one on network A does nothing (R273, R274, R277, R299, R416). -/
def Sys2Proof.Machine.Claims.LinksComeAndGo : Prop :=
  ∀ (s : State) (e m ns : Nat) (y : Bool), e < nPorts →
    ((s.dev.port e).up = false → (s.dev.port e).en = true → (s.dev.port e).dead = false → (s.dev.port e).media ≠ 0 →
      ∃ t, exec (.linkUp e) s = .next t ∧ SameOutside s t ∧ t.dev.mem = s.dev.mem ∧
        ((s.dev.port e).own = [] → { t.dev.port e with cnt := (s.dev.port e).cnt } =
          { s.dev.port e with up := true, lock := true, andn := (s.dev.port e).media == 1 }) ∧
        (∀ l, (s.dev.port e).own = [l] → (s.dev.port e).transit = [] → (s.dev.port e).paused = [] → l.prio = 7 →
          (t.dev.port e).own = [] ∧ l.tx ∈ t.dev.tx) ∧
        (t.dev.port e).up = true ∧ ∀ o, o ≠ e → { t.dev.port o with cnt := (s.dev.port o).cnt } = s.dev.port o) ∧
    ((s.dev.port e).up = true → 4 ≤ e →
      ∃ t, exec (.linkDown e) s = .next t ∧ SameOutside s t ∧ t.dev.mem = s.dev.mem ∧ t.dev.fab.peers = s.dev.fab.peers ∧
        { t.dev.port e with cnt := (s.dev.port e).cnt } = { s.dev.port e with up := false, lock := false, andn := false } ∧
        ∀ o, o ≠ e → { t.dev.port o with cnt := (s.dev.port o).cnt } = s.dev.port o) ∧
    (∀ r q w, (s.dev.port e).up = true → e < 4 → s.dev.brd.pcfgMode = false → s.dev.fab.peers = [(r, q)] → s.dev.fab.send = [] →
      q.valid = true → q.onb = false → q.addrB ≠ 0 → s.dev.fab.netA.fov = true → s.dev.route 0 q.addrA = some w →
      (∀ o, o < 4 → o ≠ e → bit (fwMask w) o = true → (s.dev.port o).up = false) →
      ∃ t, exec (.linkDown e) s = .next t ∧ SameOutside s t ∧ t.dev.mem = s.dev.mem ∧ (t.dev.port e).up = false ∧
        Store.get {} t.dev.fab.peers r = { q with onb := true, heardA := false }) ∧
    (s.dev.brd.ptpEn = true → m = s.dev.brd.ptpDom → 4 ≤ e →
      ∃ t, exec (.ptpMessage ⟨e, m⟩ ns y) s = .next t ∧ SameOutside s t ∧
        t.dev = { s.dev with brd := { s.dev.brd with ptpSync := y, wall := ns % 2 ^ 64 } }) ∧
    (e < 4 ∨ m ≠ s.dev.brd.ptpDom ∨ s.dev.brd.ptpEn = false → exec (.ptpMessage ⟨e, m⟩ ns y) s = .next s)

/-- ANNOUNCE_RECEIVE, ANNOUNCE_TIMER, PEER_MISS_TICK, FAILBACK, LINK_UP, LINK_DOWN and PTP_MESSAGE. -/
def Obligations.PeersAndLinks : Prop := PeersAreAnnouncedMissedAndReturned ∧ LinksComeAndGo

/-- PUSH_RECEIPT of a push whose two halves are at NEXT and after it: a version no newer than the slice's is dropped, one whose step may
be written goes into the slice's row block, column pieces and status record and nowhere else, and one that may not waits (R265, R267,
R292). -/
def Obligations.PushesAreWrittenDroppedOrWait : Prop :=
  ∀ (s : State) (p i l : Nat) (x : RecvChan) (k k1 : HeldPkt), p < nParts → s.dev.recvChan p i = some x → ceDest x.entry = 2 →
    x.held = [k, k1] → k.hdr.seq = x.next % 2 ^ 32 → k1.hdr.seq = (x.next + 1) % 2 ^ 32 → k.hdr.type = 3 → k1.hdr.type = 3 →
    k.hdr.plen = 4224 → k1.hdr.plen = 4224 → k.payload.length = 4224 → k1.payload.length = 4224 → k1.hdr.tsw0 = k.hdr.tsw0 →
    bit k.hdr.tsw2 1 = false → bit k.hdr.tsw2 0 = false → bit k1.hdr.tsw2 0 = true →
    slFind (s.dev.sliceTab (ceCtx x.entry)) k.hdr.tsw0 = some l →
    let t0 := s.dev.sliceTab (ceCtx x.entry)
    let v := k.hdr.tsw1
    let half := if v % 2 = 1 then bkHalf (s.dev.blockTab (ceCtx x.entry)) (slBlk t0 l) else 0
    (verBefore (s.dev.slVn t0 l) v = false → ∃ t y, exec (.pushReceipt p i) s = .next t ∧ SameOutside s t ∧ t.dev.mem = s.dev.mem ∧
      t.dev.recvChan p i = some y ∧ y.next = x.next + 2 ∧ y.held = []) ∧
    (verBefore (s.dev.slVn t0 l) v = true → s.dev.mayWrite p (ceCtx x.entry) l v = false →
      ∃ t, exec (.pushReceipt p i) s = .next t ∧ SameOutside s t ∧ t.dev.mem = s.dev.mem ∧ t.dev.recvChan p i = some x) ∧
    (verBefore (s.dev.slVn t0 l) v = true → v < 2 ^ 32 → s.dev.mayWrite p (ceCtx x.entry) l v = true →
      s.dev.hot (s.dev.tm (slRow t0 l / pageBytes)).dev = false →
      ∃ t y, exec (.pushReceipt p i) s = .next t ∧ SameOutside s t ∧ t.dev.recvChan p i = some y ∧ y.next = x.next + 2 ∧ y.held = [] ∧
        t.dev.slVn t0 l = v ∧
        ∀ z, (z < s.dev.stAddr t0 l ∨ s.dev.stAddr t0 l + 16 ≤ z) →
          (∀ q ∈ colPieces (slCol t0 l + half) (slQidx t0 l), z < q.1 ∨ q.1 + q.2 ≤ z) →
          t.dev.memByte z = if slRow t0 l + half ≤ z ∧ z < slRow t0 l + half + 4224
            then k.payload.getD (z - (slRow t0 l + half)) 0#8 else s.dev.memByte z)

namespace Sys2Proof.Machine.Claims

/-- The turn of queue q has come, in the round-robin, to request c, which was sent in the clear; none is held behind it, and the record
queue has room (R309, R423). -/
def queueTurn (s : State) (q : Nat) (c : Cmd) : Prop :=
  q < nQueues ∧ (s.dev.queue q).cur = some c ∧ s.dev.myTurn q = true ∧ c.hdr.enc = false ∧ (s.dev.queue q).heldc = [] ∧
  s.dev.bb.queue.length < bbDepth

/-- And it is one of opcode `op`, which nothing refuses. -/
def itsTurn (s : State) (q op : Nat) (c : Cmd) : Prop := queueTurn s q c ∧ c.hdr.opcode = op ∧ refuse s.nv s.dev c = 0

/-- The device once the queen has turned to queue q. -/
def served (s : State) (q : Nat) : Dev := { s.dev with qserved := q }

/-- The devices differ in nothing but the queues, what has been sent, and the counters of the ports that it left on. -/
def SameBut (a b : Dev) : Prop :=
  { a with tx := b.tx, queues := b.queues, fab := { a.fab with ports := b.fab.ports } } = b ∧
  ∀ e, { a.port e with cnt := (b.port e).cnt } = b.port e

/-- The module has answered request c of queue q, last of all it sent, and the queue goes on to the next CSEQ (R308). -/
def Answered (s t : State) (q : Nat) (c : Cmd) (status : Nat) (payload : List Byte) : Prop :=
  (∃ r, t.dev.tx.getLast? = some (.reply r) ∧ r.status = status ∧ r.payload = payload ∧ r.cseq = c.hdr.seq ∧
    r.opcode = c.hdr.opcode ∧ r.retry = false) ∧
  (t.dev.queue q).cur = none ∧ (t.dev.queue q).next = ((s.dev.queue q).next + 1) % 2 ^ 32 ∧
  (t.dev.queue q).qcmd = (s.dev.queue q).qcmd + 1#32

/-- Apart from that answer nothing has changed. -/
def OnlyReply (s t : State) (q : Nat) : Prop :=
  SameOutside s t ∧ SameBut t.dev (served s q) ∧ t.dev.tx.length = s.dev.tx.length + 1 ∧
  ∀ k, k ≠ q → t.dev.queue k = s.dev.queue k

/-- The commands of Table 12-4 with their opcodes. -/
def opTable : List (Nat × (Nat → Instr)) :=
  [(0x01, .ident), (0x02, .echo), (0x10, .pread), (0x11, .pwrite), (0x12, .pswap), (0x20, .qbind), (0x21, .qreset), (0x30, .memread),
   (0x31, .memwrite), (0x32, .place), (0x40, .lbegin), (0x41, .ldata), (0x42, .lcommit), (0x43, .unload), (0x50, .start), (0x51, .cap),
   (0x52, fun q => .discard q []), (0x53, .stepparam), (0x60, .base), (0x61, fun q => .ptest q []),
   (0x62, fun q => .rebuild q [] [] [] false), (0x63, .replay), (0x70, .snapshot), (0x80, .bbread), (0x90, fun q => .coreReset q []),
   (0xA0, .attest), (0xA1, .keyrel), (0xA2, .fwupdate), (0xB0, .ctxset), (0xB1, .acctread)]

/-- A well-formed request in the clear reaches queue h.queue from its binder (R305, R307). -/
def arrives (d : Dev) (net src : Nat) (h : CmdHdr) (udpLen : Nat) (pl : List Byte) : Prop :=
  net = 1 ∧ d.listens = true ∧ badCmd net h udpLen pl = false ∧ h.enc = false ∧ h.kind = 0 ∧ d.needsEnc h.queue = false ∧
  (h.queue = 0 ∨ ((d.queue h.queue).bound = true ∧ (d.queue h.queue).binder = src))

/-- How far a request's CSEQ lies from NEXT (R308). -/
def ahead (d : Dev) (h : CmdHdr) : Nat := (h.seq + 2 ^ 32 - (d.queue h.queue).next) % 2 ^ 32

/-- A background command has been accepted: the answer is 0x0001, and its job is remembered (R309). -/
def Accepted (s t : State) (q : Nat) (c : Cmd) : Prop :=
  Answered s t q c 0x0001 [] ∧ ∃ j, t.dev.jobs.getLast? = some j ∧ j.queue = c.hdr.queue ∧ j.cseq = c.hdr.seq ∧ j.opcode = c.hdr.opcode

end Sys2Proof.Machine.Claims

/-- COMMAND_PACKET_RECEIVE: a malformed packet is discarded and counted; a request at NEXT takes its turn, or is answered 0x0002 for an
unknown opcode; one at most 15 ahead is held; an older one is answered from the cache with RETRY, or with 0x0009; an unbound queue
answers 0x0008 (R305, R307, R308, R311). -/
def Obligations.CommandPacketsAreSequenced : Prop :=
  ∀ (s : State) (net src : Nat) (h : CmdHdr) (u : Nat) (pl : List Byte), net < 2 →
    let c : Cmd := { hdr := h, src := src, payload := pl }
    let q := h.queue
    (s.dev.listens = true → badCmd net h u pl = true →
      ∃ t, exec (.commandPacketReceive net src h u pl) s = .next t ∧ t.dev.queues = s.dev.queues ∧ Sends s t [] ∧
        portCounter t.dev (4 * net) 8 = portCounter s.dev (4 * net) 8 + 1#32) ∧
    (arrives s.dev net src h u pl →
      (ahead s.dev h = 0 → (s.dev.queue q).cur = none → (s.dev.queue q).heldc = [] →
        ((opStates h.opcode).isSome = true → ∃ t, exec (.commandPacketReceive net src h u pl) s = .next t ∧ Sends s t [] ∧
          t.dev.queue q = { s.dev.queue q with cur := some c } ∧ ∀ k, k ≠ q → t.dev.queue k = s.dev.queue k) ∧
        (opStates h.opcode = none → ∃ t, exec (.commandPacketReceive net src h u pl) s = .next t ∧ Answered s t q c 0x0002 [])) ∧
      (0 < ahead s.dev h → ahead s.dev h ≤ 15 → (s.dev.queue q).heldc.find? (fun y => y.hdr.seq == h.seq) = none →
        ∃ t, exec (.commandPacketReceive net src h u pl) s = .next t ∧ Sends s t [] ∧
          t.dev.queue q = { s.dev.queue q with heldc := (s.dev.queue q).heldc ++ [c] }) ∧
      (15 < ahead s.dev h →
        (∀ e, (s.dev.queue q).cache.find? (fun e => e.req.seq == h.seq) = some e → e.req.opcode = h.opcode →
          ∃ t, exec (.commandPacketReceive net src h u pl) s = .next t ∧ Sends s t [.reply { e.reply with retry := true }] ∧
            t.dev.queue q = { s.dev.queue q with qrty := (s.dev.queue q).qrty + 1 }) ∧
        ((s.dev.queue q).cache.find? (fun e => e.req.seq == h.seq) = none →
          ∃ t r, exec (.commandPacketReceive net src h u pl) s = .next t ∧ t.dev.queues = s.dev.queues ∧ Sends s t [.reply r] ∧
            r.status = 0x0009 ∧ r.cseq = h.seq))) ∧
    (net = 1 → s.dev.listens = true → badCmd net h u pl = false → h.enc = false → h.kind = 0 → h.queue ≠ 0 →
      (s.dev.queue q).bound = false →
      ∃ t r, exec (.commandPacketReceive net src h u pl) s = .next t ∧ t.dev.queues = s.dev.queues ∧ Sends s t [.reply r] ∧
        r.status = 0x0008)

/-- A command that R312, R329, R402 or its payload's form refuses answers that status in its turn, and changes nothing else (R311, R312);
while it is another queue's turn no row executes it (R309). -/
def Obligations.RefusedCommandsChangeNothing : Prop :=
  ∀ (s : State) (q : Nat) (c : Cmd), ∀ y ∈ opTable, c.hdr.opcode = y.1 →
    (queueTurn s q c → refuse s.nv s.dev c ≠ 0 →
      ∃ t, exec (y.2 q) s = .next t ∧ Answered s t q c (refuse s.nv s.dev c) [] ∧ OnlyReply s t q) ∧
    (q < nQueues → (s.dev.queue q).cur = some c → s.dev.myTurn q = false → exec (y.2 q) s = .next s)

/-- COMMAND_COMPLETE, EVENT_ACKNOWLEDGEMENT and EVENT_RESEND: the completion event 0x0901 goes to the queue's own channel with the status,
opcode and CSEQ; an acknowledgement frees the events below its number, from the oldest on, and what was lost meanwhile is told by 0x0903;
a resend repeats what is unacknowledged in order to EVADDR and EVPORT (R309, R323, R444). -/
def Obligations.CompletionsAndEventsAreSentUntilAcknowledged : Prop :=
  ∀ (s : State) (q cseq ch n : Nat) (j : Job),
    let kept := (s.dev.chan ch).unacked.dropWhile (fun e => serialLater 32 (n % 2 ^ 32) (e.seq % 2 ^ 32))
    (q < nQueues → (j.done = true ∨ j.opcode ≠ 0x42) → s.dev.jobs.find? (fun j => j.queue == q && j.cseq == cseq && s.dev.jobReady j) = some j →
      s.dev.bb.queue.length < bbDepth → (s.dev.chan q).en = true → (s.dev.chan q).unacked.length < 64 → s.dev.sends = true →
      ∃ t e, exec (.commandComplete q cseq) s = .next t ∧ SameOutside s t ∧ t.dev.mem = s.dev.mem ∧ t.dev.jobs = s.dev.jobs.erase j ∧
        (t.dev.chan q).unacked = (s.dev.chan q).unacked ++ [e] ∧ (t.dev.chan q).next = (s.dev.chan q).next + 1 ∧
        e.code = 0x0901 ∧ e.seq = (s.dev.chan q).next ∧ e.words.getD 1 0 = j.status * 2 ^ 16 + j.opcode ∧ e.words.getD 2 0 = j.cseq) ∧
    (ch < nChans → s.dev.listens = true → (s.dev.chan ch).lost = 0 →
      ∃ t, exec (.eventAcknowledgement ch n) s = .next t ∧ SameOutside s t ∧ t.dev.mem = s.dev.mem ∧ Sends s t [] ∧
        t.dev.chan ch = { s.dev.chan ch with unacked := kept } ∧ ∀ k, k ≠ ch → t.dev.chan k = s.dev.chan k) ∧
    (ch < nChans → s.dev.listens = true → (s.dev.chan ch).lost ≠ 0 → (s.dev.chan ch).en = true → kept.length < 64 →
      ∃ t e, exec (.eventAcknowledgement ch n) s = .next t ∧ SameOutside s t ∧ t.dev.mem = s.dev.mem ∧
        (t.dev.chan ch).unacked = kept ++ [e] ∧ (t.dev.chan ch).lost = 0 ∧ e.code = 0x0903 ∧ e.words.getD 5 0 = (s.dev.chan ch).lost ∧
        ∀ k, k ≠ ch → t.dev.chan k = s.dev.chan k) ∧
    (ch < nChans → (s.dev.chan ch).en = true → s.dev.sends = true →
      ∃ t, exec (.eventResend ch) s = .next t ∧ SameOutside s t ∧ SameBut t.dev s.dev ∧ t.dev.queues = s.dev.queues ∧
        Sends s t ((s.dev.chan ch).unacked.map (fun e => .event ch e.seq e.code e.words (modCode s.dev.brd.state) e.step e.phase e.epoch
          (s.dev.ipHdr 1 6 (s.dev.chan ch).dst) (s.dev.chan ch).port)))

/-- IDENT, ECHO, PREAD, PWRITE and PSWAP of one key, and PARAMETER_WRITE: what they answer and what a write does (R17, R312, R319, R320). -/
def Sys2Proof.Machine.Claims.ParametersAreReadAndWritten : Prop :=
  ∀ (s : State) (q k : Nat) (v : Word32) (c : Cmd), k < 2 ^ 32 →
    (itsTurn s q 0x01 c → ∃ t, exec (.ident q) s = .next t ∧ OnlyReply s t q ∧ Answered s t q c 0
      (toLe 4 (modCode s.dev.brd.state) ++ toLe 4 Config.serial.toNat ++ toLe 4 (Config.serial.toNat / 2 ^ 32) ++
        toLe 4 (fwVersion s.nv s.dev) ++ toLe 4 (s.dev.brd.spop % 16 * 2 ^ 16 + s.dev.brd.dpop % 2 ^ 16))) ∧
    (itsTurn s q 0x02 c → ∃ t, exec (.echo q) s = .next t ∧ OnlyReply s t q ∧ Answered s t q c 0 c.payload) ∧
    (itsTurn s q 0x10 c → c.payload = toLe 4 k → k ≠ tmloKey →
      (∀ o, objAt s.nv (served s q) k 0 = some o → ∃ t, exec (.pread q) s = .next t ∧ OnlyReply s t q ∧ Answered s t q c 0 (toLe 4 (o.val % 2 ^ 32))) ∧
      (objAt s.nv (served s q) k 0 = none → ∃ t, exec (.pread q) s = .next t ∧ OnlyReply s t q ∧ Answered s t q c 0x0006 [])) ∧
    (itsTurn s q 0x11 c → c.payload = toLe 4 k ++ toLe 4 v.toNat →
      let w := paramWrite s.nv (served s q) k v.toNat
      ∃ t, exec (.pwrite q) s = .next t ∧ SameOutside s t ∧ SameBut t.dev w.2 ∧
        Answered s t q c w.1 (toLe 4 (if w.1 = 0 then 1 else 0) ++ toLe 4 w.1)) ∧
    (itsTurn s q 0x12 c → c.payload = toLe 4 k ++ toLe 4 v.toNat → k ≠ tmloKey → ∀ o, objAt s.nv (served s q) k 0 = some o →
      let w := paramWrite s.nv (served s q) k v.toNat
      w.1 = 0 →
      ∃ t, exec (.pswap q) s = .next t ∧ SameOutside s t ∧ SameBut t.dev w.2 ∧
        Answered s t q c 0 (toLe 4 1 ++ toLe 4 0 ++ toLe 4 (o.val % 2 ^ 32))) ∧
    (∀ o, objAt s.nv s.dev k v.toNat = some o →
      (v.toNat &&& o.resv ≠ 0 ∨ o.busy = true ∨ o.bad = true → exec (.parameterWrite k v) s = .next s) ∧
      (v.toNat &&& o.resv = 0 → o.busy = false → o.bad = false →
        exec (.parameterWrite k v) s = .next { s with dev := o.write s.dev }))

/-- FTCMT and PTCMT put the staged words into the selected entry, and the peers whose ports on network A are then all down move to network
B; MODE changes while no partition holds an image, and not while one does; CEN = 0 takes a cage's power (R295, R298, R299, R302, R328,
R442). -/
def Sys2Proof.Machine.Claims.CommitsModeAndCageWrites : Prop :=
  ∀ (s : State) (v : Word32) (k : Nat),
    (∃ t, exec (.ftcmt v) s = .next t ∧ SameOutside s t ∧ t.dev.mem = s.dev.mem ∧ t.dev.cores = s.dev.cores ∧
      t.dev.tiers = s.dev.tiers ∧ t.dev.fab.ftw = [] ∧ (s.dev.fab.peers = [] → { t.dev with fab := s.dev.fab } = s.dev) ∧
      (∀ j, j < 8 → (Store.get [] t.dev.fab.fwd s.dev.fab.ftsel).getD j 0 =
        if Store.get unstaged s.dev.fab.ftw j = unstaged then (Store.get [] s.dev.fab.fwd s.dev.fab.ftsel).getD j 0
        else Store.get unstaged s.dev.fab.ftw j) ∧
      ∀ n, n ≠ s.dev.fab.ftsel → Store.get [] t.dev.fab.fwd n = Store.get [] s.dev.fab.fwd n) ∧
    (∃ t, exec (.ptcmt v) s = .next t ∧ SameOutside s t ∧ t.dev.mem = s.dev.mem ∧ t.dev.cores = s.dev.cores ∧
      t.dev.tiers = s.dev.tiers ∧ t.dev.fab.ptw = [] ∧
      (Store.get unstaged s.dev.fab.ptw 0 ≠ unstaged →
        (Store.get {} t.dev.fab.peers s.dev.fab.ptsel).valid = bit (Store.get unstaged s.dev.fab.ptw 0) 31) ∧
      ∀ n, n ≠ s.dev.fab.ptsel → let a := Store.get {} t.dev.fab.peers n; let b := Store.get {} s.dev.fab.peers n
        { a with onb := b.onb, heardA := b.heardA } = b ∧
        (b.onb = false → a.onb = true → b.valid = true ∧ t.dev.fab.netA.fov = true ∧ b.addrB ≠ 0)) ∧
    (v.toNat < 2 → s.dev.anyImage = false →
      ∃ t, exec (.pcfgModeWrite v) s = .next t ∧ SameOutside s t ∧ t.dev.mem = s.dev.mem ∧ t.dev.cores = s.dev.cores ∧
        t.dev.brd.pcfgMode = bit v.toNat 0) ∧
    (s.dev.anyImage = true → exec (.pcfgModeWrite v) s = .next s) ∧
    (k < nCages → v.toNat &&& (mask 31 16 + mask 7 4) = 0 → bit v.toNat 1 = false →
      ∃ t, exec (.cenWrite k v) s = .next t ∧ SameOutside s t ∧ t.dev.mem = s.dev.mem ∧ (t.dev.cage k).cen = false ∧
        (t.dev.cage k).powered = false ∧ (t.dev.port k).up = false ∧ ∀ n, n ≠ k → t.dev.cage n = s.dev.cage n)

/-- IDENT, ECHO, PREAD, PWRITE, PSWAP, PARAMETER_WRITE, FTCMT, PTCMT, PCFG_MODE_WRITE and CEN_WRITE. -/
def Obligations.ParametersCommitsAndModes : Prop := ParametersAreReadAndWritten ∧ CommitsModeAndCageWrites

/-- QBIND, QRESET, CTXSET, ACCTREAD and BBREAD (R307, R308, R323, R333, R342,
R425). -/
def Obligations.QueuesContextsAndRecordsAreServed : Prop :=
  ∀ (s : State) (q b : Nat) (c : Cmd),
    (itsTurn s q 0x20 c → b = qbQueue c.payload → b ≠ 0 → qbUnbind c.payload = false →
      (s.dev.brd.pcfgMode = false ∨ b / 16 = qbPart c.payload) → (s.dev.queue b).bound = false →
      ∃ t, exec (.qbind q) s = .next t ∧ SameOutside s t ∧ t.dev.mem = s.dev.mem ∧ Answered s t q c 0 [] ∧
        (t.dev.queue b).bound = true ∧ (t.dev.queue b).part = qbPart c.payload ∧ (t.dev.queue b).ctx = qbCtx c.payload ∧
        (t.dev.queue b).binder = c.src ∧ (t.dev.chan b).en = true) ∧
    (itsTurn s q 0x20 c → b = qbQueue c.payload → b ≠ 0 → qbUnbind c.payload = false →
      (s.dev.brd.pcfgMode = false ∨ b / 16 = qbPart c.payload) → (s.dev.queue b).bound = true →
      ∃ t, exec (.qbind q) s = .next t ∧ OnlyReply s t q ∧ Answered s t q c 0x0007 []) ∧
    (itsTurn s q 0x20 c → b = qbQueue c.payload → b ≠ 0 → b ≠ q → qbUnbind c.payload = true → (s.dev.queue b).bound = true →
      (s.dev.queue b).part = qbPart c.payload →
      ∃ t, exec (.qbind q) s = .next t ∧ SameOutside s t ∧ t.dev.mem = s.dev.mem ∧ Answered s t q c 0 [] ∧
        (t.dev.queue b).bound = false ∧ (t.dev.queue b).next = 0 ∧ (t.dev.queue b).heldc = [] ∧ (t.dev.queue b).cache = [] ∧
        t.dev.chan b = { s.dev.chan b with en := false, unacked := [] }) ∧
    (itsTurn s q 0x21 c → b = qbQueue c.payload → b ≠ q →
      ∃ t, exec (.qreset q) s = .next t ∧ SameOutside s t ∧ t.dev.mem = s.dev.mem ∧ Answered s t q c 0 [] ∧
        t.dev.queue b = { s.dev.queue b with next := 0, heldc := [], cache := [] }) ∧
    (itsTurn s q 0xB0 c → b = bits (wordAt c.payload 0) 4 0 → (s.dev.part (s.dev.partOfCtx b)).image.isSome = true →
      (s.dev.ctx b).inMap = true →
      ∃ t, exec (.ctxset q) s = .next t ∧ SameOutside s t ∧ t.dev.mem = s.dev.mem ∧ Answered s t q c 0 [] ∧
        t.dev.ctx b = { s.dev.ctx b with nextRun := some (bit (wordAt c.payload 4) 1, bit (wordAt c.payload 4) 0) } ∧
        ∀ k, k ≠ b → t.dev.ctx k = s.dev.ctx k) ∧
    (itsTurn s q 0xB1 c → b = bits (wordAt c.payload 0) 4 0 → (s.dev.part (s.dev.partOfCtx b)).image.isSome = true →
      (s.dev.ctx b).inMap = true → s.dev.hasKey 3 b = false →
      ∃ t, exec (.acctread q) s = .next t ∧ OnlyReply s t q ∧ Answered s t q c 0 (s.dev.acctRecord b) ∧
        (s.dev.acctRecord b).length = 128) ∧
    (itsTurn s q 0x80 c → c.payload = toLe 4 b ++ toLe 4 1 → b < 2 ^ 32 →
      ∃ t, exec (.bbread q) s = .next t ∧ OnlyReply s t q ∧ Answered s t q c 0
        (match s.dev.bb.recs.find? (fun r => r.seq % 2 ^ 32 == b) with
         | some r => r.bytes
         | none => List.replicate 256 0#8))

/-- MEMREAD, MEMWRITE and PLACE: a read answers the bytes, a write changes exactly its bytes, an unmapped range is 0x000C with every byte
as it was, PLACE to a super pins the page and queues its move (R192, R204, R313, R314). -/
def Obligations.HostsReadWriteAndPlaceMemory : Prop :=
  ∀ (s : State) (q : Nat) (c : Cmd),
    let x := mrCtx c.payload
    let a := mrAddr c.payload
    let n := wordAt c.payload 12
    let bs := c.payload.drop 12
    (itsTurn s q 0x30 c → s.dev.hostRead x a n = true → crossesPage a n = false → s.dev.hasKey 3 x = false →
      ∃ t, exec (.memread q) s = .next t ∧ SameOutside s t ∧ t.dev.mem = s.dev.mem ∧ Answered s t q c 0 (s.dev.memRead a n)) ∧
    (itsTurn s q 0x30 c → s.dev.hostRead x a n = false →
      ∃ t, exec (.memread q) s = .next t ∧ OnlyReply s t q ∧ Answered s t q c 0x000C []) ∧
    (itsTurn s q 0x31 c → s.dev.hostWrite x a bs.length = true → crossesPage a bs.length = false → s.dev.hasKey 3 x = false →
      noWindows s.dev = true →
      ∃ t, exec (.memwrite q) s = .next t ∧ SameOutside s t ∧ t.dev.cores = s.dev.cores ∧ Answered s t q c 0 [] ∧
        ∀ z, t.dev.memByte z = if a ≤ z ∧ z < a + bs.length then bs.getD (z - a) 0#8 else s.dev.memByte z) ∧
    (itsTurn s q 0x31 c → s.dev.hostWrite x a bs.length = false → s.dev.hasKey 3 x = false →
      ∃ t, exec (.memwrite q) s = .next t ∧ OnlyReply s t q ∧ Answered s t q c 0x000C []) ∧
    (itsTurn s q 0x32 c → plAct c.payload = 1 → plCount c.payload = 1 → (s.dev.queue q).pos = 0 → s.dev.placeBad c.payload = false →
      s.dev.moveSpace = true → (s.dev.ctx (plCtx c.payload)).pins.contains (plPage c.payload) = false →
      (s.dev.tm (plPage c.payload)).valid = true →
      ((s.dev.tm (plPage c.payload)).dev ≠ plTgt c.payload ∨ (s.dev.tm (plPage c.payload)).mst ≠ 0) →
      ∃ t, exec (.place q) s = .next t ∧ SameOutside s t ∧ t.dev.mem = s.dev.mem ∧ Answered s t q c 0 [] ∧
        (t.dev.ctx (plCtx c.payload)).pins = (s.dev.ctx (plCtx c.payload)).pins ++ [plPage c.payload] ∧
        t.dev.tm (plPage c.payload) = { s.dev.tm (plPage c.payload) with pin := (s.dev.tm (plPage c.payload)).pin + 1 } ∧
        t.dev.tiers.queue = s.dev.tiers.queue ++ [{ page := plPage c.payload, dev := plTgt c.payload, ctx := some (plCtx c.payload) }])

/-- LBEGIN opens a session with the header, LDATA stages its bytes, LCOMMIT is accepted once, and as its job completes the image that
passes every check is installed and one that fails a check is not, with that check's status in the event; UNLOAD removes the image (R309,
R310, R326). -/
def Obligations.ImagesAreStagedInstalledAndUnloaded : Prop :=
  ∀ (s : State) (q cseq : Nat) (c : Cmd) (l : LoadSession) (j : Job), let p := wordAt c.payload 0
    (itsTurn s q 0x40 c → s.dev.locked p = false → (s.dev.part p).image = none →
      headerOk s.dev (fwVersion s.nv s.dev / 2 ^ 24) (slice c.payload 4 128) = true →
      ∃ t, exec (.lbegin q) s = .next t ∧ SameOutside s t ∧ t.dev.mem = s.dev.mem ∧ Answered s t q c 0 [] ∧
        (t.dev.part p).load = some { queue := q, header := slice c.payload 4 128 }) ∧
    (itsTurn s q 0x41 c → (s.dev.part p).load = some l → l.queue = q → l.commit = false →
      wordAt c.payload 4 + (c.payload.drop 8).length ≤ hdImglen l.header →
      ∃ t m, exec (.ldata q) s = .next t ∧ SameOutside s t ∧ t.dev.mem = s.dev.mem ∧ Answered s t q c 0 [] ∧
        (t.dev.part p).load = some { l with staging := m } ∧
        ∀ z, Store.get 0#8 m z = if wordAt c.payload 4 ≤ z ∧ z < wordAt c.payload 4 + (c.payload.drop 8).length
          then (c.payload.drop 8).getD (z - wordAt c.payload 4) 0#8 else Store.get 0#8 l.staging z) ∧
    (itsTurn s q 0x42 c → (s.dev.part p).load = some l → l.queue = q →
      (l.commit = false →
        ∃ t, exec (.lcommit q) s = .next t ∧ SameOutside s t ∧ t.dev.mem = s.dev.mem ∧ t.dev.cores = s.dev.cores ∧ Accepted s t q c ∧
          t.dev.part p = { s.dev.part p with load := some { l with commit := true } } ∧
          (t.dev.jobs.getLast?.map (·.done)) = some false ∧ t.dev.locked p = true) ∧
      (l.commit = true → ∃ t, exec (.lcommit q) s = .next t ∧ OnlyReply s t q ∧ Answered s t q c 0x0007 [])) ∧
    (q < nQueues → s.dev.jobs.find? (fun j => j.queue == q && j.cseq == cseq && s.dev.jobReady j) = some j → j.done = false →
      j.opcode = 0x42 → (s.dev.part j.part).load = some l → s.dev.bb.queue.length < bbDepth → (s.dev.chan q).en = true →
      (s.dev.chan q).unacked.length < 64 → s.dev.sends = true →
      let d := { s.dev with jobs := s.dev.jobs.erase j }
      let k : LoadJob := ⟨d, j.part, l.header, (List.range (hdNsec l.header)).map (d.secEnt l.header l.staging)⟩
      (∀ e, k.firstFailure = some e →
        ∃ t v, exec (.commandComplete q cseq) s = .next t ∧ SameOutside s t ∧ t.dev.mem = s.dev.mem ∧
          (t.dev.part j.part).load = none ∧ (t.dev.part j.part).image = (s.dev.part j.part).image ∧
          (t.dev.chan q).unacked = (s.dev.chan q).unacked ++ [v] ∧ v.code = 0x0901 ∧ v.words.getD 1 0 = e.status * 2 ^ 16 + 0x42) ∧
      (k.firstFailure = none →
        ∃ t v i, exec (.commandComplete q cseq) s = .next t ∧ SameOutside s t ∧ (t.dev.part j.part).load = none ∧
          (t.dev.part j.part).image = some i ∧ i.header = l.header ∧ (t.dev.part j.part).started = false ∧
          (t.dev.part j.part).beat = 0 ∧
          (t.dev.chan q).unacked = (s.dev.chan q).unacked ++ [v] ∧ v.code = 0x0901 ∧ v.words.getD 1 0 = 0x42)) ∧
    (itsTurn s q 0x43 c → (s.dev.part p).load = none → s.dev.locked p = false → (s.dev.part p).image.isSome = true →
      ∃ t, exec (.unload q) s = .next t ∧ SameOutside s t ∧ Answered s t q c 0 [] ∧ (t.dev.part p).image = none ∧
        (t.dev.part p).started = false)

/-- START begins the job with its seed, first step and epoch and version s0 − 1 capped; CAP takes exactly the next step, once this
module has sent step-done for it without OVFL; STEPPARAM records the parameters of a step not begun; SNAPSHOT sends the retained
version's shard (R315 to R318). -/
def Obligations.JobsStartCapAndSnapshot : Prop :=
  ∀ (s : State) (q : Nat) (c : Cmd), let p := wordAt c.payload 0
    let x := s.dev.part p
    (itsTurn s q 0x50 c → x.image.isSome = true → x.started = false → s.dev.locked p = false → s.dev.keyMissing p = false →
      x.badConfig = false → x.logPages ≤ s.dev.freeCount p 4 →
      ∃ t, exec (.start q) s = .next t ∧ SameOutside s t ∧ Accepted s t q c ∧ (t.dev.part p).started = true ∧
        (t.dev.part p).seed = leAt c.payload 4 8 ∧ (t.dev.part p).s0 = wordAt c.payload 12 ∧
        (t.dev.part p).epoch = wordAt c.payload 16 % 2 ^ 16 ∧ (t.dev.part p).beat = 0 ∧ (t.dev.part p).capped = (wordAt c.payload 12 + 2 ^ 32 - 1) % 2 ^ 32) ∧
    (itsTurn s q 0x51 c → x.started = true → wordAt c.payload 4 = (x.capped + 1) % 2 ^ 32 →
      (x.doneWith (wordAt c.payload 4) = true →
        ∃ t, exec (.cap q) s = .next t ∧ SameOutside s t ∧ t.dev.mem = s.dev.mem ∧ Answered s t q c 0 [] ∧
          (t.dev.part p).capped = wordAt c.payload 4) ∧
      (x.doneWith (wordAt c.payload 4) = false →
        ∃ t, exec (.cap q) s = .next t ∧ OnlyReply s t q ∧ Answered s t q c 0x000F [])) ∧
    (itsTurn s q 0x51 c → x.started = true → wordAt c.payload 4 ≠ (x.capped + 1) % 2 ^ 32 →
      ∃ t, exec (.cap q) s = .next t ∧ OnlyReply s t q ∧ Answered s t q c (if x.cappedTo (wordAt c.payload 4) then 0 else 0x0005) []) ∧
    (itsTurn s q 0x53 c → x.started = true → s.dev.newestStep p < wordAt c.payload 8 → x.replay = none →
      ∃ t, exec (.stepparam q) s = .next t ∧ SameOutside s t ∧ t.dev.mem = s.dev.mem ∧ Answered s t q c 0 [] ∧
        (t.dev.part p).params = x.params ++ paramsOf c.payload) ∧
    (itsTurn s q 0x53 c → x.started = true → wordAt c.payload 8 ≤ s.dev.newestStep p →
      ∃ t, exec (.stepparam q) s = .next t ∧ OnlyReply s t q ∧ Answered s t q c 0x0005 []) ∧
    (itsTurn s q 0x70 c → x.started = true → let k := wordAt c.payload 28 % 2 ^ 16
      keyidKind k = 3 → (s.dev.keyOf k).isSome = true → (s.dev.imgCtxs p).contains (keyidIx k) = true →
      s.dev.retains p (wordAt c.payload 4) = true →
      ∃ t a g, exec (.snapshot q) s = .next t ∧ SameOutside s t ∧ t.dev.mem = s.dev.mem ∧ Accepted s t q c ∧
        Tx.stream p (wordAt c.payload 4) a g k (s.dev.snapshotOf s.nv p (wordAt c.payload 4)).bytes (s.dev.partStamp p).step
          (s.dev.partStamp p).phase ∈ t.dev.tx)

/-- BASE, PTEST, REBUILD, REPLAY and DISCARD (R353, R356, R363 to R366). -/
def Obligations.BasesAreTestedRebuiltAndReplayed : Prop :=
  ∀ (s : State) (q : Nat) (c : Cmd) (fetched dig mir : List (List Byte)) (ch : List (Nat × Nat × List Byte)) (bist : List Nat)
    (b : BaseSlot), let p := wordAt c.payload 0
    let x := s.dev.part p
    (itsTurn s q 0x60 c → x.started = true → wordAt c.payload 4 % 2 ^ 16 ≠ 0 → s.dev.noBase p = false →
      x.slotsKept = true ∨ x.slotPages ≤ s.dev.freeCount p 4 →
      ∃ t, exec (.base q) s = .next t ∧ SameOutside s t ∧ t.dev.mem = s.dev.mem ∧ Accepted s t q c ∧
        (t.dev.part p).interval = wordAt c.payload 4 % 2 ^ 16 ∧ (t.dev.part p).slotsKept = true ∧
        (t.dev.part p).baseNow = (x.baseNow || bit (wordAt c.payload 8) 0) ∧
        (t.dev.part p).baseJobs = x.baseJobs ++ [(c.hdr.queue, c.hdr.seq)]) ∧
    (itsTurn s q 0x61 c → x.baseOld = some b → wordAt c.payload 4 < rcC x.rcfg → wordAt c.payload 4 ≠ 0xFFFFFFFF →
      let miss := ptestRegion x b (wordAt c.payload 4) (fetched.take (rcD x.rcfg * rcE x.rcfg))
      ∃ t, exec (.ptest q fetched) s = .next t ∧ SameOutside s t ∧ t.dev.mem = s.dev.mem ∧ Accepted s t q c ∧
        Store.get 0#32 (t.dev.part p).recCnt 21 = Store.get 0#32 x.recCnt 21 + BitVec.ofNat 32 miss.length ∧
        (t.dev.jobs.getLast?.map (·.detail)) = some ([0, miss.length] ++ b.listDigest)) ∧
    (itsTurn s q 0x61 c → x.baseOld = none →
      ∃ t, exec (.ptest q fetched) s = .next t ∧ OnlyReply s t q ∧ Answered s t q c 0x000E []) ∧
    (itsTurn s q 0x62 c → x.image.isSome = true → s.dev.locked p = false → wordAt c.payload 4 % 2 ^ 16 = x.rank → x.started = false →
      x.badConfig = false → s.dev.noBase p = false → x.logPages + x.slotPages ≤ s.dev.freeCount p 4 →
      let held := fun (j i : Nat) => (ch.find? (fun y => y.1 == j && y.2.1 == i)).map (·.2.2)
      (∃ t, exec (.rebuild q dig mir ch true) s = .next t ∧ SameOutside s t ∧ t.dev.mem = s.dev.mem ∧ Accepted s t q c ∧
        (t.dev.part p).started = false ∧ (t.dev.jobs.getLast?.map (·.detail)) = some [0x0B09, wordAt c.payload 8]) ∧
      (paritySources x.rcfg held = true → (rebuildShard x (wordAt c.payload 8) dig held).1 = 0 →
        ∃ t, exec (.rebuild q dig mir ch false) s = .next t ∧ SameOutside s t ∧ Accepted s t q c ∧ (t.dev.part p).started = true ∧
          (t.dev.part p).stopped = true ∧ (t.dev.part p).capped = wordAt c.payload 8 ∧
          (t.dev.part p).restored = some (wordAt c.payload 8))) ∧
    (itsTurn s q 0x63 c → x.image.isSome = true → x.started = true → s.dev.locked p = false →
      ∀ r n, x.restored = some n → wordAt c.payload 4 = (n + 1) % 2 ^ 32 → wordAt c.payload 4 ≤ wordAt c.payload 8 →
        (x.log.filter (fun r => lrType r == 4)).getLast? = some r → wordAt c.payload 8 ≤ lrStep r → x.base n = some b →
        wrongRun s.nv s.dev x b.header = false →
      ∃ t, exec (.replay q) s = .next t ∧ SameOutside s t ∧ Accepted s t q c ∧ (t.dev.part p).stopped = false ∧
        (t.dev.part p).replay = some { first := wordAt c.payload 4, upto := wordAt c.payload 8, queue := c.hdr.queue, cseq := c.hdr.seq }) ∧
    (itsTurn s q 0x52 c → x.started = true → s.dev.locked p = false → serialLater 16 (wordAt c.payload 4 % 2 ^ 16) x.epoch = true →
      x.stopped = true → x.ran = false → wordAt c.payload 8 = 0xFFFFFFFF → s.dev.brd.state = .ready →
      ∃ t, exec (.discard q bist) s = .next t ∧ SameOutside s t ∧ Accepted s t q c ∧ (t.dev.part p).stopped = false ∧
        (t.dev.part p).epoch = wordAt c.payload 4 % 2 ^ 16 ∧ (t.dev.part p).capped = x.capped) ∧
    (itsTurn s q 0x52 c → x.started = true → s.dev.locked p = false → serialLater 16 (wordAt c.payload 4 % 2 ^ 16) x.epoch = false →
      ∃ t, exec (.discard q bist) s = .next t ∧ OnlyReply s t q ∧ Answered s t q c 0x0005 [])

/-- CORE_RESET, FRAME_RESET, PARTITION_RESET and MODULE_RESET: what each leaves and counts (R343, R384 to R386, Tables 15-6 and 15-7). -/
def Obligations.ResetsLeaveTheirLevelClean : Prop :=
  ∀ (s : State) (q p : Nat) (c : Cmd) (bist : List Nat) (env : BringUpEnv),
    (itsTurn s q 0x90 c → rstLevel c.payload = 0 → (s.dev.part (s.dev.partOf (rstTarget c.payload))).started = false →
      ∃ t, exec (.coreReset q bist) s = .next t ∧ t.pending = s.pending ∧ t.nv = { s.nv with rstc := s.nv.rstc + 1 } ∧
        t.dev.mem = s.dev.mem ∧ Answered s t q c 0 [] ∧ t.dev.core (rstTarget c.payload) = (s.dev.core (rstTarget c.payload)).keep {} ∧
        ∀ n, n ≠ rstTarget c.payload → t.dev.core n = s.dev.core n) ∧
    (itsTurn s q 0x90 c → rstLevel c.payload = 1 → (s.dev.part ((s.dev.framePart (rstTarget c.payload)).getD 0)).started = false →
      ∃ t, exec (.frameReset q bist) s = .next t ∧ t.pending = s.pending ∧ t.nv = { s.nv with rstf := s.nv.rstf + 1 } ∧
        t.dev.mem = s.dev.mem ∧ Answered s t q c 0 [] ∧
        (∀ n, n / 16 = rstTarget c.payload → t.dev.core n = (s.dev.core n).keep {}) ∧
        ∀ n, n / 16 ≠ rstTarget c.payload → t.dev.core n = s.dev.core n) ∧
    (p < nParts → (s.dev.part p).resetDue = true → (s.dev.part p).unloadDue = false →
      ∃ t, exec (.partitionReset p bist) s = .next t ∧ t.pending = s.pending ∧ t.nv.rstp = s.nv.rstp + 1 ∧
        (t.dev.part p).resetDue = false ∧ (t.dev.part p).beat = 0 ∧ (t.dev.part p).load = none ∧ (t.dev.part p).replay = none ∧
        (t.dev.part p).stopped = (s.dev.part p).started ∧ (t.dev.part p).capped = (s.dev.part p).capped ∧
        (t.dev.part p).prstn = (s.dev.part p).prstn + 1 ∧
        ∀ n, n ∈ s.dev.partCores p → (t.dev.core n).tasks = [] ∧ (t.dev.core n).frec = none ∧ (t.dev.core n).lost = 0) ∧
    (itsTurn s q 0x90 c → rstLevel c.payload = 2 → rstTarget c.payload = p → p < nParts → (s.dev.part p).resetDue = false →
      (s.dev.locked p = true → ∃ t, exec (.partitionReset p bist) s = .next t ∧ OnlyReply s t q ∧ Answered s t q c 0x0007 []) ∧
      (s.dev.locked p = false →
        ∃ t, exec (.partitionReset p bist) s = .next t ∧ t.pending = s.pending ∧ t.nv.rstp = s.nv.rstp + 1 ∧ Answered s t q c 0 [] ∧
          (t.dev.part p).beat = 0 ∧ (t.dev.part p).stopped = (s.dev.part p).started ∧ (t.dev.part p).prstn = (s.dev.part p).prstn + 1)) ∧
    (itsTurn s q 0x90 c → rstLevel c.payload = 3 →
      ∃ t r, exec (.moduleReset q env) s = .next t ∧ t.pending = s.pending ∧ .reply r ∈ t.dev.tx ∧ r.status = 0 ∧ r.cseq = c.hdr.seq ∧
        t.nv.rstm = s.nv.rstm + 1 ∧ t.nv.bootn = s.nv.bootn + 1 ∧ t.dev.mem = [] ∧ t.dev.cores = [] ∧ t.dev.ctxs = [] ∧
        (t.dev.brd.state = .ready ∨ t.dev.brd.state = .degraded ∨ t.dev.brd.state = .minimal))

/-- ATTEST, KEYREL, OPERATOR_ENROLMENT and FWUPDATE: the report carries its number and the nonce, a release that a check fails installs
nothing and counts, one that passes takes its generation, enrolment ends OPEN for good, an update that passes starts (R380, R399, R400). -/
def Obligations.KeysReportsAndUpdates : Prop :=
  ∀ (s : State) (q : Nat) (c : Cmd),
    (itsTurn s q 0xA0 c →
      ∃ t pl, exec (.attest q) s = .next t ∧ SameOutside s t ∧ t.dev.mem = s.dev.mem ∧ Answered s t q c 0 pl ∧ pl.length = 824 ∧
        t.dev.sec.attseq = (s.dev.sec.attseq + 1) % 2 ^ 32 ∧ leAt pl 4 4 = t.dev.sec.attseq ∧ slice pl 24 32 = slice c.payload 0 32 ∧
        t.dev.sec.report.isSome = true) ∧
    (itsTurn s q 0xA1 c → krType c.payload ≠ 0 → krType c.payload ≤ 5 → keyrelFails s.nv s.dev c.payload ≠ 0 →
      ∀ i, i = (if krType c.payload = 5 then Instr.operatorEnrolment q else .keyrel q) →
      ∃ t, exec i s = .next t ∧ SameOutside s t ∧ t.dev.mem = s.dev.mem ∧ Answered s t q c 0x000B [] ∧
        t.dev.sec = { s.dev.sec with krefn := s.dev.sec.krefn + 1 }) ∧
    (itsTurn s q 0xA1 c → krType c.payload ≠ 0 → krType c.payload ≤ 4 → keyrelFails s.nv s.dev c.payload = 0 →
      ∃ t k, exec (.keyrel q) s = .next t ∧ SameOutside s t ∧ t.dev.mem = s.dev.mem ∧ Answered s t q c 0 [] ∧
        t.dev.key (typeKind (krType c.payload)) (if krType c.payload = 4 then 0 else krTarget c.payload) (krGen c.payload) = some k ∧
        k.astep = wordAt c.payload 8 ∧
        t.dev.sec.installed = s.dev.sec.installed ++ [(wordAt c.payload 4, krType c.payload, krTarget c.payload, krGen c.payload)]) ∧
    (itsTurn s q 0xA1 c → krType c.payload = 5 → keyrelFails s.nv s.dev c.payload = 0 →
      ∃ t, exec (.operatorEnrolment q) s = .next t ∧ t.pending = s.pending ∧ t.dev.mem = s.dev.mem ∧ Answered s t q c 0 [] ∧
        t.nv = { s.nv with opkdig := slice c.payload 72 32, opened := false }) ∧
    (itsTurn s q 0xA2 c →
      (updateFails s.nv s.dev c.payload = 0 →
        ∃ t w, exec (.fwupdate q) s = .next t ∧ SameOutside s t ∧ t.dev.mem = s.dev.mem ∧ Accepted s t q c ∧ t.dev.brd.ustate = 1 ∧
          t.dev.brd.update = some w ∧ w.manifest = slice c.payload 0 128 ∧ w.got = [] ∧ w.round = 0 ∧
          (mfGroup w.manifest) ∈ t.dev.fab.groups) ∧
      (updateFails s.nv s.dev c.payload ≠ 0 →
        ∃ t, exec (.fwupdate q) s = .next t ∧ OnlyReply s t q ∧ Answered s t q c (updateFails s.nv s.dev c.payload) []))

namespace Sys2Proof.Machine.Claims

/-- A boot in which every test passes, every core gets its firmware and the stored Burfa of the boot slot verifies. -/
def cleanBoot (nv : NonVol) (env : BringUpEnv) : Prop :=
  env.failed = [] ∧ env.deadFrames = [] ∧ env.combFail = [] ∧ env.superFail = [] ∧ env.deepFail = [] ∧ env.portFail = [] ∧
  env.superRows = [] ∧ env.deepRows = [] ∧ env.deepRetired = 0 ∧ env.chipFail = [] ∧ env.coreFwOk = true ∧ env.waggleFail = [] ∧
  slotOk nv env nv.bootSlot = true ∧ ∀ f, f < nFrames → 16 ≤ (goodPos nv.failed f).length

/-- Reset values of objects of the parameter space: key and value (Tables 6-5, 7-10, 7-14, 8-12, 11-12, 11-13, 12-11, 13-9, 14-8,
17-7, 18-12). -/
def resetTable : List (Nat × Nat) :=
  [(0x3C0009, 20), (0x180003, 8 * 256 + 32), (0x240001, 16), (0x240071, 16), (0x240101, 0x080A0A00), (0x240121, 0x080A0A00),
   (0x24010A, 0xBAC2), (0x24012A, 0xBAC2), (0x40204, 0x000ABAC2), (0x40424, 0x000ABAC2), (0x280000, 0), (0x280001, 4096),
   (0x2C0003, 0xFFFFFFFF), (0x2C0008, 25 * 65536 + 64), (0x380000, 0x108), (0x380300, 2), (0x38031C, 2), (0x148005, 0x15550000)]

/-- The packets of a message on a recovery channel: STEP, offset and bytes of each (R361). -/
def pieces (step off : Nat) (bs : List Byte) : List (Nat × Nat × List Byte) :=
  (List.range (max 1 (ceilDiv bs.length 8192))).map (fun k => (step % 2 ^ 32, (off + 8192 * k) % 2 ^ 32, (bs.drop (8192 * k)).take 8192))

/-- Partition p's recovery channel to rank n holds the packets of a message, in order, unacknowledged or not yet sent, unless it has
failed (R284, R361). -/
def Offers (d : Dev) (p n chan step off : Nat) (bs : List Byte) : Prop :=
  ∃ z a e, d.sendChan p (recIx chan n) = some z ∧
    (z.failed = true ∨ (z.sent ++ z.waiting).map (fun k => (k.hdr.step, k.hdr.tsw0, k.payload)) = a ++ pieces step off bs ++ e)

end Sys2Proof.Machine.Claims

/-- LOG_RECORD_RECEIPT and PARITY_CONTRIBUTION_RECEIPT: a predecessor's record joins its mirror, a DISCARD record cutting the RECORD
entries of later steps; bytes of a chunk of the own P row are added into it by XOR, those of the own Q row times α to the chunk's index
(R351, R352, R360). -/
def Sys2Proof.Machine.Claims.RecordsAndParityAreReceived : Prop :=
  ∀ (s : State) (p rank m step k off : Nat) (ws : List Nat) (bs : List Byte), p < nParts →
    ((s.dev.part p).started = true → (s.dev.part p).predecessors.contains rank = true → ws.length = 8 → (∀ w ∈ ws, w < 2 ^ 32) →
      ∃ t, exec (.logRecordReceipt p rank ws) s = .next t ∧ SameOutside s t ∧ { t.dev with parts := s.dev.parts } = s.dev ∧
        (lrType ws ≠ 5 → Store.get [] (t.dev.part p).mirror rank = Store.get [] (s.dev.part p).mirror rank ++ [ws]) ∧
        (lrType ws = 5 → Store.get [] (t.dev.part p).mirror rank =
          (Store.get [] (s.dev.part p).mirror rank).filter (fun e => !(lrType e == 2 && decide (lrStep ws < lrStep e))) ++ [ws]) ∧
        (t.dev.part p).log = (s.dev.part p).log ∧ ∀ r, r ≠ rank → Store.get [] (t.dev.part p).mirror r = Store.get [] (s.dev.part p).mirror r) ∧
    ((s.dev.part p).predecessors.contains rank = false → exec (.logRecordReceipt p rank ws) s = .next s) ∧
    (let x := s.dev.part p
     x.bst ≠ 0 → step = x.bbuild → m < rcGsize x.rcfg → k < rcD x.rcfg → off + bs.length ≤ rcC x.rcfg * gib →
      rcRow x.rcfg m k = rcPos x.rcfg → x.parityGot.contains (m, k) = false →
      ∃ t, exec (.parityContributionReceipt p m step k off bs) s = .next t ∧ SameOutside s t ∧
        { t.dev with parts := s.dev.parts } = s.dev ∧
        (∀ z, Store.get 0#8 (t.dev.part p).parity z = if off ≤ z ∧ z < off + bs.length
          then Store.get 0#8 x.parity z ^^^ bs.getD (z - off) 0#8 else Store.get 0#8 x.parity z) ∧
        (t.dev.part p).parityGot = if off + bs.length = rcC x.rcfg * gib then x.parityGot ++ [(m, k)] else x.parityGot) ∧
    (let x := s.dev.part p
     x.bst ≠ 0 → step = x.bbuild → m < rcGsize x.rcfg → k < rcD x.rcfg → off + bs.length ≤ rcC x.rcfg * gib → rcCode x.rcfg = 2 →
      rcRow x.rcfg m k ≠ rcPos x.rcfg → (rcRow x.rcfg m k + 1) % rcGsize x.rcfg = rcPos x.rcfg → x.parityGot.contains (m, k) = false →
      ∃ t, exec (.parityContributionReceipt p m step k off bs) s = .next t ∧ SameOutside s t ∧
        { t.dev with parts := s.dev.parts } = s.dev ∧
        ∀ z, Store.get 0#8 (t.dev.part p).parity z = if 2 ^ 40 + off ≤ z ∧ z < 2 ^ 40 + off + bs.length
          then Store.get 0#8 x.parity z ^^^ gfMul (gfPow k) (bs.getD (z - off - 2 ^ 40) 0#8) else Store.get 0#8 x.parity z)

/-- BASE_COPIED, BASE_COMPLETE and BASE_ABANDONMENT: the digest list goes to every successor and each chunk to the members that keep its
parity, and BST is 2; with every contribution held and every packet of this acknowledged BLAST is the base's step; an abandoned base is
gone, the last complete one stays and the other members are told (R359 to R362). -/
def Sys2Proof.Machine.Claims.BasesAreCopiedCompletedOrAbandoned : Prop :=
  ∀ (s : State) (p r : Nat) (b : BaseSlot), p < nParts → let x := s.dev.part p
    (x.baseNew = some b → x.bst = 1 →
      ∃ t c, exec (.baseCopied p) s = .next t ∧ SameOutside s t ∧ t.dev.mem = s.dev.mem ∧ (t.dev.part p).bst = 2 ∧
        (t.dev.part p).baseNew = some c ∧ c.step = b.step ∧ c.digests.length = rcBlen x.rcfg ∧ (t.dev.part p).basePins = [] ∧
        (t.dev.part p).blast = x.blast ∧ (∀ n ∈ x.successors, Offers t.dev p n 4066 b.step 0 c.digests.flatten) ∧
        ∀ k, k < rcD x.rcfg → let j := rcRow x.rcfg (rcPos x.rcfg) k
          let chunk := slice c.bytes (k * rcC x.rcfg * gib) (rcC x.rcfg * gib)
          Offers t.dev p (x.groupRank j) 4065 b.step 0 chunk ∧
          (rcCode x.rcfg = 2 → Offers t.dev p (x.groupRank ((j + 1) % max 1 (rcGsize x.rcfg))) 4065 b.step 0 chunk)) ∧
    (x.baseNew = some b → x.bst = 2 → (expected x.rcfg).all x.parityGot.contains = true → s.dev.recIdle p 4065 = true →
      s.dev.recIdle p 4066 = true →
      ∃ t, exec (.baseComplete p) s = .next t ∧ SameOutside s t ∧ t.dev.mem = s.dev.mem ∧ (t.dev.part p).bst = 0 ∧
        (t.dev.part p).blast = b.step ∧ (t.dev.part p).baseOld = some b ∧ (t.dev.part p).parityOld = x.parity) ∧
    (x.bst ≠ 0 → ∀ a, a = Abandoner.self ∨ (a = .member r ∧ x.others.contains r = true) →
      ∃ t, exec (.baseAbandonment p a) s = .next t ∧ SameOutside s t ∧ t.dev.mem = s.dev.mem ∧ (t.dev.part p).bst = 0 ∧
        (t.dev.part p).baseNew = none ∧ (t.dev.part p).blast = x.blast ∧ (t.dev.part p).baseOld = x.baseOld ∧
        ∀ n ∈ x.others, Offers t.dev p n 4065 x.bbuild 0xFFFFFFFF [])

/-- LOG_RECORD_RECEIPT, PARITY_CONTRIBUTION_RECEIPT, BASE_COPIED, BASE_COMPLETE and BASE_ABANDONMENT. -/
def Obligations.RecoveryRecordsParityAndBases : Prop := RecordsAndParityAreReceived ∧ BasesAreCopiedCompletedOrAbandoned

/-- ENABLE_ASSERT, BRING_UP_TIMEOUT, CORE_FAILURE, PARTITION_RESET_FAILURE and REPORT_KEY_EXPIRY: a clean boot ends Ready with the
rollback counter at the slot's value or above, a quick one in Minimal boot (R343, R371, R372, R376, R399, R405, R432, R436). -/
def Obligations.BringUpEndsAndFailuresAreTaken : Prop :=
  ∀ (s : State) (env : BringUpEnv) (n p : Nat),
    (s.dev.brd.enable = false → s.dev.brd.sb12 = true → s.dev.brd.state = .standby → s.dev.brd.ovHold = false →
      48000 ≤ s.dev.brd.vinMv → s.dev.brd.vinMv ≤ 58000 →
      (cleanBoot s.nv env → ∃ t, exec (.enableAssert false env) s = .next t ∧ t.pending = s.pending ∧ t.dev.brd.state = .ready ∧
        t.dev.brd.enable = true ∧ t.dev.mem = [] ∧ t.dev.cores = [] ∧ t.nv.rstm = s.nv.rstm + 1 ∧
        t.nv.rbc = max s.nv.rbc (s.nv.rbv s.nv.bootSlot) ∧ t.dev.brd.slot = s.nv.bootSlot) ∧
      (∃ t, exec (.enableAssert true env) s = .next t ∧ t.dev.brd.state = .minimal ∧ t.dev.brd.minb = true ∧ t.nv.rbc = s.nv.rbc)) ∧
    (s.dev.brd.enable = false → 59000 < s.dev.brd.vinMv →
      ∃ t, exec (.enableAssert false env) s = .next t ∧ SameOutside s t ∧ t.dev.brd.state = s.dev.brd.state ∧ t.dev.brd.ovlo = true ∧
        t.dev.brd.faultPin = true) ∧
    (s.dev.brd.enable = true → s.dev.up = false → s.dev.brd.state ≠ .minimal →
      ∃ t, exec .bringUpTimeout s = .next t ∧ SameOutside s t ∧ t.dev = { s.dev with brd := { s.dev.brd with faultPin := true } }) ∧
    (n < nCores → ∃ t, exec (.coreFailure n) s = .next t ∧ SameOutside s t ∧ t.dev.mem = s.dev.mem ∧ t.dev.cores = s.dev.cores ∧
      (t.dev.part (s.dev.partOf n)).resetDue = true ∧ n ∈ t.dev.brd.coreFail) ∧
    (p < nParts → s.dev.resetting p = true → (s.dev.part p).image.isSome = true →
      ∃ t, exec (.partitionResetFailure p) s = .next t ∧ SameOutside s t ∧ (t.dev.part p).image = none ∧ (t.dev.part p).resetDue = false) ∧
    (∃ t, exec .reportKeyExpiry s = .next t ∧ SameOutside s t ∧
      t.dev = { s.dev with sec := { s.dev.sec with report := none } })

/-- WAGGLE_CHUNK, MISSING_BITMAP_SEND and UPDATE_STAGED: a good chunk is staged, one of a wrong sender is discarded and one with a bad
CRC changes nothing; a round with missing chunks sends the bitmap, after round 3 the update fails; a complete bundle whose digests match
goes into the inactive slot, which becomes the boot slot (R381 to R383). -/
def Obligations.UpdatesAreStagedOrFail : Prop :=
  ∀ (s : State) (u : Update) (swid srank seq : Nat) (fin : Bool) (pl : List Byte), s.dev.brd.update = some u →
    (swid = mfSwid u.manifest → srank = mfSrank u.manifest → pl.length = 4100 → seq < mfChunks u.manifest →
      (Config.crc32c (pl.take 4096) = BitVec.ofNat 32 (wordAt pl 4096) →
        ∃ t v, exec (.waggleChunk swid srank seq (4096 * seq) fin pl) s = .next t ∧ SameOutside s t ∧ t.dev.mem = s.dev.mem ∧
          t.dev.brd.update = some v ∧ seq ∈ v.got ∧ v.manifest = u.manifest ∧ v.round = u.round ∧
          ∀ z, Store.get 0#8 v.staging z = if 4096 * seq ≤ z ∧ z < 4096 * seq + 4096 then pl.getD (z - 4096 * seq) 0#8
            else Store.get 0#8 u.staging z) ∧
      (Config.crc32c (pl.take 4096) ≠ BitVec.ofNat 32 (wordAt pl 4096) →
        exec (.waggleChunk swid srank seq (4096 * seq) fin pl) s = .next s)) ∧
    (swid ≠ mfSwid u.manifest → ∃ t, exec (.waggleChunk swid srank seq (4096 * seq) fin pl) s = .next t ∧ t.dev.brd = s.dev.brd ∧
      portCounter t.dev 4 8 = portCounter s.dev 4 8 + 1#32) ∧
    (let miss := (List.range (mfChunks u.manifest)).filter (fun k => !(u.got.contains k))
     miss ≠ [] →
      (u.round < 3 → ∃ t, exec .missingBitmapSend s = .next t ∧ SameOutside s t ∧ Sends s t [.bitmap u.round miss] ∧
        t.dev.brd.update = some { u with round := u.round + 1 } ∧ t.dev.brd.ustate = 2) ∧
      (3 ≤ u.round → ∃ t, exec .missingBitmapSend s = .next t ∧ SameOutside s t ∧ t.dev.brd.update = none ∧ t.dev.brd.ustate = 5)) ∧
    (mfChunks u.manifest ≤ u.got.length →
      let bytes := fun (off n : Nat) => (List.range n).map (fun i => Store.get 0#8 u.staging (off + i))
      (Config.shake256 (bytes 0 (mfBlen u.manifest)) = slice u.manifest 64 32 →
        Config.shake256 (bytes (mfCfoff u.manifest) (mfCflen u.manifest)) = slice u.manifest 96 32 →
        ∃ t, exec .updateStaged s = .next t ∧ t.pending = s.pending ∧ t.dev.brd.update = none ∧ t.dev.brd.ustate = 4 ∧
          t.nv.bootSlot = 1 - s.dev.brd.slot ∧ Store.get [] t.nv.slotManifest (1 - s.dev.brd.slot) = u.manifest ∧
          { t.nv with slotManifest := s.nv.slotManifest, bootSlot := s.nv.bootSlot } = s.nv) ∧
      (Config.shake256 (bytes 0 (mfBlen u.manifest)) ≠ slice u.manifest 64 32 →
        ∃ t, exec .updateStaged s = .next t ∧ SameOutside s t ∧ t.dev.brd.update = none ∧ t.dev.brd.ustate = 5))

/-- THERMAL_SAMPLE of a super, SUPER_POWER_DOWN, DEEP_POWER_DOWN, BLACK_BOX_RECORD_PROGRAMMED and POWER_LOSS: the third sample at the
threshold enters stage 1, the second at 105 °C trips the module, a lost reading is stage 2; a used super refuses self-refresh; the
oldest record is programmed; a power loss programs the record 0x0E09 last (R414, R417, R419, R420, R421, R423, R424). -/
def Obligations.HeatPowerDownAndTheBlackBox : Prop :=
  ∀ (s : State) (x : Nat) (v : Int) (f : Bool) (r : BbRecord) (rest : List BbRecord), x < Config.nSupers →
    (704 ≤ v → v < 760 → (s.dev.stageCnt (64 + x)).stage = 0 → (s.dev.stageCnt (64 + x)).badSensor = false →
      (s.dev.stageCnt (64 + x)).hot1 ≤ 2 →
      ∃ t, exec (.thermalSample (.super x) (some v)) s = .next t ∧ SameOutside s t ∧ t.dev.mem = s.dev.mem ∧
        (t.dev.sup x).stage = (if (s.dev.stageCnt (64 + x)).hot1 = 2 then 1 else 0) ∧ (t.dev.sup x).temp = BitVec.ofInt 16 v ∧
        (t.dev.stageCnt (64 + x)).hot1 = (s.dev.stageCnt (64 + x)).hot1 + 1) ∧
    (840 ≤ v → v ≤ 1200 → (s.dev.stageCnt (64 + x)).trip = 1 → s.dev.up = true →
      ∃ t, exec (.thermalSample (.super x) (some v)) s = .next t ∧ SameOutside s t ∧ t.dev.brd.state = .tripped ∧
        t.dev.brd.faultPin = true ∧ t.dev.mem = [] ∧ t.dev.cores = []) ∧
    (∃ t, exec (.thermalSample (.super x) none) s = .next t ∧ SameOutside s t ∧ t.dev.mem = s.dev.mem ∧ (t.dev.sup x).stage = 2 ∧
      (t.dev.stageCnt (64 + x)).badSensor = true) ∧
    ((s.dev.sup x).quiet = true → (f = true → s.dev.superUsed x = false) →
      ∃ t, exec (.superPowerDown x f) s = .next t ∧ SameOutside s t ∧ t.dev.mem = s.dev.mem ∧
        t.dev.sup x = { s.dev.sup x with pstate := if f then 2 else 1 }) ∧
    (s.dev.superUsed x = true → exec (.superPowerDown x true) s = .next s) ∧
    (∃ t, exec (.deepPowerDown false) s = .next t ∧ SameOutside s t ∧ t.dev = { s.dev with brd := { s.dev.brd with deepPstate := 1 } }) ∧
    (s.dev.bb.queue = r :: rest → s.dev.bb.waiting = [] →
      ∃ t, exec .blackBoxRecordProgrammed s = .next t ∧ SameOutside s t ∧ t.dev.mem = s.dev.mem ∧ t.dev.bb.queue = rest ∧
        t.dev.bb.recs.getLast? = some r ∧ ∀ y ∈ t.dev.bb.recs, y = r ∨ y ∈ s.dev.bb.recs) ∧
    (s.dev.powered = true → s.dev.brd.huok = true → s.dev.bb.queue.length < bbDepth → s.dev.bb.waiting = [] →
      ∃ t y, exec .powerLoss s = .next t ∧ SameOutside s t ∧ t.dev.mem = [] ∧
        t.dev.brd.state = (if s.dev.brd.sb12 then .standby else .off) ∧ t.dev.bb.recs.getLast? = some y ∧
        y.seq = s.dev.bb.nextSeq ∧ y.words.getD 5 0 / 2 ^ 16 = 0x0E09)

/-- ENABLE_DEASSERT, INPUT_OVERVOLTAGE, INPUT_LOW, INPUT_POWER_RETURN and the standby rail and hold-up commands (R24, R424, R432, R433,
R435, R436). -/
def Sys2Proof.Machine.Claims.InputAndRailsMoveTheModule : Prop :=
  ∀ (s : State) (mv : Nat) (env : BringUpEnv),
    (s.dev.brd.enable = true → s.dev.brd.sb12 = true →
      (s.dev.powered = true ∨ s.dev.brd.state = .tripped →
        ∃ t, exec .enableDeassert s = .next t ∧ SameOutside s t ∧ t.dev.brd.state = .standby ∧ t.dev.brd.enable = false ∧
          t.dev.brd.faultPin = false ∧ (s.dev.powered = true → t.dev.mem = []))) ∧
    (s.dev.brd.enable = false →
      ∃ t, exec .inputOvervoltage s = .next t ∧ SameOutside s t ∧ t.dev.brd.state = s.dev.brd.state ∧ t.dev.brd.ovlo = true ∧
        59000 < t.dev.brd.vinMv) ∧
    (s.dev.brd.enable = true → s.dev.powered = true →
      ∃ t, exec .inputOvervoltage s = .next t ∧ SameOutside s t ∧ t.dev.mem = [] ∧ t.dev.brd.ovlo = true ∧ t.dev.brd.faultPin = true ∧
        t.dev.brd.state = (if s.dev.brd.sb12 then .standby else .off)) ∧
    (45000 ≤ mv → mv < 48000 → ∃ t, exec (.inputLow mv) s = .next t ∧ SameOutside s t ∧ t.dev.mem = s.dev.mem ∧
      t.dev.cores = s.dev.cores ∧ t.dev.brd.vinMv = mv ∧ t.dev.brd.uvw = true) ∧
    (48000 ≤ mv → mv ≤ 59000 → s.dev.brd.enable = false → exec (.inputPowerReturn mv env) s =
      .next { s with dev := { s.dev with brd := { s.dev.brd with vinMv := mv, uvw := false } } }) ∧
    (s.dev.brd.sb12 = true →
      (s.dev.powered = true → ∃ t, exec .standbyRailLost s = .next t ∧ SameOutside s t ∧ t.dev.mem = s.dev.mem ∧
        t.dev.brd.state = s.dev.brd.state ∧ t.dev.brd.sb12 = false ∧ t.dev.brd.internalRail = true) ∧
      (s.dev.powered = false → ∃ t, exec .standbyRailLost s = .next t ∧ SameOutside s t ∧ t.dev.brd.state = .off ∧
        t.dev.brd.present = false)) ∧
    (s.dev.brd.state = .off → s.dev.brd.enable = false →
      ∃ t, exec (.standbyRailPresent env) s = .next t ∧ SameOutside s t ∧ t.dev.brd.state = .standby ∧ t.dev.brd.present = true) ∧
    (s.dev.brd.sb12 = true → exec .holdUpCharged s = .next { s with dev := { s.dev with brd := { s.dev.brd with huok := true } } })

/-- CAGE_OVERCURRENT, DEVICE_INSERTION and DEVICE_REMOVAL (R273, R438). -/
def Sys2Proof.Machine.Claims.CagesArePoweredAndCut : Prop :=
  ∀ (s : State) (k watts media : Nat), k < nCages →
    ((s.dev.cage k).powered = true →
      ∃ t, exec (.cageOvercurrent k) s = .next t ∧ SameOutside s t ∧ t.dev.mem = s.dev.mem ∧ (t.dev.port k).up = false ∧
        t.dev.cage k = { s.dev.cage k with oc := true, ocCut := true, powered := false } ∧ ∀ n, n ≠ k → t.dev.cage n = s.dev.cage n) ∧
    ((s.dev.cage k).prs = false → s.dev.up = true → (s.dev.cage k).cen = true → (s.dev.cage k).ocCut = false → watts ≤ 15 →
      media ≠ 0 → media < 4 → (s.dev.port k).up = false → (s.dev.port k).en = true → (s.dev.port k).dead = false →
      ∃ t, exec (.deviceInsertion k watts media true) s = .next t ∧ SameOutside s t ∧ t.dev.mem = s.dev.mem ∧
        (t.dev.cage k).prs = true ∧ (t.dev.cage k).powered = true ∧ (t.dev.cage k).padv = watts ∧ (t.dev.port k).up = true ∧
        (t.dev.port k).media = media) ∧
    ((s.dev.cage k).prs = false → 3 < media → (s.dev.port k).up = false →
      ∃ t, exec (.deviceInsertion k watts media true) s = .next t ∧ SameOutside s t ∧ (t.dev.cage k).prs = true ∧
        (t.dev.cage k).media = 0 ∧ (t.dev.port k).up = false) ∧
    ((s.dev.cage k).prs = false → (s.dev.cage k).cen = false →
      ∃ t, exec (.deviceInsertion k watts media true) s = .next t ∧ SameOutside s t ∧ (t.dev.cage k).prs = true ∧
        (t.dev.cage k).powered = (s.dev.cage k).powered ∧ t.dev.fab = s.dev.fab) ∧
    ((s.dev.cage k).prs = true →
      ∃ t, exec (.deviceRemoval k) s = .next t ∧ SameOutside s t ∧ t.dev.mem = s.dev.mem ∧ (t.dev.cage k).prs = false ∧
        (t.dev.cage k).powered = false ∧ (t.dev.port k).up = false)

/-- The input, the rails and the cages. -/
def Obligations.ElectricalEventsMoveTheModule : Prop := InputAndRailsMoveTheModule ∧ CagesArePoweredAndCut

/-- Every step keeps the unified range in its one canonical form: addresses strictly rising, no byte listed that an unlisted address
reads as. -/
def Obligations.MemoryStaysCanonical : Prop :=
  ∀ s t : State, Memory.wf s.dev.mem = true → step s = .next t → Memory.wf t.dev.mem = true

/-- The module right after reset: its memory is in its canonical form, no command waits, no operator is enrolled, and these objects of the
parameter space read their Reset columns. -/
def Obligations.ResetHoldsTheResetColumns : Prop :=
  Memory.wf State.reset.dev.mem = true ∧ State.reset.pending = [] ∧ State.reset.nv.rbc = 0 ∧ State.reset.nv.opened = true ∧
  ∀ y ∈ resetTable, (objAt State.reset.nv State.reset.dev y.1 0).map (·.val) = some y.2

/-- RBC lies from 0 to 255 and never falls; Ready with a Burfa whose RBV exceeds RBC burns fuses until RBC equals RBV and raises 0x0D05;
a slot whose RBV is below RBC does not boot, and when no slot qualifies the module enters Minimal boot (R405). -/
def Obligations.RollbackCounterOnlyRises : Prop :=
  (∀ s t : State, s.nv.rbc ≤ 255 → step s = .next t → s.nv.rbc ≤ t.nv.rbc ∧ t.nv.rbc ≤ 255) ∧
  (∀ (x : Mod) (fromP0 quick : Bool) (env : BringUpEnv), let y := boot x fromP0 quick env
    y.2.up = true → y.1.rbc ≤ y.1.rbv y.2.brd.slot ∧ x.1.rbc ≤ y.1.rbc ∧ (y.2.brd.state = .ready → y.1.rbc = y.1.rbv y.2.brd.slot ∧
      (x.1.rbc < y.1.rbc → (∃ r ∈ y.2.bb.queue, r.words.getD 5 0 / 2 ^ 16 = 0x0D05) ∨ ∃ r ∈ y.2.bb.waiting, r.code = 0x0D05))) ∧
  ∀ (s : State) (env : BringUpEnv), s.dev.brd.enable = false → s.dev.brd.sb12 = true → s.dev.brd.state = .standby →
    s.dev.brd.ovHold = false → 48000 ≤ s.dev.brd.vinMv → s.dev.brd.vinMv ≤ 58000 →
    (cleanBoot s.nv env → s.nv.rbc < s.nv.rbv s.nv.bootSlot →
      ∃ t r, exec (.enableAssert false env) s = .next t ∧ t.dev.brd.state = .ready ∧ t.nv.rbc = s.nv.rbv s.nv.bootSlot ∧
        r ∈ t.dev.bb.queue ∧ r.words.getD 5 0 / 2 ^ 16 = 0x0D05) ∧
    (slotOk s.nv env s.nv.bootSlot = false → slotOk s.nv env (1 - s.nv.bootSlot) = false →
      ∃ t, exec (.enableAssert false env) s = .next t ∧ t.dev.brd.state = .minimal ∧ t.nv.rbc = s.nv.rbc)
end

