-- ==== Sys2Proof/Laws/Store.lean ====
section
/-! SUPPORT. The laws of the sparse store: a read after a write, and that every write keeps the canonical form. -/

namespace Sys2Proof

variable {α : Type}

@[simp] theorem Store.get_nil (d : α) (k : Nat) : Store.get d [] k = d := rfl

theorem Store.get_erase_self (d : α) (m : Store α) (k : Nat) : Store.get d (Store.erase m k) k = d := by
  induction m with
  | nil => rfl
  | cons x r ih =>
    obtain ⟨j, v⟩ := x
    by_cases h : j = k
    · simp [Store.erase, h, ih]
    · simp [Store.erase, h, Store.get, ih]

theorem Store.get_erase_ne (d : α) (m : Store α) {k i : Nat} (h : i ≠ k) :
    Store.get d (Store.erase m k) i = Store.get d m i := by
  induction m with
  | nil => rfl
  | cons x r ih =>
    obtain ⟨j, v⟩ := x
    by_cases hj : j = k
    · simp [Store.erase, hj, Store.get, Ne.symm h, ih]
    · simp [Store.erase, hj, Store.get, ih]

theorem Store.get_insert_self (d : α) (m : Store α) (k : Nat) (v : α) : Store.get d (Store.insert m k v) k = v := by
  induction m with
  | nil => simp [Store.insert, Store.get]
  | cons x r ih =>
    obtain ⟨j, w⟩ := x
    by_cases h : k < j
    · simp [Store.insert, h, Store.get]
    · by_cases h' : j = k
      · simp [Store.insert, h', Store.get]
      · simp [Store.insert, h, h', Store.get, ih]

theorem Store.get_insert_ne (d : α) (m : Store α) {k i : Nat} (v : α) (hi : i ≠ k) :
    Store.get d (Store.insert m k v) i = Store.get d m i := by
  induction m with
  | nil => simp [Store.insert, Store.get, Ne.symm hi]
  | cons x r ih =>
    obtain ⟨j, w⟩ := x
    by_cases h : k < j
    · simp [Store.insert, h, Store.get, Ne.symm hi]
    · by_cases h' : j = k
      · simp [Store.insert, h', Store.get, Ne.symm hi]
      · simp [Store.insert, h, h', Store.get, ih]

variable [DecidableEq α]

/-- A read of what was just written. -/
@[simp] theorem Store.get_set_self (d : α) (m : Store α) (k : Nat) (v : α) : Store.get d (Store.set d m k v) k = v := by
  unfold Store.set
  split
  · rename_i h
    rw [h, Store.get_erase_self]
  · exact Store.get_insert_self d m k v

/-- A write leaves every other key alone. -/
theorem Store.get_set_ne (d : α) (m : Store α) {k i : Nat} (v : α) (h : i ≠ k) :
    Store.get d (Store.set d m k v) i = Store.get d m i := by
  unfold Store.set
  split
  · exact Store.get_erase_ne d m h
  · exact Store.get_insert_ne d m v h

theorem Store.wfFrom_mono (d : α) (m : Store α) {a b : Nat} (h : a ≤ b) (hw : Store.wfFrom d b m = true) :
    Store.wfFrom d a m = true := by
  cases m with
  | nil => rfl
  | cons x r =>
    simp only [Store.wfFrom, Bool.and_eq_true, decide_eq_true_eq] at hw ⊢
    exact ⟨⟨Nat.le_trans h hw.1.1, hw.1.2⟩, hw.2⟩

theorem Store.wfFrom_erase (d : α) (m : Store α) (lo k : Nat) (h : Store.wfFrom d lo m = true) :
    Store.wfFrom d lo (Store.erase m k) = true := by
  induction m generalizing lo with
  | nil => rfl
  | cons x r ih =>
    obtain ⟨j, v⟩ := x
    simp only [Store.wfFrom, Bool.and_eq_true, decide_eq_true_eq] at h
    by_cases hj : j = k
    · simp only [Store.erase, hj, if_true]
      exact Store.wfFrom_mono d _ (by omega) (ih (j + 1) h.2)
    · simp only [Store.erase, hj, if_false, Store.wfFrom, Bool.and_eq_true, decide_eq_true_eq]
      exact ⟨h.1, ih (j + 1) h.2⟩

theorem Store.wfFrom_insert (d : α) (m : Store α) (lo k : Nat) (v : α) (hv : v ≠ d) (hk : lo ≤ k)
    (h : Store.wfFrom d lo m = true) : Store.wfFrom d lo (Store.insert m k v) = true := by
  induction m generalizing lo with
  | nil => simp [Store.insert, Store.wfFrom, hv, hk]
  | cons x r ih =>
    obtain ⟨j, w⟩ := x
    simp only [Store.wfFrom, Bool.and_eq_true, decide_eq_true_eq] at h
    by_cases h1 : k < j
    · simp only [Store.insert, h1, if_true, Store.wfFrom, Bool.and_eq_true, decide_eq_true_eq]
      exact ⟨⟨hk, hv⟩, ⟨h1, h.1.2⟩, h.2⟩
    · by_cases h2 : j = k
      · simp only [Store.insert, h2, Nat.lt_irrefl, if_false, if_true, Store.wfFrom, Bool.and_eq_true, decide_eq_true_eq]
        exact ⟨⟨hk, hv⟩, h2 ▸ h.2⟩
      · simp only [Store.insert, h1, h2, if_false, Store.wfFrom, Bool.and_eq_true, decide_eq_true_eq]
        exact ⟨h.1, ih (j + 1) (by omega) h.2⟩

/-- A write keeps the canonical form. -/
theorem Store.wf_set (d : α) (m : Store α) (k : Nat) (v : α) (h : Store.wf d m = true) :
    Store.wf d (Store.set d m k v) = true := by
  unfold Store.set Store.wf at *
  split
  · exact Store.wfFrom_erase d m 0 k h
  · rename_i hv
    exact Store.wfFrom_insert d m 0 k v hv (Nat.zero_le k) h

/-- So does a sequence of writes. -/
theorem Store.wf_foldl_set {β : Type} (d : α) (key : β → Nat) (val : β → α) (l : List β) (m : Store α)
    (h : Store.wf d m = true) : Store.wf d (l.foldl (fun m x => Store.set d m (key x) (val x)) m) = true := by
  induction l generalizing m with
  | nil => exact h
  | cons x r ih => exact ih _ (Store.wf_set d m _ _ h)

/-- A sequence of writes leaves alone every key that it does not write. -/
theorem Store.get_foldl_set_ne {β : Type} (d : α) (key : β → Nat) (val : β → α) (l : List β) (m : Store α) (i : Nat)
    (h : ∀ x ∈ l, i ≠ key x) : Store.get d (l.foldl (fun m x => Store.set d m (key x) (val x)) m) i = Store.get d m i := by
  induction l generalizing m with
  | nil => rfl
  | cons x r ih =>
    simp only [List.foldl_cons]
    rw [ih _ (fun y hy => h y (List.mem_cons_of_mem _ hy)), Store.get_set_ne d m _ (h x List.mem_cons_self)]

end Sys2Proof
end

