-- ==== Sys2Proof/Laws/State.lean ====
section
/-! SUPPORT. One lemma per field per update of the state: what a write to one unit leaves alone, and what the written unit reads as. -/

namespace Sys2Proof.Machine
open Sys2Proof

/-! ## Updates of the device -/

@[simp] theorem Dev.setCore_core_self (d : Dev) (n : Nat) (c : Core) : (d.setCore n c).core n = c := by
  simp [Dev.setCore, Dev.core]

theorem Dev.setCore_core_ne (d : Dev) {n m : Nat} (c : Core) (h : m ≠ n) : (d.setCore n c).core m = d.core m := by
  simp [Dev.setCore, Dev.core, Store.get_set_ne _ _ _ h]

@[simp] theorem Dev.modCore_core_self (d : Dev) (n : Nat) (f : Core → Core) : (d.modCore n f).core n = f (d.core n) := by
  simp [Dev.modCore]

theorem Dev.modCore_core_ne (d : Dev) {n m : Nat} (f : Core → Core) (h : m ≠ n) : (d.modCore n f).core m = d.core m :=
  Dev.setCore_core_ne d _ h

@[simp] theorem Dev.setPart_part_self (d : Dev) (p : Nat) (x : Partition) : (d.setPart p x).part p = x := by
  simp [Dev.setPart, Dev.part]

theorem Dev.setPart_part_ne (d : Dev) {p q : Nat} (x : Partition) (h : q ≠ p) : (d.setPart p x).part q = d.part q := by
  simp [Dev.setPart, Dev.part, Store.get_set_ne _ _ _ h]

@[simp] theorem Dev.modPart_part_self (d : Dev) (p : Nat) (f : Partition → Partition) : (d.modPart p f).part p = f (d.part p) := by
  simp [Dev.modPart]

theorem Dev.modPart_part_ne (d : Dev) {p q : Nat} (f : Partition → Partition) (h : q ≠ p) : (d.modPart p f).part q = d.part q :=
  Dev.setPart_part_ne d _ h

@[simp] theorem Dev.modCtx_ctx_self (d : Dev) (c : Nat) (f : Context → Context) : (d.modCtx c f).ctx c = f (d.ctx c) := by
  simp [Dev.modCtx, Dev.setCtx, Dev.ctx]

theorem Dev.modCtx_ctx_ne (d : Dev) {c e : Nat} (f : Context → Context) (h : e ≠ c) : (d.modCtx c f).ctx e = d.ctx e := by
  simp [Dev.modCtx, Dev.setCtx, Dev.ctx, Store.get_set_ne _ _ _ h]

@[simp] theorem Dev.modSup_sup_self (d : Dev) (x : Nat) (f : Super → Super) : (d.modSup x f).sup x = f (d.sup x) := by
  simp [Dev.modSup, Dev.sup]

theorem Dev.modSup_sup_ne (d : Dev) {x y : Nat} (f : Super → Super) (h : y ≠ x) : (d.modSup x f).sup y = d.sup y := by
  simp [Dev.modSup, Dev.sup, Store.get_set_ne _ _ _ h]

@[simp] theorem Dev.modPort_port_self (d : Dev) (e : Nat) (f : Port → Port) : (d.modPort e f).port e = f (d.port e) := by
  simp [Dev.modPort, Dev.port]

theorem Dev.modPort_port_ne (d : Dev) {e k : Nat} (f : Port → Port) (h : k ≠ e) : (d.modPort e f).port k = d.port k := by
  simp [Dev.modPort, Dev.port, Store.get_set_ne _ _ _ h]

@[simp] theorem Dev.modQueue_queue_self (d : Dev) (q : Nat) (f : CmdQueue → CmdQueue) : (d.modQueue q f).queue q = f (d.queue q) := by
  simp [Dev.modQueue, Dev.queue]

theorem Dev.modQueue_queue_ne (d : Dev) {q r : Nat} (f : CmdQueue → CmdQueue) (h : r ≠ q) : (d.modQueue q f).queue r = d.queue r := by
  simp [Dev.modQueue, Dev.queue, Store.get_set_ne _ _ _ h]

@[simp] theorem Dev.modChan_chan_self (d : Dev) (e : Nat) (f : Channel → Channel) : (d.modChan e f).chan e = f (d.chan e) := by
  simp [Dev.modChan, Dev.chan]

theorem Dev.modChan_chan_ne (d : Dev) {e k : Nat} (f : Channel → Channel) (h : k ≠ e) : (d.modChan e f).chan k = d.chan k := by
  simp [Dev.modChan, Dev.chan, Store.get_set_ne _ _ _ h]

@[simp] theorem Dev.modFrame_frame_self (d : Dev) (i : Nat) (f : FrameSt → FrameSt) : (d.modFrame i f).frame i = f (d.frame i) := by
  simp [Dev.modFrame, Dev.frame]

theorem Dev.modFrame_frame_ne (d : Dev) {i j : Nat} (f : FrameSt → FrameSt) (h : j ≠ i) : (d.modFrame i f).frame j = d.frame j := by
  simp [Dev.modFrame, Dev.frame, Store.get_set_ne _ _ _ h]

@[simp] theorem Dev.modCage_cage_self (d : Dev) (k : Nat) (f : Cage → Cage) : (d.modCage k f).cage k = f (d.cage k) := by
  simp [Dev.modCage, Dev.cage]

theorem Dev.modCage_cage_ne (d : Dev) {k j : Nat} (f : Cage → Cage) (h : j ≠ k) : (d.modCage k f).cage j = d.cage j := by
  simp [Dev.modCage, Dev.cage, Store.get_set_ne _ _ _ h]

/-! ## What each update leaves alone: every other field -/

@[simp] theorem Dev.setCore_freeIx (d : Dev) (n : Nat) (c : Core) : (d.setCore n c).freeIx = d.freeIx := rfl
@[simp] theorem Dev.setCore_uidNext (d : Dev) (n : Nat) (c : Core) : (d.setCore n c).uidNext = d.uidNext := rfl
@[simp] theorem Dev.setCore_qserved (d : Dev) (n : Nat) (c : Core) : (d.setCore n c).qserved = d.qserved := rfl
@[simp] theorem Dev.setCore_parts (d : Dev) (n : Nat) (c : Core) : (d.setCore n c).parts = d.parts := rfl
@[simp] theorem Dev.setCore_ctxs (d : Dev) (n : Nat) (c : Core) : (d.setCore n c).ctxs = d.ctxs := rfl
@[simp] theorem Dev.setCore_mem (d : Dev) (n : Nat) (c : Core) : (d.setCore n c).mem = d.mem := rfl
@[simp] theorem Dev.setCore_memPoison (d : Dev) (n : Nat) (c : Core) : (d.setCore n c).memPoison = d.memPoison := rfl
@[simp] theorem Dev.setCore_tiers (d : Dev) (n : Nat) (c : Core) : (d.setCore n c).tiers = d.tiers := rfl
@[simp] theorem Dev.setCore_supers (d : Dev) (n : Nat) (c : Core) : (d.setCore n c).supers = d.supers := rfl
@[simp] theorem Dev.setCore_consts (d : Dev) (n : Nat) (c : Core) : (d.setCore n c).consts = d.consts := rfl
@[simp] theorem Dev.setCore_fstep (d : Dev) (n : Nat) (c : Core) : (d.setCore n c).fstep = d.fstep := rfl
@[simp] theorem Dev.setCore_fp (d : Dev) (n : Nat) (c : Core) : (d.setCore n c).fp = d.fp := rfl
@[simp] theorem Dev.setCore_fovfn (d : Dev) (n : Nat) (c : Core) : (d.setCore n c).fovfn = d.fovfn := rfl
@[simp] theorem Dev.setCore_fab (d : Dev) (n : Nat) (c : Core) : (d.setCore n c).fab = d.fab := rfl
@[simp] theorem Dev.setCore_queues (d : Dev) (n : Nat) (c : Core) : (d.setCore n c).queues = d.queues := rfl
@[simp] theorem Dev.setCore_chans (d : Dev) (n : Nat) (c : Core) : (d.setCore n c).chans = d.chans := rfl
@[simp] theorem Dev.setCore_jobs (d : Dev) (n : Nat) (c : Core) : (d.setCore n c).jobs = d.jobs := rfl
@[simp] theorem Dev.setCore_sec (d : Dev) (n : Nat) (c : Core) : (d.setCore n c).sec = d.sec := rfl
@[simp] theorem Dev.setCore_brd (d : Dev) (n : Nat) (c : Core) : (d.setCore n c).brd = d.brd := rfl
@[simp] theorem Dev.setCore_bb (d : Dev) (n : Nat) (c : Core) : (d.setCore n c).bb = d.bb := rfl
@[simp] theorem Dev.setCore_tx (d : Dev) (n : Nat) (c : Core) : (d.setCore n c).tx = d.tx := rfl
@[simp] theorem Dev.modCore_freeIx (d : Dev) (n : Nat) (f : Core → Core) : (d.modCore n f).freeIx = d.freeIx := rfl
@[simp] theorem Dev.modCore_uidNext (d : Dev) (n : Nat) (f : Core → Core) : (d.modCore n f).uidNext = d.uidNext := rfl
@[simp] theorem Dev.modCore_qserved (d : Dev) (n : Nat) (f : Core → Core) : (d.modCore n f).qserved = d.qserved := rfl
@[simp] theorem Dev.modCore_parts (d : Dev) (n : Nat) (f : Core → Core) : (d.modCore n f).parts = d.parts := rfl
@[simp] theorem Dev.modCore_ctxs (d : Dev) (n : Nat) (f : Core → Core) : (d.modCore n f).ctxs = d.ctxs := rfl
@[simp] theorem Dev.modCore_mem (d : Dev) (n : Nat) (f : Core → Core) : (d.modCore n f).mem = d.mem := rfl
@[simp] theorem Dev.modCore_memPoison (d : Dev) (n : Nat) (f : Core → Core) : (d.modCore n f).memPoison = d.memPoison := rfl
@[simp] theorem Dev.modCore_tiers (d : Dev) (n : Nat) (f : Core → Core) : (d.modCore n f).tiers = d.tiers := rfl
@[simp] theorem Dev.modCore_supers (d : Dev) (n : Nat) (f : Core → Core) : (d.modCore n f).supers = d.supers := rfl
@[simp] theorem Dev.modCore_consts (d : Dev) (n : Nat) (f : Core → Core) : (d.modCore n f).consts = d.consts := rfl
@[simp] theorem Dev.modCore_fstep (d : Dev) (n : Nat) (f : Core → Core) : (d.modCore n f).fstep = d.fstep := rfl
@[simp] theorem Dev.modCore_fp (d : Dev) (n : Nat) (f : Core → Core) : (d.modCore n f).fp = d.fp := rfl
@[simp] theorem Dev.modCore_fovfn (d : Dev) (n : Nat) (f : Core → Core) : (d.modCore n f).fovfn = d.fovfn := rfl
@[simp] theorem Dev.modCore_fab (d : Dev) (n : Nat) (f : Core → Core) : (d.modCore n f).fab = d.fab := rfl
@[simp] theorem Dev.modCore_queues (d : Dev) (n : Nat) (f : Core → Core) : (d.modCore n f).queues = d.queues := rfl
@[simp] theorem Dev.modCore_chans (d : Dev) (n : Nat) (f : Core → Core) : (d.modCore n f).chans = d.chans := rfl
@[simp] theorem Dev.modCore_jobs (d : Dev) (n : Nat) (f : Core → Core) : (d.modCore n f).jobs = d.jobs := rfl
@[simp] theorem Dev.modCore_sec (d : Dev) (n : Nat) (f : Core → Core) : (d.modCore n f).sec = d.sec := rfl
@[simp] theorem Dev.modCore_brd (d : Dev) (n : Nat) (f : Core → Core) : (d.modCore n f).brd = d.brd := rfl
@[simp] theorem Dev.modCore_bb (d : Dev) (n : Nat) (f : Core → Core) : (d.modCore n f).bb = d.bb := rfl
@[simp] theorem Dev.modCore_tx (d : Dev) (n : Nat) (f : Core → Core) : (d.modCore n f).tx = d.tx := rfl
@[simp] theorem Dev.setPart_freeIx (d : Dev) (p : Nat) (x : Partition) : (d.setPart p x).freeIx = d.freeIx := rfl
@[simp] theorem Dev.setPart_uidNext (d : Dev) (p : Nat) (x : Partition) : (d.setPart p x).uidNext = d.uidNext := rfl
@[simp] theorem Dev.setPart_qserved (d : Dev) (p : Nat) (x : Partition) : (d.setPart p x).qserved = d.qserved := rfl
@[simp] theorem Dev.setPart_cores (d : Dev) (p : Nat) (x : Partition) : (d.setPart p x).cores = d.cores := rfl
@[simp] theorem Dev.setPart_ctxs (d : Dev) (p : Nat) (x : Partition) : (d.setPart p x).ctxs = d.ctxs := rfl
@[simp] theorem Dev.setPart_mem (d : Dev) (p : Nat) (x : Partition) : (d.setPart p x).mem = d.mem := rfl
@[simp] theorem Dev.setPart_memPoison (d : Dev) (p : Nat) (x : Partition) : (d.setPart p x).memPoison = d.memPoison := rfl
@[simp] theorem Dev.setPart_tiers (d : Dev) (p : Nat) (x : Partition) : (d.setPart p x).tiers = d.tiers := rfl
@[simp] theorem Dev.setPart_supers (d : Dev) (p : Nat) (x : Partition) : (d.setPart p x).supers = d.supers := rfl
@[simp] theorem Dev.setPart_consts (d : Dev) (p : Nat) (x : Partition) : (d.setPart p x).consts = d.consts := rfl
@[simp] theorem Dev.setPart_fstep (d : Dev) (p : Nat) (x : Partition) : (d.setPart p x).fstep = d.fstep := rfl
@[simp] theorem Dev.setPart_fp (d : Dev) (p : Nat) (x : Partition) : (d.setPart p x).fp = d.fp := rfl
@[simp] theorem Dev.setPart_fovfn (d : Dev) (p : Nat) (x : Partition) : (d.setPart p x).fovfn = d.fovfn := rfl
@[simp] theorem Dev.setPart_fab (d : Dev) (p : Nat) (x : Partition) : (d.setPart p x).fab = d.fab := rfl
@[simp] theorem Dev.setPart_queues (d : Dev) (p : Nat) (x : Partition) : (d.setPart p x).queues = d.queues := rfl
@[simp] theorem Dev.setPart_chans (d : Dev) (p : Nat) (x : Partition) : (d.setPart p x).chans = d.chans := rfl
@[simp] theorem Dev.setPart_jobs (d : Dev) (p : Nat) (x : Partition) : (d.setPart p x).jobs = d.jobs := rfl
@[simp] theorem Dev.setPart_sec (d : Dev) (p : Nat) (x : Partition) : (d.setPart p x).sec = d.sec := rfl
@[simp] theorem Dev.setPart_brd (d : Dev) (p : Nat) (x : Partition) : (d.setPart p x).brd = d.brd := rfl
@[simp] theorem Dev.setPart_bb (d : Dev) (p : Nat) (x : Partition) : (d.setPart p x).bb = d.bb := rfl
@[simp] theorem Dev.setPart_tx (d : Dev) (p : Nat) (x : Partition) : (d.setPart p x).tx = d.tx := rfl
@[simp] theorem Dev.modPart_freeIx (d : Dev) (p : Nat) (f : Partition → Partition) : (d.modPart p f).freeIx = d.freeIx := rfl
@[simp] theorem Dev.modPart_uidNext (d : Dev) (p : Nat) (f : Partition → Partition) : (d.modPart p f).uidNext = d.uidNext := rfl
@[simp] theorem Dev.modPart_qserved (d : Dev) (p : Nat) (f : Partition → Partition) : (d.modPart p f).qserved = d.qserved := rfl
@[simp] theorem Dev.modPart_cores (d : Dev) (p : Nat) (f : Partition → Partition) : (d.modPart p f).cores = d.cores := rfl
@[simp] theorem Dev.modPart_ctxs (d : Dev) (p : Nat) (f : Partition → Partition) : (d.modPart p f).ctxs = d.ctxs := rfl
@[simp] theorem Dev.modPart_mem (d : Dev) (p : Nat) (f : Partition → Partition) : (d.modPart p f).mem = d.mem := rfl
@[simp] theorem Dev.modPart_memPoison (d : Dev) (p : Nat) (f : Partition → Partition) : (d.modPart p f).memPoison = d.memPoison := rfl
@[simp] theorem Dev.modPart_tiers (d : Dev) (p : Nat) (f : Partition → Partition) : (d.modPart p f).tiers = d.tiers := rfl
@[simp] theorem Dev.modPart_supers (d : Dev) (p : Nat) (f : Partition → Partition) : (d.modPart p f).supers = d.supers := rfl
@[simp] theorem Dev.modPart_consts (d : Dev) (p : Nat) (f : Partition → Partition) : (d.modPart p f).consts = d.consts := rfl
@[simp] theorem Dev.modPart_fstep (d : Dev) (p : Nat) (f : Partition → Partition) : (d.modPart p f).fstep = d.fstep := rfl
@[simp] theorem Dev.modPart_fp (d : Dev) (p : Nat) (f : Partition → Partition) : (d.modPart p f).fp = d.fp := rfl
@[simp] theorem Dev.modPart_fovfn (d : Dev) (p : Nat) (f : Partition → Partition) : (d.modPart p f).fovfn = d.fovfn := rfl
@[simp] theorem Dev.modPart_fab (d : Dev) (p : Nat) (f : Partition → Partition) : (d.modPart p f).fab = d.fab := rfl
@[simp] theorem Dev.modPart_queues (d : Dev) (p : Nat) (f : Partition → Partition) : (d.modPart p f).queues = d.queues := rfl
@[simp] theorem Dev.modPart_chans (d : Dev) (p : Nat) (f : Partition → Partition) : (d.modPart p f).chans = d.chans := rfl
@[simp] theorem Dev.modPart_jobs (d : Dev) (p : Nat) (f : Partition → Partition) : (d.modPart p f).jobs = d.jobs := rfl
@[simp] theorem Dev.modPart_sec (d : Dev) (p : Nat) (f : Partition → Partition) : (d.modPart p f).sec = d.sec := rfl
@[simp] theorem Dev.modPart_brd (d : Dev) (p : Nat) (f : Partition → Partition) : (d.modPart p f).brd = d.brd := rfl
@[simp] theorem Dev.modPart_bb (d : Dev) (p : Nat) (f : Partition → Partition) : (d.modPart p f).bb = d.bb := rfl
@[simp] theorem Dev.modPart_tx (d : Dev) (p : Nat) (f : Partition → Partition) : (d.modPart p f).tx = d.tx := rfl
@[simp] theorem Dev.modCtx_freeIx (d : Dev) (c : Nat) (f : Context → Context) : (d.modCtx c f).freeIx = d.freeIx := rfl
@[simp] theorem Dev.modCtx_uidNext (d : Dev) (c : Nat) (f : Context → Context) : (d.modCtx c f).uidNext = d.uidNext := rfl
@[simp] theorem Dev.modCtx_qserved (d : Dev) (c : Nat) (f : Context → Context) : (d.modCtx c f).qserved = d.qserved := rfl
@[simp] theorem Dev.modCtx_cores (d : Dev) (c : Nat) (f : Context → Context) : (d.modCtx c f).cores = d.cores := rfl
@[simp] theorem Dev.modCtx_parts (d : Dev) (c : Nat) (f : Context → Context) : (d.modCtx c f).parts = d.parts := rfl
@[simp] theorem Dev.modCtx_mem (d : Dev) (c : Nat) (f : Context → Context) : (d.modCtx c f).mem = d.mem := rfl
@[simp] theorem Dev.modCtx_memPoison (d : Dev) (c : Nat) (f : Context → Context) : (d.modCtx c f).memPoison = d.memPoison := rfl
@[simp] theorem Dev.modCtx_tiers (d : Dev) (c : Nat) (f : Context → Context) : (d.modCtx c f).tiers = d.tiers := rfl
@[simp] theorem Dev.modCtx_supers (d : Dev) (c : Nat) (f : Context → Context) : (d.modCtx c f).supers = d.supers := rfl
@[simp] theorem Dev.modCtx_consts (d : Dev) (c : Nat) (f : Context → Context) : (d.modCtx c f).consts = d.consts := rfl
@[simp] theorem Dev.modCtx_fstep (d : Dev) (c : Nat) (f : Context → Context) : (d.modCtx c f).fstep = d.fstep := rfl
@[simp] theorem Dev.modCtx_fp (d : Dev) (c : Nat) (f : Context → Context) : (d.modCtx c f).fp = d.fp := rfl
@[simp] theorem Dev.modCtx_fovfn (d : Dev) (c : Nat) (f : Context → Context) : (d.modCtx c f).fovfn = d.fovfn := rfl
@[simp] theorem Dev.modCtx_fab (d : Dev) (c : Nat) (f : Context → Context) : (d.modCtx c f).fab = d.fab := rfl
@[simp] theorem Dev.modCtx_queues (d : Dev) (c : Nat) (f : Context → Context) : (d.modCtx c f).queues = d.queues := rfl
@[simp] theorem Dev.modCtx_chans (d : Dev) (c : Nat) (f : Context → Context) : (d.modCtx c f).chans = d.chans := rfl
@[simp] theorem Dev.modCtx_jobs (d : Dev) (c : Nat) (f : Context → Context) : (d.modCtx c f).jobs = d.jobs := rfl
@[simp] theorem Dev.modCtx_sec (d : Dev) (c : Nat) (f : Context → Context) : (d.modCtx c f).sec = d.sec := rfl
@[simp] theorem Dev.modCtx_brd (d : Dev) (c : Nat) (f : Context → Context) : (d.modCtx c f).brd = d.brd := rfl
@[simp] theorem Dev.modCtx_bb (d : Dev) (c : Nat) (f : Context → Context) : (d.modCtx c f).bb = d.bb := rfl
@[simp] theorem Dev.modCtx_tx (d : Dev) (c : Nat) (f : Context → Context) : (d.modCtx c f).tx = d.tx := rfl
@[simp] theorem Dev.modSup_freeIx (d : Dev) (x : Nat) (f : Super → Super) : (d.modSup x f).freeIx = d.freeIx := rfl
@[simp] theorem Dev.modSup_uidNext (d : Dev) (x : Nat) (f : Super → Super) : (d.modSup x f).uidNext = d.uidNext := rfl
@[simp] theorem Dev.modSup_qserved (d : Dev) (x : Nat) (f : Super → Super) : (d.modSup x f).qserved = d.qserved := rfl
@[simp] theorem Dev.modSup_cores (d : Dev) (x : Nat) (f : Super → Super) : (d.modSup x f).cores = d.cores := rfl
@[simp] theorem Dev.modSup_parts (d : Dev) (x : Nat) (f : Super → Super) : (d.modSup x f).parts = d.parts := rfl
@[simp] theorem Dev.modSup_ctxs (d : Dev) (x : Nat) (f : Super → Super) : (d.modSup x f).ctxs = d.ctxs := rfl
@[simp] theorem Dev.modSup_mem (d : Dev) (x : Nat) (f : Super → Super) : (d.modSup x f).mem = d.mem := rfl
@[simp] theorem Dev.modSup_memPoison (d : Dev) (x : Nat) (f : Super → Super) : (d.modSup x f).memPoison = d.memPoison := rfl
@[simp] theorem Dev.modSup_tiers (d : Dev) (x : Nat) (f : Super → Super) : (d.modSup x f).tiers = d.tiers := rfl
@[simp] theorem Dev.modSup_consts (d : Dev) (x : Nat) (f : Super → Super) : (d.modSup x f).consts = d.consts := rfl
@[simp] theorem Dev.modSup_fstep (d : Dev) (x : Nat) (f : Super → Super) : (d.modSup x f).fstep = d.fstep := rfl
@[simp] theorem Dev.modSup_fp (d : Dev) (x : Nat) (f : Super → Super) : (d.modSup x f).fp = d.fp := rfl
@[simp] theorem Dev.modSup_fovfn (d : Dev) (x : Nat) (f : Super → Super) : (d.modSup x f).fovfn = d.fovfn := rfl
@[simp] theorem Dev.modSup_fab (d : Dev) (x : Nat) (f : Super → Super) : (d.modSup x f).fab = d.fab := rfl
@[simp] theorem Dev.modSup_queues (d : Dev) (x : Nat) (f : Super → Super) : (d.modSup x f).queues = d.queues := rfl
@[simp] theorem Dev.modSup_chans (d : Dev) (x : Nat) (f : Super → Super) : (d.modSup x f).chans = d.chans := rfl
@[simp] theorem Dev.modSup_jobs (d : Dev) (x : Nat) (f : Super → Super) : (d.modSup x f).jobs = d.jobs := rfl
@[simp] theorem Dev.modSup_sec (d : Dev) (x : Nat) (f : Super → Super) : (d.modSup x f).sec = d.sec := rfl
@[simp] theorem Dev.modSup_brd (d : Dev) (x : Nat) (f : Super → Super) : (d.modSup x f).brd = d.brd := rfl
@[simp] theorem Dev.modSup_bb (d : Dev) (x : Nat) (f : Super → Super) : (d.modSup x f).bb = d.bb := rfl
@[simp] theorem Dev.modSup_tx (d : Dev) (x : Nat) (f : Super → Super) : (d.modSup x f).tx = d.tx := rfl
@[simp] theorem Dev.modPort_freeIx (d : Dev) (e : Nat) (f : Port → Port) : (d.modPort e f).freeIx = d.freeIx := rfl
@[simp] theorem Dev.modPort_uidNext (d : Dev) (e : Nat) (f : Port → Port) : (d.modPort e f).uidNext = d.uidNext := rfl
@[simp] theorem Dev.modPort_qserved (d : Dev) (e : Nat) (f : Port → Port) : (d.modPort e f).qserved = d.qserved := rfl
@[simp] theorem Dev.modPort_cores (d : Dev) (e : Nat) (f : Port → Port) : (d.modPort e f).cores = d.cores := rfl
@[simp] theorem Dev.modPort_parts (d : Dev) (e : Nat) (f : Port → Port) : (d.modPort e f).parts = d.parts := rfl
@[simp] theorem Dev.modPort_ctxs (d : Dev) (e : Nat) (f : Port → Port) : (d.modPort e f).ctxs = d.ctxs := rfl
@[simp] theorem Dev.modPort_mem (d : Dev) (e : Nat) (f : Port → Port) : (d.modPort e f).mem = d.mem := rfl
@[simp] theorem Dev.modPort_memPoison (d : Dev) (e : Nat) (f : Port → Port) : (d.modPort e f).memPoison = d.memPoison := rfl
@[simp] theorem Dev.modPort_tiers (d : Dev) (e : Nat) (f : Port → Port) : (d.modPort e f).tiers = d.tiers := rfl
@[simp] theorem Dev.modPort_supers (d : Dev) (e : Nat) (f : Port → Port) : (d.modPort e f).supers = d.supers := rfl
@[simp] theorem Dev.modPort_consts (d : Dev) (e : Nat) (f : Port → Port) : (d.modPort e f).consts = d.consts := rfl
@[simp] theorem Dev.modPort_fstep (d : Dev) (e : Nat) (f : Port → Port) : (d.modPort e f).fstep = d.fstep := rfl
@[simp] theorem Dev.modPort_fp (d : Dev) (e : Nat) (f : Port → Port) : (d.modPort e f).fp = d.fp := rfl
@[simp] theorem Dev.modPort_fovfn (d : Dev) (e : Nat) (f : Port → Port) : (d.modPort e f).fovfn = d.fovfn := rfl
@[simp] theorem Dev.modPort_queues (d : Dev) (e : Nat) (f : Port → Port) : (d.modPort e f).queues = d.queues := rfl
@[simp] theorem Dev.modPort_chans (d : Dev) (e : Nat) (f : Port → Port) : (d.modPort e f).chans = d.chans := rfl
@[simp] theorem Dev.modPort_jobs (d : Dev) (e : Nat) (f : Port → Port) : (d.modPort e f).jobs = d.jobs := rfl
@[simp] theorem Dev.modPort_sec (d : Dev) (e : Nat) (f : Port → Port) : (d.modPort e f).sec = d.sec := rfl
@[simp] theorem Dev.modPort_brd (d : Dev) (e : Nat) (f : Port → Port) : (d.modPort e f).brd = d.brd := rfl
@[simp] theorem Dev.modPort_bb (d : Dev) (e : Nat) (f : Port → Port) : (d.modPort e f).bb = d.bb := rfl
@[simp] theorem Dev.modPort_tx (d : Dev) (e : Nat) (f : Port → Port) : (d.modPort e f).tx = d.tx := rfl
@[simp] theorem Dev.modQueue_freeIx (d : Dev) (q : Nat) (f : CmdQueue → CmdQueue) : (d.modQueue q f).freeIx = d.freeIx := rfl
@[simp] theorem Dev.modQueue_uidNext (d : Dev) (q : Nat) (f : CmdQueue → CmdQueue) : (d.modQueue q f).uidNext = d.uidNext := rfl
@[simp] theorem Dev.modQueue_qserved (d : Dev) (q : Nat) (f : CmdQueue → CmdQueue) : (d.modQueue q f).qserved = d.qserved := rfl
@[simp] theorem Dev.modQueue_cores (d : Dev) (q : Nat) (f : CmdQueue → CmdQueue) : (d.modQueue q f).cores = d.cores := rfl
@[simp] theorem Dev.modQueue_parts (d : Dev) (q : Nat) (f : CmdQueue → CmdQueue) : (d.modQueue q f).parts = d.parts := rfl
@[simp] theorem Dev.modQueue_ctxs (d : Dev) (q : Nat) (f : CmdQueue → CmdQueue) : (d.modQueue q f).ctxs = d.ctxs := rfl
@[simp] theorem Dev.modQueue_mem (d : Dev) (q : Nat) (f : CmdQueue → CmdQueue) : (d.modQueue q f).mem = d.mem := rfl
@[simp] theorem Dev.modQueue_memPoison (d : Dev) (q : Nat) (f : CmdQueue → CmdQueue) : (d.modQueue q f).memPoison = d.memPoison := rfl
@[simp] theorem Dev.modQueue_tiers (d : Dev) (q : Nat) (f : CmdQueue → CmdQueue) : (d.modQueue q f).tiers = d.tiers := rfl
@[simp] theorem Dev.modQueue_supers (d : Dev) (q : Nat) (f : CmdQueue → CmdQueue) : (d.modQueue q f).supers = d.supers := rfl
@[simp] theorem Dev.modQueue_consts (d : Dev) (q : Nat) (f : CmdQueue → CmdQueue) : (d.modQueue q f).consts = d.consts := rfl
@[simp] theorem Dev.modQueue_fstep (d : Dev) (q : Nat) (f : CmdQueue → CmdQueue) : (d.modQueue q f).fstep = d.fstep := rfl
@[simp] theorem Dev.modQueue_fp (d : Dev) (q : Nat) (f : CmdQueue → CmdQueue) : (d.modQueue q f).fp = d.fp := rfl
@[simp] theorem Dev.modQueue_fovfn (d : Dev) (q : Nat) (f : CmdQueue → CmdQueue) : (d.modQueue q f).fovfn = d.fovfn := rfl
@[simp] theorem Dev.modQueue_fab (d : Dev) (q : Nat) (f : CmdQueue → CmdQueue) : (d.modQueue q f).fab = d.fab := rfl
@[simp] theorem Dev.modQueue_chans (d : Dev) (q : Nat) (f : CmdQueue → CmdQueue) : (d.modQueue q f).chans = d.chans := rfl
@[simp] theorem Dev.modQueue_jobs (d : Dev) (q : Nat) (f : CmdQueue → CmdQueue) : (d.modQueue q f).jobs = d.jobs := rfl
@[simp] theorem Dev.modQueue_sec (d : Dev) (q : Nat) (f : CmdQueue → CmdQueue) : (d.modQueue q f).sec = d.sec := rfl
@[simp] theorem Dev.modQueue_brd (d : Dev) (q : Nat) (f : CmdQueue → CmdQueue) : (d.modQueue q f).brd = d.brd := rfl
@[simp] theorem Dev.modQueue_bb (d : Dev) (q : Nat) (f : CmdQueue → CmdQueue) : (d.modQueue q f).bb = d.bb := rfl
@[simp] theorem Dev.modQueue_tx (d : Dev) (q : Nat) (f : CmdQueue → CmdQueue) : (d.modQueue q f).tx = d.tx := rfl
@[simp] theorem Dev.modChan_freeIx (d : Dev) (e : Nat) (f : Channel → Channel) : (d.modChan e f).freeIx = d.freeIx := rfl
@[simp] theorem Dev.modChan_uidNext (d : Dev) (e : Nat) (f : Channel → Channel) : (d.modChan e f).uidNext = d.uidNext := rfl
@[simp] theorem Dev.modChan_qserved (d : Dev) (e : Nat) (f : Channel → Channel) : (d.modChan e f).qserved = d.qserved := rfl
@[simp] theorem Dev.modChan_cores (d : Dev) (e : Nat) (f : Channel → Channel) : (d.modChan e f).cores = d.cores := rfl
@[simp] theorem Dev.modChan_parts (d : Dev) (e : Nat) (f : Channel → Channel) : (d.modChan e f).parts = d.parts := rfl
@[simp] theorem Dev.modChan_ctxs (d : Dev) (e : Nat) (f : Channel → Channel) : (d.modChan e f).ctxs = d.ctxs := rfl
@[simp] theorem Dev.modChan_mem (d : Dev) (e : Nat) (f : Channel → Channel) : (d.modChan e f).mem = d.mem := rfl
@[simp] theorem Dev.modChan_memPoison (d : Dev) (e : Nat) (f : Channel → Channel) : (d.modChan e f).memPoison = d.memPoison := rfl
@[simp] theorem Dev.modChan_tiers (d : Dev) (e : Nat) (f : Channel → Channel) : (d.modChan e f).tiers = d.tiers := rfl
@[simp] theorem Dev.modChan_supers (d : Dev) (e : Nat) (f : Channel → Channel) : (d.modChan e f).supers = d.supers := rfl
@[simp] theorem Dev.modChan_consts (d : Dev) (e : Nat) (f : Channel → Channel) : (d.modChan e f).consts = d.consts := rfl
@[simp] theorem Dev.modChan_fstep (d : Dev) (e : Nat) (f : Channel → Channel) : (d.modChan e f).fstep = d.fstep := rfl
@[simp] theorem Dev.modChan_fp (d : Dev) (e : Nat) (f : Channel → Channel) : (d.modChan e f).fp = d.fp := rfl
@[simp] theorem Dev.modChan_fovfn (d : Dev) (e : Nat) (f : Channel → Channel) : (d.modChan e f).fovfn = d.fovfn := rfl
@[simp] theorem Dev.modChan_fab (d : Dev) (e : Nat) (f : Channel → Channel) : (d.modChan e f).fab = d.fab := rfl
@[simp] theorem Dev.modChan_queues (d : Dev) (e : Nat) (f : Channel → Channel) : (d.modChan e f).queues = d.queues := rfl
@[simp] theorem Dev.modChan_jobs (d : Dev) (e : Nat) (f : Channel → Channel) : (d.modChan e f).jobs = d.jobs := rfl
@[simp] theorem Dev.modChan_sec (d : Dev) (e : Nat) (f : Channel → Channel) : (d.modChan e f).sec = d.sec := rfl
@[simp] theorem Dev.modChan_brd (d : Dev) (e : Nat) (f : Channel → Channel) : (d.modChan e f).brd = d.brd := rfl
@[simp] theorem Dev.modChan_bb (d : Dev) (e : Nat) (f : Channel → Channel) : (d.modChan e f).bb = d.bb := rfl
@[simp] theorem Dev.modChan_tx (d : Dev) (e : Nat) (f : Channel → Channel) : (d.modChan e f).tx = d.tx := rfl
@[simp] theorem Dev.modFrame_freeIx (d : Dev) (i : Nat) (f : FrameSt → FrameSt) : (d.modFrame i f).freeIx = d.freeIx := rfl
@[simp] theorem Dev.modFrame_uidNext (d : Dev) (i : Nat) (f : FrameSt → FrameSt) : (d.modFrame i f).uidNext = d.uidNext := rfl
@[simp] theorem Dev.modFrame_qserved (d : Dev) (i : Nat) (f : FrameSt → FrameSt) : (d.modFrame i f).qserved = d.qserved := rfl
@[simp] theorem Dev.modFrame_cores (d : Dev) (i : Nat) (f : FrameSt → FrameSt) : (d.modFrame i f).cores = d.cores := rfl
@[simp] theorem Dev.modFrame_parts (d : Dev) (i : Nat) (f : FrameSt → FrameSt) : (d.modFrame i f).parts = d.parts := rfl
@[simp] theorem Dev.modFrame_ctxs (d : Dev) (i : Nat) (f : FrameSt → FrameSt) : (d.modFrame i f).ctxs = d.ctxs := rfl
@[simp] theorem Dev.modFrame_mem (d : Dev) (i : Nat) (f : FrameSt → FrameSt) : (d.modFrame i f).mem = d.mem := rfl
@[simp] theorem Dev.modFrame_memPoison (d : Dev) (i : Nat) (f : FrameSt → FrameSt) : (d.modFrame i f).memPoison = d.memPoison := rfl
@[simp] theorem Dev.modFrame_tiers (d : Dev) (i : Nat) (f : FrameSt → FrameSt) : (d.modFrame i f).tiers = d.tiers := rfl
@[simp] theorem Dev.modFrame_supers (d : Dev) (i : Nat) (f : FrameSt → FrameSt) : (d.modFrame i f).supers = d.supers := rfl
@[simp] theorem Dev.modFrame_consts (d : Dev) (i : Nat) (f : FrameSt → FrameSt) : (d.modFrame i f).consts = d.consts := rfl
@[simp] theorem Dev.modFrame_fstep (d : Dev) (i : Nat) (f : FrameSt → FrameSt) : (d.modFrame i f).fstep = d.fstep := rfl
@[simp] theorem Dev.modFrame_fp (d : Dev) (i : Nat) (f : FrameSt → FrameSt) : (d.modFrame i f).fp = d.fp := rfl
@[simp] theorem Dev.modFrame_fovfn (d : Dev) (i : Nat) (f : FrameSt → FrameSt) : (d.modFrame i f).fovfn = d.fovfn := rfl
@[simp] theorem Dev.modFrame_fab (d : Dev) (i : Nat) (f : FrameSt → FrameSt) : (d.modFrame i f).fab = d.fab := rfl
@[simp] theorem Dev.modFrame_queues (d : Dev) (i : Nat) (f : FrameSt → FrameSt) : (d.modFrame i f).queues = d.queues := rfl
@[simp] theorem Dev.modFrame_chans (d : Dev) (i : Nat) (f : FrameSt → FrameSt) : (d.modFrame i f).chans = d.chans := rfl
@[simp] theorem Dev.modFrame_jobs (d : Dev) (i : Nat) (f : FrameSt → FrameSt) : (d.modFrame i f).jobs = d.jobs := rfl
@[simp] theorem Dev.modFrame_sec (d : Dev) (i : Nat) (f : FrameSt → FrameSt) : (d.modFrame i f).sec = d.sec := rfl
@[simp] theorem Dev.modFrame_bb (d : Dev) (i : Nat) (f : FrameSt → FrameSt) : (d.modFrame i f).bb = d.bb := rfl
@[simp] theorem Dev.modFrame_tx (d : Dev) (i : Nat) (f : FrameSt → FrameSt) : (d.modFrame i f).tx = d.tx := rfl
@[simp] theorem Dev.modCage_freeIx (d : Dev) (k : Nat) (f : Cage → Cage) : (d.modCage k f).freeIx = d.freeIx := rfl
@[simp] theorem Dev.modCage_uidNext (d : Dev) (k : Nat) (f : Cage → Cage) : (d.modCage k f).uidNext = d.uidNext := rfl
@[simp] theorem Dev.modCage_qserved (d : Dev) (k : Nat) (f : Cage → Cage) : (d.modCage k f).qserved = d.qserved := rfl
@[simp] theorem Dev.modCage_cores (d : Dev) (k : Nat) (f : Cage → Cage) : (d.modCage k f).cores = d.cores := rfl
@[simp] theorem Dev.modCage_parts (d : Dev) (k : Nat) (f : Cage → Cage) : (d.modCage k f).parts = d.parts := rfl
@[simp] theorem Dev.modCage_ctxs (d : Dev) (k : Nat) (f : Cage → Cage) : (d.modCage k f).ctxs = d.ctxs := rfl
@[simp] theorem Dev.modCage_mem (d : Dev) (k : Nat) (f : Cage → Cage) : (d.modCage k f).mem = d.mem := rfl
@[simp] theorem Dev.modCage_memPoison (d : Dev) (k : Nat) (f : Cage → Cage) : (d.modCage k f).memPoison = d.memPoison := rfl
@[simp] theorem Dev.modCage_tiers (d : Dev) (k : Nat) (f : Cage → Cage) : (d.modCage k f).tiers = d.tiers := rfl
@[simp] theorem Dev.modCage_supers (d : Dev) (k : Nat) (f : Cage → Cage) : (d.modCage k f).supers = d.supers := rfl
@[simp] theorem Dev.modCage_consts (d : Dev) (k : Nat) (f : Cage → Cage) : (d.modCage k f).consts = d.consts := rfl
@[simp] theorem Dev.modCage_fstep (d : Dev) (k : Nat) (f : Cage → Cage) : (d.modCage k f).fstep = d.fstep := rfl
@[simp] theorem Dev.modCage_fp (d : Dev) (k : Nat) (f : Cage → Cage) : (d.modCage k f).fp = d.fp := rfl
@[simp] theorem Dev.modCage_fovfn (d : Dev) (k : Nat) (f : Cage → Cage) : (d.modCage k f).fovfn = d.fovfn := rfl
@[simp] theorem Dev.modCage_fab (d : Dev) (k : Nat) (f : Cage → Cage) : (d.modCage k f).fab = d.fab := rfl
@[simp] theorem Dev.modCage_queues (d : Dev) (k : Nat) (f : Cage → Cage) : (d.modCage k f).queues = d.queues := rfl
@[simp] theorem Dev.modCage_chans (d : Dev) (k : Nat) (f : Cage → Cage) : (d.modCage k f).chans = d.chans := rfl
@[simp] theorem Dev.modCage_jobs (d : Dev) (k : Nat) (f : Cage → Cage) : (d.modCage k f).jobs = d.jobs := rfl
@[simp] theorem Dev.modCage_sec (d : Dev) (k : Nat) (f : Cage → Cage) : (d.modCage k f).sec = d.sec := rfl
@[simp] theorem Dev.modCage_bb (d : Dev) (k : Nat) (f : Cage → Cage) : (d.modCage k f).bb = d.bb := rfl
@[simp] theorem Dev.modCage_tx (d : Dev) (k : Nat) (f : Cage → Cage) : (d.modCage k f).tx = d.tx := rfl
@[simp] theorem Dev.modBrd_freeIx (d : Dev) (f : Board → Board) : (d.modBrd f).freeIx = d.freeIx := rfl
@[simp] theorem Dev.modBrd_uidNext (d : Dev) (f : Board → Board) : (d.modBrd f).uidNext = d.uidNext := rfl
@[simp] theorem Dev.modBrd_qserved (d : Dev) (f : Board → Board) : (d.modBrd f).qserved = d.qserved := rfl
@[simp] theorem Dev.modBrd_cores (d : Dev) (f : Board → Board) : (d.modBrd f).cores = d.cores := rfl
@[simp] theorem Dev.modBrd_parts (d : Dev) (f : Board → Board) : (d.modBrd f).parts = d.parts := rfl
@[simp] theorem Dev.modBrd_ctxs (d : Dev) (f : Board → Board) : (d.modBrd f).ctxs = d.ctxs := rfl
@[simp] theorem Dev.modBrd_mem (d : Dev) (f : Board → Board) : (d.modBrd f).mem = d.mem := rfl
@[simp] theorem Dev.modBrd_memPoison (d : Dev) (f : Board → Board) : (d.modBrd f).memPoison = d.memPoison := rfl
@[simp] theorem Dev.modBrd_tiers (d : Dev) (f : Board → Board) : (d.modBrd f).tiers = d.tiers := rfl
@[simp] theorem Dev.modBrd_supers (d : Dev) (f : Board → Board) : (d.modBrd f).supers = d.supers := rfl
@[simp] theorem Dev.modBrd_consts (d : Dev) (f : Board → Board) : (d.modBrd f).consts = d.consts := rfl
@[simp] theorem Dev.modBrd_fstep (d : Dev) (f : Board → Board) : (d.modBrd f).fstep = d.fstep := rfl
@[simp] theorem Dev.modBrd_fp (d : Dev) (f : Board → Board) : (d.modBrd f).fp = d.fp := rfl
@[simp] theorem Dev.modBrd_fovfn (d : Dev) (f : Board → Board) : (d.modBrd f).fovfn = d.fovfn := rfl
@[simp] theorem Dev.modBrd_fab (d : Dev) (f : Board → Board) : (d.modBrd f).fab = d.fab := rfl
@[simp] theorem Dev.modBrd_queues (d : Dev) (f : Board → Board) : (d.modBrd f).queues = d.queues := rfl
@[simp] theorem Dev.modBrd_chans (d : Dev) (f : Board → Board) : (d.modBrd f).chans = d.chans := rfl
@[simp] theorem Dev.modBrd_jobs (d : Dev) (f : Board → Board) : (d.modBrd f).jobs = d.jobs := rfl
@[simp] theorem Dev.modBrd_sec (d : Dev) (f : Board → Board) : (d.modBrd f).sec = d.sec := rfl
@[simp] theorem Dev.modBrd_bb (d : Dev) (f : Board → Board) : (d.modBrd f).bb = d.bb := rfl
@[simp] theorem Dev.modBrd_tx (d : Dev) (f : Board → Board) : (d.modBrd f).tx = d.tx := rfl
@[simp] theorem Dev.modBrd_brd (d : Dev) (f : Board → Board) : (d.modBrd f).brd = f d.brd := rfl
@[simp] theorem Dev.modTiers_freeIx (d : Dev) (f : Tiers → Tiers) : (d.modTiers f).freeIx = d.freeIx := rfl
@[simp] theorem Dev.modTiers_uidNext (d : Dev) (f : Tiers → Tiers) : (d.modTiers f).uidNext = d.uidNext := rfl
@[simp] theorem Dev.modTiers_qserved (d : Dev) (f : Tiers → Tiers) : (d.modTiers f).qserved = d.qserved := rfl
@[simp] theorem Dev.modTiers_cores (d : Dev) (f : Tiers → Tiers) : (d.modTiers f).cores = d.cores := rfl
@[simp] theorem Dev.modTiers_parts (d : Dev) (f : Tiers → Tiers) : (d.modTiers f).parts = d.parts := rfl
@[simp] theorem Dev.modTiers_ctxs (d : Dev) (f : Tiers → Tiers) : (d.modTiers f).ctxs = d.ctxs := rfl
@[simp] theorem Dev.modTiers_mem (d : Dev) (f : Tiers → Tiers) : (d.modTiers f).mem = d.mem := rfl
@[simp] theorem Dev.modTiers_memPoison (d : Dev) (f : Tiers → Tiers) : (d.modTiers f).memPoison = d.memPoison := rfl
@[simp] theorem Dev.modTiers_supers (d : Dev) (f : Tiers → Tiers) : (d.modTiers f).supers = d.supers := rfl
@[simp] theorem Dev.modTiers_consts (d : Dev) (f : Tiers → Tiers) : (d.modTiers f).consts = d.consts := rfl
@[simp] theorem Dev.modTiers_fstep (d : Dev) (f : Tiers → Tiers) : (d.modTiers f).fstep = d.fstep := rfl
@[simp] theorem Dev.modTiers_fp (d : Dev) (f : Tiers → Tiers) : (d.modTiers f).fp = d.fp := rfl
@[simp] theorem Dev.modTiers_fovfn (d : Dev) (f : Tiers → Tiers) : (d.modTiers f).fovfn = d.fovfn := rfl
@[simp] theorem Dev.modTiers_fab (d : Dev) (f : Tiers → Tiers) : (d.modTiers f).fab = d.fab := rfl
@[simp] theorem Dev.modTiers_queues (d : Dev) (f : Tiers → Tiers) : (d.modTiers f).queues = d.queues := rfl
@[simp] theorem Dev.modTiers_chans (d : Dev) (f : Tiers → Tiers) : (d.modTiers f).chans = d.chans := rfl
@[simp] theorem Dev.modTiers_jobs (d : Dev) (f : Tiers → Tiers) : (d.modTiers f).jobs = d.jobs := rfl
@[simp] theorem Dev.modTiers_sec (d : Dev) (f : Tiers → Tiers) : (d.modTiers f).sec = d.sec := rfl
@[simp] theorem Dev.modTiers_brd (d : Dev) (f : Tiers → Tiers) : (d.modTiers f).brd = d.brd := rfl
@[simp] theorem Dev.modTiers_bb (d : Dev) (f : Tiers → Tiers) : (d.modTiers f).bb = d.bb := rfl
@[simp] theorem Dev.modTiers_tx (d : Dev) (f : Tiers → Tiers) : (d.modTiers f).tx = d.tx := rfl
@[simp] theorem Dev.modTiers_tiers (d : Dev) (f : Tiers → Tiers) : (d.modTiers f).tiers = f d.tiers := rfl
@[simp] theorem Dev.modFab_freeIx (d : Dev) (f : Fabric → Fabric) : (d.modFab f).freeIx = d.freeIx := rfl
@[simp] theorem Dev.modFab_uidNext (d : Dev) (f : Fabric → Fabric) : (d.modFab f).uidNext = d.uidNext := rfl
@[simp] theorem Dev.modFab_qserved (d : Dev) (f : Fabric → Fabric) : (d.modFab f).qserved = d.qserved := rfl
@[simp] theorem Dev.modFab_cores (d : Dev) (f : Fabric → Fabric) : (d.modFab f).cores = d.cores := rfl
@[simp] theorem Dev.modFab_parts (d : Dev) (f : Fabric → Fabric) : (d.modFab f).parts = d.parts := rfl
@[simp] theorem Dev.modFab_ctxs (d : Dev) (f : Fabric → Fabric) : (d.modFab f).ctxs = d.ctxs := rfl
@[simp] theorem Dev.modFab_mem (d : Dev) (f : Fabric → Fabric) : (d.modFab f).mem = d.mem := rfl
@[simp] theorem Dev.modFab_memPoison (d : Dev) (f : Fabric → Fabric) : (d.modFab f).memPoison = d.memPoison := rfl
@[simp] theorem Dev.modFab_tiers (d : Dev) (f : Fabric → Fabric) : (d.modFab f).tiers = d.tiers := rfl
@[simp] theorem Dev.modFab_supers (d : Dev) (f : Fabric → Fabric) : (d.modFab f).supers = d.supers := rfl
@[simp] theorem Dev.modFab_consts (d : Dev) (f : Fabric → Fabric) : (d.modFab f).consts = d.consts := rfl
@[simp] theorem Dev.modFab_fstep (d : Dev) (f : Fabric → Fabric) : (d.modFab f).fstep = d.fstep := rfl
@[simp] theorem Dev.modFab_fp (d : Dev) (f : Fabric → Fabric) : (d.modFab f).fp = d.fp := rfl
@[simp] theorem Dev.modFab_fovfn (d : Dev) (f : Fabric → Fabric) : (d.modFab f).fovfn = d.fovfn := rfl
@[simp] theorem Dev.modFab_queues (d : Dev) (f : Fabric → Fabric) : (d.modFab f).queues = d.queues := rfl
@[simp] theorem Dev.modFab_chans (d : Dev) (f : Fabric → Fabric) : (d.modFab f).chans = d.chans := rfl
@[simp] theorem Dev.modFab_jobs (d : Dev) (f : Fabric → Fabric) : (d.modFab f).jobs = d.jobs := rfl
@[simp] theorem Dev.modFab_sec (d : Dev) (f : Fabric → Fabric) : (d.modFab f).sec = d.sec := rfl
@[simp] theorem Dev.modFab_brd (d : Dev) (f : Fabric → Fabric) : (d.modFab f).brd = d.brd := rfl
@[simp] theorem Dev.modFab_bb (d : Dev) (f : Fabric → Fabric) : (d.modFab f).bb = d.bb := rfl
@[simp] theorem Dev.modFab_tx (d : Dev) (f : Fabric → Fabric) : (d.modFab f).tx = d.tx := rfl
@[simp] theorem Dev.modFab_fab (d : Dev) (f : Fabric → Fabric) : (d.modFab f).fab = f d.fab := rfl
@[simp] theorem Dev.modSec_freeIx (d : Dev) (f : Security → Security) : (d.modSec f).freeIx = d.freeIx := rfl
@[simp] theorem Dev.modSec_uidNext (d : Dev) (f : Security → Security) : (d.modSec f).uidNext = d.uidNext := rfl
@[simp] theorem Dev.modSec_qserved (d : Dev) (f : Security → Security) : (d.modSec f).qserved = d.qserved := rfl
@[simp] theorem Dev.modSec_cores (d : Dev) (f : Security → Security) : (d.modSec f).cores = d.cores := rfl
@[simp] theorem Dev.modSec_parts (d : Dev) (f : Security → Security) : (d.modSec f).parts = d.parts := rfl
@[simp] theorem Dev.modSec_ctxs (d : Dev) (f : Security → Security) : (d.modSec f).ctxs = d.ctxs := rfl
@[simp] theorem Dev.modSec_mem (d : Dev) (f : Security → Security) : (d.modSec f).mem = d.mem := rfl
@[simp] theorem Dev.modSec_memPoison (d : Dev) (f : Security → Security) : (d.modSec f).memPoison = d.memPoison := rfl
@[simp] theorem Dev.modSec_tiers (d : Dev) (f : Security → Security) : (d.modSec f).tiers = d.tiers := rfl
@[simp] theorem Dev.modSec_supers (d : Dev) (f : Security → Security) : (d.modSec f).supers = d.supers := rfl
@[simp] theorem Dev.modSec_consts (d : Dev) (f : Security → Security) : (d.modSec f).consts = d.consts := rfl
@[simp] theorem Dev.modSec_fstep (d : Dev) (f : Security → Security) : (d.modSec f).fstep = d.fstep := rfl
@[simp] theorem Dev.modSec_fp (d : Dev) (f : Security → Security) : (d.modSec f).fp = d.fp := rfl
@[simp] theorem Dev.modSec_fovfn (d : Dev) (f : Security → Security) : (d.modSec f).fovfn = d.fovfn := rfl
@[simp] theorem Dev.modSec_fab (d : Dev) (f : Security → Security) : (d.modSec f).fab = d.fab := rfl
@[simp] theorem Dev.modSec_queues (d : Dev) (f : Security → Security) : (d.modSec f).queues = d.queues := rfl
@[simp] theorem Dev.modSec_chans (d : Dev) (f : Security → Security) : (d.modSec f).chans = d.chans := rfl
@[simp] theorem Dev.modSec_jobs (d : Dev) (f : Security → Security) : (d.modSec f).jobs = d.jobs := rfl
@[simp] theorem Dev.modSec_brd (d : Dev) (f : Security → Security) : (d.modSec f).brd = d.brd := rfl
@[simp] theorem Dev.modSec_bb (d : Dev) (f : Security → Security) : (d.modSec f).bb = d.bb := rfl
@[simp] theorem Dev.modSec_tx (d : Dev) (f : Security → Security) : (d.modSec f).tx = d.tx := rfl
@[simp] theorem Dev.modSec_sec (d : Dev) (f : Security → Security) : (d.modSec f).sec = f d.sec := rfl
@[simp] theorem Dev.send_freeIx (d : Dev) (x : Tx) : (d.send x).freeIx = d.freeIx := rfl
@[simp] theorem Dev.send_uidNext (d : Dev) (x : Tx) : (d.send x).uidNext = d.uidNext := rfl
@[simp] theorem Dev.send_qserved (d : Dev) (x : Tx) : (d.send x).qserved = d.qserved := rfl
@[simp] theorem Dev.send_cores (d : Dev) (x : Tx) : (d.send x).cores = d.cores := rfl
@[simp] theorem Dev.send_parts (d : Dev) (x : Tx) : (d.send x).parts = d.parts := rfl
@[simp] theorem Dev.send_ctxs (d : Dev) (x : Tx) : (d.send x).ctxs = d.ctxs := rfl
@[simp] theorem Dev.send_mem (d : Dev) (x : Tx) : (d.send x).mem = d.mem := rfl
@[simp] theorem Dev.send_memPoison (d : Dev) (x : Tx) : (d.send x).memPoison = d.memPoison := rfl
@[simp] theorem Dev.send_tiers (d : Dev) (x : Tx) : (d.send x).tiers = d.tiers := rfl
@[simp] theorem Dev.send_supers (d : Dev) (x : Tx) : (d.send x).supers = d.supers := rfl
@[simp] theorem Dev.send_consts (d : Dev) (x : Tx) : (d.send x).consts = d.consts := rfl
@[simp] theorem Dev.send_fstep (d : Dev) (x : Tx) : (d.send x).fstep = d.fstep := rfl
@[simp] theorem Dev.send_fp (d : Dev) (x : Tx) : (d.send x).fp = d.fp := rfl
@[simp] theorem Dev.send_fovfn (d : Dev) (x : Tx) : (d.send x).fovfn = d.fovfn := rfl
@[simp] theorem Dev.send_fab (d : Dev) (x : Tx) : (d.send x).fab = d.fab := rfl
@[simp] theorem Dev.send_queues (d : Dev) (x : Tx) : (d.send x).queues = d.queues := rfl
@[simp] theorem Dev.send_chans (d : Dev) (x : Tx) : (d.send x).chans = d.chans := rfl
@[simp] theorem Dev.send_jobs (d : Dev) (x : Tx) : (d.send x).jobs = d.jobs := rfl
@[simp] theorem Dev.send_sec (d : Dev) (x : Tx) : (d.send x).sec = d.sec := rfl
@[simp] theorem Dev.send_brd (d : Dev) (x : Tx) : (d.send x).brd = d.brd := rfl
@[simp] theorem Dev.send_bb (d : Dev) (x : Tx) : (d.send x).bb = d.bb := rfl

/-! ## The outcome of a wrapper -/

theorem State.onDev_eq (s : State) (f : Dev → Dev) : s.onDev f = .next { s with dev := f s.dev } := rfl

/-- A wrapper answers the effect on a unit that exists, and a fault on one that does not. -/
theorem State.onUnit_eq (s : State) (b : Bool) (f : Dev → Dev) :
    s.onUnit b f = if b = true then .next { s with dev := f s.dev } else .fault .noSuchUnit := rfl

/-- If a wrapper answers a next state, the unit exists, and neither the queue nor what is non-volatile has changed. -/
theorem State.onUnit_next {s t : State} {b : Bool} {f : Dev → Dev} (h : s.onUnit b f = .next t) :
    b = true ∧ t.pending = s.pending ∧ t.nv = s.nv ∧ t.dev = f s.dev := by
  rw [State.onUnit_eq] at h
  split at h
  · rename_i hb
    cases h
    exact ⟨hb, rfl, rfl, rfl⟩
  · cases h

end Sys2Proof.Machine
end

