-- ==== Sys2Proof/Laws/Control.lean ====
section
/-! SUPPORT. The control engine: everything that executing one instruction of a ready task can do. -/

namespace Sys2Proof.Machine
open Sys2Proof

theorem Core.dispatchN_parts (k : Nat) (c : Core) :
    ∃ mx, Core.dispatchN k c = { c with mx := mx } := by
  induction k generalizing c with
  | zero => exact ⟨c.mx, rfl⟩
  | succ k ih =>
    unfold Core.dispatchN
    split
    · exact ⟨c.mx, rfl⟩
    · split
      · exact ⟨c.mx, rfl⟩
      · split
        all_goals first
          | exact ⟨c.mx, rfl⟩
          | (split
             · obtain ⟨mx, h⟩ := ih _
               exact ⟨mx, h⟩
             · exact ⟨c.mx, rfl⟩)

/-- Dispatch changes the matrix engine only. -/
theorem Core.dispatch_parts (c : Core) : ∃ mx, c.dispatch = { c with mx := mx } := Core.dispatchN_parts 8 c

@[simp] theorem Core.dispatch_tasks (c : Core) : c.dispatch.tasks = c.tasks := by
  obtain ⟨mx, h⟩ := c.dispatch_parts
  rw [h]

/-- A fetch changes the instruction cache and the counters only. -/
theorem Core.fetchLine_parts (n x pc : Nat) (c : Core) :
    ∃ ic k, Core.fetchLine n x pc c = { c with icache := ic, counters := k } := by
  unfold Core.fetchLine
  dsimp only
  split
  · exact ⟨c.icache, c.counters, rfl⟩
  · exact ⟨_, _, rfl⟩

@[simp] theorem Core.fetchLine_tasks (n x pc : Nat) (c : Core) : (Core.fetchLine n x pc c).tasks = c.tasks := by
  obtain ⟨ic, k, h⟩ := Core.fetchLine_parts n x pc c
  rw [h]

@[simp] theorem Dev.dispatched_ctxOf (d : Dev) (w : Who) (n : Nat) : (d.dispatched w).ctxOf n = d.ctxOf n := by
  unfold Dev.dispatched
  split <;> rfl

theorem Dev.dispatched_core (d : Dev) (w : Who) :
    (d.dispatched w).core w.core = if w.task = .capped then (d.core w.core).dispatch else d.core w.core := by
  unfold Dev.dispatched
  split <;> simp

theorem Dev.dispatched_core_ne (d : Dev) (w : Who) {m : Nat} (h : m ≠ w.core) : (d.dispatched w).core m = d.core m := by
  unfold Dev.dispatched
  split
  · exact Dev.modCore_core_ne d _ h
  · rfl

@[simp] theorem Dev.dispatched_fetchOk (d : Dev) (w : Who) (n pc : Nat) : (d.dispatched w).fetchOk n pc = d.fetchOk n pc := by
  unfold Dev.dispatched
  split <;> rfl

/-- A fill changes the comb only, and takes a free choice. -/
theorem Dev.tableFill_parts (d : Dev) (a : Nat) : ∃ x b k, d.tableFill a =
    { d with freeIx := d.freeIx + 1, tiers := { d.tiers with comb := x, combBad := b, combCnt := k } } := by
  unfold Dev.tableFill Tiers.useLine
  dsimp only
  split
  · exact ⟨_, _, _, rfl⟩
  · split <;> exact ⟨_, _, _, rfl⟩

/-- All that a fetch can do: the core's instruction cache and its counter of misses, and a fill of the comb. -/
theorem Dev.fetch_parts (d : Dev) (n pc : Nat) : ∃ i x b k,
    { d.fetch n pc with cores := d.cores } =
      { d with freeIx := i, tiers := { d.tiers with comb := x, combBad := b, combCnt := k } } ∧
    (d.fetch n pc).core n = Core.fetchLine n (d.ctxOf n) pc (d.core n) ∧ ∀ m, m ≠ n → (d.fetch n pc).core m = d.core m := by
  unfold Dev.fetch
  dsimp only
  split
  · rename_i h
    refine ⟨d.freeIx, d.tiers.comb, d.tiers.combBad, d.tiers.combCnt, rfl, ?_, fun _ _ => rfl⟩
    simp only [Core.fetchLine, h, if_true]
  · obtain ⟨x, b, k, h⟩ := Dev.tableFill_parts (d.modCore n (Core.fetchLine n (d.ctxOf n) pc))
      (Config.codeAt (d.ctxOf n) + pc / 64 * 64)
    refine ⟨_, x, b, k, by rw [h]; rfl, ?_, fun m hm => ?_⟩
    · rw [h]; exact Dev.modCore_core_self d n _
    · rw [h]; exact Dev.modCore_core_ne d _ hm

theorem Dev.readyDev_core_ne (d : Dev) (w : Who) {m : Nat} (h : m ≠ w.core) : (d.readyDev w).core m = d.core m := by
  unfold Dev.readyDev
  split
  · obtain ⟨_, _, _, _, _, _, hm⟩ := (d.dispatched w).fetch_parts w.core (by assumption : TaskRun).pc
    rw [hm m h, Dev.dispatched_core_ne d w h]
  · exact Dev.dispatched_core_ne d w h

/-- Outside the core, a ready task meets the device as it was, but for the comb. -/
theorem Dev.readyDev_parts (d : Dev) (w : Who) : ∃ i x b k, { d.readyDev w with cores := d.cores } =
    { d with freeIx := i, tiers := { d.tiers with comb := x, combBad := b, combCnt := k } } := by
  have hf (e : Dev) (pc : Nat) (he : { e with cores := d.cores } = d) : ∃ i x b k, { e.fetch w.core pc with cores := d.cores } =
      { d with freeIx := i, tiers := { d.tiers with comb := x, combBad := b, combCnt := k } } := by
    obtain ⟨i, x, b, k, h, _, _⟩ := e.fetch_parts w.core pc
    have ht : e.tiers = d.tiers := by have h := congrArg Dev.tiers he; exact h
    have h2 := congrArg (fun f : Dev => { f with cores := d.cores }) h
    have h3 := congrArg (fun f : Dev => { f with freeIx := i, tiers := { e.tiers with comb := x, combBad := b, combCnt := k } }) he
    exact ⟨i, x, b, k, by rw [← ht]; exact h2.trans h3⟩
  unfold Dev.readyDev Dev.dispatched
  split
  · split
    · exact hf (d.modCore w.core Core.dispatch) _ rfl
    · exact hf d _ rfl
  · exact ⟨d.freeIx, d.tiers.comb, d.tiers.combBad, d.tiers.combCnt, by split <;> rfl⟩

theorem slotIx_capped (k : TaskSlot) : slotIx k = 0 ↔ k = .capped := by cases k <;> simp [slotIx]

theorem Dev.drainN_other (k : Nat) (d : Dev) (n uid : Nat) (h : (d.core n).wbuf.any (fun e => e.uid == uid) = false) :
    d.drainN k n uid = d := by
  cases k with
  | zero => rfl
  | succ k =>
    unfold Dev.drainN
    split
    · rfl
    · rename_i e r he
      rw [he] at h
      simp only [List.any_cons, Bool.or_eq_false_iff] at h
      have : (e.uid != uid) = true := by simpa [bne] using h.1
      simp [this]

/-- A ready task executes: the instruction's effect on the state it meets. -/
theorem ctlExec_issues {s : State} {w : Who} {t : TaskRun} (u : Uncapped) (f : Dev → Nat → Nat → TaskRun → Dev)
    (h : s.dev.issues w t = true) (hu : w.task = .capped ∨ u = .runs) :
    ctlExec s w u f = .next { s with dev := f (s.dev.readyDev w) w.core (slotIx w.task) t } := by
  unfold Dev.issues at h
  simp only [Bool.and_eq_true, decide_eq_true_eq, beq_iff_eq, Option.isNone_iff_eq_none, Bool.or_eq_true, bne_iff_ne,
    Bool.not_eq_true'] at h
  obtain ⟨⟨⟨⟨⟨hn, ht⟩, hb⟩, hh⟩, hw⟩, hf⟩ := h
  simp only [ctlExec, State.onCore, State.onUnit_eq, hn, decide_true, if_true]
  congr 2
  by_cases hc : w.task = .capped
  · have hw' : (s.dev.core w.core).wbuf.any (fun e => e.uid == t.uid) = false := by
      rcases hw with hw | hw
      · exact absurd hc hw
      · exact hw
    have h0 : slotIx w.task = 0 := (slotIx_capped _).2 hc
    rw [h0] at ht
    have hl : ∃ r, (s.dev.core w.core).tasks = t :: r := by
      cases hts : (s.dev.core w.core).tasks with
      | nil => rw [hts] at ht; cases ht
      | cons x r => rw [hts] at ht; simp at ht; exact ⟨r, by rw [ht]⟩
    obtain ⟨r, hl⟩ := hl
    have hr : (s.dev.capReady w.core) = (true, s.dev.dispatched w) := by
      unfold Dev.capReady
      simp only [hl, Dev.drainN_other _ _ _ _ hw']
      simp [hw', hh, Dev.dispatched, hc]
    have hf' : (s.dev.dispatched w).fetchOk w.core t.pc = true := by simpa using hf
    simp [Dev.ctl, h0, hl, hb, hr, hf', Dev.readyDev]
  · have hu' : u = .runs := hu.resolve_left hc
    have h0 : slotIx w.task ≠ 0 := fun x => hc ((slotIx_capped _).1 x)
    simp [Dev.ctl, ht, hb, h0, hh, hu', hf, Dev.readyDev, Dev.dispatched, hc]

end Sys2Proof.Machine
end

