-- ==== Sys2Proof/Laws/Memory.lean ====
section
/-! SUPPORT. The unified range: what a write does to every byte, and that every operation that changes memory keeps its canonical form. -/

namespace Sys2Proof.Machine
open Sys2Proof

theorem memFold_get (a : Nat) (bs : List Byte) (k : Nat) (m : Store Byte) (i : Nat) :
    Store.get 0#8 ((bs.zipIdx k).foldl (fun m x => Store.set 0#8 m (a + x.2) x.1) m) i =
      if a + k ≤ i ∧ i < a + k + bs.length then bs.getD (i - (a + k)) 0#8 else Store.get 0#8 m i := by
  induction bs generalizing k m with
  | nil =>
    rw [if_neg (by simp only [List.length_nil]; omega)]
    rfl
  | cons b r ih =>
    simp only [List.zipIdx_cons, List.foldl_cons, ih, List.length_cons]
    by_cases h : i = a + k
    · subst h
      rw [if_neg (by omega), if_pos (by omega), Store.get_set_self]
      simp
    · rw [Store.get_set_ne _ _ _ h]
      by_cases h2 : a + (k + 1) ≤ i ∧ i < a + (k + 1) + r.length
      · rw [if_pos h2, if_pos (by omega)]
        have : i - (a + k) = (i - (a + (k + 1))) + 1 := by omega
        rw [this]
        simp
      · rw [if_neg h2, if_neg (by omega)]

/-- A byte after a write: the byte written there, or what was there before. -/
theorem Dev.memPut_memByte (d : Dev) (a : Nat) (bs : List Byte) (p : Bool) (i : Nat) :
    (d.memPut a bs p).memByte i = if a ≤ i ∧ i < a + bs.length then bs.getD (i - a) 0#8 else d.memByte i := by
  simpa [Dev.memPut, Dev.memByte] using memFold_get a bs 0 d.mem i

/-- A write keeps memory canonical. -/
theorem Dev.memPut_wf (d : Dev) (a : Nat) (bs : List Byte) (p : Bool) (h : Memory.wf d.mem = true) :
    Memory.wf (d.memPut a bs p).mem = true :=
  Store.wf_foldl_set 0#8 (fun x : Byte × Nat => a + x.2) (fun x => x.1) bs.zipIdx d.mem h

theorem Memory.wfFrom_filter (p : Host.Cell → Bool) (m : List Host.Cell) (lo : Nat) (h : Store.wfFrom 0#8 lo m = true) :
    Store.wfFrom 0#8 lo (m.filter p) = true := by
  induction m generalizing lo with
  | nil => rfl
  | cons x r ih =>
    obtain ⟨k, v⟩ := x
    simp only [Store.wfFrom, Bool.and_eq_true, decide_eq_true_eq] at h
    simp only [List.filter_cons]
    split
    · simp only [Store.wfFrom, Bool.and_eq_true, decide_eq_true_eq]
      exact ⟨h.1, ih _ h.2⟩
    · exact Store.wfFrom_mono _ _ (by omega) (ih _ h.2)

/-- Dropping cells, the other operation that changes memory, keeps it canonical. -/
theorem Memory.wf_filter (m : List Host.Cell) (p : Host.Cell → Bool) (h : Memory.wf m = true) :
    Memory.wf (m.filter p) = true := Memory.wfFrom_filter p m 0 h

/-- Memory at reset is canonical. -/
theorem reset_memory_wf : Memory.wf State.reset.dev.mem = true := rfl

end Sys2Proof.Machine
end

