-- ==== Sys2Proof/Laws/Network.lean ====
section
/-! SUPPORT. Addresses: a link-local address lies in fe80::/16, whatever MAC manufacture fixed, so that a smaller address is never one. -/

namespace Sys2Proof.Machine
open Sys2Proof

theorem linkLocalOf_ge (m : Nat) : 0xFE80 * 2 ^ 112 ≤ linkLocalOf m := by
  unfold linkLocalOf
  omega

theorem beq_linkLocal_of_lt (net n : Nat) (h : n < 0xFE80 * 2 ^ 112) : (n == linkLocal net) = false :=
  beq_eq_false_iff_ne.2 (Nat.ne_of_lt (Nat.lt_of_lt_of_le h (linkLocalOf_ge _)))

/-- The group of a network's announcements is always the module's. -/
theorem Dev.ours_announceGroup (d : Dev) (net : Nat) : d.ours net (announceGroup net) = true := by simp [Dev.ours]

end Sys2Proof.Machine
end

