-- ==== Sys2Proof/Tests/Slice0.lean ====
section
/-! SUPPORT. Tests: ill-formed commands are refused by the well-formedness check, every statement's hypotheses are met by a concrete
state, and small steps with results worked out from the manual. -/

namespace Sys2Proof.Tests
open Sys2Proof Sys2Proof.Machine Sys2Proof.Machine.Claims
set_option Elab.async false

/-! ## Small states -/

/-- The state after a command, if the module goes on, satisfies `f`. -/
def after (c : Instr) (s : State) (f : State → Bool) : Bool := match outState (exec c s) with
  | some t => f t
  | none => false

def on (d : Dev) : State := { dev := d }
def words (l : List Nat) : List Byte := (l.map (toLe 4)).flatten

/-- The task table of core L0: task 0 (barrier; next task 1; arguments 7 to 10; write set: the first 64 KiB of the scratchpad) and
task 1 (write set: bytes 0 to 524,287 of the unified range). -/
def taskTable : List Byte :=
  words [0x00000280, 4, 0x0001FFFF, 0xFFFFFFFF, 7, 8, 9, 10, 0, 1023, 0, 0x80001FFF, 0, 0, 0, 0] ++
  words [0x00010180, 0, 0xFFFFFFFF, 0xFFFFFFFF, 0, 0, 0, 0, 0, 0x80001FFF, 0, 0, 0, 0, 0, 0]

/-- Ring 3 of L0: two slots of one row from row 4096, window rings (class 3); ring 4 takes from L7. -/
def ringTable : List Byte :=
  List.replicate 24 0#8 ++ words [4096 * 2 ^ 16 + 1, 0x30000001, 5000 * 2 ^ 16 + 1, 0x20000001 + 7 * 2 ^ 15] ++ List.replicate 216 0#8

/-- Two owned slices in super S0: 0x55 of group 0 with update slot 3 and two contributions, its state, row block and column pieces in
pages 1, 2 and 3; 0x56 of group 1, which clips by a global norm of three modules. -/
def sliceTable : List Byte :=
  words [2, 0, 0x200000, 0] ++ words [0x55, 2 ^ 31 + 3 * 2 ^ 11, 2, 2, 0, 0, 0x80000, 0, 0x100000, 0, 0x180000, 0, 0, 0, 0, 0] ++
  words [0x56, 2 ^ 31 + 2 ^ 22 + 4 * 2 ^ 11, 2, 2, 0, 0, 0xA0000, 0, 0x110000, 0, 0x188000, 0, 0x90000, 0, 0, 0] ++
  words ([0, 0, 0, 0, 2 ^ 23, 2, 0, 0] ++ List.replicate 56 0)

/-- One anchor block in pages 2 and 3, one sample a micro-batch, two regions, control segment at page 10. -/
def blockTable : List Byte := words [2 ^ 18, 4, 8, 2, 10, 0, 0, 0] ++ words [2 ^ 31, 2, 2, 0]

/-- Channels with peer 5 on network B: 9 to send; 9 to receive through two window slots of 512 bytes at page 20, 64 bytes each; 10 to
receive pushes of context 0. -/
def sendEnt : List Nat := [5 * 2 ^ 16 + 9 * 16 + 5, 0, 0, 0, 0, 0, 0, 0]
def recvEnt : List Nat := [5 * 2 ^ 16 + 9 * 16 + 13, 4, 20 * 524288, 2 ^ 28 + 2 ^ 12, 512, 64, 0, 0]
def pushEnt : List Nat := [5 * 2 ^ 16 + 10 * 16 + 13, 2 * 2 ^ 28 + 2 * 2 ^ 24 + 4, 0, 0, 0, 0, 0, 0]
def chanTable : List Byte := words (sendEnt ++ recvEnt ++ pushEnt)

def image : Image :=
  { header := words [0, 0, 0, 0, 0, 1] ++ List.replicate 104 0#8,
    secs := [⟨1, 0, 0, List.replicate 64 0#8⟩, ⟨2, 0, 0, taskTable⟩, ⟨3, 0, 0, ringTable⟩,
      ⟨4, 0, 0, words ((List.range 64).map (fun i => i * 2 ^ 17))⟩, ⟨6, 0, 0, words [2, 3]⟩, ⟨8, 0, 0, words [0, 3 * 2 ^ 9, 32, 4, 0, 0, 0, 0]⟩,
      ⟨9, 0, 0, blockTable⟩, ⟨10, 0, 0, sliceTable⟩, ⟨11, 0, 0, chanTable⟩] }

/-- A task on core L0 with X1 = 96, X2 = 2^63 + 5. -/
def task : TaskRun := { uid := 9, tid := 0, pc := 8, x := [(1, 96#64), (2, 0x8000000000000005#64)] }

def part : Partition := { image := some image, resident := some 0, started := true }
def ctx0 : Context := { inMap := true, run := true }
def ready : Board := { state := .ready, enable := true, sb12 := true, huok := true, frames := (List.range 20).map (fun f => (f, ({ pstate := 0 } : FrameSt))) }

/-- A module whose core L0 is `c`. -/
def withCore (c : Core) : Dev := { cores := [(0, c)], parts := [(0, part)], ctxs := [(0, ctx0)], brd := ready }
def ctl : Dev := withCore { tasks := [task] }
def ctl2 : Dev := withCore { tasks := [{ uid := 3, tid := 1 }, task] }
def c0 : Who := ⟨0, .capped⟩
def c1 : Who := ⟨0, .spec1⟩

/-! ## Well-formedness refuses what names no unit or does not fit -/

def dh : DataHdr := ⟨1, 2, 1, false, false, false, false, false, false, false, false, 5, 0, 0, 9, 0, 0, 0, 0, 64, 0, 0, 0, 0, 0, 0, 0⟩
def ch : CmdHdr := ⟨1, 1, 0, false, false, false, 1, 0, 0, 0, 0, 0, 0, 0⟩
def frm : EthFrame := ⟨true, none, true, false, false, true, 7, 47810, 1, none, 9, true, 3, 256, 0, 0, 0⟩
def env : BringUpEnv := { failed := [], deadFrames := [], combFail := [], superFail := [], deepFail := [], portFail := [], superRows := [], deepRows := [], deepRetired := 0, chipFail := [], burfaOk := [0, 1], coreFwOk := true, waggleRounds := 0, waggleFail := [], netBOk := true, linksUp := [4], phaseUs := [], }

theorem test_wf_accepts : ([.add c0 1 2 3, .dataPacketReceive 1 dh false 9 [], .commandPacketReceive 1 5 ch 9 [], .frameReceive 7 frm,
    .enableAssert false env, .thermalSample .deep none] : List Instr).all (·.wf) = true := by decide

theorem test_wf_refuses : ([.add ⟨320, .capped⟩ 1 2 3, .taskStart 320, .copy 0 32, .requestLands 320 0, .signalMessage 0 320,
    .beatRelease 4 0 0 0 0, .beatRelease 0 0 3 0 0, .beatRelease 0 0 0 20 0, .deadlock 0 32, .barrierTimeout 4, .baseAbandonment 0 (.member 65536),
    .frameWake 20, .promote 32, .readyWrite 0 256, .migrationCopied 8, .combFill 16 0, .combFill 0 (2 ^ 32), .patrolScrub ⟨7, 0⟩ 0 false false,
    .patrolScrub ⟨0, 0⟩ (2 ^ 31) false false, .patrolScrub ⟨6, 320⟩ 0 false true, .patrolScrub ⟨13, 0⟩ 0 true false, .rtoExpiry 0 ⟨2 ^ 24, 0⟩, .rowRepair 4 0 0, .pageRetirement 0 163840, .tierMapEntryError (2 ^ 22), .fusedUpdate 4 0,
    .pushReceipt 0 (2 ^ 24), .normPartialArrival 0 16 0 0 0, .normFactorArrival 0 0 (2 ^ 32) 0#32, .frameReceive 8 frm,
    .frameReceive 0 { frm with prio := 8 }, .frameReceive 0 { frm with vlan := some 4096 }, .dataPacketReceive 2 dh false 9 [],
    .dataPacketReceive 0 { dh with chan := 4096 } false 9 [], .dataPacketReceive 0 dh false 65536 [], .ackReceive 0 { dh with iv := 2 ^ 96 },
    .pfcFrameReceive 0 256, .announceReceive 0 (2 ^ 128) [], .announceTimer 8, .pfcPauseExpiry 0 8, .peerMissTick 65536, .failback 0 65536,
    .ptpMessage ⟨8, 0⟩ 0 true, .ptpMessage ⟨0, 256⟩ 0 true, .commandPacketReceive 0 0 { ch with seq := 2 ^ 32 } 0 [], .commandPacketReceive 0 0 { ch with kind := 16 } 0 [],
    .ident 64, .discard 0 [340], .ptest 64 [], .rebuild 64 [] [] [] true, .moduleReset 0 { env with failed := [340] }, .commandComplete 0 (2 ^ 32),
    .eventAcknowledgement 69 0, .eventResend 69, .cageOvercurrent 8, .deviceInsertion 0 65536 0 false, .deviceInsertion 0 0 8 false,
    .parameterWrite (2 ^ 32) 0#32, .logRecordReceipt 0 0 [1], .parityContributionReceipt 0 16 0 0 0 [], .enableAssert false { env with portFail := [8] },
    .inputPowerReturn (2 ^ 16) env, .inputLow (2 ^ 16), .waggleChunk 65536 0 0 0 false [], .thermalSample (.super 4) none,
    .thermalSample (.dieFrame 64) none] : List Instr).all (fun c => !c.wf) = true := by decide

/-! ## What the statements' hypotheses ask: a state that meets them, and small steps -/

theorem witness_StepRunsTheFrontCommand :
    step { State.reset with pending := [.linkDown 0, .tmloRead] } = exec (.linkDown 0) { State.reset with pending := [.tmloRead] } := rfl

theorem witness_WellFormedCommandsComplete : (Instr.gatom ⟨319, .spec2⟩ 31 0 1 7).wf = true ∧
    after (.gatom ⟨319, .spec2⟩ 31 0 1 7) State.reset (· == State.reset) = true := by decide +kernel

theorem witness_StepsAreNeverRefused : State.reset.pending = [] ∧
    (match step { State.reset with pending := [.taskStart 320] } with | .fault .noSuchUnit => true | _ => false) = true := ⟨rfl, by decide +kernel⟩

theorem witness_NonVolatileNeverGoesBack :
    let s : State := { State.reset with pending := [.linkDown 0], nv := { failed := [3], retired := [(0, 5)], opened := false } }
    outNext (step s) = true ∧ 3 ∈ s.nv.failed ∧ (0, 5) ∈ s.nv.retired ∧ s.nv.opened = false := by decide +kernel

/-- R444 at its boundary: a difference of exactly 2^31 is earlier, one less is later. -/
theorem test_serial_boundary : serialLater 32 (2 ^ 31 - 1) 0 = true ∧ serialLater 32 (2 ^ 31) 0 = false ∧ serialEarlier 32 (2 ^ 31) 0 = true ∧
    serialLater 16 3 0xFFFE = true ∧ serialEarlier 16 0xFFFE 3 = true ∧ serialLater 1 1 0 = false := by decide +kernel

theorem witness_RegistersReadWhatWasWritten : (on (withCore { startNext := some 0 })).dev.toStart 0 = some 0 ∧
    after (.taskStart 0) (on (withCore { startNext := some 0 })) (fun t => (t.dev.core 0).tasks.map (fun u => (u.pc, u.reg 1, u.reg 4, u.reg 5)) ==
      [(4, 7#64, 10#64, 0#64)]) = true := by decide +kernel

/-- A capped and a speculative task can execute. -/
theorem witness_issues : ctl.issues c0 task = true ∧ ctl2.issues c1 task = true ∧ (∀ y ∈ shiftTable, after (y.1 c0 3 1 63) (on ctl) (fun _ => true) = true) ∧
    (63#14).toNat < 64 := by decide +kernel

theorem test_alu : after (.add c0 3 1 2) (on ctl) (fun t => (t.dev.core 0).tasks.map (fun u => (u.reg 3, u.pc)) == [(0x8000000000000065#64, 12)]) = true ∧
    after (.sltu c0 3 1 2) (on ctl) (fun t => (t.dev.core 0).tasks.map (·.reg 3) == [1#64]) = true ∧
    after (.slt c0 3 1 2) (on ctl) (fun t => (t.dev.core 0).tasks.map (·.reg 3) == [0#64]) = true ∧
    after (.divu c0 3 1 0) (on ctl) (fun t => (t.dev.core 0).tasks.map (·.reg 3) == [0xFFFFFFFFFFFFFFFF#64]) = true ∧
    after (.remu c0 3 1 0) (on ctl) (fun t => (t.dev.core 0).tasks.map (·.reg 3) == [96#64]) = true ∧
    after (.sra c0 3 2 5) (on ctl) (fun t => (t.dev.core 0).tasks.map (·.reg 3) == [0x8000000000000005#64]) = true ∧
    after (.luh c0 1 0x40000#19) (on ctl) (fun t => (t.dev.core 0).tasks.map (·.reg 1) == [0xFFF8000000000060#64]) = true ∧
    after (.lui c0 1 0x7FFFF#19) (on ctl) (fun t => (t.dev.core 0).tasks.map (·.reg 1) == [0xFFFFFFFFFFFFC000#64]) = true := by decide +kernel

theorem test_branch : after (.beq c0 1 1 (-2#14)) (on ctl) (fun t => (t.dev.core 0).tasks.map (·.pc) == [0]) = true ∧
    after (.jal c0 5 3) (on ctl) (fun t => (t.dev.core 0).tasks.map (fun u => (u.pc, u.reg 5)) == [(20, 12#64)]) = true ∧
    after (.jr c0 0 1 3#14) (on ctl) (fun t => (t.dev.core 0).tasks.map (·.pc) == [96]) = true := by decide +kernel

/-- Both reach of `xa + imm`: LD at 96 reads what ST wrote there; the same at the last word of the scratchpad. -/
theorem witness_ScratchpadLoadsAndStores : effective task 1 0#14 = 96 ∧ (∀ y ∈ wide, padReadable ctl c0 96 y.2 = true) ∧
    padReadable (withCore { tasks := [{ task with x := [(1, 393208#64)] }] }) c0 393208 8 = true ∧
    (∀ y ∈ wideSt, padWritable ctl c0 task 96 y.2 = true ∧ padWritable ctl2 c1 task 96 y.2 = true) ∧
    (ctl.core 0).writeWaits (ctl.rings 0) [(96, 8)] = false ∧ (ctl2.core 0).wbuf.length < 1024 ∧
    after (.st c0 2 1 0#14) (on ctl) (fun t => after (.lw c0 4 1 4#14) t (fun u => (u.dev.core 0).tasks.map (·.reg 4) == [0x80000000#64])) = true ∧
    after (.st c1 2 1 0#14) (on ctl2) (fun t => after (.ld c1 4 1 0#14) t (fun u =>
      ((u.dev.core 0).tasks.map (·.reg 4)).getLast? == some 0x8000000000000005#64 && (u.dev.core 0).pad == [] && (u.dev.core 0).wbuf.length == 1)) = true := by
  decide +kernel

/-- The unified range: page 0 belongs to context 0, its line 0 is in the comb. -/
def uniDev (d : Dev) : Dev := ({ d with mem := [(64, 5#8)] }.setTm 0 { valid := true, dev := 0 }).combAlloc 0
def uniTask : TaskRun := { uid := 9, tid := 1, pc := 8, x := [(1, 64#64), (2, 3#64)] }
def uni : Dev := uniDev (withCore { tasks := [uniTask], icache := [0] })
def uni2 : Dev := uniDev (withCore { tasks := [{ uid := 3, tid := 0 }, uniTask] })

theorem witness_UnifiedLoadsAndStores : effective uniTask 1 0#14 = 64 ∧ uni.issues c0 uniTask = true ∧ uni2.issues c1 uniTask = true ∧
    (∀ y ∈ wideUni, uniReadable uni c0 64 y.2 = true) ∧ (∀ y ∈ wideUniSt, uniWritable uni c0 uniTask 64 y.2 = true ∧ uniWritable uni2 c1 uniTask 64 y.2 = true) ∧
    (uni.core 0).dcache.find? (fun l => l.1 == 1) = none ∧ uni.combHas 0 = true ∧ uni.memPoisoned 64 8 = false ∧ noWindows uni = true ∧
    (uni2.core 0).wbuf.length < 1024 ∧ (uni.core 0).atom = none ∧
    after (.gld c0 4 1 0#14) (on uni) (fun t => (t.dev.core 0).tasks.map (·.reg 4) == [5#64] &&
      ((t.dev.core 0).dcache.find? (fun l => l.1 == 1)).isSome && uniReadable t.dev c0 64 8 && t.dev.issues c0 { uniTask with pc := 12, x := [(1, 64#64), (2, 3#64), (4, 5#64)] }) = true ∧
    after (.gst c0 2 1 8#14) (on uni) (fun t => t.dev.mem == [(64, 5#8), (72, 3#8)]) = true ∧
    after (.gatom c0 4 1 2 1#3) (on uni) (fun t => t.dev.tiers.atomics == [0] &&
      after (.combAtomic 0) t (fun u => u.dev.mem == [(64, 8#8)] && (u.dev.core 0).tasks.map (·.reg 4) == [5#64])) = true := by decide +kernel

/-- The first instruction of a line of code misses the instruction cache and the next one of that line hits (Table 5-4, R133). -/
theorem test_fetch_counts_a_miss_once : after (.addi c0 3 1 1#14) (on ctl) (fun t => (t.dev.core 0).icache == [0] &&
    Store.get 0#32 (t.dev.core 0).counters 9 == 1#32 &&
    after (.addi c0 3 1 1#14) t (fun u => (u.dev.core 0).icache == [0] && Store.get 0#32 (u.dev.core 0).counters 9 == 1#32)) = true := by
  decide +kernel

/-- Faults: address 97 is misaligned, the scratchpad ends at 393,216, byte 65,536 is outside the write set. -/
theorem witness_ControlFaults : effective task 1 1#14 % 8 ≠ 0 ∧ effective task 1 1#14 % 4 ≠ 0 ∧
    (let t : TaskRun := { task with x := [(1, 393216#64)] }
     (withCore { tasks := [t] }).issues c0 t = true ∧ effective t 1 0#14 % 8 = 0 ∧ padBytes < effective t 1 0#14 + 8) ∧
    (let t : TaskRun := { task with x := [(1, 65536#64)] }
     (withCore { tasks := [t] }).outsideWs 0 0 false (effective t 1 0#14) 8 = true ∧ ctl.outsideWs 0 0 false 65528 8 = false) ∧ 64 ≤ (64#14).toNat ∧
    after (.ld c0 3 1 1#14) (on ctl) (fun t => (t.dev.core 0).tasks == [] && (t.dev.core 0).endl && (t.dev.part 0).resetDue &&
      (t.dev.core 0).frec.map (fun f => (f.code, f.tid, f.pc, f.addr)) == some (0x0102, 0, 8, 97)) = true ∧
    after (.shli c1 3 1 64#14) (on ctl2) (fun t => ((t.dev.core 0).tasks.map (·.held)).map (·.map (·.code)) == [none, some 0x0101]) = true ∧
    after (.tabt c0 (-1#14)) (on ctl) (fun t => (t.dev.core 0).frec.map (fun f => (f.code, f.addr)) == some (0x0104, 0xFFFFFFFF)) = true := by decide +kernel

theorem witness_TasksStartEndAndWait : (ctl.core 0).tasks = [task] ∧ tdSucc (ctl.coreSec 0 2) 0 0 = 1 ∧ tdSucc (ctl.coreSec 0 2) 0 1 = 0xFFFF ∧
    (ctl.core 0).dispatch.writesDone 9 = true ∧
    (withCore { tasks := [task], vx := { queue := [⟨9, 0, 8, 0, 0⟩] } }).issues c0 task = true ∧
    ((withCore { tasks := [task], vx := { queue := [⟨9, 0, 8, 0, 0⟩] } }).core 0).dispatch.writesDone 9 = false ∧
    ctl.special 0 task 6 = some 0 ∧ ctl.special 0 task 7 = none ∧
    after (.tend c0 0#14) (on ctl) (fun t => (t.dev.core 0).startNext == some 1 && (t.dev.core 0).tasks == []) = true ∧
    after (.tend c0 1#14) (on ctl) (fun t => (t.dev.core 0).startNext == none && (t.dev.core 0).endl) = true ∧
    after (.bwait c0 2#14) (on ctl) (fun t => (t.dev.core 0).tasks == [{ task with bwait := some 2 }]) = true ∧
    after (.spr c0 4 1#14) (on ctl) (fun t => (t.dev.core 0).tasks.map (·.reg 4) == [0#64]) = true := by decide +kernel

theorem witness_PushesAndMailboxReads : (ctl.readyCore c0).mx.queue.length < 8 ∧ (ctl.core 0).vx.queue.length < 16 ∧
    (vecDest ⟨9, 0, 8, 0x61000000, 96⟩).all (fun q => !(ctl.outsideWs 0 0 false q.1 q.2)) = true ∧
    (let d := withCore { tasks := [task], vx := { mailbox := [7#32], flagBase := 0x101#12 } }
     d.issues c0 task = true ∧ (d.core 0).vx.mailbox = [7#32] ∧
     after (.mvr c0 4) (on d) (fun t => (t.dev.core 0).tasks.map (·.reg 4) == [7#64] && (t.dev.core 0).vx.mailbox == []) = true ∧
     after (.estat c0 4 1 1#14) (on d) (fun t => (t.dev.core 0).tasks.map (·.reg 4) == [0x200101#64]) = true) ∧
    after (.pushv c0 1 0x61000000#32 5#32) (on ctl) (fun t => (t.dev.core 0).vx.queue == [⟨9, 0, 8, 0x61000000, 96⟩]) = true ∧
    after (.pushm c0 1#32 2#32 3#32 4#32) (on ctl) (fun t => (t.dev.core 0).tasks.map (·.pc) == [28]) = true := by decide +kernel

/-- A vector instruction VD = V3, VA = V1, VB = V2, VC = V4 under mask M1, with M1 set for lanes 0 and 2. -/
def vop (op : Nat) (pk : Bool) : VecOp := ⟨9, 0, 8, op + 3 * 2 ^ 8 + 2 ^ 13 + 2 * 2 ^ 18 + 4 * 2 ^ 23 + b2n pk * 2 ^ 28 + 2 ^ 29, 0⟩
def vcore (o : VecOp) : Core :=
  { tasks := [task], vx := {
      queue := [o], m := [(1, 5#512)],
      v := [(256, 0x3F803F80#32), (258, 0x40003F80#32), (512, 0x40404000#32), (514, 0xBF803F80#32), (770, 0x12345678#32)] } }
def vst (o : VecOp) : State := on (withCore (vcore o))

theorem witness_vectors : (∀ y ∈ eltTable, (on (withCore (vcore (vop y.2.1 true)))).dev.core 0 = vcore (vop y.2.1 true) ∧ vOp (vop y.2.1 true) = y.2.1) ∧
    (vcore (vop 1 true)).vx.queue = [vop 1 true] ∧ (vcore (vop 1 true)).heldEntry 9 = false ∧ vPk (vop 1 false) = false ∧ vPk (vop 1 true) = true ∧
    (∀ y ∈ cmpTable, vOp (vop y.2.1 false) = y.2.1) ∧ (∀ y ∈ maskTable, vOp (vop y.2.1 false) = y.2.1 ∧ vVD (vop y.2.1 false) % 8 ≠ 0) ∧
    (∀ y ∈ reduceTable, vOp (vop y.2.1 false) = y.2.1) ∧ vVC (vop 0x40 false) % 4 = 0 := by decide +kernel

/-- In FP32 mode lane 0 gets 1.0019378662109375 + 3.00390625; in packed mode its low half gets 1.0 + 2.0 and its high half, element 1,
is masked. -/
theorem test_fadd : after (.fadd 0) (vst (vop 1 false)) (fun t => (t.dev.core 0).lane 3 0 == 0x40802FE0 && (t.dev.core 0).lane 3 1 == 0 &&
      (t.dev.core 0).vx.queue == []) = true ∧
    after (.fadd 0) (vst (vop 1 true)) (fun t => (t.dev.core 0).lane 3 0 == 0x00004040 && (t.dev.core 0).lane 3 2 == 0x12345678) = true := by decide +kernel

theorem test_compare : after (.fclt 0) (vst (vop 0x11 false)) (fun t => (t.dev.core 0).maskBit 3 0 && !(t.dev.core 0).maskBit 3 2 &&
    !(t.dev.core 0).maskBit 3 1) = true := by decide +kernel

/-- VLD of FP32 rows at 96; VSTB of lane bytes; VCFG, VOUT with room and without. -/
def lop (op fmt : Nat) : VecOp := ⟨9, 0, 8, op + 3 * 2 ^ 8, fmt * 2 ^ 28 + 16 * 2 ^ 14 + 3⟩

theorem witness_vector_memory : let o := lop 0x60 4
    (vOp o = 0x60 ∧ rangeBreak (lsRanges o) = none ∧ (vcore o).readCheck (ctl.rings 0) (ctl.guard 0) .engine (lsRanges o) = .ok ()) ∧
    (let o := lop 0x61 4; vOp o = 0x61 ∧ rangeBreak (lsRanges o) = none ∧ (vcore o).writeWaits (ctl.rings 0) (lsRanges o) = false) ∧
    (let o := lop 0x62 0; vOp o = 0x62 ∧ rangeBreak (lsByteRanges o) = none ∧
      (vcore o).readCheck (ctl.rings 0) (ctl.guard 0) .engine (lsByteRanges o) = .ok ()) ∧
    (let o := lop 0x63 0; vOp o = 0x63 ∧ rangeBreak (lsByteRanges o) = none ∧ (vcore o).writeWaits (ctl.rings 0) (lsByteRanges o) = false ∧
      128 ≤ lsStride o) ∧ (lop 0x70 0).w1 < 2 ^ 32 ∧ vOp (lop 0x71 0) = 0x71 ∧
    (∀ k ∈ [3, 4], ({ vcore (lop 0x71 0) with vx := { (vcore (lop 0x71 0)).vx with mailbox := List.replicate k 1#32 } } : Core).vx.mailbox.length = k) ∧
    after (.vldb 0) (on (withCore { vcore (lop 0x62 0) with pad := [(97, 0xFE#8), (609, 7#8)] })) (fun t =>
      (t.dev.core 0).lane 3 1 == 0xFE && (t.dev.core 0).lane 3 129 == 7 && (t.dev.core 0).lane 3 2 == 0) = true := by decide +kernel

/-- One MMA in I8 mode, one row, one column: entry (0, 0) of bank A gets 3 x 5 on top of 2. -/
def mmaOp : MatOp := ⟨0, 9, 0, 8, 0x00001201, 0, 6 * 2 ^ 14 + 64, 0⟩
def mcore : Core :=
  { tasks := [task], mx := { array := some mmaOp, bankA := { mode := some (true, 0), ent := [(0, ⟨2, true, false⟩)] } },
    pad := [(224, 3#8), (2048, 5#8)], w := [] }
def mheld : Core := { mcore with mx := { mcore.mx with shadow := some (mcore.padRead 2048 (mmaHeldBytes mmaOp)) } }

theorem witness_MatrixMultiply : mmaH mmaOp = 2048 ∧ mcore.mx.shadow = none ∧
    (mcore.mx.earlier mmaOp).any (fun e => rangesMeet [(mmaH mmaOp, mmaHeldBytes mmaOp)] (mxWrites e)) = false ∧
    mcore.readCheck (ctl.rings 0) (ctl.guard 0) .engine [(mmaH mmaOp, mmaHeldBytes mmaOp)] = .ok () ∧ mheld.mx.blocked mmaOp = false ∧
    mheld.readCheck (ctl.rings 0) false .stream (mmaMaskRanges mmaOp ++ mmaAllRanges mmaOp) = .ok () ∧ mmaAcc mmaOp = true ∧
    modeOk mheld.mx.bankA (mmaI8 mmaOp) (mmaE mmaOp) = true ∧ mmaBanks mmaOp = (true, false) ∧
    mheld.readCheck (ctl.rings 0) (ctl.guard 0) .engine (mmaMaskRanges mmaOp ++ mmaStreamRanges mheld mmaOp) = .ok () := by decide +kernel

theorem test_mma : after (.mma 0) (on (withCore mheld)) (fun t => Store.get {} (t.dev.core 0).mx.bankA.ent 0 == ⟨17, true, false⟩ &&
    (t.dev.core 0).mx.shadow == none) = true := by decide +kernel

/-- MDRAIN of an I32 entry to address 96, and MALIGN of BF16. -/
def mdOp : MatOp := ⟨0, 9, 0, 8, 0x00000802, 0, 3, 0⟩
def maOp : MatOp := ⟨0, 9, 0, 8, 31 * 2 ^ 20 + 0x303, 3, 2 ^ 14 * 6 + 64, 0⟩
def dcore : Core :=
  { tasks := [task], pad := [(96, 0x80#8), (97, 0x3F#8)],
    mx := { drainer := some mdOp, aligner := some maOp, bankA := { mode := some (true, 0), ent := [(0, ⟨-2, true, false⟩)] } } }

theorem witness_DrainAndAlign : mdI8 mdOp = true ∧ dcore.mx.blocked mdOp = false ∧ dcore.writeWaits (ctl.rings 0) (mdRanges mdOp) = false ∧
    ({ dcore with mx := { dcore.mx with drainer := none } } : Core).mx.blocked maOp = false ∧ dcore.writeWaits (ctl.rings 0) (maDstRanges maOp) = false ∧
    dcore.readCheck (ctl.rings 0) (ctl.guard 0) .engine (maSrcRanges maOp) = .ok () ∧ maInvalid dcore maOp = false ∧
    maInvalid { dcore with pad := [(96, 0x80#8), (97, 0x7F#8)] } maOp = true ∧
    (({ mode := some (false, 0) } : Bank).mode = some (false, 0) ∧ false ≠ mdI8 mdOp) ∧
    after (.mdrain 0) (on (withCore dcore)) (fun t => (t.dev.core 0).padRead 96 4 == [0xFE#8, 0xFF#8, 0xFF#8, 0xFF#8]) = true ∧
    after (.mdrain 0) (on (withCore { dcore with mx := { dcore.mx with bankA := { mode := some (false, 0) } } })) (fun t =>
      (t.dev.core 0).frec.map (fun f => (f.code, f.eng)) == some (0x0202, true)) = true := by decide +kernel

/-- Contributions 3 x 5 and 2 x 2 on top of 2 in an entry whose lock is clear. -/
theorem test_accumulation : mmaEntry mmaOp [⟨3, 0, false⟩, ⟨2, 0, false⟩] [⟨5, 0, false⟩, ⟨2, 0, false⟩] ⟨2, true, false⟩ = (⟨21, true, false⟩, false) := by decide +kernel

/-- A copy of 512 bytes from 96 of L0 to 1,024 of L1, its image at 192; a window on ring 3 of four chunks 32 bytes apart from address 0,
its image at 256. -/
def copyImg : List Nat := [2 ^ 28 + 2 * 2 ^ 9 + 2 ^ 8 + 4, 96, 0, 1024, 2 ^ 22, 511 * 2 ^ 16, 0, 0]
def winImg : List Nat := [0, 3 * 2 ^ 9, 32, 4, 0, 0, 0, 0]
def imgPad : Store Byte := ((words (copyImg ++ List.replicate 8 0 ++ winImg)).zipIdx 192).filterMap (fun x => if x.1 = 0#8 then none else some (x.2, x.1))
def stask : TaskRun := { task with x := [(1, 192#64), (2, 256#64), (3, 5#64)] }
def score : Core := { tasks := [stask], pad := imgPad }
def sspec : Core := { score with tasks := [{ uid := 3, tid := 1 }, stask] }
def streams : Dev := uniDev (withCore score)

theorem witness_StreamInstructions : streams.issues c0 stask = true ∧ (withCore sspec).issues c1 stask = true ∧ sspec.wbuf.length < 1024 ∧
    (31#14).toNat < 32 ∧ (63#14).toNat < 64 ∧ (stask.reg 1).toNat % 32 = 0 ∧ (stask.reg 2).toNat % 32 = 0 ∧ (stask.reg 2).toNat + 32 ≤ padBytes ∧
    score.imgPoisoned 192 = false ∧ score.imgAt 192 = copyImg ∧ streams.armFaults 0 0 copyImg = [] ∧ Store.get none score.su.desc 31 = none ∧
    score.imgAt 256 = winImg ∧ winReserved winImg = false ∧ winChunks winImg ≠ 0 ∧ winVreq winImg = false ∧ score.su.win = [] ∧
    (streams.ringOf 0 (winRing winImg)).map (fun r => (r.pcls, streams.uniOutside 0 [((winExtent winImg r.slotBytes).1,
      ((winExtent winImg r.slotBytes).2 - (winExtent winImg r.slotBytes).1).toNat)])) = some (3, none) ∧
    streams.semTarget 0 63 = (0, 63) ∧ (stask.reg 3).toNat % 2 ^ 16 ≤ Store.get 0 [(63, 5)] 63 ∧
    after (.sarm c0 1 31#14) (on streams) (fun t => (Store.get none (t.dev.core 0).su.desc 31).map (·.img) == some copyImg) = true ∧
    after (.wopen c0 2 31#14) (on streams) (fun t => (Store.get none (t.dev.core 0).su.win 31).map (·.img) == some winImg) = true ∧
    after (.sems c0 3 63#14) (on streams) (fun t => Store.get 0 (t.dev.core 0).su.sem 63 == 5 &&
      (t.dev.core 0).tasks.map (·.pc) == [12]) = true ∧
    after (.semw c0 3 63#14) (on (withCore { score with su := { sem := [(63, 7)] } })) (fun t => Store.get 0 (t.dev.core 0).su.sem 63 == 2) = true ∧
    after (.swait c0 31#14) (on streams) (fun t => (t.dev.core 0).tasks.map (·.pc) == [12]) = true := by decide +kernel

/-- A descriptor in entry 31 of L0. -/
def sd (img : List Nat) : SDesc := { img := img, uid := 9, tid := 0, pc := 8, ctx := 0, step := 0, phase := 0 }
def armed (x : SDesc) : Dev := uniDev (withCore { score with su := { desc := [(31, some x)], sem := [(2, 65530)] } })
def guardImg : List Nat := [5 * 2 ^ 28, 0, 0, 64, 0, 31 * 2 ^ 16, 0, 0]

def gcore : Core := { score with w := [(1, true), (2, true), (3, true)], su := { desc := [(31, some (sd guardImg))] } }

theorem witness_ArmedDescriptorsStart : (∀ y ∈ startTable, sdKind (y.2 * 2 ^ 28 :: copyImg.tail) = y.2 ∧
      after (y.1 0 31) (on (armed (sd (y.2 * 2 ^ 28 :: copyImg.tail)))) (fun t => (Store.get none (t.dev.core 0).su.desc 31).map (·.started) == some true) = true) ∧
    sdKind guardImg = 5 ∧ after (.guardClear 0 31) (on { armed (sd guardImg) with cores := [(0, gcore)] }) (fun t => (t.dev.core 0).w == [(1, true), (3, true)]) = true := by decide +kernel

/-- The copy has started; then its one request is in flight; then it has landed. -/
def running : SDesc := { sd copyImg with started := true }
def flyingSu : StreamUnit :=
  { desc := [(31, some { running with pos := 512, inflight := 1 })], sem := [(2, 65530)],
    req := [{ tag := 0, owner := .desc 31, runs := [(.pad 1 1024, [7#8, 8#8], false)] }] }
def flying : Dev := { armed running with cores := [(0, { score with su := flyingSu })] }

theorem witness_Transfers : (running.started = true ∧ running.stopped = false ∧ sdKind copyImg = 1 ∧ sdSring copyImg = false ∧ sdDring copyImg = false ∧
      sdSuni copyImg = false ∧ sdDuni copyImg = false ∧ lightPath 0 copyImg = false ∧ sdTotal copyImg = 512 ∧ sdDcore copyImg = 1 ∧
      ((armed running).core 0).su.freeTag.isSome = true ∧ (armed running).srcWaits (false, 0, 96, 512) = false) ∧
    (((flying.core 0).su.req.map (fun q => (q.held, olderFirst (flying.core 0).su.req q, flying.landBlocked q))) = [(false, false, false)]) ∧
    (sdCsen copyImg = true ∧ flying.semTarget 0 (sdCsem copyImg) = (0, 2) ∧ 65530 + sdCscnt copyImg ≤ 65535) ∧
    after (.descriptorRequest 0 31) (on (armed running)) (fun t => (t.dev.core 0).su.req.map (fun q => (q.tag, q.light, q.owner, q.runs.map (fun r =>
      (r.1, r.2.1.length)))) == [(0, false, .desc 31, [(.pad 1 1024, 512)])]) = true ∧
    after (.requestLands 0 0) (on flying) (fun t => (t.dev.core 1).padRead 1024 2 == [7#8, 8#8] && (t.dev.core 0).su.req == []) = true ∧
    after (.descriptorCompletion 0 31) (on (armed { running with pos := 512 })) (fun t => Store.get none (t.dev.core 0).su.desc 31 == none &&
      Store.get 0 (t.dev.core 0).su.sem 2 == 65535) = true := by decide +kernel

/-- Ring 4 of L0 takes from L7, which has spent two credits; L1 has signalled; a request of L1 waits in L0's inbound hold. -/
def messages : Dev := { streams with cores := [
  (0, { score with su := { creditMsg := [(4, 1)], signal := [(1, [(2, 3, ⟨0, 0, false⟩)])], hold := [⟨1, 0⟩], bucket := ⟨512, 64, 32700⟩ } }),
  (1, { su := { req := [{ tag := 0, owner := .desc 0, held := true, runs := [(.pad 0 1024, [7#8], false)] }] } }),
  (7, { su := { credit := [(4, 2)] } })] }

theorem witness_Messages : (messages.ringOf 0 4).map (·.pcore) = some 7 ∧ Store.get 0 (messages.core 0).su.creditMsg 4 = 0 + 1 ∧
    Store.get [] (messages.core 0).su.signal 1 = [(2, 3, ⟨0, 0, false⟩)] ∧ Store.get 0 (messages.core 0).su.sem 2 + 3 ≤ 65535 ∧
    ((messages.core 1).su.req.map (fun q => messages.landBlocked q)) = [false] ∧
    after (.creditMessage 0 4) (on messages) (fun t => Store.get 0 (t.dev.core 7).su.credit 4 == 1 && Store.get 0 (t.dev.core 0).su.creditMsg 4 == 0) = true ∧
    after (.signalMessage 0 1) (on messages) (fun t => Store.get 0 (t.dev.core 0).su.sem 2 == 3) = true ∧
    after (.inboundHoldWrite 0) (on messages) (fun t => (t.dev.core 0).padByte 1024 == 7#8 && (t.dev.core 1).su.req == [] && (t.dev.core 0).su.hold == []) = true ∧
    after .bucketRefill (on messages) (fun t => (t.dev.core 0).su.bucket.tokens == 32768 && (t.dev.sup 0).bucket.tokens == 10923) = true := by decide +kernel

/-- A window whose chunk 0 lies in a mapped page, and one whose page is in no map. -/
def wopened (base : Nat) : Dev := uniDev (withCore { score with su := { bucket := ⟨512, 64, 32768⟩, win := [(31, some
  { img := winImg, base := base, owner := none, pc := 0, ctx := 0 })] } })

theorem witness_ForagerRequests : (wopened 0).ringOf 0 3 = some ⟨3, 4096, 1, 2, 3, 0, 0⟩ ∧ ((wopened 0).core 0).filled ⟨3, 4096, 1, 2, 3, 0, 0⟩ 0 = false ∧
    (wopened 0).mapRead 0 0 = true ∧ ((wopened 0).tm 0).nopf = false ∧ ((wopened 0).core 0).su.freeTag = some 0 ∧
    (wopened (2 ^ 30)).mapRead 0 (2 ^ 30 / pageBytes) = false ∧
    (let d := { wopened 0 with supers := [(0, { bucket := ⟨10923, 256, 100⟩ })] }
     d.devTokens 0 = some 100 ∧ after (.foragerRequest 0 31) (on d) (fun t => (t.dev.core 0).su.req.map (fun q => (q.tag, q.runs.map (·.2.1.length))) ==
      [(0, [32])] && (t.dev.core 0).su.bucket.tokens == 32736) = true) ∧
    after (.foragerRequest 0 31) (on (wopened (2 ^ 30))) (fun t => (t.dev.core 0).u == [(4096, true)] && (t.dev.core 0).su.req == []) = true := by decide +kernel

/-! Beats, schedules, tiers -/

/-- The job runs; the frames are off, so that every core counts as arrived. -/
def beats (x : Partition) (c : Context) : Dev := { parts := [(0, x)], ctxs := [(0, c)], brd := { ready with frames := [] } }
/-- The context stands in the last beat of a step, two steps ahead of the cap. -/
def ahead2 : Context := { ctx0 with stamp := ⟨2, 1, 2⟩ }

theorem witness_BeatRelease : (let d := beats part ctx0
      d.running 0 = true ∧ d.lateFrames 0 = [] ∧ d.undrained 0 = [] ∧ d.brd.dieStage < 2 ∧ d.imgCtxs 0 = [0] ∧ (d.ctx 0).nextRun = none ∧
      d.tiers.runs = [] ∧ d.mayNotAdvance 0 0 = false ∧ d.ownedSlices 0 = [(0, 0), (0, 1)] ∧ (d.part 0).capped + 2 < 2 ^ 32 ∧
      (d.ctx 0).stamp.step ≤ (d.part 0).capped + 2) ∧
    (beats part ahead2).mayNotAdvance 0 0 = true ∧ (ahead2).stamp.step ≤ 0 + 2 ∧ (beats { part with capped := 1 } ahead2).mayNotAdvance 0 0 = false ∧
    (let d := { beats part ctx0 with cores := (0, { tasks := [{ task with bwait := some 0 }] }) :: (1, { tasks := [{ task with bwait := some 1 }] }) :: [] }
     d.lateFrames 0 = [] ∧ after (.beatRelease 0 7 1 2 0) (on d) (fun t => (t.dev.core 0).tasks == [{ task with pc := 12 }] &&
      (t.dev.core 1).tasks == [{ task with bwait := some 0 }] && (t.dev.ctx 0).stamp == ⟨0, 0, 1⟩ && (t.dev.part 0).beat == 1) = true) ∧
    after (.beatRelease 0 7 1 2 0) (on (beats { part with capped := 1 } ahead2)) (fun t => (t.dev.ctx 0).stamp == ⟨3, 0, 0⟩ && !(t.dev.part 0).hold) = true ∧
    after (.beatRelease 0 7 1 2 9) (on (beats part ahead2)) (fun t => (t.dev.ctx 0).stamp == ⟨2, 1, 2⟩ && (t.dev.part 0).hold &&
      (t.dev.part 0).holdc == 9#32) = true := by decide +kernel

/-- L0 waits at a ring that nothing fills; every core has been blocked for 256 beats. -/
def stuckCore (n : Nat) : Core :=
  { su := { blkn := 256 }, tasks := if n = 0 then [task] else [],
    mx := { array := if n = 0 then some ⟨0, 9, 0, 8, 0x00001201, 0, 4096 * 2 ^ 14 + 64, 0⟩ else none } }
def stuck : Dev := { beats part ctx0 with cores := (List.range 320).map (fun n => (n, stuckCore n)) }

theorem witness_Deadlock : stuck.running 0 = true ∧ (stuck.part 0).resident = some 0 ∧ (∀ m ∈ stuck.partCores 0, 256 ≤ (stuck.core m).su.blkn) ∧
    (stuck.partCores 0).find? (fun n => !(stuck.waiters n).isEmpty) = some 0 ∧ (stuck.waiters 0).map (·.uid) = [9] ∧
    after (.deadlock 0 0) (on stuck) (fun t => (t.dev.core 0).tasks == [] && (t.dev.core 0).frec.map (fun f => (f.code, f.tid, f.pc)) ==
      some (0x0406, 0, 8)) = true := by decide +kernel

theorem witness_BarrierFaultsAndFrameStates : (withCore { tasks := [task] }).running 0 = true ∧ (withCore { tasks := [task] }).lateFrames 0 ≠ [] ∧
    after (.barrierTimeout 0) (on (withCore { tasks := [task] })) (fun t => (t.dev.part 0).resetDue) = true ∧
    (let d := (beats part ctx0).modFrame 19 (fun f => { f with pstate := 2 })
     (d.frame 19).pstate = 2 ∧ after (.frameWake 19) (on d) (fun t => (t.dev.frame 19).pstate == 0) = true) ∧
    (let d := (beats { part with hold := true } ctx0).modFrame 19 (fun f => { f with pstate := 0 })
     (d.part 0).image.isSome = true ∧ (d.part 0).hold = true ∧ after (.holdClockGate 0) (on d) (fun t => (t.dev.frame 19).pstate == 1) = true) := by
  decide +kernel

/-- A due entry of each action, and page 0 as promotable. -/
def duel (e : List Nat) (c : Context) (m : TmEntry) : Dev := (beats part { c with due := [e] }).setTm 0 m
def pg : TmEntry := { valid := true, dev := 4 }

theorem witness_ScheduleEntriesAct : (let e := [0, 2 ^ 28, 0, 0]
      bits (e.getD 1 0) 31 28 = 1 ∧ entCount e = 1 ∧ entPage e = 0 ∧ pg.dev ≠ bits (e.getD 1 0) 9 8 ∧ pg.hint ≠ 3 ∧ pg.hint ≠ 4 ∧
      (duel e ctx0 pg).moveSpace = true ∧ ((duel e ctx0 pg).ctx 0).pins.contains 0 = false ∧
      after (.promote 0) (on (duel e ctx0 pg)) (fun t => (t.dev.ctx 0).pins == [0] && (t.dev.tm 0).pin == 1 && t.dev.tiers.queue.length == 1) = true) ∧
    (let e := [0, 2 ^ 29, 0, 0]
     bits (e.getD 1 0) 31 28 = 2 ∧ after (.demote 0) (on (duel e { ctx0 with pins := [0] } { pg with pin := 1, dev := 0 })) (fun t =>
      (t.dev.ctx 0).pins == [] && (t.dev.tm 0).pin == 0 && t.dev.tiers.queue.map (·.dev) == [4]) = true) ∧
    bits (([0, 2 ^ 30, 0, 0] : List Nat).getD 1 0) 31 28 = 4 ∧
    (let e := [0, 3 * 2 ^ 28 + 31 * 2 ^ 10, 0, 0]
     bits (e.getD 1 0) 31 28 = 3 ∧ (duel e ctx0 pg).ctxOf 0 = 0 ∧
     (List.range 8).map (fun w => wordAt ((duel e ctx0 pg).imgSec 0 0x08 0 0) (4 * w)) = [0, 3 * 2 ^ 9, 32, 4, 0, 0, 0, 0] ∧
     after (.openw 0) (on (duel e ctx0 pg)) (fun t => (Store.get none (t.dev.core 0).su.win 31).map (·.owner) == some none) = true) := by decide +kernel

/-- A move of page 0 from the deep to S1, then its copy. -/
def mv : Move := { page := 0, dev := 1 }
def moving : Dev := (beats part ctx0).modTiers (fun t => { t with map := [(0, pg)], queue := [mv] })

theorem witness_Migration : moving.nextMove = some mv ∧ moving.freeChannel = some 0 ∧ (moving.tm 0).valid = true ∧
    (moving.tm 0).dev ≠ 1 ∧ (moving.tm 0).pin = 0 ∧
    (let d := moving.modTiers (fun t => { t with runs := [{ ch := 7, page := 0, dev := 1, ppn := 9, retire := false }] })
     (d.tiers.runs.find? (fun r => r.ch == 7 && !r.copied)).isSome = true ∧
     after (.migrationCopied 7) (on d) (fun t => (t.dev.tm 0).mst == 2 && t.dev.tiers.runs.map (·.copied) == [true]) = true) := by decide +kernel

/-- A free page is found, whichever the pool gives. -/
theorem witness_free_page : ∃ ppn d', moving.freePage (moving.addrPart (0 * pageBytes)) 1 = (some ppn, d') := ⟨_, _, rfl⟩

theorem witness_CombFillsAndAtomics : (let d := (beats part ctx0).modTiers (fun t => { t with fills := [(15, 4095)] })
      d.tiers.fills.contains (15, 4095) = true ∧ after (.combFill 15 4095) (on d) (fun t => t.dev.tiers.fills == [] && t.dev.combHas 4095) = true) ∧
    (let d := { uni with cores := [(0, { tasks := [uniTask], atom := some ⟨9, 4, 64, 3#64, 1⟩ })], tiers := { uni.tiers with atomics := [0] } }
     (d.core 0).atom.isSome = true ∧ (d.core 0).tasks = [uniTask] ∧ d.memPoisoned 64 8 = false ∧ noWindows d = true ∧
     after (.combAtomic 0) (on d) (fun t => t.dev.mem == [(64, 8#8)] && t.dev.tiers.atomics == []) = true) := by decide +kernel

/-- A page with a stored error, a row that qualifies for repair, and one whose bank has no spare left. -/
def errors : Dev := (beats part ctx0).modTiers (fun t => { t with map := [(0, { pg with dev := 0, ppn := 4 })], rowBad := [(0, 5 * 2 ^ 32 + 6, 4)], tmsel := 0 })
def noSpares : List (Nat × Nat × Nat) := List.replicate 8 (0, 5, 1)

theorem witness_Errors : errors.pageAt 0 (4 * 8192 / 8192) = some (0, { pg with dev := 0, ppn := 4 }) ∧ errors.pageAt 0 9 = none ∧
    errors.tiers.rowBad.find? (fun q => q.1 == 0 && q.2.1 == 5 * 2 ^ 32 + 6) = some (0, 5 * 2 ^ 32 + 6, 4) ∧ sparesLeft [] 0 5 ≠ 0 ∧ sparesLeft noSpares 0 5 = 0 ∧
    errors.freeCount 0 4 ≠ 0 ∧ (errors.tm 0).valid = true ∧
    after (.patrolScrub ⟨0, 0⟩ (4 * 8192) true false) (on errors) (fun t => Store.get 0#32 t.dev.tiers.devCnt 3 == 1#32) = true ∧
    after (.patrolScrub ⟨0, 0⟩ (4 * 8192) false true) (on errors) (fun t => Store.get false t.dev.memPoison 0) = true ∧
    after (.rowRepair 0 5 6) (on errors) (fun t => t.nv.remaps == [(0, 5, 6)] && t.dev.tiers.rowBad == []) = true ∧
    after (.pageRetirement 0 4) { dev := errors, nv := { remaps := noSpares } } (fun t => t.nv.retired == [(0, 4)] && t.dev.tiers.queue.map (·.retire) == [true]) = true ∧
    after (.tierMapEntryError 0) (on errors) (fun t => (t.dev.part 0).unloadDue) = true ∧
    after .tmloRead (on errors) (fun t => t.dev.tiers.tmhi == BitVec.ofNat 32 ((errors.tm 0).word / 2 ^ 32)) = true := by decide +kernel

/-! Micro-batches, contributions, updates -/

def mbDev (c : Context) : Dev := { beats { part with beat := 5 } c with tiers := { map := (List.range 12).map (fun k => (k, { pg with dev := 0 })) } }
def rec0 : FeedRec := { cur := 0, rid := 7, tokens := 3, addr := 0 }

theorem witness_MicroBatches : ((mbDev ctx0).blockTab 0).isEmpty = false ∧ bkSpm blockTable = 1 ∧ bkMbd blockTable = 2 ∧ noWindows (mbDev ctx0) = true ∧
    mbAddr blockTable 1 = 10 * pageBytes + 40960 + 2048 ∧
    after (.microBatchPreparation 0) (on (mbDev { ctx0 with feed := [rec0], nextMb := 3 })) (fun t => (t.dev.ctx 0).feed == [] && (t.dev.ctx 0).nextMb == 4 &&
      (Store.get none (t.dev.ctx 0).mbs 1).map (fun m => (m.mbn, m.ready)) == some (3, false)) = true ∧
    after (.readyWrite 0 1) (on (mbDev { ctx0 with mbs := [(1, some ⟨3, 0, false, 4⟩)] })) (fun t => (t.dev.part 0).mblast == 3 &&
      t.dev.memByte (mbAddr blockTable 1 + 15) == 0x80#8) = true ∧
    after (.relsWrite 0 1) (on (mbDev { ctx0 with mbs := [(1, some ⟨0, 0, true, 4⟩)] })) (fun t => (t.dev.ctx 0).mbs == []) = true ∧
    after (.relsWrite 0 1) (on ((mbDev { ctx0 with mbs := [(1, some ⟨3, 0, true, 4⟩)] }).memPut (mbAddr blockTable 1 + 16) (toLe 4 3) false)) (fun t =>
      (t.dev.part 0).resetDue && (t.dev.ctx 0).mbs.length == 1) = true := by decide +kernel

/-- A contribution of 1 and -2 in the first two elements to slice 0 for step `s`. -/
def contrib (s e : Nat) : Contrib := ⟨0, 0, s, 0, e, 5, 0, false, toLe 2 1 ++ toLe 2 0xFFFE, 0, none, none, 0⟩
def sumDev (q : List Contrib) (k : List Contrib) : Dev := { beats part ctx0 with supers := [(0, { arrivals := q, parkq := k })] }

def sideAdd : SideAdd := ⟨0, 0, 64, 0, [(5#8, false), (0#8, false), (0#8, false), (0#8, false)]⟩
def sideReq : Request := { tag := 0, owner := .desc 0, runs := [] }
def sideDev : Dev := { sumDev [] [] with supers := [(0, { adds := [sideAdd] })], cores := [(0, { su := { req := [sideReq] } })] }

theorem witness_Contributions : (sumDev [] []).checks 0 (contrib 1 1) = .drop ∧ (sumDev [] []).checks 0 (contrib 2 0) = .park ∧
    (sumDev [] []).checks 0 (contrib 1 0) = .add ∧ (sumDev [] []).checks 0 (contrib 0 0) = .fault 0x0702 true ∧ (sumDev [] []).lateChecks 0 (contrib 1 0) = .add ∧
    ((sumDev [] []).sup 0).slot (slSlot sliceTable 0) = none ∧ 1 < slEcnt sliceTable 0 ∧ slSlot sliceTable 0 = 3 ∧
    after (.contributionArrival 0) (on (sumDev [contrib 1 1] [])) (fun t => (t.dev.sup 0).arrivals == [] && Store.get 0#32 (t.dev.sup 0).cnt 4 == 1#32) = true ∧
    after (.contributionArrival 0) (on (sumDev [contrib 2 0] [])) (fun t => (t.dev.sup 0).parkq == [contrib 2 0]) = true ∧
    after (.contributionArrival 0) (on (sumDev [contrib 0 0] [])) (fun t => (t.dev.part 0).resetDue) = true ∧
    after (.memorySideAdd 0) (on sideDev) (fun t => (t.dev.sup 0).adds == [] && t.dev.memByte 64 == 5#8) = true := by
  decide +kernel

/-- Slot 3 is complete and queued for the update. -/
def slot3 : Slot := { lidx := 0, step := 1, count := 2, satc := 0, peak := 2, ovf := false, poison := false, sum := [(0, 1), (1, -2)] }
def updDev (step : Nat) : Dev := { beats part ctx0 with supers := [(0, { slots := [(3, some { slot3 with step := step })], queue := [3] })] }

theorem witness_Updates : ((updDev 1).sup 0).stage < 2 ∧ ((updDev 1).sup 0).queue = [3] ∧ ((updDev 1).sup 0).slot 3 = some slot3 ∧
    (updDev 1).mayWrite 0 0 0 1 = true ∧ (updDev 1).movingBack 0 0 = false ∧ ((updDev 2).part 0).capped < 2 - 1 ∧
    after (.fusedUpdate 0 0) (on (updDev 2)) (fun t => t.dev.mem == [] && ((t.dev.sup 0).slot 3).isSome) = true := by decide +kernel

theorem witness_GlobalNorms : (beats part ctx0).normSlices 0 1 = [(0, 1)] ∧ grpNork sliceTable 1 = part.rank ∧ grpNmod sliceTable 1 = 3 ∧ (0 + 5 : Int).natAbs < int64Bound ∧
    after (.normPartialArrival 0 1 4 1 5) (on (beats part ctx0)) (fun t => Store.get 0 (t.dev.part 0).normTotal (normKey 1 1) == 5 &&
      Store.get [] (t.dev.part 0).normRanks (normKey 1 1) == [4] && after (.normPartialArrival 0 1 4 1 9) t (· == t)) = true ∧
    after (.normFactorArrival 0 1 1 7#32) (on (beats part ctx0)) (fun t => Store.get none (t.dev.part 0).normCf (normKey 1 1) == some 7#32) = true := by decide +kernel

/-! Network: address 88 is on port E4 -/

def netDev (x : RecvChan) (y : SendChan) : Dev :=
  { beats part ctx0 with fab := {
      peers := [(5, { valid := true, addrA := 77, addrB := 88 })], send := [(0, some y)], recv := [(1, some x)],
      fwd := [(0, [0, 0, 0, 88, 2 ^ 31 + 2 ^ 30 + 2 ^ 29 + 2 ^ 8, 9, 0, 0])],
      ports := [(4, { up := true, lock := true, media := 2 })] } }
def rx : RecvChan := { peer := 5, chan := 9, entry := recvEnt, arr := 1 }
def sx : SendChan := { peer := 5, chan := 9, entry := sendEnt }
def net0 : Dev := netDev rx sx
def pay : List Byte := List.replicate 64 7#8
def hdr (seq phase : Nat) : DataHdr := { dh with seq := seq, phase := phase }

theorem witness_DataPackets : badData { hdr 0 1 with ver := 2 } 128 pay = true ∧
    (let h := hdr 0 1
     badData h 128 pay = false ∧ h.type < 5 ∧ h.chan < 4064 ∧ net0.swarmPart h = some 0 ∧ (net0.peer 0 5).valid = true ∧ net0.findRecv 0 h = some 1 ∧
     net0.recvChan 0 1 = some rx ∧ net0.openPkt 0 recvEnt h pay = some pay ∧ h.epoch = (net0.part 0).epoch ∧ ceDest recvEnt = 0 ∧
     rx.oldw ≤ net0.window 0 recvEnt h.step h.phase ∧ net0.window 0 recvEnt h.step h.phase < rx.oldw + ceSlots recvEnt ∧
     h.tsw0 + h.plen ≤ ceSlotb recvEnt ∧ Store.get 0 rx.slotCnt 1 + h.plen ≤ ceEbytes recvEnt ∧ noWindows net0 = true) ∧
    ({ net0 with parts := [(0, { part with encreq := 2 })] } : Dev).openPkt 0 recvEnt (hdr 0 1) pay = none ∧
    serialEarlier 32 0xFFFFFFFF (rx.next % 2 ^ 32) = true ∧ serialEarlier 32 1 0 = false ∧ rx.at' 1 = none ∧
    rx.oldw + ceSlots recvEnt ≤ net0.window 0 recvEnt 1 0 ∧
    after (.dataPacketReceive 1 { hdr 0 1 with ver := 2 } false 128 pay) (on net0) (fun t => portCounter t.dev 4 8 == 1#32) = true ∧
    after (.dataPacketReceive 1 (hdr 0xFFFFFFFF 1) false 128 pay) (on net0) (fun t => t.dev.tx.length == 1 && netCounter t.dev 1 17 == 1#32) = true ∧
    after (.dataPacketReceive 1 (hdr 1 1) false 128 pay) (on net0) (fun t => ((t.dev.recvChan 0 1).map (fun x => (x.next, x.held.length)) == some (0, 1))) = true ∧
    after (.dataPacketReceive 1 { hdr 0 0 with step := 1 } false 128 pay) (on net0) (fun t => t.dev.mem == [] &&
      ((t.dev.recvChan 0 1).map (fun x => (x.next, x.held.length)) == some (0, 1))) = true ∧
    after (.dataPacketReceive 1 (hdr 0 1) false 128 pay) (on net0) (fun t => t.dev.memByte (20 * 524288 + 1024) == 7#8 &&
      t.dev.memByte (20 * 524288 + 12) == 64#8 && (t.dev.recvChan 0 1).map (·.next) == some 1) = true := by decide +kernel

def relw (v : Nat) : Dev := (netDev { rx with oldw := 3, slotCnt := [(1, 64)] } sx).memPut (20 * 524288) (toLe 4 v) false

theorem witness_WindowRelease : leNat ((relw 3).memRead (ceBase recvEnt) 4) = 3 % 2 ^ 32 ∧ leNat ((relw 2).memRead (ceBase recvEnt) 4) ≠ 3 ∧
    after (.relwWrite 0 1) (on (relw 3)) (fun t => (t.dev.recvChan 0 1).map (fun x => (x.oldw, x.slotCnt)) == some (4, [])) = true ∧
    after (.relwWrite 0 1) (on (relw 2)) (fun t => (t.dev.part 0).resetDue) = true ∧
    after (.placementRetry 0 1) (on (netDev { rx with held := [⟨hdr 0 1, pay, false, 1⟩] } sx)) (fun t =>
      (t.dev.recvChan 0 1).map (fun x => (x.next, x.held)) == some (1, [])) = true := by decide +kernel

/-- Two copies wait for their acknowledgement; an ACK of 1 frees the first. -/
def pkt (seq : Nat) : SentPkt := { seq := seq, hdr := hdr seq 0, payload := pay }
def sent : Dev := netDev rx { sx with sent := [pkt 0, pkt 1], seq := 2 }
def ans (type ack tsw0 : Nat) : DataHdr := { dh with type := type, ackseq := ack, tsw0 := tsw0, plen := 0 }

theorem witness_Answers : (let h := ans 0x10 1 4
      h.ver = 1 ∧ h.cls = 2 ∧ h.rsv = false ∧ sent.swarmPart h = some 0 ∧ (sent.peer 0 h.srank).valid = true ∧ sent.findSend 0 h = some 0 ∧
      (sent.sendChan 0 0).isSome = true ∧ h.epoch = (sent.part 0).epoch) ∧ serialLater 32 1 0 = true ∧
    (let h := ans 0x11 0 1; sent.findSend 0 h = some 0 ∧ h.epw = false ∧ [pkt 0, pkt 1].find? (fun k => k.seq % 2 ^ 32 == h.tsw0) = some (pkt 1)) ∧
    (let h := ans 0x12 0 17
     sent.findRecv 0 h = some 1 ∧ ceilDiv (min 256 (max 1 h.tsw0)) 16 * 16 = 32 ∧ 32 ≤ (noted sent 0 1 1).freeCells 1 ∧
     (let d := { sent with fab := { sent.fab with netB := { sent.fab.netB with shared := 24576 } } }; (noted d 0 1 1).freeCells 1 < 32)) ∧
    after (.ackReceive 1 (ans 0x10 1 4)) (on sent) (fun t => (t.dev.sendChan 0 0).map (fun x => (x.sent.map (·.seq), x.credit)) == some ([1], 4)) = true ∧
    after (.nakReceive 1 (ans 0x11 0 1)) (on sent) (fun t => t.dev.tx.map (fun x => match x with | .data _ _ _ _ h _ => (h.seq, h.rtx) | _ => (0, false)) == [(1, true)]) = true ∧
    after (.creditReceive 1 (ans 0x12 0 17)) (on sent) (fun t => (t.dev.recvChan 0 1).map (·.shared) == some 32) = true := by decide +kernel

theorem witness_ChannelTimers : (let d := netDev { rx with unacked := 3 } { sx with sent := [pkt 0] }
      after (.ackTimer 0 1) (on d) (fun t => t.dev.tx.length == 1 && (t.dev.recvChan 0 1).map (·.unacked) == some 0) = true ∧
      after (.rtoExpiry 0 ⟨0, 0⟩) (on d) (fun t => (t.dev.sendChan 0 0).map (fun x => x.sent.map (fun k => (k.mul, k.tries))) == some [(2, 1)]) = true ∧
      (pkt 0).tries < (d.net (d.chanNet 0 sx)).rmax ∧ (d.net (d.chanNet 0 sx)).rmax = 8) ∧
    ceNet sendEnt = 1 ∧ after (.rtoExpiry 0 ⟨0, 0⟩) (on (netDev rx { sx with sent := [{ pkt 0 with tries := 8 }] })) (fun t =>
      (t.dev.sendChan 0 0).map (·.failed) == some true && (t.dev.part 0).resetDue) = true ∧
    after (.creditRetry 0 0) (on (netDev rx { sx with waiting := [pkt 0], askedCredit := true })) (fun t => t.dev.tx.length == 1) = true ∧
    after (.rateIncreaseTick 0 0) (on (netDev rx { sx with rate := 390 * 2 ^ 32 })) (fun t => (t.dev.sendChan 0 0).map (·.rate) == some (400 * 2 ^ 32)) = true := by
  decide +kernel

/-- Network B sends addresses 2^127 and above to ports E4 and E5. -/
def routed : Dev := net0.modFab (fun x => { x with fwd := x.fwd ++ [(7, [2 ^ 31, 0, 0, 0, 2 ^ 31 + 2 ^ 30 + 2 ^ 22 + 3 * 2 ^ 8, 0, 0, 0])] })
def far : Nat := 2 ^ 127 + 1

/-- An address is the module's or not, whatever MAC manufacture fixed. -/
theorem witness_ours : net0.ours 1 (announceGroup 1) = true ∧ routed.ours 1 far = false ∧ net0.ours 1 1 = false := by
  refine ⟨Dev.ours_announceGroup _ _, ?_, ?_⟩
  · unfold Dev.ours
    rw [beq_linkLocal_of_lt 1 far (by decide)]
    decide +kernel
  · unfold Dev.ours
    rw [beq_linkLocal_of_lt 1 1 (by decide)]
    decide +kernel

theorem witness_Frames : frm.vlan = none ∧ frm.fcsOk = true ∧ frm.ipv6 = true ∧ frm.udpDst = (net0.net 1).udpp ∧ net0.route 1 frm.dst = none ∧ 1 < frm.hop ∧
    (routed.route 1 far).map fwMask = some 3 ∧ maskPort 1 3 frm.udpSrc = some 5 ∧ maskPort 1 3 6 = some 4 ∧ (routed.port 4).up = true ∧
    (routed.port 4).transit = [] ∧ (routed.port 4).paused = [] ∧ (some 9 : Option Nat) ≠ some (net0.net 1).vid ∧
    after (.frameReceive 7 { frm with vlan := some 9 }) (on net0) (fun t => portCounter t.dev 7 6 == 1#32 && portCounter t.dev 7 8 == 1#32) = true := by
  decide +kernel

/-- A frame of priority 7 goes before an older one of priority 3; an A port obeys a pause that PFCM enables. -/
def transit : Dev := net0.modPort 4 (fun x => { x with transit := [⟨3, 100, 5, false, 6, 63⟩, ⟨7, 200, 5, false, 6, 63⟩] })

theorem witness_TransitFrames : (transit.port 4).up = true ∧ (transit.port 4).xoff = [] ∧ (transit.port 4).paused.contains 7 = false ∧
    (transit.port 4).transit.find? (fun x => x.prio == 7) = some ⟨7, 200, 5, false, 6, 63⟩ ∧
    after (.transitFrameDeparture 4) (on transit) (fun t => (t.dev.port 4).transit == [⟨3, 100, 5, false, 6, 63⟩] && t.dev.tx == [.forward 4 6 63 200 false false]) = true ∧
    after (.pfcFrameReceive 3 0x18) (on (net0.modNet 0 (fun n => { n with pfcm := 8 }))) (fun t => (t.dev.port 3).paused == [3] &&
      after (.pfcPauseExpiry 3 3) t (fun u => (u.dev.port 3).paused == [])) = true := by decide +kernel

/-- Peers, links and the clock. -/
def peerDev (q : Peer) : Dev := { net0 with fab := { netDev rx sx |>.fab with peers := [(5, q)], send := [], ports := [(0, { up := true, media := 2 })] } }

theorem witness_PeersAndLinks : (List.replicate 64 (0#8 : Byte)).length = 64 ∧
    after (.announceReceive 0 77 (List.replicate 64 1#8)) (on net0) (fun t => (Store.get {} t.dev.fab.peers 5).state == 1 &&
      (Store.get {} t.dev.fab.peers 5).serial == 0x0101010101010101) = true ∧ (net0.port 4).up = true ∧ net0.sends = true ∧
    after (.peerMissTick 5) (on (peerDev { valid := true, heard := true })) (fun t => t.dev.fab.peers == [(5, { valid := true })]) = true ∧
    after (.peerMissTick 5) (on (peerDev { valid := true, miss := 2 })) (fun t => (Store.get {} t.dev.fab.peers 5).state == 3) = true ∧
    (let d := peerDev { valid := true, onb := true, heardA := true, addrA := 77 }
     d.peerKey 0 5 = some 5 ∧ d.pathUp 77 = true ∧ d.fab.send = [] ∧ after (.failback 0 5) (on d) (fun t => !(t.dev.peer 0 5).onb) = true) ∧
    (let d := net0.modPort 7 (fun x => { x with media := 1 })
     (d.port 7).up = false ∧ (d.port 7).en = true ∧ (d.port 7).dead = false ∧ after (.linkUp 7) (on d) (fun t => (t.dev.port 7).up && (t.dev.port 7).andn) = true) ∧
    after (.linkDown 4) (on net0) (fun t => !(t.dev.port 4).up) = true ∧
    (let d := (peerDev { valid := true, addrA := far, addrB := 88 }).modFab (fun x => { x with fwd := [(0, [2 ^ 31, 0, 0, 0, 2 ^ 31 + 2 ^ 22 + 2 ^ 8, 0, 0, 0])] })
     (d.route 0 far).map fwMask = some 1 ∧ d.fab.netA.fov = true ∧ (d.port 0).up = true ∧
     after (.linkDown 0) (on d) (fun t => (Store.get {} t.dev.fab.peers 5).onb) = true) ∧
    (let d := net0.modBrd (fun b => { b with ptpEn := true })
     after (.ptpMessage ⟨7, d.brd.ptpDom⟩ 12345 true) (on d) (fun t => t.dev.brd.wall == 12345 && t.dev.brd.ptpSync) = true) := by decide +kernel

/-- A push of version 1 of slice 0x55 arrives in two halves. -/
def pushHdr (seq : Nat) (lo : Bool) : DataHdr := { dh with type := 3, chan := 10, seq := seq, plen := 4224, tsw0 := 0x55, tsw1 := 1, tsw2 := b2n lo }
def pushRx : RecvChan :=
  { peer := 5, chan := 10, entry := pushEnt,
    held := [⟨pushHdr 0 false, List.replicate 4224 9#8, false, 1⟩, ⟨pushHdr 1 true, List.replicate 4224 8#8, false, 1⟩] }
def push : Dev := net0.modFab (fun x => { x with recv := [(2, some pushRx)] })

theorem witness_push_channel : push.recvChan 0 2 = some pushRx ∧ (List.replicate 4224 (9#8 : Byte)).length = 4224 :=
  ⟨rfl, List.length_replicate⟩

theorem witness_Pushes : ceDest pushEnt = 2 ∧ ceCtx pushEnt = 0 ∧ slFind (push.sliceTab 0) 0x55 = some 0 ∧
    bit (pushHdr 0 false).tsw2 1 = false ∧ bit (pushHdr 0 false).tsw2 0 = false ∧ bit (pushHdr 1 true).tsw2 0 = true ∧ push.slVn sliceTable 0 = 0 ∧
    push.mayWrite 0 0 0 1 = true ∧ ({ push with parts := [(0, { part with capped := 0 })] } : Dev).mayWrite 0 0 0 2 = false ∧ noWindows push = true ∧
    ((push.memPut (push.stAddr sliceTable 0) (toLe 4 1) false).slVn sliceTable 0) = 1 := by decide +kernel

/-! The command protocol -/

def cq (op : Nat) (pl : List Byte) : Cmd := { hdr := { ch with opcode := op, plen := pl.length }, src := 9, payload := pl }
/-- Queue 0 holds a request whose turn has come. -/
def turn (d : Dev) (c : Cmd) : State := on { d with queues := [(0, { cur := some c })] }
def pkt0 (op : Nat) (q seq : Nat) : CmdHdr := { ch with opcode := op, queue := q, seq := seq }
def bound (x : CmdQueue) : Dev := { net0 with queues := [(5, { x with bound := true, binder := 9, next := 7 })] }
def cached : Cached := { req := pkt0 1 5 6, body := [], reply := { dst := 9, queue := 5, cseq := 6, opcode := 1, status := 0, tag := 0, mstate := 2 } }
/-- The status of the last answer sent. -/
def status (t : State) : Option Nat := match t.dev.tx.getLast? with
  | some (.reply r) => some r.status
  | _ => none
def answers (i : Instr) (s : State) (n : Nat) : Bool := after i s (fun t => status t == some n)

theorem witness_CommandPackets : net0.listens = true ∧ badCmd 1 (pkt0 1 5 7) 65 [] = true ∧
    arrives (bound {}) 1 9 (pkt0 1 5 7) 64 [] ∧ ahead (bound {}) (pkt0 1 5 7) = 0 ∧ (opStates 1).isSome = true ∧ opStates 3 = none ∧
    arrives (bound {}) 1 9 (pkt0 3 5 7) 64 [] ∧ arrives (bound {}) 1 9 (pkt0 1 5 22) 64 [] ∧ ahead (bound {}) (pkt0 1 5 22) = 15 ∧
    arrives (bound { cache := [cached] }) 1 9 (pkt0 1 5 6) 64 [] ∧ 15 < ahead (bound {}) (pkt0 1 5 6) ∧
    ((bound { cache := [cached] }).queue 5).cache.find? (fun e => e.req.seq == 6) = some cached ∧
    (net0.queue 5).bound = false ∧
    answers (.commandPacketReceive 1 9 (pkt0 3 5 7) 64 []) (on (bound {})) 2 = true ∧
    answers (.commandPacketReceive 1 9 (pkt0 1 5 6) 64 []) (on (bound {})) 9 = true ∧
    answers (.commandPacketReceive 1 9 (pkt0 1 5 6) 64 []) (on (bound { cache := [cached] })) 0 = true ∧
    answers (.commandPacketReceive 1 8 (pkt0 1 5 7) 64 []) (on (bound {})) 8 = true ∧
    after (.commandPacketReceive 1 9 (pkt0 1 5 22) 64 []) (on (bound {})) (fun t => (t.dev.queue 5).heldc.length == 1) = true ∧
    after (.commandPacketReceive 1 9 (pkt0 1 5 7) 65 []) (on (bound {})) (fun t => portCounter t.dev 4 8 == 1#32) = true := by
  unfold arrives; decide +kernel

/-- Each opcode in turn is refused: PLEN 1 fits none but ECHO, whose answer is the state's. -/
theorem witness_RefusedCommands : (opTable.all (fun y =>
      let c := cq y.1 [1#8]
      let s := turn (if y.1 = 2 then { net0 with brd := { ready with state := .minimal } } else net0) c
      refuse s.nv s.dev c != 0 && answers (y.2 0) s (if y.1 = 2 then 0x000A else 0x0003) &&
      after (y.2 0) s (fun t => (t.dev.queue 0).next == 1))) = true := by decide +kernel

def jobDev (l : List Event) : Dev :=
  { net0 with jobs := [{ queue := 3, cseq := 4, opcode := 0x50, part := 0, done := true, status := 0x0109 }],
              chans := [(3, { en := true, next := 12, unacked := l }), (64, { en := true, next := 12, unacked := l })] }
def ev (n : Nat) : Event := { seq := n, code := 0x0901, words := [], step := 0, phase := 0, epoch := 0 }

theorem witness_Completions : (let d := jobDev [ev 10, ev 11]
    (d.jobs.find? (fun j => j.queue == 3 && j.cseq == 4 && d.jobReady j)).isSome = true ∧ (d.chan 3).en = true ∧ d.sends = true ∧
    d.listens = true ∧ (d.chan 64).lost = 0 ∧
    after (.commandComplete 3 4) (on d) (fun t => t.dev.jobs.isEmpty && ((t.dev.chan 3).unacked.map (fun e => (e.seq, e.code)) ==
      [(10, 0x0901), (11, 0x0901), (12, 0x0901)]) && (((t.dev.chan 3).unacked.getLast?.map (fun e => e.words.getD 1 0)) == some 0x01090050)) = true ∧
    after (.eventAcknowledgement 64 11) (on d) (fun t => (t.dev.chan 64).unacked == [ev 11]) = true ∧
    after (.eventResend 64) (on d) (fun t => t.dev.tx.length == 2) = true) := by decide +kernel

def key20 : List Byte := toLe 4 0x3C0009
def key20v (v : Nat) : List Byte := key20 ++ toLe 4 v

theorem witness_Parameters : itsTurn (turn net0 (cq 0x01 [])) 0 0x01 (cq 0x01 []) ∧
    itsTurn (turn net0 (cq 0x02 [5#8])) 0 0x02 (cq 0x02 [5#8]) ∧ itsTurn (turn net0 (cq 0x10 key20)) 0 0x10 (cq 0x10 key20) ∧
    (objAt {} net0 0x3C0009 0).map (·.val) = some 20 ∧ (objAt {} net0 0x3C0009 25).map (·.bad) = some false ∧
    (objAt {} net0 0x3C0009 5).map (·.bad) = some true ∧ (objAt {} net0 0x00FFFFFF 0).isNone = true ∧
    itsTurn (turn net0 (cq 0x11 (key20v 25))) 0 0x11 (cq 0x11 (key20v 25)) ∧
    itsTurn (turn net0 (cq 0x12 (key20v 25))) 0 0x12 (cq 0x12 (key20v 25)) ∧ (paramWrite {} net0 0x3C0009 25).1 = 0 ∧
    answers (.echo 0) (turn net0 (cq 0x02 [5#8])) 0 = true ∧ answers (.pread 0) (turn net0 (cq 0x10 (toLe 4 0xFFFFFF))) 6 = true ∧
    after (.pwrite 0) (turn net0 (cq 0x11 (key20v 25))) (fun t => status t == some 0 && (t.dev.part 0).btoexp == 25) = true ∧
    after (.pswap 0) (turn net0 (cq 0x12 (key20v 25))) (fun t => status t == some 0 && (t.dev.part 0).btoexp == 25) = true ∧
    after (.parameterWrite 0x3C0009 25#32) (on net0) (fun t => (t.dev.part 0).btoexp == 25) = true ∧
    after (.parameterWrite 0x3C0009 5#32) (on net0) (fun t => (t.dev.part 0).btoexp == 20) = true := by
  unfold itsTurn queueTurn; decide +kernel

def peerIn : Dev := net0.modFab (fun f => { f with ftsel := 3, ftw := [(0, 2 ^ 31)], ptsel := 5, ptw := [(0, 2 ^ 31)], fwd := [(3, [0, 7])] })

theorem witness_CommitsModeAndCages : (0#32).toNat < 2 ∧ ({ net0 with parts := [] } : Dev).anyImage = false ∧ net0.anyImage = true ∧
    (0x1#32).toNat &&& (mask 31 16 + mask 7 4) = 0 ∧ bit (0x1#32).toNat 1 = false ∧
    after (.ftcmt 0#32) (on peerIn) (fun t => (Store.get [] t.dev.fab.fwd 3).getD 0 0 == 2 ^ 31 && (Store.get [] t.dev.fab.fwd 3).getD 1 0 == 7) = true ∧
    after (.ptcmt 0#32) (on peerIn) (fun t => (Store.get {} t.dev.fab.peers 5).valid) = true ∧
    after (.pcfgModeWrite 1#32) (on { net0 with parts := [] }) (fun t => t.dev.brd.pcfgMode) = true ∧
    after (.pcfgModeWrite 1#32) (on net0) (fun t => !t.dev.brd.pcfgMode) = true ∧
    after (.cenWrite 4 1#32) (on net0) (fun t => !(t.dev.port 4).up && !(t.dev.cage 4).cen) = true := by decide +kernel

/-- `c` is the request whose turn has come at queue 0 of `d`; its answer is `n`. -/
theorem witness_Queues :
    (let c := cq 0x20 (toLe 4 7)
     itsTurn (turn net0 c) 0 0x20 c ∧ qbQueue c.payload = 7 ∧ qbUnbind c.payload = false ∧ ((turn net0 c).dev.queue 7).bound = false ∧
     after (.qbind 0) (turn net0 c) (fun t => status t == some 0 && (t.dev.queue 7).bound && (t.dev.queue 7).binder == 9) = true) ∧
    (let c := cq 0x20 (toLe 4 7)
     let s := on { net0 with queues := [(0, { cur := some c }), (7, { bound := true })] }
     itsTurn s 0 0x20 c ∧ (s.dev.queue 7).bound = true ∧ answers (.qbind 0) s 7 = true) ∧
    (let c := cq 0x21 (toLe 4 7)
     let s := on { net0 with queues := [(0, { cur := some c }), (7, { next := 3 })] }
     itsTurn s 0 0x21 c ∧ qbQueue c.payload ≠ 0 ∧ after (.qreset 0) s (fun t => status t == some 0 && (t.dev.queue 7).next == 0) = true) := by
  unfold itsTurn queueTurn; decide +kernel

theorem witness_ContextsAndRecords :
    (let c := cq 0xB0 (toLe 4 0 ++ toLe 4 3)
     itsTurn (turn net0 c) 0 0xB0 c ∧ (net0.part 0).image.isSome = true ∧ (net0.ctx 0).inMap = true ∧
     after (.ctxset 0) (turn net0 c) (fun t => status t == some 0 && (t.dev.ctx 0).nextRun == some (true, true)) = true) ∧
    (let c := cq 0xB1 (toLe 4 0)
     itsTurn (turn net0 c) 0 0xB1 c ∧ net0.hasKey 3 0 = false ∧ answers (.acctread 0) (turn net0 c) 0 = true) ∧
    (let c := cq 0x80 (toLe 4 5 ++ toLe 4 1)
     itsTurn (turn net0 c) 0 0x80 c ∧ answers (.bbread 0) (turn net0 c) 0 = true) := by
  unfold itsTurn queueTurn; decide +kernel

def host : Dev := { net0 with mem := [(64, 5#8)], tiers := { map := [(0, { valid := true, dev := 0 })] } }
def mr (a n : Nat) : Cmd := cq 0x30 (toLe 4 0 ++ toLe 8 a ++ toLe 4 n)
def mw (a : Nat) (bs : List Byte) : Cmd := cq 0x31 (toLe 4 0 ++ toLe 8 a ++ bs)

theorem witness_HostMemory :
    (let c := mr 64 2
     itsTurn (turn host c) 0 0x30 c ∧ host.hostRead 0 (mrAddr c.payload) (wordAt c.payload 12) = true ∧ crossesPage 64 2 = false ∧ host.hasKey 3 0 = false ∧
     after (.memread 0) (turn host c) (fun t => match t.dev.tx.getLast? with
       | some (.reply r) => r.payload == [5#8, 0#8]
       | _ => false) = true) ∧
    (let c := mr (9 * 2 ^ 20) 2
     itsTurn (turn host c) 0 0x30 c ∧ host.hostRead 0 (mrAddr c.payload) (wordAt c.payload 12) = false ∧ answers (.memread 0) (turn host c) 0x000C = true) ∧
    (let c := mw 65 [7#8]
     itsTurn (turn host c) 0 0x31 c ∧ host.hostWrite 0 (mrAddr c.payload) 1 = true ∧ crossesPage 65 1 = false ∧ noWindows host = true ∧
     after (.memwrite 0) (turn host c) (fun t => t.dev.mem == [(64, 5#8), (65, 7#8)]) = true) ∧
    (let c := mw (9 * 2 ^ 20) [7#8]
     itsTurn (turn host c) 0 0x31 c ∧ host.hostWrite 0 (mrAddr c.payload) 1 = false ∧ answers (.memwrite 0) (turn host c) 0x000C = true) ∧
    (let c := cq 0x32 (toLe 4 (2 ^ 16 + 2 ^ 8) ++ toLe 4 0 ++ toLe 4 0)
     itsTurn (turn host c) 0 0x32 c ∧ plAct c.payload = 1 ∧ plCount c.payload = 1 ∧ host.placeBad c.payload = false ∧ host.moveSpace = true ∧
     (host.ctx 0).pins.contains 0 = false ∧ (host.tm 0).valid = true ∧ (host.tm 0).dev ≠ plTgt c.payload ∧
     after (.place 0) (turn host c) (fun t => status t == some 0 && (t.dev.ctx 0).pins == [0] && (t.dev.tm 0).pin == 1 && t.dev.tiers.queue.length == 1) = true) := by
  unfold itsTurn queueTurn; decide +kernel

/-- Slot 0 holds the firmware of major version 1. -/
def nv1 : NonVol := { slotManifest := [(0, words [0x4D464B48, 2 ^ 24, 3])] }
/-- An image header for the whole module, one context. -/
def header : List Byte := words ([0x31574B48, 0x00010080, 4096, 3 * 2 ^ 16 + 1, 2 ^ 24 + 319 * 2 ^ 14, 1] ++ List.replicate 26 0)
def empty : Dev := { net0 with parts := [] }
def loading (l : LoadSession) : Dev := { net0 with parts := [(0, { load := some l })], ctxs := [] }

theorem witness_ImagesAreStaged :
    (let c := cq 0x40 (toLe 4 0 ++ header)
     itsTurn { turn empty c with nv := nv1 } 0 0x40 c ∧ empty.locked 0 = false ∧ headerOk empty (fwVersion nv1 empty / 2 ^ 24) header = true ∧
     after (.lbegin 0) { turn empty c with nv := nv1 } (fun t => status t == some 0 && (t.dev.part 0).load.isSome) = true) ∧
    (let c := cq 0x41 (toLe 4 0 ++ toLe 4 128 ++ [7#8, 8#8])
     let d := loading { queue := 0, header := header }
     itsTurn (turn d c) 0 0x41 c ∧ 128 + 2 ≤ hdImglen header ∧
     after (.ldata 0) (turn d c) (fun t => (t.dev.part 0).load.map (·.staging) == some [(128, 7#8), (129, 8#8)]) = true) ∧
    (let c := cq 0x42 (toLe 4 0)
     let d := loading { queue := 0, header := header }
     itsTurn (turn d c) 0 0x42 c ∧ (LoadJob.firstFailure ⟨d, 0, header, (List.range 3).map (d.secEnt header [])⟩).map (·.status) = some 0x0101 ∧
     answers (.lcommit 0) (turn d c) 1 = true) ∧
    (let c := cq 0x43 (toLe 4 0)
     itsTurn (turn net0 c) 0 0x43 c ∧ (net0.part 0).load = none ∧ net0.locked 0 = false ∧ (net0.part 0).image.isSome = true) := by
  unfold itsTurn queueTurn; decide +kernel

/-! An image that passes every check, whatever SHAKE256 answers: no context, a phase table of one phase, an empty channel table and an
empty segment table. -/

def phases1 : List Byte := words [5]
def entry (w off len : Nat) (b : List Byte) : List Byte := words [w * 2 ^ 24, off, len, 0, 0, 0, 0, 0] ++ Config.shake256 b
def entries : List (List Byte) := [entry 6 320 4 phases1, entry 0x0B 384 0 [], entry 0x0C 384 0 []]
def header0 : List Byte := words [0x31574B48, 0x00010080, 384, 3 * 2 ^ 16, 2 ^ 24 + 319 * 2 ^ 14, 0, 0, 0]
def goodHeader : List Byte := header0 ++ Config.shake256 (header0 ++ entries.flatten) ++ List.replicate 64 0#8
def goodStage : Store Byte := ((entries.flatten ++ phases1).zipIdx 128).map (fun x => (x.2, x.1))
def goodLoad : LoadSession := { queue := 0, header := goodHeader, staging := goodStage }
def goodEnts : List SecEnt := [⟨6, 0, false, 0, 320, 4, entry 6 320 4 phases1, some phases1⟩,
  ⟨0x0B, 0, false, 0, 384, 0, entry 0x0B 384 0 [], some []⟩, ⟨0x0C, 0, false, 0, 384, 0, entry 0x0C 384 0 [], some []⟩]
def goodJob : LoadJob := ⟨loading goodLoad, 0, goodHeader, goodEnts⟩

set_option maxRecDepth 20000 in
theorem good_entries : (List.range (hdNsec goodHeader)).map ((loading goodLoad).secEnt goodHeader goodStage) = goodEnts := rfl
theorem good_check1 : goodJob.check1 = none := by decide +kernel
set_option maxRecDepth 20000 in
theorem entry_digest (w off len : Nat) (b : List Byte) : slice (entry w off len b) 32 32 = Config.shake256 b := rfl
set_option maxRecDepth 20000 in
theorem good_imgdig : hdImgdig goodHeader = Config.shake256 (header0 ++ entries.flatten) := rfl
set_option maxRecDepth 20000 in
theorem good_signed : slice goodHeader 0 32 = header0 := rfl
theorem good_check2 : goodJob.check2 = none := by
  simp [LoadJob.check2, goodJob, goodEnts, firstAt, List.zipIdx, failIf, entry_digest, good_imgdig, good_signed, entries]
theorem good_checks : goodJob.check3 = none ∧ goodJob.check4 = none ∧ goodJob.check5 = none ∧ goodJob.check6 = none ∧ goodJob.check7 = none ∧
    goodJob.check8 = none ∧ goodJob.check9 = none ∧ goodJob.check10 = none ∧ goodJob.check11 = none ∧ goodJob.check12 = none ∧
    goodJob.check13 = none ∧ goodJob.check14 = none ∧ goodJob.check15 = none ∧ goodJob.check16 = none := by decide +kernel

/-- The image passes, and its commit is the queue's turn. -/
theorem witness_ImagesInstalled : goodJob.firstFailure = none ∧
    (let c := cq 0x42 (toLe 4 0)
     itsTurn (turn (loading goodLoad) c) 0 0x42 c ∧ ((loading goodLoad).part 0).load = some goodLoad ∧ goodLoad.queue = 0) := by
  obtain ⟨c3, c4, c5, c6, c7, c8, c9, ca, cb, cc, cd, ce, cf, cg⟩ := good_checks
  refine ⟨?_, ?_, rfl, rfl⟩
  · simp only [LoadJob.firstFailure, good_check1, good_check2, c3, c4, c5, c6, c7, c8, c9, ca, cb, cc, cd, ce, cf, cg]; rfl
  · refine ⟨⟨by decide, rfl, by decide +kernel, rfl, rfl, by decide⟩, rfl, by decide +kernel⟩

/-! Jobs -/

def idle : Dev := { net0 with parts := [(0, { part with started := false })] }
def running0 (x : Partition) : Dev := { net0 with parts := [(0, x)] }
def done1 : Partition := { part with doneStep := some (1, false) }
def snapKey : Dev := { net0 with sec := { keys := [(keyKey 3 0 0, some { bytes := [] })] } }
def capOf (v : Nat) : Cmd := cq 0x51 (toLe 4 0 ++ toLe 4 v)
def paramCmd (first : Nat) : Cmd := cq 0x53 (toLe 4 0 ++ toLe 4 2 ++ toLe 4 first ++ toLe 4 1 ++ toLe 4 0x3F800000)

theorem witness_Jobs :
    (let c := cq 0x50 (toLe 4 0 ++ toLe 8 77 ++ toLe 4 1 ++ toLe 4 3)
     itsTurn (turn idle c) 0 0x50 c ∧ (idle.part 0).image.isSome = true ∧ (idle.part 0).started = false ∧ idle.locked 0 = false ∧
     idle.keyMissing 0 = false ∧ (idle.part 0).badConfig = false ∧ (idle.part 0).logPages ≤ idle.freeCount 0 4) ∧
    (let d := running0 done1
     itsTurn (turn d (capOf 1)) 0 0x51 (capOf 1) ∧ (d.part 0).doneWith 1 = true ∧ (net0.part 0).doneWith 1 = false ∧
     after (.cap 0) (turn d (capOf 1)) (fun t => status t == some 0 && (t.dev.part 0).capped == 1) = true ∧
     answers (.cap 0) (turn net0 (capOf 1)) 0x000F = true ∧ answers (.cap 0) (turn net0 (capOf 0)) 0 = true ∧
     answers (.cap 0) (turn net0 (capOf 2)) 5 = true) ∧
    (itsTurn (turn net0 (paramCmd 9)) 0 0x53 (paramCmd 9) ∧ net0.newestStep 0 < 9 ∧ (net0.part 0).replay = none ∧
     after (.stepparam 0) (turn net0 (paramCmd 9)) (fun t => (t.dev.part 0).params == [⟨2, 0, 9, 0x3F800000⟩]) = true ∧
     answers (.stepparam 0) (turn net0 (paramCmd 0)) 5 = true) ∧
    (let c := cq 0x70 (toLe 4 0 ++ toLe 4 0 ++ List.replicate 16 0#8 ++ toLe 4 7 ++ toLe 4 0x3000)
     itsTurn (turn snapKey c) 0 0x70 c ∧ keyidKind 0x3000 = 3 ∧ (snapKey.keyOf 0x3000).isSome = true ∧
     (snapKey.imgCtxs 0).contains (keyidIx 0x3000) = true ∧ snapKey.retains 0 0 = true) := by
  unfold itsTurn queueTurn; decide +kernel

/-! Recovery: an XOR group of four, three data chunks of one region each -/

def rc4 : Nat := 2 ^ 30 + 4 * 2 ^ 25 + 3
def grouped : Partition := { part with rcfg := rc4, seed := 77 }
def base0 : BaseSlot := { step := 6, header := [] }
def slotted : Dev := running0 { grouped with slotsKept := true, baseOld := some base0 }
def rebuilding : Dev := running0 { grouped with started := false }
def chunks0 : List (Nat × Nat × List Byte) := ((List.range 4).map (fun j => (List.range 4).map (fun i => (j, i, ([] : List Byte))))).flatten
def held0 (j i : Nat) : Option (List Byte) := (chunks0.find? (fun y => y.1 == j && y.2.1 == i)).map (·.2.2)
def digests0 : List (List Byte) := (List.range 3).map (fun i => regionDigest 0 0 6 i (slice [] (i * gib) gib))

theorem witness_BaseAndPtest :
    (let c := cq 0x60 (toLe 4 0 ++ toLe 4 200 ++ toLe 4 1)
     let d := running0 grouped
     itsTurn (turn d c) 0 0x60 c ∧ d.noBase 0 = false ∧ (d.part 0).slotPages ≤ d.freeCount 0 4 ∧
     after (.base 0) (turn slotted c) (fun t => status t == some 1 && (t.dev.part 0).baseNow && (t.dev.part 0).interval == 200) = true) ∧
    (let c := cq 0x61 (toLe 4 0 ++ toLe 4 0)
     itsTurn (turn slotted c) 0 0x61 c ∧ (slotted.part 0).baseOld = some base0 ∧ 0 < rcC (slotted.part 0).rcfg ∧
     answers (.ptest 0 []) (turn net0 c) 0x000E = true) := by
  unfold itsTurn queueTurn; decide +kernel

theorem witness_Rebuild :
    (let c := cq 0x62 (toLe 4 0 ++ toLe 4 0 ++ toLe 4 6)
     itsTurn (turn rebuilding c) 0 0x62 c ∧ (rebuilding.part 0).image.isSome = true ∧ rebuilding.locked 0 = false ∧ (rebuilding.part 0).rank = 0 ∧
     (rebuilding.part 0).started = false ∧ (rebuilding.part 0).badConfig = false ∧ rebuilding.noBase 0 = false ∧
     (rebuilding.part 0).logPages + (rebuilding.part 0).slotPages ≤ rebuilding.freeCount 0 4 ∧ paritySources rc4 held0 = true ∧
     after (.rebuild 0 [] [] [] true) (turn rebuilding c) (fun t => !(t.dev.part 0).started &&
       (t.dev.jobs.getLast?.map (·.detail)) == some [0x0B09, 6]) = true) := by
  unfold itsTurn queueTurn; decide +kernel

theorem rebuilt_chunks : (List.range (rcD rc4)).map (fun k =>
    recoverChunk (rcD rc4) (rcE rc4) (rcC rc4 * gib) (fun i => if i = k then none else held0 (rcRow rc4 (rcPos rc4) k) i) k) =
    [some [], some [], some []] := by decide +kernel

/-- The chunks of the members restore the shard, whatever SHAKE256 answers. -/
theorem witness_RebuildShard : (rebuildShard (rebuilding.part 0) 6 digests0 held0).1 = 0 := by
  have h : (rebuilding.part 0).rcfg = rc4 := rfl
  have hs : (rebuilding.part 0).swid = 0 ∧ (rebuilding.part 0).rank = 0 := ⟨rfl, rfl⟩
  have hb : rcBlen rc4 = 3 := by decide
  unfold rebuildShard
  simp only [h, rebuilt_chunks, hs, hb]
  simp [digests0, List.range_succ]

def base6 : BaseSlot := { base0 with header := List.replicate 28 0#8 ++ [1#8] }
def replaying : Dev :=
  running0 { grouped with log := [[4 * 2 ^ 24, 9, 8, 0, 0, 0, 0, 0]], restored := some 6, stopped := true, baseOld := some base6 }

theorem witness_ReplayAndDiscard :
    (let c := cq 0x63 (toLe 4 0 ++ toLe 4 7 ++ toLe 4 8)
     let x := replaying.part 0
     itsTurn { turn replaying c with nv := nv1 } 0 0x63 c ∧ x.image.isSome = true ∧ replaying.locked 0 = false ∧ x.restored = some 6 ∧
     (x.log.filter (fun r => lrType r == 4)).getLast? = some [4 * 2 ^ 24, 9, 8, 0, 0, 0, 0, 0] ∧ x.base 6 = some base6 ∧
     wrongRun nv1 replaying x base6.header = false) ∧
    (let c := cq 0x52 (toLe 4 0 ++ toLe 4 1 ++ toLe 4 0xFFFFFFFF)
     let d := running0 { part with stopped := true }
     itsTurn (turn d c) 0 0x52 c ∧ serialLater 16 1 0 = true ∧ d.brd.state = .ready ∧
     after (.discard 0 []) (turn d c) (fun t => status t == some 1 && (t.dev.part 0).epoch == 1 && !(t.dev.part 0).stopped) = true) ∧
    (let c := cq 0x52 (toLe 4 0 ++ toLe 4 0 ++ toLe 4 0xFFFFFFFF)
     answers (.discard 0 []) (turn net0 c) 5 = true) := by
  unfold itsTurn queueTurn; decide +kernel

/-! Resets, keys and updates -/

def rst (level target : Nat) : Cmd := cq 0x90 (toLe 4 (level + target * 2 ^ 16))
def worn : Dev := { idle with cores := [(0, { tasks := [task], frec := some { code := 1, tid := 0, pc := 8 }, lost := 3 }), (17, { tasks := [task] })] }

theorem witness_Resets :
    (itsTurn (turn worn (rst 0 0)) 0 0x90 (rst 0 0) ∧ rstLevel (rst 0 0).payload = 0 ∧ (worn.part (worn.partOf 0)).started = false ∧
     after (.coreReset 0 []) (turn worn (rst 0 0)) (fun t => status t == some 0 && t.nv.rstc == 1#32 && (t.dev.core 0).tasks == [] &&
       (t.dev.core 17).tasks == [task]) = true) ∧
    (itsTurn (turn worn (rst 1 1)) 0 0x90 (rst 1 1) ∧ (worn.part ((worn.framePart 1).getD 0)).started = false ∧
     after (.frameReset 0 []) (turn worn (rst 1 1)) (fun t => status t == some 0 && t.nv.rstf == 1#32 && (t.dev.core 0).tasks == [task] &&
       (t.dev.core 17).tasks == []) = true) ∧
    (itsTurn (turn worn (rst 3 0)) 0 0x90 (rst 3 0) ∧
     after (.moduleReset 0 env) { turn worn (rst 3 0) with nv := nv1 } (fun t => t.dev.brd.state == .ready && t.nv.rstm == 1#32 && t.dev.cores == [] &&
       t.dev.tx.any (fun m => match m with
         | .reply r => r.status == 0
         | _ => false)) = true) ∧
    (let d := (worn.modPart 0 (fun x => { x with resetDue := true, beat := 9 })).modBrd (fun b => { b with pcfgMode := true })
     (d.part 0).resetDue = true ∧ (d.part 0).unloadDue = false ∧
     after (.partitionReset 0 []) (on d) (fun t => (t.dev.part 0).beat == 0 && !(t.dev.part 0).resetDue && t.nv.rstp == 1#32 &&
       (t.dev.core 0).tasks == [] && (t.dev.core 0).lost == 0) = true) := by
  unfold itsTurn queueTurn; decide +kernel

def release (type : Nat) : List Byte := toLe 2 type ++ toLe 2 0 ++ toLe 4 7 ++ toLe 4 3 ++ List.replicate 323 0#8
def reported : Dev := { net0 with sec := { attseq := 7, report := some ([], []) } }
def manifest : List Byte := words [0x4D464B48, 2 ^ 24, 3, 4096, 5 * 2 ^ 16 + 1, 0, 64, 0] ++ List.replicate 96 0#8
def update : List Byte := manifest ++ List.replicate 171 0#8
/-- An operator's key is enrolled, whose digest is the one that the release names. -/
def enrolled : NonVol := { opkdig := Config.shake256 (krSpub (release 4)) }

theorem witness_Keys :
    (let c := cq 0xA0 (List.replicate 32 9#8)
     itsTurn (turn net0 c) 0 0xA0 c) ∧
    (let c := cq 0xA1 (release 4)
     itsTurn (turn net0 c) 0 0xA1 c ∧ krType c.payload = 4 ∧ keyrelFails {} net0 c.payload = 1 ∧ answers (.keyrel 0) (turn net0 c) 0x000B = true ∧
     itsTurn (turn reported c) 0 0xA1 c) ∧
    (let c := cq 0xA1 (release 5)
     itsTurn (turn reported c) 0 0xA1 c ∧ krType c.payload = 5 ∧ keyrelFails {} net0 c.payload = 1 ∧
     answers (.operatorEnrolment 0) (turn net0 c) 0x000B = true) ∧
    (let c := cq 0xA2 update
     itsTurn (turn net0 c) 0 0xA2 c) ∧
    (let c := cq 0xA2 (List.replicate 299 0#8)
     itsTurn (turn net0 c) 0 0xA2 c ∧ updateFails {} net0 c.payload = 5 ∧ answers (.fwupdate 0) (turn net0 c) 5 = true) := by
  unfold itsTurn queueTurn; decide +kernel

/-- Where the signature verifies, the enrolment passes every check. Whether one verifies is Ed448's to say, which the model leaves open. -/
theorem witness_Enrolment (h : Config.ed448Verify (krSpub (release 5)) (slice (release 5) 0 221) (slice (release 5) 221 114) = true) :
    keyrelFails {} reported (release 5) = 0 := by
  have h1 : krAttseq (release 5) = 7 := by decide +kernel
  have h2 : krType (release 5) = 5 := by decide +kernel
  have h3 : reported.targetOk (release 5) = true := by decide +kernel
  simp [keyrelFails, reported, h1, h2, signerOk, h] at h3 ⊢
  exact h3

/-- Where the signature and the wrapped key verify, the release passes every check. -/
theorem witness_Release (h : Config.ed448Verify (krSpub (release 4)) (slice (release 4) 0 221) (slice (release 4) 221 114) = true)
    (hg : (unwrap (release 4) [] []).isSome = true) : keyrelFails enrolled reported (release 4) = 0 := by
  have h1 : krAttseq (release 4) = 7 := by decide +kernel
  have h2 : krType (release 4) = 4 := by decide +kernel
  have h3 : reported.targetOk (release 4) = true := by decide +kernel
  have h5 : signerOk enrolled reported (release 4) = true := by
    have hs : slice enrolled.opkdig 0 32 = Config.shake256 (krSpub (release 4)) := rfl
    have he : enrolled.opkdig.isEmpty = false := rfl
    simp [signerOk, h2, hs, he]
  have h6 : (unwrap (release 4) [] []).isNone = false := by cases hu : unwrap (release 4) [] [] <;> simp_all
  have hc : reported.sec.installed = [] := rfl
  have hr : reported.sec.report = some ([], []) := rfl
  have ha : reported.sec.attseq = 7 := rfl
  simp [keyrelFails, hr, ha, hc, h1, h2, h3, h5, h6, h]

/-- Where the signing key is the module's and the signature verifies, the update passes every check. -/
theorem witness_Update (hk : Config.shake256 (slice update 242 57) = Config.vkdig)
    (hv : Config.ed448Verify (slice update 242 57) (slice update 0 128) (slice update 128 114) = true) : updateFails {} net0 update = 0 := by
  have hm : slice update 0 128 = manifest := by decide +kernel
  have h1 : wordAt manifest 0 = 0x4D464B48 ∧ mfBlen manifest = 4096 ∧ mfCflen manifest = 64 ∧ mfCfoff manifest = 0 ∧ wordAt manifest 8 = 3 := by
    decide +kernel
  have h2 : 64 ≤ net0.freeCount 0 4 ∧ net0.brd.update = none := by decide +kernel
  rw [hm] at hv
  simp [updateFails, hm, h1, h2, hk, hv, Nat.not_lt.mpr h2.1]

/-! Bases and records -/

def record (type step : Nat) : LogRecord := [type * 2 ^ 24, 1, step, 0, 0, 0, 0, 0]
def building : Dev :=
  running0 { grouped with bst := 1, bbuild := 6, baseNew := some base0, grank := [(0, 3 * 2 ^ 16), (1, 5 * 2 ^ 16 + 4)],
                          mirror := [(5, [record 2 9])] }
def copied : Dev := building.modPart 0 (fun x => { x with bst := 2, parityGot := expected rc4 })

theorem witness_RecordsAndParity : (building.part 0).started = true ∧ (building.part 0).predecessors = [5] ∧ (building.part 0).others = [3, 4, 5] ∧
    rcGsize rc4 = 4 ∧ rcD rc4 = 3 ∧ rcRow rc4 1 0 = 0 ∧ rcPos rc4 = 0 ∧ rcC rc4 = 1 ∧
    after (.logRecordReceipt 0 5 (record 5 8)) (on building) (fun t => Store.get [] (t.dev.part 0).mirror 5 == [record 5 8]) = true ∧
    after (.logRecordReceipt 0 5 (record 3 8)) (on building) (fun t => Store.get [] (t.dev.part 0).mirror 5 == [record 2 9, record 3 8]) = true ∧
    after (.logRecordReceipt 0 3 (record 3 8)) (on building) (fun t => t.dev.part 0 == building.part 0) = true ∧
    after (.parityContributionReceipt 0 1 6 0 (gib - 1) [3#8]) (on building) (fun t => (t.dev.part 0).parity == [(gib - 1, 3#8)] &&
      (t.dev.part 0).parityGot == [(1, 0)]) = true ∧
    (building.part 0).bst = 1 ∧ (copied.part 0).bst = 2 ∧ (copied.part 0).baseNew = some base0 ∧
    (expected rc4).all (copied.part 0).parityGot.contains = true ∧ expected rc4 = [(1, 0), (2, 1), (3, 2)] ∧
    after (.baseComplete 0) (on copied) (fun t => (t.dev.part 0).blast == 6 && (t.dev.part 0).baseOld == some base0) = true ∧
    after (.baseAbandonment 0 (.member 3)) (on building) (fun t => (t.dev.part 0).bst == 0 &&
      (t.dev.sendChan 0 (recIx 4065 4)).map (fun z => (z.sent ++ z.waiting).map (fun k => (k.hdr.step, k.hdr.tsw0, k.payload))) ==
        some (pieces 6 0xFFFFFFFF [])) = true := by
  decide +kernel

/-! Bring-up, updates, heat and power -/

def standby : State := { nv := nv1, dev := { brd := { state := .standby, sb12 := true } } }
theorem clean : cleanBoot nv1 env := by
  refine ⟨rfl, rfl, rfl, rfl, rfl, rfl, rfl, rfl, rfl, rfl, rfl, rfl, by decide +kernel, by decide +kernel⟩

theorem witness_BringUp : standby.dev.brd.enable = false ∧ standby.dev.brd.sb12 = true ∧ standby.dev.brd.state = .standby ∧
    standby.dev.brd.ovHold = false ∧ standby.dev.brd.vinMv = 54000 ∧ nv1.rbc < nv1.rbv nv1.bootSlot ∧
    slotOk nv1 { env with burfaOk := [] } 0 = false ∧ slotOk nv1 { env with burfaOk := [] } 1 = false ∧
    after (.enableAssert false env) standby (fun t => t.dev.brd.state == .ready && t.nv.rbc == 3) = true ∧
    after (.enableAssert true env) standby (fun t => t.dev.brd.state == .minimal && t.nv.rbc == 0) = true ∧
    after (.enableAssert false { env with burfaOk := [] }) standby (fun t => t.dev.brd.state == .minimal) = true ∧
    after (.enableAssert false { env with combFail := [2] }) standby (fun t => t.dev.brd.state == .degraded && t.dev.brd.dcause == 4 && t.nv.rbc == 0) = true ∧
    after (.enableAssert false env) { standby with dev := standby.dev.modBrd (fun b => { b with vinMv := 59001 }) } (fun t => t.dev.brd.ovlo) = true ∧
    after .bringUpTimeout (on { brd := { enable := true } }) (fun t => t.dev.brd.faultPin) = true ∧
    (boot (nv1, standby.dev) true false env).2.up = true ∧
    after (.coreFailure 319) (on net0) (fun t => (t.dev.part 0).resetDue) = true ∧
    after (.partitionResetFailure 0) (on (net0.modPart 0 (fun x => { x with resetDue := true }))) (fun t => (t.dev.part 0).image == none) = true ∧
    after .reportKeyExpiry (on reported) (fun t => t.dev.sec.report == none) = true := by decide +kernel

def updating (round : Nat) (got : List Nat) (m : List Byte) : Dev :=
  { net0 with brd := { ready with update := some { manifest := m, queue := 0, cseq := 0, round := round, got := got } } }
/-- An empty bundle, whose digests are what SHAKE256 answers. -/
def emptyBundle : List Byte := words [0x4D464B48, 2 ^ 24, 3] ++ List.replicate 52 0#8 ++ Config.shake256 [] ++ Config.shake256 []
def chunk : List Byte := List.replicate 4096 0#8 ++ toLe 4 (Config.crc32c (List.replicate 4096 0#8)).toNat

theorem witness_UpdateRounds : mfSwid manifest = 5 ∧ mfSrank manifest = 1 ∧ mfChunks manifest = 1 ∧ mfChunks emptyBundle = 0 ∧
    mfBlen emptyBundle = 0 ∧ mfCflen emptyBundle = 0 ∧ mfCfoff emptyBundle = 0 ∧
    after (.waggleChunk 4 1 0 0 false []) (on (updating 0 [] manifest)) (fun t => portCounter t.dev 4 8 == 1#32) = true ∧
    after .missingBitmapSend (on (updating 2 [] manifest)) (fun t => t.dev.tx == [.bitmap 2 [0]]) = true ∧
    after .missingBitmapSend (on (updating 3 [] manifest)) (fun t => t.dev.brd.ustate == 5) = true := by decide +kernel

set_option maxRecDepth 20000 in
theorem witness_UpdateDigests : slice emptyBundle 64 32 = Config.shake256 [] ∧ slice emptyBundle 96 32 = Config.shake256 [] := ⟨rfl, rfl⟩

def hot (c : StageCnt) : State := on { net0 with brd := { ready with stages := [(64, c)] } }

theorem witness_Heat : (hot { hot1 := 2 }).dev.stageCnt 64 = { hot1 := 2 } ∧ (net0.sup 0).quiet = true ∧ idle.superUsed 0 = false ∧ net0.superUsed 0 = true ∧
    after (.thermalSample (.super 0) (some 704)) (hot { hot1 := 2 }) (fun t => (t.dev.sup 0).stage == 1) = true ∧
    after (.thermalSample (.super 0) (some 704)) (hot { hot1 := 1 }) (fun t => (t.dev.sup 0).stage == 0) = true ∧
    after (.thermalSample (.super 0) (some 840)) (hot { trip := 1 }) (fun t => t.dev.brd.state == .tripped) = true ∧
    after (.thermalSample (.super 0) none) (on net0) (fun t => (t.dev.sup 0).stage == 2) = true ∧
    after (.superPowerDown 0 true) (on idle) (fun t => (t.dev.sup 0).pstate == 2) = true ∧
    after (.deepPowerDown false) (on net0) (fun t => t.dev.brd.deepPstate == 1) = true ∧
    after .blackBoxRecordProgrammed (on { net0 with bb := { queue := [⟨4, []⟩] } }) (fun t => t.dev.bb.recs == [⟨4, []⟩]) = true ∧
    net0.powered = true ∧ net0.brd.huok = true ∧
    after .powerLoss (on net0) (fun t => t.dev.brd.state == .standby && (t.dev.bb.recs.getLast?.map (fun r => r.words.getD 5 0 / 2 ^ 16)) == some 0x0E09) = true := by
  decide +kernel

def offState : State := on { brd := { state := .off } }
def cagePort (c : Cage) : Dev := { net0 with brd := { ready with cages := [(3, c)] }, fab := { net0.fab with ports := [(3, { media := 0 })] } }

theorem witness_Electrical : ready.enable = true ∧ ready.sb12 = true ∧ net0.powered = true ∧ standby.dev.powered = false ∧ standby.dev.brd.sb12 = true ∧
    offState.dev.brd.enable = false ∧
    after .enableDeassert (on net0) (fun t => t.dev.brd.state == .standby && t.dev.mem == []) = true ∧
    after .inputOvervoltage standby (fun t => t.dev.brd.ovlo && t.dev.brd.state == .standby) = true ∧
    after .inputOvervoltage (on net0) (fun t => t.dev.brd.ovlo && t.dev.brd.state == .standby && t.dev.brd.faultPin) = true ∧
    after (.inputLow 45000) (on net0) (fun t => t.dev.brd.uvw) = true ∧
    after (.inputPowerReturn 48000 env) standby (fun t => t.dev.brd.vinMv == 48000 && t.dev.brd.state == .standby) = true ∧
    after .standbyRailLost (on net0) (fun t => t.dev.brd.state == .ready && t.dev.brd.internalRail) = true ∧
    after .standbyRailLost standby (fun t => t.dev.brd.state == .off) = true ∧
    after (.standbyRailPresent env) offState (fun t => t.dev.brd.state == .standby && t.dev.brd.present) = true ∧
    after .holdUpCharged standby (fun t => t.dev.brd.huok) = true := by decide +kernel

theorem witness_Cages : ((cagePort { powered := true }).cage 3).powered = true ∧
    after (.cageOvercurrent 3) (on (cagePort { powered := true })) (fun t => (t.dev.cage 3).oc && !(t.dev.cage 3).powered) = true ∧
    (let d := cagePort {}
     (d.cage 3).prs = false ∧ d.up = true ∧ (d.cage 3).cen = true ∧ (d.cage 3).ocCut = false ∧ (d.port 3).up = false ∧ (d.port 3).en = true ∧
     (d.port 3).dead = false ∧ after (.deviceInsertion 3 15 2 true) (on d) (fun t => (t.dev.port 3).up && (t.dev.cage 3).powered) = true ∧
     after (.deviceInsertion 3 16 2 true) (on d) (fun t => !(t.dev.port 3).up && (t.dev.cage 3).lpm) = true) ∧
    ((cagePort { cen := false }).cage 3).cen = false ∧
    after (.deviceRemoval 3) (on (cagePort { prs := true, powered := true })) (fun t => !(t.dev.cage 3).prs && !(t.dev.cage 3).powered) = true := by
  decide +kernel

/-! ## Further cases of the statements -/

/-- The load misses the caches and the comb, and takes a miss register of its slice; two tasks of a core, the first of which ends. -/
theorem witness_MissesAndSuccessors :
    (let d := (withCore { tasks := [uniTask], icache := [0] }).setTm 0 { valid := true, dev := 0 }
     d.issues c0 uniTask = true ∧ uniReadable d c0 64 8 = true ∧ (d.core 0).dcache = [] ∧ (d.readyDev c0).combHit 0 = false ∧ d.tiers.fills = [] ∧ d.hot 0 = false ∧
     after (.gld c0 4 1 0#14) (on d) (fun t => t.dev.tiers.fills == [(0, 0)] && (t.dev.core 0).tasks == [uniTask]) = true) ∧
    (let d := withCore { tasks := [task, { uid := 3, tid := 1 }] }
     d.issues c0 task = true ∧ tdSucc (d.coreSec 0 2) 0 0 = 1 ∧ (d.core 0).wbuf = [] ∧
     after (.tend c0 0#14) (on d) (fun t => (t.dev.core 0).tasks == [{ uid := 3, tid := 1 }]) = true) := by decide +kernel

/-- A held tile that a switch left behind; a request whose destination rows are not drained yet. -/
theorem witness_ReloadsAndHolds :
    (let d := withCore { mcore with mx := { mcore.mx with reload := some [7#8] } }
     after (.heldTileLoad 0) (on d) (fun t => (t.dev.core 0).mx.shadow == some [7#8] && (t.dev.core 0).mx.reload == none) = true) ∧
    (let r := [[0, 4096 * 2 ^ 16 + 1, 0x30000001]]
     let d := { flying with cores := [(0, { score with su := { flyingSu with req := [{ tag := 0, owner := .desc 31, runs := [(.pad 7 131072, [7#8], false)] }] } }), (7, { w := [(4096, true)] })] }
     r.length = 1 ∧ (d.core 7).su.hold.length < 16 ∧ d.stopped 0 { tag := 0, owner := .desc 31, runs := [(.pad 7 131072, [7#8], false)] } = false) := by decide +kernel

/-- A flip waits at the boundary; a page already there; a page that another context pins too; lines of a COMBW; a hot move. -/
theorem witness_PagesAndMoves :
    (let d := (beats part ctx0).modTiers (fun t => { t with map := [(0, { pg with mst := 2 })], runs := [{ ch := 7, page := 0, dev := 1, ppn := 9, retire := false, copied := true }] })
     d.running 0 = true ∧ d.lateFrames 0 = [] ∧ d.undrained 0 = [] ∧ (d.tiers.runs.filter (fun r => r.copied && d.addrPart (r.page * pageBytes) == 0)).length = 1 ∧
     after (.beatRelease 0 0 0 0 0) (on d) (fun t => (t.dev.tm 0).dev == 1 && (t.dev.tm 0).ppn == 9 && (t.dev.tm 0).mst == 0) = true) ∧
    (let d := duel [0, 2 ^ 28, 0, 0] ctx0 { pg with dev := 0 }
     after (.promote 0) (on d) (fun t => (t.dev.ctx 0).pins == [0] && t.dev.tiers.queue == []) = true) ∧
    after (.promote 0) (on (duel [0, 2 ^ 28, 0, 0] { ctx0 with pins := [0] } { pg with pin := 1 })) (fun t =>
      (t.dev.ctx 0).pins == [0] && (t.dev.tm 0).pin == 1) = true ∧
    (let d := duel [0, 2 ^ 28, 0, 0] { ctx0 with pins := List.replicate 4096 1 } pg
     (d.ctx 0).pins.contains 0 = false ∧ 4096 ≤ (d.ctx 0).pins.length ∧ d.moveSpace = true ∧
     after (.promote 0) (on d) (fun t => (t.dev.tm 0).pin == pg.pin && t.dev.tiers.queue == [] && Store.get 0#32 t.dev.tiers.cnt 18 == 1#32) = true) ∧
    (let d := duel [0, 2 ^ 29, 0, 0] { ctx0 with pins := [0] } { pg with pin := 2, dev := 0 }
     after (.demote 0) (on d) (fun t => (t.dev.tm 0).pin == 1 && t.dev.tiers.queue == [] && Store.get 0#32 t.dev.tiers.cnt 19 == 1#32) = true) ∧
    duePage (duel [0, 2 ^ 30, 0, 0] ctx0 pg) 0 4 [0, 2 ^ 30, 0, 0] [] ∧
    (let r : MoveRun := { ch := 7, page := 0, dev := 1, ppn := 9, retire := false, left := some 512 }
     let d := moving.modTiers (fun t => { t with runs := [r] })
     let h := d.modSup 1 (fun u => { u with stage := 1 })
     d.hot 1 = false ∧ h.hot 1 = true ∧ after (.migrationCopied 7) (on h) (fun t => t.dev.tiers.runs == [r]) = true) := by
  unfold duePage; decide +kernel

/-- Errors of the comb, a scratchpad, the schedule store and an accumulator; retirements of a free page and of one in use. -/
theorem witness_OtherStorages : net0.wordBad 5 = false ∧ (uni.wordBad 5 = false ∧ uni.combHit (5 / 64) = true) ∧
    after (.patrolScrub ⟨5, 5⟩ 0 false true) (on uni) (fun t => t.dev.wordBad 5) = true ∧
    after (.patrolScrub ⟨6, 0⟩ 9 false true) (on net0) (fun t => (t.dev.core 0).padPoison == [(9, true)]) = true ∧
    after (.patrolScrub ⟨8, 0⟩ 9 false true) (on net0) (fun t => Store.get false t.dev.tiers.schedBad 9) = true ∧
    after (.patrolScrub ⟨12, 3⟩ 9 false true) (on net0) (fun t => (t.dev.sup 3).accBad == [(3, 9)]) = true ∧
    (let d := errors.modTiers (fun t => { t with rowBad := [(0, 5 * 2 ^ 32 + 6, 9)] })
     d.pageAt 0 9 = none ∧ d.tiers.used = [] ∧
     after (.pageRetirement 0 9) { dev := d, nv := { remaps := noSpares } } (fun t => t.dev.tiers.retired == [(0, 9)]) = true ∧
     after (.pageRetirement 0 9) { dev := d.modTiers (fun t => { t with used := [(0, 9)] }), nv := { remaps := noSpares } } (fun t =>
       t.dev.tiers.retireDue == [(0, 9)] && t.nv.retired == [(0, 9)]) = true) ∧
    (let d := { uni with cores := [(0, { tasks := [uniTask], atom := some ⟨9, 4, 1024, 3#64, 1⟩ })], tiers := { uni.tiers with atomics := [0] } }
     d.combHit 2 = false ∧ d.hot (d.tm 0).dev = false ∧
     after (.combAtomic 0) (on d) (fun t => t.dev.tiers.fills == [((d.combPlace 2).1, 2)]) = true) := by decide +kernel

/-- A slot with a bad word; the last partial of three, and one that overflows. -/
theorem witness_SlotsAndFactors :
    (let d := (updDev 1).modSup 0 (fun u => { u with accBad := [(3, 0)] })
     (d.sup 0).slotBad 3 = true ∧ ((updDev 1).sup 0).slotBad 3 = false ∧
     after (.fusedUpdate 0 0) (on d) (fun t => t.dev.mem == [] && (t.dev.part 0).resetDue) = true) ∧
    (let d := beats { part with normRanks := [(normKey 1 1, [2, 3])], normTotal := [(normKey 1 1, 5)] } ctx0
     (d.normTable 0 1).map (fun t => (grpNork t 1, grpNmod t 1)) = some (0, 3) ∧ Store.get none (d.part 0).normCf (normKey 1 1) = none ∧
     after (.normPartialArrival 0 1 4 1 (2 ^ 63)) (on d) (fun t => (t.dev.part 0).ovfSteps == [1]) = true) := by decide +kernel

/-- Frames that wait, answers to solicitations, pauses, and frames of the module's own. -/
theorem witness_PortsAndFrames :
    (let d := routed.modPort 5 (fun x => { x with paused := [3] })
     maskPort 1 3 7 = some 5 ∧ (d.port 5).clear 3 = false ∧ ((routed.modPort 5 (fun x => { x with up := true })).port 5).clear 3 = true ∧
     (d.port 5).queued + 256 ≤ transitBytes ∧ transitBytes < (d.port 5).queued + (transitBytes + 1)) ∧
    (net0.port 4).clear 7 = true ∧ (transit.port 4).own = [] ∧ ((transit.port 4).pick 1).1 = some 7 ∧ ((transit.port 4).headOf 7).isSome = true ∧
    (let d := net0.modPort 4 (fun x => { x with transit := [⟨6, 100, 5, false, 6, 63⟩] })
     ((d.port 4).headOf 7).isSome = false ∧ ((d.port 4).headOf 6).isSome = true) ∧
    (let d := net0.modPort 1 (fun x => { x with up := true, paused := [7], own := [⟨7, 64, .pfc 1 0 true⟩] })
     after (.pfcPauseExpiry 1 7) (on d) (fun t => t.dev.tx == [.pfc 1 0 true] && (t.dev.port 1).own == []) = true) ∧
    (let d := net0.modPort 7 (fun x => { x with media := 1, own := [⟨7, 64, .pfc 7 0 true⟩] })
     after (.linkUp 7) (on d) (fun t => t.dev.tx.contains (.pfc 7 0 true) && (t.dev.port 7).own == []) = true) ∧
    (net0.brd.ptpEn = false ∧ after (.ptpMessage ⟨3, 0⟩ 5 true) (on net0) (fun t => t == on net0) = true) := by decide +kernel

/-- The address 88 can be reached at once; packets of an earlier and of a later epoch. -/
theorem witness_PathsAndEpochs : pathClear net0 1 (peerAddr net0 0 5 1) 9 7 ∧
    (let d := { net0 with parts := [(0, { part with epoch := 7 })] }
     serialEarlier 16 6 (d.part 0).epoch = true ∧ serialEarlier 16 8 (d.part 0).epoch = false ∧
     after (.dataPacketReceive 1 { hdr 0 1 with epoch := 6 } false 128 pay) (on d) (fun t => netCounter t.dev 1 25 == 1#32 && t.dev.tx == []) = true ∧
     after (.dataPacketReceive 1 { hdr 0 1 with epoch := 8 } false 128 pay) (on d) (fun t => t.dev.tx.any (fun m => match m with
       | .data _ _ _ _ q _ => q.type == 0x11 && q.epw
       | _ => false)) = true) ∧
    rx.secondHalf (hdr 1 1) = false ∧ windowOpen net0 0 rx (hdr 0 1) ∧ (rx.nakSent ≠ some rx.next) ∧
    after (.dataPacketReceive 1 (hdr 1 1) false 128 pay) (on net0) (fun t => t.dev.tx.any (fun m => match m with
       | .data _ _ _ _ q _ => q.type == 0x11 && q.tsw0 == 0 && !q.epw
       | _ => false)) = true := by
  refine ⟨⟨(4, 9), by decide +kernel, by decide +kernel⟩, ?_, by decide, ?_, by decide, by decide +kernel⟩
  · decide +kernel
  · unfold windowOpen; decide +kernel

/-- After an EPW answer a copy goes out uncounted; a recovery channel fails alone; a network A channel moves where FOV allows it. -/
theorem witness_TimersOfEveryKind :
    after (.rtoExpiry 0 ⟨0, 0⟩) (on (netDev rx { sx with sent := [pkt 0], epwSeen := true })) (fun t => t.dev.tx.length == 1 &&
      (t.dev.sendChan 0 0).map (fun x => (x.epwSeen, x.sent)) == some (false, [pkt 0])) = true ∧
    after (.rtoExpiry 0 ⟨0, 0⟩) (on (netDev rx { sx with chan := 4067, sent := [{ pkt 0 with tries := 8 }] })) (fun t =>
      (t.dev.sendChan 0 0).map (·.failed) == some true && t.dev.parts == net0.parts) = true ∧
    (let y : SendChan := { sx with entry := [5 * 2 ^ 16 + 9 * 16 + 5, 3 * 2 ^ 30, 0, 0, 0, 0, 0, 0], sent := [{ pkt 0 with tries := 8 }] }
     ceNet y.entry = 1 ∧ y.failed = false ∧ (net0.modNet 0 (fun n => { n with fov := false })).canFail 0 5 = false) ∧
    (let y : SendChan := { sx with entry := [5 * 2 ^ 16 + 9 * 16 + 3, 0, 0, 0, 0, 0, 0, 0], sent := [{ pkt 0 with tries := 8 }] }
     let d := (netDev rx y).modNet 0 (fun n => { n with fov := true })
     ceNet y.entry = 0 ∧ ceFovok y.entry = true ∧ d.canFail 0 5 = true ∧
     after (.rtoExpiry 0 ⟨0, 0⟩) (on d) (fun t => (t.dev.peer 0 5).onb && t.dev.parts == d.parts) = true) := by decide +kernel

/-- A push of a version that the slice has is dropped. -/
theorem witness_PushesByVersion : verBefore (push.slVn sliceTable 0) 1 = true ∧ verBefore (push.slVn sliceTable 0) 0 = false ∧
    push.hot (push.tm (slRow sliceTable 0 / pageBytes)).dev = false ∧ verBefore 0xFFFFFFFF 0 = true := by decide +kernel

/-! Commands: turns, images, events -/

/-- Queue 5 waits while queue 0, which follows the one served last, has its turn. -/
theorem witness_Turns : (let d := { net0 with queues := [(0, { cur := some (cq 1 []) }), (5, { cur := some (cq 1 []) })] }
    d.myTurn 0 = true ∧ d.myTurn 5 = false ∧ ({ d with qserved := 0 } : Dev).myTurn 5 = true ∧
    after (.ident 5) (on d) (fun t => t == on d) = true ∧ answers (.ident 0) (on d) 0 = true) := by decide +kernel

theorem witness_Unbinding :
    (let c := cq 0x20 (toLe 4 (2 ^ 31 + 7))
     let s := on { net0 with queues := [(0, { cur := some c }), (7, { bound := true, next := 3 })], chans := [(7, { en := true, unacked := [ev 3] })] }
     itsTurn s 0 0x20 c ∧ qbUnbind c.payload = true ∧ (s.dev.queue 7).part = qbPart c.payload ∧
     after (.qbind 0) s (fun t => status t == some 0 && !(t.dev.queue 7).bound && (t.dev.queue 7).next == 0 && (t.dev.chan 7).unacked == []) = true) := by
  unfold itsTurn queueTurn; decide +kernel

/-- What was lost is told as soon as there is room. -/
theorem witness_LostEvents : (let d := { net0 with chans := [(64, { en := true, next := 12, lost := 5, unacked := [ev 10, ev 11] })] }
    d.sends = true ∧ after (.eventAcknowledgement 64 11) (on d) (fun t => (t.dev.chan 64).lost == 0 &&
      ((t.dev.chan 64).unacked.map (fun e => (e.seq, e.code, e.words.getD 5 0))) == [(11, 0x0901, 0), (12, 0x0903, 5)]) = true) := by decide +kernel

/-- The job of an accepted LCOMMIT: its image fails the first check, or passes every one. -/
def lcJob : Job := { queue := 0, cseq := 4, opcode := 0x42, part := 0, done := false, lock := true }
def committed (l : LoadSession) : Dev :=
  { loading { l with commit := true } with jobs := [lcJob], chans := [(0, { en := true })] }

theorem witness_Commits :
    (let d := committed { queue := 0, header := header }
     d.jobs.find? (fun j => j.queue == 0 && j.cseq == 4 && d.jobReady j) = some lcJob ∧ (d.part 0).load.map (·.commit) = some true ∧
     (LoadJob.firstFailure ⟨{ d with jobs := [] }, 0, header, (List.range 3).map (({ d with jobs := [] } : Dev).secEnt header [])⟩).map (·.status) = some 0x0101 ∧
     after (.commandComplete 0 4) (on d) (fun t => (t.dev.part 0).load == none && (t.dev.part 0).image == none &&
       (t.dev.chan 0).unacked.map (fun e => e.words.getD 1 0) == [0x01010042]) = true) ∧
    (let c := cq 0x42 (toLe 4 0)
     itsTurn (turn (loading { queue := 0, header := header, commit := true }) c) 0 0x42 c ∧
     answers (.lcommit 0) (turn (loading { queue := 0, header := header, commit := true }) c) 7 = true) := by
  unfold itsTurn queueTurn; decide +kernel

/-- The job that installs finds the image that passes: what SHAKE256 answers does not matter. -/
theorem witness_CommitPasses : LoadJob.firstFailure ⟨loading goodLoad, 0, goodHeader, (List.range (hdNsec goodHeader)).map ((loading goodLoad).secEnt goodHeader goodStage)⟩ = none := by
  rw [good_entries]; exact witness_ImagesInstalled.1

/-- A partition reset by RESET LEVEL 2, and while a job holds the lock. -/
theorem witness_PartitionResets :
    (let d := idle.modBrd (fun b => { b with pcfgMode := true })
     let s := turn d (rst 2 0)
     itsTurn s 0 0x90 (rst 2 0) ∧ (s.dev.part 0).resetDue = false ∧ s.dev.locked 0 = false ∧
     after (.partitionReset 0 []) s (fun t => status t == some 0 && t.nv.rstp == 1#32) = true) ∧
    (let s := turn { idle with jobs := [lcJob] } (rst 2 0)
     s.dev.locked 0 = true ∧ answers (.partitionReset 0 []) s 7 = true) ∧ (net0.modPart 0 (fun x => { x with resetDue := true })).resetting 0 = true := by
  unfold itsTurn queueTurn; decide +kernel

/-- The Q row of a Reed–Solomon group of four: chunk 0 of the member at position 0 lies in row 3. -/
def rs4 : Nat := 2 * 2 ^ 30 + 4 * 2 ^ 25 + 2

theorem witness_QRow : rcCode rs4 = 2 ∧ rcGsize rs4 = 4 ∧ rcD rs4 = 2 ∧
    (let m := (List.range 4).find? (fun m => decide (rcRow rs4 m 1 ≠ rcPos rs4 ∧ (rcRow rs4 m 1 + 1) % rcGsize rs4 = rcPos rs4))
     m.isSome = true ∧
     after (.parityContributionReceipt 0 (m.getD 0) 6 1 0 [3#8]) (on (running0 { grouped with rcfg := rs4, bst := 1, bbuild := 6 })) (fun t =>
      (t.dev.part 0).parity == [(2 ^ 40, 6#8)]) = true) ∧ copied.recIdle 0 4065 = true ∧ copied.recIdle 0 4066 = true := by decide +kernel

/-- A device of a medium that the module does not know leaves its port down. -/
theorem witness_UnknownMedium : after (.deviceInsertion 3 15 7 true) (on (cagePort {})) (fun t => !(t.dev.port 3).up && (t.dev.cage 3).prs &&
    (t.dev.cage 3).media == 0) = true := by decide +kernel

/-- Steps that answer a next state from a state in canonical form. -/
theorem witness_Steps : Memory.wf host.mem = true ∧ host.mem ≠ [] ∧ (outState (step { on host with pending := [.ident 0] })).isSome = true ∧
    step (on host) = .next (on host) ∧ step { on host with pending := [.taskStart 320] } = .fault .noSuchUnit := by
  refine ⟨by decide +kernel, by decide +kernel, by decide +kernel, rfl, rfl⟩

theorem test_reset_objects : (resetTable.all (fun y => (objAt State.reset.nv State.reset.dev y.1 0).map (·.val) == some y.2)) = true := by
  decide +kernel
theorem test_reset_memory : Memory.wf State.reset.dev.mem = true := by decide
theorem test_serial_corner : serialEarlier 32 (2 ^ 31) 0 = true ∧ serialLater 32 (2 ^ 31 - 1) 0 = true ∧ serialLater 16 0 0xFFFF = true := by decide

end Sys2Proof.Tests
end

section
/-! SUPPORT. What the vector engine's loads and stores do to their core, one lemma per operation of the model, and the proof of O17. -/

namespace Sys2Proof.Machine
open Sys2Proof Sys2Proof.Machine.Claims

/-! ## Sticky flags (R54) -/

/-- Folding what settled tasks left into the base loses no flag. -/
theorem flagsOf_foldFlags (live : List Nat) (b : BitVec 12) (log : List FlagChg) :
    flagsOf (foldFlags live b log).1 (foldFlags live b log).2 = flagsOf b log := by
  induction log generalizing b with
  | nil => rfl
  | cons c r ih =>
    unfold foldFlags
    split
    · rfl
    · exact ih _

/-- Raising flags changes the log only. -/
theorem VectorEngine.addFlags_parts (v : VectorEngine) (uid : Nat) (f : BitVec 12) :
    ∃ log, v.addFlags uid f = { v with flagLog := log } := by
  unfold VectorEngine.addFlags
  split
  · exact ⟨v.flagLog, rfl⟩
  · exact ⟨_, rfl⟩

@[simp] theorem VectorEngine.addFlags_flags (v : VectorEngine) (uid : Nat) (f : BitVec 12) :
    (v.addFlags uid f).flags = v.flags ||| f := by
  unfold VectorEngine.addFlags
  split
  · next h => simp [h]
  · unfold VectorEngine.flags flagsOf
    rw [List.foldl_append, List.foldl_cons, List.foldl_nil, BitVec.not_zero, BitVec.and_allOnes]

@[simp] theorem Core.settle_vx_flags (c : Core) : c.settle.vx.flags = c.vx.flags := flagsOf_foldFlags _ _ _

@[simp] theorem Core.settle_mx_flags (c : Core) : c.settle.mx.flags = c.mx.flags := flagsOf_foldFlags _ _ _

/-- A bit of flags gathered over a list is set by one of its members. -/
theorem getLsbD_foldl_or {α : Type} {w : Nat} (g : α → BitVec w) (l : List α) (f : BitVec w) (i : Nat) :
    (l.foldl (fun f x => f ||| g x) f).getLsbD i = true ↔ f.getLsbD i = true ∨ ∃ x ∈ l, (g x).getLsbD i = true := by
  induction l generalizing f with
  | nil => simp
  | cons x r ih => simp [ih, or_assoc]

/-- The conversion flags stand in the low byte of the status word. -/
@[simp] theorem getLsbD_convFlags (f : Flags) (i : Nat) : (convFlags f).getLsbD i = f.getLsbD i := by
  unfold convFlags
  rw [BitVec.getLsbD_setWidth]
  by_cases h : i < 12
  · simp [h]
  · simp [h, BitVec.getLsbD_of_ge f i (by omega)]

/-! ## The registers (Table 4-1) -/

theorem Core.noteWrite_parts (c : Core) (uid r : Nat) :
    ∃ wr, c.noteWrite uid r = { c with vx := { c.vx with wrote := wr } } := by
  unfold Core.noteWrite
  split
  · exact ⟨c.vx.wrote, rfl⟩
  · exact ⟨_, rfl⟩

/-- The lanes after register r has taken `f`. -/
def lanesPut (v : Store Word32) (r : Nat) (f : Nat → Nat) : Store Word32 :=
  (List.range 256).foldl (fun m l => Store.set 0#32 m (256 * r + l) (BitVec.ofNat 32 (f l))) v

theorem Core.setLanes_parts (c : Core) (uid r : Nat) (f : Nat → Nat) :
    ∃ wr, c.setLanes uid r f = { c with vx := { c.vx with v := lanesPut c.vx.v r f, wrote := wr } } := by
  have hnote (v : Store Word32) : ∃ wr, ({ c with vx := { c.vx with v := v } } : Core).noteWrite uid r =
      { c with vx := { c.vx with v := v, wrote := wr } } := Core.noteWrite_parts _ uid r
  exact hnote (lanesPut c.vx.v r f)

/-- A run of writes at consecutive keys leaves each key with its own value. -/
theorem Store.get_foldl_set_range {α : Type} [DecidableEq α] (d : α) (m : Store α) (base n : Nat) (f : Nat → α) {l : Nat}
    (h : l < n) : Store.get d ((List.range n).foldl (fun m l => Store.set d m (base + l) (f l)) m) (base + l) = f l := by
  induction n with
  | zero => omega
  | succ n ih =>
    rw [List.range_succ, List.foldl_append, List.foldl_cons, List.foldl_nil]
    by_cases hl : l = n
    · rw [hl, Store.get_set_self]
    · rw [Store.get_set_ne _ _ _ (by omega), ih (by omega)]

theorem Core.setLanes_lane (c : Core) (uid r : Nat) (f : Nat → Nat) {l : Nat} (h : l < 256) :
    (c.setLanes uid r f).lane r l = f l % 2 ^ 32 := by
  obtain ⟨wr, hs⟩ := c.setLanes_parts uid r f
  rw [hs]
  simp [Core.lane, lanesPut, Store.get_foldl_set_range _ _ _ _ _ h]

theorem Core.setLanes_lane_ne (c : Core) (uid : Nat) {r q : Nat} (f : Nat → Nat) {l : Nat} (h : l < 256) (hq : q ≠ r) :
    (c.setLanes uid r f).lane q l = c.lane q l := by
  obtain ⟨wr, hs⟩ := c.setLanes_parts uid r f
  have hk : ∀ k ∈ List.range 256, 256 * q + l ≠ 256 * r + k := fun k hk => by
    have := List.mem_range.1 hk
    omega
  rw [hs]
  unfold Core.lane lanesPut
  rw [Store.get_foldl_set_ne 0#32 (256 * r + ·) _ _ _ _ hk]

theorem Core.advanceIdx_parts (c : Core) (uid : Nat) (draws : Bool) (k : Nat) : ∃ wr, c.advanceIdx uid draws k =
    { c with vx := { c.vx with idx0 := if draws then c.vx.idx0 + BitVec.ofNat 32 k else c.vx.idx0, wrote := wr } } := by
  unfold Core.advanceIdx
  split
  · exact Core.noteWrite_parts _ uid 41
  · exact ⟨c.vx.wrote, rfl⟩

/-! ## The release of ring slots (R165) -/

theorem Core.release_parts (c : Core) (r : RingDecl) (k : Nat) :
    ∃ w u su p, c.release r k = { c with w := w, u := u, su := su, progress := p } := by
  unfold Core.release
  dsimp only
  split <;> exact ⟨_, _, _, _, rfl⟩

/-- The W bits after a release: those of the slot's rows are clear. -/
theorem Core.release_w (c : Core) (r : RingDecl) (k : Nat) :
    (c.release r k).w = (List.range' (r.slotRow k) r.rows).foldl (fun m i => Store.set false m i false) c.w := by
  unfold Core.release
  dsimp only
  split <;> rfl

theorem Core.releases_parts (l : List (RingDecl × Nat)) (c : Core) : ∃ w u su p,
    l.foldl (fun c x => c.release x.1 x.2) c = { c with w := w, u := u, su := su, progress := p } := by
  induction l generalizing c with
  | nil => exact ⟨c.w, c.u, c.su, c.progress, rfl⟩
  | cons x l ih =>
    obtain ⟨_, _, _, _, h1⟩ := c.release_parts x.1 x.2
    obtain ⟨w, u, su, p, h2⟩ := ih (c.release x.1 x.2)
    exact ⟨w, u, su, p, by rw [List.foldl_cons, h2, h1]⟩

theorem Core.releases_w_congr (l : List (RingDecl × Nat)) {c k : Core} (h : k.w = c.w) :
    (l.foldl (fun c x => c.release x.1 x.2) k).w = (l.foldl (fun c x => c.release x.1 x.2) c).w := by
  induction l generalizing c k with
  | nil => exact h
  | cons x l ih => exact ih (by rw [Core.release_w, Core.release_w, h])

/-- The core of a load, after REL has released what it read. -/
def Core.loadRelease (c : Core) (rel : Bool) (rs : List RingDecl) (ranges : List (Nat × Nat)) : Core :=
  if rel then c.releaseRead rs ranges else c

theorem Core.loadRelease_parts (c : Core) (rel : Bool) (rs : List RingDecl) (ranges : List (Nat × Nat)) :
    ∃ w u su p, c.loadRelease rel rs ranges = { c with w := w, u := u, su := su, progress := p } := by
  unfold Core.loadRelease
  split
  · exact Core.releases_parts _ c
  · exact ⟨c.w, c.u, c.su, c.progress, rfl⟩

/-- Which W bits it leaves does not depend on what the load did to the registers. -/
theorem Core.loadRelease_w (s : State) (n : Nat) (rel : Bool) (ranges : List (Nat × Nat)) {k : Core}
    (h : k.w = (s.dev.core n).w) : (k.loadRelease rel (s.dev.rings n) ranges).w = wAfterRead s n rel ranges := by
  unfold Core.loadRelease wAfterRead
  split
  · exact Core.releases_w_congr _ h
  · exact h

/-! ## Writes into the scratchpad -/

/-- The cells of a run of consecutive bytes. -/
def runCells (r : Nat × List Byte) : List (Nat × Byte) := r.2.zipIdx.map (fun z => (r.1 + z.2, z.1))

/-- One byte written into the scratchpad. -/
def cellPut (m : Store Byte) (z : Nat × Byte) : Store Byte := Store.set 0#8 m z.1 z.2

@[simp] theorem runCells_nil (a : Nat) : runCells (a, []) = [] := rfl

theorem runCells_cons (a : Nat) (b : Byte) (bs : List Byte) : runCells (a, b :: bs) = (a, b) :: runCells (a + 1, bs) := by
  unfold runCells
  rw [List.zipIdx_cons', List.map_cons, List.map_map]
  simp [Function.comp_def, Nat.add_comm, Nat.add_left_comm]

theorem runCells_concat (a : Nat) (bs : List Byte) (b : Byte) :
    runCells (a, bs ++ [b]) = runCells (a, bs) ++ [(a + bs.length, b)] := by
  simp [runCells, List.zipIdx_append]

theorem mem_runCells {r : Nat × List Byte} {z : Nat × Byte} (h : z ∈ runCells r) : r.1 ≤ z.1 ∧ z.1 < r.1 + r.2.length := by
  obtain ⟨y, hy, rfl⟩ := List.mem_map.1 h
  have := List.snd_lt_of_mem_zipIdx hy
  simp only
  omega

/-- Joining cells into runs loses none and keeps their order. -/
theorem mkRuns_cells (cells : List (Nat × Byte)) : (mkRuns cells).flatMap runCells = cells := by
  induction cells with
  | nil => rfl
  | cons x cells ih =>
    unfold mkRuns at ih ⊢
    rw [List.foldr_cons]
    split
    · next a bs r hr =>
      rw [hr, List.flatMap_cons] at ih
      split
      · next ha => rw [List.flatMap_cons, runCells_cons, ha, List.cons_append, ih]
      · rw [List.flatMap_cons, hr, List.flatMap_cons, ih]
        rfl
    · next hr =>
      rw [hr] at ih
      rw [← ih]
      rfl

theorem Core.padWrite_pad (c : Core) (a : Nat) (bs : List Byte) (p : Bool) :
    (c.padWrite a bs p).pad = (runCells (a, bs)).foldl cellPut c.pad := by
  unfold runCells
  rw [List.foldl_map]
  rfl

theorem Core.padWrites_parts (runs : List (Nat × List Byte)) (p : Bool) (c : Core) : ∃ w pp,
    runs.foldl (fun c r => c.padWrite r.1 r.2 p) c =
      { c with pad := (runs.flatMap runCells).foldl cellPut c.pad, w := w, padPoison := pp } := by
  induction runs generalizing c with
  | nil => exact ⟨c.w, c.padPoison, rfl⟩
  | cons r runs ih =>
    obtain ⟨w, pp, h⟩ := ih (c.padWrite r.1 r.2 p)
    refine ⟨w, pp, ?_⟩
    rw [List.foldl_cons, h, Core.padWrite_pad, List.flatMap_cons, List.foldl_append]
    rfl

theorem Core.advanceTails_parts (rs : List RingDecl) (c : Core) : ∃ su, c.advanceTails rs = { c with su := su } := by
  unfold Core.advanceTails
  induction rs generalizing c with
  | nil => exact ⟨c.su, rfl⟩
  | cons r rs ih =>
    obtain ⟨su, h⟩ := ih (c.setRing r.ix { c.ringSt r.ix with tail := tailFrom c r (c.ringSt r.ix).head r.n (c.ringSt r.ix).tail })
    exact ⟨su, h⟩

/-- A write of cells: they land in order, and beside the scratchpad only the rings' tails move. -/
theorem Core.padRuns_parts (c : Core) (rs : List RingDecl) (cells : List (Nat × Byte)) (p : Bool) : ∃ w pp su,
    c.padRuns rs (mkRuns cells) p =
      { c with pad := cells.foldl cellPut c.pad, w := w, padPoison := pp, su := su, progress := true } := by
  obtain ⟨w, pp, h⟩ := Core.padWrites_parts (mkRuns cells) p { c with progress := true }
  rw [mkRuns_cells] at h
  unfold Core.padRuns
  rw [h]
  obtain ⟨su, h⟩ := Core.advanceTails_parts rs
    { c with pad := cells.foldl cellPut c.pad, w := w, padPoison := pp, progress := true }
  exact ⟨w, pp, su, h⟩

/-! ## The byte that written cells leave -/

@[simp] theorem cellByte_nil (c : Core) (a : Nat) : cellByte c [] a = c.padByte a := rfl

theorem cellByte_concat (c : Core) (cells : List (Nat × Byte)) (z : Nat × Byte) (a : Nat) :
    cellByte c (cells ++ [z]) a = if z.1 = a then z.2 else cellByte c cells a := by
  unfold cellByte
  rw [List.reverse_append, List.reverse_singleton, List.singleton_append, List.find?_cons]
  by_cases h : z.1 = a
  · simp [h]
  · rw [beq_eq_false_iff_ne.2 h, if_neg h]

/-- Cells written in order leave at each address what the last of them wrote there. -/
theorem get_foldl_cellPut (c : Core) (cells : List (Nat × Byte)) (a : Nat) :
    Store.get 0#8 (cells.foldl cellPut c.pad) a = cellByte c cells a := by
  induction cells using List.reverseRecOn with
  | nil => rfl
  | append_singleton cells z ih =>
    rw [List.foldl_append, List.foldl_cons, List.foldl_nil, cellByte_concat, cellPut]
    split
    · next h => rw [← h, Store.get_set_self]
    · next h => rw [Store.get_set_ne _ _ _ (Ne.symm h), ih]

/-- Cells at other addresses do not count. -/
theorem cellByte_append_other (c : Core) (xs ys : List (Nat × Byte)) {a : Nat} (h : ∀ y ∈ ys, y.1 ≠ a) :
    cellByte c (xs ++ ys) a = cellByte c xs a := by
  induction ys using List.reverseRecOn with
  | nil => rw [List.append_nil]
  | append_singleton ys y ih =>
    rw [← List.append_assoc, cellByte_concat, if_neg (h y (by simp)), ih fun z hz => h z (by simp [hz])]

theorem cellByte_append_runCells (c : Core) (xs : List (Nat × Byte)) (a : Nat) (bs : List Byte) {i : Nat} (h : i < bs.length) :
    cellByte c (xs ++ runCells (a, bs)) (a + i) = bs[i] := by
  induction bs using List.reverseRecOn with
  | nil => simp at h
  | append_singleton bs b ih =>
    rw [runCells_concat, ← List.append_assoc, cellByte_concat]
    rw [List.length_append, List.length_singleton] at h
    by_cases hi : i = bs.length
    · simp [hi]
    · rw [if_neg (by simp only; omega), ih (by omega), List.getElem_append_left]

/-- The cells of element k, where the mask lets it be written. -/
def eltCells (act : Nat → Bool) (adr : Nat → Nat) (bs : Nat → List Byte) (k : Nat) : List (Nat × Byte) :=
  if act k then runCells (adr k, bs k) else []

theorem mem_eltCells {act : Nat → Bool} {adr : Nat → Nat} {bs : Nat → List Byte} {k : Nat} {z : Nat × Byte}
    (h : z ∈ eltCells act adr bs k) : act k = true ∧ adr k ≤ z.1 ∧ z.1 < adr k + (bs k).length := by
  unfold eltCells at h
  split at h
  · next ha => exact ⟨ha, mem_runCells h⟩
  · cases h

/-- An element's byte stays when no later element covers it. -/
theorem cellByte_elts (c : Core) (act : Nat → Bool) (adr : Nat → Nat) (bs : Nat → List Byte) {n k i : Nat} (hk : k < n)
    (ha : act k = true) (hi : i < (bs k).length)
    (hl : ∀ j, k < j → j < n → adr k + i < adr j ∨ adr j + (bs j).length ≤ adr k + i) :
    cellByte c ((List.range n).flatMap (eltCells act adr bs)) (adr k + i) = (bs k)[i] := by
  obtain ⟨m, rfl⟩ : ∃ m, n = k + 1 + m := ⟨n - (k + 1), by omega⟩
  have hafter : ∀ y ∈ ((List.range m).map (k + 1 + ·)).flatMap (eltCells act adr bs), y.1 ≠ adr k + i := by
    intro y hy
    obtain ⟨j, hj, hyj⟩ := List.mem_flatMap.1 hy
    obtain ⟨d, hd, rfl⟩ := List.mem_map.1 hj
    obtain ⟨_, hlo, hhi⟩ := mem_eltCells hyj
    have := List.mem_range.1 hd
    have := hl (k + 1 + d) (by omega) (by omega)
    omega
  rw [List.range_add, List.flatMap_append, cellByte_append_other c _ _ hafter, List.range_succ, List.flatMap_append,
    List.flatMap_singleton]
  unfold eltCells
  rw [if_pos ha]
  exact cellByte_append_runCells c _ _ _ hi

/-- A byte that no element covers stays as it was. -/
theorem cellByte_elts_other (c : Core) (act : Nat → Bool) (adr : Nat → Nat) (bs : Nat → List Byte) {n a : Nat}
    (h : ∀ k, k < n → act k = true → a < adr k ∨ adr k + (bs k).length ≤ a) :
    cellByte c ((List.range n).flatMap (eltCells act adr bs)) a = c.padByte a := by
  refine cellByte_append_other c [] _ fun y hy => ?_
  obtain ⟨k, hk, hyk⟩ := List.mem_flatMap.1 hy
  obtain ⟨ha, hlo, hhi⟩ := mem_eltCells hyk
  have := h k (List.mem_range.1 hk) ha
  omega

/-! ## Issue (R90, R91) -/

/-- `k` has the tasks, the fault record, the matrix engine, and of the vector engine all but lanes, IDX0 and who wrote what of `c`. -/
structure Core.Frames (c k : Core) : Prop where
  tasks : k.tasks = c.tasks
  frec : k.frec = c.frec
  mx : k.mx = c.mx
  queue : k.vx.queue = c.vx.queue
  m : k.vx.m = c.vx.m
  mailbox : k.vx.mailbox = c.vx.mailbox
  sid : k.vx.sid = c.vx.sid
  sq : k.vx.sq = c.vx.sq
  flags : k.vx.flags = c.vx.flags

/-- The state after core n has issued its head with registers and scratchpad `k` and flags `f`. -/
def State.vxNext (s : State) (n : Nat) (k : Core) (trn : Nat) (f : BitVec 12) (uid : Nat) : State :=
  { s with dev := s.dev.setCore n (k.vxDone trn f uid) }

@[simp] theorem State.vxNext_core (s : State) (n : Nat) (k : Core) (trn : Nat) (f : BitVec 12) (uid : Nat) :
    (s.vxNext n k trn f uid).dev.core n = k.vxDone trn f uid := Dev.setCore_core_self _ _ _

section
variable (k : Core) (trn : Nat) (f : BitVec 12) (uid : Nat)

@[simp] theorem Core.vxDone_tasks : (k.vxDone trn f uid).tasks = k.tasks := rfl
@[simp] theorem Core.vxDone_frec : (k.vxDone trn f uid).frec = k.frec := rfl
@[simp] theorem Core.vxDone_pad : (k.vxDone trn f uid).pad = k.pad := rfl
@[simp] theorem Core.vxDone_w : (k.vxDone trn f uid).w = k.w := rfl
@[simp] theorem Core.vxDone_bankA : (k.vxDone trn f uid).mx.bankA = k.mx.bankA := rfl
@[simp] theorem Core.vxDone_bankB : (k.vxDone trn f uid).mx.bankB = k.mx.bankB := rfl

@[simp] theorem Core.vxDone_mx_flags : (k.vxDone trn f uid).mx.flags = k.mx.flags := Core.settle_mx_flags _

@[simp] theorem Core.vxDone_vx_flags : (k.vxDone trn f uid).vx.flags = k.vx.flags ||| f :=
  (Core.settle_vx_flags _).trans (VectorEngine.addFlags_flags _ uid f)

/-- Of the vector engine an issue changes the queue, the counters and the flags, and forgets what settled tasks wrote. -/
theorem Core.vxDone_vx_parts : ∃ b log wr, (k.vxDone trn f uid).vx = { k.vx with
    queue := k.vx.queue.drop 1, issued := k.vx.issued + 1#32, trn := k.vx.trn + BitVec.ofNat 32 trn,
    flagBase := b, flagLog := log, wrote := wr } := by
  obtain ⟨log, h⟩ := VectorEngine.addFlags_parts
    { k.vx with queue := k.vx.queue.drop 1, issued := k.vx.issued + 1#32, trn := k.vx.trn + BitVec.ofNat 32 trn } uid f
  unfold Core.vxDone Core.settle
  dsimp only
  rw [h]
  exact ⟨_, _, _, rfl⟩

@[simp] theorem Core.vxDone_queue : (k.vxDone trn f uid).vx.queue = k.vx.queue.drop 1 := by
  obtain ⟨_, _, _, h⟩ := k.vxDone_vx_parts trn f uid
  rw [h]

@[simp] theorem Core.vxDone_v : (k.vxDone trn f uid).vx.v = k.vx.v := by
  obtain ⟨_, _, _, h⟩ := k.vxDone_vx_parts trn f uid
  rw [h]

@[simp] theorem Core.vxDone_m : (k.vxDone trn f uid).vx.m = k.vx.m := by
  obtain ⟨_, _, _, h⟩ := k.vxDone_vx_parts trn f uid
  rw [h]

@[simp] theorem Core.vxDone_mailbox : (k.vxDone trn f uid).vx.mailbox = k.vx.mailbox := by
  obtain ⟨_, _, _, h⟩ := k.vxDone_vx_parts trn f uid
  rw [h]

@[simp] theorem Core.vxDone_sid : (k.vxDone trn f uid).vx.sid = k.vx.sid := by
  obtain ⟨_, _, _, h⟩ := k.vxDone_vx_parts trn f uid
  rw [h]

@[simp] theorem Core.vxDone_sq : (k.vxDone trn f uid).vx.sq = k.vx.sq := by
  obtain ⟨_, _, _, h⟩ := k.vxDone_vx_parts trn f uid
  rw [h]

@[simp] theorem Core.vxDone_idx0 : (k.vxDone trn f uid).vx.idx0 = k.vx.idx0 := by
  obtain ⟨_, _, _, h⟩ := k.vxDone_vx_parts trn f uid
  rw [h]

@[simp] theorem Core.vxDone_lane (r l : Nat) : (k.vxDone trn f uid).lane r l = k.lane r l := by simp [Core.lane]

@[simp] theorem Core.vxDone_padByte (a : Nat) : (k.vxDone trn f uid).padByte a = k.padByte a := rfl

end

section
variable {s : State} {n : Nat} {o : VecOp} {rest : List VecOp}

/-- An issue that keeps to the registers and the scratchpad has issued as the claims say. -/
theorem State.vxNext_issued (hq : (s.dev.core n).vx.queue = o :: rest) {k : Core} (h : (s.dev.core n).Frames k) (trn : Nat)
    (f : BitVec 12) (uid : Nat) : vecIssued s (s.vxNext n k trn f uid) n rest ∧ ctlKept s (s.vxNext n k trn f uid) n := by
  have hout : OnlyCoreChanged s (s.vxNext n k trn f uid) n :=
    ⟨_, rfl, rfl, rfl, s.vxNext_core n k trn f uid, fun m hm => Dev.setCore_core_ne _ _ hm⟩
  unfold vecIssued ctlKept
  simp [hout, h.queue, hq, h.tasks, h.frec, h.mx, h.m, h.mailbox, h.sid, h.sq]

theorem queue_of_vecHead (h : vecHead s n o rest) : (s.dev.core n).vx.queue = o :: rest := by
  obtain ⟨_, _, hq, _⟩ := h
  exact hq

theorem vxHead_of_vecHead (h : vecHead s n o rest) {code : Nat} (hc : vOp o = code) : (s.dev.core n).vxHead code = some o := by
  obtain ⟨_, _, hq, hh⟩ := h
  simp [Core.vxHead, hq, hc, hh]

theorem onEngine_of_vecHead (h : vecHead s n o rest) (f : Dev → Dev) : s.onEngine n f = .next { s with dev := f s.dev } := by
  obtain ⟨hn, hz, _, _⟩ := h
  simp [State.onEngine, State.onCore, State.onUnit_eq, hn, hz]

/-- A load whose ranges are in the scratchpad and readable issues (R91, R102, R165). -/
theorem vxLoad_issues (h : vecHead s n o rest) {code : Nat} (hc : vOp o = code) (ranges : VecOp → List (Nat × Nat))
    (run : Core → VecOp → Core × BitVec 12) (hb : rangeBreak (ranges o) = none)
    (hr : (s.dev.core n).readCheck (s.dev.rings n) (s.dev.guard n) .engine (ranges o) = .ok ()) :
    s.onEngine n (fun d => d.vxLoad n code ranges run) = .next (s.vxNext n
      ((run (s.dev.core n) o).1.loadRelease (lsRel o) (s.dev.rings n) (ranges o)) 0 (run (s.dev.core n) o).2 o.uid) := by
  rw [onEngine_of_vecHead h]
  simp only [Dev.vxLoad, vxHead_of_vecHead h hc, hb, hr]
  rfl

/-- A store whose ranges are in the scratchpad and whose slots are drained issues (R91, R102). -/
theorem vxStore_issues (h : vecHead s n o rest) {code : Nat} (hc : vOp o = code) (ranges : VecOp → List (Nat × Nat))
    (run : Dev → List RingDecl → Core → VecOp → Core × BitVec 12) (hb : rangeBreak (ranges o) = none)
    (hw : (s.dev.core n).writeWaits (s.dev.rings n) (ranges o) = false) :
    s.onEngine n (fun d => d.vxStore n code ranges (run d)) = .next (s.vxNext n
      (run s.dev (s.dev.rings n) (s.dev.core n) o).1 0 (run s.dev (s.dev.rings n) (s.dev.core n) o).2 o.uid) := by
  rw [onEngine_of_vecHead h]
  simp only [Dev.vxStore, vxHead_of_vecHead h hc, hb, hw]
  rfl

/-! ## Loads (R93, R94) -/

/-- What a load that sets the lanes of its register leaves: its lanes, the scratchpad's bytes, and the W bits after REL. -/
theorem State.load_effect (hq : (s.dev.core n).vx.queue = o :: rest) (rel : Bool) (ranges : List (Nat × Nat)) (r : Nat)
    (f : Nat → Nat) (fl : BitVec 12) :
    let t := s.vxNext n (((s.dev.core n).setLanes o.uid r f).loadRelease rel (s.dev.rings n) ranges) 0 fl o.uid
    vecIssued s t n rest ∧ ctlKept s t n ∧ (t.dev.core n).vx.idx0 = (s.dev.core n).vx.idx0 ∧
      (t.dev.core n).pad = (s.dev.core n).pad ∧ (t.dev.core n).w = wAfterRead s n rel ranges ∧ lanesAre s t n r f ∧
      (t.dev.core n).vx.flags = (s.dev.core n).vx.flags ||| fl := by
  intro t
  obtain ⟨wr, hs⟩ := (s.dev.core n).setLanes_parts o.uid r f
  obtain ⟨w, u, su, p, hk⟩ := ((s.dev.core n).setLanes o.uid r f).loadRelease_parts rel (s.dev.rings n) ranges
  have hw := Core.loadRelease_w s n rel ranges (k := (s.dev.core n).setLanes o.uid r f) (by rw [hs])
  have hlane (q l : Nat) : (t.dev.core n).lane q l = ((s.dev.core n).setLanes o.uid r f).lane q l := by
    rw [State.vxNext_core, Core.vxDone_lane, hk]
    rfl
  have hframes : (s.dev.core n).Frames (((s.dev.core n).setLanes o.uid r f).loadRelease rel (s.dev.rings n) ranges) := by
    rw [hk, hs]
    exact ⟨rfl, rfl, rfl, rfl, rfl, rfl, rfl, rfl, rfl⟩
  obtain ⟨hissued, hctl⟩ := State.vxNext_issued hq hframes 0 fl o.uid
  refine ⟨hissued, hctl, ?_, ?_, ?_, ⟨fun q l hl hqr => ?_, fun l hl => ?_⟩, ?_⟩
  · rw [State.vxNext_core, Core.vxDone_idx0, hk, hs]
  · rw [State.vxNext_core, Core.vxDone_pad, hk, hs]
  · rw [State.vxNext_core, Core.vxDone_w, hw]
  · rw [hlane, Core.setLanes_lane_ne _ _ _ hl hqr]
  · rw [hlane, Core.setLanes_lane _ _ _ _ hl]
  · rw [State.vxNext_core, Core.vxDone_vx_flags, hframes.flags]

/-- Element k of a VLD under the mask: its value, or what the register held, and its flags. -/
def vldOne (c : Core) (o : VecOp) (k old : Nat) : Nat × BitVec 12 :=
  if c.maskBit (lsMk o) k then ((vldElt c o k).1, convFlags (vldElt c o k).2) else (old, 0#12)

/-- Lane l after a VLD, and the flags it raises. -/
def vldLane (c : Core) (o : VecOp) (l : Nat) : Nat × BitVec 12 :=
  if lsPk o then
    ((vldOne c o (2 * l) (c.lane (lsV o) l % 65536)).1 + 65536 * (vldOne c o (2 * l + 1) (c.lane (lsV o) l / 65536)).1,
      (vldOne c o (2 * l) (c.lane (lsV o) l % 65536)).2 ||| (vldOne c o (2 * l + 1) (c.lane (lsV o) l / 65536)).2)
  else vldOne c o l (c.lane (lsV o) l)

theorem vldRun_eq (c : Core) (o : VecOp) : vldRun c o =
    (c.setLanes o.uid (lsV o) (fun l => (((List.range 256).map (vldLane c o)).toArray.getD l (0, 0#12)).1),
      ((List.range 256).map (vldLane c o)).foldl (fun f r => f ||| r.2) 0#12) := rfl

/-- A masked element raises nothing. -/
theorem vldOne_flag (c : Core) (o : VecOp) (k old i : Nat) : (vldOne c o k old).2.getLsbD i = true ↔
    c.maskBit (lsMk o) k = true ∧ (vldElt c o k).2.getLsbD i = true := by
  unfold vldOne
  by_cases h : c.maskBit (lsMk o) k = true <;> simp [h]

/-- The flags of a VLD are those of its unmasked elements. -/
theorem vldRun_flags (c : Core) (o : VecOp) (i : Nat) : (vldRun c o).2.getLsbD i = true ↔
    ∃ k, k < (if lsPk o then 512 else 256) ∧ c.maskBit (lsMk o) k = true ∧ (vldElt c o k).2.getLsbD i = true := by
  have hfold : (vldRun c o).2.getLsbD i = true ↔ ∃ l < 256, (vldLane c o l).2.getLsbD i = true := by
    rw [vldRun_eq, getLsbD_foldl_or]
    simp
  rw [hfold]
  unfold vldLane
  by_cases hp : lsPk o = true
  · simp only [hp, if_true, BitVec.getLsbD_or, Bool.or_eq_true, vldOne_flag]
    constructor
    · rintro ⟨l, hl, h | h⟩
      · exact ⟨2 * l, by omega, h⟩
      · exact ⟨2 * l + 1, by omega, h⟩
    · rintro ⟨k, hk, h⟩
      refine ⟨k / 2, by omega, ?_⟩
      rcases Nat.mod_two_eq_zero_or_one k with h2 | h2
      · left
        rwa [show 2 * (k / 2) = k by omega]
      · right
        rwa [show 2 * (k / 2) + 1 = k by omega]
  · simp [hp, vldOne_flag]

/-- The lanes of a VLD. -/
theorem vldLane_fst (c : Core) (o : VecOp) (l : Nat) : (vldLane c o l).1 =
    if lsPk o then packedLane c (lsMk o) (lsV o) (fun hi => (vldElt c o (2 * l + b2n hi)).1) l
    else if c.maskBit (lsMk o) l then (vldElt c o l).1 else c.lane (lsV o) l := by
  have hone (k old : Nat) : (vldOne c o k old).1 = if c.maskBit (lsMk o) k then (vldElt c o k).1 else old := by
    unfold vldOne
    split <;> rfl
  unfold vldLane
  split
  · simp [hone, packedLane, b2n]
  · exact hone l _

/-- `lanesAre` sees the new lanes only as far as there are any. -/
theorem lanesAre_congr {t : State} {r : Nat} {f g : Nat → Nat} (h : ∀ l, l < 256 → f l = g l) (ha : lanesAre s t n r f) :
    lanesAre s t n r g :=
  ⟨ha.1, fun l hl => (ha.2 l hl).trans (by rw [h l hl])⟩

/-! ## Stores (R93 to R96) -/

/-- What a store leaves: its cells in order over the scratchpad, the registers but IDX0, and its flags. -/
theorem State.store_effect (hq : (s.dev.core n).vx.queue = o :: rest) (cells : List (Nat × Byte)) (draws : Bool) (j : Nat)
    (fl : BitVec 12) :
    let t := s.vxNext n (((s.dev.core n).padRuns (s.dev.rings n) (mkRuns cells) false).advanceIdx o.uid draws j) 0 fl o.uid
    vecIssued s t n rest ∧ ctlKept s t n ∧ (t.dev.core n).vx.v = (s.dev.core n).vx.v ∧
      (t.dev.core n).vx.flags = (s.dev.core n).vx.flags ||| fl ∧
      (t.dev.core n).vx.idx0 = (if draws then (s.dev.core n).vx.idx0 + BitVec.ofNat 32 j else (s.dev.core n).vx.idx0) ∧
      ∀ a, (t.dev.core n).padByte a = cellByte (s.dev.core n) cells a := by
  intro t
  obtain ⟨w, pp, su, hp⟩ := (s.dev.core n).padRuns_parts (s.dev.rings n) cells false
  obtain ⟨wr, hk⟩ := ((s.dev.core n).padRuns (s.dev.rings n) (mkRuns cells) false).advanceIdx_parts o.uid draws j
  have hframes : (s.dev.core n).Frames
      (((s.dev.core n).padRuns (s.dev.rings n) (mkRuns cells) false).advanceIdx o.uid draws j) := by
    rw [hk, hp]
    exact ⟨rfl, rfl, rfl, rfl, rfl, rfl, rfl, rfl, rfl⟩
  obtain ⟨hissued, hctl⟩ := State.vxNext_issued hq hframes 0 fl o.uid
  refine ⟨hissued, hctl, ?_, ?_, ?_, fun a => ?_⟩
  · rw [State.vxNext_core, Core.vxDone_v, hk, hp]
  · rw [State.vxNext_core, Core.vxDone_vx_flags, hframes.flags]
  · rw [State.vxNext_core, Core.vxDone_idx0, hk, hp]
  · rw [State.vxNext_core, Core.vxDone_padByte, hk, hp]
    exact get_foldl_cellPut _ cells a

/-- The cells of a store of a non-PL format: element after element. -/
theorem vstCells_elts (c : Core) (o : VecOp) (rnd : Nat → Rnd) (h : 2 ≤ lsFmt o) : (vstCells c o rnd).1 =
    (List.range (if lsPk o then 512 else 256)).flatMap
      (eltCells (c.maskBit (lsMk o)) (fun k => (vstElt c o k (rnd k)).1) (fun k => (vstElt c o k (rnd k)).2.1)) := by
  have hfold (l : List Nat) (acc : List (Nat × Byte) × Flags) : (l.foldl (fun acc k =>
      if c.maskBit (lsMk o) k then
        (acc.1 ++ runCells ((vstElt c o k (rnd k)).1, (vstElt c o k (rnd k)).2.1), acc.2 ||| (vstElt c o k (rnd k)).2.2)
      else acc) acc).1 = acc.1 ++ l.flatMap
        (eltCells (c.maskBit (lsMk o)) (fun k => (vstElt c o k (rnd k)).1) (fun k => (vstElt c o k (rnd k)).2.1)) := by
    induction l generalizing acc with
    | nil => simp
    | cons k l ih =>
      rw [List.foldl_cons, ih, List.flatMap_cons, eltCells]
      split <;> simp
  unfold vstCells
  dsimp only
  split
  · omega
  · omega
  · exact hfold _ _

/-- Bytes of one element of a non-PL format (Table 4-2). -/
def vstWidth (o : VecOp) : Nat :=
  if lsPk o then 2
  else match lsFmt o with
    | 2 => 1
    | 3 => 2
    | 5 => 2
    | _ => 4

/-- Elements of one half (R89). -/
def halfElts (o : VecOp) : Nat := if lsPk o then 256 else 128

@[simp] theorem toLe_length (k v : Nat) : (toLe k v).length = k := by
  induction k generalizing v with
  | zero => rfl
  | succ k ih => simp [toLe, ih]

/-- Where an element of a non-PL format is stored, and in how many bytes. -/
theorem vstElt_place (c : Core) (o : VecOp) (k : Nat) (r : Rnd) :
    (vstElt c o k r).1 = lsHalf o (k / halfElts o) + vstWidth o * (k % halfElts o) ∧
      (vstElt c o k r).2.1.length = vstWidth o := by
  unfold vstElt vstWidth halfElts
  split
  · simp
  · dsimp only
    split <;> simp_all

/-- The elements of a half fill its bytes. -/
theorem halfElts_mul_vstWidth (o : VecOp) (h : 2 ≤ lsFmt o) (hp : lsPk o = true → lsFmt o = 3) :
    halfElts o * vstWidth o = lsHalfBytes (lsFmt o) (lsPk o) (lsHeld o) := by
  unfold halfElts vstWidth lsHalfBytes
  by_cases hk : lsPk o = true
  · simp [hk, hp hk]
  · simp only [hk, Bool.false_eq_true, if_false]
    split
    case h_4 => split <;> simp_all
    all_goals simp_all

/-- Elements of two halves that do not overlap lie one after another. -/
theorem elt_places_rise {h w st k j i : Nat} (hkj : k < j) (hj : j < 2 * h) (hi : i < w) (hs : h * w ≤ st) :
    k / h * st + w * (k % h) + i < j / h * st + w * (j % h) := by
  have hstep {a b : Nat} (hab : a < b) : w * a + i < w * b := calc
    w * a + i < w * (a + 1) := by rw [Nat.mul_succ]; omega
    _ ≤ w * b := Nat.mul_le_mul_left w hab
  have hlow {a : Nat} (ha : a < h) : a / h = 0 ∧ a % h = a := ⟨Nat.div_eq_of_lt ha, Nat.mod_eq_of_lt ha⟩
  have hhigh {a : Nat} (ha : h ≤ a) (ha2 : a < 2 * h) : a / h = 1 ∧ a % h = a - h := by
    obtain ⟨hd, hm⟩ := hlow (a := a - h) (by omega)
    rw [Nat.div_eq_sub_div (by omega) ha, Nat.mod_eq_sub_mod ha, hd, hm]
    exact ⟨rfl, rfl⟩
  by_cases h1 : j < h
  · rw [(hlow h1).1, (hlow h1).2, (hlow (hkj.trans h1)).1, (hlow (hkj.trans h1)).2]
    have := hstep hkj
    omega
  · rw [(hhigh (by omega) hj).1, (hhigh (by omega) hj).2]
    by_cases h2 : k < h
    · rw [(hlow h2).1, (hlow h2).2]
      have := hstep h2
      rw [Nat.mul_comm w h] at this
      omega
    · rw [(hhigh (by omega) (hkj.trans hj)).1, (hhigh (by omega) (hkj.trans hj)).2]
      have := hstep (show k - h < j - h by omega)
      omega

/-- An unmasked element of a non-PL format reads back at its place when the halves do not overlap. -/
theorem cellByte_vstCells (c : Core) (o : VecOp) (rnd : Nat → Rnd) (hf : 2 ≤ lsFmt o) (hp : lsPk o = true → lsFmt o = 3)
    (hs : lsHalfBytes (lsFmt o) (lsPk o) (lsHeld o) ≤ lsStride o) {k i : Nat} (hk : k < if lsPk o then 512 else 256)
    (hm : c.maskBit (lsMk o) k = true) (hi : i < (vstElt c o k (rnd k)).2.1.length) :
    cellByte c (vstCells c o rnd).1 ((vstElt c o k (rnd k)).1 + i) = (vstElt c o k (rnd k)).2.1[i] := by
  have htwo : (if lsPk o then 512 else 256) = 2 * halfElts o := by
    unfold halfElts
    split <;> rfl
  rw [vstCells_elts c o rnd hf]
  refine cellByte_elts c _ (fun k => (vstElt c o k (rnd k)).1) (fun k => (vstElt c o k (rnd k)).2.1) hk hm hi fun j hkj hj => ?_
  rw [(vstElt_place c o k (rnd k)).2] at hi
  have := elt_places_rise hkj (htwo ▸ hj) hi ((halfElts_mul_vstWidth o hf hp).trans_le hs)
  simp only [vstElt_place, lsHalf]
  omega

theorem padRead_eq_of_bytes {c : Core} {a : Nat} {bs : List Byte}
    (h : ∀ i (hi : i < bs.length), c.padByte (a + i) = bs[i]) : c.padRead a bs.length = bs :=
  List.ext_getElem (by simp [Core.padRead]) fun i _ hi => by simp [Core.padRead, h i hi]

/-- The address of lane l's byte in a VLDB or VSTB (R96). -/
def byteAt (o : VecOp) (l : Nat) : Nat := lsAddr o + l / 128 * lsStride o + l % 128

/-- The cells that a VSTB writes. -/
def vstbCells (c : Core) (o : VecOp) : List (Nat × Byte) :=
  (List.range 256).flatMap (eltCells (c.maskBit (lsMk o)) (byteAt o) (fun l => [BitVec.ofNat 8 (c.lane (lsV o) l)]))

theorem vstbRun_eq (rs : List RingDecl) (c : Core) (o : VecOp) :
    vstbRun rs c o = ((c.padRuns rs (mkRuns (vstbCells c o)) false).advanceIdx o.uid false 0, 0#12) := by
  have hcells : (List.range 256).filterMap (fun l => if c.maskBit (lsMk o) l then
      some (lsHalf o (l / 128) + l % 128, BitVec.ofNat 8 (c.lane (lsV o) l)) else none) = vstbCells c o := by
    rw [List.filterMap_eq_flatMap_toList]
    unfold vstbCells
    congr 1
    funext l
    unfold eltCells
    split <;> rfl
  unfold vstbRun
  rw [hcells]
  rfl

/-- A later lane of a VSTB has another byte, unless it is in half 1 and STRIDE puts it onto half 0. -/
theorem byteAt_later {o : VecOp} {l j : Nat} (hlj : l < j) (hj : j < 256) (hs : l < lsStride o ∨ 128 ≤ l) :
    byteAt o l < byteAt o j := by
  unfold byteAt
  by_cases h1 : j < 128
  · rw [show l / 128 = 0 by omega, show j / 128 = 0 by omega]
    omega
  · rw [show j / 128 = 1 by omega]
    by_cases h2 : l < 128
    · rw [show l / 128 = 0 by omega]
      omega
    · rw [show l / 128 = 1 by omega]
      omega

end

/-! ## The four instructions -/

/-- Settles O17: the load and the store rules, applied to the lanes of VLD and VLDB and to the cells of VST and VSTB. -/
theorem vectorLoadsAndStoresMoveTheirBytes : Obligations.VectorLoadsAndStoresMoveTheirBytes := by
  unfold Obligations.VectorLoadsAndStoresMoveTheirBytes
  intro s n o rest h c rnd
  have hq := queue_of_vecHead h
  refine ⟨fun hc hb hr => ?vld, fun hc hb hr => ?vldb, fun hc hb hw => ?vst, fun hc hb hw => ?vstb⟩
  case vld =>
    obtain ⟨hissued, hctl, hidx, hpad, hrel, hlanes, hflags⟩ := State.load_effect hq (lsRel o) (lsRanges o) (lsV o)
      (fun l => (((List.range 256).map (vldLane c o)).toArray.getD l (0, 0#12)).1) (vldRun c o).2
    refine ⟨_, (vldRun c o).2, vxLoad_issues h hc lsRanges vldRun hb hr, hissued, hctl, hidx, hpad, hrel, ?_, hflags, vldRun_flags c o⟩
    exact lanesAre_congr (fun l hl => by simp [hl, vldLane_fst]) hlanes
  case vldb =>
    obtain ⟨hissued, hctl, hidx, hpad, hrel, hlanes, hflags⟩ := State.load_effect hq (lsRel o) (lsByteRanges o) (lsV o)
      (fun l => if c.maskBit (lsMk o) l then (c.padByte (byteAt o l)).toNat else c.lane (lsV o) l) 0#12
    exact ⟨_, vxLoad_issues h hc lsByteRanges vldbRun hb hr, hissued, hctl, hidx, hpad, hrel, hlanes, hflags.trans BitVec.or_zero⟩
  case vst =>
    obtain ⟨hissued, hctl, hv, hflags, hidx, hbytes⟩ := State.store_effect hq (vstCells c o rnd).1 (vstDraws o)
      (if lsPk o then 512 else 256) (convFlags (vstCells c o rnd).2)
    refine ⟨_, vxStore_issues h hc lsRanges (fun d rs c o => vstRun (fun j => d.vxRnd n c (lsRnd o) j) rs c o) hb hw, hissued, hctl, hv,
      hflags, hidx, hbytes, fun hf hp hs k hk hm => padRead_eq_of_bytes fun i hi => ?_⟩
    exact (hbytes _).trans (cellByte_vstCells c o rnd hf hp hs hk hm hi)
  case vstb =>
    obtain ⟨hissued, hctl, hv, hflags, hidx, hbytes⟩ := State.store_effect hq (vstbCells c o) false 0 0#12
    refine ⟨_, vxStore_issues h hc lsByteRanges (fun _ => vstbRun) hb hw, ?_⟩
    rw [vstbRun_eq]
    refine ⟨hissued, hctl, hv, hidx, hflags.trans BitVec.or_zero, fun l hl hm hs => ?_, fun a ha => ?_⟩
    · refine (hbytes _).trans (cellByte_elts c _ (byteAt o) _ (i := 0) hl hm (by simp) fun j hlj hj => ?_)
      exact .inl (byteAt_later hlj hj hs)
    · refine (hbytes a).trans (cellByte_elts_other c _ (byteAt o) _ fun l hl hm => ?_)
      exact (Nat.lt_or_gt_of_ne (ha l hl hm)).symm

end Sys2Proof.Machine
end

section
/-! SUPPORT. What the entries of the layer schedule table do: the pin ledger and the migration queue, the reads of lines into the comb,
the opening of a window; and the proof of O28. -/

namespace Sys2Proof.Machine
open Sys2Proof Sys2Proof.Machine.Claims

/-! ## The tier map under updates -/

@[simp] theorem Dev.setTm_tm_self (d : Dev) (page : Nat) (e : TmEntry) : (d.setTm page e).tm page = e := by
  simp [Dev.setTm, Dev.tm]

theorem Dev.setTm_tm_ne (d : Dev) {page k : Nat} (e : TmEntry) (h : k ≠ page) : (d.setTm page e).tm k = d.tm k := by
  simp [Dev.setTm, Dev.tm, Store.get_set_ne _ _ _ h]

@[simp] theorem Dev.setTm_ctx (d : Dev) (page : Nat) (e : TmEntry) (c : Nat) : (d.setTm page e).ctx c = d.ctx c := rfl

@[simp] theorem Tiers.count_cnt (t : Tiers) (i : Nat) : Store.get 0#32 (t.count i).cnt i = Store.get 0#32 t.cnt i + 1#32 :=
  Store.get_set_self _ _ _ _

/-! ## The migration queue (R194, R202) -/

/-- Queueing a move changes the queue only. -/
theorem Dev.queueMove_parts (d : Dev) (m : Move) : ∃ q, d.queueMove m = d.modTiers (fun t => { t with queue := q }) := by
  unfold Dev.queueMove
  dsimp only
  split
  · exact ⟨d.tiers.queue, rfl⟩
  · split
    · exact ⟨m :: d.tiers.queue, rfl⟩
    · split
      · exact ⟨d.tiers.queue, rfl⟩
      · exact ⟨d.tiers.queue ++ [m], rfl⟩

/-- `t` is `d` but for the migration queue and the counters of the tiers. -/
structure Dev.SameButMoves (d t : Dev) : Prop where
  mem : t.mem = d.mem
  cores : t.cores = d.cores
  ctx : ∀ c, t.ctx c = d.ctx c
  tm : ∀ k, t.tm k = d.tm k

theorem Dev.SameButMoves.refl (d : Dev) : d.SameButMoves d := ⟨rfl, rfl, fun _ => rfl, fun _ => rfl⟩

theorem Dev.queueMove_same (d : Dev) (m : Move) : d.SameButMoves (d.queueMove m) := by
  obtain ⟨q, h⟩ := d.queueMove_parts m
  rw [h]
  exact ⟨rfl, rfl, fun _ => rfl, fun _ => rfl⟩

theorem Dev.count_same (d : Dev) (i : Nat) : d.SameButMoves (d.modTiers (·.count i)) :=
  ⟨rfl, rfl, fun _ => rfl, fun _ => rfl⟩

/-- A move that is no retirement goes to the end of the queue, when the page is mapped and its hint lets it move. -/
theorem Dev.queueMove_queue (d : Dev) {m : Move} (hr : m.retire = false) (hv : (d.tm m.page).valid = true)
    (h3 : (d.tm m.page).hint ≠ 3) (h4 : (d.tm m.page).hint ≠ 4) : (d.queueMove m).tiers.queue = d.tiers.queue ++ [m] := by
  simp [Dev.queueMove, hr, hv, h3, h4]

/-! ## The pin ledger (R196, R204, R205) -/

/-- Context c's ledger is `ps`, and the page has `k` pins. -/
def Dev.setPins (d : Dev) (c page : Nat) (ps : List Nat) (k : Nat) : Dev :=
  (d.modCtx c (fun x => { x with pins := ps })).setTm page { d.tm page with pin := k }

section
variable (d : Dev) (c page : Nat) (ps : List Nat) (k : Nat)

@[simp] theorem Dev.setPins_queue : (d.setPins c page ps k).tiers.queue = d.tiers.queue := rfl

@[simp] theorem Dev.setPins_ctx : (d.setPins c page ps k).ctx c = { d.ctx c with pins := ps } := by simp [Dev.setPins]

@[simp] theorem Dev.setPins_tm_self : (d.setPins c page ps k).tm page = { d.tm page with pin := k } := by simp [Dev.setPins]

theorem Dev.setPins_tm_ne {i : Nat} (h : i ≠ page) : (d.setPins c page ps k).tm i = d.tm i := Dev.setTm_tm_ne _ _ h

end

section
variable {d : Dev} {c page : Nat}

/-- A page that the ledger does not hold and has room for is pinned; the move is queued unless the page lies there already. -/
theorem Dev.promotePage_pins (tgt : Nat) (hp : page ∉ (d.ctx c).pins) (hl : (d.ctx c).pins.length < 4096) :
    d.promotePage c tgt page =
      let d' := d.setPins c page ((d.ctx c).pins ++ [page]) ((d.tm page).pin + 1)
      if (d.tm page).dev = tgt ∧ (d.tm page).mst = 0 then d' else d'.queueMove { page := page, dev := tgt, ctx := some c } := by
  simp [Dev.promotePage, hp, Nat.not_le.2 hl]
  rfl

/-- A page that the ledger holds keeps its pins. -/
theorem Dev.promotePage_held (tgt : Nat) (hp : page ∈ (d.ctx c).pins) : d.promotePage c tgt page =
    if (d.tm page).dev = tgt ∧ (d.tm page).mst = 0 then d else d.queueMove { page := page, dev := tgt, ctx := some c } := by
  simp [Dev.promotePage, hp]

/-- A page that finds the ledger full only counts in PRNOV. -/
theorem Dev.promotePage_full (tgt : Nat) (hp : page ∉ (d.ctx c).pins) (hl : 4096 ≤ (d.ctx c).pins.length) :
    d.promotePage c tgt page = d.modTiers (·.count 18) := by
  simp [Dev.promotePage, hp, hl]

/-- A page that the ledger holds, or for which it has no room, is neither pinned nor unpinned. -/
theorem Dev.promotePage_same (tgt : Nat) (h : page ∈ (d.ctx c).pins ∨ 4096 ≤ (d.ctx c).pins.length) :
    d.SameButMoves (d.promotePage c tgt page) := by
  by_cases hp : page ∈ (d.ctx c).pins
  · rw [Dev.promotePage_held tgt hp]
    split
    · exact .refl d
    · exact d.queueMove_same _
  · rw [Dev.promotePage_full tgt hp (h.resolve_left hp)]
    exact d.count_same 18

/-- A page that the ledger holds is unpinned, and its move down is queued unless other pins are left. -/
theorem Dev.demotePage_unpins (hp : page ∈ (d.ctx c).pins) : d.demotePage c page =
    let d' := d.setPins c page ((d.ctx c).pins.erase page) ((d.tm page).pin - 1)
    if (d.tm page).pin ≤ 1 then d'.queueMove { page := page, dev := 4, ctx := some c } else d'.modTiers (·.count 19) := by
  simp [Dev.demotePage, hp]
  rfl

end

theorem Dev.promotePage_same_setPins {d : Dev} {c page : Nat} (tgt : Nat) (hp : page ∉ (d.ctx c).pins)
    (hl : (d.ctx c).pins.length < 4096) :
    (d.setPins c page ((d.ctx c).pins ++ [page]) ((d.tm page).pin + 1)).SameButMoves (d.promotePage c tgt page) := by
  rw [Dev.promotePage_pins tgt hp hl]
  dsimp only
  split
  · exact .refl _
  · exact Dev.queueMove_same _ _

theorem Dev.demotePage_same_setPins {d : Dev} {c page : Nat} (hp : page ∈ (d.ctx c).pins) :
    (d.setPins c page ((d.ctx c).pins.erase page) ((d.tm page).pin - 1)).SameButMoves (d.demotePage c page) := by
  rw [Dev.demotePage_unpins hp]
  dsimp only
  split
  · exact Dev.queueMove_same _ _
  · exact Dev.count_same _ 19

/-! ## The head of the due entries (R198) -/

theorem Dev.dueHead_of_duePage {d : Dev} {c act : Nat} {e : List Nat} {rest : List (List Nat)} (h : duePage d c act e rest) :
    d.dueHead c act = some e := by
  obtain ⟨_, hres, hdue, hact⟩ := h
  simp only [Dev.dueHead, hres, hdue, hact, beq_self_eq_true, if_true]

theorem due_of_duePage {d : Dev} {c act : Nat} {e : List Nat} {rest : List (List Nat)} (h : duePage d c act e rest) :
    (d.ctx c).due = e :: rest := by
  obtain ⟨_, _, hdue, _⟩ := h
  exact hdue

theorem lt_of_duePage {d : Dev} {c act : Nat} {e : List Nat} {rest : List (List Nat)} (h : duePage d c act e rest) : c < nCtxs := by
  obtain ⟨hc, _⟩ := h
  exact hc

/-- The head entry of context c is done. -/
def Dev.entryDone (d : Dev) (c : Nat) : Dev := d.modCtx c (fun x => { x with due := x.due.drop 1 })

theorem Dev.dueStep_zero (d : Dev) (c : Nat) (e : List Nat) : d.dueStep c e 0 = d.entryDone c := by
  simp [Dev.dueStep, Dev.entryDone]

section
variable (d : Dev) (c : Nat)

@[simp] theorem Dev.entryDone_core (n : Nat) : (d.entryDone c).core n = d.core n := rfl
@[simp] theorem Dev.entryDone_tiers : (d.entryDone c).tiers = d.tiers := rfl
@[simp] theorem Dev.entryDone_due : ((d.entryDone c).ctx c).due = (d.ctx c).due.drop 1 := by simp [Dev.entryDone]
@[simp] theorem Dev.entryDone_pins : ((d.entryDone c).ctx c).pins = (d.ctx c).pins := by simp [Dev.entryDone]

end

/-- A step that at most queues moves and counts leaves the ledger and the tier map of its entry alone. -/
theorem Dev.SameButMoves.entryDone {d t : Dev} {c : Nat} {e : List Nat} {rest : List (List Nat)} (h : d.SameButMoves t)
    (hdue : (d.ctx c).due = e :: rest) : (t.entryDone c).mem = d.mem ∧ (t.entryDone c).cores = d.cores ∧
      ((t.entryDone c).ctx c).due = rest ∧ ((t.entryDone c).ctx c).pins = (d.ctx c).pins ∧ ∀ k, (t.entryDone c).tm k = d.tm k := by
  refine ⟨h.mem, h.cores, ?_, ?_, h.tm⟩
  · rw [Dev.entryDone_due, h.ctx, hdue]
    rfl
  · rw [Dev.entryDone_pins, h.ctx]

/-- One that also sets the pins changes them in the ledger and in the page's own entry. -/
theorem Dev.SameButMoves.entryDone_setPins {d t : Dev} {c page k : Nat} {ps e : List Nat} {rest : List (List Nat)}
    (h : (d.setPins c page ps k).SameButMoves t) (hdue : (d.ctx c).due = e :: rest) :
    (t.entryDone c).mem = d.mem ∧ (t.entryDone c).cores = d.cores ∧ ((t.entryDone c).ctx c).due = rest ∧
      ((t.entryDone c).ctx c).pins = ps ∧ (t.entryDone c).tm page = { d.tm page with pin := k } ∧
      ∀ i, i ≠ page → (t.entryDone c).tm i = d.tm i := by
  obtain ⟨hmem, hcores, hrest, hpins, htm⟩ := h.entryDone (c := c) (by rw [Dev.setPins_ctx]; exact hdue)
  refine ⟨hmem, hcores, hrest, ?_, ?_, fun i hi => ?_⟩
  · rw [hpins, Dev.setPins_ctx]
  · rw [htm, Dev.setPins_tm_self]
  · rw [htm, Dev.setPins_tm_ne _ _ _ _ _ hi]

/-- An entry of one page, with space in the queue, is done in one step. -/
theorem Dev.runPages_one {d : Dev} {c act : Nat} {e : List Nat} {rest : List (List Nat)} (f : Dev → Nat → Dev)
    (h : duePage d c act e rest) (h1 : entCount e = 1) (hs : d.moveSpace = true) :
    d.runPages c act f = (f d (entPage e)).entryDone c := by
  simp [Dev.runPages, Dev.dueHead_of_duePage h, h1, pagesWhile, hs, Dev.dueStep_zero]

section
variable {s : State} {c : Nat} {e : List Nat} {rest : List (List Nat)}

theorem exec_promote_one (h : duePage s.dev c 1 e rest) (h1 : entCount e = 1) (hs : s.dev.moveSpace = true) :
    exec (.promote c) s =
      .next { s with dev := (s.dev.promotePage c (bits (e.getD 1 0) 9 8) (entPage e)).entryDone c } := by
  change execPromote c s = _
  simp [execPromote, State.onUnit_eq, lt_of_duePage h, Dev.dueHead_of_duePage h, Dev.runPages_one _ h h1 hs]

theorem exec_demote_one (h : duePage s.dev c 2 e rest) (h1 : entCount e = 1) (hs : s.dev.moveSpace = true) :
    exec (.demote c) s = .next { s with dev := (s.dev.demotePage c (entPage e)).entryDone c } := by
  change execDemote c s = _
  simp [execDemote, State.onUnit_eq, lt_of_duePage h, Dev.runPages_one _ h h1 hs]

theorem exec_combw_due (h : duePage s.dev c 4 e rest) : exec (.combw c) s =
    let x := combLines c (1024 * entCount e - e.getD 4 0) (1024 * entPage e + e.getD 4 0) s.dev
    .next { s with dev := x.2.modCtx c (fun k => { k with due :=
      (if x.1 = 0 then [] else [e.take 4 ++ [1024 * entCount e - x.1]]) ++ k.due.drop 1 }) } := by
  change execCombw c s = _
  simp [execCombw, State.onUnit_eq, lt_of_duePage h, Dev.dueHead_of_duePage h]

theorem exec_openw_due (h : duePage s.dev c 3 e rest) : exec (.openw c) s =
    .next { s with dev := (s.dev.openWindow (bits (e.getD 1 0) 23 15) (bits (e.getD 1 0) 14 10)
      ((List.range 8).map (fun w => wordAt (s.dev.imgSec (s.dev.partOfCtx c) 0x08 c 0) (32 * entPage e + 4 * w))) none
      0xFFFFFFFF).entryDone c } := by
  change execOpenw c s = _
  simp [execOpenw, State.onUnit_eq, lt_of_duePage h, Dev.dueHead_of_duePage h, Dev.dueStep_zero]

end

/-! ## Reads of lines into the comb (R208, R211) -/

/-- The comb serves the line, or its fill is asked for. -/
def Dev.served (d : Dev) (line : Nat) : Prop :=
  d.combHit line = true ∨ d.tiers.fills.contains ((d.combPlace line).1, line) = true

/-- What reads for context c keep: memory, cores and due entries stay, every page stays in its device, and no line leaves the comb or
the miss registers. -/
structure Dev.CombReads (c : Nat) (d t : Dev) : Prop where
  mem : t.mem = d.mem
  cores : t.cores = d.cores
  due : (t.ctx c).due = (d.ctx c).due
  mode : t.brd.pcfgMode = d.brd.pcfgMode
  dev : ∀ p, (t.tm p).dev = (d.tm p).dev
  has : ∀ line, d.combHas line = true → t.combHas line = true
  fills : ∀ f ∈ d.tiers.fills, f ∈ t.tiers.fills

section
variable {c : Nat} {d t u : Dev}

/-- What changes outside the tiers is no concern of the comb. -/
theorem Dev.CombReads.of_tiers (hmem : t.mem = d.mem) (hcores : t.cores = d.cores) (hdue : (t.ctx c).due = (d.ctx c).due)
    (hmode : t.brd.pcfgMode = d.brd.pcfgMode) (htiers : t.tiers = d.tiers) : Dev.CombReads c d t where
  mem := hmem
  cores := hcores
  due := hdue
  mode := hmode
  dev p := by rw [Dev.tm, htiers, Dev.tm]
  has line h := by
    unfold Dev.combHas Dev.combKey Dev.combPlace at h ⊢
    rwa [htiers, hmode]
  fills f h := by rwa [htiers]

theorem Dev.CombReads.refl (c : Nat) (d : Dev) : Dev.CombReads c d d := .of_tiers rfl rfl rfl rfl rfl

theorem Dev.CombReads.trans (h : Dev.CombReads c d t) (k : Dev.CombReads c t u) : Dev.CombReads c d u where
  mem := k.mem.trans h.mem
  cores := k.cores.trans h.cores
  due := k.due.trans h.due
  mode := k.mode.trans h.mode
  dev p := (k.dev p).trans (h.dev p)
  has line hl := k.has line (h.has line hl)
  fills f hf := k.fills f (h.fills f hf)

theorem Dev.CombReads.combHit (h : Dev.CombReads c d t) {line : Nat} (hl : d.combHit line = true) : t.combHit line = true := by
  unfold Dev.combHit Dev.residentLine at hl ⊢
  rw [h.dev, Bool.or_eq_true]
  exact (Bool.or_eq_true _ _ ▸ hl).imp_right (h.has line)

theorem Dev.CombReads.combPlace (h : Dev.CombReads c d t) (line : Nat) : t.combPlace line = d.combPlace line := by
  unfold Dev.combPlace
  rw [h.mode]

/-- What is served stays served. -/
theorem Dev.CombReads.served (h : Dev.CombReads c d t) {line : Nat} (hl : d.served line) : t.served line := by
  refine hl.imp h.combHit fun hf => ?_
  rw [h.combPlace]
  exact List.contains_iff_mem.2 (h.fills _ (List.contains_iff_mem.1 hf))

end

/-- A line of the set becomes its most recent one, and no line leaves the comb. -/
theorem Tiers.useLine_hit {t : Tiers} {k line : Nat} (ways choice : Nat) (h : (Store.get [] t.comb k).contains line = true) :
    t.useLine k ways line choice =
      { t with comb := Store.set [] t.comb k (line :: (Store.get [] t.comb k).filter (· != line)) } := by
  simp only [Tiers.useLine, h, if_true]

theorem contains_set_front {m : Store (List Nat)} {k line : Nat} (h : (Store.get [] m k).contains line = true) {i x : Nat}
    (hx : (Store.get [] m i).contains x = true) :
    (Store.get [] (Store.set [] m k (line :: (Store.get [] m k).filter (· != line))) i).contains x = true := by
  by_cases hi : i = k
  · subst hi
    rw [Store.get_set_self]
    by_cases hl : x = line
    · simp [hl]
    · simpa [hl] using hx
  · rwa [Store.get_set_ne _ _ _ hi]

theorem Dev.combAlloc_reads (c : Nat) {d : Dev} {line : Nat} (h : d.combHas line = true) :
    Dev.CombReads c d (d.combAlloc line) := by
  have halloc : d.combAlloc line = { d with freeIx := d.freeIx + 1, tiers := { d.tiers with
      comb := Store.set [] d.tiers.comb (d.combKey line)
        (line :: (Store.get [] d.tiers.comb (d.combKey line)).filter (· != line)) } } := by
    rw [← Tiers.useLine_hit (d.cacheWays (d.combKey line / 1024)) (Config.freeChoice d.freeIx 16) h]
    rfl
  rw [halloc]
  exact { mem := rfl, cores := rfl, due := rfl, mode := rfl, dev := fun _ => rfl, fills := fun _ hf => hf
          has := fun x hx => contains_set_front h hx }

theorem Dev.combUse_reads (c : Nat) {d : Dev} {line : Nat} (h : d.combHit line = true) :
    Dev.CombReads c d (d.combUse line) := by
  have hcount : Dev.CombReads c d
      { d with tiers := { d.tiers with combCnt := bump d.tiers.combCnt (4 * d.combSlice line) 1 } } :=
    { mem := rfl, cores := rfl, due := rfl, mode := rfl, dev := fun _ => rfl, fills := fun _ hf => hf, has := fun _ hx => hx }
  unfold Dev.combUse
  dsimp only
  split
  · exact hcount
  · next hr => exact hcount.trans (Dev.combAlloc_reads c ((Bool.or_eq_true _ _ ▸ h).resolve_left hr))

theorem Dev.touch_reads (c : Nat) (d : Dev) (a : Nat) : Dev.CombReads c d (d.touch a) := by
  unfold Dev.touch
  dsimp only
  split
  · refine { mem := rfl, cores := rfl, due := rfl, mode := rfl, fills := fun _ hf => hf, has := fun _ hx => hx, dev := fun p => ?_ }
    by_cases hp : p = a / pageBytes
    · rw [hp, Dev.setTm_tm_self]
    · rw [Dev.setTm_tm_ne _ _ hp]
  · exact .refl c d

theorem Dev.wakeDev_reads (c : Nat) (d : Dev) (dev : Nat) : Dev.CombReads c d (d.wakeDev dev) := by
  unfold Dev.wakeDev
  repeat' split
  all_goals exact .of_tiers rfl rfl rfl rfl rfl

theorem Dev.acct_reads (c : Nat) (d : Dev) (f : Account → Account) : Dev.CombReads c d (d.acct c f) :=
  .of_tiers rfl rfl (by simp [Dev.acct]) rfl rfl

theorem Dev.countDev_reads (c : Nat) (d : Dev) (dev n : Nat) (write : Bool) : Dev.CombReads c d (d.countDev c dev n write) := by
  unfold Dev.countDev
  dsimp only
  split
  · exact (d.wakeDev_reads c dev).trans (Dev.acct_reads c _ _)
  · split
    · exact (d.wakeDev_reads c dev).trans (Dev.acct_reads c _ _)
    · exact d.wakeDev_reads c dev

theorem Dev.countMem_reads (c : Nat) (d : Dev) (a n : Nat) (write : Bool) : Dev.CombReads c d (d.countMem c a n write) :=
  (d.touch_reads c a).trans (Dev.countDev_reads c _ _ _ _)

theorem Dev.meter_reads (c : Nat) {d t : Dev} {a n : Nat} (h : d.meter a n = some t) : Dev.CombReads c d t := by
  unfold Dev.meter Dev.takeTokens at h
  dsimp only at h
  split at h
  · split at h
    · cases h
    · cases h
      repeat' split
      all_goals exact .of_tiers rfl rfl rfl rfl rfl
  · cases h
    exact .refl c d

/-- The fill of a line is asked for from its slice: `f` is the pair of the two. -/
def Dev.askFill (d : Dev) (f : Nat × Nat) : Dev :=
  { d with tiers := { d.tiers with fills := d.tiers.fills ++ [f], combCnt := bump d.tiers.combCnt (4 * f.1 + 1) 1 } }

theorem Dev.askFill_reads (c : Nat) (d : Dev) (f : Nat × Nat) : Dev.CombReads c d (d.askFill f) :=
  { mem := rfl, cores := rfl, due := rfl, mode := rfl, dev := fun _ => rfl, has := fun _ hx => hx
    fills := fun _ hf => List.mem_append_left _ hf }

/-- A miss keeps what reads keep, and where it finds a register the fill is asked for. -/
theorem Dev.combMiss_reads (c line : Nat) (d : Dev) : Dev.CombReads c d (d.combMiss c line).2 ∧
    ((d.combMiss c line).1 = true → (d.combMiss c line).2.served line) := by
  unfold Dev.combMiss
  dsimp only
  split
  · next hf => exact ⟨.refl c d, fun _ => .inr hf⟩
  · split
    · exact ⟨.refl c d, nofun⟩
    · split
      · exact ⟨.refl c d, nofun⟩
      · next t ht =>
        have hfill := (Dev.meter_reads c ht).trans (t.askFill_reads c ((d.combPlace line).1, line))
        have hcount := Dev.countMem_reads c (t.askFill ((d.combPlace line).1, line)) (512 * line) 512 false
        refine ⟨hfill.trans hcount, fun _ => hcount.served (.inr ?_)⟩
        rw [hfill.combPlace]
        simp [Dev.askFill]

/-- One line: what reads keep, and where the read is not held up the line is served; a line that the comb holds is never held up. -/
theorem Dev.combLine_reads (c line : Nat) (d : Dev) : Dev.CombReads c d (d.combLine c line).2.2 ∧
    ((d.combLine c line).2.1 = true → (d.combLine c line).2.2.served line) ∧
    (d.combHit line = true → (d.combLine c line).2.1 = true) := by
  unfold Dev.combLine
  split
  · next hl =>
    have h := (Dev.combUse_reads c hl).trans (Dev.touch_reads c _ (512 * line))
    exact ⟨h, fun _ => .inl (h.combHit hl), fun _ => rfl⟩
  · next hl =>
    obtain ⟨h, hs⟩ := d.combMiss_reads c line
    exact ⟨h, hs, fun hh => absurd hh hl⟩

/-- A run of n lines: all but the lines left are served, and none is left where the comb holds them all. -/
theorem combLines_reads (c n line : Nat) (d : Dev) : Dev.CombReads c d (combLines c n line d).2 ∧ (combLines c n line d).1 ≤ n ∧
    (∀ j, j < n - (combLines c n line d).1 → (combLines c n line d).2.served (line + j)) ∧
    ((∀ j, j < n → d.combHit (line + j) = true) → (combLines c n line d).1 = 0) := by
  induction n generalizing line d with
  | zero => exact ⟨.refl c d, le_rfl, fun j hj => absurd hj (Nat.not_lt_zero j), fun _ => rfl⟩
  | succ n ih =>
    obtain ⟨hline, hserved, hhit⟩ := d.combLine_reads c line
    unfold combLines
    dsimp only
    split
    · next hgo =>
      obtain ⟨hrest, hle, hmore, hall⟩ := ih (line + 1) (d.combLine c line).2.2
      refine ⟨hline.trans hrest, by omega, fun j hj => ?_, fun h => hall fun j hj => ?_⟩
      · cases j with
        | zero => exact hrest.served (hserved hgo)
        | succ j => exact Nat.succ_add_eq_add_succ line j ▸ hmore j (by omega)
      · exact hline.combHit (Nat.succ_add_eq_add_succ line j ▸ h (j + 1) (by omega))
    · next hgo => exact ⟨hline, le_rfl, fun j hj => by omega, fun h => absurd (hhit (h 0 (by omega))) hgo⟩

/-! ## Opening a window (R177) -/

theorem StreamUnit.closeWindow_of_nil {su : StreamUnit} (h : su.win = []) (i : Nat) : su.closeWindow i = su := by
  simp [StreamUnit.closeWindow, h]

/-- Core n has closed what window i was, and opened w there. -/
def Dev.withWindow (d : Dev) (n i : Nat) (w : Window) : Dev :=
  (d.modCore n (fun c => { c with progress := true, su := c.su.closeWindow i })).modCore n
    (fun c => { c with su := { c.su with win := Store.set none c.su.win i (some w) } })

section
variable (d : Dev) (n i : Nat) (w : Window)

@[simp] theorem Dev.withWindow_ctx (c : Nat) : (d.withWindow n i w).ctx c = d.ctx c := rfl

@[simp] theorem Dev.withWindow_win : Store.get none ((d.withWindow n i w).core n).su.win i = some w := by simp [Dev.withWindow]

theorem Dev.withWindow_core_ne {m : Nat} (h : m ≠ n) : (d.withWindow n i w).core m = d.core m := by
  rw [Dev.withWindow, Dev.modCore_core_ne _ _ h, Dev.modCore_core_ne _ _ h]

end

/-- On a core without windows, an image without a version that no check of R177 refuses opens at its own base. -/
theorem Dev.openWindow_opens {d : Dev} {n : Nat} {img : List Nat} {r : RingDecl} (i : Nat) (owner : Option (Nat × Nat)) (pc : Nat)
    (hw : (d.core n).su.win = []) (hr : d.ringOf n (winRing img) = some r) (hp : r.pcls = 3) (hres : winReserved img = false)
    (hc : winChunks img ≠ 0) (hv : winVreq img = false)
    (hin : d.uniOutside (d.partOf n) [((winExtent img r.slotBytes).1,
      ((winExtent img r.slotBytes).2 - (winExtent img r.slotBytes).1).toNat)] = none) :
    d.openWindow n i img owner pc =
      d.withWindow n i { img := img, base := winBase img, owner := owner, pc := pc, ctx := d.ctxOf n } := by
  have hlive : (d.core n).su.live = [] := by simp [StreamUnit.live, hw]
  have hring (f : Core → Core) : ((d.modCore n f).ringOf n (winRing img)).filter (fun r => r.pcls == 3) = some r := by
    change (d.ringOf n (winRing img)).filter _ = _
    simp [hr, hp]
  have hinside (f : Core → Core) : (d.modCore n f).uniOutside ((d.modCore n f).partOf n) [((winExtent img r.slotBytes).1,
      ((winExtent img r.slotBytes).2 - (winExtent img r.slotBytes).1).toNat)] = none := hin
  simp only [Dev.openWindow, hring, hinside, Dev.modCore_core_self, StreamUnit.closeWindow_of_nil hw, hlive, hres, hc, hv, List.any_nil,
    decide_false, Bool.or_false, Bool.false_and, Bool.false_eq_true, if_false]
  rfl

/-! ## The four actions -/

/-- Settles O28: the ledger's rules for PROMOTE and DEMOTE, the run of lines for COMBW (which keeps its place with the rest by the
choice of notes/assumptions/161), and the opened window for OPENW. -/
theorem scheduleEntriesAct : Obligations.ScheduleEntriesAct := by
  unfold Obligations.ScheduleEntriesAct
  intro s c page e rest hpage
  subst hpage
  refine ⟨fun h h1 hp hl hs hv => ?pins, fun h h1 hs hp => ?keeps, fun h h1 hp hs hv h3 h4 hpin => ?unpins, fun h => ?lines,
    fun h => ?opens⟩
  case pins =>
    have hm : entPage e ∉ (s.dev.ctx c).pins := by simpa using hp
    obtain ⟨hmem, hcores, hdue, hpins, hpage, hother⟩ :=
      (Dev.promotePage_same_setPins (bits (e.getD 1 0) 9 8) hm hl).entryDone_setPins (due_of_duePage h)
    refine ⟨_, exec_promote_one h h1 hs, hmem, hcores, hdue, hpins, hpage, hother, fun h3 h4 hne => ?_, fun hd hmst => ?_⟩
    · rw [Dev.promotePage_pins _ hm hl, if_neg (by omega), Dev.entryDone_tiers, Dev.queueMove_queue] <;> simp [hv, h3, h4]
    · rw [Dev.promotePage_pins _ hm hl, if_pos ⟨hd, hmst⟩]
      rfl
  case keeps =>
    obtain ⟨hmem, hcores, hdue, hpins, htm⟩ :=
      (Dev.promotePage_same (bits (e.getD 1 0) 9 8) (hp.imp_left List.contains_iff_mem.1)).entryDone (due_of_duePage h)
    refine ⟨_, exec_promote_one h h1 hs, hmem, hcores, hdue, hpins, htm, fun hm => ?_⟩
    have hfull : 4096 ≤ (s.dev.ctx c).pins.length := hp.resolve_left (by rw [hm]; nofun)
    rw [Dev.promotePage_full _ (by simpa using hm) hfull]
    exact ⟨rfl, Tiers.count_cnt _ 18⟩
  case unpins =>
    have hm : entPage e ∈ (s.dev.ctx c).pins := List.contains_iff_mem.1 hp
    obtain ⟨hmem, hcores, hdue, hpins, hpage, hother⟩ := (Dev.demotePage_same_setPins hm).entryDone_setPins (due_of_duePage h)
    refine ⟨_, exec_demote_one h h1 hs, hmem, hcores, hdue, hpins, hpage, hother, fun hlast => ?_, fun hmore => ?_⟩
    · rw [Dev.demotePage_unpins hm, if_pos (by omega), Dev.entryDone_tiers, Dev.queueMove_queue] <;> simp [hv, h3, h4]
    · rw [Dev.demotePage_unpins hm, if_neg (by omega)]
      exact ⟨rfl, Tiers.count_cnt _ 19⟩
  case lines =>
    dsimp only
    have hexec := exec_combw_due h
    obtain ⟨hreads, hle, hserved, hall⟩ :=
      combLines_reads c (1024 * entCount e - e.getD 4 0) (1024 * entPage e + e.getD 4 0) s.dev
    generalize combLines c (1024 * entCount e - e.getD 4 0) (1024 * entPage e + e.getD 4 0) s.dev = x at *
    have hpos : 0 < entCount e := Nat.succ_pos _
    refine ⟨_, 1024 * entCount e - x.1, hexec, hreads.mem, hreads.cores, Nat.sub_le _ _, ?_, fun j hj hk => ?_, fun hhit => ?_⟩
    · rw [Dev.modCtx_ctx_self, hreads.due, due_of_duePage h]
      split
      · next h0 => simp [h0]
      · next h0 =>
        rw [if_neg (by omega)]
        rfl
    · obtain ⟨i, rfl⟩ := Nat.exists_eq_add_of_le hj
      rw [← Nat.add_assoc]
      exact hserved i (by omega)
    · rw [hall fun j hj => Nat.add_assoc _ _ j ▸ hhit _ (Nat.le_add_right _ _) (by omega), Nat.sub_zero]
  case opens =>
    intro n img hctx hres hc hv hring hw
    obtain ⟨r, hr, hp, hin⟩ := hring
    refine ⟨_, exec_openw_due h, ?_⟩
    rw [Dev.openWindow_opens _ _ _ hw hr hp hres hc hv hin]
    refine ⟨rfl, ?_, ?_, fun m hm => Dev.withWindow_core_ne _ _ _ _ hm⟩
    · rw [Dev.entryDone_due, Dev.withWindow_ctx, due_of_duePage h]
      rfl
    · rw [Dev.entryDone_core, Dev.withWindow_win]
      rfl

end Sys2Proof.Machine
end

section
/-! SUPPORT. What frames, events, ports and cages leave of the board and the black box, which the end of a boot reads. -/

namespace Sys2Proof.Machine
open Sys2Proof

/-! ## Folds -/

/-- What a fold keeps at every element of its list, it keeps. -/
theorem foldl_keeps_of_mem {α β γ : Type} (g : β → γ) {f : β → α → β} {l : List α} (h : ∀ a ∈ l, ∀ x, g (f x a) = g x) (x : β) :
    g (l.foldl f x) = g x := by
  induction l generalizing x with
  | nil => rfl
  | cons a l ih =>
    rw [List.foldl_cons, ih fun b hb => h b (List.mem_cons_of_mem a hb), h a List.mem_cons_self]

theorem foldl_keeps {α β γ : Type} (g : β → γ) {f : β → α → β} (h : ∀ x a, g (f x a) = g x) (l : List α) (x : β) :
    g (l.foldl f x) = g x := foldl_keeps_of_mem g (fun a _ x => h x a) x

/-- What every step of a fold raises by one at most, the fold raises by its length at most. -/
theorem foldl_le_add_length {α β : Type} (g : β → Nat) {f : β → α → β} (h : ∀ x a, g (f x a) ≤ g x + 1) (l : List α) (x : β) :
    g (l.foldl f x) ≤ g x + l.length := by
  induction l generalizing x with
  | nil => exact le_rfl
  | cons a l ih =>
    have := ih (f x a)
    have := h x a
    simp only [List.foldl_cons, List.length_cons]
    omega

/-! ## Frames that leave: the board and the black box stay (R277, R297, R323) -/

section
variable (d : Dev)

theorem Dev.serveOwn_brd_bb (f e : Nat) : (d.serveOwn f e).brd = d.brd ∧ (d.serveOwn f e).bb = d.bb := by
  induction f generalizing d with
  | zero => exact ⟨rfl, rfl⟩
  | succ f ih =>
    unfold Dev.serveOwn
    dsimp only
    split
    · exact ⟨rfl, rfl⟩
    · split
      · exact ih _
      · exact ⟨rfl, rfl⟩

@[simp] theorem Dev.serveOwn_brd (f e : Nat) : (d.serveOwn f e).brd = d.brd := (d.serveOwn_brd_bb f e).1
@[simp] theorem Dev.serveOwn_bb (f e : Nat) : (d.serveOwn f e).bb = d.bb := (d.serveOwn_brd_bb f e).2

@[simp] theorem Dev.leave_brd (e : Nat) (t : Tx) : (d.leave e t).brd = d.brd := rfl
@[simp] theorem Dev.leave_bb (e : Nat) (t : Tx) : (d.leave e t).bb = d.bb := rfl

@[simp] theorem Dev.sendOn_brd (e prio bytes : Nat) (t : Tx) : (d.sendOn e prio bytes t).brd = d.brd := by
  unfold Dev.sendOn
  split <;> simp

@[simp] theorem Dev.sendOn_bb (e prio bytes : Nat) (t : Tx) : (d.sendOn e prio bytes t).bb = d.bb := by
  unfold Dev.sendOn
  split <;> simp

@[simp] theorem Dev.sendCmd_brd (dst : Nat) (t : Tx) : (d.sendCmd dst t).brd = d.brd := by
  unfold Dev.sendCmd
  split <;> rfl

@[simp] theorem Dev.sendCmd_bb (dst : Nat) (t : Tx) : (d.sendCmd dst t).bb = d.bb := by
  unfold Dev.sendCmd
  split <;> rfl

@[simp] theorem Dev.emit_brd (ch : Nat) (r : Raise) : (d.emit ch r).brd = d.brd := by
  unfold Dev.emit
  dsimp only
  split <;> simp [Dev.sendEvent]

@[simp] theorem Dev.emit_bb (ch : Nat) (r : Raise) : (d.emit ch r).bb = d.bb := by
  unfold Dev.emit
  dsimp only
  split <;> simp [Dev.sendEvent]

@[simp] theorem Dev.joinGroup_brd (net group : Nat) : (d.joinGroup net group).brd = d.brd := by
  unfold Dev.joinGroup
  dsimp only
  split
  · exact Dev.sendOn_brd _ _ _ _ _
  · rfl

@[simp] theorem Dev.joinGroup_bb (net group : Nat) : (d.joinGroup net group).bb = d.bb := by
  unfold Dev.joinGroup
  dsimp only
  split
  · exact Dev.sendOn_bb _ _ _ _ _
  · rfl

@[simp] theorem Dev.firstAnnounce_brd (nv : NonVol) : (d.firstAnnounce nv).brd = d.brd :=
  foldl_keeps Dev.brd (fun d e => by split <;> simp [Dev.sayHello]) _ d

@[simp] theorem Dev.firstAnnounce_bb (nv : NonVol) : (d.firstAnnounce nv).bb = d.bb :=
  foldl_keeps Dev.bb (fun d e => by split <;> simp [Dev.sayHello]) _ d

/-! ## Records and events (R422, R423) -/

@[simp] theorem Dev.raise_brd (r : Raise) : (d.raise r).brd = d.brd := by
  unfold Dev.raise
  split
  · rfl
  · split
    · exact Dev.emit_brd _ _ _
    · rfl

/-- While the record queue has room, a raised code's record is its new last entry. -/
theorem Dev.raise_bb_of_room (r : Raise) (h : d.bb.queue.length < bbDepth) : (d.raise r).bb = (d.record r).bb := by
  rw [Dev.raise, if_neg (Nat.not_le.2 h)]
  split
  · exact Dev.emit_bb _ _ _
  · rfl

theorem Dev.raise_bb_of_full (r : Raise) (h : bbDepth ≤ d.bb.queue.length) :
    (d.raise r).bb = { d.bb with waiting := d.bb.waiting ++ [r] } := by
  rw [Dev.raise, if_pos h]

theorem Dev.raise_queue_length (r : Raise) : (d.raise r).bb.queue.length ≤ d.bb.queue.length + 1 := by
  by_cases h : d.bb.queue.length < bbDepth
  · simp [d.raise_bb_of_room r h, Dev.record]
  · simp [d.raise_bb_of_full r (Nat.not_lt.1 h)]

@[simp] theorem Dev.event_brd (code part ctx lcore : Nat) (detail : List Nat) : (d.event code part ctx lcore detail).brd = d.brd :=
  d.raise_brd _

@[simp] theorem Dev.recordOnly_brd (code part : Nat) (detail : List Nat) : (d.recordOnly code part detail).brd = d.brd :=
  d.raise_brd _

/-- A record's identification word carries the code in its upper half (Table 17-6). -/
theorem idWord_code (r : Raise) : idWord r / 2 ^ 16 = r.code := by
  unfold idWord
  omega

/-- An event of a module whose record queue has room is recorded. -/
theorem Dev.event_recorded (code part ctx lcore : Nat) (detail : List Nat) (h : d.bb.queue.length < bbDepth) :
    ∃ r ∈ (d.event code part ctx lcore detail).bb.queue, r.words.getD 5 0 / 2 ^ 16 = code := by
  rw [Dev.event, d.raise_bb_of_room _ h]
  exact ⟨_, List.mem_append_right _ (List.mem_singleton_self _), idWord_code _⟩

/-- An event is recorded, or its unit holds it. -/
theorem Dev.event_recorded_or_held (code part ctx lcore : Nat) (detail : List Nat) :
    (∃ r ∈ (d.event code part ctx lcore detail).bb.queue, r.words.getD 5 0 / 2 ^ 16 = code) ∨
      ∃ r ∈ (d.event code part ctx lcore detail).bb.waiting, r.code = code := by
  by_cases h : d.bb.queue.length < bbDepth
  · exact .inl (d.event_recorded code part ctx lcore detail h)
  · refine .inr ?_
    rw [Dev.event, d.raise_bb_of_full _ (Nat.not_lt.1 h)]
    exact ⟨_, List.mem_append_right _ (List.mem_singleton_self _), rfl⟩

/-! ## P6: ports and cages leave the module's state, its slot and the cause of Degraded (R273, R438) -/

/-- What the end of a boot reads of the board: the state, the flash slot and the cause of Degraded. -/
def Dev.standing (d : Dev) : ModState × Nat × Nat := (d.brd.state, d.brd.slot, d.brd.dcause)

@[simp] theorem Dev.portUp_brd (k : Nat) : (d.portUp k).brd = d.brd := by
  unfold Dev.portUp
  dsimp only
  split
  · rfl
  · simp

theorem Dev.portUp_queue_length (k : Nat) : (d.portUp k).bb.queue.length ≤ d.bb.queue.length + 1 := by
  unfold Dev.portUp
  dsimp only
  split
  · exact Nat.le_succ _
  · rw [Dev.serveOwn_bb]
    exact Dev.raise_queue_length _ _

/-- P6 as its three parts: the cages, the links, the groups. -/
def Dev.cagesOn (d : Dev) (ports : List Nat) : Dev :=
  ports.foldl (fun d k => (d.modCage k (fun c => { c with cen := true, oc := false, ocCut := false })).powerCage k) d

theorem Dev.cagesOn_standing (ports : List Nat) : (d.cagesOn ports).standing = d.standing := by
  refine foldl_keeps Dev.standing (fun _ _ => ?_) ports d
  rfl

theorem Dev.cagesOn_bb (ports : List Nat) : (d.cagesOn ports).bb = d.bb := by
  refine foldl_keeps Dev.bb (fun _ _ => ?_) ports d
  rfl

theorem Dev.phase6_eq (env : BringUpEnv) (ports : List Nat) : d.phase6 env ports =
    (((ports.filter env.linksUp.contains).foldl Dev.portUp (d.cagesOn ports)).joinGroup 0 (announceGroup 0)).joinGroup
      1 (announceGroup 1) := rfl

@[simp] theorem Dev.phase6_standing (env : BringUpEnv) (ports : List Nat) : (d.phase6 env ports).standing = d.standing := by
  have hlinks : ((ports.filter env.linksUp.contains).foldl Dev.portUp (d.cagesOn ports)).standing = d.standing :=
    (foldl_keeps Dev.standing (fun d k => by simp [Dev.standing]) _ _).trans (d.cagesOn_standing ports)
  simpa [Dev.phase6_eq, Dev.standing] using hlinks

theorem Dev.phase6_queue_length (env : BringUpEnv) (ports : List Nat) :
    (d.phase6 env ports).bb.queue.length ≤ d.bb.queue.length + ports.length := by
  have hlinks := foldl_le_add_length (fun d : Dev => d.bb.queue.length) Dev.portUp_queue_length
    (ports.filter env.linksUp.contains) (d.cagesOn ports)
  have hports := List.length_filter_le env.linksUp.contains ports
  rw [Dev.cagesOn_bb] at hlinks
  simp only [Dev.phase6_eq, Dev.joinGroup_bb]
  omega

end

end Sys2Proof.Machine
end

section
/-! SUPPORT. The boot: what its phases keep of the rollback counter, and what it ends in (R370 to R372, R405). -/

namespace Sys2Proof.Machine
open Sys2Proof Sys2Proof.Machine.Claims

/-! ## What the phases of a boot keep: the rollback counter with the manifests, and the slot (R374, R375, R379, R405) -/

/-- What R405 compares: the fuses of the rollback counter, and the manifests that hold the slots' rollback values. -/
def NonVol.rollback (nv : NonVol) : Nat × Store (List Byte) := (nv.rbc, nv.slotManifest)

theorem NonVol.rbc_eq_of_rollback {a b : NonVol} (h : a.rollback = b.rollback) : a.rbc = b.rbc := (Prod.mk.inj h).1

theorem NonVol.rbv_eq_of_rollback {a b : NonVol} (h : a.rollback = b.rollback) (slot : Nat) : a.rbv slot = b.rbv slot := by
  unfold NonVol.rbv
  rw [(Prod.mk.inj h).2]

theorem slotOk_eq_of_rollback {a b : NonVol} (h : a.rollback = b.rollback) (env : BringUpEnv) (slot : Nat) :
    slotOk a env slot = slotOk b env slot := by
  unfold slotOk
  rw [NonVol.rbc_eq_of_rollback h, NonVol.rbv_eq_of_rollback h]

/-- A slot whose Burfa verifies holds a rollback value from the counter's to 255. -/
theorem rbv_of_slotOk {nv : NonVol} {env : BringUpEnv} {slot : Nat} (h : slotOk nv env slot = true) :
    nv.rbc ≤ nv.rbv slot ∧ nv.rbv slot ≤ 255 := by
  simp only [slotOk, Bool.and_eq_true, decide_eq_true_eq] at h
  obtain ⟨⟨-, hlow⟩, hhigh⟩ := h
  exact ⟨hlow, hhigh⟩

/-- What a phase of the boot keeps of the module. -/
def Mod.anchor (x : Mod) : (Nat × Store (List Byte)) × Nat := (x.1.rollback, x.2.brd.slot)

@[simp] theorem Dev.cause_slot (d : Dev) (c unit : Nat) : (d.cause c unit).brd.slot = d.brd.slot := by
  change (if d.brd.dcause = 0 then _ else _ : Board).slot = _
  split <;> rfl

@[simp] theorem Dev.bist_brd (d : Dev) (cls unit row : Nat) : (d.bist cls unit row).brd = d.brd := d.recordOnly_brd _ _ _

@[simp] theorem bistList_brd (cls n : Nat) (l : List Nat) (d : Dev) : (bistList cls n l d).brd = d.brd :=
  foldl_keeps Dev.brd (fun d k => d.bist_brd cls k 0) _ d

@[simp] theorem Dev.phase2_slot (d : Dev) (env : BringUpEnv) : (d.phase2 env).brd.slot = d.brd.slot := by
  unfold Dev.phase2
  rw [foldl_keeps (fun d : Dev => d.brd.slot) (fun d k => d.cause_slot 4 k),
    foldl_keeps (fun d : Dev => d.brd.slot) (fun d e => by split <;> rfl)]
  simp

@[simp] theorem phase3_anchor (x : Mod) (env : BringUpEnv) : Mod.anchor (phase3 x env) = Mod.anchor x := by
  refine Prod.ext rfl (foldl_keeps (fun d : Dev => d.brd.slot) (fun d f => ?_) _ x.2)
  split
  · exact Dev.cause_slot _ _ _
  · rfl

@[simp] theorem superRow_anchor (x : Mod) (r : Nat × Nat) : Mod.anchor (superRow x r) = Mod.anchor x := by
  unfold superRow
  dsimp only
  split <;> simp [Mod.anchor, NonVol.rollback, Dev.freshChoice]

@[simp] theorem deepRetire_anchor (n : Nat) (x : Mod) : Mod.anchor (deepRetire n x) = Mod.anchor x := by
  induction n generalizing x with
  | zero => rfl
  | succ n ih =>
    rw [deepRetire, ih]
    simp [Mod.anchor, NonVol.rollback, Dev.freshChoice]

theorem Mod.anchor_eq_of_slot {nv : NonVol} {d e : Dev} (h : d.brd.slot = e.brd.slot) :
    Mod.anchor (nv, d) = Mod.anchor (nv, e) := Prod.ext rfl h

theorem phase4_anchor (x : Mod) (env : BringUpEnv) : Mod.anchor (phase4 x env) = Mod.anchor x := by
  have hbad (cls : Nat) (l : List Nat) (d : Dev) :
      (l.foldl (fun d k => (d.bist cls k 0).cause cls k) d).brd.slot = d.brd.slot := by
    refine foldl_keeps (fun d : Dev => d.brd.slot) (fun d k => ?_) l d
    rw [Dev.cause_slot, Dev.bist_brd]
  have hrows (l : List (Nat × Nat)) (d : Dev) : (l.foldl (fun d r => d.bist 6 r.1 r.2) d).brd = d.brd := by
    refine foldl_keeps Dev.brd (fun d r => ?_) l d
    rw [Dev.bist_brd]
  unfold phase4
  dsimp only
  refine (Mod.anchor_eq_of_slot rfl).trans ((deepRetire_anchor _ _).trans ?_)
  refine (Mod.anchor_eq_of_slot ((congrArg Board.slot (hrows _ _)).trans (hbad 5 _ _))).trans ?_
  exact (foldl_keeps Mod.anchor superRow_anchor _ _).trans (Mod.anchor_eq_of_slot (hbad 3 _ _))

@[simp] theorem failPosition_anchor (x : Mod) (phys : Nat) : Mod.anchor (failPosition x phys) = Mod.anchor x := rfl

@[simp] theorem substitute_anchor (x : Mod) (n : Nat) : Mod.anchor (substitute x n).2 = Mod.anchor x := by
  unfold substitute Mod.anchor
  dsimp only
  split <;> rfl

theorem waggleFailed_anchor (x : Mod) (phys : Nat) : Mod.anchor (waggleFailed x phys) = Mod.anchor x := by
  unfold waggleFailed
  dsimp only
  have hfail : Mod.anchor (failPosition (x.1, x.2.raise { code := 0x0C05, chan := none, lcore := (x.2.logicalAt phys).getD 0x1FF }) phys) =
      Mod.anchor x :=
    (failPosition_anchor _ _).trans (Mod.anchor_eq_of_slot (congrArg Board.slot (Dev.raise_brd _ _)))
  split
  · exact hfail
  · next n _ =>
    have hsub := (substitute_anchor _ n).trans hfail
    split
    · exact Prod.ext (congrArg Prod.fst hsub :) ((Dev.cause_slot _ _ _).trans (congrArg Prod.snd hsub :))
    · exact hsub

theorem phase5_anchor (x : Mod) (env : BringUpEnv) (slot : Nat) : Mod.anchor (phase5 x env slot) = Mod.anchor x :=
  foldl_keeps Mod.anchor waggleFailed_anchor _ x

/-! ## What a boot ends in (R370 to R372, R405) -/

@[simp] theorem bootStart_rollback (x : Mod) (fromP0 : Bool) : (bootStart x fromP0).1.rollback = x.1.rollback := rfl

theorem Dev.minimal_state (d : Dev) (env : BringUpEnv) : (d.minimal env).brd.state = .minimal := by
  unfold Dev.minimal
  dsimp only
  split
  · exact congrArg Prod.fst (Dev.phase6_standing _ env _)
  · refine foldl_keeps (fun d : Dev => d.brd.state) (fun _ _ => ?_) (List.range' 4 4) _
    rfl

/-- The device as P6 leaves it: Ready, or Degraded where a cause was noted. -/
def Dev.bootDone (d : Dev) (env : BringUpEnv) : Dev := d.modBrd (fun b => { b with
  phase := 7, state := if b.dcause = 0 then .ready else .degraded,
  pt := (env.phaseUs.take 7).zipIdx.foldl (fun m y => Store.set 0 m y.2 y.1) [] })

section
variable (x : Mod) (env : BringUpEnv) (slot : Nat)

@[simp] theorem Dev.bootDone_slot (d : Dev) : (d.bootDone env).brd.slot = d.brd.slot := rfl
@[simp] theorem Dev.bootDone_state (d : Dev) : (d.bootDone env).brd.state = if d.brd.dcause = 0 then .ready else .degraded := rfl
@[simp] theorem Dev.bootDone_bb (d : Dev) : (d.bootDone env).bb = d.bb := rfl

theorem bootEnd_degraded (h : x.2.brd.dcause ≠ 0) : bootEnd x env slot =
    (x.1, ((x.2.bootDone env).event 0x0C03 0 0 0x1FF [x.2.brd.dunit * 16 + x.2.brd.dcause]).firstAnnounce x.1) :=
  if_pos (bne_iff_ne.2 h)

theorem bootEnd_ready (h : x.2.brd.dcause = 0) : bootEnd x env slot =
    if x.1.rbc < x.1.rbv slot then ({ x.1 with rbc := x.1.rbv slot },
      ((x.2.bootDone env).event 0x0D05 0 0 0x1FF []).firstAnnounce { x.1 with rbc := x.1.rbv slot })
    else (x.1, (x.2.bootDone env).firstAnnounce x.1) :=
  if_neg fun h' => bne_iff_ne.1 h' h

@[simp] theorem bootEnd_slot : (bootEnd x env slot).2.brd.slot = x.2.brd.slot := by
  by_cases h : x.2.brd.dcause = 0
  · rw [bootEnd_ready x env slot h]
    split <;> simp
  · simp [bootEnd_degraded x env slot h]

theorem bootEnd_state : (bootEnd x env slot).2.brd.state = if x.2.brd.dcause = 0 then .ready else .degraded := by
  by_cases h : x.2.brd.dcause = 0
  · rw [bootEnd_ready x env slot h]
    split <;> simp [h]
  · simp [bootEnd_degraded x env slot h]

/-- Only Ready takes up the counter, and never lowers it. -/
theorem bootEnd_nv : (bootEnd x env slot).1 =
    if x.2.brd.dcause = 0 then { x.1 with rbc := max x.1.rbc (x.1.rbv slot) } else x.1 := by
  split
  · next h =>
    rw [bootEnd_ready x env slot h]
    split
    · next hlt => rw [max_eq_right hlt.le]
    · next hge => rw [max_eq_left (Nat.not_lt.1 hge)]
  · next h => rw [bootEnd_degraded x env slot h]

/-- Fuses are burnt with 0x0D05. -/
theorem bootEnd_bb (h : x.2.brd.dcause = 0) (hlt : x.1.rbc < x.1.rbv slot) :
    (bootEnd x env slot).2.bb = ((x.2.bootDone env).event 0x0D05 0 0 0x1FF []).bb := by
  rw [bootEnd_ready x env slot h, if_pos hlt, Dev.firstAnnounce_bb]

end

/-- A boot ends in Minimal boot with the counter as it was, or at the end of P6 with a slot that verified. -/
theorem boot_cases (x : Mod) (fromP0 quick : Bool) (env : BringUpEnv) :
    ((boot x fromP0 quick env).2.brd.state = .minimal ∧ (boot x fromP0 quick env).1.rollback = x.1.rollback) ∨
    ∃ slot z, (slot = x.1.bootSlot ∨ slot = 1 - x.1.bootSlot) ∧ slotOk x.1 env slot = true ∧
      z.1.rollback = x.1.rollback ∧ z.2.brd.slot = slot ∧ boot x fromP0 quick env = bootEnd z env slot := by
  have hok := slotOk_eq_of_rollback (bootStart_rollback x fromP0) env
  generalize hx : bootStart x fromP0 = w at hok
  have hw : w.1.rollback = x.1.rollback := hx ▸ rfl
  have hb : w.1.bootSlot = x.1.bootSlot := hx ▸ rfl
  unfold boot
  dsimp only
  rw [hx]
  split
  · exact .inl ⟨Dev.minimal_state _ _, hw⟩
  · split
    · exact .inl ⟨Dev.minimal_state _ _, hw⟩
    · next hslots =>
      split
      · exact .inl ⟨Dev.minimal_state _ _, hw⟩
      · have hslot : slotOk x.1 env (if slotOk w.1 env w.1.bootSlot = true then w.1.bootSlot else 1 - w.1.bootSlot) = true := by
          rw [← hok]
          split
          · assumption
          · next hfirst => simpa [hfirst] using hslots
        have hwhich := ite_eq_or_eq (slotOk w.1 env w.1.bootSlot = true) w.1.bootSlot (1 - w.1.bootSlot)
        generalize (if slotOk w.1 env w.1.bootSlot = true then w.1.bootSlot else 1 - w.1.bootSlot) = slot at hslot hwhich ⊢
        generalize (if slotOk w.1 env w.1.bootSlot = true then w.2 else w.2.recordOnly 0x0C06 0 [3]) = d
        have hanchor : Mod.anchor (phase4 (phase3 (w.1, (d.bootKeys w.1 slot).phase2 env) env) env) = (x.1.rollback, slot) := by
          rw [phase4_anchor, phase3_anchor]
          exact Prod.ext hw (Dev.phase2_slot _ env)
        generalize phase4 (phase3 (w.1, (d.bootKeys w.1 slot).phase2 env) env) env = z at hanchor ⊢
        split
        · exact .inl ⟨Dev.minimal_state _ _, congrArg Prod.fst hanchor⟩
        · have hend := (phase5_anchor z env slot).trans hanchor
          generalize phase5 z env slot = y at hend ⊢
          refine .inr ⟨slot, (y.1, y.2.phase6 env (List.range nPorts)), hb ▸ hwhich, hslot, congrArg Prod.fst hend, ?_, rfl⟩
          exact (congrArg (·.2.1) (Dev.phase6_standing _ env _)).trans (congrArg Prod.snd hend)

/-! ## The counter after a boot -/

/-- A boot takes the counter to its old value or to a verified slot's, which is from the old value to 255. -/
theorem boot_rbc (x : Mod) (fromP0 quick : Bool) (env : BringUpEnv) :
    x.1.rbc ≤ (boot x fromP0 quick env).1.rbc ∧ (boot x fromP0 quick env).1.rbc ≤ max x.1.rbc 255 := by
  obtain ⟨-, hrb⟩ | ⟨slot, z, -, hok, hrb, -, hy⟩ := boot_cases x fromP0 quick env
  · simp [NonVol.rbc_eq_of_rollback hrb]
  · have hrbv := rbv_of_slotOk hok
    have hrbc := NonVol.rbc_eq_of_rollback hrb
    have hsame := NonVol.rbv_eq_of_rollback hrb slot
    rw [hy, bootEnd_nv]
    split
    · dsimp only
      omega
    · omega

/-- A boot that ends Ready or Degraded runs from a slot whose rollback value is not below the counter; Ready has burnt the fuses up to
it, with 0x0D05 recorded or held. -/
theorem boot_up (x : Mod) (fromP0 quick : Bool) (env : BringUpEnv) : let y := boot x fromP0 quick env
    y.2.up = true → y.1.rbc ≤ y.1.rbv y.2.brd.slot ∧ (y.2.brd.state = .ready → y.1.rbc = y.1.rbv y.2.brd.slot ∧
      (x.1.rbc < y.1.rbc → (∃ r ∈ y.2.bb.queue, r.words.getD 5 0 / 2 ^ 16 = 0x0D05) ∨ ∃ r ∈ y.2.bb.waiting, r.code = 0x0D05)) := by
  intro y hup
  obtain ⟨hmin, -⟩ | ⟨slot, z, -, hok, hrb, hslot, hy⟩ := boot_cases x fromP0 quick env
  · simp [y, Dev.up, hmin] at hup
  · have hrbc := NonVol.rbc_eq_of_rollback hrb
    have hle : z.1.rbc ≤ z.1.rbv slot := by
      rw [hrbc, NonVol.rbv_eq_of_rollback hrb]
      exact (rbv_of_slotOk hok).1
    rw [show y = bootEnd z env slot from hy, bootEnd_slot, bootEnd_state, bootEnd_nv, hslot, ← hrbc]
    by_cases hc : z.2.brd.dcause = 0
    · rw [if_pos hc, if_pos hc, max_eq_right hle]
      refine ⟨le_rfl, fun _ => ⟨rfl, fun hlt => ?_⟩⟩
      rw [bootEnd_bb z env slot hc hlt]
      exact Dev.event_recorded_or_held _ _ _ _ _ _
    · rw [if_neg hc, if_neg hc]
      exact ⟨hle, nofun⟩

/-- Where neither slot's Burfa verifies, the boot ends in Minimal boot and burns nothing. -/
theorem boot_of_no_slot (x : Mod) (fromP0 quick : Bool) (env : BringUpEnv) (h : slotOk x.1 env x.1.bootSlot = false)
    (h' : slotOk x.1 env (1 - x.1.bootSlot) = false) :
    (boot x fromP0 quick env).2.brd.state = .minimal ∧ (boot x fromP0 quick env).1.rbc = x.1.rbc := by
  obtain ⟨hmin, hrb⟩ | ⟨slot, z, rfl | rfl, hok, -, -, -⟩ := boot_cases x fromP0 quick env
  · exact ⟨hmin, NonVol.rbc_eq_of_rollback hrb⟩
  · exact absurd hok (Bool.eq_false_iff.1 h)
  · exact absurd hok (Bool.eq_false_iff.1 h')

/-! ## A clean boot -/

/-- What a boot has noted of failures: the cause of Degraded, and the black box. -/
def Dev.alarms (d : Dev) : Nat × BlackBox := (d.brd.dcause, d.bb)

section
variable {nv : NonVol} {env : BringUpEnv}

theorem bootStart_alarms (x : Mod) (fromP0 : Bool) :
    (bootStart x fromP0).2.brd.dcause = 0 ∧ (bootStart x fromP0).2.bb.queue.length ≤ 1 := by
  unfold bootStart
  dsimp only
  split
  · exact ⟨congrArg Board.dcause (Dev.recordOnly_brd _ _ _ _), Dev.raise_queue_length _ _⟩
  · exact ⟨rfl, Nat.zero_le 1⟩

theorem Dev.phase2_of_clean (hc : cleanBoot nv env) (d : Dev) : d.phase2 env = d := by
  obtain ⟨hfailed, hframes, hcomb, -, -, hports, -, -, -, hchip, -⟩ := hc
  simp [Dev.phase2, bistList, hfailed, hframes, hcomb, hports, hchip]

theorem phase3_alarms_of_clean (hc : cleanBoot nv env) {x : Mod} (hx : x.1.failed = nv.failed) :
    (phase3 x env).2.alarms = x.2.alarms := by
  obtain ⟨hfailed, hframes, -, -, -, -, -, -, -, -, -, -, -, hgood⟩ := hc
  refine foldl_keeps_of_mem Dev.alarms (fun f hf d => ?_) x.2
  have := hgood f (List.mem_range.1 hf)
  simp only [hfailed, hframes, NonVol.fail]
  rw [if_neg]
  · rfl
  · simpa [hx] using this

theorem phase4_alarms_of_clean (hc : cleanBoot nv env) (x : Mod) : (phase4 x env).2.alarms = x.2.alarms := by
  obtain ⟨-, -, -, hsuper, hdeep, -, hsuperRows, hdeepRows, hretired, -⟩ := hc
  simp [phase4, hsuper, hdeep, hsuperRows, hdeepRows, hretired, deepRetire, Dev.alarms, Dev.modBrd]

theorem phase5_alarms_of_clean (hc : cleanBoot nv env) (x : Mod) (slot : Nat) : (phase5 x env slot).2.alarms = x.2.alarms := by
  obtain ⟨-, -, -, -, -, -, -, -, -, -, -, hwaggle, -⟩ := hc
  simp [phase5, hwaggle, Dev.alarms, Dev.modBrd]

/-- A boot in which every test passes and the boot slot verifies comes to the end of P6 on that slot, with no cause of Degraded and
all but nine places of the record queue free. -/
theorem boot_of_clean {x : Mod} (hc : cleanBoot x.1 env) (fromP0 : Bool) :
    ∃ z : Mod, boot x fromP0 false env = bootEnd z env x.1.bootSlot ∧ z.1.rollback = x.1.rollback ∧ z.2.brd.dcause = 0 ∧
      z.2.bb.queue.length ≤ 9 := by
  obtain ⟨hcause, hqueue⟩ := bootStart_alarms x fromP0
  have hok := slotOk_eq_of_rollback (bootStart_rollback x fromP0) env x.1.bootSlot
  have hslot : (bootStart x fromP0).1.bootSlot = x.1.bootSlot := rfl
  have hfailed : (bootStart x fromP0).1.failed = x.1.failed := rfl
  have hrb := bootStart_rollback x fromP0
  have ⟨_, _, _, _, _, _, _, _, _, hchip, hfw, _, hburfa, _⟩ := hc
  unfold boot
  dsimp only
  generalize bootStart x fromP0 = w at *
  rw [hslot, hok, hburfa, Dev.phase2_of_clean hc, hchip, hfw]
  let y : Mod := phase5 (phase4 (phase3 (w.1, w.2.bootKeys w.1 x.1.bootSlot) env) env) env x.1.bootSlot
  have hkeeps : Mod.anchor y = Mod.anchor (w.1, w.2.bootKeys w.1 x.1.bootSlot) :=
    (phase5_anchor _ env _).trans ((phase4_anchor _ env).trans (phase3_anchor _ env))
  have halarms : y.2.alarms = w.2.alarms :=
    (phase5_alarms_of_clean hc _ _).trans ((phase4_alarms_of_clean hc _).trans (phase3_alarms_of_clean hc hfailed))
  refine ⟨(y.1, y.2.phase6 env (List.range nPorts)), rfl, (congrArg (·.1) hkeeps).trans hrb, ?_, ?_⟩
  · exact (congrArg (·.2.2) (Dev.phase6_standing _ env _)).trans ((congrArg Prod.fst halarms).trans hcause)
  · have hlinks := y.2.phase6_queue_length env (List.range nPorts)
    rw [show y.2.bb = w.2.bb from congrArg Prod.snd halarms, List.length_range] at hlinks
    exact hlinks.trans (Nat.add_le_add_right hqueue nPorts)

/-- A clean boot from a slot above the counter ends Ready with the fuses burnt up to it and 0x0D05 in the record queue. -/
theorem boot_burns_of_clean {x : Mod} (hc : cleanBoot x.1 env) (hlt : x.1.rbc < x.1.rbv x.1.bootSlot) (fromP0 : Bool) :
    (boot x fromP0 false env).2.brd.state = .ready ∧ (boot x fromP0 false env).1.rbc = x.1.rbv x.1.bootSlot ∧
      ∃ r ∈ (boot x fromP0 false env).2.bb.queue, r.words.getD 5 0 / 2 ^ 16 = 0x0D05 := by
  obtain ⟨z, hz, hrb, hcause, hroom⟩ := boot_of_clean hc fromP0
  rw [← NonVol.rbc_eq_of_rollback hrb, ← NonVol.rbv_eq_of_rollback hrb] at hlt
  rw [hz, bootEnd_state, bootEnd_nv, bootEnd_bb z env _ hcause hlt, if_pos hcause, if_pos hcause, max_eq_right hlt.le,
    NonVol.rbv_eq_of_rollback hrb]
  exact ⟨rfl, rfl, Dev.event_recorded _ _ _ _ _ _ (hroom.trans_lt (by decide))⟩

end

/-- A module in Standby within its input range boots when ENABLE rises (R370, R432). -/
theorem exec_enableAssert_boots {s : State} {quick : Bool} {env : BringUpEnv} (hen : s.dev.brd.enable = false)
    (hsb : s.dev.brd.sb12 = true) (hst : s.dev.brd.state = .standby) (hov : s.dev.brd.ovHold = false)
    (hlow : 48000 ≤ s.dev.brd.vinMv) (hhigh : s.dev.brd.vinMv ≤ 58000) : ∃ d, exec (.enableAssert quick env) s =
      .next { s with nv := (boot (s.nv, d) true quick env).1, dev := (boot (s.nv, d) true quick env).2 } := by
  refine ⟨s.dev.modBrd (fun b => { b with enable := true }), ?_⟩
  change execEnableAssert quick env s = _
  have hnot : ¬ 59000 < s.dev.brd.vinMv := by omega
  simp [execEnableAssert, Dev.mayStart, Dev.modBrd, hen, hsb, hst, hov, hlow, hhigh, hnot]

end Sys2Proof.Machine
end

section
/-! SUPPORT. The rollback counter under every command: only a boot raises it; and the proof of O60. -/

namespace Sys2Proof.Machine
open Sys2Proof

/-! ## Outcomes -/

/-- The rollback counter of what an outcome goes on with: not below the old one, and at most 255 or the old one. -/
def RollbackRises (s : State) (o : Out) : Prop := ∀ t, o = .next t → s.nv.rbc ≤ t.nv.rbc ∧ t.nv.rbc ≤ max s.nv.rbc 255

section
variable {s : State}

theorem RollbackRises.of_same {t : State} (h : t.nv.rbc = s.nv.rbc) : RollbackRises s (.next t) := by
  rintro _ ⟨⟩
  rw [h]
  exact ⟨le_rfl, le_max_left _ _⟩

theorem RollbackRises.fault {f : Fault} : RollbackRises s (.fault f) := by
  intro t h
  cases h

theorem RollbackRises.onDev (f : Dev → Dev) : RollbackRises s (s.onDev f) := .of_same rfl

theorem RollbackRises.onUnit (b : Bool) (f : Dev → Dev) : RollbackRises s (s.onUnit b f) := by
  intro t h
  obtain ⟨-, -, hnv, -⟩ := State.onUnit_next h
  rw [hnv]
  exact ⟨le_rfl, le_max_left _ _⟩

theorem RollbackRises.onQueue {q : Nat} {r : Out} (h : RollbackRises s r) : RollbackRises s (onQueue s q r) := by
  unfold Machine.onQueue
  split
  · exact h
  · exact .fault

/-- A boot's outcome. -/
theorem RollbackRises.boot (d : Dev) (fromP0 quick : Bool) (env : BringUpEnv) (p : List Instr) :
    RollbackRises s (.next ⟨p, (boot (s.nv, d) fromP0 quick env).1, (boot (s.nv, d) fromP0 quick env).2⟩) := by
  rintro _ ⟨⟩
  exact boot_rbc (s.nv, d) fromP0 quick env

/-- The protocol's frame around a command: the counter is what the command itself leaves. -/
theorem RollbackRises.runOp (q op : Nat) (mine : Cmd → Bool) {f : Cmd → State → Option Ans × State}
    (h : ∀ c u, (f c u).2.nv.rbc = u.nv.rbc) : RollbackRises s (runOp s q op mine f) := by
  refine .onQueue ?_
  split
  · exact .of_same rfl
  · next c _ =>
    split
    · exact .of_same rfl
    · dsimp only
      split
      · exact .of_same rfl
      · split
        · exact .of_same rfl
        · have hf := h c { s with dev := { s.dev with qserved := q } }
          split
          all_goals
            next hans =>
            rw [hans] at hf
            exact .of_same hf

theorem RollbackRises.devOp (q op : Nat) (f : Cmd → Dev → Ans × Dev) : RollbackRises s (devOp s q op f) :=
  .runOp q op _ fun _ _ => rfl

end

/-! ## The resets of a partition (R353, R377, R384) -/

theorem spareCore_rollback (p : Nat) (x : Mod) (y : Nat × Nat) : (spareCore p x y).1.rollback = x.1.rollback := by
  have hsub : (substitute x y.1).2.1.rollback = x.1.rollback := congrArg Prod.fst (substitute_anchor x y.1)
  unfold spareCore
  dsimp only
  split <;> exact hsub

theorem sparing_rollback (x : Mod) (p : Nat) (bist : List Nat) : (sparing x p bist).1.rollback = x.1.rollback := by
  unfold sparing
  dsimp only
  rw [foldl_keeps (fun x : Mod => x.1.rollback) (spareCore_rollback p),
    foldl_keeps (fun x : Mod => x.1.rollback) fun x k => congrArg Prod.fst (failPosition_anchor x k)]

theorem partitionReset_rollback (x : Mod) (p : Nat) (bist : List Nat) : (partitionReset x p bist).1.rollback = x.1.rollback := by
  unfold partitionReset
  extract_lets _ _ _ _ _ _ y _
  have hy : y.1.rollback = x.1.rollback := sparing_rollback _ p bist
  clear_value y
  exact hy

theorem partitionReset_rbc (x : Mod) (p : Nat) (bist : List Nat) : (partitionReset x p bist).1.rbc = x.1.rbc :=
  NonVol.rbc_eq_of_rollback (partitionReset_rollback x p bist)

theorem faultReset_rbc (x : Mod) (p : Nat) (bist : List Nat) : (faultReset x p bist).1.rbc = x.1.rbc := by
  unfold faultReset
  dsimp only
  split <;> exact partitionReset_rbc x p bist

theorem resetPart_rbc (p : Nat) (bist : List Nat) (s : State) : (resetPart p bist s).2.nv.rbc = s.nv.rbc := by
  unfold resetPart
  split
  · rfl
  · exact partitionReset_rbc _ p bist

theorem resetCores_rbc (cores : List Nat) (p : Nat) (frame : Bool) (bist : List Nat) (s : State) :
    (resetCores cores p frame bist s).2.nv.rbc = s.nv.rbc := by
  unfold resetCores
  dsimp only
  split
  · split
    · rfl
    · rw [partitionReset_rbc]
      split <;> rfl
  · dsimp only
    split <;> rfl

theorem discardStart_rbc (x : Mod) (p epoch revert : Nat) (bist : List Nat) : (discardStart x p epoch revert bist).1.rbc = x.1.rbc := by
  unfold discardStart
  dsimp only
  split
  · rfl
  · exact partitionReset_rbc x p bist

theorem discardStep_rbc (x : Mod) (p epoch : Nat) (bist : List Nat) : (discardStep x p epoch bist).2.1.rbc = x.1.rbc := by
  unfold discardStep
  dsimp only
  split <;> rw [discardStart_rbc]

/-! ## The commands that write fuses or flash -/

section
variable (s : State)

theorem execRowRepair_rises (super bank row : Nat) : RollbackRises s (execRowRepair super bank row s) := by
  unfold execRowRepair
  split
  · exact .fault
  · dsimp only
    split
    · exact .of_same rfl
    · split <;> exact .of_same rfl

theorem execPageRetirement_rises (super ppn : Nat) : RollbackRises s (execPageRetirement super ppn s) := by
  have hnv : (if s.nv.retired.contains (super, ppn) then s.nv else { s.nv with retired := s.nv.retired ++ [(super, ppn)] }).rbc =
      s.nv.rbc := by split <;> rfl
  unfold execPageRetirement
  split
  · exact .fault
  · split
    · exact .of_same rfl
    · dsimp only
      split
      · split
        · exact .of_same hnv
        · split
          · exact .of_same rfl
          · exact .of_same hnv
      · split <;> exact .of_same hnv

theorem execPlace_rises (q : Nat) : RollbackRises s (execPlace q s) := by
  refine .runOp q 0x32 _ fun c u => ?_
  dsimp only
  split
  · rfl
  · split <;> rfl

theorem execKeyrel_rises (q : Nat) : RollbackRises s (execKeyrel q s) := by
  refine .runOp q 0xA1 _ fun c u => ?_
  dsimp only
  split
  · rfl
  · split <;> rfl

theorem execOperatorEnrolment_rises (q : Nat) : RollbackRises s (execOperatorEnrolment q s) := by
  refine .runOp q 0xA1 _ fun c u => ?_
  dsimp only
  split <;> rfl

theorem execFwupdate_rises (q : Nat) : RollbackRises s (execFwupdate q s) := by
  refine .runOp q 0xA2 _ fun c u => ?_
  dsimp only
  split <;> rfl

theorem execUpdateStaged_rises : RollbackRises s (execUpdateStaged s) := by
  unfold execUpdateStaged
  split
  · exact .of_same rfl
  · dsimp only
    split
    · exact .of_same rfl
    · split <;> exact .of_same rfl

theorem execCoreReset_rises (q : Nat) (bist : List Nat) : RollbackRises s (execCoreReset q bist s) :=
  .runOp q 0x90 _ fun _ u => resetCores_rbc _ _ false bist u

theorem execFrameReset_rises (q : Nat) (bist : List Nat) : RollbackRises s (execFrameReset q bist s) :=
  .runOp q 0x90 _ fun _ u => resetCores_rbc _ _ true bist u

theorem execPartitionReset_rises (part : Nat) (bist : List Nat) : RollbackRises s (execPartitionReset part bist s) := by
  unfold execPartitionReset
  split
  · exact .fault
  · split
    · exact .of_same (faultReset_rbc _ part bist)
    · dsimp only
      split
      · exact .of_same rfl
      · exact .runOp _ 0x90 _ fun _ u => resetPart_rbc part bist u

theorem execDiscard_rises (q : Nat) (bist : List Nat) : RollbackRises s (execDiscard q bist s) := by
  refine .runOp q 0x52 _ fun c u => ?_
  dsimp only
  split
  · rfl
  · split
    · rfl
    · split
      · rfl
      · split
        · rw [discardStep_rbc]
        · split
          · rfl
          · rw [discardStart_rbc]

theorem execModuleReset_rises (q : Nat) (env : BringUpEnv) : RollbackRises s (execModuleReset q env s) := by
  refine .onQueue ?_
  split
  · exact .of_same rfl
  · split
    · exact .of_same rfl
    · dsimp only
      split
      · exact .of_same rfl
      · split
        · exact .of_same rfl
        · exact .boot _ false false env _

theorem startUp_rises (d : Dev) (env : BringUpEnv) : RollbackRises s (startUp s d env) := by
  unfold startUp
  split
  · exact .boot d true false env _
  · exact .of_same rfl

theorem execEnableAssert_rises (quick : Bool) (env : BringUpEnv) : RollbackRises s (execEnableAssert quick env s) := by
  unfold execEnableAssert
  split
  · exact .of_same rfl
  · dsimp only
    split
    · exact .of_same rfl
    · split
      · exact .of_same rfl
      · exact .boot _ true quick env _

theorem execInputPowerReturn_rises (mv : Nat) (env : BringUpEnv) : RollbackRises s (execInputPowerReturn mv env s) := by
  unfold execInputPowerReturn
  split
  · exact .of_same rfl
  · exact startUp_rises s _ env

theorem execCenWrite_rises (cage : Nat) (value : Word32) : RollbackRises s (execCenWrite cage value s) := by
  unfold execCenWrite
  split
  · exact .fault
  · exact .of_same rfl

/-- Every command: the counter rises only in a boot. -/
theorem exec_rises (c : Instr) : RollbackRises s (exec c s) := by
  cases c <;> simp only [exec]
  case rowRepair super bank row => exact execRowRepair_rises s super bank row
  case pageRetirement super ppn => exact execPageRetirement_rises s super ppn
  case place q => exact execPlace_rises s q
  case keyrel q => exact execKeyrel_rises s q
  case operatorEnrolment q => exact execOperatorEnrolment_rises s q
  case fwupdate q => exact execFwupdate_rises s q
  case updateStaged => exact execUpdateStaged_rises s
  case coreReset q bist => exact execCoreReset_rises s q bist
  case frameReset q bist => exact execFrameReset_rises s q bist
  case partitionReset part bist => exact execPartitionReset_rises s part bist
  case discard q bist => exact execDiscard_rises s q bist
  case moduleReset q env => exact execModuleReset_rises s q env
  case enableAssert quick env => exact execEnableAssert_rises s quick env
  case inputPowerReturn mv env => exact execInputPowerReturn_rises s mv env
  case standbyRailPresent env => exact startUp_rises s _ env
  case cenWrite cage value => exact execCenWrite_rises s cage value
  case commandComplete q cseq => exact .onQueue (.of_same rfl)
  case ident | echo | pread | pwrite | pswap | qbind | qreset | memread | memwrite | lbegin | ldata | lcommit | unload | start | cap |
      stepparam | base | ptest | rebuild | replay | snapshot | bbread | attest | ctxset | acctread =>
    exact .devOp _ _ _
  case waggleChunk | ftcmt | ptcmt | pcfgModeWrite | parameterWrite => exact .of_same rfl
  case bucketRefill | migrationStart | tmloRead | bringUpTimeout | missingBitmapSend | reportKeyExpiry | thermalSample |
      deepPowerDown | blackBoxRecordProgrammed | powerLoss | enableDeassert | inputOvervoltage | inputLow | standbyRailLost |
      holdUpCharged =>
    exact .onDev _
  all_goals exact .onUnit _ _

end

theorem step_rises (s : State) : RollbackRises s (step s) := by
  unfold step
  split
  · exact .of_same rfl
  · exact exec_rises _ _

/-- Settles O60: the counter rises only in a boot, where P6 takes it up to the rollback value of a slot that the boot ROM verified
against it. -/
theorem rollbackCounterOnlyRises : Obligations.RollbackCounterOnlyRises := by
  unfold Obligations.RollbackCounterOnlyRises
  refine ⟨fun s t hs hstep => ?_, fun x fromP0 quick env hup => ?_, fun s env hen hsb hst hov hlow hhigh => ?_⟩
  · obtain ⟨hle, hmax⟩ := step_rises s t hstep
    exact ⟨hle, max_eq_right hs ▸ hmax⟩
  · obtain ⟨hle, hready⟩ := boot_up x fromP0 quick env hup
    exact ⟨hle, (boot_rbc x fromP0 quick env).1, hready⟩
  · obtain ⟨d, hboot⟩ := exec_enableAssert_boots (quick := false) (env := env) hen hsb hst hov hlow hhigh
    refine ⟨fun hc hlt => ?_, fun h h' => ?_⟩
    · obtain ⟨hready, hrbc, r, hr, hcode⟩ := boot_burns_of_clean (x := (s.nv, d)) hc hlt true
      have hslot : (boot (s.nv, d) true false env).1.rbc = s.nv.rbv s.nv.bootSlot := hrbc
      exact ⟨_, r, hboot, hready, hslot, hr, hcode⟩
    · obtain ⟨hmin, hrbc⟩ := boot_of_no_slot (s.nv, d) true false env h h'
      exact ⟨_, hboot, hmin, hrbc⟩

end Sys2Proof.Machine
end

section
/-! SUPPORT. Failed positions, retired pages and OPEN under every command: only boots, resets, retirements and enrolments write them,
and none takes anything back (R375, R400); the proof of O3. -/

namespace Sys2Proof.Machine
open Sys2Proof

/-! ## The order on what is non-volatile -/

/-- `b` has every failed position and retired page of `a`, and is not open where `a` was not. -/
structure NonVol.Grows (a b : NonVol) : Prop where
  failed : a.failed ⊆ b.failed
  retired : a.retired ⊆ b.retired
  opened : a.opened = false → b.opened = false

theorem NonVol.Grows.refl (a : NonVol) : a.Grows a := ⟨List.Subset.refl _, List.Subset.refl _, id⟩

theorem NonVol.Grows.trans {a b c : NonVol} (h : a.Grows b) (h' : b.Grows c) : a.Grows c :=
  ⟨List.Subset.trans h.failed h'.failed, List.Subset.trans h.retired h'.retired, h'.opened ∘ h.opened⟩

/-- Whatever else has changed, equal lists and an equal OPEN are no step back. -/
theorem NonVol.Grows.of_eq {a b : NonVol} (hf : b.failed = a.failed) (hr : b.retired = a.retired) (ho : b.opened = a.opened) :
    a.Grows b := ⟨hf ▸ List.Subset.refl _, hr ▸ List.Subset.refl _, fun h => ho.trans h⟩

theorem NonVol.Grows.retire (a : NonVol) (l : List (Nat × Nat)) : a.Grows { a with retired := a.retired ++ l } :=
  ⟨List.Subset.refl _, List.subset_append_left _ _, id⟩

theorem NonVol.fail_grows (a : NonVol) (l : List Nat) : a.Grows (a.fail l) :=
  ⟨List.subset_append_left _ _, List.Subset.refl _, id⟩

/-- A fold whose steps all grow grows. -/
theorem NonVol.Grows.foldl {α : Type} {f : Mod → α → Mod} (h : ∀ (x : Mod) (a : α), x.1.Grows (f x a).1) (l : List α) (x : Mod) :
    x.1.Grows (l.foldl f x).1 := by
  induction l generalizing x with
  | nil => exact .refl _
  | cons a l ih => exact (h x a).trans (ih (f x a))

/-! ## Positions and spares (R5, R375, R377) -/

theorem failPosition_grows (x : Mod) (k : Nat) : x.1.Grows (failPosition x k).1 := x.1.fail_grows [k]

theorem substitute_grows (x : Mod) (n : Nat) : x.1.Grows (substitute x n).2.1 := by
  unfold substitute
  dsimp only
  split
  · exact .refl _
  · exact .of_eq rfl rfl rfl

theorem spareCore_grows (p : Nat) (x : Mod) (y : Nat × Nat) : x.1.Grows (spareCore p x y).1 := by
  unfold spareCore
  dsimp only
  split <;> exact substitute_grows x y.1

theorem sparing_grows (x : Mod) (p : Nat) (bist : List Nat) : x.1.Grows (sparing x p bist).1 := by
  unfold sparing
  extract_lets d _ _ _ _ all lost d' d''
  exact (NonVol.Grows.foldl failPosition_grows all (x.1, d'')).trans (.foldl (spareCore_grows p) lost _)

/-! ## The boot's phases (R371, R374, R375, R379) -/

theorem bootStart_grows (x : Mod) (fromP0 : Bool) : x.1.Grows (bootStart x fromP0).1 := .of_eq rfl rfl rfl

theorem phase3_grows (x : Mod) (env : BringUpEnv) : x.1.Grows (phase3 x env).1 :=
  (x.1.fail_grows _).trans (.of_eq rfl rfl rfl)

theorem superRow_grows (x : Mod) (r : Nat × Nat) : x.1.Grows (superRow x r).1 := by
  unfold superRow
  dsimp only
  split
  · exact .of_eq rfl rfl rfl
  · exact .retire x.1 _

theorem deepRetire_grows (n : Nat) (x : Mod) : x.1.Grows (deepRetire n x).1 := by
  induction n generalizing x with
  | zero => exact .refl _
  | succ n ih =>
    rw [deepRetire]
    refine NonVol.Grows.trans ?_ (ih _)
    exact .retire x.1 _

theorem phase4_grows (x : Mod) (env : BringUpEnv) : x.1.Grows (phase4 x env).1 := by
  unfold phase4
  extract_lets _ d y d' d'' z
  exact (NonVol.Grows.foldl superRow_grows _ (x.1, d)).trans (deepRetire_grows _ (y.1, d''))

theorem waggleFailed_grows (x : Mod) (phys : Nat) : x.1.Grows (waggleFailed x phys).1 := by
  unfold waggleFailed
  extract_lets n y
  have hy : x.1.Grows y.1 := x.1.fail_grows [phys]
  clear_value n y
  split
  · exact hy
  · dsimp only
    split <;> exact hy.trans (substitute_grows y _)

theorem phase5_grows (x : Mod) (env : BringUpEnv) (slot : Nat) : x.1.Grows (phase5 x env slot).1 :=
  NonVol.Grows.foldl waggleFailed_grows _ x

theorem bootEnd_grows (x : Mod) (env : BringUpEnv) (slot : Nat) : x.1.Grows (bootEnd x env slot).1 := by
  unfold bootEnd
  dsimp only
  split
  · exact .refl _
  · split
    · exact .of_eq rfl rfl rfl
    · exact .refl _

theorem boot_grows (x : Mod) (fromP0 quick : Bool) (env : BringUpEnv) : x.1.Grows (boot x fromP0 quick env).1 := by
  have h := bootStart_grows x fromP0
  unfold boot
  dsimp only
  split
  · exact h
  · split
    · exact h
    · split
      · exact h
      · have htested (d : Dev) : x.1.Grows (phase4 (phase3 ((bootStart x fromP0).1, d) env) env).1 :=
          (h.trans (phase3_grows ((bootStart x fromP0).1, d) env)).trans (phase4_grows _ env)
        split
        · exact htested _
        · have hstored (d : Dev) (slot : Nat) := (htested d).trans (phase5_grows _ env slot)
          have hended (d e : Dev) (slot : Nat) := (hstored d slot).trans (bootEnd_grows ((phase5 _ env slot).1, e) env slot)
          exact hended _ _ _

/-! ## The resets of a partition (R353, R384) -/

theorem partitionReset_grows (x : Mod) (p : Nat) (bist : List Nat) : x.1.Grows (partitionReset x p bist).1 := by
  unfold partitionReset
  extract_lets _ _ _ _ _ _ y _
  have hy : x.1.Grows y.1 := sparing_grows (x.1, (Dev.wakeFrames _ p)) p bist
  clear_value y
  exact hy.trans (.of_eq rfl rfl rfl)

theorem faultReset_grows (x : Mod) (p : Nat) (bist : List Nat) : x.1.Grows (faultReset x p bist).1 := by
  unfold faultReset
  dsimp only
  split <;> exact partitionReset_grows x p bist

theorem resetPart_grows (p : Nat) (bist : List Nat) (s : State) : s.nv.Grows (resetPart p bist s).2.nv := by
  unfold resetPart
  split
  · exact .refl _
  · exact partitionReset_grows (s.nv, s.dev) p bist

theorem resetCores_grows (cores : List Nat) (p : Nat) (frame : Bool) (bist : List Nat) (s : State) :
    s.nv.Grows (resetCores cores p frame bist s).2.nv := by
  unfold resetCores
  extract_lets one
  have hone : s.nv.Grows (one s.nv) := by
    unfold one
    split <;> exact .of_eq rfl rfl rfl
  split
  · split
    · exact .refl _
    · exact hone.trans (partitionReset_grows (one s.nv, s.dev) p bist)
  · exact hone

theorem discardStart_grows (x : Mod) (p epoch revert : Nat) (bist : List Nat) : x.1.Grows (discardStart x p epoch revert bist).1 := by
  unfold discardStart
  dsimp only
  split
  · exact .refl _
  · exact partitionReset_grows x p bist

theorem discardStep_grows (x : Mod) (p epoch : Nat) (bist : List Nat) : x.1.Grows (discardStep x p epoch bist).2.1 := by
  have h := discardStart_grows x p epoch 0xFFFFFFFF bist
  unfold discardStep
  dsimp only
  split <;> exact h

/-! ## Outcomes -/

/-- What an outcome goes on with has taken nothing non-volatile back. -/
def NonVolGrows (s : State) (o : Out) : Prop := ∀ t, o = .next t → s.nv.Grows t.nv

section
variable {s : State}

theorem NonVolGrows.next {t : State} (h : s.nv.Grows t.nv) : NonVolGrows s (.next t) := by
  rintro _ ⟨⟩
  exact h

theorem NonVolGrows.same {t : State} (h : t.nv = s.nv) : NonVolGrows s (.next t) := .next (h ▸ .refl _)

theorem NonVolGrows.fault {f : Fault} : NonVolGrows s (.fault f) := by
  intro t h
  cases h

theorem NonVolGrows.onDev (f : Dev → Dev) : NonVolGrows s (s.onDev f) := .same rfl

theorem NonVolGrows.onUnit (b : Bool) (f : Dev → Dev) : NonVolGrows s (s.onUnit b f) := by
  intro t h
  obtain ⟨-, -, hnv, -⟩ := State.onUnit_next h
  rw [hnv]
  exact .refl _

theorem NonVolGrows.onQueue {q : Nat} {r : Out} (h : NonVolGrows s r) : NonVolGrows s (onQueue s q r) := by
  unfold Machine.onQueue
  split
  · exact h
  · exact .fault

/-- The protocol's frame around a command: what is non-volatile is what the command itself leaves. -/
theorem NonVolGrows.runOp (q op : Nat) (mine : Cmd → Bool) {f : Cmd → State → Option Ans × State}
    (h : ∀ (c : Cmd) (u : State), u.nv.Grows (f c u).2.nv) : NonVolGrows s (runOp s q op mine f) := by
  refine .onQueue ?_
  split
  · exact .same rfl
  · next c _ =>
    split
    · exact .same rfl
    · dsimp only
      split
      · exact .same rfl
      · split
        · exact .same rfl
        · have hf := h c { s with dev := { s.dev with qserved := q } }
          split
          all_goals
            next hans =>
            rw [hans] at hf
            exact .next hf

theorem NonVolGrows.devOp (q op : Nat) (f : Cmd → Dev → Ans × Dev) : NonVolGrows s (devOp s q op f) :=
  .runOp q op _ fun _ _ => .refl _

end

/-! ## The commands that write fuses or flash -/

section
variable (s : State)

theorem execRowRepair_nonVolGrows (super bank row : Nat) : NonVolGrows s (execRowRepair super bank row s) := by
  unfold execRowRepair
  split
  · exact .fault
  · dsimp only
    split
    · exact .same rfl
    · split
      · exact .same rfl
      · exact .next (.of_eq rfl rfl rfl)

theorem execPageRetirement_nonVolGrows (super ppn : Nat) : NonVolGrows s (execPageRetirement super ppn s) := by
  have hnv : s.nv.Grows (if s.nv.retired.contains (super, ppn) then s.nv
      else { s.nv with retired := s.nv.retired ++ [(super, ppn)] }) := by
    split
    · exact .refl _
    · exact .retire s.nv _
  unfold execPageRetirement
  split
  · exact .fault
  · split
    · exact .same rfl
    · dsimp only
      split
      · split
        · exact .next hnv
        · split
          · exact .same rfl
          · exact .next hnv
      · split <;> exact .next hnv

theorem execPlace_nonVolGrows (q : Nat) : NonVolGrows s (execPlace q s) := by
  refine .runOp q 0x32 _ fun c u => ?_
  dsimp only
  split
  · exact .refl _
  · split <;> exact .refl _

theorem execKeyrel_nonVolGrows (q : Nat) : NonVolGrows s (execKeyrel q s) := by
  refine .runOp q 0xA1 _ fun c u => ?_
  dsimp only
  split
  · exact .refl _
  · split <;> exact .refl _

/-- Enrolment ends OPEN (R400). -/
theorem execOperatorEnrolment_nonVolGrows (q : Nat) : NonVolGrows s (execOperatorEnrolment q s) := by
  refine .runOp q 0xA1 _ fun c u => ?_
  dsimp only
  split
  · exact .refl _
  · exact ⟨List.Subset.refl _, List.Subset.refl _, fun _ => rfl⟩

theorem execFwupdate_nonVolGrows (q : Nat) : NonVolGrows s (execFwupdate q s) := by
  refine .runOp q 0xA2 _ fun c u => ?_
  dsimp only
  split <;> exact .refl _

theorem execUpdateStaged_nonVolGrows : NonVolGrows s (execUpdateStaged s) := by
  unfold execUpdateStaged
  split
  · exact .same rfl
  · dsimp only
    split
    · exact .same rfl
    · split
      · exact .onDev _
      · exact .next (.of_eq rfl rfl rfl)

theorem execPartitionReset_nonVolGrows (part : Nat) (bist : List Nat) : NonVolGrows s (execPartitionReset part bist s) := by
  unfold execPartitionReset
  split
  · exact .fault
  · split
    · exact .next (faultReset_grows (s.nv, s.dev) part bist)
    · dsimp only
      split
      · exact .same rfl
      · exact .runOp _ 0x90 _ fun _ u => resetPart_grows part bist u

theorem execDiscard_nonVolGrows (q : Nat) (bist : List Nat) : NonVolGrows s (execDiscard q bist s) := by
  refine .runOp q 0x52 _ fun c u => ?_
  dsimp only
  split
  · exact .refl _
  · split
    · exact .refl _
    · split
      · exact .refl _
      · split
        · exact discardStep_grows (u.nv, u.dev) _ _ bist
        · split
          · exact .refl _
          · exact discardStart_grows (u.nv, u.dev) _ (wordAt c.payload 4 % 2 ^ 16) (wordAt c.payload 8) bist

theorem execModuleReset_nonVolGrows (q : Nat) (env : BringUpEnv) : NonVolGrows s (execModuleReset q env s) := by
  refine .onQueue ?_
  split
  · exact .same rfl
  · split
    · exact .same rfl
    · dsimp only
      split
      · exact .same rfl
      · split
        · exact .same rfl
        · exact .next (boot_grows (s.nv, _) false false env)

theorem startUp_nonVolGrows (d : Dev) (env : BringUpEnv) : NonVolGrows s (startUp s d env) := by
  unfold startUp
  split
  · exact .next (boot_grows (s.nv, d) true false env)
  · exact .same rfl

theorem execEnableAssert_nonVolGrows (quick : Bool) (env : BringUpEnv) : NonVolGrows s (execEnableAssert quick env s) := by
  unfold execEnableAssert
  split
  · exact .same rfl
  · dsimp only
    split
    · exact .same rfl
    · split
      · exact .same rfl
      · exact .next (boot_grows (s.nv, _) true quick env)

theorem execInputPowerReturn_nonVolGrows (mv : Nat) (env : BringUpEnv) : NonVolGrows s (execInputPowerReturn mv env s) := by
  unfold execInputPowerReturn
  split
  · exact .same rfl
  · exact startUp_nonVolGrows s _ env

theorem execCenWrite_nonVolGrows (cage : Nat) (value : Word32) : NonVolGrows s (execCenWrite cage value s) := by
  unfold execCenWrite
  split
  · exact .fault
  · exact .same rfl

/-- Every command takes nothing non-volatile back. -/
theorem exec_nonVolGrows (c : Instr) : NonVolGrows s (exec c s) := by
  cases c <;> simp only [exec]
  case rowRepair super bank row => exact execRowRepair_nonVolGrows s super bank row
  case pageRetirement super ppn => exact execPageRetirement_nonVolGrows s super ppn
  case place q => exact execPlace_nonVolGrows s q
  case keyrel q => exact execKeyrel_nonVolGrows s q
  case operatorEnrolment q => exact execOperatorEnrolment_nonVolGrows s q
  case fwupdate q => exact execFwupdate_nonVolGrows s q
  case updateStaged => exact execUpdateStaged_nonVolGrows s
  case coreReset q bist => exact .runOp q 0x90 _ fun _ u => resetCores_grows _ _ false bist u
  case frameReset q bist => exact .runOp q 0x90 _ fun _ u => resetCores_grows _ _ true bist u
  case partitionReset part bist => exact execPartitionReset_nonVolGrows s part bist
  case discard q bist => exact execDiscard_nonVolGrows s q bist
  case moduleReset q env => exact execModuleReset_nonVolGrows s q env
  case enableAssert quick env => exact execEnableAssert_nonVolGrows s quick env
  case inputPowerReturn mv env => exact execInputPowerReturn_nonVolGrows s mv env
  case standbyRailPresent env => exact startUp_nonVolGrows s _ env
  case cenWrite cage value => exact execCenWrite_nonVolGrows s cage value
  case commandComplete q cseq => exact .onQueue (.same rfl)
  case ident | echo | pread | pwrite | pswap | qbind | qreset | memread | memwrite | lbegin | ldata | lcommit | unload | start | cap |
      stepparam | base | ptest | rebuild | replay | snapshot | bbread | attest | ctxset | acctread =>
    exact .devOp _ _ _
  case waggleChunk | ftcmt | ptcmt | pcfgModeWrite | parameterWrite => exact .same rfl
  case bucketRefill | migrationStart | tmloRead | bringUpTimeout | missingBitmapSend | reportKeyExpiry | thermalSample |
      deepPowerDown | blackBoxRecordProgrammed | powerLoss | enableDeassert | inputOvervoltage | inputLow | standbyRailLost |
      holdUpCharged =>
    exact .onDev _
  all_goals exact .onUnit _ _

end

/-- Settles O3: a step runs one command or idles, and no command takes anything non-volatile back. -/
theorem nonVolatileNeverGoesBack : Obligations.NonVolatileNeverGoesBack := by
  unfold Obligations.NonVolatileNeverGoesBack
  intro k r s t hstep
  have hgrows : s.nv.Grows t.nv := by
    unfold step at hstep
    split at hstep
    · cases hstep
      exact .refl _
    · next c rest _ => exact exec_nonVolGrows { s with pending := rest } c t hstep
  exact ⟨fun h => hgrows.failed h, fun h => hgrows.retired h, hgrows.opened⟩

end Sys2Proof.Machine
end

section
/-! SUPPORT. Which outcomes a command has; the proofs of O1, O2, O4 and O59. -/

namespace Sys2Proof.Machine
open Sys2Proof Sys2Proof.Machine.Claims

/-- Settles O1: it is the step's second equation. -/
theorem stepRunsTheFrontCommand : Obligations.StepRunsTheFrontCommand := fun _ _ _ => rfl

/-! ## Serial numbers (R444) -/

/-- The difference that serial numbers compare is the integer one, modulo 2^n. -/
theorem serialDiff_cast (n a b : Nat) : (((a + 2 ^ n - b % 2 ^ n) % 2 ^ n : Nat) : Int) = ((a : Int) - b) % 2 ^ n := by
  have hlt : b % 2 ^ n < 2 ^ n := Nat.mod_lt _ (Nat.two_pow_pos n)
  rw [Int.natCast_mod, Nat.cast_sub (by omega)]
  push_cast
  rw [show (a : Int) + 2 ^ n - (b : Int) % 2 ^ n = a - (b : Int) % 2 ^ n + 2 ^ n by ring, Int.add_emod_right, Int.sub_emod,
    Int.emod_emod_of_dvd _ dvd_rfl, ← Int.sub_emod]

/-- Settles O4: both comparisons read the same difference, which is 2^(n−1) half-way round. -/
theorem serialNumbersAreCompared : Obligations.SerialNumbersAreCompared := by
  unfold Obligations.SerialNumbersAreCompared
  intro n a b hn
  obtain ⟨k, rfl⟩ : ∃ k, n = k + 1 := ⟨n - 1, by omega⟩
  have hpow : 2 ^ (k + 1) = 2 * 2 ^ k := by ring
  have hpos : 0 < 2 ^ k := Nat.two_pow_pos k
  have hdiff := serialDiff_cast (k + 1) a b
  have hlt : (a + 2 ^ (k + 1) - b % 2 ^ (k + 1)) % 2 ^ (k + 1) < 2 ^ (k + 1) := Nat.mod_lt _ (Nat.two_pow_pos _)
  have hhalf : (b + 2 ^ k + 2 ^ (k + 1) - b % 2 ^ (k + 1)) % 2 ^ (k + 1) = 2 ^ k := by
    have h := Nat.div_add_mod b (2 ^ (k + 1))
    rw [show b + 2 ^ k + 2 ^ (k + 1) - b % 2 ^ (k + 1) = 2 ^ k + 2 ^ (k + 1) * (b / 2 ^ (k + 1) + 1) by rw [mul_add]; omega,
      Nat.add_mul_mod_self_left, Nat.mod_eq_of_lt (by omega)]
  simp only [serialLater, serialEarlier, Nat.add_sub_cancel, ← hdiff, hhalf, Bool.and_eq_true, decide_eq_true_eq,
    Bool.and_eq_false_iff, decide_eq_false_iff_not]
  generalize (a + 2 ^ (k + 1) - b % 2 ^ (k + 1)) % 2 ^ (k + 1) = e at hlt ⊢
  refine ⟨?_, ?_, le_rfl, .inr (by omega)⟩ <;> zify [Nat.one_le_two_pow] at hlt hpow hpos ⊢ <;> omega

/-! ## Commands complete -/

/-- An outcome goes on, or it is the fault of a missing unit, which only an ill-formed command (`b` false) can name. -/
def Completes (b : Bool) (o : Out) : Prop := (∃ t, o = .next t) ∨ (o = .fault .noSuchUnit ∧ b = false)

theorem Completes.next (b : Bool) (t : State) : Completes b (.next t) := .inl ⟨t, rfl⟩

theorem Completes.of_imp {b c : Bool} {s : State} {f : Dev → Dev} (h : b = true → c = true) : Completes b (s.onUnit c f) := by
  cases c with
  | true => exact .next _ _
  | false =>
    cases b with
    | true => exact absurd (h rfl) (by decide)
    | false => exact .inr ⟨rfl, rfl⟩

/-- A command of a queue that its well-formedness bounds. -/
theorem Completes.onQueue {b : Bool} {s : State} {q : Nat} {r : Out} (h : b = true → q < nQueues) (hr : ∃ t, r = .next t) :
    Completes b (onQueue s q r) := by
  unfold Machine.onQueue
  split
  · exact .inl hr
  · next hq =>
    cases b with
    | true => exact absurd (h rfl) hq
    | false => exact .inr ⟨rfl, rfl⟩

theorem Completes.runOp {b : Bool} {s : State} {q : Nat} (h : b = true → q < nQueues) (op : Nat) (mine : Cmd → Bool)
    (f : Cmd → State → Option Ans × State) : Completes b (runOp s q op mine f) := by
  refine .onQueue h ?_
  split
  · exact ⟨_, rfl⟩
  · split
    · exact ⟨_, rfl⟩
    · dsimp only
      split
      · exact ⟨_, rfl⟩
      · split
        · exact ⟨_, rfl⟩
        · split <;> exact ⟨_, rfl⟩

theorem Completes.devOp {b : Bool} {s : State} {q : Nat} (h : b = true → q < nQueues) (op : Nat) (f : Cmd → Dev → Ans × Dev) :
    Completes b (devOp s q op f) := .runOp h op _ _

theorem Completes.of_le {b : Bool} {x n : Nat} {r : Out} (h : b = true → x < n) (hr : ∃ t, r = .next t) :
    Completes b (if n ≤ x then .fault .noSuchUnit else r) := by
  split
  · next hx =>
    cases b with
    | true => exact absurd (h rfl) (Nat.not_lt.2 hx)
    | false => exact .inr ⟨rfl, rfl⟩
  · exact .inl hr

theorem startUp_next (s : State) (d : Dev) (env : BringUpEnv) : ∃ t, startUp s d env = .next t := by
  unfold startUp
  split <;> exact ⟨_, rfl⟩

section
variable (s : State)

theorem execRowRepair_completes (super bank row : Nat) :
    Completes (Instr.wf (.rowRepair super bank row)) (execRowRepair super bank row s) := by
  refine .of_le of_decide_eq_true ?_
  dsimp only
  split
  · exact ⟨_, rfl⟩
  · split <;> exact ⟨_, rfl⟩

theorem execPageRetirement_completes (super ppn : Nat) :
    Completes (Instr.wf (.pageRetirement super ppn)) (execPageRetirement super ppn s) := by
  refine .of_le (fun h => of_decide_eq_true (Bool.and_eq_true_iff.1 h).1) ?_
  split
  · exact ⟨_, rfl⟩
  · dsimp only
    split
    · split
      · exact ⟨_, rfl⟩
      · split <;> exact ⟨_, rfl⟩
    · split <;> exact ⟨_, rfl⟩

theorem execPartitionReset_completes (part : Nat) (bist : List Nat) :
    Completes (Instr.wf (.partitionReset part bist)) (execPartitionReset part bist s) := by
  unfold execPartitionReset
  split
  · next hp => exact .inr ⟨rfl, decide_eq_false (Nat.not_lt.2 hp)⟩
  · split
    · exact .next _ _
    · dsimp only
      split
      · exact .next _ _
      · next q hq => exact .runOp (fun _ => List.mem_range.1 (List.mem_of_find?_eq_some hq)) 0x90 _ _

theorem execModuleReset_completes (q : Nat) (env : BringUpEnv) :
    Completes (Instr.wf (.moduleReset q env)) (execModuleReset q env s) := by
  refine .onQueue (fun h => of_decide_eq_true (Bool.and_eq_true_iff.1 h).1) ?_
  split
  · exact ⟨_, rfl⟩
  · split
    · exact ⟨_, rfl⟩
    · dsimp only
      split
      · exact ⟨_, rfl⟩
      · split <;> exact ⟨_, rfl⟩

theorem execUpdateStaged_next : ∃ t, execUpdateStaged s = .next t := by
  unfold execUpdateStaged
  split
  · exact ⟨_, rfl⟩
  · dsimp only
    split
    · exact ⟨_, rfl⟩
    · split <;> exact ⟨_, rfl⟩

theorem execEnableAssert_next (quick : Bool) (env : BringUpEnv) : ∃ t, execEnableAssert quick env s = .next t := by
  unfold execEnableAssert
  split
  · exact ⟨_, rfl⟩
  · dsimp only
    split
    · exact ⟨_, rfl⟩
    · split <;> exact ⟨_, rfl⟩

theorem execInputPowerReturn_next (mv : Nat) (env : BringUpEnv) : ∃ t, execInputPowerReturn mv env s = .next t := by
  unfold execInputPowerReturn
  split
  · exact ⟨_, rfl⟩
  · exact startUp_next s _ env

/-- The storages that a patrol scrub can name (R213). -/
theorem storage_of_scrubWf {storage unit granule : Nat} (h : scrubWf storage unit granule = true) :
    storage < Config.nSupers ∨ 4 ≤ storage ∧ storage < 9 + Config.nSupers := by
  have hsupers : Config.nSupers = 4 := rfl
  unfold scrubWf at h
  rw [hsupers] at h ⊢
  split at h
  · exact .inl (of_decide_eq_true (Bool.and_eq_true_iff.1 h).1)
  · refine .inr ?_
    split at h <;> simp_all

/-- Every command goes on, unless it is ill-formed and names a missing unit. -/
theorem exec_completes (c : Instr) : Completes c.wf (exec c s) := by
  cases c <;> simp only [exec]
  case rowRepair super bank row => exact execRowRepair_completes s super bank row
  case pageRetirement super ppn => exact execPageRetirement_completes s super ppn
  case partitionReset part bist => exact execPartitionReset_completes s part bist
  case moduleReset q env => exact execModuleReset_completes s q env
  case updateStaged => exact .inl (execUpdateStaged_next s)
  case enableAssert quick env => exact .inl (execEnableAssert_next s quick env)
  case inputPowerReturn mv env => exact .inl (execInputPowerReturn_next s mv env)
  case standbyRailPresent env => exact .inl (startUp_next s _ env)
  case cenWrite cage value => exact .of_le (fun h => of_decide_eq_true h) ⟨_, rfl⟩
  case commandComplete q cseq => exact .onQueue (fun h => of_decide_eq_true (Bool.and_eq_true_iff.1 h).1) ⟨_, rfl⟩
  case discard | coreReset | frameReset => exact .runOp (fun h => of_decide_eq_true (Bool.and_eq_true_iff.1 h).1) _ _ _
  case ident | echo | pread | pwrite | pswap | qbind | qreset | memread | memwrite | lbegin | ldata | lcommit | unload |
      start | cap | stepparam | base | ptest | rebuild | replay | snapshot | bbread | attest | ctxset | acctread =>
    exact .devOp (fun h => of_decide_eq_true h) _ _
  case place | keyrel | operatorEnrolment | fwupdate => exact .runOp (fun h => of_decide_eq_true h) _ _ _
  case waggleChunk | ftcmt | ptcmt | pcfgModeWrite | parameterWrite | bucketRefill | migrationStart | tmloRead | bringUpTimeout |
      missingBitmapSend | reportKeyExpiry | thermalSample | deepPowerDown | blackBoxRecordProgrammed | powerLoss |
      enableDeassert | inputOvervoltage | inputLow | standbyRailLost | holdUpCharged =>
    exact .next _ _
  case tierMapEntryError page => exact .of_imp id
  case patrolScrub e g _ _ =>
    refine .of_imp fun h => ?_
    have hstorage := storage_of_scrubWf h
    simp [hstorage]
  all_goals
    refine .of_imp fun h => ?_
    simp only [Instr.wf, Who.wf, Bool.and_eq_true, decide_eq_true_eq] at h
    simp [h, nCores, nParts, nPorts, nFrames, nCages, nChans, nQueues, nCtxs]

end

/-- Settles O2: a step runs one command or idles. -/
theorem commandsCompleteAndStepsAreNeverRefused : Obligations.CommandsCompleteAndStepsAreNeverRefused := by
  refine ⟨fun c s hwf => ?_, fun s => ⟨fun h => by simp [step, h], ?_⟩⟩
  · obtain hnext | ⟨-, hill⟩ := exec_completes s c
    · exact hnext
    · exact absurd (hwf.symm.trans hill) (by decide)
  · cases hp : s.pending with
    | nil => exact .inl ⟨s, by simp [step, hp]⟩
    | cons c rest =>
      have hstep : step s = exec c { s with pending := rest } := by simp [step, hp]
      rw [hstep]
      obtain hnext | ⟨hfault, hill⟩ := exec_completes { s with pending := rest } c
      · exact .inl hnext
      · exact .inr ⟨hfault, c, rest, rfl, hill⟩

/-- Settles O59: the table is evaluated. -/
theorem resetHoldsTheResetColumns : Obligations.ResetHoldsTheResetColumns := by
  refine ⟨rfl, rfl, rfl, rfl, ?_⟩
  decide

end Sys2Proof.Machine
end

section
/-! SUPPORT. Instructions of a task that issues: what the task's core and device look like to them, and that an instruction which
only changes its core leaves the rest alone; the proofs of O5, O6 and O7. -/

namespace Sys2Proof.Machine
open Sys2Proof Sys2Proof.Machine.Claims

/-! ## The device and the core that an instruction meets -/

section
variable (d : Dev) (w : Who)

/-- What a function of the device that reads neither cores nor the comb answers, it answers before and after the fetch. -/
theorem Dev.readyDev_congr {α : Type} (g : Dev → α)
    (hg : ∀ (e : Dev) cs i x b k, g { e with cores := cs, freeIx := i, tiers := { e.tiers with comb := x, combBad := b, combCnt := k } } = g e) :
    g (d.readyDev w) = g d := by
  obtain ⟨i, x, b, k, h⟩ := d.readyDev_parts w
  have hready := hg (d.readyDev w) d.cores (d.readyDev w).freeIx (d.readyDev w).tiers.comb (d.readyDev w).tiers.combBad
    (d.readyDev w).tiers.combCnt
  have hold := hg d d.cores i x b k
  calc g (d.readyDev w) = g { d.readyDev w with cores := d.cores } := hready.symm
    _ = g d := by rw [h]; exact hold

@[simp] theorem Dev.readyDev_mem : (d.readyDev w).mem = d.mem := d.readyDev_congr w Dev.mem fun _ _ _ _ _ _ => rfl
@[simp] theorem Dev.readyDev_memPoison : (d.readyDev w).memPoison = d.memPoison :=
  d.readyDev_congr w Dev.memPoison fun _ _ _ _ _ _ => rfl
@[simp] theorem Dev.readyDev_ctxOf (n : Nat) : (d.readyDev w).ctxOf n = d.ctxOf n :=
  d.readyDev_congr w (fun e => e.ctxOf n) fun _ _ _ _ _ _ => rfl
@[simp] theorem Dev.readyDev_partOf (n : Nat) : (d.readyDev w).partOf n = d.partOf n :=
  d.readyDev_congr w (fun e => e.partOf n) fun _ _ _ _ _ _ => rfl
@[simp] theorem Dev.readyDev_coreSec (n k : Nat) : (d.readyDev w).coreSec n k = d.coreSec n k :=
  d.readyDev_congr w (fun e => e.coreSec n k) fun _ _ _ _ _ _ => rfl
@[simp] theorem Dev.readyDev_rings (n : Nat) : (d.readyDev w).rings n = d.rings n :=
  d.readyDev_congr w (fun e => e.rings n) fun _ _ _ _ _ _ => rfl
@[simp] theorem Dev.readyDev_guard (n : Nat) : (d.readyDev w).guard n = d.guard n :=
  d.readyDev_congr w (fun e => e.guard n) fun _ _ _ _ _ _ => rfl
@[simp] theorem Dev.readyDev_fenced (n a : Nat) : (d.readyDev w).fenced n a = d.fenced n a :=
  d.readyDev_congr w (fun e => e.fenced n a) fun _ _ _ _ _ _ => rfl
@[simp] theorem Dev.readyDev_rangeRead (c a m : Nat) : (d.readyDev w).rangeRead c a m = d.rangeRead c a m :=
  d.readyDev_congr w (fun e => e.rangeRead c a m) fun _ _ _ _ _ _ => rfl
@[simp] theorem Dev.readyDev_rangeWrite (c a m : Nat) : (d.readyDev w).rangeWrite c a m = d.rangeWrite c a m :=
  d.readyDev_congr w (fun e => e.rangeWrite c a m) fun _ _ _ _ _ _ => rfl
@[simp] theorem Dev.readyDev_outsideWs (n tid : Nat) (uni : Bool) (a m : Nat) :
    (d.readyDev w).outsideWs n tid uni a m = d.outsideWs n tid uni a m :=
  d.readyDev_congr w (fun e => e.outsideWs n tid uni a m) fun _ _ _ _ _ _ => rfl
@[simp] theorem Dev.readyDev_memRead (a m : Nat) : (d.readyDev w).memRead a m = d.memRead a m :=
  d.readyDev_congr w (fun e => e.memRead a m) fun _ _ _ _ _ _ => rfl
@[simp] theorem Dev.readyDev_memByte (a : Nat) : (d.readyDev w).memByte a = d.memByte a :=
  d.readyDev_congr w (fun e => e.memByte a) fun _ _ _ _ _ _ => rfl
@[simp] theorem Dev.readyDev_part (p : Nat) : (d.readyDev w).part p = d.part p :=
  d.readyDev_congr w (fun e => e.part p) fun _ _ _ _ _ _ => rfl
@[simp] theorem Dev.readyDev_ctx (c : Nat) : (d.readyDev w).ctx c = d.ctx c :=
  d.readyDev_congr w (fun e => e.ctx c) fun _ _ _ _ _ _ => rfl

/-- Of its core, dispatch and the fetch change the matrix engine, the instruction cache and the counters. -/
theorem Dev.readyCore_parts : ∃ mx ic k, d.readyCore w = { d.core w.core with mx := mx, icache := ic, counters := k } := by
  have hdisp : ∃ mx, (d.dispatched w).core w.core = { d.core w.core with mx := mx } := by
    rw [Dev.dispatched_core]
    split
    · exact Core.dispatch_parts _
    · exact ⟨_, rfl⟩
  obtain ⟨mx, hmx⟩ := hdisp
  unfold Dev.readyCore Dev.readyDev
  split
  · next t _ =>
    obtain ⟨_, _, _, _, _, hcore, _⟩ := (d.dispatched w).fetch_parts w.core t.pc
    obtain ⟨ic, k, hfetch⟩ := Core.fetchLine_parts w.core ((d.dispatched w).ctxOf w.core) t.pc ((d.dispatched w).core w.core)
    exact ⟨mx, ic, k, by rw [hcore, hfetch, hmx]⟩
  · exact ⟨mx, _, _, hmx⟩

theorem Dev.readyDev_core_self : (d.readyDev w).core w.core = d.readyCore w := rfl

/-- What a function of the core reads of neither its matrix engine, its instruction cache nor its counters is as before. -/
theorem Dev.readyCore_congr {α : Type} (g : Core → α)
    (hg : ∀ (c : Core) mx ic k, g { c with mx := mx, icache := ic, counters := k } = g c) : g (d.readyCore w) = g (d.core w.core) := by
  obtain ⟨mx, ic, k, h⟩ := d.readyCore_parts w
  rw [h, hg]

@[simp] theorem Dev.readyCore_tasks : (d.readyCore w).tasks = (d.core w.core).tasks := d.readyCore_congr w Core.tasks fun _ _ _ _ => rfl
@[simp] theorem Dev.readyCore_wbuf : (d.readyCore w).wbuf = (d.core w.core).wbuf := d.readyCore_congr w Core.wbuf fun _ _ _ _ => rfl
@[simp] theorem Dev.readyCore_pad : (d.readyCore w).pad = (d.core w.core).pad := d.readyCore_congr w Core.pad fun _ _ _ _ => rfl
@[simp] theorem Dev.readyCore_su : (d.readyCore w).su = (d.core w.core).su := d.readyCore_congr w Core.su fun _ _ _ _ => rfl
@[simp] theorem Dev.readyCore_vx : (d.readyCore w).vx = (d.core w.core).vx := d.readyCore_congr w Core.vx fun _ _ _ _ => rfl
@[simp] theorem Dev.readyCore_dcache : (d.readyCore w).dcache = (d.core w.core).dcache :=
  d.readyCore_congr w Core.dcache fun _ _ _ _ => rfl
@[simp] theorem Dev.readyCore_atom : (d.readyCore w).atom = (d.core w.core).atom := d.readyCore_congr w Core.atom fun _ _ _ _ => rfl
@[simp] theorem Dev.readyCore_frec : (d.readyCore w).frec = (d.core w.core).frec := d.readyCore_congr w Core.frec fun _ _ _ _ => rfl
@[simp] theorem Dev.readyCore_lost : (d.readyCore w).lost = (d.core w.core).lost := d.readyCore_congr w Core.lost fun _ _ _ _ => rfl
@[simp] theorem Dev.readyCore_endl : (d.readyCore w).endl = (d.core w.core).endl := d.readyCore_congr w Core.endl fun _ _ _ _ => rfl
@[simp] theorem Dev.readyCore_startNext : (d.readyCore w).startNext = (d.core w.core).startNext :=
  d.readyCore_congr w Core.startNext fun _ _ _ _ => rfl

@[simp] theorem Dev.readyDev_loadWaits (ix : Nat) (uni : Bool) (a m : Nat) :
    (d.readyDev w).loadWaits w.core ix uni a m = d.loadWaits w.core ix uni a m := by
  have htids : ((d.readyDev w).core w.core).earlierTids ix = (d.core w.core).earlierTids ix :=
    d.readyCore_congr w (fun c => c.earlierTids ix) fun _ _ _ _ => rfl
  simp [Dev.loadWaits, htids]

end

/-! ## Effects on the issuing core alone -/

section
variable {s : State} {w : Who} {t : TaskRun}

/-- A change of the issuing core is seen nowhere else. -/
theorem OnlyIssuer.of_cores (s : State) (w : Who) {d : Dev} {c : Core} (hd : ∃ cs, d = { s.dev.readyDev w with cores := cs })
    (hc : d.core w.core = c) (hne : ∀ m, m ≠ w.core → d.core m = (s.dev.readyDev w).core m) :
    OnlyIssuer s { s with dev := d } (s.dev.readyDev w) w.core c := by
  obtain ⟨cs, rfl⟩ := hd
  obtain ⟨i, x, b, k, h⟩ := s.dev.readyDev_parts w
  refine ⟨⟨rfl, rfl⟩, ?_, rfl, rfl, hc, fun m hm => (hne m hm).trans (Dev.readyDev_core_ne _ _ hm)⟩
  exact congrArg (fun e : Dev => { e with
    freeIx := s.dev.freeIx, tiers := { e.tiers with comb := s.dev.tiers.comb, combBad := s.dev.tiers.combBad,
                                                    combCnt := s.dev.tiers.combCnt } }) h

theorem OnlyIssuer.modCore (s : State) (w : Who) (f : Core → Core) :
    OnlyIssuer s { s with dev := (s.dev.readyDev w).modCore w.core f } (s.dev.readyDev w) w.core (f (s.dev.readyCore w)) :=
  .of_cores s w ⟨_, rfl⟩ (Dev.modCore_core_self _ _ f) fun _ hm => Dev.modCore_core_ne _ f hm

/-- Two changes one after another. -/
theorem OnlyIssuer.modCore_modCore (s : State) (w : Who) (f g : Core → Core) :
    OnlyIssuer s { s with dev := ((s.dev.readyDev w).modCore w.core f).modCore w.core g } (s.dev.readyDev w) w.core
      (g (f (s.dev.readyCore w))) := by
  refine .of_cores s w ⟨_, rfl⟩ ?_ fun m hm => ?_
  · rw [Dev.modCore_core_self, Dev.modCore_core_self]
    rfl
  · rw [Dev.modCore_core_ne _ g hm, Dev.modCore_core_ne _ f hm]

/-- An instruction that issues and changes its core alone. -/
theorem ctlExec_onlyIssuer (f : Core → Core) (u : Uncapped) (g : Dev → Nat → Nat → TaskRun → Dev) (h : s.dev.issues w t = true)
    (hu : w.task = .capped ∨ u = .runs)
    (hg : g (s.dev.readyDev w) w.core (slotIx w.task) t = (s.dev.readyDev w).modCore w.core f) :
    ∃ v, ctlExec s w u g = .next v ∧ OnlyIssuer s v (s.dev.readyDev w) w.core (f (s.dev.readyCore w)) :=
  ⟨_, ctlExec_issues u g h hu, by rw [hg]; exact OnlyIssuer.modCore s w f⟩

/-- An instruction whose only effect is on the run of its task. -/
theorem writes_of_modTask {c : Instr} (f : TaskRun → TaskRun) {g : Dev → Nat → Nat → TaskRun → Dev} (h : s.dev.issues w t = true)
    (hc : exec c s = ctlExec s w .runs g)
    (hg : g (s.dev.readyDev w) w.core (slotIx w.task) t = (s.dev.readyDev w).modTask w.core (slotIx w.task) f) : Writes c s w f :=
  let ⟨v, hv, ho⟩ := ctlExec_onlyIssuer (fun c => c.modTask (slotIx w.task) f) .runs g h (.inr rfl) hg
  ⟨v, hc.trans hv, ho⟩

theorem writes_of_aluOp {c : Instr} {xd xa xb : XReg} {f : Word64 → Word64 → Word64} (h : s.dev.issues w t = true)
    (hc : exec c s = aluOp s w xd xa xb f) : Writes c s w (fun u => (u.setReg xd (f (t.reg xa) (t.reg xb))).step 4) :=
  writes_of_modTask _ h hc rfl

theorem writes_of_aluImm {c : Instr} {xd xa : XReg} {i : BitVec 14} {f : Word64 → Word64 → Word64} (h : s.dev.issues w t = true)
    (hc : exec c s = aluImm s w xd xa i f) : Writes c s w (fun u => (u.setReg xd (f (t.reg xa) (imm14 i))).step 4) :=
  writes_of_modTask _ h hc rfl

theorem writes_of_shiftImm {c : Instr} {xd xa : XReg} {i : BitVec 14} {f : Word64 → Nat → Word64} (h : s.dev.issues w t = true)
    (hi : i.toNat < 64) (hc : exec c s = shiftImm s w xd xa i f) :
    Writes c s w (fun u => (u.setReg xd (f (t.reg xa) i.toNat)).step 4) :=
  writes_of_modTask _ h hc (if_pos hi)

theorem writes_of_branch {c : Instr} {xb xa : XReg} {i : BitVec 14} {f : Word64 → Word64 → Bool} (h : s.dev.issues w t = true)
    (hc : exec c s = branch s w xb xa i f) : Writes c s w (fun u =>
      { u with pc := if f (t.reg xa) (t.reg xb) then (((t.pc : Int) + 4 * i.toInt) % 2 ^ 64).toNat else u.pc + 4 }) := by
  refine writes_of_modTask _ h hc (congrArg ((s.dev.readyDev w).modTask w.core (slotIx w.task)) (funext fun u => ?_))
  split <;> rfl

end

/-! ## 64-bit results as integers -/

section
variable (a b : Word64)

theorem w64_toInt : w64 a.toInt = a := BitVec.ofInt_toInt
theorem w64_toNat : w64 a.toNat = a := by simp [w64]
theorem add_eq_w64 : a + b = w64 (a.toInt + b.toInt) := by simp [w64, BitVec.ofInt_add]
theorem sub_eq_w64 : a - b = w64 (a.toInt - b.toInt) := by
  simp [w64, sub_eq_add_neg, BitVec.ofInt_add, BitVec.ofInt_neg, BitVec.sub_eq_add_neg]
theorem mul_eq_w64 : a * b = w64 (a.toInt * b.toInt) := by simp [w64, BitVec.ofInt_mul]

theorem imm14_eq_w64 (i : BitVec 14) : imm14 i = w64 i.toInt := rfl
theorem toInt_imm14 (i : BitVec 14) : (imm14 i).toInt = i.toInt := BitVec.toInt_signExtend_of_le (by decide)

theorem w64_natCast (n : Nat) : w64 n = BitVec.ofNat 64 n := by simp [w64]

theorem shl_eq_w64 (k : Nat) : a <<< k = w64 (a.toNat * 2 ^ k) := by
  have h : ((a.toNat : Int) * 2 ^ k) = ((a.toNat * 2 ^ k : Nat) : Int) := by push_cast; rfl
  rw [h, w64_natCast]
  apply BitVec.eq_of_toNat_eq
  simp [Nat.shiftLeft_eq]

theorem shr_eq_w64 (k : Nat) : a >>> k = w64 (a.toNat / 2 ^ k) := by
  have h : ((a.toNat : Int) / 2 ^ k) = ((a.toNat / 2 ^ k : Nat) : Int) := by push_cast; rfl
  rw [h, w64_natCast]
  apply BitVec.eq_of_toNat_eq
  have hlt : a.toNat / 2 ^ k < 2 ^ 64 := Nat.lt_of_le_of_lt (Nat.div_le_self _ _) a.isLt
  rw [BitVec.toNat_ushiftRight, BitVec.toNat_ofNat, Nat.mod_eq_of_lt hlt, Nat.shiftRight_eq_div_pow]

theorem sra_eq_w64 (k : Nat) : a.sshiftRight k = w64 (a.toInt / 2 ^ k) := by
  rw [BitVec.sshiftRight, Int.shiftRight_eq_div_pow]
  simp [w64]

theorem min_eq_w64 : (if b.slt a then b else a) = w64 (min a.toInt b.toInt) := by
  simp only [BitVec.slt_iff_toInt_lt]
  split
  · next h => rw [min_eq_right (le_of_lt h), w64_toInt]
  · next h => rw [min_eq_left (not_lt.1 h), w64_toInt]

theorem max_eq_w64 : (if a.slt b then b else a) = w64 (max a.toInt b.toInt) := by
  simp only [BitVec.slt_iff_toInt_lt]
  split
  · next h => rw [max_eq_right (le_of_lt h), w64_toInt]
  · next h => rw [max_eq_left (not_lt.1 h), w64_toInt]

theorem udiv_eq_w64 : (if b = 0#64 then BitVec.allOnes 64 else a / b) = if b.toNat = 0 then w64 (-1) else w64 (a.toNat / b.toNat) := by
  by_cases hb : b = 0#64
  · simp [hb, w64]
  · have hb' : b.toNat ≠ 0 := fun h => hb (BitVec.eq_of_toNat_eq h)
    have h : ((a.toNat : Int) / b.toNat) = ((a / b).toNat : Int) := by simp [BitVec.toNat_udiv]
    rw [if_neg hb, if_neg hb', h, w64_toNat]

theorem umod_eq_w64 : (if b = 0#64 then a else a % b) = if b.toNat = 0 then a else w64 (a.toNat % b.toNat) := by
  by_cases hb : b = 0#64
  · simp [hb]
  · have hb' : b.toNat ≠ 0 := fun h => hb (BitVec.eq_of_toNat_eq h)
    have h : ((a.toNat : Int) % b.toNat) = ((a % b).toNat : Int) := by simp [BitVec.toNat_umod]
    rw [if_neg hb, if_neg hb', h, w64_toNat]

theorem slt_eq_ite : bool64 (a.slt b) = if a.toInt < b.toInt then 1 else 0 := by
  simp [bool64, BitVec.slt_iff_toInt_lt]

theorem ult_eq_ite : bool64 (a.ult b) = if a.toNat < b.toNat then 1 else 0 := by
  simp [bool64, BitVec.ult_iff_toNat_lt]

theorem beq_eq_decide_toNat : (a == b) = decide (a.toNat = b.toNat) := by
  rw [beq_eq_decide, decide_eq_decide, BitVec.toNat_eq]

theorem bne_eq_decide_toNat : (a != b) = decide (a.toNat ≠ b.toNat) := by
  rw [bne, beq_eq_decide_toNat, ← decide_not]

theorem not_slt_eq_decide : (!a.slt b) = decide (b.toInt ≤ a.toInt) := by
  rw [BitVec.slt_eq_decide, ← decide_not, decide_eq_decide, not_lt]

theorem not_ult_eq_decide : (!a.ult b) = decide (b.toNat ≤ a.toNat) := by
  rw [BitVec.ult_eq_decide, ← decide_not, decide_eq_decide, not_lt]

theorem lui_eq_w64 (j : BitVec 19) : j.signExtend 64 <<< 14 = w64 (j.toInt * 2 ^ 14) := by
  apply BitVec.eq_of_toNat_eq
  rw [BitVec.toNat_shiftLeft, BitVec.signExtend, w64, BitVec.toNat_ofInt, BitVec.toNat_ofInt, Nat.shiftLeft_eq]
  omega

/-- LUH keeps the low 33 bits. -/
theorem luh_eq_w64 (j : BitVec 19) :
    (j.signExtend 31 ++ a.extractLsb' 0 33 : Word64) = w64 (j.toInt * 2 ^ 33 + (a.toNat % 2 ^ 33 : Nat)) := by
  apply BitVec.eq_of_toNat_eq
  rw [BitVec.toNat_append, BitVec.extractLsb'_toNat, Nat.shiftRight_zero, ← Nat.shiftLeft_add_eq_or_of_lt (Nat.mod_lt _ (by decide)),
    BitVec.signExtend, w64, BitVec.toNat_ofInt, BitVec.toNat_ofInt, Nat.shiftLeft_eq]
  omega

end

/-- The effective address, in 64 bits. -/
theorem ea_eq (t : TaskRun) (xa : XReg) (i : BitVec 14) : t.ea xa i = effective t xa i := by
  rw [TaskRun.ea, add_eq_w64, toInt_imm14, w64, BitVec.toNat_ofInt]
  rfl

/-! ## The register and the immediate instructions, and the branches -/

/-- A property of every entry of a list is that of each. -/
theorem forall_mem_table {α : Type} {p : α → Prop} : (∀ y ∈ ([] : List α), p y) ↔ True := by simp

/-- Every register form of the table executes as an operation on two registers, with the table's result. -/
theorem exec_of_mem_aluTable : ∀ y ∈ aluTable, ∃ f,
    (∀ w xd xa xb s, exec (y.1 w xd xa xb) s = aluOp s w xd xa xb f) ∧ ∀ a b, f a b = y.2 a b := by
  simp only [aluTable, List.forall_mem_cons, forall_mem_table, and_true]
  exact ⟨⟨fun a b => a + b, fun _ _ _ _ _ => rfl, add_eq_w64⟩,
    ⟨fun a b => a - b, fun _ _ _ _ _ => rfl, sub_eq_w64⟩,
    ⟨fun a b => a * b, fun _ _ _ _ _ => rfl, mul_eq_w64⟩,
    ⟨fun a b => if b = 0#64 then BitVec.allOnes 64 else a / b, fun _ _ _ _ _ => rfl, udiv_eq_w64⟩,
    ⟨fun a b => if b = 0#64 then a else a % b, fun _ _ _ _ _ => rfl, umod_eq_w64⟩,
    ⟨fun a b => a &&& b, fun _ _ _ _ _ => rfl, fun _ _ => rfl⟩,
    ⟨fun a b => a ||| b, fun _ _ _ _ _ => rfl, fun _ _ => rfl⟩,
    ⟨fun a b => a ^^^ b, fun _ _ _ _ _ => rfl, fun _ _ => rfl⟩,
    ⟨fun a b => a <<< (b.toNat % 64), fun _ _ _ _ _ => rfl, fun a _ => shl_eq_w64 a _⟩,
    ⟨fun a b => a >>> (b.toNat % 64), fun _ _ _ _ _ => rfl, fun a _ => shr_eq_w64 a _⟩,
    ⟨fun a b => a.sshiftRight (b.toNat % 64), fun _ _ _ _ _ => rfl, fun a _ => sra_eq_w64 a _⟩,
    ⟨fun a b => bool64 (a.slt b), fun _ _ _ _ _ => rfl, slt_eq_ite⟩,
    ⟨fun a b => bool64 (a.ult b), fun _ _ _ _ _ => rfl, ult_eq_ite⟩,
    ⟨fun a b => if b.slt a then b else a, fun _ _ _ _ _ => rfl, min_eq_w64⟩,
    ⟨fun a b => if a.slt b then b else a, fun _ _ _ _ _ => rfl, max_eq_w64⟩⟩

theorem exec_of_mem_immTable : ∀ y ∈ immTable, ∃ f,
    (∀ w xd xa i s, exec (y.1 w xd xa i) s = aluImm s w xd xa i f) ∧ ∀ a i, f a (imm14 i) = y.2 a i.toInt := by
  simp only [immTable, List.forall_mem_cons, forall_mem_table, and_true]
  exact ⟨⟨fun a b => a + b, fun _ _ _ _ _ => rfl, fun a i => (add_eq_w64 a (imm14 i)).trans (by rw [toInt_imm14])⟩,
    ⟨fun a b => a &&& b, fun _ _ _ _ _ => rfl, fun a i => by rw [imm14_eq_w64]⟩,
    ⟨fun a b => a ||| b, fun _ _ _ _ _ => rfl, fun a i => by rw [imm14_eq_w64]⟩,
    ⟨fun a b => a ^^^ b, fun _ _ _ _ _ => rfl, fun a i => by rw [imm14_eq_w64]⟩,
    ⟨fun a b => bool64 (a.slt b), fun _ _ _ _ _ => rfl, fun a i => (slt_eq_ite a (imm14 i)).trans (by rw [toInt_imm14])⟩⟩

theorem exec_of_mem_shiftTable : ∀ y ∈ shiftTable, ∃ f,
    (∀ w xd xa i s, exec (y.1 w xd xa i) s = shiftImm s w xd xa i f) ∧ ∀ a k, f a k = y.2 a k := by
  simp only [shiftTable, List.forall_mem_cons, forall_mem_table, and_true]
  exact ⟨⟨fun a k => a <<< k, fun _ _ _ _ _ => rfl, shl_eq_w64⟩,
    ⟨fun a k => a >>> k, fun _ _ _ _ _ => rfl, shr_eq_w64⟩,
    ⟨fun a k => a.sshiftRight k, fun _ _ _ _ _ => rfl, sra_eq_w64⟩⟩

theorem exec_of_mem_branchTable : ∀ y ∈ branchTable, ∃ f,
    (∀ w xb xa i s, exec (y.1 w xb xa i) s = branch s w xb xa i f) ∧ ∀ a b, f a b = y.2 a b := by
  simp only [branchTable, List.forall_mem_cons, forall_mem_table, and_true]
  exact ⟨⟨fun a b => a == b, fun _ _ _ _ _ => rfl, beq_eq_decide_toNat⟩,
    ⟨fun a b => a != b, fun _ _ _ _ _ => rfl, bne_eq_decide_toNat⟩,
    ⟨fun a b => a.slt b, fun _ _ _ _ _ => rfl, fun _ _ => BitVec.slt_eq_decide⟩,
    ⟨fun a b => !(a.slt b), fun _ _ _ _ _ => rfl, not_slt_eq_decide⟩,
    ⟨fun a b => a.ult b, fun _ _ _ _ _ => rfl, fun _ _ => BitVec.ult_eq_decide⟩,
    ⟨fun a b => !(a.ult b), fun _ _ _ _ _ => rfl, not_ult_eq_decide⟩⟩

theorem registerInstructionsWriteTheirResult : RegisterInstructionsWriteTheirResult := by
  intro s w t xd xa xb h y hy
  obtain ⟨f, hexec, hf⟩ := exec_of_mem_aluTable y hy
  exact hf _ _ ▸ writes_of_aluOp h (hexec w xd xa xb s)

theorem immediateInstructionsWriteTheirResult : ImmediateInstructionsWriteTheirResult := by
  intro s w t xd xa i j h
  refine ⟨fun y hy => ?_, fun hi y hy => ?_, ?_, ?_⟩
  · obtain ⟨f, hexec, hf⟩ := exec_of_mem_immTable y hy
    exact hf _ _ ▸ writes_of_aluImm h (hexec w xd xa i s)
  · obtain ⟨f, hexec, hf⟩ := exec_of_mem_shiftTable y hy
    exact hf _ _ ▸ writes_of_shiftImm h hi (hexec w xd xa i s)
  · exact lui_eq_w64 j ▸ writes_of_modTask (fun u => (u.setReg xd (j.signExtend 64 <<< 14)).step 4) h rfl rfl
  · exact luh_eq_w64 (t.reg xd) j ▸
      writes_of_modTask (fun u => (u.setReg xd (j.signExtend 31 ++ (t.reg xd).extractLsb' 0 33)).step 4) h rfl rfl

/-- Settles O6: every instruction of the tables acts on the task's run alone. -/
theorem registerAndImmediateInstructionsWriteTheirResult : Obligations.RegisterAndImmediateInstructionsWriteTheirResult :=
  ⟨registerInstructionsWriteTheirResult, immediateInstructionsWriteTheirResult⟩

/-! ## Fetches and jumps -/

theorem branchesAndJumpsMoveThePc : BranchesAndJumpsMoveThePc := by
  intro s w t xd xa xb i j h
  refine ⟨fun y hy => ?_, ?_, ?_⟩
  · obtain ⟨f, hexec, hf⟩ := exec_of_mem_branchTable y hy
    exact hf _ _ ▸ writes_of_branch h (hexec w xb xa i s)
  · exact w64_natCast (t.pc + 4) ▸ writes_of_modTask
      (fun u => { u.setReg xd (BitVec.ofNat 64 (t.pc + 4)) with pc := branchTo t.pc j.toInt }) h rfl rfl
  · have hjr := writes_of_modTask (c := .jr w xd xa i)
      (fun u => { u.setReg xd (BitVec.ofNat 64 (t.pc + 4)) with pc := t.ea xa i / 4 * 4 }) h rfl rfl
    have htarget : ((((t.reg xa).toInt + i.toInt) % 2 ^ 64) / 4 * 4).toNat = t.ea xa i / 4 * 4 := by
      rw [ea_eq, effective]
      omega
    rw [htarget]
    exact w64_natCast (t.pc + 4) ▸ hjr

/-- The line used last is the first of its set. -/
theorem Tiers.useLine_comb (t : Tiers) (k ways line choice : Nat) :
    ∃ r, Store.get [] (t.useLine k ways line choice).comb k = line :: r := by
  unfold Tiers.useLine
  dsimp only
  split
  · simp
  · split <;> simp

/-- A filled line is in the comb. -/
theorem Dev.combHas_tableFill (d : Dev) (a : Nat) : (d.tableFill a).combHas (a / 512) = true := by
  obtain ⟨r, hr⟩ := d.tiers.useLine_comb (d.combKey (a / 512)) (d.cacheWays (d.combKey (a / 512) / 1024)) (a / 512)
    (Config.freeChoice d.freeIx 16)
  have hset : Store.get [] (d.tableFill a).tiers.comb ((d.tableFill a).combKey (a / 512)) = a / 512 :: r := hr
  simp [Dev.combHas, hset]

/-- A miss counts, and brings its line before lines that were there. -/
theorem Core.fetchLine_of_miss (n x pc : Nat) (c : Core) (h : c.icache.contains (x * 2 ^ 26 + pc / 64) = false) :
    ∃ ic, Core.fetchLine n x pc c = { c with icache := (x * 2 ^ 26 + pc / 64) :: ic, counters := bump c.counters 9 1 } ∧
      ∀ l ∈ ic, l ∈ c.icache := by
  unfold Core.fetchLine
  dsimp only
  rw [if_neg (Bool.eq_false_iff.1 h)]
  refine ⟨_, rfl, fun l hl => ?_⟩
  split at hl
  · exact hl
  · exact List.mem_of_mem_filter hl

theorem fetchesFillTheCaches : FetchesFillTheCaches := by
  intro d n pc line
  refine ⟨fun hhit => if_pos hhit, fun hmiss => ?_⟩
  have hfetch : d.fetch n pc =
      (d.modCore n (Core.fetchLine n (d.ctxOf n) pc)).tableFill (Config.codeAt (d.ctxOf n) + pc / 64 * 64) :=
    if_neg (Bool.eq_false_iff.1 hmiss)
  obtain ⟨x, b, k, hfill⟩ := Dev.tableFill_parts (d.modCore n (Core.fetchLine n (d.ctxOf n) pc))
    (Config.codeAt (d.ctxOf n) + pc / 64 * 64)
  obtain ⟨ic, hline, hic⟩ := Core.fetchLine_of_miss n (d.ctxOf n) pc (d.core n) hmiss
  refine ⟨hfetch ▸ Dev.combHas_tableFill _ _, ic, x, b, k, ?_, ?_, hic, fun m hm => ?_⟩
  · rw [hfetch, hfill]
    rfl
  · rw [hfetch, hfill, ← hline]
    exact Dev.modCore_core_self d n _
  · rw [hfetch, hfill]
    exact Dev.modCore_core_ne d _ hm

/-- Settles O7. -/
theorem fetchesBranchesAndJumps : Obligations.FetchesBranchesAndJumps := ⟨fetchesFillTheCaches, branchesAndJumpsMoveThePc⟩

end Sys2Proof.Machine
end

section
/-! SUPPORT. Loads and stores of the scratchpad, and the start of a task; the proofs of O5, O8 and O9. -/

namespace Sys2Proof.Machine
open Sys2Proof Sys2Proof.Machine.Claims

/-! ## Registers and the start of a task (R110, R111, R122) -/

theorem Store.get_set {α : Type} [DecidableEq α] (d : α) (m : Store α) (k i : Nat) (v : α) :
    Store.get d (Store.set d m k v) i = if i = k then v else Store.get d m i := by
  split
  · next h => rw [h, Store.get_set_self]
  · next h => rw [Store.get_set_ne d m v h]

theorem TaskRun.reg_zero (t : TaskRun) : t.reg 0 = 0#64 := rfl

theorem TaskRun.setReg_zero (t : TaskRun) (v : Word64) : t.setReg 0 v = t := rfl

theorem TaskRun.reg_setReg_self (t : TaskRun) {r : XReg} (v : Word64) (h : r.val ≠ 0) : (t.setReg r v).reg r = v := by
  simp [TaskRun.setReg, TaskRun.reg, h]

theorem TaskRun.reg_setReg_ne (t : TaskRun) {r q : XReg} (v : Word64) (h : q ≠ r) : (t.setReg r v).reg q = t.reg q := by
  have hval : q.val ≠ r.val := fun e => h (Fin.ext e)
  unfold TaskRun.setReg
  split
  · rfl
  · simp [TaskRun.reg, Store.get_set_ne _ _ _ hval]

@[simp] theorem TaskRun.setReg_pc (t : TaskRun) (r : XReg) (v : Word64) : (t.setReg r v).pc = t.pc := by
  unfold TaskRun.setReg
  split <;> rfl

@[simp] theorem TaskRun.setReg_uid (t : TaskRun) (r : XReg) (v : Word64) : (t.setReg r v).uid = t.uid := by
  unfold TaskRun.setReg
  split <;> rfl

/-- A started task holds its arguments in X1 to X4 and zeros elsewhere. -/
theorem startRun_reg (tbl : List Byte) (tid uid : Nat) (r : XReg) : (startRun tbl tid uid).reg r =
    if 1 ≤ r.val ∧ r.val ≤ 4 then BitVec.ofNat 64 (tdWord tbl tid (3 + r.val)) else 0#64 := by
  obtain ⟨r, hr⟩ := r
  simp only [startRun, TaskRun.reg, List.range_succ, List.range_zero, List.foldl_append, List.foldl_cons, List.foldl_nil,
    List.nil_append, Store.get_set, Store.get_nil]
  by_cases h : 1 ≤ r ∧ r ≤ 4
  · obtain rfl | rfl | rfl | rfl : r = 1 ∨ r = 2 ∨ r = 3 ∨ r = 4 := by omega
    all_goals rfl
  · rw [if_neg h]
    split
    · rfl
    · rw [if_neg (by omega), if_neg (by omega), if_neg (by omega), if_neg (by omega)]

/-- Putting a line into the data cache changes of its core the cache alone. -/
theorem Dev.cacheLine_core (d : Dev) (n line : Nat) (bs : List Byte) :
    ∃ dc, (d.cacheLine n line bs).core n = { d.core n with dcache := dc } := by
  unfold Dev.cacheLine
  dsimp only
  split
  · exact ⟨_, Dev.modCore_core_self _ _ _⟩
  · exact ⟨_, Dev.modCore_core_self _ _ _⟩

@[simp] theorem Dev.tableFill_cores (d : Dev) (a : Nat) : (d.tableFill a).cores = d.cores := rfl

/-- The fetch of a task's descriptor changes of its core the data cache and the counters. -/
theorem Dev.fetchTask_core (d : Dev) (n tid : Nat) :
    ∃ dc k, (d.fetchTask n tid).core n = { d.core n with dcache := dc, counters := k } := by
  unfold Dev.fetchTask
  dsimp only
  split
  · exact ⟨_, _, rfl⟩
  · obtain ⟨dc, h⟩ := Dev.cacheLine_core (d.modCore n (fun c => { c with counters := bump c.counters 10 1 })) n
      (uniTop / 64 + (Config.taskTableAt (d.ctxOf n) (n - d.partBase (d.partOf n)) + 64 * tid) / 64)
      (((d.coreSec n 2).drop (64 * tid)).take 64)
    refine ⟨dc, bump (d.core n).counters 10 1, ?_⟩
    rw [Dev.modCore_core_self] at h
    exact h

/-- TASK_START of a core that can start a task. -/
theorem exec_taskStart {s : State} {n tid : Nat} (hn : n < nCores) (hs : s.dev.toStart n = some tid) :
    exec (.taskStart n) s = .next { s with dev := { (s.dev.fetchTask n tid).modCore n (fun c =>
      { c with startNext := none, progress := true, tasks := c.tasks ++ [startRun (s.dev.coreSec n 2) tid s.dev.uidNext] }) with
        uidNext := s.dev.uidNext + 1 } } := by
  simp only [exec, execTaskStart, State.onCore, State.onUnit_eq, hn, decide_true, if_true, hs]

/-- The started task is the last of its core. -/
theorem taskStart_tasks (d : Dev) (n tid uid : Nat) (f : Core → Core) (t : TaskRun) (hf : ∀ c, (f c).tasks = c.tasks ++ [t]) :
    ({ (d.fetchTask n tid).modCore n f with uidNext := uid } : Dev).core n = f ((d.fetchTask n tid).core n) ∧
      (f ((d.fetchTask n tid).core n)).tasks = (d.core n).tasks ++ [t] := by
  obtain ⟨dc, k, h⟩ := d.fetchTask_core n tid
  refine ⟨Dev.modCore_core_self _ n f, ?_⟩
  rw [hf, h]

/-- Settles O5. -/
theorem registersReadWhatWasWritten : Obligations.RegistersReadWhatWasWritten := by
  refine ⟨fun t r q v => ⟨t.reg_zero, t.setReg_zero v, t.reg_setReg_self v, t.reg_setReg_ne v, t.setReg_pc r v⟩,
    fun s n tid hn hs => ?_⟩
  obtain ⟨hcore, htasks⟩ := taskStart_tasks s.dev n tid (s.dev.uidNext + 1) (fun c => { c with
    startNext := none, progress := true, tasks := c.tasks ++ [startRun (s.dev.coreSec n 2) tid s.dev.uidNext] }) _ fun _ => rfl
  refine ⟨_, startRun (s.dev.coreSec n 2) tid s.dev.uidNext, exec_taskStart hn hs, ?_, rfl, startRun_reg _ _ _⟩
  rw [hcore, htasks]
  simp

/-! ## A task that issues -/

section
variable {s : State} {w : Who} {t : TaskRun}

theorem Dev.issues_task {d : Dev} (h : d.issues w t = true) : (d.core w.core).tasks[slotIx w.task]? = some t := by
  unfold Dev.issues at h
  simp only [Bool.and_eq_true, beq_iff_eq] at h
  exact h.1.1.1.1.2

/-- A capped task is the first of its core. -/
theorem Dev.issues_capped {d : Dev} (h : d.issues w t = true) (hc : w.task = .capped) : ∃ r, (d.core w.core).tasks = t :: r := by
  have ht := d.issues_task h
  rw [(slotIx_capped _).2 hc] at ht
  cases hl : (d.core w.core).tasks with
  | nil =>
    rw [hl] at ht
    cases ht
  | cons u r =>
    rw [hl] at ht
    cases ht
    exact ⟨r, rfl⟩

/-- The core with its first task gone on, if that is the task `uid` (R124). -/
def Core.stepFirst (uid : Nat) (c : Core) : Core :=
  { c with tasks := match c.tasks with
    | u :: r => if u.uid = uid then u.step 4 :: r else u :: r
    | [] => [] }

theorem Core.stepFirst_of_tasks {c : Core} {t : TaskRun} {r : List TaskRun} (h : c.tasks = t :: r) :
    c.stepFirst t.uid = { c with tasks := t.step 4 :: r } := by
  simp [Core.stepFirst, h]

/-- A capped task's side effect that can take place: the operation, and the task goes on unless it has ended (R124). -/
theorem Dev.effect_of_doOp {d e : Dev} {n : Nat} {t : TaskRun} {op : BufOp} (h : d.doOp n ⟨t.uid, t.tid, t.pc, op⟩ = some e) :
    d.effect n 0 t op = e.modCore n (Core.stepFirst t.uid) := by
  simp only [Dev.effect, if_true, h]
  rfl

/-- A speculative task's side effect enters the buffer (R124). -/
theorem buffers_of_effect {c : Instr} {g : Dev → Nat → Nat → TaskRun → Dev} {op : BufOp} (h : s.dev.issues w t = true)
    (hc : w.task ≠ .capped) (hroom : (s.dev.core w.core).wbuf.length < 1024) (hexec : exec c s = ctlExec s w .runs g)
    (hg : g (s.dev.readyDev w) w.core (slotIx w.task) t = (s.dev.readyDev w).effect w.core (slotIx w.task) t op) :
    Buffers c s w t op := by
  have hix : slotIx w.task ≠ 0 := fun e => hc ((slotIx_capped _).1 e)
  have hfull : ¬ 1024 ≤ ((s.dev.readyDev w).core w.core).wbuf.length := by
    rw [Dev.readyDev_core_self, Dev.readyCore_wbuf]
    omega
  refine ⟨_, hexec.trans (ctlExec_issues .runs g h (.inr rfl)), ?_⟩
  rw [hg, Dev.effect, if_neg hix, if_neg hfull]
  have h := OnlyIssuer.modCore_modCore s w (fun c => { c with wbuf := c.wbuf ++ [⟨t.uid, t.tid, t.pc, op⟩] })
    (fun c => c.modTask (slotIx w.task) (·.step 4))
  rw [Dev.readyCore_wbuf] at h
  exact h

end

/-! ## Loads from the scratchpad (R115, R123) -/

/-- The scratchpad, its rings and its guards are to the control engine what they were before dispatch and fetch. -/
theorem Dev.readyCore_readCheck (d : Dev) (w : Who) (rs : List RingDecl) (g : Bool) (who : Reader) (l : List (Nat × Nat)) :
    (d.readyCore w).readCheck rs g who l = (d.core w.core).readCheck rs g who l :=
  d.readyCore_congr w (fun c => c.readCheck rs g who l) fun _ _ _ _ => rfl

theorem Dev.readyCore_padRead (d : Dev) (w : Who) (a n : Nat) : (d.readyCore w).padRead a n = (d.core w.core).padRead a n :=
  d.readyCore_congr w (fun c => c.padRead a n) fun _ _ _ _ => rfl

theorem Dev.readyCore_writeWaits (d : Dev) (w : Who) (rs : List RingDecl) (l : List (Nat × Nat)) :
    (d.readyCore w).writeWaits rs l = (d.core w.core).writeWaits rs l :=
  d.readyCore_congr w (fun c => c.writeWaits rs l) fun _ _ _ _ => rfl

theorem writes_of_padLoad {c : Instr} {s : State} {w : Who} {t : TaskRun} {xd xa : XReg} {i : BitVec 14} {m : Nat}
    (h : s.dev.issues w t = true) (hc : exec c s = padLoad s w xd xa i m) (hr : padReadable s.dev w (effective t xa i) m = true) :
    Writes c s w (fun u => (u.setReg xd (BitVec.ofNat 64 (leNat (overlay (s.dev.core w.core).wbuf t.uid false
      (effective t xa i) ((s.dev.core w.core).padRead (effective t xa i) m))))).step 4) := by
  simp only [padReadable, Bool.and_eq_true, beq_iff_eq, decide_eq_true_eq, Bool.not_eq_true'] at hr
  obtain ⟨⟨⟨halign, hrange⟩, hwait⟩, hcheck⟩ := hr
  refine writes_of_modTask _ h hc ?_
  simp [ea_eq, halign, Nat.not_lt.2 hrange, hwait, Dev.readyDev_core_self, Dev.readyCore_readCheck, Dev.readyCore_padRead, hcheck,
    Dev.result]

/-- Settles O8. -/
theorem scratchpadLoadsReadTheirBytes : Obligations.ScratchpadLoadsReadTheirBytes := by
  intro s w t xd xa i h y hy hr
  simp only [wide, List.mem_cons, List.not_mem_nil, or_false] at hy
  obtain rfl | rfl := hy
  · exact writes_of_padLoad h rfl hr
  · exact writes_of_padLoad h rfl hr

/-! ## Stores into the scratchpad (R117, R124, R164) -/

/-- A write into the scratchpad: the bytes, the written bits and the poison of its place; beside the scratchpad only the rings' tails
move. -/
theorem Core.padRuns_single (c : Core) (rs : List RingDecl) (a : Nat) (bs : List Byte) (p : Bool) : ∃ pp su,
    c.padRuns rs [(a, bs)] p =
      { c with pad := (bs.zipIdx).foldl (fun m x => Store.set 0#8 m (a + x.2) x.1) c.pad,
               w := (rowsOf a bs.length).foldl (fun m i => Store.set false m i true) c.w,
               padPoison := pp, su := su, progress := true } := by
  obtain ⟨su, h⟩ := Core.advanceTails_parts rs (({ c with progress := true } : Core).padWrite a bs p)
  exact ⟨_, su, h⟩

@[simp] theorem Core.padRuns_tasks (c : Core) (rs : List RingDecl) (a : Nat) (bs : List Byte) (p : Bool) :
    (c.padRuns rs [(a, bs)] p).tasks = c.tasks := by
  obtain ⟨pp, su, h⟩ := c.padRuns_single rs a bs p
  rw [h]

theorem Store.get_foldl_set_true (l : List Nat) (m : Store Bool) (x : Nat) :
    Store.get false (l.foldl (fun m i => Store.set false m i true) m) x = (Store.get false m x || l.contains x) := by
  induction l generalizing m with
  | nil => simp
  | cons i l ih =>
    rw [List.foldl_cons, ih, Store.get_set]
    split
    · next h => simp [h]
    · next h => simp [h]

theorem scratchpadWritesChangeOnlyTheirBytes : ScratchpadWritesChangeOnlyTheirBytes := by
  intro c rs a x bs p
  obtain ⟨pp, su, h⟩ := c.padRuns_single rs a bs p
  rw [h]
  refine ⟨?_, Store.get_foldl_set_true _ c.w x, rfl, rfl, rfl⟩
  exact memFold_get a bs 0 c.pad x

/-- A capped task's store of drained bytes that its write set allows. -/
theorem exec_padStore {s : State} {w : Who} {t : TaskRun} {c : Instr} {xb xa : XReg} {i : BitVec 14} {m : Nat}
    (h : s.dev.issues w t = true) (hexec : exec c s = padStoreExec s w xb xa i m)
    (hw : padWritable s.dev w t (effective t xa i) m = true) (hc : w.task = .capped)
    (hdrained : (s.dev.core w.core).writeWaits (s.dev.rings w.core) [(effective t xa i, m)] = false) :
    ∃ u, exec c s = .next u ∧ OnlyIssuer s u (s.dev.readyDev w) w.core { (s.dev.readyCore w).padRuns (s.dev.rings w.core)
      [(effective t xa i, toLe m (t.reg xb).toNat)] false with tasks := (s.dev.core w.core).tasks.modify 0 (·.step 4) } := by
  obtain ⟨r, hr⟩ := s.dev.issues_capped h hc
  have hix : slotIx w.task = 0 := (slotIx_capped _).2 hc
  simp only [padWritable, Bool.and_eq_true, beq_iff_eq, decide_eq_true_eq, Bool.not_eq_true'] at hw
  obtain ⟨⟨halign, hrange⟩, hset⟩ := hw
  refine ⟨_, hexec.trans (ctlExec_issues .runs _ h (.inr rfl)), ?_⟩
  have hop : (s.dev.readyDev w).doOp w.core ⟨t.uid, t.tid, t.pc, .store (effective t xa i) (toLe m (t.reg xb).toNat)⟩ =
      some ((s.dev.readyDev w).modCore w.core fun c =>
        c.padRuns (s.dev.rings w.core) [(effective t xa i, toLe m (t.reg xb).toNat)] false) := by
    simp [Dev.doOp, Dev.padStore, Dev.readyDev_core_self, Dev.readyCore_writeWaits, hdrained]
  have hstore := OnlyIssuer.modCore_modCore s w
    (fun c => c.padRuns (s.dev.rings w.core) [(effective t xa i, toLe m (t.reg xb).toNat)] false) (Core.stepFirst t.uid)
  rw [Core.stepFirst_of_tasks (by rw [Core.padRuns_tasks, Dev.readyCore_tasks, hr])] at hstore
  simpa [ea_eq, Dev.orFault, halign, hset, Nat.not_lt.2 hrange, hix, Dev.effect_of_doOp hop, hr] using hstore

theorem buffers_of_padStore {s : State} {w : Who} {t : TaskRun} {c : Instr} {xb xa : XReg} {i : BitVec 14} {m : Nat}
    (h : s.dev.issues w t = true) (hexec : exec c s = padStoreExec s w xb xa i m)
    (hw : padWritable s.dev w t (effective t xa i) m = true) (hc : w.task ≠ .capped) (hroom : (s.dev.core w.core).wbuf.length < 1024) :
    Buffers c s w t (.store (effective t xa i) (toLe m (t.reg xb).toNat)) := by
  simp only [padWritable, Bool.and_eq_true, beq_iff_eq, decide_eq_true_eq, Bool.not_eq_true'] at hw
  obtain ⟨⟨halign, hrange⟩, hset⟩ := hw
  refine buffers_of_effect h hc hroom hexec ?_
  simp [ea_eq, Dev.orFault, halign, hset, Nat.not_lt.2 hrange]

theorem scratchpadStoresWriteOrBuffer : ScratchpadStoresWriteOrBuffer := by
  intro s w t xb xa i h y hy hw
  simp only [wideSt, List.mem_cons, List.not_mem_nil, or_false] at hy
  obtain rfl | rfl := hy
  · exact ⟨exec_padStore h rfl hw, buffers_of_padStore h rfl hw⟩
  · exact ⟨exec_padStore h rfl hw, buffers_of_padStore h rfl hw⟩

/-- Settles O9. -/
theorem scratchpadStoresWriteTheirBytesOrBuffer : Obligations.ScratchpadStoresWriteTheirBytesOrBuffer :=
  ⟨scratchpadStoresWriteOrBuffer, scratchpadWritesChangeOnlyTheirBytes⟩

end Sys2Proof.Machine
end

section
/-! SUPPORT. Writes into the unified range while no prefetch window is open: the stale-prefetch check finds nothing (R180), so a write
changes its bytes and what counts and marks it. -/

namespace Sys2Proof.Machine
open Sys2Proof Sys2Proof.Machine.Claims

/-! ## No open windows -/

theorem Store.mem_set {α : Type} [DecidableEq α] {d : α} {m : Store α} {k : Nat} {v : α} {x : Nat × α}
    (h : x ∈ Store.set d m k v) : x = (k, v) ∨ x ∈ m := by
  have herase : ∀ m : Store α, x ∈ Store.erase m k → x ∈ m := by
    intro m
    induction m with
    | nil => exact id
    | cons y r ih =>
      rw [Store.erase]
      split
      · exact fun h => List.mem_cons_of_mem y (ih h)
      · exact fun h => (List.mem_cons.1 h).elim (fun e => e ▸ List.mem_cons_self) fun h => List.mem_cons_of_mem y (ih h)
  have hinsert : ∀ m : Store α, x ∈ Store.insert m k v → x = (k, v) ∨ x ∈ m := by
    intro m
    induction m with
    | nil => exact fun h => .inl (List.mem_singleton.1 h)
    | cons y r ih =>
      rw [Store.insert]
      split
      · exact fun h => (List.mem_cons.1 h)
      · split
        · exact fun h => (List.mem_cons.1 h).imp_right (List.mem_cons_of_mem y)
        · exact fun h => (List.mem_cons.1 h).elim (fun e => .inr (e ▸ List.mem_cons_self)) fun h =>
            (ih h).imp_right (List.mem_cons_of_mem y)
  unfold Store.set at h
  split at h
  · exact .inr (herase m h)
  · exact hinsert m h

theorem Store.get_mem {α : Type} (d : α) (m : Store α) (k : Nat) : (k, Store.get d m k) ∈ m ∨ Store.get d m k = d := by
  induction m with
  | nil => exact .inr rfl
  | cons y r ih =>
    obtain ⟨j, v⟩ := y
    rw [Store.get]
    split
    · next h => exact .inl (h ▸ List.mem_cons_self)
    · exact ih.imp_left (List.mem_cons_of_mem _)

section
variable {d t : Dev}

/-- No core in the engines has an open window, nor has one that a context keeps. -/
theorem noWindows_iff : noWindows d = true ↔
    (∀ x ∈ d.cores, x.2.su.live = []) ∧ ∀ c ∈ d.ctxs, ∀ x ∈ c.2.saved, x.2.su.live = [] := by
  simp [noWindows, List.isEmpty_iff]

theorem noWindows_of_eq (hcores : t.cores = d.cores) (hctxs : t.ctxs = d.ctxs) (h : noWindows d = true) : noWindows t = true := by
  unfold noWindows at h ⊢
  rwa [hcores, hctxs]

theorem core_live_of_noWindows (h : noWindows d = true) (n : Nat) : (d.core n).su.live = [] := by
  obtain hmem | hdefault := Store.get_mem {} d.cores n
  · exact (noWindows_iff.1 h).1 _ hmem
  · rw [Dev.core, hdefault]
    rfl

theorem saved_live_of_noWindows (h : noWindows d = true) (c : Nat) : ∀ x ∈ (d.ctx c).saved, x.2.su.live = [] := by
  obtain hmem | hdefault := Store.get_mem {} d.ctxs c
  · exact (noWindows_iff.1 h).2 _ hmem
  · have hnone : (d.ctx c).saved = [] := congrArg Context.saved hdefault
    simp [hnone]

/-- A change of a core that leaves its stream unit without open windows. -/
theorem noWindows_modCore (h : noWindows d = true) (n : Nat) {f : Core → Core} (hf : (f (d.core n)).su = (d.core n).su) :
    noWindows (d.modCore n f) = true := by
  refine noWindows_iff.2 ⟨fun x hx => ?_, (noWindows_iff.1 h).2⟩
  obtain rfl | hx := Store.mem_set hx
  · exact (congrArg StreamUnit.live hf).trans (core_live_of_noWindows h n)
  · exact (noWindows_iff.1 h).1 x hx

theorem noWindows_modCtx (h : noWindows d = true) (c : Nat) {f : Context → Context} (hf : (f (d.ctx c)).saved = (d.ctx c).saved) :
    noWindows (d.modCtx c f) = true := by
  refine noWindows_iff.2 ⟨(noWindows_iff.1 h).1, fun x hx => ?_⟩
  obtain rfl | hx := Store.mem_set hx
  · intro y hy
    exact saved_live_of_noWindows h c y (hf ▸ hy)
  · exact (noWindows_iff.1 h).2 x hx

end

/-! ## What a write leaves alone -/

section
variable (d : Dev)

/-- Dropping lines changes the comb alone. -/
theorem Dev.combDrop_parts (a n : Nat) :
    ∃ x b, d.combDrop a n = { d with tiers := { d.tiers with comb := x, combBad := b } } := by
  unfold Dev.combDrop
  generalize List.range' (a / 512) ((a + n + 511) / 512 - a / 512) = lines
  induction lines generalizing d with
  | nil => exact ⟨d.tiers.comb, d.tiers.combBad, rfl⟩
  | cons line lines ih =>
    rw [List.foldl_cons]
    obtain ⟨x, b, h⟩ := ih { d with tiers := { d.tiers with
      comb := Store.set [] d.tiers.comb (d.combKey line) ((Store.get [] d.tiers.comb (d.combKey line)).filter (· != line)),
      combBad := if d.tiers.combBad.isEmpty then [] else markWords d.tiers.combBad (lineWords line) false } }
    exact ⟨x, b, h⟩

@[simp] theorem Dev.combDrop_cores (a n : Nat) : (d.combDrop a n).cores = d.cores := by
  obtain ⟨x, b, h⟩ := d.combDrop_parts a n
  rw [h]

@[simp] theorem Dev.combDrop_ctxs (a n : Nat) : (d.combDrop a n).ctxs = d.ctxs := by
  obtain ⟨x, b, h⟩ := d.combDrop_parts a n
  rw [h]

@[simp] theorem Dev.combDrop_mem (a n : Nat) : (d.combDrop a n).mem = d.mem := by
  obtain ⟨x, b, h⟩ := d.combDrop_parts a n
  rw [h]

@[simp] theorem Dev.memPut_cores (a : Nat) (bs : List Byte) (p : Bool) : (d.memPut a bs p).cores = d.cores := rfl
@[simp] theorem Dev.memPut_ctxs (a : Nat) (bs : List Byte) (p : Bool) : (d.memPut a bs p).ctxs = d.ctxs := rfl

@[simp] theorem Dev.countMem_cores (c a n : Nat) (write : Bool) : (d.countMem c a n write).cores = d.cores :=
  (Dev.countMem_reads c d a n write).cores

@[simp] theorem Dev.countMem_mem (c a n : Nat) (write : Bool) : (d.countMem c a n write).mem = d.mem :=
  (Dev.countMem_reads c d a n write).mem

@[simp] theorem Dev.touch_ctxs (a : Nat) : (d.touch a).ctxs = d.ctxs := by
  unfold Dev.touch
  dsimp only
  split <;> rfl

@[simp] theorem Dev.wakeDev_ctxs (dev : Nat) : (d.wakeDev dev).ctxs = d.ctxs := by
  unfold Dev.wakeDev
  repeat' split
  all_goals rfl

@[simp] theorem Dev.wakeDev_cores (dev : Nat) : (d.wakeDev dev).cores = d.cores := (Dev.wakeDev_reads 0 d dev).cores

variable {d}

theorem noWindows_countMem (h : noWindows d = true) (c a n : Nat) (write : Bool) : noWindows (d.countMem c a n write) = true := by
  have htouch : noWindows (d.touch a) = true := noWindows_of_eq (Dev.touch_reads 0 d a).cores (d.touch_ctxs a) h
  have hwake (e : Dev) (he : noWindows e = true) (dev : Nat) : noWindows (e.wakeDev dev) = true :=
    noWindows_of_eq (e.wakeDev_cores dev) (e.wakeDev_ctxs dev) he
  unfold Dev.countMem Dev.countDev
  dsimp only
  repeat' split
  all_goals first
    | exact noWindows_modCtx (hwake _ htouch _) c rfl
    | exact hwake _ htouch _

/-- Nothing is stale. -/
theorem Core.staleHits_of_live {k : Core} (h : k.su.live = []) (rings : List Byte) (a n : Nat) : k.staleHits rings a n = [] := by
  unfold Core.staleHits
  rw [h]
  rfl

theorem Dev.staleCheck_of_noWindows (h : noWindows d = true) (p a n : Nat) : d.staleCheck p a n = d := by
  obtain ⟨hcores, hctxs⟩ := noWindows_iff.1 h
  have hin (e : Dev) (x : Nat × Core) (hx : x ∈ d.cores) (rings : List Byte) (f : Dev → (Nat × Nat) × Nat × Nat → Dev) :
      (x.2.staleHits rings a n).foldl f e = e := by
    rw [Core.staleHits_of_live (hcores x hx)]
    rfl
  have hout (e : Dev) (c : Nat × Context) (hc : c ∈ d.ctxs) (x : Nat × Core) (hx : x ∈ c.2.saved) (rings : List Byte)
      (f : Dev → (Nat × Nat) × Nat × Nat → Dev) : (x.2.staleHits rings a n).foldl f e = e := by
    rw [Core.staleHits_of_live (hctxs c hc x hx)]
    rfl
  refine (foldl_keeps_of_mem id (fun c hc e => ?_) _).trans (foldl_keeps_of_mem id (fun x hx e => ?_) d)
  · split
    · exact foldl_keeps_of_mem id (fun x hx e => hout e c hc x hx _ _) e
    · rfl
  · split
    · exact hin e x hx _ _
    · rfl

/-! ## The three writes without windows -/

theorem Dev.unitWrite_of_noWindows (h : noWindows d = true) (p a : Nat) (bs : List Byte) (poison : Bool) :
    d.unitWrite p a bs poison = (d.memPut a bs poison).combDrop a bs.length :=
  Dev.staleCheck_of_noWindows (noWindows_of_eq (by simp) (by simp) h) p a bs.length

theorem Dev.uniWrite_of_noWindows (h : noWindows d = true) (p c a : Nat) (bs : List Byte) (poison : Bool) :
    d.uniWrite p c a bs poison = ((d.memPut a bs poison).combDrop a bs.length).countMem c a bs.length true :=
  Dev.staleCheck_of_noWindows (noWindows_countMem (noWindows_of_eq (by simp) (by simp) h) c a bs.length true) p a bs.length

theorem noWindows_unitWrite (h : noWindows d = true) (p a : Nat) (bs : List Byte) (poison : Bool) :
    noWindows (d.unitWrite p a bs poison) = true := by
  rw [Dev.unitWrite_of_noWindows h]
  exact noWindows_of_eq (by simp) (by simp) h

theorem noWindows_uniWrite (h : noWindows d = true) (p c a : Nat) (bs : List Byte) (poison : Bool) :
    noWindows (d.uniWrite p c a bs poison) = true := by
  rw [Dev.uniWrite_of_noWindows h]
  exact noWindows_countMem (noWindows_of_eq (by simp) (by simp) h) c a bs.length true

theorem Dev.memByte_of_mem {d e : Dev} (h : e.mem = d.mem) (i : Nat) : e.memByte i = d.memByte i := by
  unfold Dev.memByte
  rw [h]

/-- The bytes after a write by a unit of the module. -/
theorem Dev.unitWrite_memByte (h : noWindows d = true) (p a : Nat) (bs : List Byte) (poison : Bool) (i : Nat) :
    (d.unitWrite p a bs poison).memByte i = if a ≤ i ∧ i < a + bs.length then bs.getD (i - a) 0#8 else d.memByte i := by
  rw [Dev.unitWrite_of_noWindows h, Dev.memByte_of_mem (Dev.combDrop_mem _ _ _), Dev.memPut_memByte]

theorem Dev.uniWrite_memByte (h : noWindows d = true) (p c a : Nat) (bs : List Byte) (poison : Bool) (i : Nat) :
    (d.uniWrite p c a bs poison).memByte i = if a ≤ i ∧ i < a + bs.length then bs.getD (i - a) 0#8 else d.memByte i := by
  rw [Dev.uniWrite_of_noWindows h, Dev.memByte_of_mem (Dev.countMem_mem _ _ _ _ _), Dev.memByte_of_mem (Dev.combDrop_mem _ _ _),
    Dev.memPut_memByte]

/-- A write through the comb: the bytes land, and the cores stay as they are. -/
theorem Dev.uniWriteThrough_of_noWindows (h : noWindows d = true) (p c a : Nat) (bs : List Byte) (poison : Bool) :
    (d.uniWriteThrough p c a bs poison).mem = (d.memPut a bs poison).mem ∧ (d.uniWriteThrough p c a bs poison).cores = d.cores := by
  unfold Dev.uniWriteThrough
  extract_lets e ws _ f
  have hf : f.cores = d.cores ∧ f.ctxs = d.ctxs ∧ f.mem = (d.memPut a bs poison).mem := ⟨rfl, rfl, rfl⟩
  clear_value f
  rw [Dev.staleCheck_of_noWindows (noWindows_countMem (noWindows_of_eq hf.1 hf.2.1 h) c a bs.length true)]
  simp [hf]

end

end Sys2Proof.Machine
end

section
/-! SUPPORT. Loads and stores of the unified range; the proofs of O10 and O11. -/

namespace Sys2Proof.Machine
open Sys2Proof Sys2Proof.Machine.Claims

/-! ## Lines of the data cache and fills (R117, R208, R211) -/

theorem Dev.core_of_cores {d e : Dev} (h : e.cores = d.cores) (n : Nat) : e.core n = d.core n := by
  unfold Dev.core
  rw [h]

/-- A line put into the data cache is its first, and nothing else has changed. -/
theorem Dev.cacheLine_parts (d : Dev) (n line : Nat) (bs : List Byte) : ∃ dc,
    (d.cacheLine n line bs).core n = { d.core n with dcache := (line, bs) :: dc } ∧ (d.cacheLine n line bs).mem = d.mem ∧
      ∀ m, m ≠ n → (d.cacheLine n line bs).core m = d.core m := by
  unfold Dev.cacheLine
  dsimp only
  split
  · exact ⟨_, Dev.modCore_core_self _ _ _, rfl, fun m hm => Dev.modCore_core_ne _ _ hm⟩
  · exact ⟨_, Dev.modCore_core_self _ _ _, rfl, fun m hm => Dev.modCore_core_ne _ _ hm⟩

/-- A line that is read into the data cache, with its miss counted. -/
theorem Dev.fillLine (d : Dev) (n line : Nat) (bs : List Byte) : ∃ e,
    (d.modCore n (fun c => { c with counters := bump c.counters 10 1 })).cacheLine n line bs = e ∧ e.mem = d.mem ∧
      (∃ k dc, e.core n = { d.core n with counters := k, dcache := (line, bs) :: dc }) ∧ ∀ m, m ≠ n → e.core m = d.core m := by
  obtain ⟨dc, hcore, hmem, hne⟩ :=
    (d.modCore n (fun c => { c with counters := bump c.counters 10 1 })).cacheLine_parts n line bs
  rw [Dev.modCore_core_self] at hcore
  exact ⟨_, rfl, hmem, ⟨_, dc, hcore⟩, fun m hm => (hne m hm).trans (Dev.modCore_core_ne d _ hm)⟩

/-- The fill of a line that has a free register and an unmetered device. -/
theorem Dev.combMiss_of_free {d : Dev} {c line : Nat} (hnew : d.tiers.fills.contains ((d.combPlace line).1, line) = false)
    (hroom : (d.tiers.fills.filter (fun f => f.1 == (d.combPlace line).1)).length < 256)
    (hcold : d.hot (d.tm (512 * line / pageBytes)).dev = false) :
    d.combMiss c line = (true, (d.askFill ((d.combPlace line).1, line)).countMem c (512 * line) 512 false) := by
  unfold Dev.combMiss Dev.meter
  simp only [hnew, Nat.not_le.2 hroom, hcold, if_false, Bool.false_eq_true]
  rfl

@[simp] theorem Dev.countMem_fills (d : Dev) (c a n : Nat) (write : Bool) : (d.countMem c a n write).tiers.fills = d.tiers.fills := by
  have hwake (e : Dev) (dev : Nat) : (e.wakeDev dev).tiers = e.tiers := by
    unfold Dev.wakeDev
    repeat' split
    all_goals rfl
  have htouch : (d.touch a).tiers.fills = d.tiers.fills := by
    unfold Dev.touch
    dsimp only
    split <;> rfl
  rw [← htouch, ← hwake (d.touch a) (d.tm (a / pageBytes)).dev]
  unfold Dev.countMem Dev.countDev
  repeat' split
  all_goals rfl

/-- A read of a line that the comb serves. -/
theorem Dev.combFetch_of_hit {d : Dev} {c a : Nat} (h : d.combHit (a / 512) = true) :
    d.combFetch c a = (true, (d.combUse (a / 512)).touch (512 * (a / 512))) := by
  simp [Dev.combFetch, Dev.combLine, h]

theorem Dev.combFetch_of_miss {d : Dev} {c a : Nat} (h : d.combHit (a / 512) = false) :
    d.combFetch c a = (false, (d.combMiss c (a / 512)).2) := by
  simp [Dev.combFetch, Dev.combLine, h]

/-- Aligned bytes of a line are those of memory. -/
theorem Dev.memRead_drop_take (d : Dev) {a m : Nat} (h : a % 64 + m ≤ 64) :
    ((d.memRead (a / 64 * 64) 64).drop (a % 64)).take m = d.memRead a m := by
  refine List.ext_getElem (by simp [Dev.memRead]; omega) fun i h1 h2 => ?_
  simp only [Dev.memRead, List.getElem_take, List.getElem_drop, List.getElem_map, List.getElem_range]
  congr 1
  omega

/-! ## Loads from the unified range -/

section
variable {s : State} {w : Who} {t : TaskRun} {c : Instr} {xd xa : XReg} {i : BitVec 14} {m : Nat}

/-- Nothing refuses a load of readable bytes. -/
theorem orFault_of_uniReadable {k : Dev} (hr : uniReadable s.dev w (effective t xa i) m = true) :
    (s.dev.readyDev w).orFault w.core (slotIx w.task) t [(t.ea xa i % m != 0, 0x0102),
      ((s.dev.readyDev w).fenced w.core (t.ea xa i), 0x0A01),
      (decide (uniTop ≤ t.ea xa i) || !((s.dev.readyDev w).rangeRead ((s.dev.readyDev w).ctxOf w.core) (t.ea xa i) m), 0x0502)]
      (t.ea xa i) true k = k := by
  simp only [uniReadable, Bool.and_eq_true, beq_iff_eq, decide_eq_true_eq, Bool.not_eq_true'] at hr
  obtain ⟨⟨⟨⟨halign, htop⟩, hfence⟩, hmap⟩, -⟩ := hr
  simp [Dev.orFault, ea_eq, halign, hfence, hmap, Nat.not_le.2 htop]

theorem loadWaits_of_uniReadable (hr : uniReadable s.dev w (effective t xa i) m = true) :
    (s.dev.readyDev w).loadWaits w.core (slotIx w.task) true (t.ea xa i) m = false := by
  simp only [uniReadable, Bool.and_eq_true, Bool.not_eq_true'] at hr
  rw [Dev.readyDev_loadWaits, ea_eq, hr.2]

/-- A load from a line of the data cache. -/
theorem writes_of_uniLoad_cached {line : List Byte} (h : s.dev.issues w t = true) (hc : exec c s = uniLoad s w xd xa i m)
    (hr : uniReadable s.dev w (effective t xa i) m = true)
    (hline : (s.dev.core w.core).dcache.find? (fun l => l.1 == effective t xa i / 64) = some (effective t xa i / 64, line)) :
    Writes c s w (fun u => (u.setReg xd (BitVec.ofNat 64 (leNat (overlay (s.dev.core w.core).wbuf t.uid true
      (effective t xa i) ((line.drop (effective t xa i % 64)).take m))))).step 4) := by
  refine writes_of_modTask _ h hc ?_
  dsimp only
  rw [orFault_of_uniReadable hr, loadWaits_of_uniReadable hr]
  simp [ea_eq, Dev.readyDev_core_self, hline, Dev.result]

theorem exec_uniLoad_miss (h : s.dev.issues w t = true) (hc : exec c s = uniLoad s w xd xa i m)
    (hr : uniReadable s.dev w (effective t xa i) m = true)
    (hline : (s.dev.core w.core).dcache.find? (fun l => l.1 == effective t xa i / 64) = none)
    (hmiss : (s.dev.readyDev w).combHit (effective t xa i / 512) = false) :
    exec c s = .next { s with dev := ((s.dev.readyDev w).combMiss (s.dev.ctxOf w.core) (effective t xa i / 512)).2 } := by
  rw [hc, uniLoad, ctlExec_issues .runs _ h (.inr rfl)]
  dsimp only
  rw [orFault_of_uniReadable hr, loadWaits_of_uniReadable hr]
  simp [ea_eq, Dev.readyDev_core_self, hline, Dev.combFetch_of_miss hmiss]

/-- A load of a line that the comb serves: the line enters the data cache, and the bytes the register. -/
theorem exec_uniLoad_hit (h : s.dev.issues w t = true) (hc : exec c s = uniLoad s w xd xa i m)
    (hr : uniReadable s.dev w (effective t xa i) m = true) (hm : effective t xa i % 64 + m ≤ 64)
    (hline : (s.dev.core w.core).dcache.find? (fun l => l.1 == effective t xa i / 64) = none)
    (hhit : (s.dev.readyDev w).combHit (effective t xa i / 512) = true)
    (hclean : (s.dev.readyDev w).memPoisoned (effective t xa i) m = false) :
    ∃ u, exec c s = .next u ∧ u.dev.mem = s.dev.mem ∧
      (u.dev.core w.core).tasks[slotIx w.task]? = some ((t.setReg xd (BitVec.ofNat 64 (leNat (overlay (s.dev.core w.core).wbuf
        t.uid true (effective t xa i) (s.dev.memRead (effective t xa i) m))))).step 4) ∧
      (∃ bs, (u.dev.core w.core).dcache.find? (fun l => l.1 == effective t xa i / 64) = some (effective t xa i / 64, bs) ∧
        bs = s.dev.memRead (effective t xa i / 64 * 64) 64) ∧
      (u.dev.core w.core).pad = (s.dev.core w.core).pad ∧ ∀ m, m ≠ w.core → u.dev.core m = s.dev.core m := by
  have hreads := (Dev.combUse_reads 0 hhit).trans (Dev.touch_reads 0 _ (512 * (effective t xa i / 512)))
  have hfetch := Dev.combFetch_of_hit (c := s.dev.ctxOf w.core) hhit
  generalize hx : ((s.dev.readyDev w).combUse (effective t xa i / 512)).touch (512 * (effective t xa i / 512)) = x at hreads hfetch
  have hcores (k : Nat) : x.core k = (s.dev.readyDev w).core k := Dev.core_of_cores hreads.cores k
  obtain ⟨y, hy, hmem, ⟨k, dc, hcore⟩, hne⟩ := x.fillLine w.core (effective t xa i / 64) (s.dev.memRead (effective t xa i / 64 * 64) 64)
  have hready : y.core w.core = { s.dev.readyCore w with
      counters := k, dcache := (effective t xa i / 64, s.dev.memRead (effective t xa i / 64 * 64) 64) :: dc } := by
    rw [hcore, hcores]
    rfl
  have hexec : exec c s = .next { s with dev := y.result w.core (slotIx w.task) xd (BitVec.ofNat 64 (leNat (overlay
      (y.core w.core).wbuf t.uid true (effective t xa i)
      (((s.dev.memRead (effective t xa i / 64 * 64) 64).drop (effective t xa i % 64)).take m)))) } := by
    rw [hc, uniLoad, ctlExec_issues .runs _ h (.inr rfl)]
    dsimp only
    rw [orFault_of_uniReadable hr, loadWaits_of_uniReadable hr]
    simp [ea_eq, Dev.readyDev_core_self, hline, hfetch, hclean, hy]
  rw [hready, Dev.memRead_drop_take _ hm] at hexec
  refine ⟨_, hexec, hmem.trans (hreads.mem.trans (s.dev.readyDev_mem w)), ?_, ⟨_, ?_, rfl⟩, ?_, fun n hn => ?_⟩
  · simp [Dev.result, Dev.modTask, Core.modTask, hready, s.dev.issues_task h]
  · simp [Dev.result, Dev.modTask, Core.modTask, hready]
  · simp [Dev.result, Dev.modTask, Core.modTask, hready]
  · rw [Dev.result, Dev.modTask, Dev.modCore_core_ne _ _ hn, hne n hn, hcores, Dev.readyDev_core_ne _ _ hn]

end

theorem mod_64_add_le {a m : Nat} (h : a % m = 0) (hm : m ∣ 64) (hpos : 0 < m) : a % 64 + m ≤ 64 := by
  obtain ⟨k, hk⟩ := hm
  have hmod : a % 64 % m = 0 := by rw [hk, Nat.mod_mul_right_mod, h]
  obtain ⟨j, hj⟩ := Nat.dvd_of_mod_eq_zero hmod
  have hlt : m * j < m * k := by
    have := Nat.mod_lt a (show 0 < 64 by decide)
    omega
  have hjk : m * (j + 1) ≤ m * k := Nat.mul_le_mul_left m (Nat.lt_of_mul_lt_mul_left hlt)
  rw [mul_add] at hjk
  omega

theorem uniReadable_aligned {d : Dev} {w : Who} {a m : Nat} (h : uniReadable d w a m = true) : a % m = 0 := by
  simp only [uniReadable, Bool.and_eq_true, beq_iff_eq] at h
  exact h.1.1.1.1

/-- What O10 asks of one load. -/
theorem unifiedLoad_reads {s : State} {w : Who} {t : TaskRun} {c : Instr} {xd xa : XReg} {i : BitVec 14} {m : Nat} (line : List Byte)
    (h : s.dev.issues w t = true) (hc : exec c s = uniLoad s w xd xa i m) (hm : m ∣ 64) (hpos : 0 < m)
    (hr : uniReadable s.dev w (effective t xa i) m = true) :
    ((s.dev.core w.core).dcache.find? (fun l => l.1 == effective t xa i / 64) = some (effective t xa i / 64, line) →
      Writes c s w (fun u => (u.setReg xd (BitVec.ofNat 64 (leNat (overlay (s.dev.core w.core).wbuf t.uid true
        (effective t xa i) ((line.drop (effective t xa i % 64)).take m))))).step 4)) ∧
    ((s.dev.core w.core).dcache.find? (fun l => l.1 == effective t xa i / 64) = none →
      (s.dev.readyDev w).combHit (effective t xa i / 512) = false →
      s.dev.tiers.fills.contains ((s.dev.combPlace (effective t xa i / 512)).1, effective t xa i / 512) = false →
      (s.dev.tiers.fills.filter (fun f => f.1 == (s.dev.combPlace (effective t xa i / 512)).1)).length < 256 →
      s.dev.hot (s.dev.tm (effective t xa i / pageBytes)).dev = false →
      ∃ u, exec c s = .next u ∧ u.dev.mem = s.dev.mem ∧
        (∀ m, u.dev.core m = if m = w.core then s.dev.readyCore w else s.dev.core m) ∧
        u.dev.tiers.fills = s.dev.tiers.fills ++ [((s.dev.combPlace (effective t xa i / 512)).1, effective t xa i / 512)]) ∧
    ((s.dev.core w.core).dcache.find? (fun l => l.1 == effective t xa i / 64) = none →
      (s.dev.readyDev w).combHit (effective t xa i / 512) = true → (s.dev.readyDev w).memPoisoned (effective t xa i) m = false →
      ∃ u, exec c s = .next u ∧ u.dev.mem = s.dev.mem ∧
        (u.dev.core w.core).tasks[slotIx w.task]? = some ((t.setReg xd (BitVec.ofNat 64 (leNat (overlay (s.dev.core w.core).wbuf
          t.uid true (effective t xa i) (s.dev.memRead (effective t xa i) m))))).step 4) ∧
        (∃ bs, (u.dev.core w.core).dcache.find? (fun l => l.1 == effective t xa i / 64) = some (effective t xa i / 64, bs) ∧
          bs = s.dev.memRead (effective t xa i / 64 * 64) 64) ∧
        (u.dev.core w.core).pad = (s.dev.core w.core).pad ∧ ∀ m, m ≠ w.core → u.dev.core m = s.dev.core m) := by
  refine ⟨writes_of_uniLoad_cached h hc hr, fun hline hmiss hnew hroom hcold => ?_, fun hline hhit hclean =>
    exec_uniLoad_hit h hc hr (mod_64_add_le (uniReadable_aligned hr) hm hpos) hline hhit hclean⟩
  have hpage : 512 * (effective t xa i / 512) / pageBytes = effective t xa i / pageBytes := by
    unfold pageBytes
    omega
  have hfills : (s.dev.readyDev w).tiers.fills = s.dev.tiers.fills := s.dev.readyDev_congr w (fun e => e.tiers.fills) fun _ _ _ _ _ _ => rfl
  have hplace : (s.dev.readyDev w).combPlace (effective t xa i / 512) = s.dev.combPlace (effective t xa i / 512) :=
    s.dev.readyDev_congr w (fun e => e.combPlace (effective t xa i / 512)) fun _ _ _ _ _ _ => rfl
  have hhot : (s.dev.readyDev w).hot ((s.dev.readyDev w).tm (512 * (effective t xa i / 512) / pageBytes)).dev = false := by
    rw [hpage]
    exact (s.dev.readyDev_congr w (fun e => e.hot (e.tm (effective t xa i / pageBytes)).dev) fun _ _ _ _ _ _ => rfl).trans hcold
  have hfill := Dev.combMiss_of_free (c := s.dev.ctxOf w.core) (by rwa [hfills, hplace]) (by rwa [hfills, hplace]) hhot
  refine ⟨_, exec_uniLoad_miss h hc hr hline hmiss, ?_, fun n => ?_, ?_⟩
  · rw [hfill, Dev.countMem_mem]
    exact s.dev.readyDev_mem w
  · rw [hfill, Dev.core_of_cores (Dev.countMem_cores _ _ _ _ _)]
    split
    · next hn => rw [hn]; rfl
    · next hn => exact Dev.readyDev_core_ne _ _ hn
  · rw [hfill, Dev.countMem_fills, ← hplace, ← hfills]
    rfl

/-- Settles O10. -/
theorem unifiedLoadsReadTheirBytes : Obligations.UnifiedLoadsReadTheirBytes := by
  intro s w t xd xa i line h y hy hr
  simp only [wideUni, List.mem_cons, List.not_mem_nil, or_false] at hy
  obtain rfl | rfl := hy
  · exact unifiedLoad_reads line h rfl (by decide) (by decide) hr
  · exact unifiedLoad_reads line h rfl (by decide) (by decide) hr

/-! ## Stores into the unified range (R117, R124, R209) -/

theorem noWindows_readyDev {d : Dev} (h : noWindows d = true) (w : Who) : noWindows (d.readyDev w) = true := by
  have hdisp : noWindows (d.dispatched w) = true := by
    unfold Dev.dispatched
    split
    · refine noWindows_modCore h w.core ?_
      obtain ⟨mx, hmx⟩ := (d.core w.core).dispatch_parts
      rw [hmx]
    · exact h
  have hfetch (e : Dev) (he : noWindows e = true) (pc : Nat) : noWindows (e.fetch w.core pc) = true := by
    unfold Dev.fetch
    dsimp only
    split
    · exact he
    · refine noWindows_of_eq (Dev.tableFill_cores _ _) rfl (noWindows_modCore he w.core ?_)
      obtain ⟨ic, k, hk⟩ := Core.fetchLine_parts w.core (e.ctxOf w.core) pc (e.core w.core)
      rw [hk]
  unfold Dev.readyDev
  split
  · exact hfetch _ hdisp _
  · exact hdisp

/-- A capped store without windows: the bytes land, and of the cores only the data cache of its own follows. -/
theorem Dev.uniStore_of_noWindows {d : Dev} (h : noWindows d = true) (n a : Nat) (bs : List Byte) : ∃ dc,
    (d.uniStore n a bs).mem = (d.memPut a bs false).mem ∧
    (d.uniStore n a bs).core n = { d.core n with progress := true, dcache := dc } ∧
    ∀ m, m ≠ n → (d.uniStore n a bs).core m = d.core m := by
  unfold Dev.uniStore
  extract_lets line e
  have he : noWindows e = true := noWindows_modCore h n rfl
  obtain ⟨hmem, hcores⟩ := Dev.uniWriteThrough_of_noWindows he (e.partOf n) (e.ctxOf n) a bs false
  exact ⟨_, hmem, (Dev.core_of_cores hcores n).trans (Dev.modCore_core_self d n _), fun m hm =>
    (Dev.core_of_cores hcores m).trans (Dev.modCore_core_ne d _ hm)⟩

section
variable {s : State} {w : Who} {t : TaskRun} {c : Instr} {xb xa xd : XReg} {i : BitVec 14} {m : Nat}

theorem orFault_of_uniWritable {k : Dev} {a : Nat} (hr : uniWritable s.dev w t a m = true) :
    (s.dev.readyDev w).orFault w.core (slotIx w.task) t ((s.dev.readyDev w).uniFaults w.core t.tid a m) a true k = k := by
  simp only [uniWritable, Bool.and_eq_true, beq_iff_eq, decide_eq_true_eq, Bool.not_eq_true'] at hr
  obtain ⟨⟨⟨⟨halign, htop⟩, hfence⟩, hmap⟩, hset⟩ := hr
  simp [Dev.orFault, Dev.uniFaults, halign, hfence, hmap, hset, Nat.not_le.2 htop]

theorem exec_uniStore (h : s.dev.issues w t = true) (hexec : exec c s = uniStoreExec s w xb xa i m)
    (hw : uniWritable s.dev w t (effective t xa i) m = true) (hc : w.task = .capped) (hwin : noWindows s.dev = true) :
    ∃ u, exec c s = .next u ∧ SameOutside s u ∧
      (u.dev.core w.core).tasks = (s.dev.core w.core).tasks.modify 0 (·.step 4) ∧
      (∀ x, u.dev.memByte x = if effective t xa i ≤ x ∧ x < effective t xa i + m
        then (toLe m (t.reg xb).toNat).getD (x - effective t xa i) 0#8 else s.dev.memByte x) ∧
      (u.dev.core w.core).pad = (s.dev.core w.core).pad ∧ ∀ m, m ≠ w.core → u.dev.core m = s.dev.core m := by
  obtain ⟨r, hr⟩ := s.dev.issues_capped h hc
  have hix : slotIx w.task = 0 := (slotIx_capped _).2 hc
  obtain ⟨dc, hmem, hcore, hne⟩ := Dev.uniStore_of_noWindows (noWindows_readyDev hwin w) w.core (effective t xa i)
    (toLe m (t.reg xb).toNat)
  have heffect : (s.dev.readyDev w).effect w.core 0 t (.gstore (effective t xa i) (toLe m (t.reg xb).toNat)) =
      ((s.dev.readyDev w).uniStore w.core (effective t xa i) (toLe m (t.reg xb).toNat)).modCore w.core (Core.stepFirst t.uid) :=
    Dev.effect_of_doOp rfl
  have hstep := Core.stepFirst_of_tasks (c := { s.dev.readyCore w with progress := true, dcache := dc })
    ((s.dev.readyCore_tasks w).trans hr)
  refine ⟨_, hexec.trans (ctlExec_issues .runs _ h (.inr rfl)), ⟨rfl, rfl⟩, ?_⟩
  dsimp only
  rw [ea_eq, orFault_of_uniWritable hw, hix, heffect, Dev.modCore_core_self, hcore, Dev.readyDev_core_self, hstep]
  refine ⟨by simp [hr], fun x => ?_, s.dev.readyCore_pad w, fun n hn => ?_⟩
  · rw [Dev.memByte_of_mem (Dev.modCore_mem _ _ _), Dev.memByte_of_mem hmem, Dev.memPut_memByte, toLe_length, Dev.readyDev_memByte]
  · rw [Dev.modCore_core_ne _ _ hn, hne n hn, Dev.readyDev_core_ne _ _ hn]

theorem buffers_of_uniStore (h : s.dev.issues w t = true) (hexec : exec c s = uniStoreExec s w xb xa i m)
    (hw : uniWritable s.dev w t (effective t xa i) m = true) (hc : w.task ≠ .capped) (hroom : (s.dev.core w.core).wbuf.length < 1024) :
    Buffers c s w t (.gstore (effective t xa i) (toLe m (t.reg xb).toNat)) := by
  refine buffers_of_effect h hc hroom hexec ?_
  dsimp only
  rw [ea_eq, orFault_of_uniWritable hw]

theorem exec_gatom {fn : BitVec 3} (h : s.dev.issues w t = true) (hc : w.task = .capped) (hatom : (s.dev.core w.core).atom = none)
    (hw : uniWritable s.dev w t (t.reg xa).toNat 8 = true) :
    ∃ u, exec (.gatom w xd xa xb fn) s = .next u ∧ u.dev.mem = s.dev.mem ∧ u.dev.tiers.atomics = s.dev.tiers.atomics ++ [w.core] ∧
      (u.dev.core w.core).atom = some ⟨t.uid, xd.val, (t.reg xa).toNat, t.reg xb, fn.toNat⟩ ∧
      (u.dev.core w.core).tasks = (s.dev.core w.core).tasks := by
  have hatomics : (s.dev.readyDev w).tiers.atomics = s.dev.tiers.atomics :=
    s.dev.readyDev_congr w (fun e => e.tiers.atomics) fun _ _ _ _ _ _ => rfl
  refine ⟨_, ctlExec_issues .stalls _ h (.inl hc), ?_⟩
  dsimp only
  rw [Dev.readyDev_core_self, Dev.readyCore_atom, hatom, Option.isSome_none, if_neg Bool.false_ne_true, orFault_of_uniWritable hw]
  refine ⟨s.dev.readyDev_mem w, congrArg (· ++ [w.core]) hatomics, ?_⟩
  have hcore (f : Core → Core) (x : Tiers) : ({ (s.dev.readyDev w).modCore w.core f with tiers := x } : Dev).core w.core =
      f (s.dev.readyCore w) := Dev.modCore_core_self _ _ f
  rw [hcore]
  exact ⟨rfl, s.dev.readyCore_tasks w⟩

end

/-- Settles O11. -/
theorem unifiedStoresWriteOrBuffer : Obligations.UnifiedStoresWriteOrBuffer := by
  intro s w t xb xa xd i fn h
  refine ⟨fun y hy hw => ?_, exec_gatom h⟩
  simp only [wideUniSt, List.mem_cons, List.not_mem_nil, or_false] at hy
  obtain rfl | rfl := hy
  · exact ⟨exec_uniStore h rfl hw, buffers_of_uniStore h rfl hw⟩
  · exact ⟨exec_uniStore h rfl hw, buffers_of_uniStore h rfl hw⟩

end Sys2Proof.Machine
end

section
/-! SUPPORT. What the module sends: frames, events and records touch the ports, the channels, the black box and the count of free
choices, and nothing else. -/

namespace Sys2Proof.Machine
open Sys2Proof

/-- `e` is `d` after it sent something: the frames sent and waiting, the channels, the records and the count of free choices. -/
def Dev.SameButSent (d e : Dev) : Prop :=
  ∃ tx ports chans bb fi, e = { d with tx := tx, fab := { d.fab with ports := ports }, chans := chans, bb := bb, freeIx := fi }

section
variable {d e f : Dev}

theorem Dev.SameButSent.refl (d : Dev) : d.SameButSent d := ⟨_, _, _, _, _, rfl⟩

theorem Dev.SameButSent.trans (h : d.SameButSent e) (k : e.SameButSent f) : d.SameButSent f := by
  obtain ⟨tx, ports, chans, bb, fi, rfl⟩ := h
  obtain ⟨tx', ports', chans', bb', fi', rfl⟩ := k
  exact ⟨_, _, _, _, _, rfl⟩

/-- What does not look at the output reads the same. -/
theorem Dev.SameButSent.congr {α : Type} (h : d.SameButSent e) (g : Dev → α) (hg : ∀ tx ports chans bb fi,
    g { d with tx := tx, fab := { d.fab with ports := ports }, chans := chans, bb := bb, freeIx := fi } = g d) : g e = g d := by
  obtain ⟨tx, ports, chans, bb, fi, rfl⟩ := h
  exact hg _ _ _ _ _

theorem Dev.SameButSent.ite {c : Prop} [Decidable c] (h : c → d.SameButSent e) (k : ¬c → d.SameButSent f) :
    d.SameButSent (if c then e else f) := by
  split
  · exact h ‹_›
  · exact k ‹_›

theorem Dev.SameButSent.foldl {α : Type} {g : Dev → α → Dev} (h : ∀ d a, Dev.SameButSent d (g d a)) (l : List α) (d : Dev) :
    d.SameButSent (l.foldl g d) := by
  induction l generalizing d with
  | nil => exact .refl d
  | cons a l ih => exact (h d a).trans (ih _)

end

section
variable (d : Dev)

theorem Dev.send_same (t : Tx) : d.SameButSent (d.send t) := ⟨_, _, _, _, _, rfl⟩
theorem Dev.modPort_same (k : Nat) (f : Port → Port) : d.SameButSent (d.modPort k f) := ⟨_, _, _, _, _, rfl⟩
theorem Dev.modChan_same (ch : Nat) (f : Channel → Channel) : d.SameButSent (d.modChan ch f) := ⟨_, _, _, _, _, rfl⟩
theorem Dev.record_same (r : Raise) : d.SameButSent (d.record r) := ⟨_, _, _, _, _, rfl⟩
theorem Dev.freeIx_same (k : Nat) : d.SameButSent { d with freeIx := k } := ⟨_, _, _, _, _, rfl⟩
theorem Dev.bb_same (b : BlackBox) : d.SameButSent { d with bb := b } := ⟨_, _, _, _, _, rfl⟩
theorem Dev.portCnt_same (k i : Nat) : d.SameButSent (d.portCnt k i) := d.modPort_same k _
theorem Dev.leave_same (k : Nat) (t : Tx) : d.SameButSent (d.leave k t) := (d.portCnt_same k 7).trans (Dev.send_same _ t)

theorem Dev.serveOwn_same (n k : Nat) : d.SameButSent (d.serveOwn n k) := by
  induction n generalizing d with
  | zero => exact .refl d
  | succ n ih =>
    unfold Dev.serveOwn
    dsimp only
    split
    · exact .refl d
    · split
      · exact ((d.modPort_same k _).trans (Dev.leave_same _ k _)).trans (ih _)
      · exact .refl d

theorem Dev.sendOn_same (k prio bytes : Nat) (t : Tx) : d.SameButSent (d.sendOn k prio bytes t) :=
  .ite (fun _ => d.leave_same k t) fun _ => (d.modPort_same k _).trans (Dev.serveOwn_same _ _ k)

theorem Dev.sendCmd_same (dst : Nat) (t : Tx) : d.SameButSent (d.sendCmd dst t) := by
  unfold Dev.sendCmd
  split
  · exact d.leave_same _ t
  · exact d.send_same t

theorem Dev.sendEvent_same (ch : Nat) (e : Event) : d.SameButSent (d.sendEvent ch e) := d.sendCmd_same _ _

theorem Dev.emit_same (ch : Nat) (r : Raise) : d.SameButSent (d.emit ch r) :=
  .ite (fun _ => (d.modChan_same ch _).trans (Dev.sendEvent_same _ ch _)) fun _ => d.modChan_same ch _

theorem Dev.tellLost_same (ch : Nat) : d.SameButSent (d.tellLost ch) :=
  .ite (fun _ => ((d.record_same _).trans (Dev.modChan_same _ ch _)).trans (Dev.emit_same _ ch _)) fun _ => .refl d

theorem Dev.raise_same (r : Raise) : d.SameButSent (d.raise r) := by
  unfold Dev.raise
  split
  · exact d.bb_same _
  · split
    · exact (d.record_same r).trans (Dev.emit_same _ _ r)
    · exact d.record_same r

theorem Dev.event_same (code part ctx lcore : Nat) (detail : List Nat) : d.SameButSent (d.event code part ctx lcore detail) :=
  d.raise_same _

theorem Dev.recordOnly_same (code part : Nat) (detail : List Nat) : d.SameButSent (d.recordOnly code part detail) := d.raise_same _

end

/-! ## What a raised code, an event and a context fault leave unchanged -/

section
variable {d e : Dev} (h : d.SameButSent e)
include h

theorem Dev.SameButSent.mem : e.mem = d.mem := h.congr Dev.mem fun _ _ _ _ _ => rfl
theorem Dev.SameButSent.memPoison : e.memPoison = d.memPoison := h.congr Dev.memPoison fun _ _ _ _ _ => rfl
theorem Dev.SameButSent.cores : e.cores = d.cores := h.congr Dev.cores fun _ _ _ _ _ => rfl
theorem Dev.SameButSent.parts : e.parts = d.parts := h.congr Dev.parts fun _ _ _ _ _ => rfl
theorem Dev.SameButSent.ctxs : e.ctxs = d.ctxs := h.congr Dev.ctxs fun _ _ _ _ _ => rfl
theorem Dev.SameButSent.supers : e.supers = d.supers := h.congr Dev.supers fun _ _ _ _ _ => rfl
theorem Dev.SameButSent.tiers : e.tiers = d.tiers := h.congr Dev.tiers fun _ _ _ _ _ => rfl
theorem Dev.SameButSent.queues : e.queues = d.queues := h.congr Dev.queues fun _ _ _ _ _ => rfl
theorem Dev.SameButSent.jobs : e.jobs = d.jobs := h.congr Dev.jobs fun _ _ _ _ _ => rfl
theorem Dev.SameButSent.sec : e.sec = d.sec := h.congr Dev.sec fun _ _ _ _ _ => rfl
theorem Dev.SameButSent.brd : e.brd = d.brd := h.congr Dev.brd fun _ _ _ _ _ => rfl
theorem Dev.SameButSent.core (n : Nat) : e.core n = d.core n := h.congr (fun x => x.core n) fun _ _ _ _ _ => rfl
theorem Dev.SameButSent.part (p : Nat) : e.part p = d.part p := h.congr (fun x => x.part p) fun _ _ _ _ _ => rfl
theorem Dev.SameButSent.ctx (c : Nat) : e.ctx c = d.ctx c := h.congr (fun x => x.ctx c) fun _ _ _ _ _ => rfl
theorem Dev.SameButSent.sup (x : Nat) : e.sup x = d.sup x := h.congr (fun y => y.sup x) fun _ _ _ _ _ => rfl
theorem Dev.SameButSent.queue (q : Nat) : e.queue q = d.queue q := h.congr (fun y => y.queue q) fun _ _ _ _ _ => rfl
theorem Dev.SameButSent.tm (k : Nat) : e.tm k = d.tm k := h.congr (fun y => y.tm k) fun _ _ _ _ _ => rfl
theorem Dev.SameButSent.net (n : Nat) : e.net n = d.net n := h.congr (fun y => y.net n) fun _ _ _ _ _ => rfl
theorem Dev.SameButSent.recv : e.fab.recv = d.fab.recv := h.congr (fun y => y.fab.recv) fun _ _ _ _ _ => rfl
theorem Dev.SameButSent.sendChans : e.fab.send = d.fab.send := h.congr (fun y => y.fab.send) fun _ _ _ _ _ => rfl
theorem Dev.SameButSent.peers : e.fab.peers = d.fab.peers := h.congr (fun y => y.fab.peers) fun _ _ _ _ _ => rfl

end

section
variable (d : Dev) (code part ctx lcore : Nat) (detail : List Nat)

@[simp] theorem Dev.event_mem : (d.event code part ctx lcore detail).mem = d.mem := (d.event_same ..).mem
@[simp] theorem Dev.event_memPoison : (d.event code part ctx lcore detail).memPoison = d.memPoison := (d.event_same ..).memPoison
@[simp] theorem Dev.event_cores : (d.event code part ctx lcore detail).cores = d.cores := (d.event_same ..).cores
@[simp] theorem Dev.event_ctxs : (d.event code part ctx lcore detail).ctxs = d.ctxs := (d.event_same ..).ctxs
@[simp] theorem Dev.event_supers : (d.event code part ctx lcore detail).supers = d.supers := (d.event_same ..).supers
@[simp] theorem Dev.event_tiers : (d.event code part ctx lcore detail).tiers = d.tiers := (d.event_same ..).tiers
@[simp] theorem Dev.event_queues : (d.event code part ctx lcore detail).queues = d.queues := (d.event_same ..).queues
@[simp] theorem Dev.event_jobs : (d.event code part ctx lcore detail).jobs = d.jobs := (d.event_same ..).jobs
@[simp] theorem Dev.event_sec : (d.event code part ctx lcore detail).sec = d.sec := (d.event_same ..).sec
@[simp] theorem Dev.event_core (n : Nat) : (d.event code part ctx lcore detail).core n = d.core n := (d.event_same ..).core n
@[simp] theorem Dev.event_part (p : Nat) : (d.event code part ctx lcore detail).part p = d.part p := (d.event_same ..).part p
@[simp] theorem Dev.event_ctx (c : Nat) : (d.event code part ctx lcore detail).ctx c = d.ctx c := (d.event_same ..).ctx c
@[simp] theorem Dev.event_sup (x : Nat) : (d.event code part ctx lcore detail).sup x = d.sup x := (d.event_same ..).sup x
@[simp] theorem Dev.event_queue (q : Nat) : (d.event code part ctx lcore detail).queue q = d.queue q := (d.event_same ..).queue q
@[simp] theorem Dev.event_tm (k : Nat) : (d.event code part ctx lcore detail).tm k = d.tm k := (d.event_same ..).tm k
@[simp] theorem Dev.event_net (n : Nat) : (d.event code part ctx lcore detail).net n = d.net n := (d.event_same ..).net n
@[simp] theorem Dev.event_recv : (d.event code part ctx lcore detail).fab.recv = d.fab.recv := (d.event_same ..).recv
@[simp] theorem Dev.event_sendChans : (d.event code part ctx lcore detail).fab.send = d.fab.send := (d.event_same ..).sendChans

@[simp] theorem Dev.contextFault_mem : (d.contextFault code part ctx lcore detail).mem = d.mem := d.event_mem ..
@[simp] theorem Dev.contextFault_memPoison : (d.contextFault code part ctx lcore detail).memPoison = d.memPoison := d.event_memPoison ..
@[simp] theorem Dev.contextFault_cores : (d.contextFault code part ctx lcore detail).cores = d.cores := d.event_cores ..
@[simp] theorem Dev.contextFault_core (n : Nat) : (d.contextFault code part ctx lcore detail).core n = d.core n := d.event_core ..
@[simp] theorem Dev.contextFault_ctxs : (d.contextFault code part ctx lcore detail).ctxs = d.ctxs := d.event_ctxs ..
@[simp] theorem Dev.contextFault_ctx (c : Nat) : (d.contextFault code part ctx lcore detail).ctx c = d.ctx c := d.event_ctx ..
@[simp] theorem Dev.contextFault_tiers : (d.contextFault code part ctx lcore detail).tiers = d.tiers := d.event_tiers ..
@[simp] theorem Dev.contextFault_brd : (d.contextFault code part ctx lcore detail).brd = d.brd := d.event_brd ..
@[simp] theorem Dev.contextFault_recv : (d.contextFault code part ctx lcore detail).fab.recv = d.fab.recv := d.event_recv ..
@[simp] theorem Dev.contextFault_sendChans : (d.contextFault code part ctx lcore detail).fab.send = d.fab.send := d.event_sendChans ..
@[simp] theorem Dev.contextFault_part_self : (d.contextFault code part ctx lcore detail).part part = { d.part part with resetDue := true } := by
  simp [Dev.contextFault]
theorem Dev.contextFault_part_ne {p : Nat} (h : p ≠ part) : (d.contextFault code part ctx lcore detail).part p = d.part p := by
  simp [Dev.contextFault, Dev.modPart_part_ne _ _ h]

end
end Sys2Proof.Machine
end

section
/-! SUPPORT. Faults of the control engine, the start, end and wait of tasks (R110 to R130); the proof of O12. -/

namespace Sys2Proof.Machine
open Sys2Proof Sys2Proof.Machine.Claims

/-! ## The abort of a task (R126, R129, R130) -/

/-- An aborted core idles; beside that only its engines, its stream unit, its buffer and the fault it recorded change. -/
theorem Core.abort_parts (c : Core) (uid : Nat) (fi : FaultInfo) (ix : Nat) : ∃ wb mx vx su rt ct,
    c.abort uid fi ix = { c.recordFault fi with
      tasks := [], startNext := none, endl := true, atom := none, wbuf := wb, mx := mx, vx := vx, su := su, retired := rt, counters := ct } := by
  unfold Core.abort
  dsimp only
  obtain ⟨m, hm⟩ := Core.dispatch_parts _
  rw [hm]
  unfold Core.recordFault
  cases hfrec : c.frec <;> simp only [Core.discardSpec, Core.dropHeld, hfrec] <;> exact ⟨_, _, _, _, _, _, rfl⟩

theorem Core.recordFault_of_none {c : Core} (fi : FaultInfo) (h : c.frec = none) : c.recordFault fi = { c with frec := some fi } := by
  simp [Core.recordFault, h]

theorem Core.recordFault_of_ne_none {c : Core} (fi : FaultInfo) (h : c.frec ≠ none) :
    c.recordFault fi = { c with lost := min (c.lost + 1) 255 } := by
  obtain ⟨f, hf⟩ := Option.ne_none_iff_exists'.1 h
  simp [Core.recordFault, hf]

@[simp] theorem Core.recordFault_pad (c : Core) (fi : FaultInfo) : (c.recordFault fi).pad = c.pad := by
  unfold Core.recordFault
  split <;> rfl

/-- The abort of core n, its event and the reset that it asks for: what they leave and what they change (R129, R343). -/
theorem Dev.abort_core_self (d : Dev) (n uid : Nat) (fi : FaultInfo) :
    (d.abort n uid fi).core n = (d.core n).abort uid fi d.freeIx :=
  (Dev.contextFault_core ..).trans (Dev.modCore_core_self d n (fun c => c.abort uid fi d.freeIx))

theorem Dev.abort_core_ne (d : Dev) {n m : Nat} (uid : Nat) (fi : FaultInfo) (h : m ≠ n) : (d.abort n uid fi).core m = d.core m :=
  (Dev.contextFault_core ..).trans (Dev.modCore_core_ne d (fun c => c.abort uid fi d.freeIx) h)

@[simp] theorem Dev.abort_mem (d : Dev) (n uid : Nat) (fi : FaultInfo) : (d.abort n uid fi).mem = d.mem := by
  simp only [Dev.abort, Dev.contextFault_mem]
  rfl

theorem Dev.abort_resetDue (d : Dev) (n uid : Nat) (fi : FaultInfo) : ((d.abort n uid fi).part (d.partOf n)).resetDue = true := by
  simp only [Dev.abort, Dev.contextFault_part_self]

section
variable {s : State} {w : Who} {t : TaskRun} {c : Instr} {code addr : Nat}

/-- A state that differs from another in what the abort of core n does. -/
theorem faultsCapped_of_abort {uni : Bool}
    (hexec : exec c s = .next { s with dev := (s.dev.readyDev w).abort w.core t.uid ⟨code, false, t.tid, t.pc, addr, uni⟩ }) :
    FaultsCapped c s w t code addr := by
  have hself := (s.dev.readyDev w).abort_core_self w.core t.uid ⟨code, false, t.tid, t.pc, addr, uni⟩
  obtain ⟨wb, mx, vx, su, rt, ct, hparts⟩ := (s.dev.readyCore w).abort_parts t.uid ⟨code, false, t.tid, t.pc, addr, uni⟩
    (s.dev.readyDev w).freeIx
  rw [Dev.readyDev_core_self, hparts] at hself
  have hdue := (s.dev.readyDev w).abort_resetDue w.core t.uid ⟨code, false, t.tid, t.pc, addr, uni⟩
  rw [Dev.readyDev_partOf] at hdue
  refine ⟨_, hexec, ⟨rfl, rfl⟩, ?_, ?_, ?_, fun hn => ?_, fun hs => ?_, hdue, ?_, ?_, fun m hm => ?_⟩
  iterate 3 rw [hself]
  · rw [hself, Core.recordFault_of_none _ ((s.dev.readyCore_frec w).trans hn)]
    rfl
  · rw [hself, Core.recordFault_of_ne_none _ ((s.dev.readyCore_frec w).trans_ne hs)]
    exact ⟨s.dev.readyCore_frec w, congrArg (fun n => min (n + 1) 255) (s.dev.readyCore_lost w)⟩
  · simp
  · rw [hself]
    exact (Core.recordFault_pad _ _).trans (s.dev.readyCore_pad w)
  · exact (Dev.abort_core_ne _ _ _ hm).trans (Dev.readyDev_core_ne _ _ hm)

/-- A fault of a capped task aborts it (R129). -/
theorem faultsCapped_of_ctlFault {u : Uncapped} {g : Dev → Nat → Nat → TaskRun → Dev} {uni : Bool} (h : s.dev.issues w t = true)
    (hc : w.task = .capped) (hexec : exec c s = ctlExec s w u g)
    (hg : g (s.dev.readyDev w) w.core (slotIx w.task) t = (s.dev.readyDev w).ctlFault w.core (slotIx w.task) t code addr uni) :
    FaultsCapped c s w t code addr := by
  refine faultsCapped_of_abort (uni := uni) ?_
  rw [hexec, ctlExec_issues u g h (.inl hc), hg, Dev.ctlFault, if_pos ((slotIx_capped _).2 hc)]

/-- A fault of a speculative task is held (R124). -/
theorem holds_of_ctlFault {g : Dev → Nat → Nat → TaskRun → Dev} {uni : Bool} (h : s.dev.issues w t = true)
    (hc : w.task ≠ .capped) (hexec : exec c s = ctlExec s w .runs g)
    (hg : g (s.dev.readyDev w) w.core (slotIx w.task) t = (s.dev.readyDev w).ctlFault w.core (slotIx w.task) t code addr uni) :
    Holds c s w t code addr := by
  refine ⟨_, uni, hexec.trans (ctlExec_issues .runs g h (.inr rfl)), ?_⟩
  rw [hg, Dev.ctlFault, if_neg fun e => hc ((slotIx_capped _).1 e)]
  have ho := OnlyIssuer.modCore s w (fun k => { k with tasks := k.tasks.modify (slotIx w.task) (fun u =>
    { u with held := some ⟨code, false, t.tid, t.pc, addr, uni⟩ }) })
  rw [Dev.readyCore_tasks] at ho
  exact ho

/-- What a fault does to the task in either case. -/
theorem faults_of_ctlFault {g : Dev → Nat → Nat → TaskRun → Dev} {uni : Bool} (h : s.dev.issues w t = true)
    (hexec : exec c s = ctlExec s w .runs g)
    (hg : g (s.dev.readyDev w) w.core (slotIx w.task) t = (s.dev.readyDev w).ctlFault w.core (slotIx w.task) t code addr uni) :
    (w.task = .capped → FaultsCapped c s w t code addr) ∧ (w.task ≠ .capped → Holds c s w t code addr) :=
  ⟨fun hc => faultsCapped_of_ctlFault h hc hexec hg, fun hc => holds_of_ctlFault h hc hexec hg⟩

end

/-! ## Faults of loads, stores and shifts (R114, R115, R120) -/

section
variable {s : State} {w : Who} {t : TaskRun} {c : Instr} {x y : XReg} {i : BitVec 14} {m : Nat}

/-- A capped task is aborted with the fault; a speculative one holds it. -/
def AbortsOrHolds (c : Instr) (s : State) (w : Who) (t : TaskRun) (code addr : Nat) : Prop :=
  (w.task = .capped → FaultsCapped c s w t code addr) ∧ (w.task ≠ .capped → Holds c s w t code addr)

theorem abortsOrHolds_of_padLoad_misaligned (h : s.dev.issues w t = true) (hexec : exec c s = padLoad s w x y i m)
    (ha : effective t y i % m ≠ 0) : AbortsOrHolds c s w t 0x0102 (effective t y i) :=
  faults_of_ctlFault (uni := false) h hexec (by simp [ea_eq, ha])

theorem abortsOrHolds_of_padStore_misaligned (h : s.dev.issues w t = true) (hexec : exec c s = padStoreExec s w x y i m)
    (ha : effective t y i % m ≠ 0) : AbortsOrHolds c s w t 0x0102 (effective t y i) :=
  faults_of_ctlFault (uni := false) h hexec (by simp [ea_eq, Dev.orFault, ha])

theorem abortsOrHolds_of_padLoad_outOfRange (h : s.dev.issues w t = true) (hexec : exec c s = padLoad s w x y i m)
    (ha : effective t y i % m = 0) (hr : padBytes < effective t y i + m) : AbortsOrHolds c s w t 0x0401 (effective t y i) :=
  faults_of_ctlFault (uni := false) h hexec (by simp [ea_eq, ha, hr])

theorem abortsOrHolds_of_padStore_outsideWs (h : s.dev.issues w t = true) (hexec : exec c s = padStoreExec s w x y i m)
    (ha : effective t y i % m = 0) (ho : s.dev.outsideWs w.core t.tid false (effective t y i) m = true) :
    AbortsOrHolds c s w t 0x0103 (effective t y i) :=
  faults_of_ctlFault (uni := false) h hexec (by simp [ea_eq, Dev.orFault, ha, ho])

theorem abortsOrHolds_of_shiftImm {f : Word64 → Nat → Word64} (h : s.dev.issues w t = true) (hexec : exec c s = shiftImm s w x y i f)
    (hi : 64 ≤ i.toNat) : AbortsOrHolds c s w t 0x0101 0 :=
  faults_of_ctlFault (uni := false) h hexec (if_neg (Nat.not_lt.2 hi))

end

theorem controlFaultsAbortOrAreHeld : ControlFaultsAbortOrAreHeld := fun _ _ _ _ _ _ h =>
  ⟨fun ha => ⟨abortsOrHolds_of_padLoad_misaligned h rfl ha, abortsOrHolds_of_padStore_misaligned h rfl ha⟩,
   fun ha => ⟨abortsOrHolds_of_padLoad_misaligned h rfl ha, abortsOrHolds_of_padStore_misaligned h rfl ha⟩,
   fun ha hr => abortsOrHolds_of_padLoad_outOfRange h rfl ha hr,
   fun ha ho => abortsOrHolds_of_padStore_outsideWs h rfl ha ho,
   fun hi => ⟨abortsOrHolds_of_shiftImm h rfl hi, abortsOrHolds_of_shiftImm h rfl hi, abortsOrHolds_of_shiftImm h rfl hi⟩⟩

/-! ## The end of a task (R119, R125) -/

@[simp] theorem Core.settle_tasks (c : Core) : c.settle.tasks = c.tasks := rfl
@[simp] theorem Core.settle_startNext (c : Core) : c.settle.startNext = c.startNext := rfl
@[simp] theorem Core.settle_endl (c : Core) : c.settle.endl = c.endl := rfl

section
variable {s : State} {w : Who} {t : TaskRun} {i : BitVec 14}

/-- The only task of a core ends: its successor is to start, or the layer has ended. -/
theorem exec_tend_last (h : s.dev.issues w t = true) (hc : w.task = .capped) (hl : (s.dev.core w.core).tasks = [t]) (hi : i.toNat < 4) :
    ∃ u, exec (.tend w i) s = .next u ∧ (u.dev.core w.core).tasks = [] ∧
      (u.dev.core w.core).startNext = (if tdSucc (s.dev.coreSec w.core 2) t.tid i.toNat = 0xFFFF then none
        else some (tdSucc (s.dev.coreSec w.core 2) t.tid i.toNat)) ∧
      (u.dev.core w.core).endl = ((s.dev.core w.core).endl || tdSucc (s.dev.coreSec w.core 2) t.tid i.toNat == 0xFFFF) := by
  refine ⟨_, ctlExec_issues .stalls _ h (.inl hc), ?_⟩
  simp [Nat.not_le.2 hi, Dev.readyDev_core_self, hl]

/-- A capped task with no buffered entry and no held fault can go on, and its engine entries are dispatched (R125). -/
theorem Dev.capReady_of_clear {d : Dev} {n : Nat} {v : TaskRun} {r : List TaskRun} (ht : (d.core n).tasks = v :: r)
    (hb : (d.core n).wbuf.any (fun e => e.uid == v.uid) = false) (hh : v.held = none) :
    d.capReady n = (true, d.modCore n Core.dispatch) := by
  simp [Dev.capReady, ht, Dev.drainN_other _ _ _ _ hb, hb, hh]

/-- A task ends and its successor, the first speculative task, caps. -/
theorem exec_tend_successor {v : TaskRun} {r : List TaskRun} (h : s.dev.issues w t = true) (hc : w.task = .capped)
    (hl : (s.dev.core w.core).tasks = t :: v :: r) (hi : i.toNat < 4) (hs : tdSucc (s.dev.coreSec w.core 2) t.tid i.toNat = v.tid)
    (hh : v.held = none) (hb : (s.dev.core w.core).wbuf.any (fun e => e.uid == v.uid) = false) :
    ∃ u, exec (.tend w i) s = .next u ∧ (u.dev.core w.core).tasks = v :: r := by
  refine ⟨_, ctlExec_issues .stalls _ h (.inl hc), ?_⟩
  simp only [Nat.not_le.2 hi, if_false, Dev.readyDev_core_self, Dev.readyDev_coreSec, Dev.readyCore_tasks, hl, hs,
    List.getElem?_cons_succ, List.getElem?_cons_zero, if_true, List.drop_succ_cons, List.drop_zero]
  rw [Dev.capReady_of_clear (v := v) (r := r) (by simp) (by simpa using hb) hh]
  simp

/-! ## The wait at the barrier and for writes (R121, R127) -/

theorem exec_bwait (h : s.dev.issues w t = true) (hc : w.task = .capped) :
    ∃ u, exec (.bwait w i) s = .next u ∧ (u.dev.core w.core).tasks = [{ t with bwait := some i.toNat }] := by
  obtain ⟨r, hr⟩ := s.dev.issues_capped h hc
  refine ⟨_, ctlExec_issues .stalls _ h (.inl hc), ?_⟩
  simp [Dev.readyDev_core_self, Core.discardSpec, hr]

/-- A capped task's instruction is fetched after the dispatch: what it finds issued is what the dispatch left. -/
theorem Dev.readyCore_writesDone (d : Dev) (hc : w.task = .capped) (uid : Nat) :
    (d.readyCore w).writesDone uid = (d.core w.core).dispatch.writesDone uid := by
  have hd : (d.dispatched w).core w.core = (d.core w.core).dispatch := by simp [Dev.dispatched, hc]
  unfold Dev.readyCore Dev.readyDev
  split
  · next u _ =>
    obtain ⟨_, _, _, _, _, hfetch, _⟩ := (d.dispatched w).fetch_parts w.core u.pc
    obtain ⟨ic, k, hline⟩ := Core.fetchLine_parts w.core ((d.dispatched w).ctxOf w.core) u.pc ((d.dispatched w).core w.core)
    rw [hfetch, hline, hd]
    rfl
  · rw [hd]

/-- An instruction of a capped task whose only effect is on the run of the task. -/
theorem writes_of_capped {c : Instr} (f : TaskRun → TaskRun) {u : Uncapped} {g : Dev → Nat → Nat → TaskRun → Dev} (h : s.dev.issues w t = true)
    (hcap : w.task = .capped) (hc : exec c s = ctlExec s w u g)
    (hg : g (s.dev.readyDev w) w.core (slotIx w.task) t = (s.dev.readyDev w).modTask w.core (slotIx w.task) f) : Writes c s w f :=
  let ⟨v, hv, ho⟩ := ctlExec_onlyIssuer (fun c => c.modTask (slotIx w.task) f) u g h (.inl hcap) hg
  ⟨v, hc.trans hv, ho⟩

theorem writes_of_fence (h : s.dev.issues w t = true) (hc : w.task = .capped) (hd : (s.dev.core w.core).dispatch.writesDone t.uid = true) :
    Writes (.fence w) s w (·.step 4) := by
  refine writes_of_capped _ h hc (c := .fence w) rfl (if_pos ?_)
  rw [Dev.readyDev_core_self, s.dev.readyCore_writesDone hc, hd]

theorem exec_fence_waits (h : s.dev.issues w t = true) (hc : w.task = .capped) (hd : (s.dev.core w.core).dispatch.writesDone t.uid = false) :
    ∃ u, exec (.fence w) s = .next u ∧ (u.dev.core w.core).tasks = (s.dev.core w.core).tasks := by
  refine ⟨_, ctlExec_issues .stalls _ h (.inl hc), ?_⟩
  simp [Dev.readyDev_core_self, s.dev.readyCore_writesDone hc, hd]

/-! ## Special registers and the random generator (R113, R153) -/

theorem Dev.readyDev_special (d : Dev) (n sel : Nat) : (d.readyDev w).special n t sel = d.special n t sel :=
  d.readyDev_congr w (fun e => e.special n t sel) fun _ _ _ _ _ _ => rfl

theorem writes_of_spr {xd : XReg} {v : Nat} (h : s.dev.issues w t = true) (hv : s.dev.special w.core t i.toNat = some v) :
    Writes (.spr w xd i) s w (fun u => (u.setReg xd (BitVec.ofNat 64 v)).step 4) := by
  refine writes_of_modTask _ h (c := .spr w xd i) rfl ?_
  simp only [Dev.readyDev_special, hv]
  rfl

theorem writes_of_rng {xd xa xb : XReg} (h : s.dev.issues w t = true) :
    Writes (.rng w xd xa xb) s w (fun u => (u.setReg xd (BitVec.ofNat 64 (genOutput (s.dev.part (s.dev.partOf w.core)).seed
      (s.dev.ctx (s.dev.ctxOf w.core)).stamp.step ((t.reg xa).toNat % 2 ^ 12) ((t.reg xb).toNat % 2 ^ 32)))).step 4) := by
  refine writes_of_modTask _ h (c := .rng w xd xa xb) rfl ?_
  simp only [Dev.readyDev_part, Dev.readyDev_partOf, Dev.readyDev_ctx, Dev.readyDev_ctxOf]
  rfl

/-- The program-abort fault's address is the sign-extended immediate, in 32 bits. -/
theorem signExtend32_toNat (i : BitVec 14) : (i.signExtend 32).toNat = (i.toInt % 2 ^ 32).toNat := by
  rw [BitVec.signExtend, BitVec.toNat_ofInt]
  norm_num

theorem faultsCapped_of_tabt (h : s.dev.issues w t = true) (hc : w.task = .capped) :
    FaultsCapped (.tabt w i) s w t 0x0104 (i.toInt % 2 ^ 32).toNat := by
  rw [← signExtend32_toNat]
  exact faultsCapped_of_ctlFault (uni := false) h hc (c := .tabt w i) rfl rfl

end

theorem Dev.fetchTask_mem (d : Dev) (n tid : Nat) : (d.fetchTask n tid).mem = d.mem := by
  unfold Dev.fetchTask
  dsimp only
  split
  · rfl
  · obtain ⟨_, _, hmem, _⟩ := Dev.cacheLine_parts (d.modCore n (fun c => { c with counters := bump c.counters 10 1 })) n
      (uniTop / 64 + (Config.taskTableAt (d.ctxOf n) (n - d.partBase (d.partOf n)) + 64 * tid) / 64)
      (((d.coreSec n 2).drop (64 * tid)).take 64)
    exact hmem

/-- A task's descriptor: its pc, and its arguments in X1 to X4 (R111). -/
theorem startRun_args (tbl : List Byte) (tid uid : Nat) (k : XReg) (hk : 1 ≤ k.val) (hk4 : k.val ≤ 4) :
    (startRun tbl tid uid).reg k = BitVec.ofNat 64 (tdWord tbl tid (3 + k.val)) := by
  rw [startRun_reg, if_pos ⟨hk, hk4⟩]

/-- Settles O12. -/
theorem tasksStartEndAndWait : Obligations.TasksStartEndAndWait := by
  intro s w t xd xa xb i n tid
  refine ⟨fun hn hs => ?_, fun h hc => ⟨fun hl hi hs => ?_, fun hl hi hs => ?_, fun v r hl hi hs _ hh hb => ?_,
    faultsCapped_of_tabt h hc, exec_bwait h hc, writes_of_fence h hc, exec_fence_waits h hc⟩,
    fun h => ⟨fun v hv => writes_of_spr h hv, writes_of_rng h⟩⟩
  · obtain ⟨hcore, htasks⟩ := taskStart_tasks s.dev n tid (s.dev.uidNext + 1) (fun c => { c with
      startNext := none, progress := true, tasks := c.tasks ++ [startRun (s.dev.coreSec n 2) tid s.dev.uidNext] }) _ fun _ => rfl
    refine ⟨_, exec_taskStart hn hs, s.dev.fetchTask_mem n tid, ?_, rfl, startRun_args _ _ _⟩
    rw [hcore, htasks]
  · obtain ⟨u, hu, ht, hsn, he⟩ := exec_tend_last h hc hl hi
    refine ⟨u, hu, ht, ?_, ?_⟩
    · rw [hsn, if_neg hs]
    · simp [he, hs]
  · obtain ⟨u, hu, ht, hsn, he⟩ := exec_tend_last h hc hl hi
    refine ⟨u, hu, ht, ?_, ?_⟩
    · rw [hsn, if_pos hs]
    · simp [he, hs]
  · exact exec_tend_successor h hc hl hi hs hh hb

end Sys2Proof.Machine
end

section
/-! SUPPORT. Pushes, the mailbox and the engines' status (R67, R104, R113); the stream instructions (R168 to R177); the proof of O13. -/

namespace Sys2Proof.Machine
open Sys2Proof Sys2Proof.Machine.Claims

/-! ## A push and its inline words (R67, R113) -/

section
variable {s : State} {w : Who} {t : TaskRun}

/-- The fetch of an instruction's last inline word. -/
theorem Dev.readyDev_fetch_core (d : Dev) (w : Who) (pc : Nat) : ∃ ic k,
    ((d.readyDev w).fetch w.core pc).core w.core = { d.readyCore w with icache := ic, counters := k } := by
  obtain ⟨_, _, _, _, _, hcore, _⟩ := (d.readyDev w).fetch_parts w.core pc
  obtain ⟨ic, k, hline⟩ := Core.fetchLine_parts w.core ((d.readyDev w).ctxOf w.core) pc ((d.readyDev w).core w.core)
  exact ⟨ic, k, hcore.trans hline⟩

/-- Two changes of the issuing core after such a fetch are seen nowhere else. -/
theorem OnlyIssuer.fetch_modCore_modCore (s : State) (w : Who) (pc : Nat) (f g : Core → Core) :
    OnlyIssuer s { s with dev := (((s.dev.readyDev w).fetch w.core pc).modCore w.core f).modCore w.core g }
      ((s.dev.readyDev w).fetch w.core pc) w.core (g (f (((s.dev.readyDev w).fetch w.core pc).core w.core))) := by
  obtain ⟨i, x, b, k, hready⟩ := s.dev.readyDev_parts w
  obtain ⟨i', x', b', k', hfetch, _, hne⟩ := (s.dev.readyDev w).fetch_parts w.core pc
  have hread := congrArg (fun e : Dev => { e with
    freeIx := s.dev.freeIx, tiers := { e.tiers with comb := s.dev.tiers.comb, combBad := s.dev.tiers.combBad,
                                                    combCnt := s.dev.tiers.combCnt } }) hready
  have hback := congrArg (fun e : Dev => { e with
    cores := s.dev.cores, freeIx := s.dev.freeIx,
    tiers := { e.tiers with comb := s.dev.tiers.comb, combBad := s.dev.tiers.combBad, combCnt := s.dev.tiers.combCnt } }) hfetch
  refine ⟨⟨rfl, rfl⟩, hback.trans hread, rfl, rfl, ?_, fun m hm => ?_⟩
  · simp only [Dev.modCore_core_self]
  · simp only [Dev.modCore_core_ne _ _ hm, hne m hm, Dev.readyDev_core_ne _ _ hm]

theorem Core.specUids_eq {c k : Core} (h : c.tasks = k.tasks) : c.specUids = k.specUids := congrArg (fun l => (l.drop 1).map (·.uid)) h

/-- What reads neither cores nor the comb reads the same after a fetch. -/
theorem Dev.fetch_congr {α : Type} (d : Dev) (n pc : Nat) (g : Dev → α)
    (hg : ∀ (e : Dev) cs i x b k, g { e with cores := cs, freeIx := i, tiers := { e.tiers with comb := x, combBad := b, combCnt := k } } = g e) :
    g (d.fetch n pc) = g d := by
  obtain ⟨i, x, b, k, h, _, _⟩ := d.fetch_parts n pc
  have hold := hg d d.cores i x b k
  calc g (d.fetch n pc) = g { d.fetch n pc with cores := d.cores } := (hg (d.fetch n pc) d.cores (d.fetch n pc).freeIx
        (d.fetch n pc).tiers.comb (d.fetch n pc).tiers.combBad (d.fetch n pc).tiers.combCnt).symm
    _ = g d := by rw [h]; exact hold

theorem Dev.fetch_outsideWs (d : Dev) (n pc m tid : Nat) (uni : Bool) (a b : Nat) :
    (d.fetch n pc).outsideWs m tid uni a b = d.outsideWs m tid uni a b :=
  d.fetch_congr n pc (fun e => e.outsideWs m tid uni a b) fun _ _ _ _ _ _ => rfl

/-- A push stalls neither for the queue's size nor, of a speculative task, for its share (R67, R90, R124). -/
theorem push_goes {n q k m : Nat} (hq : q < n) (h : w.task = .capped ∨ m < k) :
    (decide (n ≤ q) || (slotIx w.task != 0 && decide (k ≤ m))) = false := by
  rcases h with hc | hm
  · simp [Nat.not_le.2 hq, (slotIx_capped _).2 hc]
  · simp [Nat.not_le.2 hq, Nat.not_le.2 hm]

/-- The core with an instruction entered into its matrix queue. -/
def Core.enterMx (o : MatOp) (c : Core) : Core :=
  { c with mx := { c.mx with queue := pushInOrder MatOp.uid c.mx.queue o, nextSeq := c.mx.nextSeq + 1 } }

/-- The core with an instruction entered into its vector queue. -/
def Core.enterVx (o : VecOp) (c : Core) : Core :=
  { c with vx := { c.vx with queue := pushInOrder VecOp.uid c.vx.queue o } }

theorem exec_pushm {a b c e : Word32} (h : s.dev.issues w t = true) (hq : (s.dev.readyCore w).mx.queue.length < 8)
    (hspec : w.task = .capped ∨
      ((s.dev.readyCore w).mx.queue.filter (fun o => (s.dev.readyCore w).specUids.contains o.uid)).length < 4) :
    ∃ u, exec (.pushm w a b c e) s = .next u ∧
      OnlyIssuer s u ((s.dev.readyDev w).fetch w.core (t.pc + 16)) w.core
        ({ (((s.dev.readyDev w).fetch w.core (t.pc + 16)).core w.core).modTask (slotIx w.task) (·.step 20) with
          mx := { (s.dev.readyCore w).mx with
            queue := pushInOrder MatOp.uid (s.dev.readyCore w).mx.queue
              ⟨(s.dev.readyCore w).mx.nextSeq, t.uid, t.tid, t.pc, a.toNat, b.toNat, c.toNat, e.toNat⟩,
            nextSeq := (s.dev.readyCore w).mx.nextSeq + 1 } } : Core).dispatch := by
  obtain ⟨ic, k, hcore⟩ := s.dev.readyDev_fetch_core w (t.pc + 16)
  have hmx : (((s.dev.readyDev w).fetch w.core (t.pc + 16)).core w.core).mx = (s.dev.readyCore w).mx := by rw [hcore]
  have htasks : (((s.dev.readyDev w).fetch w.core (t.pc + 16)).core w.core).tasks = (s.dev.readyCore w).tasks := by rw [hcore]
  refine ⟨_, ctlExec_issues .runs _ h (.inr rfl), ?_⟩
  simp only [hmx, Core.specUids_eq htasks, push_goes hq hspec]
  rw [← hmx]
  exact OnlyIssuer.fetch_modCore_modCore s w (t.pc + 16) (fun x => x.modTask (slotIx w.task) (·.step 20)) fun x => (x.enterMx
    ⟨(((s.dev.readyDev w).fetch w.core (t.pc + 16)).core w.core).mx.nextSeq, t.uid, t.tid, t.pc, a.toNat, b.toNat, c.toNat,
      e.toNat⟩).dispatch

theorem exec_pushv {xs : XReg} {a b : Word32} (h : s.dev.issues w t = true) (hq : (s.dev.readyCore w).vx.queue.length < 16)
    (hspec : w.task = .capped ∨
      ((s.dev.readyCore w).vx.queue.filter (fun o => (s.dev.readyCore w).specUids.contains o.uid)).length < 8)
    (hws : xs.val = 0 ∨ (vecDest ⟨t.uid, t.tid, t.pc, a.toNat, (t.reg xs).toNat % 2 ^ 32⟩).all
      (fun q => !(s.dev.outsideWs w.core t.tid false q.1 q.2)) = true) :
    ∃ u, exec (.pushv w xs a b) s = .next u ∧
      OnlyIssuer s u ((s.dev.readyDev w).fetch w.core (t.pc + 8)) w.core
        { (((s.dev.readyDev w).fetch w.core (t.pc + 8)).core w.core).modTask (slotIx w.task) (·.step 12) with
          vx := { (s.dev.readyCore w).vx with
            queue := pushInOrder VecOp.uid (s.dev.readyCore w).vx.queue
              ⟨t.uid, t.tid, t.pc, a.toNat, if xs.val = 0 then b.toNat else (t.reg xs).toNat % 2 ^ 32⟩ } } := by
  obtain ⟨ic, k, hcore⟩ := s.dev.readyDev_fetch_core w (t.pc + 8)
  have hvx : (((s.dev.readyDev w).fetch w.core (t.pc + 8)).core w.core).vx = (s.dev.readyCore w).vx := by rw [hcore]
  have htasks : (((s.dev.readyDev w).fetch w.core (t.pc + 8)).core w.core).tasks = (s.dev.readyCore w).tasks := by rw [hcore]
  have hset : (if xs.val = 0 then none else (vecDest ⟨t.uid, t.tid, t.pc, a.toNat,
      if xs.val = 0 then b.toNat else (t.reg xs).toNat % 2 ^ 32⟩).find? (fun r =>
      ((s.dev.readyDev w).fetch w.core (t.pc + 8)).outsideWs w.core t.tid false r.1 r.2)) = none := by
    split
    · rfl
    · next hx =>
      refine List.find?_eq_none.2 fun r hr => ?_
      rw [Dev.fetch_outsideWs, Dev.readyDev_outsideWs]
      simpa using List.all_eq_true.1 (hws.resolve_left hx) r hr
  refine ⟨_, ctlExec_issues .runs _ h (.inr rfl), ?_⟩
  simp only [hset, hvx, Core.specUids_eq htasks, push_goes hq hspec]
  rw [← hvx]
  exact OnlyIssuer.fetch_modCore_modCore s w (t.pc + 8) (fun x => x.modTask (slotIx w.task) (·.step 12))
    (Core.enterVx ⟨t.uid, t.tid, t.pc, a.toNat, if xs.val = 0 then b.toNat else (t.reg xs).toNat % 2 ^ 32⟩)

/-! ## The mailbox and the status words (R54, R104) -/

theorem exec_mvr {xd : XReg} {v : Word32} {r : List Word32} (h : s.dev.issues w t = true) (hc : w.task = .capped)
    (hm : (s.dev.readyCore w).vx.mailbox = v :: r) :
    ∃ u, exec (.mvr w xd) s = .next u ∧ OnlyIssuer s u (s.dev.readyDev w) w.core
      { (s.dev.readyCore w).modTask 0 (fun q => (q.setReg xd (BitVec.ofNat 64 v.toNat)).step 4) with
        vx := { (s.dev.readyCore w).vx with mailbox := r, mailOf := (s.dev.readyCore w).vx.mailOf.drop 1 } } := by
  refine ⟨_, ctlExec_issues .stalls _ h (.inl hc), ?_⟩
  simp only [Dev.readyDev_core_self, hm, (slotIx_capped _).2 hc]
  rw [BitVec.ofNat_toNat]
  exact OnlyIssuer.modCore_modCore s w (fun c => { c with vx := { c.vx with mailbox := r, mailOf := c.vx.mailOf.drop 1 } }) fun c =>
    c.modTask 0 (fun q => (q.setReg xd (v.setWidth 64)).step 4)

/-- A change of the flags after all the others (R54). -/
theorem flagsOf_append_clear (base : BitVec 12) (log : List FlagChg) (uid : Nat) (clr : BitVec 12) :
    flagsOf base (log ++ [⟨uid, 0#12, clr⟩]) = flagsOf base log &&& ~~~clr := by
  simp [flagsOf, List.foldl_append]

/-- The w1c bits of the vector engine's flags are 11 to 8 and 4 to 0. -/
theorem clearMask_vector (x : Word64) : BitVec.ofNat 12 (x.toNat % 4096 / 256 * 256 + x.toNat % 32) = BitVec.ofNat 12 x.toNat &&& 0xF1F#12 := by
  refine BitVec.eq_of_getLsbD_eq fun i hi => ?_
  have hlow : x.toNat % 32 < 2 ^ 8 := by omega
  have hmask : ∀ j < 12, Nat.testBit 0xF1F j = (decide (j < 5) || decide (8 ≤ j)) := by decide
  rw [Nat.mul_comm, BitVec.getLsbD_and]
  simp only [BitVec.getLsbD_ofNat, hi, decide_true, Bool.true_and, Nat.testBit_two_pow_mul_add (x.toNat % 4096 / 256) hlow i]
  rw [show (32 : Nat) = 2 ^ 5 from rfl, show (4096 : Nat) = 2 ^ 12 from rfl, show (256 : Nat) = 2 ^ 8 from rfl, Nat.testBit_div_two_pow,
    Nat.testBit_mod_two_pow, Nat.testBit_mod_two_pow, hmask i hi]
  interval_cases i <;> simp

/-- Those of the matrix engine's are 4 to 0. -/
theorem clearMask_matrix (x : Word64) : BitVec.ofNat 12 (x.toNat % 32) = BitVec.ofNat 12 x.toNat &&& 0x01F#12 := by
  refine BitVec.eq_of_getLsbD_eq fun i hi => ?_
  rw [BitVec.getLsbD_and]
  simp only [BitVec.getLsbD_ofNat, hi, decide_true, Bool.true_and]
  have hmask : ∀ j < 12, Nat.testBit 0x01F j = decide (j < 5) := by decide
  rw [show (32 : Nat) = 2 ^ 5 from rfl, Nat.testBit_mod_two_pow, hmask i hi]
  interval_cases i <;> simp

theorem exec_estat_vector {xd xs : XReg} (h : s.dev.issues w t = true) (hc : w.task = .capped) :
    ∃ u m, exec (.estat w xd xs 1#14) s = .next u ∧ OnlyIssuer s u (s.dev.readyDev w) w.core
        { (s.dev.readyCore w).modTask 0 (fun q => (q.setReg xd (BitVec.ofNat 64 (s.dev.readyCore w).shownVx.status)).step 4) with
          vx := { (s.dev.readyCore w).vx with flagLog := m } } ∧
      (u.dev.core w.core).vx.flags = (s.dev.readyCore w).vx.flags &&& ~~~(BitVec.ofNat 12 (t.reg xs).toNat &&& 0xF1F#12) := by
  have ho := OnlyIssuer.modCore_modCore s w (fun c => { c with vx := c.vx.clear t.uid (t.reg xs).toNat })
    fun c => c.modTask 0 (fun q => (q.setReg xd (BitVec.ofNat 64 (s.dev.readyCore w).shownVx.status)).step 4)
  refine ⟨_, _, (ctlExec_issues .stalls _ h (.inl hc)).trans ?_, ho, ?_⟩
  · simp only [Dev.readyDev_core_self, (slotIx_capped _).2 hc]
    rfl
  · simp only [Dev.modCore_core_self]
    exact (flagsOf_append_clear _ _ _ _).trans (by rw [clearMask_vector]; rfl)

theorem exec_estat_matrix {xd xs : XReg} (h : s.dev.issues w t = true) (hc : w.task = .capped) :
    ∃ u m, exec (.estat w xd xs 0#14) s = .next u ∧ OnlyIssuer s u (s.dev.readyDev w) w.core
        { (s.dev.readyCore w).modTask 0 (fun q => (q.setReg xd (BitVec.ofNat 64 (s.dev.readyCore w).shownMx.status)).step 4) with
          mx := { (s.dev.readyCore w).mx with flagLog := m } } ∧
      (u.dev.core w.core).mx.flags = (s.dev.readyCore w).mx.flags &&& ~~~(BitVec.ofNat 12 (t.reg xs).toNat &&& 0x01F#12) := by
  have ho := OnlyIssuer.modCore_modCore s w (fun c => { c with mx := c.mx.clear t.uid (t.reg xs).toNat })
    fun c => c.modTask 0 (fun q => (q.setReg xd (BitVec.ofNat 64 (s.dev.readyCore w).shownMx.status)).step 4)
  refine ⟨_, _, (ctlExec_issues .stalls _ h (.inl hc)).trans ?_, ho, ?_⟩
  · simp only [Dev.readyDev_core_self, (slotIx_capped _).2 hc]
    rfl
  · simp only [Dev.modCore_core_self]
    exact (flagsOf_append_clear _ _ _ _).trans (by rw [clearMask_matrix]; rfl)

end

/-- Settles O13. -/
theorem pushesAndMailboxReads : Obligations.PushesAndMailboxReads := by
  intro s w t xd xs a b c e v r h
  exact ⟨exec_pushm h, fun hq hspec hws => exec_pushv (b := b) h hq hspec hws,
    fun hc => ⟨exec_mvr h hc, exec_estat_vector h hc, exec_estat_matrix h hc⟩⟩

end Sys2Proof.Machine
end

section
/-! SUPPORT. The stream instructions of speculative and of capped tasks (R124, R168 to R177); the proof of O21. -/

namespace Sys2Proof.Machine
open Sys2Proof Sys2Proof.Machine.Claims

/-! ## What the dispatch leaves of the matrix engine -/

/-- Dispatch moves instructions from the queue into the units' slots, and changes no other part of the engine (R67). -/
theorem Core.dispatchN_mx (k : Nat) (c : Core) : ∃ q a dr al, (Core.dispatchN k c).mx =
    { c.mx with queue := q, array := a, drainer := dr, aligner := al } := by
  induction k generalizing c with
  | zero => exact ⟨_, _, _, _, rfl⟩
  | succ k ih =>
    unfold Core.dispatchN
    split
    · exact ⟨_, _, _, _, rfl⟩
    · next o rest _ =>
      split
      · exact ⟨_, _, _, _, rfl⟩
      · split
        · split
          · exact ih { c with mx := { c.mx with queue := rest, array := some o } }
          · exact ⟨_, _, _, _, rfl⟩
        · split
          · exact ih { c with mx := { c.mx with queue := rest, drainer := some o } }
          · exact ⟨_, _, _, _, rfl⟩
        · split
          · exact ih { c with mx := { c.mx with queue := rest, aligner := some o } }
          · exact ⟨_, _, _, _, rfl⟩
        · exact ⟨_, _, _, _, rfl⟩

theorem Core.dispatch_mx (c : Core) : ∃ q a dr al, c.dispatch.mx =
    { c.mx with queue := q, array := a, drainer := dr, aligner := al } := c.dispatchN_mx 8

theorem Core.dispatch_banks (c : Core) : c.dispatch.mx.bankA = c.mx.bankA ∧ c.dispatch.mx.bankB = c.mx.bankB := by
  obtain ⟨q, a, dr, al, h⟩ := c.dispatch_mx
  rw [h]
  exact ⟨rfl, rfl⟩

theorem Dev.readyCore_banks (d : Dev) (w : Who) :
    (d.readyCore w).mx.bankA = (d.core w.core).mx.bankA ∧ (d.readyCore w).mx.bankB = (d.core w.core).mx.bankB := by
  have hd : ((d.dispatched w).core w.core).mx.bankA = (d.core w.core).mx.bankA ∧
      ((d.dispatched w).core w.core).mx.bankB = (d.core w.core).mx.bankB := by
    rw [Dev.dispatched_core]
    split
    · exact Core.dispatch_banks _
    · exact ⟨rfl, rfl⟩
  unfold Dev.readyCore Dev.readyDev
  split
  · next u _ =>
    obtain ⟨_, _, _, _, _, hfetch, _⟩ := (d.dispatched w).fetch_parts w.core u.pc
    obtain ⟨ic, k, hline⟩ := Core.fetchLine_parts w.core ((d.dispatched w).ctxOf w.core) u.pc ((d.dispatched w).core w.core)
    rw [hfetch, hline]
    exact hd
  · exact hd

/-! ## A capped task's operation on its own stream unit -/

section
variable {s : State} {w : Who} {t : TaskRun} {c : Instr} {g : Dev → Nat → Nat → TaskRun → Dev} {op : BufOp}

/-- An operation that changes the stream unit of the issuing core alone: the task goes on. -/
theorem wentOn_of_doOp {e : Dev} {su : StreamUnit} {pr : Bool} (h : s.dev.issues w t = true) (hc : w.task = .capped)
    (hexec : exec c s = ctlExec s w .runs g)
    (hg : g (s.dev.readyDev w) w.core (slotIx w.task) t = (s.dev.readyDev w).effect w.core (slotIx w.task) t op)
    (hop : (s.dev.readyDev w).doOp w.core ⟨t.uid, t.tid, t.pc, op⟩ = some e) (hcores : ∃ cs, e = { s.dev.readyDev w with cores := cs })
    (hself : e.core w.core = { s.dev.readyCore w with su := su, progress := pr })
    (hne : ∀ m, m ≠ w.core → e.core m = (s.dev.readyDev w).core m) :
    ∃ u, exec c s = .next u ∧ WentOn s u w ∧ (u.dev.core w.core).su = su := by
  obtain ⟨r, hr⟩ := s.dev.issues_capped h hc
  refine ⟨_, hexec.trans (ctlExec_issues .runs g h (.inr rfl)), ?_⟩
  have htasks : (e.core w.core).tasks = t :: r := by rw [hself, ← hr]; exact s.dev.readyCore_tasks w
  have hcore : (e.modCore w.core (Core.stepFirst t.uid)).core w.core = { e.core w.core with tasks := t.step 4 :: r } := by
    rw [Dev.modCore_core_self, Core.stepFirst_of_tasks htasks]
  rw [hg, (slotIx_capped _).2 hc, Dev.effect_of_doOp hop]
  have hissuer : OnlyIssuer s { s with dev := e.modCore w.core (Core.stepFirst t.uid) } (s.dev.readyDev w) w.core
      { e.core w.core with tasks := t.step 4 :: r } := by
    refine .of_cores s w ?_ hcore fun m hm => (Dev.modCore_core_ne _ _ hm).trans (hne m hm)
    obtain ⟨cs, rfl⟩ := hcores
    exact ⟨_, rfl⟩
  refine ⟨⟨?_, ?_, ?_, ?_, ?_, ?_⟩, ?_⟩
  · rw [hcore]
    exact hissuer
  · rw [hcore, hr]
    rfl
  · rw [hcore, hself]
    exact s.dev.readyCore_pad w
  · rw [hcore, hself]
    exact s.dev.readyCore_vx w
  · rw [hcore, hself]
    exact (s.dev.readyCore_banks w).1
  · rw [hcore, hself]
    exact (s.dev.readyCore_banks w).2
  · rw [hcore, hself]

/-- The same for an operation that is one change of the stream unit. -/
theorem wentOn_of_modSu {f : Core → Core} {su : StreamUnit} {pr : Bool} (h : s.dev.issues w t = true) (hc : w.task = .capped)
    (hexec : exec c s = ctlExec s w .runs g)
    (hg : g (s.dev.readyDev w) w.core (slotIx w.task) t = (s.dev.readyDev w).effect w.core (slotIx w.task) t op)
    (hop : (s.dev.readyDev w).doOp w.core ⟨t.uid, t.tid, t.pc, op⟩ = some ((s.dev.readyDev w).modCore w.core f))
    (hf : f (s.dev.readyCore w) = { s.dev.readyCore w with su := su, progress := pr }) :
    ∃ u, exec c s = .next u ∧ WentOn s u w ∧ (u.dev.core w.core).su = su :=
  wentOn_of_doOp h hc hexec hg hop ⟨_, rfl⟩ ((Dev.modCore_core_self _ _ f).trans hf) fun _ hm => Dev.modCore_core_ne _ f hm

end

/-! ## Windows, semaphores and waits of a capped task (R168, R172, R177) -/

section
variable {s : State} {w : Who} {t : TaskRun} {xa : XReg} {i : BitVec 14}

theorem effect_of_imageOp {d : Dev} {n ix : Nat} {a : Nat} {op : BufOp} (hi : i.toNat < 32) (ha : a % 32 = 0) (hr : a + 32 ≤ padBytes) :
    d.orFault n ix t [(decide (32 ≤ i.toNat), 0x0101), (a % 32 != 0, 0x0102), (decide (padBytes < a + 32), 0x0401)] a false
      (d.effect n ix t op) = d.effect n ix t op := by
  simp [Dev.orFault, Nat.not_le.2 hi, ha, Nat.not_lt.2 hr]

theorem exec_wclose (h : s.dev.issues w t = true) (hc : w.task = .capped) (hi : i.toNat < 32) :
    ∃ u, exec (.wclose w i) s = .next u ∧ WentOn s u w ∧ (u.dev.core w.core).su = (s.dev.core w.core).su.closeWindow i.toNat := by
  refine wentOn_of_modSu (pr := true) (op := .wclose i.toNat)
    (f := fun c => { c with progress := true, su := c.su.closeWindow i.toNat }) h hc (c := .wclose w i) rfl ?_ rfl ?_
  · simp [Dev.orFault, Nat.not_le.2 hi]
  · rw [s.dev.readyCore_su w]

theorem writes_of_swait (h : s.dev.issues w t = true) (hc : w.task = .capped) (hi : i.toNat < 32)
    (hd : Store.get none (s.dev.core w.core).su.desc i.toNat = none) (hs : Store.get none (s.dev.core w.core).su.shadow i.toNat = none) :
    Writes (.swait w i) s w (·.step 4) := by
  refine writes_of_capped _ h hc (c := .swait w i) rfl ?_
  simp [Nat.not_le.2 hi, Dev.readyDev_core_self, hd, hs]
  rfl

theorem exec_semw (h : s.dev.issues w t = true) (hc : w.task = .capped) (hi : i.toNat < 64)
    (hk : (t.reg xa).toNat % 2 ^ 16 ≤ Store.get 0 (s.dev.core w.core).su.sem i.toNat) :
    ∃ u, exec (.semw w xa i) s = .next u ∧
      (∀ k, Store.get 0 (u.dev.core w.core).su.sem k =
        if k = i.toNat then Store.get 0 (s.dev.core w.core).su.sem k - (t.reg xa).toNat % 2 ^ 16
        else Store.get 0 (s.dev.core w.core).su.sem k) ∧
      (u.dev.core w.core).tasks = (s.dev.core w.core).tasks.modify 0 (·.step 4) := by
  have hk' : ¬ Store.get 0 (s.dev.core w.core).su.sem i.toNat < (t.reg xa).toNat % 65536 := Nat.not_lt.2 hk
  refine ⟨_, ctlExec_issues .stalls _ h (.inl hc), ?_⟩
  simp only [Dev.readyDev_core_self, Dev.readyCore_su, Nat.not_le.2 hi, hk', if_false, (slotIx_capped _).2 hc, Dev.advance,
    Dev.modTask, Dev.modCore_core_self]
  refine ⟨fun k => ?_, congrArg (fun l : List TaskRun => l.modify 0 (·.step 4)) (s.dev.readyCore_tasks w)⟩
  refine (Store.get_set ..).trans ?_
  split
  · next hki =>
      rw [hki]
      rfl
  · rfl

theorem streamInstructionsTakeEffectOrBuffer : StreamInstructionsTakeEffectOrBuffer := by
  intro s w t xa i h
  refine ⟨fun hc hroom => ⟨fun hi ha hr => ⟨?_, ?_⟩, fun hi => ?_, fun hi => ?_⟩,
    fun hc => ⟨fun hi => ?_, writes_of_swait h hc, exec_semw h hc⟩⟩
  · exact buffers_of_effect h hc hroom (c := .sarm w xa i) rfl (effect_of_imageOp hi ha hr)
  · exact buffers_of_effect h hc hroom (c := .wopen w xa i) rfl (effect_of_imageOp hi ha hr)
  · exact buffers_of_effect h hc hroom (c := .wclose w i) rfl (by simp [Dev.orFault, Nat.not_le.2 hi])
  · exact buffers_of_effect h hc hroom (c := .sems w xa i) rfl (by simp [Dev.orFault, Nat.not_le.2 hi])
  · obtain ⟨u, hu, hwent, hsu⟩ := exec_wclose h hc hi
    exact ⟨u, hu, hsu, hwent.2.1⟩

/-! ## Arming, opening and signalling (R168, R169, R177) -/

theorem Dev.readyDev_armFaults (d : Dev) (w : Who) (n tid : Nat) (img : List Nat) :
    (d.readyDev w).armFaults n tid img = d.armFaults n tid img :=
  d.readyDev_congr w (fun e => e.armFaults n tid img) fun _ _ _ _ _ _ => rfl

theorem Dev.readyCore_imgPoisoned (d : Dev) (w : Who) (a : Nat) : (d.readyCore w).imgPoisoned a = (d.core w.core).imgPoisoned a :=
  d.readyCore_congr w (fun c => c.imgPoisoned a) fun _ _ _ _ => rfl

theorem Dev.readyCore_imgAt (d : Dev) (w : Who) (a : Nat) : (d.readyCore w).imgAt a = (d.core w.core).imgAt a :=
  d.readyCore_congr w (fun c => c.imgAt a) fun _ _ _ _ => rfl

/-- The operation of an arm or of a window's opening whose image is not poisoned. -/
theorem Dev.doOp_sarm {d : Dev} {n uid tid pc k a : Nat} (hp : (d.core n).imgPoisoned a = false) :
    d.doOp n ⟨uid, tid, pc, .sarm k a⟩ = some (d.arm n uid tid pc k ((d.core n).imgAt a)) := by
  simp [Dev.doOp, hp]

theorem Dev.doOp_wopen {d : Dev} {n uid tid pc k a : Nat} (hp : (d.core n).imgPoisoned a = false) :
    d.doOp n ⟨uid, tid, pc, .wopen k a⟩ = some (d.openWindow n k ((d.core n).imgAt a) (some (uid, tid)) pc) := by
  simp [Dev.doOp, hp]

/-- A stream unit that has been armed at entry k: the entry when it is idle, else its shadow (R172). -/
def StreamUnit.armed (su : StreamUnit) (k : Nat) (sd : SDesc) : StreamUnit :=
  if (Store.get none su.desc k).isSome then { su with shadow := Store.set none su.shadow k (some sd) }
  else { su with desc := Store.set none su.desc k (some sd) }

/-- The descriptor of an image armed on core n at the present stamp (R143, R169). -/
def Dev.armedDesc (d : Dev) (n uid tid pc : Nat) (img : List Nat) : SDesc :=
  { img := img, uid := uid, tid := tid, pc := pc, ctx := d.ctxOf n, step := (d.ctx (d.ctxOf n)).stamp.step,
    phase := (d.ctx (d.ctxOf n)).stamp.phase }

/-- An arm that passes every check. -/
theorem Dev.arm_of_ok {d : Dev} {n uid tid pc k : Nat} {img : List Nat} (hf : d.armFaults n tid img = [])
    (hfree : Store.get none (d.core n).su.desc k = none ∨ Store.get none (d.core n).su.shadow k = none) :
    d.arm n uid tid pc k img =
      d.modCore n (fun c => { c with progress := true, su := c.su.armed k (d.armedDesc n uid tid pc img) }) := by
  have hbusy : ((Store.get none (d.core n).su.desc k).isSome && (Store.get none (d.core n).su.shadow k).isSome) = false := by
    rcases hfree with h | h <;> simp [h]
  simp only [Dev.arm, hf, hbusy, List.append_nil, lowestFault, List.foldl_nil, Bool.false_eq_true, if_false]
  simp only [Dev.modCore]
  congr 2

theorem exec_sarm (h : s.dev.issues w t = true) (hc : w.task = .capped) (hi : i.toNat < 32) (ha : (t.reg xa).toNat % 32 = 0)
    (hr : (t.reg xa).toNat + 32 ≤ padBytes) (hp : (s.dev.core w.core).imgPoisoned (t.reg xa).toNat = false)
    (hf : s.dev.armFaults w.core t.tid ((s.dev.core w.core).imgAt (t.reg xa).toNat) = [])
    (hfree : Store.get none (s.dev.core w.core).su.desc i.toNat = none ∨ Store.get none (s.dev.core w.core).su.shadow i.toNat = none) :
    ∃ u, exec (.sarm w xa i) s = .next u ∧ WentOn s u w ∧ (u.dev.core w.core).su = (s.dev.core w.core).su.armed i.toNat
      (s.dev.armedDesc w.core t.uid t.tid t.pc ((s.dev.core w.core).imgAt (t.reg xa).toNat)) := by
  have hop := Dev.doOp_sarm (d := s.dev.readyDev w) (n := w.core) (uid := t.uid) (tid := t.tid) (pc := t.pc) (k := i.toNat)
    ((s.dev.readyCore_imgPoisoned w _).trans hp)
  rw [Dev.readyDev_core_self, Dev.readyCore_imgAt, Dev.arm_of_ok ((s.dev.readyDev_armFaults w _ _ _).trans hf)
    (by rwa [Dev.readyDev_core_self, Dev.readyCore_su]), Dev.armedDesc, Dev.readyDev_ctxOf, Dev.readyDev_ctx] at hop
  refine wentOn_of_modSu (pr := true) h hc (c := .sarm w xa i) rfl (effect_of_imageOp hi ha hr) hop ?_
  rw [s.dev.readyCore_su w]
  rfl

/-- A window of a ring, without a version: it opens when its extent lies in the partition and no window of the core is open (R177). -/
theorem Dev.openWindow_of_ok {d : Dev} {n k pc : Nat} {img : List Nat} {o : Nat × Nat} {r : RingDecl} (hres : winReserved img = false)
    (hch : winChunks img ≠ 0) (hv : winVreq img = false) (hring : d.ringOf n (winRing img) = some r) (hcls : r.pcls = 3)
    (hout : d.uniOutside (d.partOf n) [((winExtent img r.slotBytes).1,
      ((winExtent img r.slotBytes).2 - (winExtent img r.slotBytes).1).toNat)] = none)
    (hwin : (d.core n).su.win = []) :
    d.openWindow n k img (some o) pc = (d.modCore n (fun c => { c with progress := true, su := c.su.closeWindow k })).modCore n (fun c =>
      { c with su := { c.su with win := Store.set none c.su.win k (some
        { img := img, base := winBase img, owner := some o, pc := pc, ctx := d.ctxOf n }) } }) := by
  have hlive : ((d.core n).su.closeWindow k).live = [] := by simp [StreamUnit.closeWindow, hwin, Store.get, StreamUnit.live]
  have hring' : ((d.modCore n (fun c => { c with progress := true, su := c.su.closeWindow k })).ringOf n (winRing img)).filter
      (fun r => r.pcls == 3) = some r := by
    rw [show ∀ f, (d.modCore n f).ringOf n (winRing img) = d.ringOf n (winRing img) from fun _ => rfl, hring]
    simp [Option.filter, hcls]
  have hout' : (d.modCore n (fun c => { c with progress := true, su := c.su.closeWindow k })).uniOutside
      ((d.modCore n (fun c => { c with progress := true, su := c.su.closeWindow k })).partOf n)
      [((winExtent img r.slotBytes).1, ((winExtent img r.slotBytes).2 - (winExtent img r.slotBytes).1).toNat)] = none := hout
  simp only [Dev.openWindow, hring', hres, hch, hv, Dev.modCore_core_self, hlive, List.any_nil, hout', Bool.or_false,
    Bool.false_and, Bool.false_eq_true, if_false, decide_false, Nat.add_zero]
  rfl

theorem exec_wopen {r : RingDecl} (h : s.dev.issues w t = true) (hc : w.task = .capped) (hi : i.toNat < 32) (ha : (t.reg xa).toNat % 32 = 0)
    (hr : (t.reg xa).toNat + 32 ≤ padBytes) (hp : (s.dev.core w.core).imgPoisoned (t.reg xa).toNat = false)
    (hres : winReserved ((s.dev.core w.core).imgAt (t.reg xa).toNat) = false) (hch : winChunks ((s.dev.core w.core).imgAt (t.reg xa).toNat) ≠ 0)
    (hv : winVreq ((s.dev.core w.core).imgAt (t.reg xa).toNat) = false)
    (hring : s.dev.ringOf w.core (winRing ((s.dev.core w.core).imgAt (t.reg xa).toNat)) = some r) (hcls : r.pcls = 3)
    (hout : s.dev.uniOutside (s.dev.partOf w.core) [((winExtent ((s.dev.core w.core).imgAt (t.reg xa).toNat) r.slotBytes).1,
      ((winExtent ((s.dev.core w.core).imgAt (t.reg xa).toNat) r.slotBytes).2 -
        (winExtent ((s.dev.core w.core).imgAt (t.reg xa).toNat) r.slotBytes).1).toNat)] = none)
    (hwin : (s.dev.core w.core).su.win = []) :
    ∃ u, exec (.wopen w xa i) s = .next u ∧ WentOn s u w ∧
      (u.dev.core w.core).su = { (s.dev.core w.core).su with win := Store.set none [] i.toNat (some
        { img := (s.dev.core w.core).imgAt (t.reg xa).toNat, base := winBase ((s.dev.core w.core).imgAt (t.reg xa).toNat),
          owner := some (t.uid, t.tid), pc := t.pc, ctx := s.dev.ctxOf w.core }) } := by
  have hop := Dev.doOp_wopen (d := s.dev.readyDev w) (n := w.core) (uid := t.uid) (tid := t.tid) (pc := t.pc) (k := i.toNat)
    ((s.dev.readyCore_imgPoisoned w _).trans hp)
  rw [Dev.readyDev_core_self, Dev.readyCore_imgAt, Dev.openWindow_of_ok hres hch hv (r := r)
    ((s.dev.readyDev_congr w (fun e => e.ringOf w.core _) fun _ _ _ _ _ _ => rfl).trans hring) hcls
    ((s.dev.readyDev_congr w (fun e => e.uniOutside (e.partOf w.core) _) fun _ _ _ _ _ _ => rfl).trans hout)
    (by rw [Dev.readyDev_core_self, Dev.readyCore_su, hwin]), Dev.readyDev_ctxOf] at hop
  have hclose : (s.dev.core w.core).su.closeWindow i.toNat = (s.dev.core w.core).su := by
    simp [StreamUnit.closeWindow, hwin, Store.get]
  refine wentOn_of_doOp (pr := true) h hc (c := .wopen w xa i) rfl (effect_of_imageOp hi ha hr) hop ⟨_, rfl⟩ ?_ fun m hm => ?_
  · simp only [Dev.modCore_core_self, Dev.readyDev_core_self, Dev.readyCore_su, hclose, hwin]
  · simp only [Dev.modCore_core_ne _ _ hm]

/-- A stream unit whose counter k holds v (R168). -/
def StreamUnit.withSem (su : StreamUnit) (k v : Nat) : StreamUnit := { su with sem := Store.set 0 su.sem k v }

theorem exec_sems (h : s.dev.issues w t = true) (hc : w.task = .capped) (hi : i.toNat < 64)
    (htgt : s.dev.semTarget w.core i.toNat = (w.core, i.toNat))
    (hsum : Store.get 0 (s.dev.core w.core).su.sem i.toNat + (t.reg xa).toNat % 2 ^ 16 ≤ 65535) :
    ∃ u, exec (.sems w xa i) s = .next u ∧ WentOn s u w ∧
      (u.dev.core w.core).su = (s.dev.core w.core).su.withSem i.toNat
        (Store.get 0 (s.dev.core w.core).su.sem i.toNat + (t.reg xa).toNat % 2 ^ 16) := by
  have htgt' : (s.dev.readyDev w).semTarget w.core i.toNat = (w.core, i.toNat) :=
    (s.dev.readyDev_congr w (fun e => e.semTarget w.core i.toNat) fun _ _ _ _ _ _ => rfl).trans htgt
  refine wentOn_of_modSu (pr := true) (op := .sems i.toNat ((t.reg xa).toNat % 2 ^ 16)) (f := fun c => { c with
      progress := true, su := c.su.withSem i.toNat (Store.get 0 (s.dev.core w.core).su.sem i.toNat + (t.reg xa).toNat % 2 ^ 16) }) h hc (c := .sems w xa i) rfl ?_ ?_ ?_
  · simp [Dev.orFault, Nat.not_le.2 hi]
  · simp only [Dev.doOp, Dev.signal, htgt', if_true, Dev.semAdd, Dev.readyDev_core_self, Dev.readyCore_su, hsum, Nat.min_eq_left hsum, StreamUnit.withSem]
  · rw [s.dev.readyCore_su w]

end

theorem armsAndSignalsOfCappedTasks : ArmsAndSignalsOfCappedTasks := by
  intro s w t xa i h hc
  refine ⟨fun hi ha hr hp hf => ⟨fun hd => ?_, fun hd hs => ?_⟩, fun hi ha hr hp hres hch hv ⟨r, hring, hcls, hout⟩ hwin =>
    exec_wopen h hc hi ha hr hp hres hch hv hring hcls hout hwin, fun hi htgt hsum => ?_⟩
  · obtain ⟨u, hu, hwent, hsu⟩ := exec_sarm h hc hi ha hr hp hf (.inl hd)
    exact ⟨u, hu, hwent, by rw [hsu, StreamUnit.armed, hd]; rfl⟩
  · obtain ⟨u, hu, hwent, hsu⟩ := exec_sarm h hc hi ha hr hp hf (.inr hs)
    exact ⟨u, hu, hwent, by rw [hsu, StreamUnit.armed, if_pos (Option.isSome_iff_ne_none.2 hd)]; rfl⟩
  · obtain ⟨u, hu, hwent, hsu⟩ := exec_sems h hc hi htgt hsum
    refine ⟨u, hu, hwent, fun k => ?_⟩
    rw [hsu]
    refine (Store.get_set ..).trans ?_
    split
    · next hk => rw [hk]
    · rfl

/-- Settles O21. -/
theorem streamInstructionsArmSignalAndBuffer : Obligations.StreamInstructionsArmSignalAndBuffer :=
  ⟨streamInstructionsTakeEffectOrBuffer, armsAndSignalsOfCappedTasks⟩

end Sys2Proof.Machine
end

section
/-! SUPPORT. Faults of the matrix and the vector engine (R82, R102, R106); the proof of O20. -/

namespace Sys2Proof.Machine
open Sys2Proof Sys2Proof.Machine.Claims

/-- An engine of a core that exists issues while no switch waits. -/
theorem onEngine_next {s : State} {n : Nat} (hn : n < nCores) (hq : s.dev.quiesced n = false) (f : Dev → Dev) :
    s.onEngine n f = .next { s with dev := f s.dev } := by
  simp [State.onEngine, State.onCore, State.onUnit_eq, hn, hq]

/-- What an engine's fault leaves: the core idles, the fault is recorded when none is, the partition's reset is asked for, and neither a
scratchpad nor memory nor another core has changed. -/
theorem Dev.abort_aborts (d : Dev) (n uid : Nat) (fi : FaultInfo) : ((d.abort n uid fi).core n).tasks = [] ∧
    ((d.core n).frec = none → ((d.abort n uid fi).core n).frec = some fi) ∧ ((d.abort n uid fi).part (d.partOf n)).resetDue = true ∧
    ((d.abort n uid fi).core n).pad = (d.core n).pad ∧ (d.abort n uid fi).mem = d.mem ∧
    ∀ m, m ≠ n → (d.abort n uid fi).core m = d.core m := by
  obtain ⟨wb, mx, vx, su, rt, ct, hparts⟩ := (d.core n).abort_parts uid fi d.freeIx
  have hself := (d.abort_core_self n uid fi).trans hparts
  refine ⟨by rw [hself], fun hn => ?_, d.abort_resetDue n uid fi, ?_, d.abort_mem n uid fi, fun m hm => d.abort_core_ne uid fi hm⟩
  · rw [hself, Core.recordFault_of_none fi hn]
  · rw [hself]
    exact Core.recordFault_pad _ _

/-- An instruction of an engine whose issue ends in the abort of its task. -/
theorem aborts_of_fault {s : State} {n : Nat} {i : Instr} {f : Dev → Dev} {code uid tid pc addr : Nat} (hn : n < nCores)
    (hq : s.dev.quiesced n = false) (hexec : exec i s = s.onEngine n f)
    (hf : f s.dev = s.dev.abort n uid ⟨code, true, tid, pc, addr, false⟩) :
    ∃ t, exec i s = .next t ∧ (t.dev.core n).tasks = [] ∧
      ((s.dev.core n).frec = none → (t.dev.core n).frec.map (fun f => (f.code, f.eng, f.tid, f.pc)) = some (code, true, tid, pc)) ∧
      (t.dev.part (s.dev.partOf n)).resetDue = true ∧ (t.dev.core n).pad = (s.dev.core n).pad ∧ t.dev.mem = s.dev.mem ∧
      ∀ m, m ≠ n → t.dev.core m = s.dev.core m := by
  obtain ⟨htasks, hfrec, hdue, hpad, hmem, hne⟩ := s.dev.abort_aborts n uid ⟨code, true, tid, pc, addr, false⟩
  refine ⟨_, hexec.trans ((onEngine_next hn hq f).trans (by rw [hf])), htasks, fun hnone => ?_, hdue, hpad, hmem, hne⟩
  rw [hfrec hnone]
  rfl

/-! ## Each engine's faults -/

section
variable {d : Dev} {n : Nat} {o : MatOp}

/-- An MMA into a bank whose mode record holds another class or exponent (R66, R82). -/
theorem Dev.mma_mode_fault (ha : (d.core n).mx.array = some o) (hs : (d.core n).mx.shadow ≠ none) (hb : (d.core n).mx.blocked o = false)
    (hr : (d.core n).readCheck (d.rings n) false .stream (mmaMaskRanges o ++ mmaAllRanges o) = .ok ()) (hacc : mmaAcc o = true)
    (hm : (((mmaBanks o).1 && !(modeOk (d.core n).mx.bankA (mmaI8 o) (mmaE o))) ||
      ((mmaBanks o).2 && !(modeOk (d.core n).mx.bankB (mmaI8 o) (mmaE o)))) = true) : d.mma n = d.mxFault n o 0x0202 0 := by
  obtain ⟨held, hheld⟩ := Option.ne_none_iff_exists'.1 hs
  simp only [Dev.mma, ha, hheld, hb, hr, hacc, hm, Bool.false_eq_true, if_false, Bool.and_self, if_true]

/-- An MDRAIN from a bank of the other class (R81, R82). -/
theorem Dev.mdrain_class_fault {m : Bool × Int} (hd : (d.core n).mx.drainer = some o) (hb : (d.core n).mx.blocked o = false)
    (hw : (d.core n).writeWaits (d.rings n) (mdRanges o) = false) (hm : (mdSource (d.core n) o).mode = some m) (hc : m.1 ≠ mdI8 o) :
    d.mdrain n = d.mxFault n o 0x0202 0 := by
  simp [Dev.mdrain, hd, hb, hw, hm, hc]

/-- An MALIGN of an infinity or a NaN (R50, R82). -/
theorem Dev.malign_invalid_fault (ha : (d.core n).mx.aligner = some o) (hb : (d.core n).mx.blocked o = false)
    (hw : (d.core n).writeWaits (d.rings n) (maDstRanges o) = false)
    (hr : (d.core n).readCheck (d.rings n) (d.guard n) .engine (maSrcRanges o) = .ok ()) (hi : maInvalid (d.core n) o = true) :
    d.malign n = d.mxFault n o 0x0201 0 := by
  simp [Dev.malign, ha, hb, hw, hr, hi]

end

section
variable {s : State} {n : Nat} {v : VecOp} {rest : List VecOp} {ranges : VecOp → List (Nat × Nat)} {code : Nat}

/-- A vector load whose ranges leave the scratchpad (R102, R106). -/
theorem Dev.vxLoad_range_fault (h : vecHead s n v rest) (hc : vOp v = code) (hr : rangeBreak (ranges v) ≠ none)
    (run : Core → VecOp → Core × BitVec 12) : ∃ a, s.dev.vxLoad n code ranges run = s.dev.vxFault n v 0x0401 a := by
  obtain ⟨a, ha⟩ := Option.ne_none_iff_exists'.1 hr
  exact ⟨a, by simp only [Dev.vxLoad, vxHead_of_vecHead h hc, ha]⟩

/-- A vector store whose ranges leave it. -/
theorem Dev.vxStore_range_fault (h : vecHead s n v rest) (hc : vOp v = code) (hr : rangeBreak (ranges v) ≠ none)
    (run : List RingDecl → Core → VecOp → Core × BitVec 12) : ∃ a, s.dev.vxStore n code ranges run = s.dev.vxFault n v 0x0401 a := by
  obtain ⟨a, ha⟩ := Option.ne_none_iff_exists'.1 hr
  exact ⟨a, by simp only [Dev.vxStore, vxHead_of_vecHead h hc, ha]⟩

end

theorem matrixFaultsAbortTheirTask : MatrixFaultsAbortTheirTask := by
  intro s n o v rest hn hq
  refine ⟨fun ha hs hb hr hacc hm => aborts_of_fault hn hq (i := .mma n) rfl (Dev.mma_mode_fault ha hs hb hr hacc hm),
    fun hd hb hw ⟨m, hm, hc⟩ => aborts_of_fault hn hq (i := .mdrain n) rfl (Dev.mdrain_class_fault hd hb hw hm hc),
    fun ha hb hw hr hi => aborts_of_fault hn hq (i := .malign n) rfl (Dev.malign_invalid_fault ha hb hw hr hi),
    fun h => ⟨fun y hy hc hr => ?_, fun y hy hc hr => ?_⟩⟩
  · simp only [List.mem_cons, List.not_mem_nil, or_false] at hy
    obtain rfl | rfl := hy
    · obtain ⟨a, ha⟩ := Dev.vxLoad_range_fault h hc hr vldRun
      exact aborts_of_fault hn hq (i := .vld n) rfl ha
    · obtain ⟨a, ha⟩ := Dev.vxStore_range_fault h hc hr (fun rs c o => vstRun (fun j => s.dev.vxRnd n c (lsRnd o) j) rs c o)
      exact aborts_of_fault hn hq (i := .vst n) rfl ha
  · simp only [List.mem_cons, List.not_mem_nil, or_false] at hy
    obtain rfl | rfl := hy
    · obtain ⟨a, ha⟩ := Dev.vxLoad_range_fault h hc hr vldbRun
      exact aborts_of_fault hn hq (i := .vldb n) rfl ha
    · obtain ⟨a, ha⟩ := Dev.vxStore_range_fault h hc hr vstbRun
      exact aborts_of_fault hn hq (i := .vstb n) rfl ha

/-- Settles O20. -/
theorem faultsAbortTheirTaskOrAreHeld : Obligations.FaultsAbortTheirTaskOrAreHeld :=
  ⟨controlFaultsAbortOrAreHeld, matrixFaultsAbortTheirTask⟩

end Sys2Proof.Machine
end

section
/-! SUPPORT. The matrix engine's multiplication (R59 to R74): the held tile, the entries of a bank, exact sums; the proof of O18. -/

namespace Sys2Proof.Machine
open Sys2Proof Sys2Proof.Machine.Claims

/-! ## An issue of the matrix engine -/

theorem onlyCore_setCore (s : State) (n : Nat) (c : Core) : OnlyCore s { s with dev := s.dev.setCore n c } n c :=
  ⟨rfl, rfl, rfl, Dev.setCore_core_self _ _ _, fun _ hm => Dev.setCore_core_ne _ _ hm⟩

/-- What the end of an issue leaves: it changes the waiting instructions, the flags' log, and who has settled. -/
theorem Core.mxDone_mx (c : Core) : ∃ q a dr al fb fl, c.mxDone.mx =
    { c.mx with queue := q, array := a, drainer := dr, aligner := al, flagBase := fb, flagLog := fl } := by
  obtain ⟨q, a, dr, al, h⟩ := Core.dispatch_mx { c with progress := true, mxIssued := true }
  unfold Core.mxDone Core.settle
  dsimp only
  rw [h]
  exact ⟨_, _, _, _, _, _, rfl⟩

theorem Core.mxDone_kept (c : Core) : c.mxDone.pad = c.pad ∧ c.mxDone.w = c.w ∧ c.mxDone.vx.v = c.vx.v ∧ c.mxDone.tasks = c.tasks := by
  obtain ⟨mx, h⟩ := Core.dispatch_parts { c with progress := true, mxIssued := true }
  unfold Core.mxDone Core.settle
  dsimp only
  rw [h]
  exact ⟨rfl, rfl, rfl, rfl⟩

theorem MatrixEngine.addFlags_parts (m : MatrixEngine) (uid : Nat) (f : BitVec 12) : ∃ log, m.addFlags uid f = { m with flagLog := log } := by
  unfold MatrixEngine.addFlags
  split
  · exact ⟨_, rfl⟩
  · exact ⟨_, rfl⟩

/-! ## The entries that an instruction feeds (R66, R73, R74) -/

/-- One entry of a bank fed by `f`, with the overflow it adds. -/
def feedEntry (f : Nat → AccEntry → AccEntry × Bool) (base : Nat) (acc : Bank × Bool) (k : Nat) : Bank × Bool :=
  ({ acc.1 with ent := Store.set {} acc.1.ent (base + k) (f k (Store.get {} acc.1.ent (base + k))).1 },
    acc.2 || (f k (Store.get {} acc.1.ent (base + k))).2)

/-- A row fed from its first to its last active column. -/
theorem feedRow_entries (f : Nat → AccEntry → AccEntry × Bool) (base cols : Nat) (acc : Bank × Bool) :
    ((List.range cols).foldl (feedEntry f base) acc).1.mode = acc.1.mode ∧
      ∀ j, Store.get {} ((List.range cols).foldl (feedEntry f base) acc).1.ent j =
        if base ≤ j ∧ j < base + cols then (f (j - base) (Store.get {} acc.1.ent j)).1 else Store.get {} acc.1.ent j := by
  induction cols with
  | zero => exact ⟨rfl, fun j => by rw [if_neg (by omega)]; rfl⟩
  | succ cols ih =>
    obtain ⟨hmode, hent⟩ := ih
    rw [List.range_succ, List.foldl_append]
    refine ⟨hmode, fun j => ?_⟩
    refine (Store.get_set ..).trans ?_
    by_cases hj : j = base + cols
    · subst hj
      rw [if_pos rfl, hent, if_neg (by omega), if_pos (by omega), Nat.add_sub_cancel_left]
    · rw [if_neg hj, hent]
      by_cases hin : base ≤ j ∧ j < base + cols
      · rw [if_pos hin, if_pos (by omega)]
      · rw [if_neg hin, if_neg (by omega)]

/-- Rows fed in order, the masked ones left out. -/
theorem feedRows_entries (f : Nat → Nat → AccEntry → AccEntry × Bool) (masked : Nat → Bool) {cols : Nat} (hc : cols ≤ 128) (rows : Nat)
    (acc : Bank × Bool) :
    ((List.range rows).foldl (fun acc m => if masked m then acc else (List.range cols).foldl (feedEntry (f m) (128 * m)) acc) acc).1.mode =
        acc.1.mode ∧
      ∀ m k, k < 128 → Store.get {} ((List.range rows).foldl (fun acc m => if masked m then acc
          else (List.range cols).foldl (feedEntry (f m) (128 * m)) acc) acc).1.ent (128 * m + k) =
        if m < rows ∧ k < cols ∧ masked m = false then (f m k (Store.get {} acc.1.ent (128 * m + k))).1
        else Store.get {} acc.1.ent (128 * m + k) := by
  induction rows with
  | zero => exact ⟨rfl, fun m k _ => by rw [if_neg (by omega)]; rfl⟩
  | succ rows ih =>
    obtain ⟨hmode, hent⟩ := ih
    rw [List.range_succ, List.foldl_append, List.foldl_cons, List.foldl_nil]
    by_cases hmask : masked rows = true
    · rw [if_pos hmask]
      refine ⟨hmode, fun m k hk => ?_⟩
      rw [hent m k hk]
      by_cases hm : m = rows
      · subst hm
        simp [hmask]
      · simp only [show m < rows + 1 ↔ m < rows by omega]
    · rw [if_neg hmask]
      obtain ⟨hmode', hrow⟩ := feedRow_entries (f rows) (128 * rows) cols ((List.range rows).foldl (fun acc m =>
        if masked m then acc else (List.range cols).foldl (feedEntry (f m) (128 * m)) acc) acc)
      refine ⟨hmode'.trans hmode, fun m k hk => ?_⟩
      rw [hrow, hent m k hk]
      by_cases hm : m = rows
      · subst hm
        by_cases hkc : k < cols
        · rw [if_pos (by omega), if_neg (by omega), if_pos ⟨by omega, hkc, by simpa using hmask⟩, Nat.add_sub_cancel_left]
        · rw [if_neg (by omega), if_neg (by omega), if_neg (by omega)]
      · rw [if_neg (by omega)]
        simp only [show m < rows + 1 ↔ m < rows by omega]

theorem mmaCols_le (o : MatOp) : mmaCols o ≤ 128 := by
  unfold mmaCols bits
  omega

/-- What an MMA leaves in a bank: its mode record, and the fed entries (R66). -/
theorem mmaBankRun_entries (c : Core) (o : MatOp) (t : Array Byte) (b : Bank) :
    (mmaBankRun c o t b).1.mode = some (mmaI8 o, mmaE o) ∧ ∀ m k, k < 128 →
      Store.get {} (mmaBankRun c o t b).1.ent (128 * m + k) =
        let old : AccEntry := if mmaAcc o then Store.get {} b.ent (128 * m + k) else {}
        let live := (List.range (mmaK o)).filter (fun j => !(mmaEltMasked c o m j))
        if m < mmaM o ∧ k < mmaCols o ∧ mmaRowMasked c o m = false then
          (mmaEntry o (live.map (xElt c o m)) (live.map (hElt o t k)) old).1 else old := by
  obtain ⟨hmode, hent⟩ := feedRows_entries (fun m k e =>
      mmaEntry o (((List.range (mmaK o)).filter (fun j => !(mmaEltMasked c o m j))).map (xElt c o m))
        (((List.range (mmaK o)).filter (fun j => !(mmaEltMasked c o m j))).map (hElt o t k)) e) (mmaRowMasked c o) (mmaCols_le o) (mmaM o)
    ({ mode := some (mmaI8 o, mmaE o), ent := if mmaAcc o then b.ent else [] }, false)
  refine ⟨hmode, fun m k hk => (hent m k hk).trans ?_⟩
  have hold : Store.get {} (if mmaAcc o then b.ent else []) (128 * m + k) =
      if mmaAcc o then Store.get {} b.ent (128 * m + k) else ({} : AccEntry) := by
    split <;> rfl
  simp only [hold]

/-! ## The held tile and the multiplication (R68, R69, R84) -/

section
variable {s : State} {n : Nat} {o : MatOp} {held : List Byte}

theorem exec_heldTileLoad (hn : n < nCores) (hq : s.dev.quiesced n = false) (ha : (s.dev.core n).mx.array = some o)
    (hs : (s.dev.core n).mx.shadow = none) (hr : (s.dev.core n).mx.reload = none)
    (he : ((s.dev.core n).mx.earlier o).any (fun e => rangesMeet [(mmaH o, mmaHeldBytes o)] (mxWrites e)) = false)
    (hc : (s.dev.core n).readCheck (s.dev.rings n) (s.dev.guard n) .engine [(mmaH o, mmaHeldBytes o)] = .ok ()) :
    ∃ t, exec (.heldTileLoad n) s = .next t ∧ OnlyCoreChanged s t n ∧
      (t.dev.core n).mx = { (s.dev.core n).mx with shadow := some ((s.dev.core n).padRead (mmaH o) (mmaHeldBytes o)) } ∧
      (t.dev.core n).pad = (s.dev.core n).pad ∧ (t.dev.core n).vx = (s.dev.core n).vx ∧ (t.dev.core n).tasks = (s.dev.core n).tasks ∧
      (t.dev.core n).w = wAfterRead s n (mmaHrel o) [(mmaH o, mmaHeldBytes o)] := by
  have hload : s.dev.heldLoad n = s.dev.setCore n (({ s.dev.core n with
      mx := { (s.dev.core n).mx with shadow := some ((s.dev.core n).padRead (mmaH o) (mmaHeldBytes o)) }, progress := true } : Core).loadRelease
        (mmaHrel o) (s.dev.rings n) [(mmaH o, mmaHeldBytes o)]) := by
    simp only [Dev.heldLoad, ha, hs, hr, Option.isSome_none, he, hc, Bool.false_eq_true, if_false]
    rfl
  have honly := onlyCore_setCore s n (({ s.dev.core n with
      mx := { (s.dev.core n).mx with shadow := some ((s.dev.core n).padRead (mmaH o) (mmaHeldBytes o)) }, progress := true } : Core).loadRelease
        (mmaHrel o) (s.dev.rings n) [(mmaH o, mmaHeldBytes o)])
  refine ⟨_, (onEngine_next hn hq (fun d => d.heldLoad n)).trans (by rw [hload]), ⟨_, honly⟩, ?_⟩
  obtain ⟨_, _, _, hcore, _⟩ := honly
  have hw := Core.loadRelease_w s n (mmaHrel o) [(mmaH o, mmaHeldBytes o)] (k := { s.dev.core n with
      mx := { (s.dev.core n).mx with shadow := some ((s.dev.core n).padRead (mmaH o) (mmaHeldBytes o)) }, progress := true }) rfl
  obtain ⟨w, u, su, p, hparts⟩ := Core.loadRelease_parts ({ s.dev.core n with
      mx := { (s.dev.core n).mx with shadow := some ((s.dev.core n).padRead (mmaH o) (mmaHeldBytes o)) }, progress := true } : Core)
    (mmaHrel o) (s.dev.rings n) [(mmaH o, mmaHeldBytes o)]
  refine ⟨?_, ?_, ?_, ?_, by rw [hcore]; exact hw⟩
  iterate 4 rw [hcore, hparts]

theorem exec_heldTileLoad_reload (hn : n < nCores) (hq : s.dev.quiesced n = false) (ha : (s.dev.core n).mx.array = some o)
    (hs : (s.dev.core n).mx.shadow = none) (hr : (s.dev.core n).mx.reload = some held) :
    ∃ t, exec (.heldTileLoad n) s = .next t ∧
      OnlyCore s t n { s.dev.core n with mx := { (s.dev.core n).mx with shadow := some held, reload := none }, progress := true } := by
  have hload : s.dev.heldLoad n = s.dev.setCore n
      { s.dev.core n with mx := { (s.dev.core n).mx with shadow := some held, reload := none }, progress := true } := by
    simp only [Dev.heldLoad, ha, hs, hr, Option.isSome_some, if_true]
  exact ⟨_, (onEngine_next hn hq (fun d => d.heldLoad n)).trans (by rw [hload]), onlyCore_setCore s n _⟩

/-- An MMA that issues: the core it leaves. -/
theorem Dev.mma_issues {d : Dev} (ha : (d.core n).mx.array = some o) (hs : (d.core n).mx.shadow = some held)
    (hb : (d.core n).mx.blocked o = false)
    (hr : (d.core n).readCheck (d.rings n) false .stream (mmaMaskRanges o ++ mmaAllRanges o) = .ok ())
    (hm : mmaAcc o = true → ((mmaBanks o).1 = true → modeOk (d.core n).mx.bankA (mmaI8 o) (mmaE o) = true) ∧
      ((mmaBanks o).2 = true → modeOk (d.core n).mx.bankB (mmaI8 o) (mmaE o) = true))
    (hc : (d.core n).readCheck (d.rings n) (d.guard n) .engine (mmaMaskRanges o ++ mmaStreamRanges (d.core n) o) = .ok ()) :
    d.mma n = d.setCore n ((mmaRun (d.core n) o held).loadRelease (mmaXrel o) (d.rings n) (mmaAllRanges o)).mxDone := by
  have hmode : (mmaAcc o && (((mmaBanks o).1 && !(modeOk (d.core n).mx.bankA (mmaI8 o) (mmaE o))) ||
      ((mmaBanks o).2 && !(modeOk (d.core n).mx.bankB (mmaI8 o) (mmaE o))))) = false := by
    cases hacc : mmaAcc o with
    | false => rfl
    | true =>
      obtain ⟨hA, hB⟩ := hm hacc
      cases h1 : (mmaBanks o).1 <;> cases h2 : (mmaBanks o).2 <;> simp [h1, h2] at hA hB ⊢ <;> simp [*]
  simp only [Dev.mma, ha, hs, hb, hr, hmode, hc, Bool.false_eq_true, if_false]
  rfl

/-- The parts of the core after an MMA's run (R66, R73, R86). -/
theorem mmaRun_parts (c : Core) (o : MatOp) (held : List Byte) : ∃ ia fd gt fl, mmaRun c o held = { c with mx := { c.mx with
    bankA := if (mmaBanks o).1 then (mmaBankRun c o held.toArray c.mx.bankA).1 else c.mx.bankA,
    bankB := if (mmaBanks o).2 then (mmaBankRun c o held.toArray c.mx.bankB).1 else c.mx.bankB,
    array := none, shadow := none, active := held, inArray := ia, fed := fd, gate := gt, flagLog := fl } } := by
  unfold mmaRun
  dsimp only
  obtain ⟨log, h⟩ := MatrixEngine.addFlags_parts _ o.uid _
  rw [h]
  simp only [apply_ite Prod.fst]
  exact ⟨_, _, _, _, rfl⟩

/-- What an MMA that feeds bank `b` (when `fed`) leaves there. -/
theorem mma_bank {c : Core} (fed : Bool) (b : Bank) :
    (fed = false → (if fed then (mmaBankRun c o held.toArray b).1 else b) = b) ∧
    (fed = true → (if fed then (mmaBankRun c o held.toArray b).1 else b).mode = some (mmaI8 o, mmaE o) ∧ ∀ m k, k < 128 →
      let old : AccEntry := if mmaAcc o then Store.get {} b.ent (128 * m + k) else {}
      let live := (List.range (mmaK o)).filter (fun j => !(mmaEltMasked c o m j))
      Store.get {} (if fed then (mmaBankRun c o held.toArray b).1 else b).ent (128 * m + k) =
        if m < mmaM o ∧ k < mmaCols o ∧ mmaRowMasked c o m = false then
          (mmaEntry o (live.map (xElt c o m)) (live.map (hElt o held.toArray k)) old).1 else old) := by
  cases fed with
  | false => exact ⟨fun _ => rfl, nofun⟩
  | true => exact ⟨nofun, fun _ => mmaBankRun_entries c o held.toArray b⟩

end

theorem matrixMultiplyUsesTheHeldTile : MatrixMultiplyUsesTheHeldTile := by
  intro s n o held hn hq c ha
  refine ⟨exec_heldTileLoad hn hq ha, exec_heldTileLoad_reload hn hq ha, fun hs hb hr hm hc => ?_⟩
  have honly := onlyCore_setCore s n ((mmaRun c o held).loadRelease (mmaXrel o) (s.dev.rings n) (mmaAllRanges o)).mxDone
  refine ⟨_, (onEngine_next hn hq (fun d => d.mma n)).trans (by rw [Dev.mma_issues ha hs hb hr hm hc]), ⟨_, honly⟩, ?_⟩
  obtain ⟨_, _, _, hcore, _⟩ := honly
  obtain ⟨ia, fd, gt, fl, hrun⟩ := mmaRun_parts c o held
  obtain ⟨w, u, su, p, hrel⟩ := (mmaRun c o held).loadRelease_parts (mmaXrel o) (s.dev.rings n) (mmaAllRanges o)
  have hw := Core.loadRelease_w s n (mmaXrel o) (mmaAllRanges o) (k := mmaRun c o held) (by rw [hrun])
  obtain ⟨q, a, dr, al, fb, fl', hmx⟩ := ((mmaRun c o held).loadRelease (mmaXrel o) (s.dev.rings n) (mmaAllRanges o)).mxDone_mx
  obtain ⟨hpad, hw', hv, htasks⟩ := ((mmaRun c o held).loadRelease (mmaXrel o) (s.dev.rings n) (mmaAllRanges o)).mxDone_kept
  rw [hcore, hpad, hw', hv, htasks, hmx, hw, hrel, hrun]
  refine ⟨rfl, rfl, rfl, rfl, rfl, rfl, fun y hy => ?_⟩
  simp only [List.mem_cons, List.not_mem_nil, or_false] at hy
  obtain rfl | rfl := hy
  · exact mma_bank _ _
  · exact mma_bank _ _

/-! ## Exact sums (R34, R65) -/

/-- Accumulation of contributions whose partial sums stay in range. -/
theorem foldl_accAdd_exact (l : List Int) (a : Int) (h : ∀ k, k ≤ l.length → -2 ^ 47 < a + (l.take k).sum ∧ a + (l.take k).sum < 2 ^ 47) :
    l.foldl (fun (s : Int × Bool × Bool) p => ((accAdd s.1 s.2.1 p).1, (accAdd s.1 s.2.1 p).2.1, s.2.2 || (accAdd s.1 s.2.1 p).2.2))
      (a, false, false) = (a + l.sum, false, false) := by
  induction l generalizing a with
  | nil => simp
  | cons p l ih =>
    have hp := h 1 (by simp)
    simp only [List.take_succ_cons, List.take_zero, List.sum_cons, List.sum_nil, add_zero] at hp
    have hadd : accAdd a false p = (a + p, false, false) := by
      have hlow : ¬ a + p < -accBound := by
        unfold accBound
        omega
      have hhigh : ¬ accBound < a + p := by
        unfold accBound
        omega
      simp only [accAdd, Bool.false_eq_true, if_false, if_neg hlow, if_neg hhigh]
    rw [List.foldl_cons, hadd, List.sum_cons, ← add_assoc]
    refine ih (a + p) fun k hk => ?_
    have hk := h (k + 1) (by simpa using hk)
    rwa [List.take_succ_cons, List.sum_cons, ← add_assoc] at hk

theorem accumulationIsTheExactSum : AccumulationIsTheExactSum := by
  intro o xs hs e hlock hrange
  have hstart : (if e.valid then (e.a, e.lock, false) else ((0 : Int), false, false)) = (entryStart e, false, false) := by
    unfold entryStart
    split
    · rw [hlock]
    · rfl
  have hfold := foldl_accAdd_exact ((xs.zip hs).map (fun p => mmaContribution o p.1 p.2)) (entryStart e)
    (fun k hk => by rw [← List.map_take]; exact hrange k (by simpa using hk))
  rw [List.foldl_map] at hfold
  unfold mmaEntry
  simp only [hstart, hfold]

/-- Settles O18. -/
theorem matrixMultiplyAddsExactSums : Obligations.MatrixMultiplyAddsExactSums :=
  ⟨matrixMultiplyUsesTheHeldTile, accumulationIsTheExactSum⟩

end Sys2Proof.Machine
end

section
/-! SUPPORT. Drains (R70, R75, R81): where a row's cells lie, and what is there after every row has been drained. -/

namespace Sys2Proof.Machine
open Sys2Proof Sys2Proof.Machine.Claims

/-! ## Cells that agree where they meet -/

/-- Every cell of the list holds the byte that `V` gives its address. -/
def CellsAre (V : Nat → Byte) (cells : List (Nat × Byte)) : Prop := ∀ z ∈ cells, z.2 = V z.1

/-- Of cells that agree, written in order, each is there at the end. -/
theorem cellByte_of_mem {V : Nat → Byte} {cells : List (Nat × Byte)} (h : CellsAre V cells) {z : Nat × Byte} (hz : z ∈ cells) (c : Core) :
    cellByte c cells z.1 = z.2 := by
  unfold cellByte
  cases hf : cells.reverse.find? (fun y => y.1 == z.1) with
  | none => exact absurd (List.find?_eq_none.1 hf z (List.mem_reverse.2 hz)) (by simp)
  | some y =>
    have hy : y ∈ cells := List.mem_reverse.1 (List.mem_of_find?_eq_some hf)
    have haddr : y.1 = z.1 := by simpa using List.find?_some hf
    rw [h z hz, ← haddr]
    exact h y hy

theorem cellByte_of_not_mem {cells : List (Nat × Byte)} {a : Nat} (h : ∀ z ∈ cells, z.1 ≠ a) (c : Core) : cellByte c cells a = c.padByte a :=
  cellByte_append_other c [] cells h

theorem foldl_fst_append {α β γ : Type} (f : List β × γ → α → List β × γ) (g : α → List β) (h : ∀ acc a, (f acc a).1 = acc.1 ++ g a)
    (l : List α) (acc : List β × γ) : (l.foldl f acc).1 = acc.1 ++ l.flatMap g := by
  induction l generalizing acc with
  | nil => simp
  | cons a l ih => rw [List.foldl_cons, ih, h, List.flatMap_cons, List.append_assoc]

theorem foldl_snd_append {α β γ δ : Type} (f : δ × List β × γ → α → δ × List β × γ) (g : α → List β)
    (h : ∀ acc a, (f acc a).2.1 = acc.2.1 ++ g a) (l : List α) (acc : δ × List β × γ) : (l.foldl f acc).2.1 = acc.2.1 ++ l.flatMap g := by
  induction l generalizing acc with
  | nil => simp
  | cons a l ih => rw [List.foldl_cons, ih, h, List.flatMap_cons, List.append_assoc]

/-- A scratchpad write of cells: the bytes that they leave. -/
theorem Core.padRuns_padByte (c : Core) (rs : List RingDecl) (cells : List (Nat × Byte)) (p : Bool) (a : Nat) :
    (c.padRuns rs (mkRuns cells) p).padByte a = cellByte c cells a := by
  obtain ⟨w, pp, su, h⟩ := c.padRuns_parts rs cells p
  rw [h]
  exact get_foldl_cellPut c cells a

/-! ## A drained row (Table 2-10, R81) -/

section
variable (c : Core) (o : MatOp) (b : Bank) (e : Int) (rnd : Nat → Rnd) (m : Nat)

/-- The first byte of destination row m. -/
def mdRow (o : MatOp) (m : Nat) : Nat := mdAddr o + m * mdStride o

/-- The bytes of entry k of a drained row in a packed format; none where it is not valid and ZF is 0. -/
def mdEltBytes (k : Nat) : List Byte :=
  let x : AccEntry := Store.get {} b.ent (128 * m + k)
  if x.valid then (drainElt (mdFmt o) (mdQ o) e x.a (rnd (mdIdx o + 128 * m + k))).1
  else if mdZf o then List.replicate (fmtBytes (mdFmt o)) 0#8 else []

theorem drainElt_length {f : Nat} (hf : f ∈ [2, 3, 4, 5, 6, 8]) (q e a : Int) (r : Rnd) : (drainElt f q e a r).1.length = fmtBytes f := by
  simp only [List.mem_cons, List.not_mem_nil, or_false] at hf
  obtain rfl | rfl | rfl | rfl | rfl | rfl := hf <;> simp [drainElt, fmtBytes]

theorem mdEltBytes_length_le (hf : mdFmt o ∈ [2, 3, 4, 5, 6, 8]) (k : Nat) : (mdEltBytes o b e rnd m k).length ≤ fmtBytes (mdFmt o) := by
  unfold mdEltBytes
  dsimp only
  split
  · exact (drainElt_length hf _ _ _ _).le
  · split <;> simp

theorem runCells_zero (a k : Nat) : (List.range k).map (fun i => (a + i, 0#8)) = runCells (a, List.replicate k 0#8) := by
  refine List.ext_getElem (by simp [runCells]) fun i hi _ => ?_
  simp [runCells]

/-- The cells of a packed row: its entries' bytes, each at its place. -/
theorem drainRow_cells : (drainRow o b e rnd m).1 =
    (List.range (mdCols o)).flatMap (fun k => runCells (mdRow o m + k * fmtBytes (mdFmt o), mdEltBytes o b e rnd m k)) := by
  refine (foldl_fst_append _ _ (fun acc k => ?_) _ _).trans (List.nil_append _)
  unfold mdEltBytes mdRow
  dsimp only
  split
  · rfl
  · split
    · rw [runCells_zero]
    · rw [runCells_nil, List.append_nil]

/-- The byte at an offset of a packed row. -/
def mdRowByte (off : Nat) : Byte :=
  (mdEltBytes o b e rnd m (off / fmtBytes (mdFmt o))).getD (off % fmtBytes (mdFmt o)) 0#8

/-- The cells of a packed row lie in the row, and hold its bytes. -/
theorem drainRow_cell (hf : mdFmt o ∈ [2, 3, 4, 5, 6, 8]) {z : Nat × Byte} (hz : z ∈ (drainRow o b e rnd m).1) :
    ∃ off < mdCols o * fmtBytes (mdFmt o), z = (mdRow o m + off, mdRowByte o b e rnd m off) := by
  rw [drainRow_cells] at hz
  obtain ⟨k, hk, hz⟩ := List.mem_flatMap.1 hz
  obtain ⟨y, hy, rfl⟩ := List.mem_map.1 hz
  obtain ⟨i, hi, rfl⟩ := List.getElem_of_mem hy
  simp only [List.length_zipIdx] at hi
  have hi' : i < fmtBytes (mdFmt o) := lt_of_lt_of_le hi (mdEltBytes_length_le o b e rnd m hf k)
  have hk := List.mem_range.1 hk
  refine ⟨k * fmtBytes (mdFmt o) + i, ?_, ?_⟩
  · calc k * fmtBytes (mdFmt o) + i < (k + 1) * fmtBytes (mdFmt o) := by rw [Nat.succ_mul]; omega
      _ ≤ mdCols o * fmtBytes (mdFmt o) := Nat.mul_le_mul_right _ hk
  · have hpos : 0 < fmtBytes (mdFmt o) := by omega
    simp [mdRowByte, Nat.add_assoc, Nat.mul_add_div hpos, Nat.mul_comm k, Nat.div_eq_of_lt hi', Nat.mod_eq_of_lt hi', hi]

/-- Block k of a PL row is written: it holds a valid entry, or ZF is 1 (R75). -/
def plWritten (k : Nat) : Bool :=
  !(((List.range' (32 * k) 32).filter (fun n => (Store.get ({} : AccEntry) b.ent (128 * m + n)).valid)).isEmpty && !(mdZf o))

/-- Its scale byte. -/
def plScale (k : Nat) : Nat :=
  let valid := (List.range' (32 * k) 32).filter (fun n => (Store.get ({} : AccEntry) b.ent (128 * m + n)).valid)
  if valid.isEmpty then (if mdAscl o then 0 else mdScale o)
  else blockScale (if mdAscl o then none else some (mdScale o))
    (valid.map (fun n => .fin (dyInt (Store.get ({} : AccEntry) b.ent (128 * m + n)).a (e - 30))))

/-- Its codes; none where an entry is not valid and ZF is 0. -/
def plCodes (k : Nat) : List (Option (Nat × Flags)) :=
  (List.range' (32 * k) 32).map (fun n =>
    if (Store.get ({} : AccEntry) b.ent (128 * m + n)).valid then
      (some (toPL (mdFmt o == 0) (plScale o b e m k) (.fin (dyInt (Store.get ({} : AccEntry) b.ent (128 * m + n)).a (e - 30)))
        (rnd (mdIdx o + 128 * m + n))))
    else if mdZf o then some (0, 0#8) else none)

/-- Byte j of a PL4 block: two codes, a kept nibble where there is none. -/
def pl4Cell (k j : Nat) : Option (Nat × Byte) :=
  let a := mdRow o m + 32 + 16 * k + j
  let old := (c.padByte a).toNat
  match (plCodes o b e rnd m k).getD (2 * j) none, (plCodes o b e rnd m k).getD (2 * j + 1) none with
  | none, none => none
  | lo, hi =>
    let l := match lo with | some y => y.1 | none => old % 16
    let h := match hi with | some y => y.1 | none => old / 16
    some (a, BitVec.ofNat 8 (l + 16 * h))

/-- The code bytes of a block. -/
def plCells (k : Nat) : List (Nat × Byte) :=
  if mdFmt o == 0 then (List.range 16).filterMap (pl4Cell c o b e rnd m k)
  else ((plCodes o b e rnd m k).zipIdx).filterMap (fun y => match y.1 with
    | some z => some (mdRow o m + 32 + 32 * k + y.2, BitVec.ofNat 8 z.1)
    | none => none)

/-- The scale bytes, then the reserved bytes of the side area, then the codes (R81). -/
theorem drainPLRow_cells : (drainPLRow c o b e rnd m).1 =
    let scales := (List.range (mdCols o / 32)).flatMap (fun k => if plWritten o b m k then
      [(mdRow o m + k, BitVec.ofNat 8 (plScale o b e m k))] else [])
    let named := if mdFmt o == 0 then 8 else 4
    if scales.isEmpty then [] else scales ++ (List.range' named (32 - named)).map (fun i => (mdRow o m + i, 0#8)) ++
      (List.range (mdCols o / 32)).flatMap (fun k => if plWritten o b m k then plCells c o b e rnd m k else []) := by
  unfold drainPLRow
  dsimp only
  rw [apply_ite Prod.fst, foldl_fst_append _ (fun k => if plWritten o b m k then
      [(mdRow o m + k, BitVec.ofNat 8 (plScale o b e m k))] else []), foldl_snd_append _ (fun k =>
      if plWritten o b m k then plCells c o b e rnd m k else [])]
  · simp only [List.nil_append]
    rfl
  · intro acc k
    cases hw : plWritten o b m k with
    | false =>
      rw [if_pos ((Bool.not_eq_false' _).mp hw), if_neg (by decide), List.append_nil]
    | true =>
      rw [if_neg (Bool.eq_false_iff.1 ((Bool.not_eq_true' _).mp hw))]
      rfl
  · intro acc k
    cases hw : plWritten o b m k with
    | false =>
      rw [if_pos ((Bool.not_eq_false' _).mp hw), if_neg (by decide), List.append_nil]
    | true =>
      rw [if_neg (Bool.eq_false_iff.1 ((Bool.not_eq_true' _).mp hw))]
      rfl

/-- The byte at an offset of a PL row. -/
def plRowByte (off : Nat) : Byte :=
  if off < (if mdFmt o == 0 then 8 else 4) then BitVec.ofNat 8 (plScale o b e m off)
  else if off < 32 then 0#8
  else if mdFmt o == 0 then ((pl4Cell c o b e rnd m ((off - 32) / 16) ((off - 32) % 16)).map (·.2)).getD 0#8
  else ((((plCodes o b e rnd m ((off - 32) / 32)).getD ((off - 32) % 32) none).map (fun z => BitVec.ofNat 8 z.1))).getD 0#8

theorem pl4Cell_place {k j : Nat} {z : Nat × Byte} (h : pl4Cell c o b e rnd m k j = some z) : z.1 = mdRow o m + 32 + 16 * k + j := by
  unfold pl4Cell at h
  dsimp only at h
  split at h
  · cases h
  · cases h
    rfl

@[simp] theorem plCodes_length (k : Nat) : (plCodes o b e rnd m k).length = 32 := by simp [plCodes]

/-- The code cells of a block lie behind the side area, and hold the row's bytes. -/
theorem plCells_cell {k : Nat} {z : Nat × Byte} (hz : z ∈ plCells c o b e rnd m k) :
    ∃ off, 32 + (if mdFmt o == 0 then 16 else 32) * k ≤ off ∧ off < 32 + (if mdFmt o == 0 then 16 else 32) * (k + 1) ∧
      z = (mdRow o m + off, plRowByte c o b e rnd m off) := by
  unfold plCells at hz
  unfold plRowByte
  split at hz
  · next hf =>
    obtain ⟨j, hj, hcell⟩ := List.mem_filterMap.1 hz
    have hj := List.mem_range.1 hj
    have hplace := pl4Cell_place c o b e rnd m hcell
    simp only [hf, if_true]
    refine ⟨32 + 16 * k + j, by omega, by omega, ?_⟩
    rw [if_neg (by omega), if_neg (by omega), show (32 + 16 * k + j - 32) / 16 = k by omega, show (32 + 16 * k + j - 32) % 16 = j by omega,
      hcell]
    exact Prod.ext (by rw [hplace]; omega) rfl
  · next hf =>
    obtain ⟨y, hy, hcell⟩ := List.mem_filterMap.1 hz
    obtain ⟨i, hi, rfl⟩ := List.getElem_of_mem hy
    simp only [List.length_zipIdx, plCodes_length] at hi
    simp only [List.getElem_zipIdx, Nat.zero_add] at hcell
    simp only [hf, Bool.false_eq_true, if_false]
    refine ⟨32 + 32 * k + i, by omega, by omega, ?_⟩
    rw [if_neg (by omega), if_neg (by omega), show (32 + 32 * k + i - 32) / 32 = k by omega, show (32 + 32 * k + i - 32) % 32 = i by omega,
      List.getD_eq_getElem _ _ (by simpa using hi)]
    split at hcell
    · next w hw =>
      cases hcell
      rw [hw]
      exact Prod.ext (by simp only; omega) rfl
    · cases hcell

/-- The cells of a PL row lie in the row, and hold its bytes. -/
theorem drainPLRow_cell {z : Nat × Byte} (hz : z ∈ (drainPLRow c o b e rnd m).1) :
    ∃ off < 32 + (if mdFmt o = 0 then mdCols o / 2 else mdCols o), z = (mdRow o m + off, plRowByte c o b e rnd m off) := by
  have hcols : mdCols o ≤ 128 := by
    unfold mdCols bits
    omega
  rw [drainPLRow_cells] at hz
  dsimp only at hz
  split at hz
  · cases hz
  · rcases List.mem_append.1 hz with hz | hz
    · rcases List.mem_append.1 hz with hz | hz
      · obtain ⟨k, hk, hz⟩ := List.mem_flatMap.1 hz
        have hk := List.mem_range.1 hk
        split at hz
        · obtain rfl := List.mem_singleton.1 hz
          refine ⟨k, by omega, ?_⟩
          unfold plRowByte
          rw [if_pos (by split <;> omega)]
        · cases hz
      · obtain ⟨i, hi, rfl⟩ := List.mem_map.1 hz
        obtain ⟨hlo, hhi⟩ := List.mem_range'_1.1 hi
        have hnamed : (if mdFmt o == 0 then 8 else 4) ≤ 32 := by split <;> omega
        refine ⟨i, by omega, ?_⟩
        unfold plRowByte
        rw [if_neg (by omega), if_pos (by omega)]
    · obtain ⟨k, hk, hz⟩ := List.mem_flatMap.1 hz
      have hk := List.mem_range.1 hk
      split at hz
      · obtain ⟨off, hlo, hhi, rfl⟩ := plCells_cell c o b e rnd m hz
        refine ⟨off, lt_of_lt_of_le hhi ?_, rfl⟩
        by_cases hf : mdFmt o = 0
        · simp only [hf, beq_self_eq_true, if_true]
          omega
        · simp only [hf, beq_iff_eq, if_false]
          omega
      · cases hz

/-- Of the scratchpad a drained row reads its own bytes only. -/
theorem drainPLRow_congr {c' : Core} (h : ∀ off < 32 + (if mdFmt o = 0 then mdCols o / 2 else mdCols o),
    c'.padByte (mdRow o m + off) = c.padByte (mdRow o m + off)) : (drainPLRow c' o b e rnd m).1 = (drainPLRow c o b e rnd m).1 := by
  have hcells : ∀ k ∈ List.range (mdCols o / 32), (if plWritten o b m k then plCells c' o b e rnd m k else []) =
      if plWritten o b m k then plCells c o b e rnd m k else [] := by
    intro k hk
    have hk := List.mem_range.1 hk
    refine if_congr Iff.rfl ?_ rfl
    unfold plCells
    split
    · next hf =>
      refine List.filterMap_congr fun j hj => ?_
      have hj := List.mem_range.1 hj
      have hbyte := h (32 + 16 * k + j) (by rw [if_pos (by simpa using hf)]; omega)
      rw [← Nat.add_assoc, ← Nat.add_assoc] at hbyte
      simp only [pl4Cell, hbyte]
    · rfl
  rw [drainPLRow_cells, drainPLRow_cells, List.flatMap_congr hcells]

end

/-! ## All rows of a drain (R75, R81) -/

section
variable (o : MatOp) (b : Bank) (rnd : Nat → Rnd)

/-- The formats that a drain can have. -/
def mdFormats : List Nat := [0, 1, 2, 3, 4, 5, 6, 8]

/-- A bank's exponent, 0 before its first use. -/
def bankExp (b : Bank) : Int := match b.mode with | some m => m.2 | none => 0

theorem drainAnyRow_eq (c : Core) (m : Nat) :
    drainAnyRow c o b rnd m = if mdPL o then drainPLRow c o b (bankExp b) rnd m else drainRow o b (bankExp b) rnd m := rfl

/-- The byte at an offset of a drained row. -/
def anyRowByte (c : Core) (m off : Nat) : Byte :=
  if mdPL o then plRowByte c o b (bankExp b) rnd m off else mdRowByte o b (bankExp b) rnd m off

theorem mdFmt_of_not_pl (hf : mdFmt o ∈ mdFormats) (hp : mdPL o = false) : mdFmt o ∈ [2, 3, 4, 5, 6, 8] := by
  simp only [mdFormats, mdPL, List.mem_cons, List.not_mem_nil, or_false, decide_eq_false_iff_not] at *
  omega

theorem drainAnyRow_cell (hf : mdFmt o ∈ mdFormats) (c : Core) (m : Nat) {z : Nat × Byte} (hz : z ∈ (drainAnyRow c o b rnd m).1) :
    ∃ off < mdRowBytes o, z = (mdRow o m + off, anyRowByte o b rnd c m off) := by
  rw [drainAnyRow_eq] at hz
  unfold mdRowBytes anyRowByte
  split at hz
  · next hp =>
    simp only [hp, if_true]
    exact drainPLRow_cell c o b _ rnd m hz
  · next hp =>
    simp only [hp, Bool.false_eq_true, if_false]
    exact drainRow_cell o b _ rnd m (mdFmt_of_not_pl o hf (by simpa using hp)) hz

theorem drainAnyRow_congr {c c' : Core} (m : Nat)
    (h : ∀ off < mdRowBytes o, c'.padByte (mdRow o m + off) = c.padByte (mdRow o m + off)) :
    (drainAnyRow c' o b rnd m).1 = (drainAnyRow c o b rnd m).1 := by
  rw [drainAnyRow_eq, drainAnyRow_eq]
  split
  · next hp =>
    refine drainPLRow_congr c o b _ rnd m ?_
    simpa [mdRowBytes, hp] using h
  · rfl

/-- What draining rows changes of the core: the scratchpad with its marks, and the rings' tails. -/
theorem drainRows_parts (rs : List RingDecl) (l : List Nat) (x : Core × Flags) : ∃ pad w pp su pr, (drainRows rs o b rnd l x).1 =
    { x.1 with pad := pad, w := w, padPoison := pp, su := su, progress := pr } := by
  induction l generalizing x with
  | nil => exact ⟨_, _, _, _, _, rfl⟩
  | cons m l ih =>
    obtain ⟨pad, w, pp, su, pr, h⟩ := ih (x.1.padRuns rs (mkRuns (drainAnyRow x.1 o b rnd m).1) false, x.2 ||| (drainAnyRow x.1 o b rnd m).2)
    obtain ⟨w', pp', su', h'⟩ := x.1.padRuns_parts rs (drainAnyRow x.1 o b rnd m).1 false
    refine ⟨pad, w, pp, su, pr, ?_⟩
    rw [drainRows, h, h']

/-- A byte that no cell of the rows addresses stays. -/
theorem drainRows_untouched (rs : List RingDecl) (l : List Nat) (x : Core × Flags) {a : Nat}
    (h : ∀ m ∈ l, ∀ (c : Core), ∀ z ∈ (drainAnyRow c o b rnd m).1, z.1 ≠ a) : (drainRows rs o b rnd l x).1.padByte a = x.1.padByte a := by
  induction l generalizing x with
  | nil => rfl
  | cons m l ih =>
    rw [drainRows, ih _ fun k hk => h k (List.mem_cons_of_mem _ hk), Core.padRuns_padByte]
    exact cellByte_of_not_mem (h m (List.mem_cons_self ..) x.1) x.1

/-- A byte in none of the rows stays. -/
theorem drainRows_other (hf : mdFmt o ∈ mdFormats) (rs : List RingDecl) (l : List Nat) (x : Core × Flags) {a : Nat}
    (h : ∀ m ∈ l, a < mdRow o m ∨ mdRow o m + mdRowBytes o ≤ a) : (drainRows rs o b rnd l x).1.padByte a = x.1.padByte a := by
  refine drainRows_untouched o b rnd rs l x fun m hm c z hz => ?_
  obtain ⟨off, hoff, rfl⟩ := drainAnyRow_cell o b rnd hf c m hz
  have := h m hm
  simp only
  omega

/-- Rows m and k do not overlap. -/
theorem mdRow_disjoint {m k : Nat} (hs : mdRowBytes o ≤ mdStride o) (hmk : m ≠ k) {i j : Nat} (hi : i < mdRowBytes o) (hj : j < mdRowBytes o) :
    mdRow o m + i ≠ mdRow o k + j := by
  unfold mdRow
  rcases Nat.lt_or_gt_of_ne hmk with hlt | hlt
  · have := Nat.mul_le_mul_right (mdStride o) hlt
    rw [Nat.succ_mul] at this
    omega
  · have := Nat.mul_le_mul_right (mdStride o) hlt
    rw [Nat.succ_mul] at this
    omega

/-- After rows that do not overlap, the cells of each are there. -/
theorem drainRows_cells (hf : mdFmt o ∈ mdFormats) (rs : List RingDecl) {l : List Nat} (hl : l.Nodup)
    (hs : mdRowBytes o ≤ mdStride o ∨ l.length ≤ 1) (x : Core × Flags) {m : Nat} (hm : m ∈ l) {z : Nat × Byte}
    (hz : z ∈ (drainAnyRow x.1 o b rnd m).1) : (drainRows rs o b rnd l x).1.padByte z.1 = z.2 := by
  induction l generalizing x with
  | nil => cases hm
  | cons k l ih =>
    obtain ⟨hk, hl⟩ := List.nodup_cons.1 hl
    have hstride : ∀ j ∈ l, mdRowBytes o ≤ mdStride o := by
      intro j hj
      refine hs.resolve_right fun hlen => ?_
      simp only [List.length_cons] at hlen
      have := List.length_pos_of_mem hj
      omega
    rw [drainRows]
    rcases List.mem_cons.1 hm with rfl | hm
    · obtain ⟨off, hoff, hzoff⟩ := drainAnyRow_cell o b rnd hf x.1 m hz
      rw [drainRows_other o b rnd hf rs l _ fun j hj => ?_, Core.padRuns_padByte]
      · refine cellByte_of_mem (V := fun a => anyRowByte o b rnd x.1 m (a - mdRow o m)) (fun y hy => ?_) hz x.1
        obtain ⟨off, _, rfl⟩ := drainAnyRow_cell o b rnd hf x.1 m hy
        simp
      · have hne (i : Nat) := mdRow_disjoint o (hstride j hj) (m := m) (k := j) (j := i) (by rintro rfl; exact hk hj) hoff
        rw [hzoff]
        by_contra hin
        simp only [not_or, Nat.not_lt, Nat.not_le] at hin
        exact hne (mdRow o m + off - mdRow o j) (by omega) (by omega)
    · refine ih hl (.inl (hstride m hm)) _ hm ?_
      rwa [drainAnyRow_congr o b rnd m (c := x.1) fun off hoff => ?_]
      rw [Core.padRuns_padByte]
      refine cellByte_of_not_mem (fun y hy => ?_) x.1
      obtain ⟨i, hi, rfl⟩ := drainAnyRow_cell o b rnd hf x.1 k hy
      exact mdRow_disjoint o (hstride m hm) (by rintro rfl; exact hk hm) hi hoff

theorem chunk_unique {n k l i j : Nat} (hi : i < n) (hj : j < n) (h : k * n + i = l * n + j) : k = l := by
  have hpos : 0 < n := by omega
  have := congrArg (· / n) h
  simpa [Nat.mul_comm _ n, Nat.mul_add_div hpos, Nat.div_eq_of_lt hi, Nat.div_eq_of_lt hj] using this

theorem mem_unique {α : Type} {l : List α} (h : l.length ≤ 1) {a b : α} (ha : a ∈ l) (hb : b ∈ l) : a = b := by
  match l, h with
  | [], _ => cases ha
  | [x], _ => rw [List.mem_singleton.1 ha, List.mem_singleton.1 hb]

/-- An element of a packed format is left as it rounds, as zeros under ZF, or as it was (R81). -/
theorem drainRows_elt (hf : mdFmt o ∈ mdFormats) (hp : mdPL o = false) (rs : List RingDecl) {l : List Nat} (hl : l.Nodup)
    (hs : mdRowBytes o ≤ mdStride o ∨ l.length ≤ 1) (x : Core × Flags) {m k : Nat} (hm : m ∈ l) (hk : k < mdCols o) :
    (drainRows rs o b rnd l x).1.padRead (mdRow o m + k * fmtBytes (mdFmt o)) (fmtBytes (mdFmt o)) =
      if (Store.get ({} : AccEntry) b.ent (128 * m + k)).valid then
        (drainElt (mdFmt o) (mdQ o) (bankExp b) (Store.get ({} : AccEntry) b.ent (128 * m + k)).a (rnd (mdIdx o + 128 * m + k))).1
      else if mdZf o then List.replicate (fmtBytes (mdFmt o)) 0#8
      else x.1.padRead (mdRow o m + k * fmtBytes (mdFmt o)) (fmtBytes (mdFmt o)) := by
  have hfmt := mdFmt_of_not_pl o hf hp
  have hcells (c : Core) (j : Nat) : (drainAnyRow c o b rnd j).1 = (List.range (mdCols o)).flatMap (fun i =>
      runCells (mdRow o j + i * fmtBytes (mdFmt o), mdEltBytes o b (bankExp b) rnd j i)) := by
    rw [drainAnyRow_eq, hp]
    exact drainRow_cells o b _ rnd j
  have hwritten (hlen : (mdEltBytes o b (bankExp b) rnd m k).length = fmtBytes (mdFmt o)) :
      (drainRows rs o b rnd l x).1.padRead (mdRow o m + k * fmtBytes (mdFmt o)) (fmtBytes (mdFmt o)) = mdEltBytes o b (bankExp b) rnd m k := by
    rw [← hlen, hlen]
    conv_lhs => arg 3; rw [← hlen]
    refine padRead_eq_of_bytes fun i hi => ?_
    refine drainRows_cells o b rnd hf rs hl hs x hm (z := (_, _)) ?_
    rw [hcells]
    exact List.mem_flatMap.2 ⟨k, List.mem_range.2 hk, List.mem_map.2 ⟨(_, i), List.mem_zipIdx_iff_getElem?.2 (List.getElem?_eq_getElem hi), rfl⟩⟩
  by_cases hv : (Store.get ({} : AccEntry) b.ent (128 * m + k)).valid = true
  · have hbytes : mdEltBytes o b (bankExp b) rnd m k = (drainElt (mdFmt o) (mdQ o) (bankExp b)
        (Store.get ({} : AccEntry) b.ent (128 * m + k)).a (rnd (mdIdx o + 128 * m + k))).1 := if_pos hv
    rw [if_pos hv, hwritten (by rw [hbytes, drainElt_length hfmt]), hbytes]
  · by_cases hz : mdZf o = true
    · have hbytes : mdEltBytes o b (bankExp b) rnd m k = List.replicate (fmtBytes (mdFmt o)) 0#8 := (if_neg hv).trans (if_pos hz)
      rw [if_neg hv, if_pos hz, hwritten (by rw [hbytes, List.length_replicate]), hbytes]
    · have hbytes : mdEltBytes o b (bankExp b) rnd m k = [] := (if_neg hv).trans (if_neg hz)
      rw [if_neg hv, if_neg hz]
      refine List.map_congr_left fun i hi => ?_
      have hi := List.mem_range.1 hi
      refine drainRows_untouched o b rnd rs l x fun j hj c z hz hza => ?_
      rw [hcells] at hz
      obtain ⟨k', hk', hz⟩ := List.mem_flatMap.1 hz
      obtain ⟨hlo, hhi⟩ := mem_runCells hz
      have hlen := mdEltBytes_length_le o b (bankExp b) rnd j hfmt k'
      have hk' := List.mem_range.1 hk'
      have hrow : ∀ k' < mdCols o, ∀ i < fmtBytes (mdFmt o), k' * fmtBytes (mdFmt o) + i < mdRowBytes o := by
        intro k' hk' i hi
        have := Nat.mul_le_mul_right (fmtBytes (mdFmt o)) hk'
        rw [Nat.succ_mul] at this
        simp only [mdRowBytes, hp, Bool.false_eq_true, if_false]
        omega
      simp only at hlo hhi
      obtain ⟨i', hi'⟩ := Nat.exists_eq_add_of_le hlo
      by_cases hjm : j = m
      · subst hjm
        have hkk : k' = k := chunk_unique (i := i') (j := i) (by omega) hi (by omega)
        rw [hkk, hbytes] at hhi
        simp only [List.length_nil] at hhi
        rw [hkk] at hlo
        omega
      · refine mdRow_disjoint o (hs.resolve_right fun hlen => hjm (mem_unique hlen hj hm)) hjm (hrow k' hk' i' (by omega))
          (hrow k hk i hi) (by omega)

end

/-! ## The issue of a drain (R70) -/

/-- Bytes read from a scratchpad depend on the scratchpad alone. -/
theorem Core.padByte_of_pad {c k : Core} (h : k.pad = c.pad) (a : Nat) : k.padByte a = c.padByte a := by
  unfold Core.padByte
  rw [h]

theorem Core.padRead_of_pad {c k : Core} (h : k.pad = c.pad) (a n : Nat) : k.padRead a n = c.padRead a n := by
  unfold Core.padRead
  simp only [Core.padByte_of_pad h]

section
variable {s : State} {n : Nat} {o : MatOp}

/-- A drain from a bank of its class, or from one that holds nothing, issues. -/
theorem Dev.mdrain_issues {d : Dev} (hd : (d.core n).mx.drainer = some o) (hb : (d.core n).mx.blocked o = false)
    (hw : (d.core n).writeWaits (d.rings n) (mdRanges o) = false) (hm : ∀ m, (mdSource (d.core n) o).mode = some m → m.1 = mdI8 o) :
    d.mdrain n = d.setCore n (drainRun (d.core n) (d.rings n) o (fun i => d.rnd n (mdRnd o) (mdSid o) i)).mxDone := by
  simp only [Dev.mdrain, hd, hb, hw, Bool.or_false, Bool.false_eq_true, if_false]
  split
  · next m hmode => rw [if_pos (by rw [hm m hmode, beq_self_eq_true])]
  · rfl

/-- What the core of a drain keeps: it changes the scratchpad and, of the matrix engine, the drainer's slot, the flags and what is in
the array. -/
theorem drainRun_parts (c : Core) (rs : List RingDecl) (o : MatOp) (rnd : Nat → Rnd) :
    (drainRun c rs o rnd).pad = (drainRows rs o (mdSource c o) rnd (List.range (mdM o)) (c, 0#8)).1.pad ∧
      (drainRun c rs o rnd).mx.bankA = c.mx.bankA ∧ (drainRun c rs o rnd).mx.bankB = c.mx.bankB ∧
      (drainRun c rs o rnd).vx = c.vx ∧ (drainRun c rs o rnd).tasks = c.tasks := by
  obtain ⟨pad, w, pp, su, pr, h⟩ := drainRows_parts o (mdSource c o) rnd rs (List.range (mdM o)) (c, 0#8)
  obtain ⟨log, hlog⟩ := MatrixEngine.addFlags_parts _ o.uid _
  unfold drainRun
  dsimp only
  rw [hlog, h]
  exact ⟨rfl, rfl, rfl, rfl, rfl⟩

end
end Sys2Proof.Machine
end

section
/-! SUPPORT. MALIGN (R50, R76): where a block's cells lie in every plane, and what is there at the end; the proof of O19. -/

namespace Sys2Proof.Machine
open Sys2Proof Sys2Proof.Machine.Claims

/-! ## The cells of a block (Table 3-7) -/

/-- A block of an MALIGN: its two indices and the positions of its elements. -/
abbrev MaBlock : Type := Nat × Nat × List (Option (Nat × Nat))

section
variable (c : Core) (o : MatOp)

/-- The shared exponent of a block. -/
def maXb (b : MaBlock) : Int := (alignExp (b.2.2.map (fun p => match p with
  | some q => maVal c o q.1 q.2
  | none => .fin ⟨false, 0, 0⟩))).getD 0

/-- Plane p of a block's elements: sign and magnitude of each. -/
def maPlane (b : MaBlock) (p : Nat) : List (Bool × Nat) :=
  ((b.2.2.map (fun p => match p with
    | some q => maVal c o q.1 q.2
    | none => .fin ⟨false, 0, 0⟩)).map (maPlanesOf (maFp32 o) (maXb c o b))).map (fun e => e.1.getD p (false, 0))

/-- The sign bytes and the unit exponent of a block in plane p. -/
def maSigns (b : MaBlock) (p : Nat) : List Byte := bitBytes ((maPlane c o b p).map (·.1))
def maUnitBytes (b : MaBlock) (p : Nat) : List Byte := toLe 2 (unsigned 16 (maUnit (maFp32 o) (maXb c o b) p))

/-- The cells of a block in a plane at `base`, of the held layout and of the streamed one. -/
def maHeldCells (base : Nat) (b : MaBlock) (p : Nat) : List (Nat × Byte) :=
  let g := base + b.1 * (768 + 32 * 128)
  runCells (g + 4 * b.2.1, maSigns c o b p) ++ runCells (g + 512 + 2 * b.2.1, maUnitBytes c o b p) ++
    ((maPlane c o b p).zipIdx).filterMap (fun x => match b.2.2.getD x.2 none with
      | some q => some (g + 768 + q.1 % 32 * 128 + b.2.1, BitVec.ofNat 8 x.1.2)
      | none => none)

def maStreamCells (base : Nat) (b : MaBlock) (p : Nat) : List (Nat × Byte) :=
  let row := base + 160 * b.1
  runCells (row + 4 * b.2.1, maSigns c o b p) ++ runCells (row + 16 + 2 * b.2.1, maUnitBytes c o b p) ++
    runCells (row + 32 + 32 * b.2.1, (maPlane c o b p).map (fun x => BitVec.ofNat 8 x.2)) ++ runCells (row + 24, List.replicate 8 0#8)

def maPlaneCells (b : MaBlock) (p : Nat) : List (Nat × Byte) :=
  if maHeld o then maHeldCells c o (maDst o + p * maPstride o) b p else maStreamCells c o (maDst o + p * maPstride o) b p

theorem maBlockCells_eq (b : MaBlock) : (maBlockCells c o b).1 = ((List.range (maPlanes o)).map (maPlaneCells c o b)).flatten := rfl

/-- The block with these indices, in either layout. -/
def maBlock (i j : Nat) : MaBlock :=
  if maHeld o then (i, j, (List.range 32).map (fun x => if 32 * i + x < maRows o then some (32 * i + x, j) else none))
  else (i, j, (List.range 32).map (fun x => some (i, 32 * j + x)))

/-- Its indices' bounds. -/
def maIndex (i j : Nat) : Prop := if maHeld o then i < ceilDiv (maRows o) 32 ∧ j < maN o else i < maRows o ∧ j < maN o / 32

theorem mem_maBlocks {b : MaBlock} (hb : b ∈ maBlocks o) : ∃ i j, maIndex o i j ∧ b = maBlock o i j := by
  unfold maBlocks at hb
  unfold maIndex maBlock
  split at hb
  · next hh =>
    simp only [List.mem_flatten, List.mem_map, List.mem_range] at hb
    obtain ⟨l, ⟨i, hi, rfl⟩, hb⟩ := hb
    obtain ⟨j, hj, rfl⟩ := List.mem_map.1 hb
    exact ⟨i, j, by simpa [hh] using ⟨hi, List.mem_range.1 hj⟩, by simp [hh]⟩
  · next hh =>
    simp only [List.mem_flatten, List.mem_map, List.mem_range] at hb
    obtain ⟨l, ⟨i, hi, rfl⟩, hb⟩ := hb
    obtain ⟨j, hj, rfl⟩ := List.mem_map.1 hb
    exact ⟨i, j, by simpa [hh] using ⟨hi, List.mem_range.1 hj⟩, by simp [hh]⟩

@[simp] theorem maBlock_fst (i j : Nat) : (maBlock o i j).1 = i := by
  unfold maBlock
  split <;> rfl

@[simp] theorem maBlock_snd (i j : Nat) : (maBlock o i j).2.1 = j := by
  unfold maBlock
  split <;> rfl

@[simp] theorem maPlane_length (i j p : Nat) : (maPlane c o (maBlock o i j) p).length = 32 := by
  unfold maPlane maBlock
  split <;> simp

@[simp] theorem maSigns_length (i j p : Nat) : (maSigns c o (maBlock o i j) p).length = 4 := by
  simp [maSigns, bitBytes]

@[simp] theorem maUnitBytes_length (b : MaBlock) (p : Nat) : (maUnitBytes c o b p).length = 2 := toLe_length _ _

/-- The byte at an offset of plane p, of the held layout and of the streamed one. -/
def maHeldByte (p off : Nat) : Byte :=
  let g := off / 4864
  let t := off % 4864
  if t < 512 then (maSigns c o (maBlock o g (t / 4)) p).getD (t % 4) 0#8
  else if t < 768 then (maUnitBytes c o (maBlock o g ((t - 512) / 2)) p).getD ((t - 512) % 2) 0#8
  else BitVec.ofNat 8 ((maPlane c o (maBlock o g ((t - 768) % 128)) p).getD ((t - 768) / 128) (false, 0)).2

def maStreamByte (p off : Nat) : Byte :=
  let r := off / 160
  let t := off % 160
  if t < 16 then (maSigns c o (maBlock o r (t / 4)) p).getD (t % 4) 0#8
  else if t < 24 then (maUnitBytes c o (maBlock o r ((t - 16) / 2)) p).getD ((t - 16) % 2) 0#8
  else if t < 32 then 0#8
  else BitVec.ofNat 8 ((maPlane c o (maBlock o r ((t - 32) / 32)) p).getD ((t - 32) % 32) (false, 0)).2

def maByte (p off : Nat) : Byte := if maHeld o then maHeldByte c o p off else maStreamByte c o p off

/-- The cells of a run are its bytes at their offsets. -/
theorem mem_runCells_getD {a : Nat} {bs : List Byte} {z : Nat × Byte} (hz : z ∈ runCells (a, bs)) :
    ∃ i < bs.length, z = (a + i, bs.getD i 0#8) := by
  obtain ⟨y, hy, rfl⟩ := List.mem_map.1 hz
  obtain ⟨i, hi, rfl⟩ := List.getElem_of_mem hy
  simp only [List.length_zipIdx] at hi
  exact ⟨i, hi, by simp [hi]⟩

theorem maHeldByte_eq {p g t : Nat} (ht : t < 4864) : maHeldByte c o p (g * 4864 + t) =
    if t < 512 then (maSigns c o (maBlock o g (t / 4)) p).getD (t % 4) 0#8
    else if t < 768 then (maUnitBytes c o (maBlock o g ((t - 512) / 2)) p).getD ((t - 512) % 2) 0#8
    else BitVec.ofNat 8 ((maPlane c o (maBlock o g ((t - 768) % 128)) p).getD ((t - 768) / 128) (false, 0)).2 := by
  unfold maHeldByte
  rw [show (g * 4864 + t) / 4864 = g by omega, show (g * 4864 + t) % 4864 = t by omega]

theorem maStreamByte_eq {p r t : Nat} (ht : t < 160) : maStreamByte c o p (160 * r + t) =
    if t < 16 then (maSigns c o (maBlock o r (t / 4)) p).getD (t % 4) 0#8
    else if t < 24 then (maUnitBytes c o (maBlock o r ((t - 16) / 2)) p).getD ((t - 16) % 2) 0#8
    else if t < 32 then 0#8
    else BitVec.ofNat 8 ((maPlane c o (maBlock o r ((t - 32) / 32)) p).getD ((t - 32) % 32) (false, 0)).2 := by
  unfold maStreamByte
  rw [show (160 * r + t) / 160 = r by omega, show (160 * r + t) % 160 = t by omega]

theorem maHeldCells_cell {i j : Nat} (hh : maHeld o = true) (hi : i < ceilDiv (maRows o) 32) (hj : j < 128) (base p : Nat) {z : Nat × Byte}
    (hz : z ∈ maHeldCells c o base (maBlock o i j) p) :
    ∃ off < ceilDiv (maRows o) 32 * 768 + maRows o * 128, z = (base + off, maHeldByte c o p off) := by
  unfold ceilDiv at hi ⊢
  unfold maHeldCells at hz
  rw [maBlock_fst, maBlock_snd] at hz
  rcases List.mem_append.1 hz with hz | hz
  · rcases List.mem_append.1 hz with hz | hz
    · obtain ⟨x, hx, rfl⟩ := mem_runCells_getD hz
      rw [maSigns_length] at hx
      refine ⟨i * 4864 + (4 * j + x), by omega, ?_⟩
      rw [maHeldByte_eq c o (by omega), if_pos (by omega), show (4 * j + x) / 4 = j by omega, show (4 * j + x) % 4 = x by omega]
      exact Prod.ext (by simp only; omega) rfl
    · obtain ⟨x, hx, rfl⟩ := mem_runCells_getD hz
      rw [maUnitBytes_length] at hx
      refine ⟨i * 4864 + (512 + 2 * j + x), by omega, ?_⟩
      rw [maHeldByte_eq c o (by omega), if_neg (by omega), if_pos (by omega), show (512 + 2 * j + x - 512) / 2 = j by omega,
        show (512 + 2 * j + x - 512) % 2 = x by omega]
      exact Prod.ext (by simp only; omega) rfl
  · obtain ⟨y, hy, hcell⟩ := List.mem_filterMap.1 hz
    obtain ⟨x, hx, rfl⟩ := List.getElem_of_mem hy
    simp only [List.length_zipIdx, maPlane_length] at hx
    simp only [List.getElem_zipIdx, Nat.zero_add] at hcell
    have hpos : (maBlock o i j).2.2.getD x none = if 32 * i + x < maRows o then some (32 * i + x, j) else none := by
      simp [maBlock, hh, hx]
    rw [hpos] at hcell
    by_cases hrow : 32 * i + x < maRows o
    · rw [if_pos hrow] at hcell
      obtain rfl := Option.some.inj hcell
      refine ⟨i * 4864 + (768 + 128 * x + j), by omega, ?_⟩
      rw [maHeldByte_eq c o (by omega), if_neg (by omega), if_neg (by omega), show (768 + 128 * x + j - 768) % 128 = j by omega,
        show (768 + 128 * x + j - 768) / 128 = x by omega, List.getD_eq_getElem _ _ (by simpa using hx)]
      exact Prod.ext (by simp only; omega) rfl
    · rw [if_neg hrow] at hcell
      cases hcell

theorem maStreamCells_cell {i j : Nat} (hi : i < maRows o) (hj : j < 4) (base p : Nat) {z : Nat × Byte}
    (hz : z ∈ maStreamCells c o base (maBlock o i j) p) : ∃ off < maRows o * 160, z = (base + off, maStreamByte c o p off) := by
  unfold maStreamCells at hz
  rw [maBlock_fst, maBlock_snd] at hz
  rcases List.mem_append.1 hz with hz | hz
  · rcases List.mem_append.1 hz with hz | hz
    · rcases List.mem_append.1 hz with hz | hz
      · obtain ⟨x, hx, rfl⟩ := mem_runCells_getD hz
        rw [maSigns_length] at hx
        refine ⟨160 * i + (4 * j + x), by omega, ?_⟩
        rw [maStreamByte_eq c o (by omega), if_pos (by omega), show (4 * j + x) / 4 = j by omega, show (4 * j + x) % 4 = x by omega]
        exact Prod.ext (by simp only; omega) rfl
      · obtain ⟨x, hx, rfl⟩ := mem_runCells_getD hz
        rw [maUnitBytes_length] at hx
        refine ⟨160 * i + (16 + 2 * j + x), by omega, ?_⟩
        rw [maStreamByte_eq c o (by omega), if_neg (by omega), if_pos (by omega), show (16 + 2 * j + x - 16) / 2 = j by omega,
          show (16 + 2 * j + x - 16) % 2 = x by omega]
        exact Prod.ext (by simp only; omega) rfl
    · obtain ⟨x, hx, rfl⟩ := mem_runCells_getD hz
      rw [List.length_map, maPlane_length] at hx
      refine ⟨160 * i + (32 + 32 * j + x), by omega, ?_⟩
      rw [maStreamByte_eq c o (by omega), if_neg (by omega), if_neg (by omega), if_neg (by omega),
        show (32 + 32 * j + x - 32) / 32 = j by omega, show (32 + 32 * j + x - 32) % 32 = x by omega]
      refine Prod.ext (by simp only; omega) ?_
      simp [hx]
  · obtain ⟨x, hx, rfl⟩ := mem_runCells_getD hz
    rw [List.length_replicate] at hx
    refine ⟨160 * i + (24 + x), by omega, ?_⟩
    rw [maStreamByte_eq c o (by omega), if_neg (by omega), if_neg (by omega), if_pos (by omega)]
    refine Prod.ext (by simp only; omega) ?_
    rw [List.getD_eq_getElem _ _ (by simpa using hx), List.getElem_replicate]

theorem maPlaneCells_cell {i j : Nat} (hij : maIndex o i j) (p : Nat) {z : Nat × Byte} (hz : z ∈ maPlaneCells c o (maBlock o i j) p) :
    ∃ off < maPlaneBytes o, z = (maDst o + p * maPstride o + off, maByte c o p off) := by
  have hN : maN o ≤ 128 := by
    unfold maN bits
    omega
  unfold maPlaneCells at hz
  unfold maIndex at hij
  unfold maPlaneBytes maByte
  cases hh : maHeld o with
  | true =>
    rw [hh] at hij hz
    exact maHeldCells_cell c o hh hij.1 (by have := hij.2; omega) _ p hz
  | false =>
    rw [hh] at hij hz
    exact maStreamCells_cell c o hij.1 (by have := hij.2; omega) _ p hz

/-- The byte at an address of the planes. -/
def maPlaced (a : Nat) : Byte := maByte c o ((a - maDst o) / maPstride o) ((a - maDst o) % maPstride o)

/-- Planes that do not overlap: every cell of every block holds the byte of its address (R76). -/
theorem maBlockCells_are (hs : maPlaneBytes o ≤ maPstride o) : CellsAre (maPlaced c o) ((maBlocks o).flatMap (fun b => (maBlockCells c o b).1)) := by
  intro z hz
  obtain ⟨b, hb, hz⟩ := List.mem_flatMap.1 hz
  obtain ⟨i, j, hij, rfl⟩ := mem_maBlocks o hb
  rw [maBlockCells_eq, ← List.flatMap_def] at hz
  obtain ⟨p, _, hz⟩ := List.mem_flatMap.1 hz
  obtain ⟨off, hoff, rfl⟩ := maPlaneCells_cell c o hij p hz
  have hlt : off < maPstride o := by omega
  have hpos : 0 < maPstride o := by omega
  unfold maPlaced
  rw [show maDst o + p * maPstride o + off - maDst o = maPstride o * p + off by rw [Nat.mul_comm]; omega, Nat.mul_add_div hpos,
    Nat.div_eq_of_lt hlt, Nat.mul_add_mod, Nat.mod_eq_of_lt hlt, Nat.add_zero]

end

/-! ## The issue of an MALIGN (R70) -/

/-- Blocks written one after another: their cells land in order. -/
theorem padRuns_blocks (rs : List RingDecl) (l : List (List (Nat × Byte) × Flags)) (c : Core) : ∃ w pp su pr,
    l.foldl (fun (c : Core) b => c.padRuns rs (mkRuns b.1) false) c =
      { c with pad := (l.flatMap (·.1)).foldl cellPut c.pad, w := w, padPoison := pp, su := su, progress := pr } := by
  induction l generalizing c with
  | nil => exact ⟨_, _, _, _, rfl⟩
  | cons b l ih =>
    obtain ⟨w', pp', su', h'⟩ := c.padRuns_parts rs b.1 false
    obtain ⟨w, pp, su, pr, h⟩ := ih (c.padRuns rs (mkRuns b.1) false)
    refine ⟨w, pp, su, pr, ?_⟩
    rw [List.foldl_cons, h, h', List.flatMap_cons, List.foldl_append]

theorem malignRun_parts (c : Core) (rs : List RingDecl) (o : MatOp) :
    (malignRun c rs o).pad = ((maBlocks o).flatMap (fun b => (maBlockCells c o b).1)).foldl cellPut c.pad ∧
      (malignRun c rs o).mx.bankA = c.mx.bankA ∧ (malignRun c rs o).mx.bankB = c.mx.bankB ∧
      (malignRun c rs o).vx = c.vx ∧ (malignRun c rs o).tasks = c.tasks := by
  obtain ⟨w, pp, su, pr, h⟩ := padRuns_blocks rs ((maBlocks o).map (maBlockCells c o)) c
  obtain ⟨log, hlog⟩ := MatrixEngine.addFlags_parts _ o.uid _
  unfold malignRun
  dsimp only
  rw [hlog, h, List.flatMap_map]
  exact ⟨rfl, rfl, rfl, rfl, rfl⟩

theorem Dev.malign_issues {d : Dev} {n : Nat} {o : MatOp} (ha : (d.core n).mx.aligner = some o) (hb : (d.core n).mx.blocked o = false)
    (hw : (d.core n).writeWaits (d.rings n) (maDstRanges o) = false)
    (hr : (d.core n).readCheck (d.rings n) (d.guard n) .engine (maSrcRanges o) = .ok ()) (hi : maInvalid (d.core n) o = false) :
    d.malign n = d.setCore n (malignRun (d.core n) (d.rings n) o).mxDone := by
  simp [Dev.malign, ha, hb, hw, hr, hi]

/-- Of the banks an issue that keeps them leaves them. -/
theorem Core.mxDone_banks (c : Core) : c.mxDone.mx.bankA = c.mx.bankA ∧ c.mxDone.mx.bankB = c.mx.bankB := by
  obtain ⟨q, a, dr, al, fb, fl, h⟩ := c.mxDone_mx
  rw [h]
  exact ⟨rfl, rfl⟩

/-- Settles O19. -/
theorem drainAndAlignWriteTheirRows : Obligations.DrainAndAlignWriteTheirRows := by
  intro s n o hn hq c rnd
  constructor
  · intro hd hb hw hm
    have honly := onlyCore_setCore s n (drainRun c (s.dev.rings n) o rnd).mxDone
    refine ⟨_, (onEngine_next hn hq (fun d => d.mdrain n)).trans (by rw [Dev.mdrain_issues hd hb hw hm]), ⟨_, honly⟩, ?_⟩
    obtain ⟨_, _, _, hcore, _⟩ := honly
    obtain ⟨hpad, _, hv, htasks⟩ := (drainRun c (s.dev.rings n) o rnd).mxDone_kept
    obtain ⟨hA, hB⟩ := (drainRun c (s.dev.rings n) o rnd).mxDone_banks
    obtain ⟨hpad', hA', hB', hv', htasks'⟩ := drainRun_parts c (s.dev.rings n) o rnd
    have hall := hpad.trans hpad'
    refine ⟨hcore, ?_, ?_, ?_, ?_, fun hs hf => ⟨fun m hm z hz => ?_, fun hp m k hm hk => ?_⟩, fun a ha hf => ?_⟩
    · rw [hcore, hA, hA']
    · rw [hcore, hB, hB']
    · rw [hcore, hv, hv']
    · rw [hcore, htasks, htasks']
    · rw [hcore, Core.padByte_of_pad hall]
      exact drainRows_cells o _ rnd hf _ List.nodup_range (hs.imp_right fun h => by simp [h]) (c, 0#8) (List.mem_range.2 hm) hz
    · rw [hcore]
      exact (Core.padRead_of_pad hall _ _).trans (drainRows_elt o _ rnd hf hp _ List.nodup_range (hs.imp_right fun h => by simp [h])
        (c, 0#8) (List.mem_range.2 hm) hk)
    · rw [hcore, Core.padByte_of_pad hall]
      exact drainRows_other o _ rnd hf _ _ (c, 0#8) fun m hm => ha (_, _) (List.mem_map_of_mem hm)
  · intro ha hb hw hr hi
    have honly := onlyCore_setCore s n (malignRun c (s.dev.rings n) o).mxDone
    refine ⟨_, (onEngine_next hn hq (fun d => d.malign n)).trans (by rw [Dev.malign_issues ha hb hw hr hi]), ⟨_, honly⟩, ?_⟩
    obtain ⟨_, _, _, hcore, _⟩ := honly
    obtain ⟨hpad, _, hv, htasks⟩ := (malignRun c (s.dev.rings n) o).mxDone_kept
    obtain ⟨hA, hB⟩ := (malignRun c (s.dev.rings n) o).mxDone_banks
    obtain ⟨hpad', hA', hB', hv', htasks'⟩ := malignRun_parts c (s.dev.rings n) o
    have hbyte (a : Nat) : (malignRun c (s.dev.rings n) o).mxDone.padByte a =
        cellByte c ((maBlocks o).flatMap (fun b => (maBlockCells c o b).1)) a := by
      unfold Core.padByte
      rw [hpad, hpad']
      exact get_foldl_cellPut c _ a
    refine ⟨?_, ?_, ?_, ?_, fun hs b hb z hz => ?_, fun a ha => ?_⟩
    · rw [hcore, hA, hA']
    · rw [hcore, hB, hB']
    · rw [hcore, hv, hv']
    · rw [hcore, htasks, htasks']
    · rw [hcore, hbyte]
      exact cellByte_of_mem (maBlockCells_are c o hs) (List.mem_flatMap.2 ⟨b, hb, hz⟩) c
    · rw [hcore, hbyte]
      refine cellByte_of_not_mem (fun z hz => ?_) c
      obtain ⟨b, hb, hz⟩ := List.mem_flatMap.1 hz
      exact ha b hb z hz

end Sys2Proof.Machine
end

section
/-! SUPPORT. Element-wise vector instructions (R54, R89, R97, R98); the proof of O14. -/

namespace Sys2Proof.Machine
open Sys2Proof Sys2Proof.Machine.Claims

/-! ## The issue of an instruction on registers (R90, R91) -/

section
variable {s : State} {n : Nat} {o : VecOp} {rest : List VecOp}

theorem vxIssue_issues (h : vecHead s n o rest) {code : Nat} (hc : vOp o = code) (trn : Nat) (run : Dev → Core → VecOp → Core × BitVec 12) :
    s.onEngine n (fun d => d.vxIssue n code trn (run d)) =
      .next (s.vxNext n (run s.dev (s.dev.core n) o).1 trn (run s.dev (s.dev.core n) o).2 o.uid) := by
  rw [onEngine_of_vecHead h]
  simp only [Dev.vxIssue, vxHead_of_vecHead h hc]
  rfl

/-- What an instruction that sets the lanes of its register leaves. -/
theorem State.lanes_effect (hq : (s.dev.core n).vx.queue = o :: rest) (trn r : Nat) (f : Nat → Nat) (fl : BitVec 12) :
    vecWrites s (s.vxNext n ((s.dev.core n).setLanes o.uid r f) trn fl o.uid) n rest r fl f ∧
      ((s.vxNext n ((s.dev.core n).setLanes o.uid r f) trn fl o.uid).dev.core n).vx.idx0 = (s.dev.core n).vx.idx0 := by
  obtain ⟨wr, hs⟩ := (s.dev.core n).setLanes_parts o.uid r f
  have hframes : (s.dev.core n).Frames ((s.dev.core n).setLanes o.uid r f) := by
    rw [hs]
    exact ⟨rfl, rfl, rfl, rfl, rfl, rfl, rfl, rfl, rfl⟩
  obtain ⟨hissued, hctl⟩ := State.vxNext_issued hq hframes trn fl o.uid
  have hkept : padKept s (s.vxNext n ((s.dev.core n).setLanes o.uid r f) trn fl o.uid) n := by
    unfold padKept
    rw [State.vxNext_core, hs]
    exact ⟨rfl, rfl, rfl, rfl, rfl⟩
  refine ⟨⟨hissued, hkept, hctl, ⟨fun q l hl hqr => ?_, fun l hl => ?_⟩, ?_⟩, ?_⟩
  · rw [State.vxNext_core, Core.vxDone_lane, Core.setLanes_lane_ne _ _ _ hl hqr]
  · rw [State.vxNext_core, Core.vxDone_lane, Core.setLanes_lane _ _ _ _ hl]
  · rw [State.vxNext_core, Core.vxDone_vx_flags, hframes.flags]
  · rw [State.vxNext_core, Core.vxDone_idx0, hs]

end

/-! ## Integer results (R97) -/

section
variable (a b : Nat)

theorem signed32_eq : signed 32 a = (BitVec.ofNat 32 a).toInt := by
  rw [BitVec.toInt_eq_toNat_cond, BitVec.toNat_ofNat]
  unfold signed
  split <;> split <;> omega

theorem unsigned32_eq (i : Int) : unsigned 32 i = (BitVec.ofInt 32 i).toNat := by
  rw [BitVec.toNat_ofInt]
  rfl

/-- An integer operation on the words is the one on their signed values, modulo 2^32. -/
theorem int32_eq {f : Int → Int → Int} {g : Word32 → Word32 → Word32} (h : ∀ x y, g x y = BitVec.ofInt 32 (f x.toInt y.toInt)) :
    int32 f = eInt g := by
  funext p a b c
  simp only [int32, eInt, noFlags, signed32_eq, unsigned32_eq, h]

theorem mod_word_mod_32 : b % 2 ^ 32 % 32 = b % 32 := by omega

theorem vectorShl_eq : (fun (_ a b _ : Nat) => (a * 2 ^ (b % 32) % 2 ^ 32, 0#4)) = eInt (fun a b => a <<< (b.toNat % 32)) := by
  funext p a b c
  simp only [eInt, noFlags, BitVec.toNat_shiftLeft, BitVec.toNat_ofNat, Nat.shiftLeft_eq, mod_word_mod_32, Nat.mod_mul_mod]

theorem vectorShr_eq : (fun (_ a b _ : Nat) => (a % 2 ^ 32 / 2 ^ (b % 32), 0#4)) = eInt (fun a b => a >>> (b.toNat % 32)) := by
  funext p a b c
  simp only [eInt, noFlags, BitVec.toNat_ushiftRight, BitVec.toNat_ofNat, Nat.shiftRight_eq_div_pow, mod_word_mod_32]

theorem vectorSra_eq : (fun (_ a b _ : Nat) => (unsigned 32 (signed 32 a / 2 ^ (b % 32)), 0#4)) =
    eInt (fun a b => a.sshiftRight (b.toNat % 32)) := by
  funext p a b c
  simp only [eInt, noFlags, signed32_eq, unsigned32_eq, BitVec.sshiftRight, Int.shiftRight_eq_div_pow, BitVec.toNat_ofNat, mod_word_mod_32]
  push_cast
  rfl

end

/-- What each element-wise instruction issues (Table 4-3). -/
theorem exec_elt : ∀ y ∈ eltTable, ∃ trn, ∀ (n : Nat) (s : State),
    exec (y.1 n) s = s.onEngine n (fun d => d.vxIssue n y.2.1 trn (vMap y.2.2)) := by
  have hadd : int32 (· + ·) = eInt (· + ·) := int32_eq fun x y => by simp [BitVec.ofInt_add]
  have hsub : int32 (· - ·) = eInt (· - ·) := int32_eq fun x y => by simp [Int.sub_eq_add_neg, BitVec.ofInt_add, BitVec.sub_eq_add_neg, BitVec.ofInt_neg]
  have hmul : int32 (· * ·) = eInt (· * ·) := int32_eq fun x y => by simp [BitVec.ofInt_mul]
  have hmax : int32 max = eInt (fun a b => if a.toInt < b.toInt then b else a) := int32_eq fun x y => by
    split
    · next h => rw [max_eq_right (le_of_lt h), BitVec.ofInt_toInt]
    · next h => rw [max_eq_left (not_lt.1 h), BitVec.ofInt_toInt]
  have hmin : int32 min = eInt (fun a b => if a.toInt < b.toInt then a else b) := int32_eq fun x y => by
    split
    · next h => rw [min_eq_left (le_of_lt h), BitVec.ofInt_toInt]
    · next h => rw [min_eq_right (not_lt.1 h), BitVec.ofInt_toInt]
  simp only [eltTable, hadd, hsub, hmul, hmax, hmin, vectorShl_eq, vectorShr_eq, vectorSra_eq, List.forall_mem_cons]
  refine ⟨⟨0, fun _ _ => rfl⟩, ⟨0, fun _ _ => rfl⟩, ⟨0, fun _ _ => rfl⟩, ⟨0, fun _ _ => rfl⟩, ⟨0, fun _ _ => rfl⟩, ⟨0, fun _ _ => rfl⟩,
    ⟨0, fun _ _ => rfl⟩, ⟨0, fun _ _ => rfl⟩, ⟨0, fun _ _ => rfl⟩, ⟨0, fun _ _ => rfl⟩, ⟨0, fun _ _ => rfl⟩, ⟨0, fun _ _ => rfl⟩,
    ⟨0, fun _ _ => rfl⟩, ⟨0, fun _ _ => rfl⟩, ⟨0, fun _ _ => rfl⟩, ⟨0, fun _ _ => rfl⟩, ⟨0, fun _ _ => rfl⟩, ⟨0, fun _ _ => rfl⟩,
    ⟨0, fun _ _ => rfl⟩, ⟨0, fun _ _ => rfl⟩, ⟨0, fun _ _ => rfl⟩, ⟨0, fun _ _ => rfl⟩, ⟨0, fun _ _ => rfl⟩,
    ⟨4, fun _ _ => rfl⟩, ⟨4, fun _ _ => rfl⟩, ⟨4, fun _ _ => rfl⟩, ⟨8, fun _ _ => rfl⟩, ⟨4, fun _ _ => rfl⟩, ⟨4, fun _ _ => rfl⟩,
    ⟨8, fun _ _ => rfl⟩, ⟨8, fun _ _ => rfl⟩, ⟨8, fun _ _ => rfl⟩, ⟨8, fun _ _ => rfl⟩, nofun⟩

/-! ## The lanes of an element-wise instruction (R98) -/

section
variable (g : EltOp) (c : Core) (o : VecOp)

/-- The result of element `hi` of lane l in packed mode, and its flags. -/
def vMapHalf (l : Nat) (hi : Bool) : Nat × BitVec 12 :=
  if c.maskBit (vMk o) (2 * l + b2n hi) then
    ((g 8 (half (c.lane (vVA o) l) hi) (half (opB c o l) hi) (half (c.lane (vVC o) l) hi)).1,
      arithFlags (g 8 (half (c.lane (vVA o) l) hi) (half (opB c o l) hi) (half (c.lane (vVC o) l) hi)).2)
  else (half (c.lane (vVD o) l) hi, 0#12)

/-- The result of lane l, and its flags. -/
def vMapLane (l : Nat) : Nat × BitVec 12 :=
  if vPk o then ((vMapHalf g c o l false).1 + 65536 * (vMapHalf g c o l true).1, (vMapHalf g c o l false).2 ||| (vMapHalf g c o l true).2)
  else if c.maskBit (vMk o) l then
    ((g 24 (c.lane (vVA o) l) (opB c o l) (c.lane (vVC o) l)).1, arithFlags (g 24 (c.lane (vVA o) l) (opB c o l) (c.lane (vVC o) l)).2)
  else (c.lane (vVD o) l, 0#12)

theorem vMap_fst : (vMap g c o).1 =
    c.setLanes o.uid (vVD o) (fun l => (((List.range 256).map (vMapLane g c o)).toArray.getD l (0, 0#12)).1) := rfl

/-- Of the 256 computed lanes, lane l. -/
theorem getD_lanes {α : Type} (f : Nat → α) (d : α) {l : Nat} (h : l < 256) : ((List.range 256).map f).toArray.getD l d = f l := by
  simp [Array.getD, h]

theorem lane_lt (r l : Nat) : c.lane r l % 2 ^ 32 = c.lane r l := Nat.mod_eq_of_lt (BitVec.isLt _)

end

/-- Settles O14. -/
theorem elementwiseInstructionsWriteUnderTheMask : Obligations.ElementwiseInstructionsWriteUnderTheMask := by
  intro s n o rest h y hy hc
  obtain ⟨trn, hexec⟩ := exec_elt y hy
  obtain ⟨⟨hissued, hpad, hctl, hlanes, hflags⟩, hidx⟩ := State.lanes_effect (queue_of_vecHead h) trn (vVD o)
    (fun l => (((List.range 256).map (vMapLane y.2.2 (s.dev.core n) o)).toArray.getD l (0, 0#12)).1) (vMap y.2.2 (s.dev.core n) o).2
  obtain ⟨hother, hlane⟩ := lanesAre_congr (g := fun l => (vMapLane y.2.2 (s.dev.core n) o l).1)
    (fun l hl => congrArg Prod.fst (getD_lanes _ _ hl)) hlanes
  refine ⟨_, (hexec n s).trans (vxIssue_issues h hc trn (fun _ => vMap y.2.2)), hissued, hpad, hctl, hidx,
    fun r l hl hr => hother r l hl hr, fun hp l hl => (hlane l hl).trans ?_, fun hp l hl => (hlane l hl).trans ?_, hflags⟩
  · simp only [vMapLane, hp, Bool.false_eq_true, if_false]
    split
    · rfl
    · exact lane_lt _ _ _
  · simp only [vMapLane, hp, if_true, vMapHalf, apply_ite Prod.fst]
    rfl

end Sys2Proof.Machine
end

section
/-! SUPPORT. Comparisons, mask operations, conversions, reductions, the mailbox (R94 to R104); the proofs of O15 and O16. -/

namespace Sys2Proof.Machine
open Sys2Proof Sys2Proof.Machine.Claims

/-! ## Issues that write a mask or the conversion control -/

section
variable {s : State} {n : Nat} {o : VecOp} {rest : List VecOp}

/-- An issue that changes registers of the vector engine alone. -/
theorem State.vxNext_regs (hq : (s.dev.core n).vx.queue = o :: rest) {k : Core} (hk : ∃ vx, k = { s.dev.core n with vx := vx })
    (hkq : k.vx.queue = (s.dev.core n).vx.queue) (trn : Nat) (f : BitVec 12) (uid : Nat) :
    vecIssued s (s.vxNext n k trn f uid) n rest ∧ padKept s (s.vxNext n k trn f uid) n := by
  have hout : OnlyCoreChanged s (s.vxNext n k trn f uid) n := ⟨_, onlyCore_setCore s n _⟩
  obtain ⟨vx, rfl⟩ := hk
  have hqueue : ((s.vxNext n { s.dev.core n with vx := vx } trn f uid).dev.core n).vx.queue = rest := by
    rw [State.vxNext_core, Core.vxDone_queue, hkq, hq]
    rfl
  unfold padKept
  rw [State.vxNext_core]
  refine ⟨⟨hout, hqueue, ?_⟩, ⟨rfl, rfl, rfl, rfl, rfl⟩⟩
  simp

theorem Core.setMask_parts (c : Core) (uid m : Nat) (v : BitVec 512) : ∃ wr, c.setMask uid m v =
    { c with vx := { c.vx with m := if m = 0 then c.vx.m else Store.set 0#512 c.vx.m m v, wrote := wr } } := by
  unfold Core.setMask
  split
  · exact ⟨_, rfl⟩
  · exact Core.noteWrite_parts _ uid (32 + m)

theorem Core.setMask_maskReg (c : Core) (uid m : Nat) (v : BitVec 512) (q : Nat) :
    (c.setMask uid m v).maskReg q = if q = m ∧ m ≠ 0 then v else c.maskReg q := by
  obtain ⟨wr, h⟩ := c.setMask_parts uid m v
  rw [h]
  unfold Core.maskReg
  by_cases hq : q = 0
  · rw [if_pos hq, if_neg (by omega), if_pos hq]
  · rw [if_neg hq, if_neg hq]
    by_cases hm : m = 0
    · simp [hm]
    · simp only [hm, if_false, Store.get_set, ne_eq, not_false_eq_true, and_true]

/-- What an instruction that writes a mask leaves. -/
theorem State.mask_effect (hq : (s.dev.core n).vx.queue = o :: rest) (m : Nat) (v : BitVec 512) :
    let t := s.vxNext n ((s.dev.core n).setMask o.uid m v) 0 0#12 o.uid
    vecIssued s t n rest ∧ padKept s t n ∧ (t.dev.core n).vx.v = (s.dev.core n).vx.v ∧
      (t.dev.core n).vx.flags = (s.dev.core n).vx.flags ∧ (t.dev.core n).vx.mailbox = (s.dev.core n).vx.mailbox ∧
      ∀ q k, (t.dev.core n).maskBit q k = if q = m ∧ m ≠ 0 then v.getLsbD k else (s.dev.core n).maskBit q k := by
  intro t
  obtain ⟨wr, h⟩ := (s.dev.core n).setMask_parts o.uid m v
  obtain ⟨hissued, hpad⟩ := State.vxNext_regs hq (k := (s.dev.core n).setMask o.uid m v) ⟨_, h⟩ (by rw [h]) 0 0#12 o.uid
  have hflags : ((s.dev.core n).setMask o.uid m v).vx.flags = (s.dev.core n).vx.flags := by rw [h]; rfl
  refine ⟨hissued, hpad, ?_, ?_, ?_, fun q k => ?_⟩
  · rw [State.vxNext_core, Core.vxDone_v, h]
  · rw [State.vxNext_core, Core.vxDone_vx_flags, hflags, BitVec.or_zero]
  · rw [State.vxNext_core, Core.vxDone_mailbox, h]
  · have hreg : (t.dev.core n).maskReg q = ((s.dev.core n).setMask o.uid m v).maskReg q := by
      rw [State.vxNext_core]
      unfold Core.maskReg
      rw [Core.vxDone_m]
    unfold Core.maskBit
    rw [hreg, Core.setMask_maskReg]
    split <;> rfl

end

/-! ## Comparisons (Table 4-3) -/

/-- Bits set or cleared one after another, where `p` lets them be written. -/
theorem getLsbD_foldl_bits {w : Nat} (p r : Nat → Bool) (n : Nat) (old : BitVec w) {j : Nat} (hj : j < w) :
    ((List.range n).foldl (fun (acc : BitVec w) k =>
      if p k then (if r k then acc ||| BitVec.twoPow w k else acc &&& ~~~(BitVec.twoPow w k)) else acc) old).getLsbD j =
      if j < n ∧ p j = true then r j else old.getLsbD j := by
  induction n with
  | zero => simp
  | succ n ih =>
    rw [List.range_succ, List.foldl_append, List.foldl_cons, List.foldl_nil]
    by_cases hn : j = n
    · subst hn
      rw [if_neg (by omega)] at ih
      by_cases hp : p j = true
      · simp only [hp, if_true, Nat.lt_succ_self, and_self]
        cases r j <;> simp [hj]
      · simp only [hp, if_false, Bool.false_eq_true, and_false]
        exact ih
    · simp only [show j < n + 1 ↔ j < n by omega, ← ih]
      split
      · split <;> simp [hn, hj]
      · rfl

/-- The bit that a comparison gives element k. -/
def cmpBit (g : Nat → Nat → Nat → Bool) (c : Core) (o : VecOp) (k : Nat) : Bool :=
  if vPk o then g 8 (half (c.lane (vVA o) (k / 2)) (k % 2 == 1)) (half (opB c o (k / 2)) (k % 2 == 1))
  else g 24 (c.lane (vVA o) k) (opB c o k)

theorem vCmp_eq (g : Nat → Nat → Nat → Bool) (c : Core) (o : VecOp) : vCmp g c o =
    (c.setMask o.uid (vVD o % 8) ((List.range (if vPk o then 512 else 256)).foldl (fun (acc : BitVec 512) k =>
      if c.maskBit (vMk o) k then
        (if cmpBit g c o k then acc ||| BitVec.twoPow 512 k else acc &&& ~~~(BitVec.twoPow 512 k)) else acc) (c.maskReg (vVD o % 8))),
      0#12) := by
  unfold vCmp cmpBit
  dsimp only
  cases vPk o <;> rfl

/-- What each comparison issues. -/
theorem exec_cmp : ∀ y ∈ cmpTable, ∀ (n : Nat) (s : State),
    exec (y.1 n) s = s.onEngine n (fun d => d.vxIssue n y.2.1 0 (vCmp y.2.2)) := by
  have hle : (fun (p a b : Nat) => !isNaN (fromFloat p a) && !isNaN (fromFloat p b) &&
      (numLt (fromFloat p a) (fromFloat p b) || numEq (fromFloat p a) (fromFloat p b))) = fun p a b => cmpLt p a b || cmpEq p a b := by
    funext p a b
    exact Bool.and_or_distrib_left ..
  simp only [cmpTable, hle, List.forall_mem_cons]
  exact ⟨fun _ _ => rfl, fun _ _ => rfl, fun _ _ => rfl, fun _ _ => rfl, fun _ _ => rfl, fun _ _ => rfl, nofun⟩

/-- What each mask operation issues, bit by bit. -/
theorem exec_mask : ∀ y ∈ maskTable, ∃ f : BitVec 512 → BitVec 512 → BitVec 512,
    (∀ a b k, k < 512 → (f a b).getLsbD k = y.2.2 (a.getLsbD k) (b.getLsbD k)) ∧
      ∀ (n : Nat) (s : State), exec (y.1 n) s = s.onEngine n (fun d => d.vxIssue n y.2.1 0 (vMaskOp f)) := by
  simp only [maskTable, List.forall_mem_cons]
  exact ⟨⟨_, fun _ _ _ _ => BitVec.getLsbD_and, fun _ _ => rfl⟩, ⟨_, fun _ _ _ _ => BitVec.getLsbD_or, fun _ _ => rfl⟩,
    ⟨_, fun _ _ _ _ => BitVec.getLsbD_xor, fun _ _ => rfl⟩, ⟨_, fun _ _ _ h => by simp [h], fun _ _ => rfl⟩, nofun⟩

/-- Settles O15. -/
theorem comparisonsAndMaskOperationsWriteTheirMask : Obligations.ComparisonsAndMaskOperationsWriteTheirMask := by
  intro s n o rest h
  constructor
  · intro y hy hc
    obtain ⟨hissued, hpad, hv, hflags, hmail, hbits⟩ := State.mask_effect (queue_of_vecHead h) (vVD o % 8)
      ((List.range (if vPk o then 512 else 256)).foldl (fun (acc : BitVec 512) k =>
        if (s.dev.core n).maskBit (vMk o) k then (if cmpBit y.2.2 (s.dev.core n) o k then acc ||| BitVec.twoPow 512 k
          else acc &&& ~~~(BitVec.twoPow 512 k)) else acc) ((s.dev.core n).maskReg (vVD o % 8)))
    have hnext := vxIssue_issues h hc 0 (fun _ => vCmp y.2.2)
    rw [vCmp_eq] at hnext
    refine ⟨_, (exec_cmp y hy n s).trans hnext, hissued, hpad, hv, hflags, hmail, fun m k hm => ?_, fun k hk => ?_, fun hd k hk => ?_⟩
    · rw [hbits, if_neg (fun hh => hm hh.1)]
    · unfold Core.maskBit Core.maskReg
      rw [if_pos rfl, BitVec.getLsbD_allOnes, decide_eq_true hk]
    · rw [hbits, if_pos ⟨rfl, hd⟩, getLsbD_foldl_bits _ _ _ _ hk]
      have hmode : (k < if vPk o = true then 512 else 256) ↔ (vPk o = true ∨ k < 256) := by
        cases vPk o <;> simp [hk]
      simp only [hmode, and_comm]
      rfl
  · intro y hy hc
    obtain ⟨f, hf, hexec⟩ := exec_mask y hy
    obtain ⟨hissued, hpad, hv, hflags, hmail, hbits⟩ := State.mask_effect (queue_of_vecHead h) (vVD o % 8)
      ((f ((s.dev.core n).maskReg (vVA o % 8)) ((s.dev.core n).maskReg (vVB o % 8)) &&& (s.dev.core n).maskReg (vMk o)) |||
        ((s.dev.core n).maskReg (vVD o % 8) &&& ~~~((s.dev.core n).maskReg (vMk o))))
    have hnext := vxIssue_issues h hc 0 (fun _ => vMaskOp f)
    rw [vMaskOp] at hnext
    refine ⟨_, (hexec n s).trans hnext, hissued, hpad, hv, hflags, hmail, fun m k hm => ?_,
      fun hd k hk => ?_⟩
    · rw [hbits, if_neg (fun hh => hm hh.1)]
    · rw [hbits, if_pos ⟨rfl, hd⟩]
      unfold Core.maskBit
      rw [BitVec.getLsbD_or, BitVec.getLsbD_and, BitVec.getLsbD_and, BitVec.getLsbD_not, hf _ _ k hk]
      cases ((s.dev.core n).maskReg (vMk o)).getLsbD k <;> simp [hk]

/-! ## Conversions and IOTA (R44, R94, R95) -/

section
variable {s : State} {n : Nat} {o : VecOp} {rest : List VecOp}

theorem exec_iota (h : vecHead s n o rest) (hc : vOp o = 0x25) :
    ∃ t, exec (.iota n) s = .next t ∧ (t.dev.core n).vx.idx0 = (s.dev.core n).vx.idx0 ∧
      vecWrites s t n rest (vVD o) 0#12 (fun l => if vPk o then packedLane (s.dev.core n) (vMk o) (vVD o) (fun hi => 2 * l + b2n hi) l
        else if (s.dev.core n).maskBit (vMk o) l then l else (s.dev.core n).lane (vVD o) l) := by
  obtain ⟨hwrites, hidx⟩ := State.lanes_effect (queue_of_vecHead h) 0 (vVD o) (fun l => if vPk o then
    packedLane (s.dev.core n) (vMk o) (vVD o) (fun hi => 2 * l + b2n hi) l
      else if (s.dev.core n).maskBit (vMk o) l then l else (s.dev.core n).lane (vVD o) l) 0#12
  exact ⟨_, vxIssue_issues h hc 0 (fun _ => vIota), hidx, hwrites⟩

theorem exec_cvtf (h : vecHead s n o rest) {i : Instr} {code : Nat} {hi : Bool} (hc : vOp o = code)
    (hexec : exec i s = s.onEngine n (fun d => d.vxIssue n code 0 (vCvtf hi))) :
    ∃ t, exec i s = .next t ∧ (t.dev.core n).vx.idx0 = (s.dev.core n).vx.idx0 ∧ vecWrites s t n rest (vVD o) 0#12 (fun l =>
      if (s.dev.core n).maskBit (vMk o) l then halfOf ((s.dev.core n).lane (vVA o) l) hi * 2 ^ 16 else (s.dev.core n).lane (vVD o) l) := by
  obtain ⟨hwrites, hidx⟩ := State.lanes_effect (queue_of_vecHead h) 0 (vVD o) (fun l =>
    if (s.dev.core n).maskBit (vMk o) l then half ((s.dev.core n).lane (vVA o) l) hi * 65536 else (s.dev.core n).lane (vVD o) l) 0#12
  exact ⟨_, hexec.trans (vxIssue_issues h hc 0 (fun _ => vCvtf hi)), hidx, hwrites⟩

/-- What an instruction that sets lanes and draws random elements leaves. -/
theorem State.lanes_idx_effect (hq : (s.dev.core n).vx.queue = o :: rest) (r : Nat) (f : Nat → Nat) (fl : BitVec 12) (draws : Bool) (j : Nat) :
    let t := s.vxNext n (((s.dev.core n).setLanes o.uid r f).advanceIdx o.uid draws j) 0 fl o.uid
    vecWrites s t n rest r fl f ∧
      (t.dev.core n).vx.idx0 = if draws then (s.dev.core n).vx.idx0 + BitVec.ofNat 32 j else (s.dev.core n).vx.idx0 := by
  intro t
  obtain ⟨wr, hs⟩ := (s.dev.core n).setLanes_parts o.uid r f
  obtain ⟨wr', ha⟩ := ((s.dev.core n).setLanes o.uid r f).advanceIdx_parts o.uid draws j
  have hframes : (s.dev.core n).Frames (((s.dev.core n).setLanes o.uid r f).advanceIdx o.uid draws j) := by
    rw [ha, hs]
    exact ⟨rfl, rfl, rfl, rfl, rfl, rfl, rfl, rfl, rfl⟩
  obtain ⟨hissued, hctl⟩ := State.vxNext_issued hq hframes 0 fl o.uid
  have hlane (q l : Nat) : (t.dev.core n).lane q l = ((s.dev.core n).setLanes o.uid r f).lane q l := by
    rw [State.vxNext_core, Core.vxDone_lane, ha]
    rfl
  have hkept : padKept s t n := by
    unfold padKept
    rw [State.vxNext_core, ha, hs]
    exact ⟨rfl, rfl, rfl, rfl, rfl⟩
  refine ⟨⟨hissued, hkept, hctl, ⟨fun q l hl hqr => ?_, fun l hl => ?_⟩, ?_⟩, ?_⟩
  · rw [hlane, Core.setLanes_lane_ne _ _ _ hl hqr]
  · rw [hlane, Core.setLanes_lane _ _ _ _ hl]
  · rw [State.vxNext_core, Core.vxDone_vx_flags, hframes.flags]
  · rw [State.vxNext_core, Core.vxDone_idx0, ha, hs]

/-- Element `hi` of lane l after CVTB, and its flags. -/
def cvtbHalf (d : Dev) (n : Nat) (c : Core) (o : VecOp) (l : Nat) (hi : Bool) : Nat × BitVec 12 :=
  if c.maskBit (vMk o) (2 * l + b2n hi) then
    ((toFloat 8 (f32 (if hi then opB c o l else c.lane (vVA o) l)) (d.vxRnd n c (vVC o % 4) (2 * l + b2n hi))).1,
      convFlags (toFloat 8 (f32 (if hi then opB c o l else c.lane (vVA o) l)) (d.vxRnd n c (vVC o % 4) (2 * l + b2n hi))).2)
  else (half (c.lane (vVD o) l) hi, 0#12)

/-- Lane l after CVTB, and its flags. -/
def cvtbLane (d : Dev) (n : Nat) (c : Core) (o : VecOp) (l : Nat) : Nat × BitVec 12 :=
  ((cvtbHalf d n c o l false).1 + 65536 * (cvtbHalf d n c o l true).1, (cvtbHalf d n c o l false).2 ||| (cvtbHalf d n c o l true).2)

theorem vCvtb_eq (d : Dev) (n : Nat) (c : Core) (o : VecOp) : vCvtb d n c o =
    ((c.setLanes o.uid (vVD o) (fun l => (((List.range 256).map (cvtbLane d n c o)).toArray.getD l (0, 0#12)).1)).advanceIdx o.uid
      (vVC o % 4 == 1) 512, ((List.range 256).map (cvtbLane d n c o)).foldl (fun f r => f ||| r.2) 0#12) := rfl

/-- The rounding of a conversion with the code 0 or 1 (R95). -/
theorem vxRnd_eq {d : Dev} {c : Core} {mode : Nat} (j : Nat) : d.vxRnd n c mode j = if mode = 0 then Rnd.ne else
    Rnd.sr (genU (d.part (d.partOf n)).seed (d.partStamp (d.partOf n)).step c.vx.sid.toNat ((c.vx.idx0.toNat + j) % 2 ^ 32)) := rfl

theorem cvtb_flags (d : Dev) (n : Nat) (c : Core) (o : VecOp) (i : Nat) :
    (((List.range 256).map (cvtbLane d n c o)).foldl (fun f r => f ||| r.2) 0#12).getLsbD i = true ↔
      ∃ l hi, l < 256 ∧ c.maskBit (vMk o) (2 * l + b2n hi) = true ∧
        (toFloat 8 (f32 (if hi then opB c o l else c.lane (vVA o) l)) (d.vxRnd n c (vVC o % 4) (2 * l + b2n hi))).2.getLsbD i = true := by
  have hhalf (l : Nat) (hi : Bool) : (cvtbHalf d n c o l hi).2.getLsbD i = true ↔ c.maskBit (vMk o) (2 * l + b2n hi) = true ∧
      (toFloat 8 (f32 (if hi then opB c o l else c.lane (vVA o) l)) (d.vxRnd n c (vVC o % 4) (2 * l + b2n hi))).2.getLsbD i = true := by
    unfold cvtbHalf
    by_cases hm : c.maskBit (vMk o) (2 * l + b2n hi) = true <;> simp [hm]
  rw [getLsbD_foldl_or]
  simp only [BitVec.getLsbD_zero, Bool.false_eq_true, false_or, List.mem_map, List.mem_range, exists_exists_and_eq_and, cvtbLane,
    BitVec.getLsbD_or, Bool.or_eq_true, hhalf, Bool.exists_bool]
  constructor
  · rintro ⟨l, hl, h | h⟩
    · exact ⟨l, .inl ⟨hl, h⟩⟩
    · exact ⟨l, .inr ⟨hl, h⟩⟩
  · rintro ⟨l, ⟨hl, h⟩ | ⟨hl, h⟩⟩
    · exact ⟨l, hl, .inl h⟩
    · exact ⟨l, hl, .inr h⟩

/-- `vecWrites` sees the new lanes only as far as there are any. -/
theorem vecWrites_congr {t : State} {r : Nat} {fl : BitVec 12} {f g : Nat → Nat} (h : ∀ l, l < 256 → f l = g l)
    (hw : vecWrites s t n rest r fl f) : vecWrites s t n rest r fl g := by
  obtain ⟨hissued, hpad, hctl, hlanes, hflags⟩ := hw
  exact ⟨hissued, hpad, hctl, lanesAre_congr h hlanes, hflags⟩

theorem exec_cvtb (h : vecHead s n o rest) (hc : vOp o = 0x40) (hv : vVC o % 4 ≤ 1) :
    ∃ t fl, exec (.cvtb n) s = .next t ∧ vecWrites s t n rest (vVD o) fl (fun l => (cvtbLane s.dev n (s.dev.core n) o l).1) ∧
      (∀ i, fl.getLsbD i = true ↔ ∃ l hi, l < 256 ∧ (s.dev.core n).maskBit (vMk o) (2 * l + b2n hi) = true ∧
        (toFloat 8 (f32 (if hi then opB (s.dev.core n) o l else (s.dev.core n).lane (vVA o) l))
          (s.dev.vxRnd n (s.dev.core n) (vVC o % 4) (2 * l + b2n hi))).2.getLsbD i = true) ∧
      (t.dev.core n).vx.idx0 = if vVC o % 4 = 0 then (s.dev.core n).vx.idx0 else (s.dev.core n).vx.idx0 + 512#32 := by
  obtain ⟨hwrites, hidx⟩ := State.lanes_idx_effect (queue_of_vecHead h) (vVD o)
    (fun l => (((List.range 256).map (cvtbLane s.dev n (s.dev.core n) o)).toArray.getD l (0, 0#12)).1)
    (((List.range 256).map (cvtbLane s.dev n (s.dev.core n) o)).foldl (fun f r => f ||| r.2) 0#12) (vVC o % 4 == 1) 512
  have hnext := vxIssue_issues h hc 0 (fun d => vCvtb d n)
  rw [vCvtb_eq] at hnext
  dsimp only at hnext
  have hwrites' := vecWrites_congr (g := fun l => (cvtbLane s.dev n (s.dev.core n) o l).1)
    (fun l hl => congrArg Prod.fst (getD_lanes (cvtbLane s.dev n (s.dev.core n) o) (0, 0#12) hl)) hwrites
  refine ⟨_, ((List.range 256).map (cvtbLane s.dev n (s.dev.core n) o)).foldl (fun f r => f ||| r.2) 0#12, hnext, ?_⟩
  refine ⟨hwrites', ?_⟩
  refine ⟨cvtb_flags s.dev n (s.dev.core n) o, ?_⟩
  refine hidx.trans ?_
  rcases Nat.le_one_iff_eq_zero_or_eq_one.1 hv with hm | hm
  · rw [hm]
    exact (if_neg (by decide)).trans (if_pos rfl).symm
  · rw [hm]
    exact (if_pos (by decide)).trans (if_neg (by decide)).symm

/-! ## Reductions (R101) -/

/-- The group b of a reduction: what is left of its lanes, and the flags. -/
def reduceGroup (ident : Nat) (f : Nat → Nat → Nat × AFlags) (c : Core) (o : VecOp) (b : Nat) : List Nat × BitVec 12 :=
  reduceAll f (3 + vVC o % 8) ((List.range (2 ^ (3 + vVC o % 8))).map (fun i =>
    if c.maskBit (vMk o) (b * 2 ^ (3 + vVC o % 8) + i) then c.lane (vVA o) (b * 2 ^ (3 + vVC o % 8) + i) else ident), 0#12)

theorem exec_reduce : ∀ y ∈ reduceTable, ∀ (n : Nat) (s : State),
    exec (y.1 n) s = s.onEngine n (fun d => d.vxIssue n y.2.1 0 (vReduce y.2.2.1 y.2.2.2)) := by
  simp only [reduceTable, List.forall_mem_cons]
  exact ⟨fun _ _ => rfl, fun _ _ => rfl, fun _ _ => rfl, nofun⟩

theorem reduce_effect (h : vecHead s n o rest) {i : Instr} {code ident : Nat} {f : Nat → Nat → Nat × AFlags} (hc : vOp o = code)
    (hexec : exec i s = s.onEngine n (fun d => d.vxIssue n code 0 (vReduce ident f))) (hv : vVC o % 8 ≤ 5) :
    ∃ t fl, exec i s = .next t ∧ (t.dev.core n).vx.idx0 = (s.dev.core n).vx.idx0 ∧
      vecWrites s t n rest (vVD o) fl (fun l => (reduceGroup ident f (s.dev.core n) o (l / 2 ^ (3 + vVC o % 8))).1.getD 0 0) ∧
      ∀ i, fl.getLsbD i = true ↔ ∃ b, b < 256 / 2 ^ (3 + vVC o % 8) ∧ (reduceGroup ident f (s.dev.core n) o b).2.getLsbD i = true := by
  obtain ⟨⟨hissued, hpad, hctl, hlanes, hflags⟩, hidx⟩ := State.lanes_effect (queue_of_vecHead h) 0 (vVD o)
    (fun l => (((List.range (256 / 2 ^ (3 + vVC o % 8))).map (reduceGroup ident f (s.dev.core n) o)).toArray.getD
      (l / 2 ^ (3 + vVC o % 8)) ([], 0#12)).1.getD 0 0)
    (((List.range (256 / 2 ^ (3 + vVC o % 8))).map (reduceGroup ident f (s.dev.core n) o)).foldl (fun fl r => fl ||| r.2) 0#12)
  have hdvd : 2 ^ (3 + vVC o % 8) ∣ 256 := Nat.pow_dvd_pow 2 (show 3 + vVC o % 8 ≤ 8 by omega)
  refine ⟨_, _, hexec.trans (vxIssue_issues h hc 0 (fun _ => vReduce ident f)), hidx, ⟨hissued, hpad, hctl,
    lanesAre_congr (fun l hl => ?_) hlanes, hflags⟩, fun i => ?_⟩
  · have hlt : l / 2 ^ (3 + vVC o % 8) < 256 / 2 ^ (3 + vVC o % 8) := Nat.div_lt_div_of_lt_of_dvd hdvd hl
    simp [Array.getD, hlt]
  · rw [getLsbD_foldl_or]
    simp

/-! ## The conversion control and the mailbox (R95, R104) -/

theorem exec_vcfg (h : vecHead s n o rest) (hc : vOp o = 0x70) :
    ∃ t, exec (.vcfg n) s = .next t ∧ vecIssued s t n rest ∧ padKept s t n ∧ (t.dev.core n).vx.v = (s.dev.core n).vx.v ∧
      (t.dev.core n).vx.m = (s.dev.core n).vx.m ∧ (t.dev.core n).vx.mailbox = (s.dev.core n).vx.mailbox ∧
      (t.dev.core n).vx.flags = (s.dev.core n).vx.flags ∧
      (t.dev.core n).vx.sid.toNat = bits o.w0 19 8 ∧ (t.dev.core n).vx.sq.toNat = bits o.w0 27 20 ∧
      (t.dev.core n).vx.idx0 = BitVec.ofNat 32 o.w1 := by
  obtain ⟨wr, hk⟩ : ∃ wr, (vCfg (s.dev.core n) o).1 = { s.dev.core n with vx := { (s.dev.core n).vx with
      sid := BitVec.ofNat 12 (bits o.w0 19 8), sq := BitVec.ofNat 8 (bits o.w0 27 20), idx0 := BitVec.ofNat 32 o.w1, wrote := wr } } := by
    unfold vCfg
    dsimp only
    obtain ⟨wr, h1⟩ := Core.noteWrite_parts _ o.uid 40
    rw [h1]
    exact Core.noteWrite_parts _ o.uid 41
  obtain ⟨hissued, hpad⟩ := State.vxNext_regs (queue_of_vecHead h) (k := (vCfg (s.dev.core n) o).1) ⟨_, hk⟩ (by rw [hk]) 0 0#12 o.uid
  have hflags : (vCfg (s.dev.core n) o).1.vx.flags = (s.dev.core n).vx.flags := by rw [hk]; rfl
  refine ⟨_, vxIssue_issues h hc 0 (fun _ => vCfg), hissued, hpad, ?_, ?_, ?_, ?_, ?_, ?_, ?_⟩
  · rw [State.vxNext_core, Core.vxDone_v, hk]
  · rw [State.vxNext_core, Core.vxDone_m, hk]
  · rw [State.vxNext_core, Core.vxDone_mailbox, hk]
  · rw [State.vxNext_core, Core.vxDone_vx_flags, hflags]
    exact BitVec.or_zero
  · rw [State.vxNext_core, Core.vxDone_sid, hk, BitVec.toNat_ofNat]
    exact Nat.mod_eq_of_lt (Nat.mod_lt _ (by decide))
  · rw [State.vxNext_core, Core.vxDone_sq, hk, BitVec.toNat_ofNat]
    exact Nat.mod_eq_of_lt (Nat.mod_lt _ (by decide))
  · rw [State.vxNext_core, Core.vxDone_idx0, hk]

theorem exec_vout (h : vecHead s n o rest) (hc : vOp o = 0x71) (hroom : (s.dev.core n).vx.mailbox.length < 4) :
    ∃ t, exec (.vout n) s = .next t ∧ vecIssued s t n rest ∧ padKept s t n ∧
      (t.dev.core n).vx.v = (s.dev.core n).vx.v ∧ (t.dev.core n).vx.m = (s.dev.core n).vx.m ∧
      (t.dev.core n).vx.flags = (s.dev.core n).vx.flags ∧ (t.dev.core n).vx.idx0 = (s.dev.core n).vx.idx0 ∧
      (t.dev.core n).vx.mailbox.map (·.toNat) = (s.dev.core n).vx.mailbox.map (·.toNat) ++ [(s.dev.core n).lane (vVA o) 0] := by
  have hnext : exec (.vout n) s = .next (s.vxNext n { s.dev.core n with vx := { (s.dev.core n).vx with
      mailbox := (s.dev.core n).vx.mailbox ++ [BitVec.ofNat 32 ((s.dev.core n).lane (vVA o) 0)],
      mailOf := (s.dev.core n).vx.mailOf ++ [o.uid] } } 0 0#12 o.uid) := by
    refine (onEngine_of_vecHead h (fun d => d.vout n)).trans ?_
    simp only [Dev.vout, vxHead_of_vecHead h hc, Nat.not_le.2 hroom, if_false]
    rfl
  obtain ⟨hissued, hpad⟩ := State.vxNext_regs (queue_of_vecHead h) (k := { s.dev.core n with vx := { (s.dev.core n).vx with
      mailbox := (s.dev.core n).vx.mailbox ++ [BitVec.ofNat 32 ((s.dev.core n).lane (vVA o) 0)],
      mailOf := (s.dev.core n).vx.mailOf ++ [o.uid] } }) ⟨_, rfl⟩ rfl 0 0#12 o.uid
  refine ⟨_, hnext, hissued, hpad, ?_, ?_, ?_, ?_, ?_⟩
  · rw [State.vxNext_core, Core.vxDone_v]
  · rw [State.vxNext_core, Core.vxDone_m]
  · rw [State.vxNext_core, Core.vxDone_vx_flags]
    exact BitVec.or_zero
  · rw [State.vxNext_core, Core.vxDone_idx0]
  · rw [State.vxNext_core, Core.vxDone_mailbox, List.map_append]
    refine congrArg (_ ++ ·) ?_
    rw [List.map_singleton, BitVec.toNat_ofNat, lane_lt]

theorem exec_vout_waits (h : vecHead s n o rest) (hc : vOp o = 0x71) (hfull : 4 ≤ (s.dev.core n).vx.mailbox.length) :
    ∃ t, exec (.vout n) s = .next t ∧ OnlyCoreChanged { s with dev := { s.dev with freeIx := s.dev.freeIx + 1 } } t n ∧
      (t.dev.core n).vx.queue = o :: rest ∧ (t.dev.core n).vx.mailbox = (s.dev.core n).vx.mailbox := by
  have hnext : exec (.vout n) s = .next { s with dev := s.dev.vxWaits n } := by
    refine (onEngine_of_vecHead h (fun d => d.vout n)).trans ?_
    simp only [Dev.vout, vxHead_of_vecHead h hc, hfull, if_true]
  refine ⟨_, hnext, ⟨_, onlyCore_setCore { s with dev := { s.dev with freeIx := s.dev.freeIx + 1 } } n _⟩, ?_, ?_⟩
  · exact (congrArg (fun c : Core => c.vx.queue) (Dev.modCore_core_self s.dev.freshCycles.2 n _)).trans (queue_of_vecHead h)
  · exact (congrArg (fun c : Core => c.vx.mailbox) (Dev.modCore_core_self s.dev.freshCycles.2 n _)).trans rfl

end

/-- Settles O16. -/
theorem iotaConversionsReductionsAndMailbox : Obligations.IotaConversionsReductionsAndMailbox := by
  intro s n o rest h c
  refine ⟨exec_iota h, fun y hy hc => ?_, fun hc hv => ?_, fun y hy hc hv => reduce_effect h hc (exec_reduce y hy n s) hv,
    exec_vcfg h, exec_vout h, exec_vout_waits h⟩
  · simp only [List.mem_cons, List.not_mem_nil, or_false] at hy
    obtain rfl | rfl := hy
    · exact exec_cvtf h hc rfl
    · exact exec_cvtf h hc rfl
  · obtain ⟨t, fl, hexec, hwrites, hflags, hidx⟩ := exec_cvtb h hc hv
    refine ⟨t, fl, hexec, vecWrites_congr (fun l _ => ?_) hwrites, hflags, hidx⟩
    simp only [cvtbLane, cvtbHalf, apply_ite Prod.fst]
    rfl

end Sys2Proof.Machine
end

section
/-! SUPPORT. The functions of the model that write no byte of the unified range. -/

namespace Sys2Proof.Machine
open Sys2Proof

@[simp] theorem foldl_mem {α : Type} {f : Dev → α → Dev} (l : List α) (d : Dev) (h : ∀ d a, (f d a).mem = d.mem) :
    (l.foldl f d).mem = d.mem := foldl_keeps Dev.mem h l d

@[simp] theorem Dev.setCtx_mem (d : Dev) (c : ℕ) (x : Context) : (d.setCtx c x).mem = d.mem := by
  rfl

@[simp] theorem Dev.modNet_mem (d : Dev) (n : ℕ) (f : Network → Network) : (d.modNet n f).mem = d.mem := by
  unfold Dev.modNet
  split <;> simp

@[simp] theorem Dev.fresh32_mem (d : Dev) : (d.fresh32).2.mem = d.mem := by
  rfl

@[simp] theorem Dev.freshChoice_mem (d : Dev) (n : ℕ) : (d.freshChoice n).2.mem = d.mem := by
  rfl

@[simp] theorem Dev.freshCycles_mem (d : Dev) : (d.freshCycles).2.mem = d.mem := by
  rfl

@[simp] theorem Dev.portCnt_mem (d : Dev) (e : ℕ) (i : ℕ) : (d.portCnt e i).mem = d.mem := by
  rfl

@[simp] theorem Dev.leave_mem (d : Dev) (e : ℕ) (t : Tx) : (d.leave e t).mem = d.mem := by
  rfl

@[simp] theorem Dev.anyPort_mem (d : Dev) (net : ℕ) : (d.anyPort net).2.mem = d.mem := by
  rfl

@[simp] theorem Dev.sendCmd_mem (d : Dev) (dst : ℕ) (t : Tx) : (d.sendCmd dst t).mem = d.mem := by
  unfold Dev.sendCmd
  split <;> simp

@[simp] theorem Dev.setTm_mem (d : Dev) (page : ℕ) (e : TmEntry) : (d.setTm page e).mem = d.mem := by
  rfl

@[simp] theorem Dev.combAlloc_mem (d : Dev) (line : ℕ) : (d.combAlloc line).mem = d.mem := by
  rfl

@[simp] theorem Dev.combUse_mem (d : Dev) (line : ℕ) : (d.combUse line).mem = d.mem := by
  unfold Dev.combUse
  dsimp only
  split <;> simp

@[simp] theorem Dev.tableFill_mem (d : Dev) (a : ℕ) : (d.tableFill a).mem = d.mem := by
  rfl

@[simp] theorem Dev.acct_mem (d : Dev) (c : ℕ) (f : Account → Account) : (d.acct c f).mem = d.mem := by
  rfl

@[simp] theorem Dev.wakeDev_mem (d : Dev) (dev : ℕ) : (d.wakeDev dev).mem = d.mem := by
  unfold Dev.wakeDev
  repeat' split
  all_goals simp

@[simp] theorem Dev.countDev_mem (d : Dev) (c : ℕ) (dev : ℕ) (n : ℕ) (write : Bool) : (d.countDev c dev n write).mem = d.mem := by
  unfold Dev.countDev
  repeat' split
  all_goals simp

@[simp] theorem Dev.touch_mem (d : Dev) (a : ℕ) : (d.touch a).mem = d.mem := by
  unfold Dev.touch
  dsimp only
  split <;> simp

@[simp] theorem Dev.takeTokens_mem (d : Dev) (dev : ℕ) (n : ℕ) : (d.takeTokens dev n).mem = d.mem := by
  unfold Dev.takeTokens
  repeat' split
  all_goals simp

@[simp] theorem Dev.modTokens_mem (d : Dev) (dev : ℕ) (f : TokenTurn → TokenTurn) : (d.modTokens dev f).mem = d.mem := by
  unfold Dev.modTokens
  repeat' split
  all_goals simp

@[simp] theorem Dev.tokensShort_mem (d : Dev) (dev : ℕ) (n : ℕ) : (d.tokensShort dev n).mem = d.mem := by
  simp [Dev.tokensShort]

@[simp] theorem Dev.serveTokens_mem (d : Dev) (dev : ℕ) (n : ℕ) (len : ℕ) : (d.serveTokens dev n len).mem = d.mem := by
  simp [Dev.serveTokens]

@[simp] theorem Dev.record_mem (d : Dev) (r : Raise) : (d.record r).mem = d.mem := by
  rfl

@[simp] theorem Dev.sendEvent_mem (d : Dev) (ch : ℕ) (e : Event) : (d.sendEvent ch e).mem = d.mem := by
  simp [Dev.sendEvent]

@[simp] theorem Dev.emit_mem (d : Dev) (ch : ℕ) (r : Raise) : (d.emit ch r).mem = d.mem := by
  unfold Dev.emit
  dsimp only
  split <;> simp

@[simp] theorem Dev.tellLost_mem (d : Dev) (ch : ℕ) : (d.tellLost ch).mem = d.mem := by
  unfold Dev.tellLost
  dsimp only
  split <;> simp

@[simp] theorem Dev.raise_mem (d : Dev) (r : Raise) : (d.raise r).mem = d.mem := by
  unfold Dev.raise
  repeat' split
  all_goals simp

@[simp] theorem Dev.recordOnly_mem (d : Dev) (code : ℕ) (part : ℕ) (detail : List ℕ) : (d.recordOnly code part detail).mem = d.mem := by
  simp [Dev.recordOnly]

@[simp] theorem Dev.unloadFault_mem (d : Dev) (code : ℕ) (part : ℕ) (ctx : ℕ) (detail : List ℕ) : (d.unloadFault code part ctx detail).mem = d.mem := by
  simp [Dev.unloadFault]

@[simp] theorem Dev.coreContextFault_mem (d : Dev) (n : ℕ) (fi : FaultInfo) : (d.coreContextFault n fi).mem = d.mem := by
  simp [Dev.coreContextFault]

@[simp] theorem Dev.abortSaved_mem (d : Dev) (c : ℕ) (n : ℕ) (uid : ℕ) (fi : FaultInfo) : (d.abortSaved c n uid fi).mem = d.mem := by
  simp [Dev.abortSaved]

@[simp] theorem Dev.freePage_mem (d : Dev) (p : ℕ) (dev : ℕ) : (d.freePage p dev).2.mem = d.mem := by
  unfold Dev.freePage
  dsimp only
  split <;> simp

@[simp] theorem Dev.queueMove_mem (d : Dev) (m : Move) : (d.queueMove m).mem = d.mem := by
  unfold Dev.queueMove
  dsimp only
  repeat' split
  all_goals simp

@[simp] theorem Dev.promotePage_mem (d : Dev) (c : ℕ) (tgt : ℕ) (page : ℕ) : (d.promotePage c tgt page).mem = d.mem := by
  unfold Dev.promotePage
  dsimp only
  repeat' split
  all_goals simp

@[simp] theorem Dev.demotePage_mem (d : Dev) (c : ℕ) (page : ℕ) : (d.demotePage c page).mem = d.mem := by
  unfold Dev.demotePage
  dsimp only
  repeat' split
  all_goals simp

@[simp] theorem Dev.dueStep_mem (d : Dev) (c : ℕ) (e : List ℕ) (left : ℕ) : (d.dueStep c e left).mem = d.mem := by
  rfl

@[simp] theorem Dev.clearRefs_mem (d : Dev) (pages : List ℕ) : (d.clearRefs pages).mem = d.mem := by
  simp [Dev.clearRefs]

@[simp] theorem Dev.victim_mem (d : Dev) (x : ℕ) : (d.victim x).2.mem = d.mem := by
  unfold Dev.victim
  dsimp only
  repeat' split
  all_goals simp

@[simp] theorem Dev.startRun_mem (d : Dev) (ch : ℕ) (page : ℕ) (dev : ℕ) (ppn : ℕ) (retire : Bool) (back : Bool) (ctx : Option ℕ) :
    (d.startRun ch page dev ppn retire back ctx).mem = d.mem := by
  rfl

@[simp] theorem Dev.setRun_mem (d : Dev) (r : MoveRun) : (d.setRun r).mem = d.mem := by
  rfl

@[simp] theorem Dev.cursorOf_mem (d : Dev) (r : MoveRun) : (d.cursorOf r).2.mem = d.mem := by
  unfold Dev.cursorOf
  split <;> simp

@[simp] theorem Dev.meterRun_mem (d : Dev) (r : MoveRun) : (d.meterRun r).mem = d.mem := by
  unfold Dev.meterRun
  dsimp only
  repeat' split
  all_goals simp

@[simp] theorem Dev.meterRuns_mem (d : Dev) : (d.meterRuns).mem = d.mem := by
  simp [Dev.meterRuns]

@[simp] theorem Dev.keepPhys_mem (d : Dev) (page : ℕ) (dev : ℕ) (ppn : ℕ) : (d.keepPhys page dev ppn).mem = d.mem := by
  rfl

@[simp] theorem Dev.freePhys_mem (d : Dev) (part : ℕ) (ctx : ℕ) (dev : ℕ) (ppn : ℕ) : (d.freePhys part ctx dev ppn).mem = d.mem := by
  unfold Dev.freePhys
  dsimp only
  split <;> simp

@[simp] theorem Dev.settleLeaving_mem (d : Dev) : (d.settleLeaving).mem = d.mem := by
  simp [Dev.settleLeaving, apply_ite Dev.mem]

@[simp] theorem Dev.leavePage_mem (d : Dev) (page : ℕ) (part : ℕ) (ctx : ℕ) (dev : ℕ) (ppn : ℕ) : (d.leavePage page part ctx dev ppn).mem = d.mem := by
  simp [Dev.leavePage]

@[simp] theorem Dev.dropMove_mem (d : Dev) (m : Move) : (d.dropMove m).mem = d.mem := by
  rfl

@[simp] theorem Dev.capacityLoss_mem (d : Dev) (page : ℕ) : (d.capacityLoss page).mem = d.mem := by
  simp [Dev.capacityLoss]

@[simp] theorem Dev.tryMove_mem (d : Dev) (ch : ℕ) (m : Move) : (d.tryMove ch m).mem = d.mem := by
  unfold Dev.tryMove
  dsimp only
  repeat' split
  all_goals simp

@[simp] theorem Dev.flip_mem (d : Dev) (r : MoveRun) : (d.flip r).mem = d.mem := by
  unfold Dev.flip
  dsimp only
  repeat' split
  all_goals simp

@[simp] theorem Dev.flips_mem (d : Dev) (p : ℕ) : (d.flips p).mem = d.mem := by
  simp [Dev.flips]

@[simp] theorem Dev.uncorrectable_mem (d : Dev) (st : ℕ) (phys : ℕ) (uni : Option ℕ) (part : ℕ) (ctx : ℕ) (lcore : ℕ) :
    (d.uncorrectable st phys uni part ctx lcore).mem = d.mem := by
  unfold Dev.uncorrectable
  split <;> simp

@[simp] theorem Dev.combError_mem (d : Dev) (u : ℕ) (g : ℕ) : (d.combError u g).mem = d.mem := by
  unfold Dev.combError
  repeat' split
  all_goals simp

@[simp] theorem Dev.padError_mem (d : Dev) (n : ℕ) (g : ℕ) : (d.padError n g).mem = d.mem := by
  unfold Dev.padError
  split <;> simp

@[simp] theorem Dev.schedError_mem (d : Dev) (g : ℕ) : (d.schedError g).mem = d.mem := by
  unfold Dev.schedError
  split <;> simp

@[simp] theorem Dev.accError_mem (d : Dev) (x : ℕ) (k : ℕ) (g : ℕ) : (d.accError x k g).mem = d.mem := by
  unfold Dev.accError
  split <;> simp

@[simp] theorem Dev.semAdd_mem (d : Dev) (n : ℕ) (i : ℕ) (cnt : ℕ) (src : Option SignalFrom) : (d.semAdd n i cnt src).mem = d.mem := by
  unfold Dev.semAdd
  dsimp only
  repeat' split
  all_goals simp

@[simp] theorem Dev.signal_mem (d : Dev) (n : ℕ) (i : ℕ) (cnt : ℕ) (src : SignalFrom) : (d.signal n i cnt src).mem = d.mem := by
  unfold Dev.signal
  dsimp only
  split <;> simp

@[simp] theorem Dev.streamFault_mem (d : Dev) (n : ℕ) (uid : ℕ) (tid : ℕ) (pc : ℕ) (f : ArmFault) : (d.streamFault n uid tid pc f).mem = d.mem := by
  unfold Dev.streamFault
  split <;> simp

@[simp] theorem Dev.arm_mem (d : Dev) (n : ℕ) (uid : ℕ) (tid : ℕ) (pc : ℕ) (i : ℕ) (img : List ℕ) : (d.arm n uid tid pc i img).mem = d.mem := by
  unfold Dev.arm
  dsimp only
  split <;> simp

@[simp] theorem Dev.openWindow_mem (d : Dev) (n : ℕ) (i : ℕ) (img : List ℕ) (owner : Option (ℕ × ℕ)) (pc : ℕ) :
    (d.openWindow n i img owner pc).mem = d.mem := by
  unfold Dev.openWindow
  dsimp only
  repeat' split
  all_goals simp

@[simp] theorem Dev.suWaits_mem (d : Dev) (n : ℕ) (i : ℕ) : (d.suWaits n i).mem = d.mem := by
  rfl

@[simp] theorem Dev.prefetchPromotion_mem (d : Dev) (page : ℕ) : (d.prefetchPromotion page).mem = d.mem := by
  unfold Dev.prefetchPromotion
  dsimp only
  split <;> simp

@[simp] theorem Dev.startKind_mem (d : Dev) (n : ℕ) (i : ℕ) (kind : ℕ) : (d.startKind n i kind).mem = d.mem := by
  unfold Dev.startKind
  repeat' split
  all_goals simp

@[simp] theorem Dev.guardClear_mem (d : Dev) (n : ℕ) (i : ℕ) : (d.guardClear n i).mem = d.mem := by
  unfold Dev.guardClear
  repeat' split
  all_goals simp

@[simp] theorem Dev.completeDesc_mem (d : Dev) (n : ℕ) (i : ℕ) : (d.completeDesc n i).mem = d.mem := by
  unfold Dev.completeDesc
  repeat' split
  all_goals simp

@[simp] theorem Dev.modTask_mem (d : Dev) (n : ℕ) (ix : ℕ) (f : TaskRun → TaskRun) : (d.modTask n ix f).mem = d.mem := by
  rfl

@[simp] theorem Dev.advance_mem (d : Dev) (n : ℕ) (ix : ℕ) : (d.advance n ix).mem = d.mem := by
  rfl

@[simp] theorem Dev.result_mem (d : Dev) (n : ℕ) (ix : ℕ) (xd : XReg) (v : Word64) : (d.result n ix xd v).mem = d.mem := by
  rfl

@[simp] theorem Dev.ctlFault_mem (d : Dev) (n : ℕ) (ix : ℕ) (t : TaskRun) (code : ℕ) (addr : ℕ) (uni : Bool) :
    (d.ctlFault n ix t code addr uni).mem = d.mem := by
  unfold Dev.ctlFault
  split <;> simp

@[simp] theorem Dev.fetch_mem (d : Dev) (n : ℕ) (pc : ℕ) : (d.fetch n pc).mem = d.mem := by
  unfold Dev.fetch
  dsimp only
  split <;> simp

@[simp] theorem Dev.twsw_mem (d : Dev) (n : ℕ) : (d.twsw n).mem = d.mem := by
  rfl

@[simp] theorem Dev.cacheLine_mem (d : Dev) (n : ℕ) (line : ℕ) (bs : List Byte) : (d.cacheLine n line bs).mem = d.mem := by
  unfold Dev.cacheLine
  dsimp only
  split <;> simp

@[simp] theorem Dev.fillBuckets_mem (d : Dev) (p : ℕ) : (d.fillBuckets p).mem = d.mem := by
  simp [Dev.fillBuckets, apply_ite Dev.mem]

@[simp] theorem Dev.modCtxCore_mem (d : Dev) (p : ℕ) (c : ℕ) (n : ℕ) (f : Core → Core) : (d.modCtxCore p c n f).mem = d.mem := by
  unfold Dev.modCtxCore
  split <;> simp

@[simp] theorem Dev.completeAll_mem (d : Dev) (n : ℕ) : (d.completeAll n).mem = d.mem := by
  simp [Dev.completeAll]

@[simp] theorem Dev.emptyCore_mem (d : Dev) (n : ℕ) : (d.emptyCore n).mem = d.mem := by
  rfl

@[simp] theorem Dev.endJob_mem (d : Dev) (q : ℕ) (cseq : ℕ) (detail : List ℕ) : (d.endJob q cseq detail).mem = d.mem := by
  rfl

@[simp] theorem Dev.modPeer_mem (d : Dev) (k : ℕ) (f : Peer → Peer) : (d.modPeer k f).mem = d.mem := by
  rfl

@[simp] theorem Dev.acctNet_mem (d : Dev) (c : ℕ) (net : ℕ) (n : ℕ) (tx : Bool) : (d.acctNet c net n tx).mem = d.mem := by
  rfl

@[simp] theorem Dev.setSend_mem (d : Dev) (p : ℕ) (i : ℕ) (x : SendChan) : (d.setSend p i x).mem = d.mem := by
  rfl

@[simp] theorem Dev.setRecv_mem (d : Dev) (p : ℕ) (i : ℕ) (x : RecvChan) : (d.setRecv p i x).mem = d.mem := by
  rfl

@[simp] theorem Dev.modSend_mem (d : Dev) (p : ℕ) (i : ℕ) (f : SendChan → SendChan) : (d.modSend p i f).mem = d.mem := by
  unfold Dev.modSend
  split <;> simp

@[simp] theorem Dev.modRecv_mem (d : Dev) (p : ℕ) (i : ℕ) (f : RecvChan → RecvChan) : (d.modRecv p i f).mem = d.mem := by
  unfold Dev.modRecv
  split <;> simp

@[simp] theorem Dev.acctChan_mem (d : Dev) (chan : ℕ) (entry : List ℕ) (net : ℕ) (n : ℕ) (tx : Bool) : (d.acctChan chan entry net n tx).mem = d.mem := by
  unfold Dev.acctChan
  split <;> simp

@[simp] theorem Dev.dropChannels_mem (d : Dev) (p : ℕ) : (d.dropChannels p).mem = d.mem := by
  rfl

@[simp] theorem Dev.awayDone_mem (d : Dev) (p : ℕ) (c : ℕ) (t : ℕ × ℕ) (n : ℕ) : (d.awayDone p c t n).mem = d.mem := by
  unfold Dev.awayDone
  dsimp only
  split <;> simp

@[simp] theorem Dev.acked_mem (d : Dev) (p : ℕ) (i : ℕ) (k : SentPkt) : (d.acked p i k).mem = d.mem := by
  unfold Dev.acked
  repeat' split
  all_goals simp

@[simp] theorem Dev.endReplay_mem (d : Dev) (p : ℕ) (result : ℕ) (step : ℕ) : (d.endReplay p result step).mem = d.mem := by
  unfold Dev.endReplay
  split <;> simp

@[simp] theorem Dev.releaseRecords_mem (d : Dev) (c : ℕ) (n : ℕ) : (d.releaseRecords c n).mem = d.mem := by
  unfold Dev.releaseRecords
  dsimp only
  split <;> simp

@[simp] theorem Dev.parityReceipt_mem (d : Dev) (p : ℕ) (member : ℕ) (step : ℕ) (k : ℕ) (offset : ℕ) (bs : List Byte) :
    (d.parityReceipt p member step k offset bs).mem = d.mem := by
  unfold Dev.parityReceipt
  dsimp only
  split <;> simp

@[simp] theorem Dev.mirrorRecord_mem (d : Dev) (p : ℕ) (rank : ℕ) (r : LogRecord) : (d.mirrorRecord p rank r).mem = d.mem := by
  unfold Dev.mirrorRecord
  dsimp only
  split <;> simp

@[simp] theorem Dev.storeDigests_mem (d : Dev) (p : ℕ) (rank : ℕ) (offset : ℕ) (bs : List Byte) : (d.storeDigests p rank offset bs).mem = d.mem := by
  rfl

@[simp] theorem Dev.vxWaits_mem (d : Dev) (n : ℕ) : (d.vxWaits n).mem = d.mem := by
  rfl

@[simp] theorem Dev.vxIssue_mem (d : Dev) (n : ℕ) (code : ℕ) (trn : ℕ) (f : Core → VecOp → Core × BitVec 12) : (d.vxIssue n code trn f).mem = d.mem := by
  unfold Dev.vxIssue
  dsimp only
  repeat' split
  all_goals simp

@[simp] theorem Dev.vxFault_mem (d : Dev) (n : ℕ) (o : VecOp) (code : ℕ) (addr : ℕ) : (d.vxFault n o code addr).mem = d.mem := by
  simp [Dev.vxFault]

@[simp] theorem Dev.vxLoad_mem (d : Dev) (n : ℕ) (code : ℕ) (ranges : VecOp → List (ℕ × ℕ)) (run : Core → VecOp → Core × BitVec 12) :
    (d.vxLoad n code ranges run).mem = d.mem := by
  unfold Dev.vxLoad
  dsimp only
  repeat' split
  all_goals simp

@[simp] theorem Dev.vxStore_mem (d : Dev) (n : ℕ) (code : ℕ) (ranges : VecOp → List (ℕ × ℕ)) (run : List RingDecl → Core → VecOp → Core × BitVec 12) :
    (d.vxStore n code ranges run).mem = d.mem := by
  unfold Dev.vxStore
  dsimp only
  repeat' split
  all_goals simp

@[simp] theorem Dev.vout_mem (d : Dev) (n : ℕ) : (d.vout n).mem = d.mem := by
  unfold Dev.vout
  dsimp only
  repeat' split
  all_goals simp

@[simp] theorem Dev.freeSlot_mem (d : Dev) (x : ℕ) (k : ℕ) : (d.freeSlot x k).mem = d.mem := by
  rfl

@[simp] theorem Dev.finishStep_mem (d : Dev) (p : ℕ) (s : ℕ) : (d.finishStep p s).mem = d.mem := by
  unfold Dev.finishStep
  dsimp only
  repeat' split
  all_goals simp

@[simp] theorem Dev.contribDone_mem (d : Dev) (q : Contrib) : (d.contribDone q).mem = d.mem := by
  unfold Dev.contribDone
  split <;> simp

@[simp] theorem Dev.uwait_mem (d : Dev) (x : ℕ) : (d.uwait x).mem = d.mem := by
  rfl

@[simp] theorem Dev.issue_mem (d : Dev) (n : ℕ) (i : ℕ) (s : SDesc) (tag : ℕ) (len : ℕ) (light : Bool) (ring : Bool) (page : Option ℕ) (runs : List (Dest × List Byte × Bool)) :
    (d.issue n i s tag len light ring page runs).mem = d.mem := by
  rfl

@[simp] theorem Dev.keepDesc_mem (d : Dev) (n : ℕ) (i : ℕ) (s : SDesc) : (d.keepDesc n i s).mem = d.mem := by
  rfl

@[simp] theorem Dev.extend_mem (d : Dev) (n : ℕ) (i : ℕ) (s : SDesc) (bs : List Byte) (pois : Bool) : (d.extend n i s bs pois).mem = d.mem := by
  rfl

@[simp] theorem Dev.rxd_mem (d : Dev) (net : ℕ) : (d.rxd net).mem = d.mem := by
  rfl

@[simp] theorem Dev.sendPfc_mem (d : Dev) (e : ℕ) (prio : ℕ) (on : Bool) : (d.sendPfc e prio on).mem = d.mem := by
  rfl

@[simp] theorem Dev.forward_mem (d : Dev) (inPort : ℕ) (e : ℕ) (mac : ℕ) (f : EthFrame) : (d.forward inPort e mac f).mem = d.mem := by
  unfold Dev.forward
  dsimp only
  repeat' split
  all_goals simp

@[simp] theorem Dev.netSignal_mem (d : Dev) (p : ℕ) (c : ℕ) (core : ℕ) (entry : ℕ) : (d.netSignal p c core entry).mem = d.mem := by
  unfold Dev.netSignal
  split <;> simp

@[simp] theorem Dev.openRecovery_mem (d : Dev) (p : ℕ) (h : DataHdr) : (d.openRecovery p h).mem = d.mem := by
  unfold Dev.openRecovery
  split <;> simp

@[simp] theorem Dev.announce_mem (d : Dev) (net : ℕ) (src : ℕ) (payload : List Byte) : (d.announce net src payload).mem = d.mem := by
  simp [Dev.announce]

@[simp] theorem Dev.failback_mem (d : Dev) (p : ℕ) (peer : ℕ) : (d.failback p peer).mem = d.mem := by
  unfold Dev.failback
  dsimp only
  repeat' split
  all_goals simp

@[simp] theorem Dev.wakeFrame_mem (d : Dev) (f : ℕ) : (d.wakeFrame f).mem = d.mem := by
  unfold Dev.wakeFrame
  split <;> simp

@[simp] theorem Dev.wakeFrames_mem (d : Dev) (p : ℕ) : (d.wakeFrames p).mem = d.mem := by
  simp [Dev.wakeFrames]

@[simp] theorem Dev.program_mem (d : Dev) : (d.program).mem = d.mem := by
  unfold Dev.program
  split <;> simp

@[simp] theorem Dev.raiseWaiting_mem (d : Dev) : (d.raiseWaiting).mem = d.mem := by
  unfold Dev.raiseWaiting
  repeat' split
  all_goals simp

@[simp] theorem Dev.flush_mem (d : Dev) : (d.flush).mem = d.mem := by
  simp [Dev.flush]

@[simp] theorem Dev.stageEvents_mem (d : Dev) (code : ℕ) (old : ℕ) (new : ℕ) (detail : List ℕ) : (d.stageEvents code old new detail).mem = d.mem := by
  unfold Dev.stageEvents
  repeat' split
  all_goals simp

@[simp] theorem Dev.keepReading_mem (d : Dev) (u : SenseUnit) (r : Option ℤ) : (d.keepReading u r).mem = d.mem := by
  unfold Dev.keepReading
  repeat' split
  all_goals simp

@[simp] theorem Dev.scheduleDue_mem (d : Dev) (c : ℕ) : (d.scheduleDue c).mem = d.mem := by
  unfold Dev.scheduleDue
  dsimp only
  split <;> simp

@[simp] theorem Dev.advanceStamp_mem (d : Dev) (p : ℕ) (c : ℕ) : (d.advanceStamp p c).mem = d.mem := by
  rfl

@[simp] theorem Dev.countWaits_mem (d : Dev) (p : ℕ) : (d.countWaits p).mem = d.mem := by
  simp [Dev.countWaits, apply_ite Dev.mem]

@[simp] theorem Dev.holdPart_mem (d : Dev) (p : ℕ) (holdc : ℕ) : (d.holdPart p holdc).mem = d.mem := by
  rfl

@[simp] theorem Dev.bareStep_mem (d : Dev) (p : ℕ) (s : ℕ) : (d.bareStep p s).mem = d.mem := by
  unfold Dev.bareStep
  split <;> simp

@[simp] theorem Dev.endStep_mem (d : Dev) (p : ℕ) (r : Option ℕ) (s : ℕ) : (d.endStep p r s).mem = d.mem := by
  unfold Dev.endStep
  split <;> simp

@[simp] theorem Dev.park_mem (d : Dev) (p : ℕ) (r : ℕ) : (d.park p r).mem = d.mem := by
  unfold Dev.park
  split <;> simp

@[simp] theorem Dev.deadlock_mem (d : Dev) (p : ℕ) (c : ℕ) : (d.deadlock p c).mem = d.mem := by
  unfold Dev.deadlock
  repeat' split
  all_goals simp

@[simp] theorem Dev.barrierTimeout_mem (d : Dev) (p : ℕ) : (d.barrierTimeout p).mem = d.mem := by
  unfold Dev.barrierTimeout
  dsimp only
  split <;> simp

@[simp] theorem Dev.ftCommit_mem (d : Dev) : (d.ftCommit).mem = d.mem := by
  rfl

@[simp] theorem Dev.ptCommit_mem (d : Dev) : (d.ptCommit).mem = d.mem := by
  rfl

@[simp] theorem Dev.setKey_mem (d : Dev) (kind : ℕ) (ix : ℕ) (gen : ℕ) (k : Option Key) : (d.setKey kind ix gen k).mem = d.mem := by
  rfl

@[simp] theorem Dev.modKey_mem (d : Dev) (kind : ℕ) (ix : ℕ) (gen : ℕ) (f : Key → Key) : (d.modKey kind ix gen f).mem = d.mem := by
  unfold Dev.modKey
  split <;> simp

@[simp] theorem Dev.startJob_mem (d : Dev) (c : Cmd) (part : ℕ) (ctx : ℕ) (done : Bool) (status : ℕ) (detail : List ℕ) (lock : Bool) :
    (d.startJob c part ctx done status detail lock).2.mem = d.mem := by
  rfl

@[simp] theorem Dev.ackEvents_mem (d : Dev) (ch : ℕ) (seq : ℕ) : (d.ackEvents ch seq).mem = d.mem := by
  simp [Dev.ackEvents]

@[simp] theorem Dev.keyRefused_mem (d : Dev) (b : List Byte) (check : ℕ) : (d.keyRefused b check).2.mem = d.mem := by
  simp [Dev.keyRefused]

@[simp] theorem Dev.installKey_mem (d : Dev) (b : List Byte) : (d.installKey b).mem = d.mem := by
  unfold Dev.installKey
  repeat' split
  all_goals simp

@[simp] theorem Dev.eraseKey_mem (d : Dev) (kind : ℕ) (ix : ℕ) : (d.eraseKey kind ix).mem = d.mem := by
  rfl

@[simp] theorem Dev.freePages_mem (d : Dev) (l : List (ℕ × ℕ)) : (d.freePages l).mem = d.mem := by
  rfl

@[simp] theorem Dev.placePage_mem (d : Dev) (p : ℕ) (g : Seg) (page : ℕ) (devs : List ℕ) : (d.placePage p g page devs).mem = d.mem := by
  unfold Dev.placePage
  dsimp only
  repeat' split
  all_goals simp

@[simp] theorem Dev.setWays_mem (d : Dev) (p : ℕ) (n : ℕ) : (d.setWays p n).mem = d.mem := by
  rfl

@[simp] theorem Dev.returnPages_mem (d : Dev) (p : ℕ) : (d.returnPages p).mem = d.mem := by
  simp [Dev.returnPages]

@[simp] theorem Dev.endPartJobs_mem (d : Dev) (p : ℕ) : (d.endPartJobs p).mem = d.mem := by
  simp [Dev.endPartJobs]

@[simp] theorem Dev.numberFrame_mem (nv : NonVol) (d : Dev) (f : ℕ) : (Dev.numberFrame nv d f).mem = d.mem := by
  rfl

@[simp] theorem Dev.cause_mem (d : Dev) (c : ℕ) (unit : ℕ) : (d.cause c unit).mem = d.mem := by
  rfl

@[simp] theorem Dev.bootKeys_mem (nv : NonVol) (d : Dev) (slot : ℕ) : (Dev.bootKeys nv d slot).mem = d.mem := by
  rfl

@[simp] theorem Dev.bist_mem (cls : ℕ) (d : Dev) (unit : ℕ) (row : ℕ) : (Dev.bist cls d unit row).mem = d.mem := by
  simp [Dev.bist]

@[simp] theorem bistList_mem (cls : ℕ) (n : ℕ) (l : List ℕ) (d : Dev) : (bistList cls n l d).mem = d.mem := by
  simp [bistList]

@[simp] theorem Dev.phase2_mem (d : Dev) (env : BringUpEnv) : (d.phase2 env).mem = d.mem := by
  simp [Dev.phase2, apply_ite Dev.mem]

@[simp] theorem Dev.powerCage_mem (d : Dev) (k : ℕ) : (d.powerCage k).mem = d.mem := by
  rfl

@[simp] theorem Dev.cutReplay_mem (d : Dev) (p : ℕ) : (d.cutReplay p).mem = d.mem := by
  unfold Dev.cutReplay
  split <;> simp

@[simp] theorem Dev.dropMoves_mem (d : Dev) (p : ℕ) : (d.dropMoves p).mem = d.mem := by
  rfl

@[simp] theorem Dev.degrade_mem (d : Dev) (c : ℕ) (unit : ℕ) : (d.degrade c unit).mem = d.mem := by
  simp [Dev.degrade]

@[simp] theorem Dev.resetCore_mem (d : Dev) (n : ℕ) : (d.resetCore n).mem = d.mem := by
  rfl

@[simp] theorem Dev.waggleChunk_mem (d : Dev) (swid : ℕ) (srank : ℕ) (seq : ℕ) (offset : ℕ) (payload : List Byte) :
    (d.waggleChunk swid srank seq offset payload).mem = d.mem := by
  unfold Dev.waggleChunk
  dsimp only
  repeat' split
  all_goals simp

@[simp] theorem Dev.endUpdate_mem (d : Dev) (u : Update) (ustate : ℕ) (result : ℕ) : (d.endUpdate u ustate result).mem = d.mem := by
  rfl

@[simp] theorem Dev.failUpdate_mem (d : Dev) (u : Update) (result : ℕ) : (d.failUpdate u result).mem = d.mem := by
  simp [Dev.failUpdate]

@[simp] theorem Dev.flushAll_mem (d : Dev) : (d.flushAll).mem = d.mem := by
  simp [Dev.flushAll]

@[simp] theorem Dev.atRest_mem (d : Dev) : (d.atRest).mem = d.mem := by
  rfl

@[simp] theorem Dev.mxFault_mem (d : Dev) (n : ℕ) (o : MatOp) (code : ℕ) (addr : ℕ) : (d.mxFault n o code addr).mem = d.mem := by
  simp [Dev.mxFault]

@[simp] theorem Dev.mxWaits_mem (d : Dev) (n : ℕ) : (d.mxWaits n).mem = d.mem := by
  rfl

@[simp] theorem Dev.mma_mem (d : Dev) (n : ℕ) : (d.mma n).mem = d.mem := by
  unfold Dev.mma
  dsimp only
  repeat' split
  all_goals simp

@[simp] theorem Dev.heldLoad_mem (d : Dev) (n : ℕ) : (d.heldLoad n).mem = d.mem := by
  unfold Dev.heldLoad
  dsimp only
  repeat' split
  all_goals simp

@[simp] theorem Dev.mdrain_mem (d : Dev) (n : ℕ) : (d.mdrain n).mem = d.mem := by
  unfold Dev.mdrain
  dsimp only
  repeat' split
  all_goals simp

@[simp] theorem Dev.malign_mem (d : Dev) (n : ℕ) : (d.malign n).mem = d.mem := by
  unfold Dev.malign
  dsimp only
  repeat' split
  all_goals simp

@[simp] theorem Dev.dispatched_mem (d : Dev) (w : Who) : (d.dispatched w).mem = d.mem := by
  unfold Dev.dispatched
  split <;> simp

@[simp] theorem Claims.noted_mem (d : Dev) (p : ℕ) (i : ℕ) (net : ℕ) : (Claims.noted d p i net).mem = d.mem := by
  simp [Claims.noted]

end Sys2Proof.Machine
end

section
/-! SUPPORT. Which functions leave the unified range as it is: sending, moving pages, and the accounts. -/

namespace Sys2Proof.Machine
open Sys2Proof

@[simp] theorem Dev.serveOwn_mem (d : Dev) (n k : Nat) : (d.serveOwn n k).mem = d.mem := (d.serveOwn_same n k).mem
@[simp] theorem Dev.sendOn_mem (d : Dev) (k prio bytes : Nat) (t : Tx) : (d.sendOn k prio bytes t).mem = d.mem :=
  (d.sendOn_same k prio bytes t).mem

@[simp] theorem Dev.unpin_mem (d : Dev) (l : List (Nat × Nat)) : (d.unpin l).mem = d.mem := by
  exact foldl_mem _ _ fun _ _ => rfl

@[simp] theorem Dev.takePins_mem (d : Dev) (l : List (Nat × Nat)) : (d.takePins l).mem = d.mem := by
  exact foldl_mem _ _ fun _ _ => rfl

@[simp] theorem Dev.nextHop_mem (d : Dev) (net dst sp : Nat) : (d.nextHop net dst sp).2.mem = d.mem := by
  have hport := d.anyPort_mem net
  unfold Dev.nextHop
  dsimp only
  repeat' split
  all_goals simp_all

@[simp] theorem Dev.emitPkt_mem (d : Dev) (net pcp dst : Nat) (h : DataHdr) (payload : List Byte) :
    (d.emitPkt net pcp dst h payload).mem = d.mem := by
  unfold Dev.emitPkt
  dsimp only
  split <;> simp

@[simp] theorem Dev.transmit_mem (d : Dev) (p : Nat) (x : SendChan) (k : SentPkt) (rtx : Bool) : (d.transmit p x k rtx).mem = d.mem := by
  unfold Dev.transmit
  dsimp only
  split <;> simp

@[simp] theorem Dev.askCredit_mem (d : Dev) (p i : Nat) : (d.askCredit p i).mem = d.mem := by
  unfold Dev.askCredit
  repeat' split
  all_goals simp

@[simp] theorem Dev.sendHead_mem (d : Dev) (p i : Nat) (x : SendChan) (k : SentPkt) (rest : List SentPkt) (n : Nat) :
    (Dev.pumpN.sendHead d p i x k rest n).mem = d.mem := by
  simp [Dev.pumpN.sendHead]

@[simp] theorem Dev.pumpN_mem (f : Nat) (d : Dev) (p i : Nat) : (Dev.pumpN f d p i).mem = d.mem := by
  induction f generalizing d with
  | zero => rfl
  | succ f ih =>
    unfold Dev.pumpN
    dsimp only
    repeat' split
    all_goals simp [ih]

@[simp] theorem Dev.pump_mem (d : Dev) (p i : Nat) : (d.pump p i).mem = d.mem := by
  unfold Dev.pump
  split <;> simp

@[simp] theorem Dev.pumpAll_mem (d : Dev) (net : Nat) : (d.pumpAll net).mem = d.mem := by
  refine foldl_mem _ _ fun d k => ?_
  repeat' split
  all_goals simp

@[simp] theorem Dev.enqueue_mem (d : Dev) (p i : Nat) (k : SentPkt) : (d.enqueue p i k).mem = d.mem := by
  simp [Dev.enqueue]

@[simp] theorem Dev.recSend_mem (d : Dev) (p rank chan step offset : Nat) (bs : List Byte) :
    (d.recSend p rank chan step offset bs).mem = d.mem := by
  unfold Dev.recSend
  dsimp only
  split
  · rfl
  · rw [foldl_mem _ _ fun d k => Dev.enqueue_mem ..]
    simp

@[simp] theorem Dev.grantTurns_mem (net f : Nat) (d : Dev) (l : List Nat) : (Dev.grantTurns net f d l).1.mem = d.mem := by
  induction f generalizing d l with
  | zero => rfl
  | succ f ih =>
    unfold Dev.grantTurns
    split
    · rfl
    · simp [ih]

@[simp] theorem Dev.icmpFor_mem (d : Dev) (e src bytes : Nat) (m : Icmp) : (d.icmpFor e src bytes m).mem = d.mem := by
  unfold Dev.icmpFor
  dsimp only
  repeat' split
  all_goals simp

@[simp] theorem Dev.frameReceive_mem (d : Dev) (e : Nat) (f : EthFrame) : (d.frameReceive e f).mem = d.mem := by
  unfold Dev.frameReceive
  dsimp only
  repeat' split
  all_goals simp [apply_ite Dev.mem]

@[simp] theorem Dev.transitLeaves_mem (d : Dev) (e : Nat) : (d.transitLeaves e).mem = d.mem := by
  unfold Dev.transitLeaves
  dsimp only
  repeat' split
  all_goals simp

@[simp] theorem Dev.joinGroup_mem (d : Dev) (net group : Nat) : (d.joinGroup net group).mem = d.mem := by
  unfold Dev.joinGroup
  dsimp only
  split <;> simp

@[simp] theorem Dev.powerFrames_mem (d : Dev) (p : Nat) (on : Bool) : (d.powerFrames p on).mem = d.mem := by
  exact foldl_mem _ _ fun _ _ => rfl

@[simp] theorem Dev.dark_mem (d : Dev) (st : ModState) : (d.dark st).mem = [] := rfl

@[simp] theorem Dev.meterPower_mem (d : Dev) (p : Nat) : (d.meterPower p).2.mem = d.mem := by
  unfold Dev.meterPower
  dsimp only
  refine (foldl_keeps (fun z : Nat × Dev => z.2.mem) ?_ _ _).trans (foldl_keeps (fun z : Nat × Dev => z.2.mem) ?_ _ _)
  · exact fun _ _ => rfl
  · exact fun _ _ => rfl

@[simp] theorem Dev.setMode_mem (d : Dev) (v : Nat) : (d.setMode v).mem = d.mem := by
  refine foldl_mem _ _ fun d k => ?_
  repeat' split
  all_goals simp

@[simp] theorem Dev.captureTm_mem (d : Dev) : d.captureTm.mem = d.mem := Dev.modTiers_mem ..

theorem Dev.meter_mem {d e : Dev} {a n : Nat} (h : d.meter a n = some e) : e.mem = d.mem := by
  unfold Dev.meter at h
  dsimp only at h
  repeat' split at h
  all_goals simp at h
  all_goals simp [← h]

@[simp] theorem Dev.combMiss_mem (d : Dev) (c line : Nat) : (d.combMiss c line).2.mem = d.mem := by
  unfold Dev.combMiss
  dsimp only
  split
  · rfl
  split
  · rfl
  split
  · rfl
  · next e h => simp [Dev.meter_mem h]

@[simp] theorem Dev.streamRead_mem (d : Dev) (c a n : Nat) : (d.streamRead c a n).mem = d.mem := by
  unfold Dev.streamRead
  repeat' split
  all_goals simp

@[simp] theorem Dev.staleCheck_mem (d : Dev) (p a n : Nat) : (d.staleCheck p a n).mem = d.mem := by
  unfold Dev.staleCheck
  dsimp only
  rw [foldl_mem _ _ fun d k => ?_, foldl_mem _ _ fun d k => ?_]
  · split
    · exact foldl_mem _ _ fun d k => Dev.abort_mem ..
    · rfl
  · split
    · exact foldl_mem _ _ fun d k => foldl_mem _ _ fun d k => Dev.abortSaved_mem ..
    · rfl

@[simp] theorem Dev.combLine_mem (d : Dev) (c line : Nat) : (d.combLine c line).2.2.mem = d.mem := by
  unfold Dev.combLine
  split <;> simp

@[simp] theorem combLines_mem (c n line : Nat) (d : Dev) : (combLines c n line d).2.mem = d.mem := by
  induction n generalizing line d with
  | zero => rfl
  | succ n ih =>
    unfold combLines
    dsimp only
    split <;> simp [ih]

@[simp] theorem Dev.combFetch_mem (d : Dev) (c a : Nat) : (d.combFetch c a).2.mem = d.mem := by
  simp [Dev.combFetch]

end Sys2Proof.Machine
end

section
/-! SUPPORT. Which functions leave the unified range as it is: parameters, answers, the network and the power states. -/

namespace Sys2Proof.Machine
open Sys2Proof

theorem ite_mem {c : Prop} [Decidable c] {a b d : Dev} (ha : a.mem = d.mem) (hb : b.mem = d.mem) : (if c then a else b).mem = d.mem := by
  split
  · exact ha
  · exact hb

@[simp] theorem Dev.memError_mem (d : Dev) (dev g : Nat) : (d.memError dev g).2.2.mem = d.mem := by
  unfold Dev.memError
  dsimp only
  repeat' split
  all_goals simp [apply_ite Dev.mem]

@[simp] theorem Dev.scrub_mem (d : Dev) (x : ℕ) (g : ℕ) (corrected : Bool) (uncorr : Bool) : (d.scrub x g corrected uncorr).mem = d.mem := by
  unfold Dev.scrub
  dsimp only
  repeat' split
  all_goals simp

@[simp] theorem Dev.forage_mem (d : Dev) (n : ℕ) (i : ℕ) : (d.forage n i).mem = d.mem := by
  unfold Dev.forage
  dsimp only
  split
  · rfl
  split
  · rfl
  refine ite_mem rfl (ite_mem (d.suWaits_mem ..) (ite_mem (Dev.modCore_mem ..) (ite_mem (d.streamFault_mem ..) (ite_mem rfl ?_))))
  split
  · exact d.suWaits_mem ..
  · refine ite_mem (d.suWaits_mem ..) (ite_mem ?_ (ite_mem rfl ?_))
    · rw [Dev.suWaits_mem, Dev.tokensShort_mem]
    · rw [Dev.prefetchPromotion_mem, Dev.streamRead_mem, Dev.modCore_mem, Dev.serveTokens_mem]

@[simp] theorem Dev.switchOut_mem (d : Dev) (p : ℕ) (c : ℕ) : (d.switchOut p c).mem = d.mem := by
  refine foldl_mem _ _ fun d k => ?_
  dsimp only
  repeat' split
  all_goals simp [apply_ite Dev.mem]

@[simp] theorem Dev.switchIn_mem (d : Dev) (p : ℕ) (c : ℕ) (cycles : ℕ) : (d.switchIn p c cycles).mem = d.mem := by
  unfold Dev.switchIn
  dsimp only
  split
  · rw [Dev.contextFault_mem, foldl_mem _ _ fun d x => d.semAdd_mem .., foldl_mem _ _ fun d n => d.completeAll_mem n]
    exact foldl_mem _ _ fun _ _ => rfl
  · rw [foldl_mem _ _ fun d x => d.semAdd_mem .., foldl_mem _ _ fun d n => d.completeAll_mem n]
    exact foldl_mem _ _ fun _ _ => rfl

@[simp] theorem Dev.firstResident_mem (d : Dev) (p : ℕ) : (d.firstResident p).mem = d.mem := by
  unfold Dev.firstResident
  split
  · exact foldl_mem _ _ fun _ _ => rfl
  · rfl

@[simp] theorem Dev.contextsToStart_mem (d : Dev) (p : ℕ) : (d.contextsToStart p).mem = d.mem := by
  unfold Dev.contextsToStart
  dsimp only
  rw [Dev.modPart_mem]
  refine (foldl_mem _ _ ?_).trans (foldl_mem _ _ fun d n => d.emptyCore_mem n)
  exact fun _ _ => rfl

@[simp] theorem Dev.contextsInPlace_mem (d : Dev) (p : ℕ) : (d.contextsInPlace p).mem = d.mem := by
  unfold Dev.contextsInPlace
  dsimp only
  split <;> simp

@[simp] theorem Dev.firstTasks_mem (d : Dev) (p : ℕ) : (d.firstTasks p).mem = d.mem := by
  unfold Dev.firstTasks
  split
  · rfl
  · exact foldl_mem _ _ fun _ _ => rfl

@[simp] theorem Dev.sendAck_mem (d : Dev) (p : ℕ) (i : ℕ) (net : ℕ) : (d.sendAck p i net).mem = d.mem := by
  unfold Dev.sendAck
  dsimp only
  split <;> simp

@[simp] theorem Dev.sendNak_mem (d : Dev) (p : ℕ) (i : ℕ) (net : ℕ) (epw : Bool) : (d.sendNak p i net epw).mem = d.mem := by
  unfold Dev.sendNak
  dsimp only
  split <;> simp

@[simp] theorem Dev.serveWants_mem (d : Dev) (net : ℕ) : (d.serveWants net).mem = d.mem := by
  unfold Dev.serveWants
  dsimp only
  rw [foldl_mem _ _ fun d k => ?_, Dev.grantTurns_mem]
  split <;> simp

@[simp] theorem Dev.giveBack_mem (d : Dev) (p : ℕ) (i : ℕ) (n : ℕ) : (d.giveBack p i n).mem = d.mem := by
  unfold Dev.giveBack
  dsimp only
  split <;> simp

@[simp] theorem Dev.closeChannels_mem (d : Dev) (p : ℕ) : (d.closeChannels p).mem = d.mem := by
  simp [Dev.closeChannels]

@[simp] theorem Dev.failover_mem (d : Dev) (p : ℕ) (peer : ℕ) : (d.failover p peer).mem = d.mem := by
  unfold Dev.failover
  split
  · rfl
  · dsimp only
    rw [foldl_mem _ _ fun d y => ?_]
    · simp
    · split
      · split
        · rw [foldl_mem _ _ fun d k => d.transmit_mem .., Dev.setSend_mem]
        · rfl
      · rfl

@[simp] theorem Dev.abandonBase_mem (d : Dev) (p : ℕ) : (d.abandonBase p).mem = d.mem := by
  unfold Dev.abandonBase
  dsimp only
  split <;> simp

@[simp] theorem Dev.pathFailed_mem (d : Dev) (p : ℕ) (i : ℕ) : (d.pathFailed p i).mem = d.mem := by
  unfold Dev.pathFailed
  dsimp only
  repeat' split
  all_goals simp

@[simp] theorem Dev.judgePaths_mem (d : Dev) : (d.judgePaths).mem = d.mem := by
  unfold Dev.judgePaths
  dsimp only
  repeat' split
  all_goals simp [apply_ite Dev.mem]

@[simp] theorem Dev.logAppend_mem (d : Dev) (p : ℕ) (type : ℕ) (step : ℕ) (tsw : List ℕ) : (d.logAppend p type step tsw).mem = d.mem := by
  unfold Dev.logAppend
  dsimp only
  split <;> simp

@[simp] theorem Dev.logSample_mem (d : Dev) (p : ℕ) (c : ℕ) (step : ℕ) (mbn : ℕ) (f : FeedRec) (refused : Bool) :
    (d.logSample p c step mbn f refused).mem = d.mem := by
  unfold Dev.logSample
  dsimp only
  repeat' split
  all_goals simp

@[simp] theorem Dev.memberPacket_mem (d : Dev) (p : ℕ) (rank : ℕ) (step : ℕ) (offset : ℕ) (bs : List Byte) (run : ℕ) :
    (d.memberPacket p rank step offset bs run).mem = d.mem := by
  unfold Dev.memberPacket
  dsimp only
  repeat' split
  all_goals simp

@[simp] theorem Dev.push_mem (d : Dev) (p : ℕ) (c : ℕ) (i : ℕ) (v : ℕ) (adj : ℤ) (adjOnly : Bool) (first : Bool) :
    (d.push p c i v adj adjOnly first).mem = d.mem := by
  refine foldl_mem _ _ fun d k => ?_
  dsimp only
  repeat' split
  all_goals simp [apply_ite Dev.mem]

@[simp] theorem Dev.stopStep_mem (d : Dev) (p : ℕ) (s : ℕ) : (d.stopStep p s).mem = d.mem := by
  unfold Dev.stopStep
  dsimp only
  rw [foldl_mem _ _ fun d x => foldl_mem _ _ fun d k => ?_]
  · rfl
  · split
    · split <;> simp
    · rfl

@[simp] theorem Dev.normOverflow_mem (d : Dev) (p : ℕ) (g : ℕ) (s : ℕ) : (d.normOverflow p g s).mem = d.mem := by
  simp [Dev.normOverflow]

@[simp] theorem Dev.normArrive_mem (d : Dev) (p : ℕ) (g : ℕ) (rank : ℕ) (s : ℕ) (value : ℤ) : (d.normArrive p g rank s value).mem = d.mem := by
  unfold Dev.normArrive
  dsimp only
  repeat' split
  all_goals simp

@[simp] theorem Dev.afterRead_mem (d : Dev) (n : ℕ) (s : SDesc) (q : Piece) : (d.afterRead n s q).mem = d.mem := by
  unfold Dev.afterRead
  repeat' split
  all_goals simp

@[simp] theorem Dev.claim_mem (n k : Nat) (r : RingDecl) (f need : Nat) (d : Dev) (l : List Nat) : (Dev.claim n k r f need d l).1.mem = d.mem := by
  induction f generalizing need d l with
  | zero => rfl
  | succ f ih =>
    unfold Dev.claim
    dsimp only
    split
    · rfl
    · rw [ih]
      split <;> rfl

theorem Dev.payRead_mem {d e : Dev} {q : Piece} (h : d.payRead q = some e) : e.mem = d.mem := by
  unfold Dev.payRead Dev.readMeter at h
  split at h
  · split at h
    · cases h
    · split at h
      · obtain rfl := Option.some.inj h
        rfl
      · exact Dev.meter_mem h
  · obtain rfl := Option.some.inj h
    rfl

theorem Dev.payRead_getD_mem (d : Dev) (q : Piece) : ((d.payRead q).getD d).mem = d.mem := by
  rcases h : d.payRead q with _ | e
  · rfl
  · exact Dev.payRead_mem h

theorem Dev.readPiece_mem (d : Dev) (n : Nat) (s : SDesc) (q : Piece) {go : Dev → Dev} (h : (go d).mem = d.mem) :
    (d.readPiece n s q go).mem = d.mem := by
  unfold Dev.readPiece
  repeat' split
  all_goals simp [h]

@[simp] theorem Dev.lightRequest_mem (d : Dev) (n : ℕ) (i : ℕ) (s : SDesc) : (d.lightRequest n i s).mem = d.mem := by
  unfold Dev.lightRequest
  dsimp only
  split
  · rfl
  refine ite_mem rfl ?_
  generalize (if sdDring s.img then d.dstRing n s.img else none) = ring
  rcases ring with _ | r
  · exact ite_mem (Dev.keepDesc_mem ..) (Dev.issue_mem ..)
  · refine ite_mem ?_ ?_
    · rw [Dev.keepDesc_mem, Dev.claim_mem]
    · rw [Dev.issue_mem, Dev.claim_mem]

/-- A payment for a request's bytes takes tokens at most. -/
theorem Dev.pay_mem {d e : Dev} {q : Piece} {b : Bool} {a len : Nat} (h : (d.payRead q).bind (fun d => if b then d.meter a len else some d) = some e) :
    e.mem = d.mem := by
  rcases hp : d.payRead q with _ | f
  · rw [hp] at h
    cases h
  · rw [hp, Option.bind_some] at h
    split at h
    · exact (Dev.meter_mem h).trans (Dev.payRead_mem hp)
    · cases h
      exact Dev.payRead_mem hp

@[simp] theorem Dev.copyRequest_mem (d : Dev) (n : ℕ) (i : ℕ) (s : SDesc) : (d.copyRequest n i s).mem = d.mem := by
  unfold Dev.copyRequest
  dsimp only
  split
  · rfl
  · refine d.readPiece_mem n s _ ?_
    generalize (if sdDring s.img then d.dstRing n s.img else none) = ring
    rcases ring with _ | r
    · refine ite_mem (Dev.keepDesc_mem ..) ?_
      dsimp only
      split
      · rw [Dev.suWaits_mem, Dev.keepDesc_mem]
      · split
        · exact Dev.keepDesc_mem ..
        · next e h =>
          rw [Dev.afterRead_mem, Dev.issue_mem]
          exact Dev.pay_mem h
    · refine ite_mem ?_ ?_
      · rw [Dev.keepDesc_mem, Dev.claim_mem]
      dsimp only
      split
      · rw [Dev.suWaits_mem, Dev.keepDesc_mem, Dev.claim_mem]
      · split
        · rw [Dev.keepDesc_mem, Dev.claim_mem]
        · next e h =>
          rw [Dev.afterRead_mem, Dev.issue_mem]
          exact (Dev.pay_mem h).trans (Dev.claim_mem ..)

@[simp] theorem Dev.transposeRequest_mem (d : Dev) (n : ℕ) (i : ℕ) (s : SDesc) : (d.transposeRequest n i s).mem = d.mem := by
  unfold Dev.transposeRequest
  dsimp only
  split
  · split
    · rfl
    · refine d.readPiece_mem n _ _ ?_
      split
      · exact d.suWaits_mem ..
      · rw [Dev.afterRead_mem, Dev.modCore_mem]
        exact d.payRead_getD_mem _
  · split
    · exact d.suWaits_mem ..
    · split
      · rfl
      · next e h =>
        rw [Dev.issue_mem]
        exact Dev.meter_mem h

@[simp] theorem Dev.addRequest_mem (d : Dev) (n : ℕ) (i : ℕ) (s : SDesc) : (d.addRequest n i s).mem = d.mem := by
  unfold Dev.addRequest
  dsimp only
  split
  · rfl
  refine ite_mem rfl (ite_mem (ite_mem rfl (d.streamFault_mem ..)) (d.readPiece_mem n s _ ?_))
  split
  · exact d.suWaits_mem ..
  · split
    · rfl
    · next e h =>
      rw [Dev.modSup_mem, Dev.afterRead_mem, Dev.issue_mem]
      exact Dev.pay_mem (b := true) h

@[simp] theorem Dev.sendSlice_mem (d : Dev) (n : ℕ) (i : ℕ) (s : SDesc) : (d.sendSlice n i s).mem = d.mem := by
  unfold Dev.sendSlice
  dsimp only
  repeat' split
  all_goals simp

@[simp] theorem Dev.sendWrite_mem (d : Dev) (n : ℕ) (i : ℕ) (s : SDesc) : (d.sendWrite n i s).mem = d.mem := by
  unfold Dev.sendWrite
  dsimp only
  split <;> simp

@[simp] theorem Dev.gatherRequest_mem (d : Dev) (n : ℕ) (i : ℕ) (s : SDesc) : (d.gatherRequest n i s).mem = d.mem := by
  unfold Dev.gatherRequest
  dsimp only
  split
  · rfl
  refine d.readPiece_mem n s _ ?_
  have hclear (e : Dev) (f : Core → Core) (h : e.mem = d.mem) : (e.modCore n f).mem = d.mem := h
  refine ite_mem ?_ ?_
  · split
    · exact d.suWaits_mem ..
    · have hread (len : Nat) (q : Piece) (z : SDesc) (tag : Nat) (runs : List (Dest × List Byte × Bool)) :
          ((((d.payRead q).getD d).issue n i z tag len false false none runs).afterRead n s q).mem = d.mem := by
        rw [Dev.afterRead_mem, Dev.issue_mem, Dev.payRead_getD_mem]
      refine ite_mem (ite_mem ?_ (hread ..)) (ite_mem ?_ (hread ..))
      · exact (Dev.sendWrite_mem ..).trans (hclear _ _ (hread ..))
      · exact (Dev.sendSlice_mem ..).trans (hclear _ _ (hread ..))
  · have hread (q : Piece) (z : SDesc) (bs : List Byte) (p : Bool) :
        ((((d.payRead q).getD d).extend n i z bs p).afterRead n s q).mem = d.mem := by
      rw [Dev.afterRead_mem, Dev.extend_mem, Dev.payRead_getD_mem]
    refine ite_mem (ite_mem ?_ (hread ..)) (ite_mem ?_ (hread ..))
    · exact (Dev.sendWrite_mem ..).trans (hclear _ _ (hread ..))
    · exact (Dev.sendSlice_mem ..).trans (hclear _ _ (hread ..))

@[simp] theorem Dev.descRequest_mem (d : Dev) (n : ℕ) (i : ℕ) : (d.descRequest n i).mem = d.mem := by
  unfold Dev.descRequest
  split
  · rfl
  · exact ite_mem rfl (ite_mem (d.lightRequest_mem ..) (ite_mem (d.transposeRequest_mem ..) (ite_mem (d.copyRequest_mem ..)
      (ite_mem (d.addRequest_mem ..) (d.gatherRequest_mem ..)))))

@[simp] theorem Dev.limited_mem (d : Dev) (code p : Nat) (last : Option Nat) (set : Option Nat → Dev → Dev)
    (h : ∀ v e, (set v e).mem = e.mem) : (d.limited code p last set).mem = d.mem := by
  unfold Dev.limited
  dsimp only
  repeat' split
  all_goals simp [h]

@[simp] theorem Dev.authFail_mem (d : Dev) (net : ℕ) (p : ℕ) : (d.authFail net p).mem = d.mem := by
  simp [Dev.authFail]

@[simp] theorem Dev.unknownChan_mem (d : Dev) (net : ℕ) (p : ℕ) : (d.unknownChan net p).mem = d.mem := by
  simp [Dev.unknownChan]

@[simp] theorem Dev.ringFill_mem (d : Dev) (p i core : Nat) (r : RingDecl) (bs : List Byte) (poison : Bool) (f : Nat) :
    (d.ringFill p i core r bs poison f).mem = d.mem := by
  induction f generalizing d with
  | zero => rfl
  | succ f ih =>
    unfold Dev.ringFill
    dsimp only
    repeat' split
    all_goals simp [ih]

@[simp] theorem Dev.delivered_mem (d : Dev) (p i n : Nat) : (d.delivered p i n).mem = d.mem := by
  induction n generalizing d with
  | zero => rfl
  | succ n ih =>
    unfold Dev.delivered
    dsimp only
    split
    · rfl
    split
    · rfl
    · rw [ih]
      split <;> simp

@[simp] theorem Dev.answers_mem (d : Dev) (net : Nat) (h : DataHdr) (payload : List Byte) : (d.answers net h payload).1.mem = d.mem := by
  unfold Dev.answers
  dsimp only
  repeat' split
  all_goals simp

theorem Dev.grantShared_mem {d e : Dev} {p i n : Nat} (h : d.grantShared p i n = some e) : e.mem = d.mem := by
  unfold Dev.grantShared at h
  dsimp only at h
  repeat' split at h
  all_goals simp at h
  all_goals simp [← h]

@[simp] theorem Dev.ackReceive_mem (d : Dev) (net : ℕ) (h : DataHdr) (payload : List Byte) : (d.ackReceive net h payload).mem = d.mem := by
  unfold Dev.ackReceive
  dsimp only
  split
  · simp
  split
  · simp
  split
  · simp
  split
  · simp
  · rw [Dev.pumpAll_mem, Dev.pump_mem, Dev.modSend_mem]
    split
    · rw [Dev.modNet_mem, foldl_mem _ _ fun d k => d.acked_mem .., Dev.answers_mem]
    · rw [foldl_mem _ _ fun d k => d.acked_mem .., Dev.answers_mem]

@[simp] theorem Dev.retransmit_mem (d : Dev) (p : ℕ) (i : ℕ) (x : SendChan) (k : SentPkt) (timer : Bool) : (d.retransmit p i x k timer).mem = d.mem := by
  unfold Dev.retransmit
  dsimp only
  split <;> simp

@[simp] theorem Dev.nakReceive_mem (d : Dev) (net : ℕ) (h : DataHdr) (payload : List Byte) : (d.nakReceive net h payload).mem = d.mem := by
  unfold Dev.nakReceive
  dsimp only
  repeat' split
  all_goals simp

@[simp] theorem Dev.creditReceive_mem (d : Dev) (net : ℕ) (h : DataHdr) (payload : List Byte) : (d.creditReceive net h payload).mem = d.mem := by
  unfold Dev.creditReceive
  dsimp only
  split
  · simp
  split
  · simp
  split
  · simp
  split
  · simp
  split
  · simp
  split
  · simp
  split
  · simp
  split
  · next e h =>
    rw [Dev.sendAck_mem, Dev.grantShared_mem h]
    simp
  · simp

@[simp] theorem Dev.rtoExpiry_mem (d : Dev) (p : ℕ) (i : ℕ) (seq : ℕ) : (d.rtoExpiry p i seq).mem = d.mem := by
  unfold Dev.rtoExpiry
  dsimp only
  repeat' split
  all_goals simp

@[simp] theorem Dev.sayHello_mem (nv : NonVol) (d : Dev) (e : ℕ) : (Dev.sayHello nv d e).mem = d.mem := by
  simp [Dev.sayHello]

@[simp] theorem Dev.portUp_mem (d : Dev) (k : ℕ) : (d.portUp k).mem = d.mem := by
  unfold Dev.portUp
  dsimp only
  split <;> simp

@[simp] theorem Dev.linkLost_mem (d : Dev) (e : ℕ) : (d.linkLost e).mem = d.mem := by
  unfold Dev.linkLost
  dsimp only
  repeat' split
  all_goals simp

@[simp] theorem Dev.selectFrames_mem (d : Dev) (p : ℕ) : (d.selectFrames p).mem = d.mem := by
  exact foldl_mem _ _ fun _ _ => rfl

@[simp] theorem Dev.applyRuns_mem (d : Dev) (p : ℕ) : (d.applyRuns p).mem = d.mem := by
  refine foldl_mem _ _ fun d c => ?_
  split <;> rfl

@[simp] theorem Dev.chargeBeat_mem (d : Dev) (p : ℕ) (r : Option ℕ) (t : Option ℕ) : (d.chargeBeat p r t).mem = d.mem := by
  unfold Dev.chargeBeat
  dsimp only
  repeat' split
  all_goals simp

@[simp] theorem Dev.release_mem (d : Dev) (p : ℕ) (stretch : ℕ) (cause : ℕ) (frame : ℕ) (holdc : ℕ) :
    (d.release p stretch cause frame holdc).mem = d.mem := by
  unfold Dev.release
  dsimp only
  have hshown (e : Dev) (l : List Nat) : (l.foldl (fun d c => d.modCtx c (fun x => { x with shown := x.acct })) e).mem = e.mem :=
    foldl_mem _ _ fun _ _ => rfl
  have hstart (f : Nat → Core → Core) (e : Dev) (l : List Nat) : (l.foldl (fun e n => e.modCore n (f n)) e).mem = e.mem :=
    foldl_mem _ _ fun _ _ => rfl
  split
  · rw [Dev.scheduleDue_mem, hshown, Dev.selectFrames_mem, Dev.countWaits_mem]
    exact hstart _ d _
  · rw [hshown, Dev.selectFrames_mem, Dev.countWaits_mem]
    exact hstart _ d _

@[simp] theorem Dev.doSwitch_mem (d : Dev) (p : ℕ) (r : Option ℕ) (t : Option ℕ) (stuck : Bool) : (d.doSwitch p r t stuck).2.mem = d.mem := by
  unfold Dev.doSwitch
  dsimp only
  repeat' split
  all_goals simp

/-- What a beat's end can do to the memory of an advanced module: nothing. -/
theorem Dev.logged_mem (x : Dev) (p : Nat) (b : Bool) :
    (if b then (x.event 0x0B05 p 0 0x1FF []).modPart p (fun x => { x with recCnt := bump x.recCnt 19 1 }) else x).mem = x.mem :=
  ite_mem (x.event_mem ..) rfl

@[simp] theorem Dev.beatRelease_mem (d : Dev) (p : ℕ) (stretch : ℕ) (cause : ℕ) (frame : ℕ) (holdc : ℕ) :
    (d.beatRelease p stretch cause frame holdc).mem = d.mem := by
  unfold Dev.beatRelease
  dsimp only
  refine ite_mem rfl ?_
  have hflips : ((d.applyRuns p).flips p).mem = d.mem := by rw [Dev.flips_mem, Dev.applyRuns_mem]
  generalize (d.applyRuns p).flips p = e at *
  refine ite_mem hflips ?_
  have hstep (c : Nat) (b : Bool) : (if b then e.modCtx c (fun x => { x with hold := true }) else e.advanceStamp p c).mem = d.mem :=
    ite_mem hflips ((e.advanceStamp_mem ..).trans hflips)
  rcases (e.part p).resident with _ | c
  · dsimp only
    split
    · refine ite_mem ?_ ?_
      · rw [Dev.holdPart_mem]
        exact (Dev.logged_mem ..).trans hflips
      · rw [Dev.release_mem, Dev.endStep_mem, Dev.chargeBeat_mem, Dev.modPart_mem]
        exact (Dev.logged_mem ..).trans hflips
    · refine ite_mem ?_ (ite_mem rfl ?_)
      · rw [Dev.release_mem, Dev.endStep_mem, Dev.chargeBeat_mem, Dev.modPart_mem]
        exact (Dev.logged_mem ..).trans hflips
      · rw [Dev.release_mem, Dev.doSwitch_mem, Dev.endStep_mem, Dev.chargeBeat_mem]
        exact (Dev.logged_mem ..).trans hflips
  · dsimp only
    split
    · refine ite_mem ?_ ?_
      · rw [Dev.holdPart_mem]
        exact (Dev.logged_mem ..).trans (hstep ..)
      · rw [Dev.release_mem, Dev.endStep_mem, Dev.chargeBeat_mem, Dev.modPart_mem]
        exact (Dev.logged_mem ..).trans (hstep ..)
    · refine ite_mem ?_ (ite_mem rfl ?_)
      · rw [Dev.release_mem, Dev.endStep_mem, Dev.chargeBeat_mem, Dev.acct_mem, Dev.modPart_mem]
        exact (Dev.logged_mem ..).trans (hstep ..)
      · rw [Dev.release_mem, Dev.doSwitch_mem, Dev.park_mem, Dev.endStep_mem, Dev.chargeBeat_mem]
        exact (Dev.logged_mem ..).trans (hstep ..)

@[simp] theorem Dev.setCen_mem (d : Dev) (k : ℕ) (on : Bool) : (d.setCen k on).mem = d.mem := by
  unfold Dev.setCen
  dsimp only
  split <;> simp

/-- A write to the object changes no byte of the unified range. -/
def KeepsMem (o : Option Obj) : Prop := ∀ x, o = some x → ∀ e, (x.write e).mem = e.mem

@[simp] theorem keepsMem_none : KeepsMem none := nofun

@[simp] theorem keepsMem_some (x : Obj) : KeepsMem (some x) ↔ ∀ e, (x.write e).mem = e.mem :=
  ⟨fun h => h x rfl, fun h y hy => by cases hy; exact h⟩

@[simp] theorem keepsMem_rsvd : KeepsMem rsvd := (keepsMem_some _).2 fun _ => rfl
@[simp] theorem keepsMem_roObj (v resv : Nat) : KeepsMem (roObj v resv) := (keepsMem_some _).2 fun _ => rfl
@[simp] theorem keepsMem_cntObj (m : Store (BitVec 32)) (i : Nat) : KeepsMem (cntObj m i) := keepsMem_roObj _ _

@[simp] theorem keepsMem_perPart {d : Dev} {p : Nat} {o : Option Obj} (h : KeepsMem o) : KeepsMem (perPart d p o) := by
  unfold perPart
  split
  · exact keepsMem_none
  · split
    · exact h
    · exact (keepsMem_some _).2 fun _ => rfl

@[simp] theorem keepsMem_ite {c : Prop} [Decidable c] {o o' : Option Obj} (h : KeepsMem o) (h' : KeepsMem o') : KeepsMem (if c then o else o') := by
  split
  · exact h
  · exact h'

@[simp] theorem keepsMem_bucketObj {b : Bucket} {v : Nat} {w : Bucket → Dev → Dev} (h : ∀ b e, (w b e).mem = e.mem) : KeepsMem (bucketObj b v w) :=
  (keepsMem_some _).2 fun _ => h _ _

@[simp] theorem objIdent_keepsMem (nv : NonVol) (d : Dev) (i : Nat) : KeepsMem (objIdent nv d i) := by
  unfold objIdent
  split <;> simp

@[simp] theorem objQueue_keepsMem (d : Dev) (q i : Nat) : KeepsMem (objQueue d q i) := by
  unfold objQueue
  dsimp only
  repeat' split
  all_goals simp

@[simp] theorem objChan_keepsMem (d : Dev) (e i v : Nat) : KeepsMem (objChan d e i v) := by
  unfold objChan
  dsimp only
  repeat' split
  all_goals simp

@[simp] theorem objCtl_keepsMem (d : Dev) (n i : Nat) : KeepsMem (objCtl d n i) := by
  unfold objCtl
  dsimp only
  repeat' split
  all_goals simp

@[simp] theorem objMx_keepsMem (d : Dev) (n i v : Nat) : KeepsMem (objMx d n i v) := by
  unfold objMx
  dsimp only
  repeat' split
  all_goals simp

@[simp] theorem objVx_keepsMem (d : Dev) (n i v : Nat) : KeepsMem (objVx d n i v) := by
  unfold objVx
  dsimp only
  repeat' split
  all_goals simp

@[simp] theorem objStream_keepsMem (d : Dev) (n i v : Nat) : KeepsMem (objStream d n i v) := by
  unfold objStream
  dsimp only
  refine keepsMem_ite (keepsMem_roObj _ _) (keepsMem_ite (keepsMem_bucketObj fun _ _ => rfl) ?_)
  repeat' refine keepsMem_ite ?_ ?_
  all_goals simp

@[simp] theorem objStreams_keepsMem (d : Dev) (i v : Nat) : KeepsMem (objStreams d i v) := by
  unfold objStreams
  refine keepsMem_ite ((keepsMem_some _).2 fun _ => rfl) (keepsMem_ite (keepsMem_bucketObj fun _ _ => rfl)
    (keepsMem_ite ((keepsMem_some _).2 fun _ => rfl) (keepsMem_ite (keepsMem_bucketObj fun _ _ => rfl) ?_)))
  repeat' refine keepsMem_ite ?_ ?_
  all_goals simp

@[simp] theorem objTier_keepsMem (d : Dev) (i v : Nat) : KeepsMem (objTier d i v) := by
  unfold objTier
  dsimp only
  repeat' split
  all_goals simp

@[simp] theorem objDev_keepsMem (nv : NonVol) (d : Dev) (dev i : Nat) : KeepsMem (objDev nv d dev i) := by
  unfold objDev
  dsimp only
  repeat' split
  all_goals simp

@[simp] theorem objRecompute_keepsMem (d : Dev) (p i : Nat) : KeepsMem (objRecompute d p i) := by
  unfold objRecompute
  dsimp only
  repeat' split
  all_goals simp

@[simp] theorem objSuper_keepsMem (d : Dev) (x i v : Nat) : KeepsMem (objSuper d x i v) := by
  unfold objSuper
  dsimp only
  repeat' split
  all_goals simp

@[simp] theorem objSlice_keepsMem (d : Dev) (off v : Nat) : KeepsMem (objSlice d off v) := by
  unfold objSlice
  dsimp only
  repeat' split
  all_goals simp

@[simp] theorem objPort_keepsMem (d : Dev) (e i v : Nat) : KeepsMem (objPort d e i v) := by
  unfold objPort
  split
  · simp
  · refine (keepsMem_some _).2 fun e' => ?_
    dsimp only
    split <;> simp
  · simp
  · simp
  · refine keepsMem_ite ?_ ?_ <;> simp

@[simp] theorem objNet_keepsMem (d : Dev) (n i v : Nat) : KeepsMem (objNet d n i v) := by
  unfold objNet
  dsimp only
  repeat' split
  all_goals simp

@[simp] theorem objTables_keepsMem (d : Dev) (i v : Nat) : KeepsMem (objTables d i v) := by
  unfold objTables
  dsimp only
  repeat' split
  all_goals simp

@[simp] theorem objSwarm_keepsMem (d : Dev) (p v : Nat) : KeepsMem (objSwarm d p v) := by
  unfold objSwarm
  dsimp only
  repeat' split
  all_goals simp

@[simp] theorem objFabric_keepsMem (d : Dev) (off v : Nat) : KeepsMem (objFabric d off v) := by
  exact keepsMem_ite (objPort_keepsMem _ _ _ _) (keepsMem_ite (objNet_keepsMem _ _ _ _) (keepsMem_ite (objTables_keepsMem _ _ _)
    (keepsMem_ite (objSwarm_keepsMem _ _ _) keepsMem_none)))

@[simp] theorem objPart_keepsMem (d : Dev) (p i : Nat) : KeepsMem (objPart d p i) := by
  unfold objPart
  dsimp only
  repeat' split
  all_goals simp

@[simp] theorem objCtx_keepsMem (d : Dev) (c i : Nat) : KeepsMem (objCtx d c i) := by
  unfold objCtx
  dsimp only
  repeat' split
  all_goals simp

@[simp] theorem objContexts_keepsMem (d : Dev) (off v : Nat) : KeepsMem (objContexts d off v) := by
  unfold objContexts
  repeat' refine keepsMem_ite ?_ ?_
  all_goals simp

@[simp] theorem objRecovery_keepsMem (d : Dev) (p i v : Nat) : KeepsMem (objRecovery d p i v) := by
  unfold objRecovery
  dsimp only
  refine keepsMem_perPart ?_
  repeat' refine keepsMem_ite ?_ ?_
  all_goals simp

@[simp] theorem objBring_keepsMem (nv : NonVol) (d : Dev) (off : Nat) : KeepsMem (objBring nv d off) := by
  unfold objBring
  dsimp only
  repeat' refine keepsMem_ite ?_ ?_
  all_goals try split
  all_goals simp

@[simp] theorem objSec_keepsMem (nv : NonVol) (d : Dev) (off v : Nat) : KeepsMem (objSec nv d off v) := by
  unfold objSec
  dsimp only
  repeat' refine keepsMem_ite ?_ ?_
  all_goals try refine keepsMem_perPart ?_
  all_goals repeat' refine keepsMem_ite ?_ ?_
  all_goals simp

@[simp] theorem objPower_keepsMem (d : Dev) (i v : Nat) : KeepsMem (objPower d i v) := by
  unfold objPower
  dsimp only
  repeat' split
  all_goals simp

@[simp] theorem objFrame_keepsMem (d : Dev) (f i : Nat) : KeepsMem (objFrame d f i) := by
  unfold objFrame
  dsimp only
  repeat' split
  all_goals simp

@[simp] theorem objSps_keepsMem (state : Nat) (temp power : BitVec 16) (e : BitVec 64) (i : Nat) : KeepsMem (objSps state temp power e i) := by
  unfold objSps
  split <;> simp

@[simp] theorem objCage_keepsMem (d : Dev) (k i v : Nat) : KeepsMem (objCage d k i v) := by
  unfold objCage
  dsimp only
  repeat' split
  all_goals simp

@[simp] theorem objThermal_keepsMem (d : Dev) (off v : Nat) : KeepsMem (objThermal d off v) := by
  unfold objThermal
  dsimp only
  repeat' split
  all_goals simp

@[simp] theorem objBeats_keepsMem (d : Dev) (p i v : Nat) : KeepsMem (objBeats d p i v) := by
  unfold objBeats
  dsimp only
  repeat' split
  all_goals simp

@[simp] theorem objAt_keepsMem (nv : NonVol) (d : Dev) (key v : Nat) : KeepsMem (objAt nv d key v) := by
  unfold objAt
  dsimp only
  repeat' split
  all_goals simp

theorem objAt_write_mem {nv : NonVol} {d : Dev} {key v : Nat} {o : Obj} (h : objAt nv d key v = some o) (e : Dev) :
    (o.write e).mem = e.mem := objAt_keepsMem nv d key v o h e

@[simp] theorem paramWrite_mem (nv : NonVol) (d : Dev) (key v : Nat) : (paramWrite nv d key v).2.mem = d.mem := by
  unfold paramWrite
  split
  · rfl
  · next o h =>
    split
    · rfl
    split
    · rfl
    split
    · rfl
    · exact objAt_write_mem h _

@[simp] theorem Dev.sealReply_mem (d0 d : Dev) (r : Reply) (keyid : Nat) : (Dev.sealReply d0 d r keyid).2.mem = d.mem := by
  unfold Dev.sealReply
  split <;> simp

@[simp] theorem Dev.replyTo_mem (d0 d : Dev) (c : Cmd) (a : Ans) (retry : Bool) : (Dev.replyTo d0 d c a retry).2.mem = d.mem :=
  Dev.sealReply_mem ..

@[simp] theorem Dev.replied_mem (d0 d : Dev) (q : Nat) (c : Cmd) (a : Ans) : (Dev.replied d0 d q c a).mem = d.mem := by
  simp [Dev.replied]

@[simp] theorem Dev.replayed_mem (d : Dev) (h : CmdHdr) : (d.replayed h).mem = d.mem := by
  unfold Dev.replayed
  dsimp only
  split
  · rfl
  · rw [Dev.limited_mem _ _ _ _ _ fun v e => e.modKey_mem ..]
    rfl

@[simp] theorem Dev.replyOnly_mem (d : Dev) (c : Cmd) (status : ℕ) : (d.replyOnly c status).mem = d.mem := by
  simp [Dev.replyOnly]

@[simp] theorem Dev.take_mem (d : Dev) (q : ℕ) (c : Cmd) : (d.take q c).mem = d.mem := by
  unfold Dev.take
  split <;> simp

@[simp] theorem Dev.takeHeld_mem (f : Nat) (d : Dev) (q : Nat) : (Dev.takeHeld f d q).mem = d.mem := by
  induction f generalizing d with
  | zero => rfl
  | succ f ih =>
    unfold Dev.takeHeld
    dsimp only
    repeat' split
    all_goals simp [ih]

@[simp] theorem Dev.request_mem (d : Dev) (q : ℕ) (c : Cmd) : (d.request q c).mem = d.mem := by
  unfold Dev.request
  dsimp only
  repeat' split
  all_goals simp

@[simp] theorem Dev.cmdPacket_mem (d : Dev) (net : ℕ) (src : ℕ) (h : CmdHdr) (udpLen : ℕ) (payload : List Byte) :
    (d.cmdPacket net src h udpLen payload).mem = d.mem := by
  unfold Dev.cmdPacket
  dsimp only
  repeat' split
  all_goals simp

theorem paramRead_mem {nv : NonVol} {d : Dev} {key : Nat} {x : Nat × Dev} (h : paramRead nv d key = some x) : x.2.mem = d.mem := by
  unfold paramRead at h
  split at h
  · cases h
  · cases h
    dsimp only
    split <;> simp

@[simp] theorem readKeys_mem (nv : NonVol) (l : List Nat) (d : Dev) (vs : List Nat) : (readKeys nv l d vs).2.2.mem = d.mem := by
  induction l generalizing d vs with
  | nil => rfl
  | cons k r ih =>
    unfold readKeys
    split
    · rfl
    · next x h => rw [ih, paramRead_mem h]

@[simp] theorem writeKeys_mem (nv : NonVol) (swap : Bool) (l : List (Nat × Nat)) (d : Dev) (vs : List Nat) :
    (writeKeys nv swap l d vs).2.2.mem = d.mem := by
  induction l generalizing d vs with
  | nil => rfl
  | cons k r ih =>
    unfold writeKeys
    dsimp only
    split
    · rfl
    · rw [ih]
      split <;> simp

theorem pagesWhile_mem {f : Dev → Nat → Dev} (h : ∀ d page, (f d page).mem = d.mem) (n page : Nat) (d : Dev) :
    (pagesWhile f n page d).2.mem = d.mem := by
  induction n generalizing page d with
  | zero => rfl
  | succ n ih =>
    unfold pagesWhile
    split
    · rw [ih, h]
    · rfl

@[simp] theorem Dev.placeSome_mem (d : Dev) (b : List Byte) (pos : ℕ) : (d.placeSome b pos).2.mem = d.mem := by
  unfold Dev.placeSome
  split
  · simp
  · dsimp only
    refine pagesWhile_mem (fun d page => ?_) ..
    split <;> simp

@[simp] theorem Dev.endSession_mem (d : Dev) (p : ℕ) (installed : Bool) : (d.endSession p installed).mem = d.mem := by
  unfold Dev.endSession
  dsimp only
  repeat' split
  all_goals simp

@[simp] theorem Dev.takePages_mem (p dev n : Nat) (d : Dev) : (Dev.takePages p dev n d).2.mem = d.mem := by
  induction n generalizing d with
  | zero => rfl
  | succ n ih =>
    unfold Dev.takePages
    dsimp only
    split <;> simp [ih]

@[simp] theorem Dev.reservePages_mem (p : ℕ) (dev : ℕ) (n : ℕ) (d : Dev) : (Dev.reservePages p dev n d).mem = d.mem := by
  unfold Dev.reservePages
  exact d.takePages_mem p dev n

@[simp] theorem LoadJob.placeBy_mem (j : LoadJob) (f : Seg → Bool) (devs : Seg → List ℕ) (d : Dev) : (LoadJob.placeBy j f devs d).mem = d.mem := by
  refine foldl_mem _ _ fun d page => ?_
  split <;> simp

@[simp] theorem LoadJob.place_mem (j : LoadJob) (d : Dev) : (LoadJob.place j d).mem = d.mem := by
  simp [LoadJob.place]

@[simp] theorem Dev.unload_mem (d : Dev) (p : ℕ) : (d.unload p).mem = d.mem := by
  unfold Dev.unload
  split
  · rfl
  · dsimp only
    rw [Dev.event_mem, Dev.modPart_mem]
    have hkeys (e : Dev) (l : List Nat) : (l.foldl (fun d c => ((d.setCtx c {}).eraseKey 2 c).eraseKey 3 c) e).mem = e.mem :=
      foldl_mem _ _ fun d c => by simp
    have hsups (f : Dev → Nat → Super → Super) (e : Dev) (l : List Nat) : (l.foldl (fun d x => d.modSup x (f d x)) e).mem = e.mem :=
      foldl_mem _ _ fun _ _ => rfl
    have hcores (f : Dev → Nat → Core) (e : Dev) (l : List Nat) : (l.foldl (fun d n => d.setCore n (f d n)) e).mem = e.mem :=
      foldl_mem _ _ fun _ _ => rfl
    rw [Dev.powerFrames_mem, Dev.eraseKey_mem, hkeys, hsups, Dev.setWays_mem, Dev.returnPages_mem, Dev.settleLeaving_mem, hcores,
      Dev.closeChannels_mem, Dev.endPartJobs_mem]

@[simp] theorem Dev.phase6_mem (d : Dev) (env : BringUpEnv) (ports : List ℕ) : (d.phase6 env ports).mem = d.mem := by
  simp [Dev.phase6]

@[simp] theorem Dev.firstAnnounce_mem (nv : NonVol) (d : Dev) : (Dev.firstAnnounce nv d).mem = d.mem := by
  refine foldl_mem _ _ fun d e => ?_
  split <;> simp

@[simp] theorem Dev.minimal_mem (d : Dev) (env : BringUpEnv) : (d.minimal env).mem = d.mem := by
  unfold Dev.minimal
  dsimp only
  split
  · simp
  · exact foldl_mem _ _ fun _ _ => rfl

@[simp] theorem Dev.coresToStart_mem (d : Dev) (p : ℕ) : (d.coresToStart p).mem = d.mem := by
  unfold Dev.coresToStart
  dsimp only
  have hstart (f : Nat → Core → Core) (e : Dev) (l : List Nat) : (l.foldl (fun e n => e.modCore n (f n)) e).mem = e.mem :=
    foldl_mem _ _ fun _ _ => rfl
  rw [hstart, Dev.fillBuckets_mem]
  refine (foldl_mem _ _ ?_).trans (d.contextsToStart_mem p)
  exact fun _ _ => rfl

@[simp] theorem Dev.dueBase_mem (nv : NonVol) (d : Dev) (p : ℕ) (b : ℕ) : (Dev.dueBase nv d p b).mem = d.mem := by
  unfold Dev.dueBase
  dsimp only
  repeat' split
  all_goals simp

@[simp] theorem Dev.baseCopied_mem (d : Dev) (p : ℕ) : (d.baseCopied p).mem = d.mem := by
  unfold Dev.baseCopied
  dsimp only
  repeat' split
  all_goals simp

@[simp] theorem Dev.baseComplete_mem (d : Dev) (p : ℕ) : (d.baseComplete p).mem = d.mem := by
  unfold Dev.baseComplete
  dsimp only
  repeat' split
  all_goals simp

@[simp] theorem Dev.stampsAt_mem (d : Dev) (p : ℕ) (step : ℕ) : (d.stampsAt p step).mem = d.mem := by
  exact foldl_mem _ _ fun _ _ => rfl

@[simp] theorem Dev.beginStep_mem (d : Dev) (p : ℕ) (step : ℕ) : (d.beginStep p step).mem = d.mem := by
  unfold Dev.beginStep
  dsimp only
  repeat' split
  all_goals simp

@[simp] theorem Dev.takeCap_mem (nv : NonVol) (d : Dev) (p : ℕ) (s : ℕ) : (Dev.takeCap nv d p s).mem = d.mem := by
  unfold Dev.takeCap
  dsimp only
  repeat' split
  all_goals simp

@[simp] theorem Dev.recordParams_mem (d : Dev) (p : ℕ) (l : List StepParam) : (d.recordParams p l).mem = d.mem := by
  simp [Dev.recordParams]

@[simp] theorem Dev.cutLog_mem (d : Dev) (p : ℕ) (c : ℕ) (epoch : ℕ) (revert : ℕ) : (d.cutLog p c epoch revert).mem = d.mem := by
  simp [Dev.cutLog]

@[simp] theorem Dev.setCursors_mem (d : Dev) (p : ℕ) (cur : ℕ → ℕ) (mb : ℕ → ℕ) : (d.setCursors p cur mb).mem = d.mem := by
  exact foldl_mem _ _ fun _ _ => rfl

end Sys2Proof.Machine
end

section
/-! SUPPORT. Transfers (chapter 7): the start of an armed descriptor, its requests, their landing and its completion. -/

namespace Sys2Proof.Machine
open Sys2Proof Sys2Proof.Machine.Claims

theorem onUnit_eq {s : State} {b : Bool} (h : b = true) (f : Dev → Dev) : s.onUnit b f = .next { s with dev := f s.dev } := if_pos h

theorem onCore_eq {s : State} {n : Nat} (h : n < nCores) (f : Dev → Dev) : s.onCore n f = .next { s with dev := f s.dev } :=
  onUnit_eq (decide_eq_true h) f

theorem onDesc_eq {s : State} {n i : Nat} (hn : n < nCores) (hi : i < 32) (f : Dev → Dev) : onDesc s n i f = .next { s with dev := f s.dev } :=
  onUnit_eq (by rw [decide_eq_true hn, decide_eq_true hi]; rfl) f

/-! ## The start (R170 to R172, R184) -/

section
variable {d : Dev} {n i : Nat} {x : SDesc}

theorem Dev.startKind_eq {kind : Nat} (hx : Store.get none (d.core n).su.desc i = some x) (hk : sdKind x.img = kind) (hs : x.started = false)
    (ht : x.stopped = false) (hq : d.quiesced n = false) :
    d.startKind n i kind = d.modCore n (fun c => c.setDesc i (some { x with started := true })) := by
  simp [Dev.startKind, hx, hk, hs, ht, hq]

theorem exec_start {s : State} : ∀ y ∈ startTable, ∀ n i, exec (y.1 n i) s = onDesc s n i (fun d => d.startKind n i y.2) := by
  simp only [startTable, List.forall_mem_cons]
  exact ⟨fun _ _ => rfl, fun _ _ => rfl, fun _ _ => rfl, fun _ _ => rfl, nofun⟩

theorem Store.get_foldl_set_false (l : List Nat) (m : Store Bool) (x : Nat) :
    Store.get false (l.foldl (fun m i => Store.set false m i false) m) x = (Store.get false m x && !(l.contains x)) := by
  induction l generalizing m with
  | nil => simp
  | cons a l ih =>
    rw [List.foldl_cons, ih, Store.get_set]
    by_cases h : x = a <;> simp [h]

/-- The rows that GUARD_CLEAR clears. -/
def guardRows (img : List Nat) : List Nat := ((sdDstRows img).map (fun r => rowsOf r.1.toNat r.2)).flatten

theorem guardRows_contains (img : List Nat) (r : Nat) :
    (guardRows img).contains r = (sdDstRows img).any (fun q => (rowsOf q.1.toNat q.2).contains r) := by
  rw [Bool.eq_iff_iff]
  simp [guardRows]

theorem Dev.guardClear_eq (hx : Store.get none (d.core n).su.desc i = some x) (hk : sdKind x.img = 5) (hs : x.started = false)
    (ht : x.stopped = false) (hq : d.quiesced n = false) :
    d.guardClear n i = d.modCore n (fun c => { c.setDesc i (some { x with started := true, pos := sdTotal x.img }) with
      progress := true, w := (guardRows x.img).foldl (fun m y => Store.set false m y false) c.w }) := by
  simp [Dev.guardClear, guardRows, hx, hk, hs, ht, hq]

end

/-- Settles O22. -/
theorem armedDescriptorsStart : Obligations.ArmedDescriptorsStart := by
  intro s n i x hn hi hx hs ht hq
  refine ⟨fun y hy hk => ?_, fun hk => ?_⟩
  · refine ⟨_, (exec_start y hy n i).trans (onDesc_eq hn hi _), ?_⟩
    rw [Dev.startKind_eq hx hk hs ht hq]
    exact onlyCore_setCore s n _
  · refine ⟨_, onDesc_eq hn hi _, ?_⟩
    rw [Dev.guardClear_eq hx hk hs ht hq]
    have hcore := Dev.modCore_core_self s.dev n (fun c => { c.setDesc i (some { x with started := true, pos := sdTotal x.img }) with
      progress := true, w := (guardRows x.img).foldl (fun m y => Store.set false m y false) c.w })
    refine ⟨⟨_, onlyCore_setCore s n _⟩, ?_, ?_, ?_, fun r => ?_⟩
    · rw [hcore]
      rfl
    · rw [hcore]
      rfl
    · rw [hcore]
      exact Store.get_set_self none (s.dev.core n).su.desc i (some { x with started := true, pos := sdTotal x.img })
    · rw [hcore, ← guardRows_contains]
      exact Store.get_foldl_set_false _ (s.dev.core n).w r


/-! ## Landing (R166, R176) -/

theorem Dev.modCore_core (d : Dev) (n m : Nat) (f : Core → Core) : (d.modCore n f).core m = if m = n then f (d.core m) else d.core m := by
  split
  · next h => rw [h, Dev.modCore_core_self]
  · next h => exact Dev.modCore_core_ne _ _ h

theorem OnlyCoreChanged.modCore {s : State} {d : Dev} {n : Nat} (h : OnlyCoreChanged s { s with dev := d } n) (f : Core → Core) :
    OnlyCoreChanged s { s with dev := d.modCore n f } n := by
  obtain ⟨c, _, _, hdev, _, hother⟩ := h
  exact ⟨_, rfl, rfl, hdev, rfl, fun m hm => (Dev.modCore_core_ne d f hm).trans (hother m hm)⟩

theorem Dev.settleLeaving_cores (d : Dev) : d.settleLeaving.cores = d.cores := by
  refine foldl_keeps Dev.cores (fun d l => ?_) _ _
  dsimp only
  split
  · unfold Dev.freePhys
    dsimp only
    split <;> simp
  · rfl

theorem Core.advanceTails_ring (rs : List RingDecl) (c : Core) : ∃ ring, c.advanceTails rs = { c with su := { c.su with ring := ring } } := by
  unfold Core.advanceTails
  induction rs generalizing c with
  | nil => exact ⟨c.su.ring, rfl⟩
  | cons r rs ih =>
    obtain ⟨ring, h⟩ := ih (c.setRing r.ix { c.ringSt r.ix with tail := tailFrom c r (c.ringSt r.ix).head r.n (c.ringSt r.ix).tail })
    exact ⟨ring, h⟩

theorem Core.land_parts (c : Core) (rs : List RingDecl) (a : Nat) (bs : List Byte) (p : Bool) : ∃ ring w pp pr, c.land rs a bs p =
    { c with pad := (bs.zipIdx).foldl (fun m x => Store.set 0#8 m (a + x.2) x.1) c.pad, w := w, padPoison := pp,
             su := { c.su with ring := ring }, progress := pr } := by
  obtain ⟨ring, h⟩ := Core.advanceTails_ring rs (c.padWrite a bs p)
  unfold Core.land
  dsimp only
  rw [h]
  exact ⟨ring, _, _, _, rfl⟩

theorem Core.land_padByte (c : Core) (rs : List RingDecl) (a : Nat) (bs : List Byte) (p : Bool) (z : Nat) :
    (c.land rs a bs p).padByte z = if a ≤ z ∧ z < a + bs.length then bs.getD (z - a) 0#8 else c.padByte z := by
  obtain ⟨ring, w, pp, pr, h⟩ := c.land_parts rs a bs p
  rw [h]
  exact memFold_get a bs 0 c.pad z

section
variable (c : Core) (q : Request)

@[simp] theorem Core.endRequest_pad : (c.endRequest q).pad = c.pad := rfl

theorem Core.endRequest_su : ∃ desc, (c.endRequest q).su =
    { c.su with req := c.su.req.filter (fun x => !(x.tag == q.tag && x.light == q.light)), desc := desc } := by
  unfold Core.endRequest
  dsimp only
  split
  · exact ⟨_, rfl⟩
  · split <;> exact ⟨_, rfl⟩

variable {c q}

theorem Core.endRequest_inflight {i : Nat} {x : SDesc} (ho : q.owner = .desc i) (hx : Store.get none c.su.desc i = some x)
    (ht : x.stopped = false) : (Store.get none (c.endRequest q).su.desc i).map (·.inflight) = some (x.inflight - 1) := by
  have hsu : (c.endRequest q).su.desc = Store.set none c.su.desc i (some { x with inflight := x.inflight - 1 }) := by
    simp [Core.endRequest, Core.settle, ho, hx, ht]
  rw [hsu, Store.get_set_self]
  rfl

end

/-- The core m after a run has landed in the scratchpad of core k. -/
def Dev.landed (d : Dev) (k a : Nat) (bs : List Byte) (p : Bool) (m : Nat) : Core :=
  if m = k then (d.core m).land (d.rings k) a bs p else d.core m

section
variable (d : Dev) {n k a : Nat} {bs : List Byte} {p : Bool} {q : Request} (h : q.runs = [(.pad k a, bs, p)])
include h

theorem Dev.landAll_core (m : Nat) :
    (d.landAll n q).core m = if m = n then (d.landed k a bs p m).endRequest q else d.landed k a bs p m := by
  unfold Dev.landAll
  dsimp only
  rw [h, Dev.core_of_cores (Dev.settleLeaving_cores _), Dev.modCore_core]
  simp only [List.foldl_cons, List.foldl_nil, Dev.landRun, Dev.modCore_core]
  rfl

theorem Dev.landAll_mem : (d.landAll n q).mem = d.mem := by
  unfold Dev.landAll
  dsimp only
  rw [h]
  simp [Dev.landRun]

theorem Dev.landAll_padByte (z : Nat) : ((d.landAll n q).core k).padByte z =
    if a ≤ z ∧ z < a + bs.length then bs.getD (z - a) 0#8 else (d.core k).padByte z := by
  have hland : (d.landed k a bs p k).padByte z = if a ≤ z ∧ z < a + bs.length then bs.getD (z - a) 0#8 else (d.core k).padByte z := by
    rw [Dev.landed, if_pos rfl, Core.land_padByte]
  rw [Dev.landAll_core d h, ← hland]
  split <;> rfl

theorem Dev.landAll_pad_ne {m : Nat} (hm : m ≠ k) : ((d.landAll n q).core m).pad = (d.core m).pad := by
  rw [Dev.landAll_core d h, Dev.landed, if_neg hm]
  split <;> rfl

omit h in
theorem Dev.landed_su (m : Nat) : ∃ ring, (d.landed k a bs p m).su = { (d.core m).su with ring := ring } := by
  unfold Dev.landed
  split
  · obtain ⟨ring, w, pp, pr, hl⟩ := (d.core m).land_parts (d.rings k) a bs p
    exact ⟨ring, by rw [hl]⟩
  · exact ⟨_, rfl⟩

theorem Dev.landAll_req : ((d.landAll n q).core n).su.req =
    (d.core n).su.req.filter (fun x => !(x.tag == q.tag && x.light == q.light)) := by
  obtain ⟨ring, hl⟩ := d.landed_su n
  obtain ⟨desc, he⟩ := (d.landed k a bs p n).endRequest_su q
  rw [Dev.landAll_core d h, if_pos rfl, he, hl]

theorem Dev.landAll_hold (m : Nat) : ((d.landAll n q).core m).su.hold = (d.core m).su.hold := by
  obtain ⟨ring, hl⟩ := d.landed_su m
  obtain ⟨desc, he⟩ := (d.landed k a bs p m).endRequest_su q
  rw [Dev.landAll_core d h]
  split
  · rw [he, hl]
  · rw [hl]

theorem Dev.landAll_inflight {i : Nat} {x : SDesc} (ho : q.owner = .desc i) (hx : Store.get none (d.core n).su.desc i = some x)
    (ht : x.stopped = false) : (Store.get none ((d.landAll n q).core n).su.desc i).map (·.inflight) = some (x.inflight - 1) := by
  obtain ⟨ring, hl⟩ := d.landed_su n
  rw [Dev.landAll_core d h, if_pos rfl]
  exact Core.endRequest_inflight ho (by rw [hl]; exact hx) ht

end

section
variable {d : Dev} {n tag k a : Nat} {bs : List Byte} {p : Bool} {q : Request}

/-- The inbound hold takes a write that waits `cycles`. -/
def StreamUnit.takesHold (u : StreamUnit) (n tag cycles : Nat) : StreamUnit :=
  { u with hold := u.hold ++ [⟨n, tag⟩], counters := bump u.counters 9 cycles }

theorem runCores_pad (h : q.runs = [(.pad k a, bs, p)]) : runCores q = [k] := by
  simp [runCores, h, List.eraseDups_cons]

theorem Dev.requestLands_landable (h : landable d n tag q k a bs p) (hb : d.landBlocked q = false) : d.requestLands n tag = d.landAll n q := by
  obtain ⟨hfind, hheld, hruns, hold, hstop⟩ := h
  unfold Dev.requestLands
  dsimp only
  rw [hfind]
  simp [hheld, hruns, hold, hstop, hb]

/-- A request that meets a filled slot waits in the inbound hold of its destination. -/
theorem Dev.requestLands_held (h : landable d n tag q k a bs p) (hb : d.landBlocked q = true) (hk : k ≠ n)
    (hroom : (d.core k).su.hold.length < 16) : ∃ f g : Core → Core, (∀ c, (f c).pad = c.pad) ∧ (∀ c, (g c).pad = c.pad) ∧
      (∀ c, (g c).su.hold = c.su.hold ++ [⟨n, tag⟩]) ∧ d.requestLands n tag = (d.modCore n f).freshCycles.2.modCore k g := by
  obtain ⟨hfind, hheld, hruns, hold, hstop⟩ := h
  refine ⟨fun c => { c with su := { c.su with req := c.su.req.map (fun x => if x = q then { x with held := true, refused := false } else x) } },
    fun c => { c with su := c.su.takesHold n tag (Config.freeCycles d.freeIx) }, fun _ => rfl, fun _ => rfl, fun _ => rfl, ?_⟩
  unfold Dev.requestLands
  dsimp only
  rw [hfind]
  simp only [hheld, hruns, hold, hstop, hb, runCores_pad hruns, List.filter_cons, bne_iff_ne, ne_eq, hk, not_false_eq_true, if_true,
    List.filter_nil, Nat.not_le.2 hroom, if_false]
  rfl

end


/-! ## The request of a copy between scratchpads (R170, R176) -/

theorem cellRuns_bytes (l : List Cell) : ((cellRuns l).map (fun z => z.2.1)).flatten = l.map (·.2.2.2.1) := by
  induction l with
  | nil => rfl
  | cons x l ih =>
    have hcons : cellRuns (x :: l) = match cellRuns l with
        | (dst, bs, p) :: r => if follows x dst p then (cellDest x, x.2.2.2.1 :: bs, p) :: r
          else (cellDest x, [x.2.2.2.1], x.2.2.2.2) :: (dst, bs, p) :: r
        | [] => [(cellDest x, [x.2.2.2.1], x.2.2.2.2)] := by
      rw [cellRuns, List.foldr_cons, ← cellRuns]
      rcases cellRuns l with _ | ⟨⟨dst, bs, p⟩, r⟩ <;> rfl
    rw [List.map_cons, ← ih, hcons]
    split
    · next h =>
      rw [h]
      split <;> simp
    · next h =>
      rw [h]
      simp

/-- A copy from scratchpad to scratchpad outside rings and the light path. -/
def padCopy (n : Nat) (img : List Nat) : Prop :=
  sdKind img = 1 ∧ sdSring img = false ∧ sdDring img = false ∧ sdSuni img = false ∧ sdDuni img = false ∧ lightPath n img = false

section
variable {d : Dev} {n i tag : Nat} {x : SDesc}

/-- The bytes of the copy's next request. -/
def SDesc.copyLen (x : SDesc) : Nat := min (sdRun x.img - x.pos % sdRun x.img) (min 512 (sdTotal x.img - x.pos))

theorem Dev.copyRequest_pads (hp : padCopy n x.img) (htag : (d.core n).su.freeTag = some tag)
    (hwait : d.srcWaits (false, sdScore x.img, sdSrcAt x.img x.pos, x.copyLen) = false) (hd : sdDcore x.img ≠ n) :
    d.copyRequest n i x = d.issue n i x tag x.copyLen false false none (cellRuns
      (((d.srcCells (false, sdScore x.img, sdSrcAt x.img x.pos, x.copyLen)).zipIdx).map (fun y => d.dstCell n x (x.pos + y.2) y.1))) := by
  obtain ⟨hk, hs, hd', hsu, hdu, -⟩ := hp
  simp only [SDesc.copyLen] at hwait ⊢
  simp [Dev.copyRequest, Dev.nextSrc, Dev.readPiece, Dev.srcUnfetched, Dev.payRead, Dev.afterRead, hk, hs, hd', hsu, hdu, hwait, hd, htag]

/-- The bytes of destination cells are the source's. -/
theorem dstCell_bytes (d : Dev) (n : Nat) (x : SDesc) (pos : Nat) (l : List (Byte × Bool)) :
    (l.zipIdx.map (fun y => d.dstCell n x (pos + y.2) y.1)).map (·.2.2.2.1) = l.map (·.1) := by
  have hcell (k : Nat) (y : Byte × Bool) : (d.dstCell n x k y).2.2.2.1 = y.1 := by
    unfold Dev.dstCell
    dsimp only
    repeat' split
    all_goals rfl
  rw [List.map_map]
  simp only [Function.comp_def, hcell]
  rw [show (fun y : (Byte × Bool) × Nat => y.1.1) = (·.1) ∘ Prod.fst from rfl, ← List.map_map, List.zipIdx_map_fst]

theorem Dev.descRequest_padCopy (hp : padCopy n x.img) (hx : Store.get none (d.core n).su.desc i = some x) (hs : x.started = true)
    (ht : x.stopped = false) (hq : d.quiesced n = false) (hpos : x.pos < sdTotal x.img) : d.descRequest n i = d.copyRequest n i x := by
  obtain ⟨hk, -, -, -, -, hl⟩ := hp
  simp [Dev.descRequest, hx, hs, ht, hq, hpos.ne, hk, hl]

end

/-! ## Completion (R168, R172) -/

section
variable {d : Dev} {n i : Nat} {x : SDesc}

/-- The entry frees, or its shadow moves in. -/
def Core.shadowIn (c : Core) (i : Nat) : Core :=
  { c with progress := true,
           su := { c.su with desc := Store.set none c.su.desc i (Store.get none c.su.shadow i), shadow := Store.set none c.su.shadow i none } }

theorem Dev.semAdd_of_le {cnt : Nat} {src : Option SignalFrom} (h : Store.get 0 (d.core n).su.sem i + cnt ≤ 65535) :
    d.semAdd n i cnt src = d.modCore n (fun c =>
      { c with progress := true, su := { c.su with sem := Store.set 0 c.su.sem i (Store.get 0 (d.core n).su.sem i + cnt) } }) := by
  simp [Dev.semAdd, h]

theorem Dev.signal_own {cnt : Nat} {src : SignalFrom} (h : d.semTarget n i = (n, i)) : d.signal n i cnt src = d.semAdd n i cnt (some src) := by
  simp [Dev.signal, h]

theorem Dev.completeDesc_eq (hx : Store.get none (d.core n).su.desc i = some x) (hs : x.started = true) (ht : x.stopped = false)
    (hpos : x.pos = sdTotal x.img) (hin : x.inflight = 0) : d.completeDesc n i =
      (if sdCsen x.img then (d.modCore n (Core.shadowIn · i)).signal n (sdCsem x.img) (sdCscnt x.img) ⟨x.tid, x.pc, true⟩
        else d.modCore n (Core.shadowIn · i)).modCore n Core.settle := by
  simp [Dev.completeDesc, hx, hs, ht, hpos, hin]
  rfl

end

/-- What a completed transfer leaves on its core: the shadow has moved in, and the semaphore has its count. -/
theorem exec_completion {s : State} {n i : Nat} {x : SDesc} (hn : n < nCores) (hi : i < 32)
    (hx : Store.get none (s.dev.core n).su.desc i = some x) (hs : x.started = true) (ht : x.stopped = false)
    (hpos : x.pos = sdTotal x.img) (hin : x.inflight = 0)
    (hsig : sdCsen x.img = true → s.dev.semTarget n (sdCsem x.img) = (n, sdCsem x.img) ∧
      Store.get 0 (s.dev.core n).su.sem (sdCsem x.img) + sdCscnt x.img ≤ 65535) :
    ∃ t sem, exec (.descriptorCompletion n i) s = .next t ∧ OnlyCoreChanged s t n ∧
      (t.dev.core n).su = { ((s.dev.core n).shadowIn i).su with sem := sem } ∧
      ∀ z, Store.get 0 sem z = Store.get 0 (s.dev.core n).su.sem z +
        (if sdCsen x.img = true ∧ z = sdCsem x.img then sdCscnt x.img else 0) := by
  have heq := Dev.completeDesc_eq hx hs ht hpos hin
  have honly := OnlyCoreChanged.modCore ⟨_, onlyCore_setCore s n ((s.dev.core n).shadowIn i)⟩
  by_cases hc : sdCsen x.img = true
  · obtain ⟨htgt, hle⟩ := hsig hc
    rw [if_pos hc, Dev.signal_own (d := s.dev.modCore n (Core.shadowIn · i)) htgt,
      Dev.semAdd_of_le (by rw [Dev.modCore_core_self]; exact hle)] at heq
    refine ⟨_, Store.set 0 (s.dev.core n).su.sem (sdCsem x.img) (Store.get 0 (s.dev.core n).su.sem (sdCsem x.img) + sdCscnt x.img),
      (onDesc_eq hn hi _).trans (congrArg (fun e => Host.Outcome.next { s with dev := e }) heq), OnlyCoreChanged.modCore (honly _) _, ?_, fun z => ?_⟩
    · rw [Dev.modCore_core_self, Dev.modCore_core_self, Dev.setCore_core_self, Dev.modCore_core_self]
      rfl
    · rw [Store.get_set]
      by_cases hz : z = sdCsem x.img
      · simp only [hz, hc, and_self, if_true]
      · simp only [hz, and_false, if_false, Nat.add_zero]
  · rw [if_neg hc] at heq
    refine ⟨_, (s.dev.core n).su.sem, (onDesc_eq hn hi _).trans (congrArg (fun e => Host.Outcome.next { s with dev := e }) heq), honly _, ?_, fun z => ?_⟩
    · rw [Dev.modCore_core_self, Dev.setCore_core_self]
      rfl
    · rw [if_neg fun h => hc h.1]
      rfl

/-- Settles O23. -/
theorem transfersIssueLandAndComplete : Obligations.TransfersIssueLandAndComplete := by
  intro s n i tag x q k a bs p hn hi hx hs ht hq
  refine ⟨fun hk hsr hdr hsu hdu hl hpos htag ⟨hwait, hd⟩ => ?_, fun h hb hk hroom => ?_, fun ho h hb => ?_, fun hpos hin hsig => ?_⟩
  · have hp : padCopy n x.img := ⟨hk, hsr, hdr, hsu, hdu, hl⟩
    refine ⟨_, onDesc_eq hn hi _, ?_⟩
    rw [Dev.descRequest_padCopy hp hx hs ht hq hpos, Dev.copyRequest_pads hp htag hwait hd]
    refine ⟨⟨_, onlyCore_setCore s n _⟩, ?_⟩
    unfold Dev.issue
    rw [Dev.modCore_core_self]
    refine ⟨rfl, Store.get_set_self none (s.dev.core n).su.desc i (some { x with pos := x.pos + x.copyLen, inflight := x.inflight + 1 }),
        List.length_append .., _, List.getLast?_concat .., rfl, rfl, rfl, rfl, rfl, ?_⟩
    rw [cellRuns_bytes, dstCell_bytes]
    rfl
  · obtain ⟨f, g, hf, hg, hhold, heq⟩ := Dev.requestLands_held h hb hk hroom
    refine ⟨_, onCore_eq hn _, ?_, fun m => ?_, ?_⟩
    · rw [heq]
      simp
    · rw [heq, Dev.modCore_core]
      have hmark : ((s.dev.modCore n f).core m).pad = (s.dev.core m).pad := by
        rw [Dev.modCore_core]
        split
        · exact hf _
        · rfl
      split
      · exact (hg _).trans hmark
      · exact hmark
    · rw [heq, Dev.modCore_core_self, hhold]
      exact congrArg (·.su.hold ++ _) (Dev.modCore_core_ne _ _ hk)
  · have hruns := h.2.2.1
    refine ⟨_, onCore_eq hn _, ?_⟩
    rw [Dev.requestLands_landable h hb]
    exact ⟨Dev.landAll_mem _ hruns, Dev.landAll_padByte _ hruns, fun m hm => Dev.landAll_pad_ne _ hruns hm, Dev.landAll_req _ hruns,
      Dev.landAll_inflight _ hruns ho hx ht⟩
  · obtain ⟨t, sem, hexec, honly, hsu, hsem⟩ := exec_completion hn hi hx hs ht hpos hin hsig
    exact ⟨t, hexec, honly, by rw [hsu]; exact Store.get_set_self none (s.dev.core n).su.desc i (Store.get none (s.dev.core n).su.shadow i),
      by rw [hsu]; exact Store.get_set_self none (s.dev.core n).su.shadow i none, by rw [hsu]; exact hsem⟩

end Sys2Proof.Machine
end

section
/-! SUPPORT. Messages between cores and the smoker (chapter 7): credits, signals, held writes and buckets. -/

namespace Sys2Proof.Machine
open Sys2Proof Sys2Proof.Machine.Claims

section
variable {s : State} {n : Nat}

/-! ## Credits and signals (R166, R168) -/

theorem exec_creditMessage {j m : Nat} {r : RingDecl} (hn : n < nCores) (hr : s.dev.ringOf n j = some r)
    (hm : Store.get 0 (s.dev.core n).su.creditMsg j = m + 1) : ∃ t, exec (.creditMessage n j) s = .next t ∧ t.dev.mem = s.dev.mem ∧
      Store.get 0 (t.dev.core n).su.creditMsg j = m ∧
      Store.get 0 (t.dev.core r.pcore).su.credit (n * 32 + j) = Store.get 0 (s.dev.core r.pcore).su.credit (n * 32 + j) - 1 := by
  refine ⟨_, onCore_eq hn _, ?_⟩
  dsimp only
  rw [hr, hm]
  simp only [Nat.add_one_ne_zero, if_false, Nat.add_sub_cancel]
  refine ⟨by simp, ?_, ?_⟩
  · rw [Dev.modCore_core, Dev.modCore_core_self]
    split <;> exact Store.get_set_self 0 (s.dev.core n).su.creditMsg j m
  · rw [Dev.modCore_core_self]
    refine (Store.get_set_self ..).trans (congrArg (· - 1) ?_)
    rw [Dev.modCore_core]
    split <;> rfl

theorem exec_signalMessage {src : Nat} {m : Nat × Nat × SignalFrom} {r : List (Nat × Nat × SignalFrom)} (hn : n < nCores)
    (hm : Store.get [] (s.dev.core n).su.signal src = m :: r) (hle : Store.get 0 (s.dev.core n).su.sem m.1 + m.2.1 ≤ 65535) :
    ∃ t, exec (.signalMessage n src) s = .next t ∧ OnlyCoreChanged s t n ∧ Store.get [] (t.dev.core n).su.signal src = r ∧
      ∀ k, Store.get 0 (t.dev.core n).su.sem k = Store.get 0 (s.dev.core n).su.sem k + (if k = m.1 then m.2.1 else 0) := by
  refine ⟨_, onCore_eq hn _, ?_⟩
  dsimp only
  rw [hm]
  dsimp only
  rw [Dev.semAdd_of_le (by rw [Dev.modCore_core_self]; exact hle)]
  refine ⟨OnlyCoreChanged.modCore ⟨_, onlyCore_setCore s n _⟩ _, ?_, fun k => ?_⟩
  · rw [Dev.modCore_core_self, Dev.modCore_core_self]
    exact Store.get_set_self [] (s.dev.core n).su.signal src r
  · rw [Dev.modCore_core_self, Dev.modCore_core_self]
    refine (Store.get_set 0 (s.dev.core n).su.sem m.1 k _).trans ?_
    split
    · next h => rw [h]
    · rfl

/-! ## Held writes (R166) -/

theorem Dev.inboundHoldWrite_head {d : Dev} {h : InHold} {r : List InHold} {q : Request} (hh : (d.core n).su.hold = h :: r)
    (hq : (d.core h.src).su.req.find? (fun q => q.held && (if h.tag < 64 then !q.light && q.tag == h.tag else q.light && q.tag == h.tag - 64)) =
      some q) (hb : d.landBlocked q = false) :
    d.inboundHoldWrite n = (d.modCore n (fun c => { c with su := { c.su with hold := c.su.hold.erase h } })).landAll h.src q := by
  unfold Dev.inboundHoldWrite
  dsimp only
  rw [hh, List.find?_cons]
  simp only [hq, hb, Bool.not_false]

theorem exec_inboundHoldWrite {h : InHold} {r : List InHold} {q : Request} {a : Nat} {bs : List Byte} {p : Bool} (hn : n < nCores)
    (hh : (s.dev.core n).su.hold = h :: r) (hne : h.src ≠ n)
    (hq : (s.dev.core h.src).su.req.find? (fun q => q.held && (if h.tag < 64 then !q.light && q.tag == h.tag else q.light && q.tag == h.tag - 64)) =
      some q) (hruns : q.runs = [(.pad n a, bs, p)]) (hb : s.dev.landBlocked q = false) :
    ∃ t, exec (.inboundHoldWrite n) s = .next t ∧ t.dev.mem = s.dev.mem ∧ (t.dev.core n).su.hold = r ∧
      (∀ z, (t.dev.core n).padByte z = if a ≤ z ∧ z < a + bs.length then bs.getD (z - a) 0#8 else (s.dev.core n).padByte z) ∧
      (t.dev.core h.src).su.req = (s.dev.core h.src).su.req.filter (fun z => !(z.tag == q.tag && z.light == q.light)) := by
  refine ⟨_, onCore_eq hn _, ?_⟩
  rw [Dev.inboundHoldWrite_head hh hq hb]
  refine ⟨?_, ?_, fun z => ?_, ?_⟩
  · rw [Dev.landAll_mem _ hruns, Dev.modCore_mem]
  · rw [Dev.landAll_hold _ hruns, Dev.modCore_core_self, hh, List.erase_cons_head]
  · rw [Dev.landAll_padByte _ hruns, Dev.modCore_core_self]
    rfl
  · rw [Dev.landAll_req _ hruns, Dev.modCore_core_ne _ _ hne]

end

/-! ## The smoker (R181, R199) -/

/-- A core's and a super's bucket after 16 cycles. -/
def Core.refilled (c : Core) : Core := { c with su := { c.su with bucket := c.su.bucket.refill c.su.bucket.rate } }
def Super.refilled (u : Super) : Super := { u with bucket := u.bucket.refill (if u.stage = 0 then u.bucket.rate else u.cool) }

/-- The buckets of these cores and of these supers after 16 cycles. -/
def Dev.refillCores (d : Dev) (l : List Nat) : Dev := l.foldl (fun d n => d.modCore n Core.refilled) d
def Dev.refillSups (d : Dev) (l : List Nat) : Dev := l.foldl (fun d x => d.modSup x Super.refilled) d

section
variable (d : Dev) (l : List Nat)

@[simp] theorem Dev.refillCores_mem : (d.refillCores l).mem = d.mem := foldl_mem l d fun _ _ => rfl
@[simp] theorem Dev.refillSups_mem : (d.refillSups l).mem = d.mem := foldl_mem l d fun _ _ => rfl

theorem Dev.refillCores_tiers : (d.refillCores l).tiers = d.tiers := by
  unfold Dev.refillCores
  induction l generalizing d with
  | nil => rfl
  | cons k l ih => exact ih _

theorem Dev.refillSups_tiers : (d.refillSups l).tiers = d.tiers := by
  unfold Dev.refillSups
  induction l generalizing d with
  | nil => rfl
  | cons k l ih => exact ih _

theorem Dev.refillCores_sup (x : Nat) : (d.refillCores l).sup x = d.sup x := by
  unfold Dev.refillCores
  induction l generalizing d with
  | nil => rfl
  | cons k l ih => exact ih _

theorem Dev.refillSups_core (n : Nat) : (d.refillSups l).core n = d.core n := by
  unfold Dev.refillSups
  induction l generalizing d with
  | nil => rfl
  | cons k l ih => exact ih _

theorem Dev.refillCores_core (hl : l.Nodup) (n : Nat) : (d.refillCores l).core n = if n ∈ l then (d.core n).refilled else d.core n := by
  unfold Dev.refillCores
  induction l generalizing d with
  | nil => simp
  | cons k l ih =>
    obtain ⟨hk, hl⟩ := List.nodup_cons.1 hl
    rw [List.foldl_cons, ih _ hl, Dev.modCore_core]
    by_cases h : n = k
    · subst h
      simp [hk]
    · simp [h]

theorem Dev.refillSups_sup (hl : l.Nodup) (x : Nat) : (d.refillSups l).sup x = if x ∈ l then (d.sup x).refilled else d.sup x := by
  unfold Dev.refillSups
  induction l generalizing d with
  | nil => simp
  | cons k l ih =>
    obtain ⟨hk, hl⟩ := List.nodup_cons.1 hl
    rw [List.foldl_cons, ih _ hl]
    by_cases h : x = k
    · subst h
      simp [hk]
    · simp [h, Dev.modSup_sup_ne _ _ h]

end

theorem Dev.takeTokens_cores (d : Dev) (dev n : Nat) : (d.takeTokens dev n).cores = d.cores := by
  unfold Dev.takeTokens
  repeat' split
  all_goals rfl

theorem Dev.cursorOf_cores (d : Dev) (r : MoveRun) : (d.cursorOf r).2.cores = d.cores := by
  unfold Dev.cursorOf
  repeat' split
  all_goals rfl

theorem Dev.meterRun_cores (d : Dev) (r : MoveRun) : (d.meterRun r).cores = d.cores := by
  unfold Dev.meterRun
  dsimp only
  split
  · rfl
  · rw [Dev.modTiers_cores, foldl_keeps Dev.cores fun d x => d.takeTokens_cores x _]
    split
    · rfl
    · exact d.cursorOf_cores r

theorem Dev.meterRuns_cores (d : Dev) : d.meterRuns.cores = d.cores :=
  foldl_keeps Dev.cores (fun d r => d.meterRun_cores r) _ _

theorem Dev.modBrd_core (d : Dev) (f : Board → Board) (n : Nat) : (d.modBrd f).core n = d.core n := rfl
theorem Dev.modBrd_sup (d : Dev) (f : Board → Board) (x : Nat) : (d.modBrd f).sup x = d.sup x := rfl

theorem exec_bucketRefill (s : State) : ∃ d : Dev, exec .bucketRefill s = .next { s with dev := d.meterRuns } ∧ d.mem = s.dev.mem ∧
    d.tiers = s.dev.tiers ∧ (∀ n, n < nCores → d.core n = (s.dev.core n).refilled) ∧
    ∀ x, x < Config.nSupers → d.sup x = (s.dev.sup x).refilled := by
  refine ⟨((s.dev.refillCores (List.range nCores)).refillSups (List.range Config.nSupers)).modBrd (fun b => { b with
    deepBucket := b.deepBucket.refill (if b.deepStage = 0 then b.deepBucket.rate else b.deepBucket.rate / 2) }), rfl, ?_, ?_, fun n hn => ?_,
    fun x hx => ?_⟩
  · rw [Dev.modBrd_mem, Dev.refillSups_mem, Dev.refillCores_mem]
  · rw [Dev.modBrd_tiers, Dev.refillSups_tiers, Dev.refillCores_tiers]
  · rw [Dev.modBrd_core, Dev.refillSups_core, Dev.refillCores_core _ _ List.nodup_range, if_pos (List.mem_range.2 hn)]
  · rw [Dev.modBrd_sup, Dev.refillSups_sup _ _ List.nodup_range, if_pos (List.mem_range.2 hx), Dev.refillCores_sup]

/-- Settles O24. -/
theorem messagesArriveAndBucketsRefill : Obligations.MessagesArriveAndBucketsRefill := by
  intro s n src j hn _
  refine ⟨fun r m hr hm => exec_creditMessage hn hr hm, fun m r hm hle => exec_signalMessage hn hm hle,
    fun h r q k a bs p hh hne hq hruns hk hb => exec_inboundHoldWrite hn hh hne hq (hk ▸ hruns) hb, ?_⟩
  obtain ⟨d, hexec, hmem, htiers, hcore, hsup⟩ := exec_bucketRefill s
  have hn' : d.meterRuns.core n = (s.dev.core n).refilled := (Dev.core_of_cores d.meterRuns_cores n).trans (hcore n hn)
  refine ⟨_, hexec, d.meterRuns_mem.trans hmem, ?_, ?_, fun x hx hruns => ?_⟩
  · exact congrArg (fun c : Core => c.su.bucket.tokens) hn'
  · exact (congrArg Core.pad hn').trans rfl
  · have hnone : d.meterRuns = d := by
      unfold Dev.meterRuns
      rw [htiers, hruns]
      rfl
    rw [hnone, hsup x hx]
    rfl

end Sys2Proof.Machine
end

section
/-! SUPPORT. Forager requests (chapter 7): what the stream unit reads ahead for a window. -/

namespace Sys2Proof.Machine
open Sys2Proof Sys2Proof.Machine.Claims

/-! ## What a read of the unified range leaves alone -/

section
variable (d : Dev)

theorem Dev.modTokens_cores (dev : Nat) (f : TokenTurn → TokenTurn) : (d.modTokens dev f).cores = d.cores := by
  unfold Dev.modTokens
  repeat' split
  all_goals rfl

theorem Dev.serveTokens_cores (dev n len : Nat) : (d.serveTokens dev n len).cores = d.cores :=
  (Dev.modTokens_cores _ _ _).trans (d.takeTokens_cores _ _)

theorem Dev.touch_cores (a : Nat) : (d.touch a).cores = d.cores := by
  unfold Dev.touch
  dsimp only
  split <;> rfl

theorem Dev.combUse_cores (line : Nat) : (d.combUse line).cores = d.cores := by
  unfold Dev.combUse
  dsimp only
  split <;> rfl

theorem Dev.meter_cores {e : Dev} {a n : Nat} (h : d.meter a n = some e) : e.cores = d.cores := by
  unfold Dev.meter at h
  dsimp only at h
  split at h
  · split at h
    · cases h
    · cases h
      exact d.takeTokens_cores _ _
  · cases h
    rfl

theorem Dev.combMiss_cores (c line : Nat) : (d.combMiss c line).2.cores = d.cores := by
  unfold Dev.combMiss
  dsimp only
  split
  · rfl
  split
  · rfl
  split
  · rfl
  · next e h => exact (Dev.countMem_cores ..).trans (show e.cores = d.cores from d.meter_cores h)

theorem Dev.streamRead_cores (c a n : Nat) : (d.streamRead c a n).cores = d.cores := by
  unfold Dev.streamRead
  split
  · exact (Dev.touch_cores _ _).trans (d.combUse_cores _)
  · split
    · exact d.combMiss_cores _ _
    · exact Dev.countMem_cores ..

theorem Dev.queueMove_cores (m : Move) : (d.queueMove m).cores = d.cores := by
  unfold Dev.queueMove
  dsimp only
  repeat' split
  all_goals rfl

theorem Dev.prefetchPromotion_cores (page : Nat) : (d.prefetchPromotion page).cores = d.cores := by
  unfold Dev.prefetchPromotion
  dsimp only
  split
  · exact d.queueMove_cores _
  · rfl

end

/-! ## The request (R178, R179) -/

/-- The slot of chunk 0 of the window, and the one that its next bytes go to. -/
def Window.slot0 (w : Window) (x : RingState) : Nat := if w.chunk = 0 && w.off = 0 then max x.prod x.tail else w.slot

/-- The window and its ring move on by a request of `len` bytes; `s0` is the slot of chunk 0. -/
def Core.foraged (c : Core) (i : Nat) (w : Window) (r : RingDecl) (s0 len : Nat) (pin : Option (Nat × Nat)) : Core :=
  let c := c.setWin i { w.advance s0 len r.slotBytes with pin := pin }
  { c.setRing r.ix { c.ringSt r.ix with prod := max (c.ringSt r.ix).prod (s0 + w.chunk + 1) } with progress := true }

/-- The rows of a slot that could not be fetched. -/
def Core.unfetched (c : Core) (rs : List RingDecl) (rows : List Nat) : Core :=
  Core.advanceTails { c with w := rows.foldl (fun m y => Store.set false m y true) c.w,
                             u := rows.foldl (fun m y => Store.set false m y true) c.u,
                             su := { c.su with counters := bump c.su.counters 4 1 } } rs

section
variable {d : Dev} {n i : Nat} {w : Window} {r : RingDecl}

/-- The request is due: the window has chunks left, and the slot that its bytes go to is drained. -/
def forageDue (d : Dev) (n i : Nat) (w : Window) (r : RingDecl) : Prop :=
  Store.get none (d.core n).su.win i = some w ∧ d.ringOf n (winRingIx w) = some r ∧ w.chunk < winChunks w.img ∧ d.quiesced n = false ∧
  (w.off = 0 → w.slot0 ((d.core n).ringSt r.ix) + w.chunk < ((d.core n).ringSt r.ix).head + r.n ∧
    (d.core n).filled r (w.slot0 ((d.core n).ringSt r.ix) + w.chunk) = false)

/-- The address of the request and its bytes. -/
def Window.addr (w : Window) : Nat := winChunk w w.chunk + w.off
def Window.len (w : Window) (r : RingDecl) : Nat := min (r.slotBytes - w.off) (512 - w.addr % 512)
/-- The scratchpad address that its bytes go to. -/
def Core.forageAt (c : Core) (w : Window) (r : RingDecl) : Nat := 32 * r.slotRow (w.slot0 (c.ringSt r.ix) + w.chunk) + w.off

/-- A request that is due meets no wait on its slot. -/
theorem forageDue.enters (h : forageDue d n i w r) :
    ¬(decide (winChunks w.img ≤ w.chunk) || d.quiesced n) = true ∧
    ¬(decide (w.off = 0) && !(decide (w.slot0 ((d.core n).ringSt r.ix) + w.chunk < ((d.core n).ringSt r.ix).head + r.n) &&
      !((d.core n).filled r (w.slot0 ((d.core n).ringSt r.ix) + w.chunk)))) = true := by
  obtain ⟨-, -, hc, hq, hslot⟩ := h
  refine ⟨by simp [hc, hq], ?_⟩
  by_cases ho : w.off = 0
  · obtain ⟨hk, hf⟩ := hslot ho
    simp [hk, hf]
  · simp [ho]

theorem Dev.forage_unmapped (h : forageDue d n i w r)
    (hu : d.mapRead w.ctx (w.addr / pageBytes) = false ∨ (d.tm (w.addr / pageBytes)).nopf = true) :
    d.forage n i = d.modCore n (fun c => (c.foraged i w r (w.slot0 ((d.core n).ringSt r.ix)) (w.len r) w.pin).unfetched (d.rings n)
      (rowsOf ((d.core n).forageAt w r) (w.len r))) := by
  obtain ⟨hgo, hslot⟩ := h.enters
  obtain ⟨hw, hr, -⟩ := h
  have hu' : (!(d.mapRead w.ctx (w.addr / pageBytes)) || (d.tm (w.addr / pageBytes)).nopf) = true := by
    rcases hu with hu | hu <;> simp [hu]
  unfold Dev.forage
  dsimp only
  rw [hw]
  dsimp only
  rw [hr]
  dsimp only
  rw [if_neg hgo]
  refine (if_neg hslot).trans ?_
  exact if_pos hu'

/-- The request that the window issues. -/
def Dev.forageReq (d : Dev) (n i tag : Nat) (w : Window) (r : RingDecl) : Request :=
  { tag := tag, owner := .window i, ring := true, src := some (w.addr / pageBytes), stamp := (d.part (d.partOf n)).beat,
    runs := cellRuns ((d.memCells w.addr (w.len r)).zipIdx.map (fun y => (false, n, (d.core n).forageAt w r + y.2, y.1.1, y.1.2))) }

/-- The core after the window has issued a request for `len` bytes. -/
def Core.forages (c : Core) (q : Request) (len : Nat) : Core :=
  { c with su := { c.su with req := c.su.req ++ [q], counters := bump c.su.counters 2 1, bucket := c.su.bucket.take len } }

theorem Dev.forage_mapped {tag : Nat} (h : forageDue d n i w r) (hv : winVreq w.img = false)
    (hm : d.mapRead w.ctx (w.addr / pageBytes) = true) (hp : (d.tm (w.addr / pageBytes)).nopf = false)
    (htag : (d.core n).su.freeTag = some tag) (hb : w.len r ≤ (d.core n).su.bucket.tokens)
    (htok : ∀ v, d.devTokens (d.tm (w.addr / pageBytes)).dev = some v → w.len r ≤ v)
    (hturn : d.tokenTurn (d.tm (w.addr / pageBytes)).dev n = true)
    (hmay : (d.serveTokens (d.tm (w.addr / pageBytes)).dev n (w.len r)).streamMay w.addr = true) :
    d.forage n i = (((d.serveTokens (d.tm (w.addr / pageBytes)).dev n (w.len r)).modCore n (fun c =>
      (c.foraged i w r (w.slot0 ((d.core n).ringSt r.ix)) (w.len r) none).forages (d.forageReq n i tag w r) (w.len r))).streamRead w.ctx w.addr (w.len r)).prefetchPromotion
        (w.addr / pageBytes) := by
  obtain ⟨hgo, hslot⟩ := h.enters
  obtain ⟨hw, hr, -⟩ := h
  have hmapped : ¬(!(d.mapRead w.ctx (w.addr / pageBytes)) || (d.tm (w.addr / pageBytes)).nopf) = true := by simp [hm, hp]
  have hgrant : ¬(!(d.tokenTurn (d.tm (w.addr / pageBytes)).dev n) || (match d.devTokens (d.tm (w.addr / pageBytes)).dev with
      | some v => decide (v < w.len r)
      | none => false)) = true := by
    rw [hturn]
    split
    · next v hd => simpa using htok v hd
    · simp
  have hserved : ¬(!((d.serveTokens (d.tm (w.addr / pageBytes)).dev n (w.len r)).streamMay w.addr)) = true := by simp [hmay]
  unfold Dev.forage
  dsimp only
  rw [hw]
  dsimp only
  rw [hr]
  dsimp only
  rw [if_neg hgo]
  refine (if_neg hslot).trans ?_
  refine (if_neg hmapped).trans ?_
  simp only [hv, htag, Bool.false_eq_true, if_false, Nat.reduceEqDiff]
  refine (if_neg (Nat.not_lt.2 hb)).trans ?_
  refine (if_neg hgrant).trans ?_
  refine (if_neg hserved).trans ?_
  rfl

end

theorem Core.forages_parts (c : Core) (i : Nat) (w : Window) (r : RingDecl) (s0 len : Nat) (q : Request) :
    ((c.foraged i w r s0 len none).forages q len).pad = c.pad ∧
    ((c.foraged i w r s0 len none).forages q len).su.bucket.tokens = c.su.bucket.tokens - len ∧
    ((c.foraged i w r s0 len none).forages q len).su.req = c.su.req ++ [q] := ⟨rfl, rfl, rfl⟩

/-- What a request for mapped bytes leaves. -/
theorem Dev.forage_mapped_leaves {d : Dev} {n i : Nat} {w : Window} {r : RingDecl} {tag : Nat} (h : forageDue d n i w r)
    (hv : winVreq w.img = false) (hm : d.mapRead w.ctx (w.addr / pageBytes) = true) (hp : (d.tm (w.addr / pageBytes)).nopf = false)
    (htag : (d.core n).su.freeTag = some tag) (hb : w.len r ≤ (d.core n).su.bucket.tokens)
    (htok : ∀ v, d.devTokens (d.tm (w.addr / pageBytes)).dev = some v → w.len r ≤ v)
    (hturn : d.tokenTurn (d.tm (w.addr / pageBytes)).dev n = true)
    (hmay : (d.serveTokens (d.tm (w.addr / pageBytes)).dev n (w.len r)).streamMay w.addr = true) :
    (d.forage n i).mem = d.mem ∧ ((d.forage n i).core n).pad = (d.core n).pad ∧
      ((d.forage n i).core n).su.bucket.tokens = (d.core n).su.bucket.tokens - w.len r ∧
      ((d.forage n i).core n).su.req = (d.core n).su.req ++ [d.forageReq n i tag w r] := by
  have hcore : (d.forage n i).core n =
      ((d.core n).foraged i w r (w.slot0 ((d.core n).ringSt r.ix)) (w.len r) none).forages (d.forageReq n i tag w r) (w.len r) := by
    rw [Dev.forage_mapped h hv hm hp htag hb htok hturn hmay, Dev.core_of_cores (Dev.prefetchPromotion_cores ..),
      Dev.core_of_cores (Dev.streamRead_cores ..), Dev.modCore_core_self, Dev.core_of_cores (Dev.serveTokens_cores ..)]
  rw [hcore]
  refine ⟨?_, Core.forages_parts ..⟩
  rw [Dev.forage_mapped h hv hm hp htag hb htok hturn hmay, Dev.prefetchPromotion_mem, Dev.streamRead_mem, Dev.modCore_mem,
    Dev.serveTokens_mem]

theorem Core.unfetched_ring (c : Core) (rs : List RingDecl) (rows : List Nat) : ∃ ring, c.unfetched rs rows =
    { c with w := rows.foldl (fun m y => Store.set false m y true) c.w, u := rows.foldl (fun m y => Store.set false m y true) c.u,
             su := { c.su with counters := bump c.su.counters 4 1, ring := ring } } := by
  unfold Core.unfetched
  obtain ⟨ring, h⟩ := Core.advanceTails_ring rs { c with w := rows.foldl (fun m y => Store.set false m y true) c.w, u := rows.foldl (fun m y => Store.set false m y true) c.u, su := { c.su with counters := bump c.su.counters 4 1 } }
  exact ⟨ring, h⟩

/-- Settles O25. -/
theorem foragerRequestsFetchOrMark : Obligations.ForagerRequestsFetchOrMark := by
  intro s n i w r hn hi hw hr hc hv hq c x k a len hslot
  have hexec : exec (.foragerRequest n i) s = .next { s with dev := s.dev.forage n i } :=
    onUnit_eq (by rw [decide_eq_true hn, decide_eq_true hi]; rfl) _
  have hs0 : w.slot0 x = if w.chunk = 0 ∧ w.off = 0 then max x.prod x.tail else w.slot := by simp [Window.slot0]
  have hdue : forageDue s.dev n i w r := ⟨hw, hr, hc, hq, fun ho => by rw [hs0]; exact hslot ho⟩
  have hat : c.forageAt w r = 32 * r.slotRow k + w.off := by
    unfold Core.forageAt
    rw [hs0]
  refine ⟨fun hu => ⟨_, hexec, ?_⟩, fun tag hm hp htag hb htok hturn hmay => ⟨_, hexec, ?_⟩⟩
  · rw [Dev.forage_unmapped hdue hu]
    obtain ⟨ring, hcore⟩ := (c.foraged i w r (w.slot0 x) (w.len r) w.pin).unfetched_ring (s.dev.rings n) (rowsOf (c.forageAt w r) (w.len r))
    refine ⟨⟨_, onlyCore_setCore s n _⟩, ?_, ?_, fun y => ?_⟩
    · rw [Dev.modCore_core_self, hcore]
      rfl
    · rw [Dev.modCore_core_self, hcore]
      rfl
    · rw [Dev.modCore_core_self, hcore, ← hat]
      exact Store.get_foldl_set_true _ c.u y
  · obtain ⟨hmem, hpad, htokens, hreq⟩ := Dev.forage_mapped_leaves hdue hv hm hp htag hb htok hturn hmay
    refine ⟨hmem, hpad, htokens, _, hreq, rfl, rfl, ?_⟩
    unfold Dev.forageReq
    rw [cellRuns_bytes, List.map_map]
    refine (congrArg (List.map (fun y : Byte × Bool => y.1)) (List.zipIdx_map_fst 0 (s.dev.memCells a len))).symm.trans ?_ |>.symm
    rw [List.map_map]
    rfl

end Sys2Proof.Machine
end

section
/-! SUPPORT. The unified range stays canonical: the functions of the model that write its bytes. -/

namespace Sys2Proof.Machine
open Sys2Proof

/-- The unified range is in its canonical form. -/
def Dev.Canon (d : Dev) : Prop := Memory.wf d.mem = true

namespace Dev.Canon
variable {d e : Dev}

theorem of_mem (h : d.Canon) (he : e.mem = d.mem) : e.Canon := by
  unfold Dev.Canon
  rw [he]
  exact h

theorem ite {c : Prop} [Decidable c] (hd : d.Canon) (he : e.Canon) : (if c then d else e).Canon := by
  split
  · exact hd
  · exact he

theorem foldl {α : Type} {f : Dev → α → Dev} (hf : ∀ e a, e.Canon → (f e a).Canon) (l : List α) {d : Dev} (h : d.Canon) :
    (l.foldl f d).Canon := by
  induction l generalizing d with
  | nil => exact h
  | cons a l ih => exact ih (hf d a h)

/-- The same for a fold that carries something beside the module. -/
theorem foldl_with {α β : Type} (g : β → Dev) {f : β → α → β} (hf : ∀ b a, (g b).Canon → (g (f b a)).Canon) (l : List α) {b : β}
    (h : (g b).Canon) : (g (l.foldl f b)).Canon := by
  induction l generalizing b with
  | nil => exact h
  | cons a l ih => exact ih (hf b a h)

/-! ## Writes of bytes -/

section
variable (h : d.Canon) (a : Nat) (bs : List Byte) (p : Bool)
include h

theorem memPut : (d.memPut a bs p).Canon := d.memPut_wf a bs p h

theorem unitWrite (part : Nat) : (d.unitWrite part a bs p).Canon :=
  (h.memPut a bs p).of_mem (by rw [Dev.unitWrite, Dev.staleCheck_mem, Dev.combDrop_mem])

theorem uniWrite (part c : Nat) : (d.uniWrite part c a bs p).Canon :=
  (h.memPut a bs p).of_mem (by rw [Dev.uniWrite, Dev.staleCheck_mem, Dev.countMem_mem, Dev.combDrop_mem])

theorem uniWriteThrough (part c : Nat) : (d.uniWriteThrough part c a bs p).Canon :=
  (h.memPut a bs p).of_mem (by rw [Dev.uniWriteThrough, Dev.staleCheck_mem, Dev.countMem_mem])

theorem statWrite : (d.statWrite a bs).Canon := h.unitWrite a bs false _

theorem clearPages (has : Nat → Bool) : (d.clearPages has).Canon := Memory.wf_filter _ _ h

theorem dark (st : ModState) : (d.dark st).Canon := rfl

/-! ## Status records, atomics and landings -/

theorem setStatus (t : List Byte) (i vn : Nat) (oldv : Bool) (adj0 adj1 : Int) (cstep : Nat) :
    (d.setStatus t i vn oldv adj0 adj1 cstep).Canon := h.statWrite _ _

theorem setAdj (t : List Byte) (i buf : Nat) (x : Int) : (d.setAdj t i buf x).Canon := h.statWrite _ _

theorem setCstep (t : List Byte) (i k : Nat) : (d.setCstep t i k).Canon := h.statWrite _ _

theorem combAtomic (n : Nat) : (d.combAtomic n).Canon := by
  unfold Dev.combAtomic
  split
  · exact h
  · next a _ =>
    have hfetch : (d.combFetch (d.ctxOf n) a.addr).2.Canon := h.of_mem (d.combFetch_mem _ _)
    dsimp only
    generalize (d.combFetch (d.ctxOf n) a.addr).2 = e at *
    refine ite h (ite hfetch (ite (of_mem (d := e) hfetch (Dev.abort_mem ..)) ?_))
    refine uniWriteThrough ?_ ..
    exact hfetch

theorem landRun (part cx : Nat) (r : Dest × List Byte × Bool) : (d.landRun part cx r).Canon := by
  unfold Dev.landRun
  split
  · exact h
  · exact h.uniWrite _ _ _ _ _
  · exact h

theorem landAll (n : Nat) (q : Request) : (d.landAll n q).Canon := by
  unfold Dev.landAll
  dsimp only
  refine of_mem (d := q.runs.foldl _ d) ?_ (by rw [Dev.settleLeaving_mem, Dev.modCore_mem])
  exact foldl (fun e r he => he.landRun _ _ r) _ h

theorem requestLands (n tag : Nat) : (d.requestLands n tag).Canon := by
  unfold Dev.requestLands
  dsimp only
  split
  · exact h
  · refine ite h (ite ?_ (h.landAll n _))
    split
    · exact h
    · exact ite h h

theorem inboundHoldWrite (n : Nat) : (d.inboundHoldWrite n).Canon := by
  unfold Dev.inboundHoldWrite
  dsimp only
  split
  · exact h
  · split
    · exact landAll (d := d.modCore n _) h _ _
    · exact h

/-! ## Stores of tasks -/

theorem uniStore (n : Nat) : (d.uniStore n a bs).Canon := uniWriteThrough (d := d.modCore n _) h ..

omit a bs p in
theorem doOp {n : Nat} {b : BufEntry} (hop : d.doOp n b = some e) : e.Canon := by
  unfold Dev.doOp at hop
  dsimp only at hop
  split at hop
  · unfold Dev.padStore at hop
    dsimp only at hop
    split at hop
    · cases hop
    · cases hop
      exact h
  · cases hop
    exact h.uniStore _ _ _
  · cases hop
    exact ite (h.of_mem (Dev.abort_mem ..)) (h.of_mem (Dev.arm_mem ..))
  · cases hop
    exact h.of_mem (Dev.signal_mem ..)
  · cases hop
    exact ite (h.of_mem (Dev.abort_mem ..)) (h.of_mem (Dev.openWindow_mem ..))
  · cases hop
    exact h

theorem drainN (f n uid : Nat) : (Dev.drainN f d n uid).Canon := by
  induction f generalizing d with
  | zero => exact h
  | succ f ih =>
    unfold Dev.drainN
    split
    · exact h
    · next b rest _ =>
      refine ite h ?_
      split
      · exact h
      · next d' hop => exact ih (doOp (d := d.modCore n _) h hop)

theorem capReady (n : Nat) : (d.capReady n).2.Canon := by
  unfold Dev.capReady
  split
  · exact h
  · next t _ _ =>
    have hd := h.drainN (d.core n).wbuf.length n t.uid
    dsimp only
    split
    · exact hd
    · split
      · exact hd
      · split
        · exact hd.of_mem (Dev.abort_mem ..)
        · exact hd

theorem effect (n ix : Nat) (t : TaskRun) (op : BufOp) : (d.effect n ix t op).Canon := by
  unfold Dev.effect
  dsimp only
  refine ite ?_ (ite h h)
  split
  · exact h
  · next d' hop =>
    have hd' : d'.Canon := h.doOp hop
    exact hd'

theorem ctl (w : Who) (u : Uncapped) (f : Dev → Nat → Nat → TaskRun → Dev) (hf : ∀ e n ix t, e.Canon → (f e n ix t).Canon) :
    (d.ctl w u f).Canon := by
  have hgo (e : Dev) (n ix : Nat) (t : TaskRun) (he : e.Canon) :
      (if e.fetchOk n t.pc then f (e.fetch n t.pc) n ix t else e.ctlFault n ix t 0x0101 0 false).Canon :=
    ite (hf _ _ _ _ (he.of_mem (Dev.fetch_mem ..))) (he.of_mem (Dev.ctlFault_mem ..))
  unfold Dev.ctl
  dsimp only
  split
  · exact h
  · refine ite h (ite (ite (hgo _ _ _ _ (h.capReady _)) (h.capReady _)) (ite h (hgo _ _ _ _ h)))

end

end Dev.Canon
end Sys2Proof.Machine
end

section
/-! SUPPORT. The unified range stays canonical: micro-batches, slices, channels, heat and recovery. -/

namespace Sys2Proof.Machine
open Sys2Proof

/-- The placement of the packet at NEXT, by what its channel writes to. -/
def Dev.place (d : Dev) (p i : Nat) (x : RecvChan) (k : HeldPkt) : Placed :=
  if 4064 ≤ x.chan then d.placeRecovery p i x k else match ceDest x.entry with
    | 0 => d.placeWindow p i x k
    | 1 => d.placeRing p i x k
    | 2 => d.placeSlice p i x k
    | _ => d.placeFeed p i x k

theorem Dev.deliver_succ {d : Dev} {p i f : Nat} {x : RecvChan} {k : HeldPkt} (hx : d.recvChan p i = some x) (hk : x.at' x.next = some k) :
    Dev.deliver p i (f + 1) d = match d.place p i x k with
      | .waits d => d
      | .done n d => Dev.deliver p i f (d.delivered p i n) := by
  rw [Dev.deliver, hx]
  dsimp only
  rw [hk]
  rfl

namespace Dev.Canon
variable {d e : Dev} (h : d.Canon)
include h

/-! ## Micro-batches (chapter 9) -/

theorem prepare (c : Nat) : (d.prepare c).Canon := by
  unfold Dev.prepare
  dsimp only
  refine ite h ?_
  refine of_mem (d := Dev.uniWrite _ _ _ _ _ _) ?_ (by rw [Dev.modCtx_mem, Dev.modPart_mem])
  refine uniWrite ?_ ..
  refine foldl_with (fun z : Dev × Nat × Nat => z.1) (fun z f hz => ?_) _ h
  refine of_mem ?_ (Dev.logSample_mem ..)
  exact ite ((hz.uniWrite ..).of_mem (Dev.event_mem ..)) (hz.uniWrite ..)

theorem readyWrite (c r : Nat) : (d.readyWrite c r).Canon := by
  unfold Dev.readyWrite
  dsimp only
  split
  · exact h
  · refine ite h ?_
    exact (h.uniWrite ..).of_mem (by rw [Dev.modPart_mem, Dev.modCtx_mem])

theorem clearRegion (c r : Nat) : (d.clearRegion c r).Canon := by
  unfold Dev.clearRegion
  dsimp only
  refine uniWrite ?_ ..
  exact foldl (fun e i he => he.uniWrite ..) _ h

theorem relsWrite (c r : Nat) : (d.relsWrite c r).Canon := by
  unfold Dev.relsWrite
  dsimp only
  refine ite h (ite (ite (h.clearRegion c r) ?_) (h.of_mem (Dev.contextFault_mem ..)))
  exact (h.clearRegion c r).of_mem (by rw [Dev.releaseRecords_mem, Dev.modCtx_mem])

theorem clearStash (p : Nat) : (d.clearStash p).Canon := by
  refine foldl (fun e c he => ?_) _ h
  dsimp only
  refine of_mem ?_ (Dev.modCtx_mem ..)
  refine ite he (foldl (fun e r he => ?_) _ he)
  exact (he.clearRegion ..).uniWrite ..

/-! ## Slices (chapter 10) -/

theorem overflow (x k : Nat) (sl : Slot) : (d.overflow x k sl).Canon := by
  unfold Dev.overflow
  dsimp only
  refine of_mem (d := Dev.setAdj d _ _ _ _) ?_
    (by rw [Dev.finishStep_mem, Dev.stopStep_mem, Dev.event_mem, Dev.push_mem, Dev.modPart_mem, Dev.modSup_mem, Dev.freeSlot_mem])
  exact h.setAdj ..

theorem writeCopies (c i s : Nat) (m : Nat → Nat) (poison : Bool) : (d.writeCopies c i s m poison).1.Canon := by
  unfold Dev.writeCopies
  dsimp only
  exact foldl (fun e r he => he.unitWrite ..) _ (foldl (fun e r he => he.unitWrite ..) _ h)

theorem applyUpdate (x p c i s : Nat) (sums : Nat → Int) (peak : Nat) (poison : Bool) (cf : Option Nat) :
    (d.applyUpdate x p c i s sums peak poison cf).Canon := by
  unfold Dev.applyUpdate
  dsimp only
  refine of_mem (d := Dev.setStatus _ _ _ _ _ _ _ _) ?_ (by rw [Dev.finishStep_mem, Dev.push_mem, Dev.modSup_mem, Dev.modPart_mem])
  refine setStatus ?_ ..
  refine writeCopies ?_ ..
  refine unitWrite ?_ ..
  exact h.of_mem (Dev.wakeDev_mem ..)

/-- What follows the spill of a slice: its norm is counted. -/
theorem spilled {x k p : Nat} {f g : Partition → Partition} {u : Super → Super} :
    ((((d.freeSlot x k).modSup x u).modPart p f).modPart p g).Canon :=
  h.of_mem (Dev.freeSlot_mem d x k)

theorem spill (x k : Nat) (sl : Slot) : (d.spill x k sl).Canon := by
  unfold Dev.spill
  dsimp only
  split
  all_goals
    refine ite ?_ (ite (ite ?_ ?_) ?_)
    · refine of_mem ?_ (Dev.normOverflow_mem ..)
      exact spilled (unitWrite (by exact h) ..)
    · refine of_mem ?_ (Dev.normArrive_mem ..)
      exact spilled (unitWrite (by exact h) ..)
    · refine of_mem ?_ (Dev.send_mem ..)
      exact spilled (unitWrite (by exact h) ..)
    · exact spilled (unitWrite (by exact h) ..)

theorem slotComplete (x k : Nat) (sl : Slot) : (d.slotComplete x k sl).Canon := by
  have hc := h.setCstep (d.sliceTab sl.ctx) sl.lidx sl.step
  unfold Dev.slotComplete
  dsimp only
  refine ite (hc.of_mem (Dev.contextFault_mem ..)) (ite (hc.overflow ..) (ite (hc.of_mem ?_) (ite (hc.spill ..) hc)))
  rw [Dev.finishStep_mem, Dev.freeSlot_mem]

theorem addContrib (x : Nat) (q : Contrib) : (d.addContrib x q).Canon := by
  unfold Dev.addContrib
  dsimp only
  have hw : (d.wakeDev x).Canon := h.of_mem (Dev.wakeDev_mem ..)
  refine ite (slotComplete ?_ ..) ?_
  · exact hw
  · exact hw

theorem contribArrival (x : Nat) : (d.contribArrival x).1.Canon := by
  unfold Dev.contribArrival
  split
  · exact h
  · dsimp only
    split
    · exact h.of_mem (by rw [Dev.contribDone_mem, Dev.modSup_mem, Dev.modSup_mem])
    · exact h.of_mem (by rw [Dev.contextFault_mem, Dev.contribDone_mem, Dev.modSup_mem])
    · split
      · exact h
      · exact h.of_mem (by rw [Dev.contribDone_mem, Dev.modSup_mem, Dev.modSup_mem])
    · exact (addContrib (d := d.modSup x _) h _ _).of_mem (Dev.contribDone_mem ..)

theorem parkedRetry (x k : Nat) : (d.parkedRetry x k).Canon := by
  unfold Dev.parkedRetry
  split
  · exact h
  · dsimp only
    split
    · exact h.of_mem (by rw [Dev.contextFault_mem, Dev.modSup_mem])
    · exact addContrib (d := d.modSup x _) h _ _
    · exact h

theorem fusedUpdate (x i : Nat) : (d.fusedUpdate x i).Canon := by
  have hwait : (d.uwait x).Canon := h.of_mem (Dev.uwait_mem ..)
  unfold Dev.fusedUpdate
  refine ite h ?_
  split
  · refine ite (ite (h.of_mem (Dev.contextFault_mem ..)) ?_) hwait
    exact applyUpdate (h.of_mem (Dev.freeSlot_mem ..)) ..
  · split
    · exact h
    · refine ite ?_ hwait
      refine applyUpdate ?_ ..
      exact h

theorem encodeVersion (p v : Nat) (keepAdj : Bool) : (d.encodeVersion p v keepAdj).Canon := by
  refine foldl (fun e c he => foldl (fun e i he => ?_) _ he) _ h
  dsimp only
  refine ite ?_ he
  refine of_mem (setStatus ?_ ..) (Dev.push_mem ..)
  refine of_mem ?_ (Dev.modSup_mem ..)
  exact writeCopies he ..

theorem replicasBefore (p v : Nat) : (d.replicasBefore p v).Canon := by
  refine foldl (fun e c he => foldl (fun e i he => ?_) _ he) _ h
  exact ite he (he.setStatus ..)

theorem resetSlices (p : Nat) : (d.resetSlices p).Canon := by
  unfold Dev.resetSlices
  dsimp only
  refine foldl (fun e c he => foldl (fun e i he => he.setStatus ..) _ he) _ ?_
  refine of_mem ?_ (Dev.modPart_mem ..)
  refine foldl (fun e x he => ?_) _ h
  exact he

/-- The elements of a memory-side add, one after another. -/
theorem addElts {α : Type} (l : List α) (at' : α → Nat) (bs : Dev → α → List Byte) (p : Dev → α → Bool) :
    (l.foldl (fun d k => d.memPut (at' k) (bs d k) (p d k)) d).Canon := foldl (fun e k he => he.memPut ..) _ h

theorem sideAdd (x : Nat) : (d.sideAdd x).Canon := by
  unfold Dev.sideAdd
  split
  · exact h
  · next a rest _ =>
    have hd : (d.modSup x (fun u => { u with adds := rest })).Canon := h
    dsimp only
    generalize d.modSup x (fun u => { u with adds := rest }) = e at *
    split
    · exact hd
    · refine of_mem ?_ (Dev.settleLeaving_mem _)
      refine of_mem ?_ (Dev.modCore_mem ..)
      refine of_mem ?_ (Dev.staleCheck_mem ..)
      refine of_mem ?_ (Dev.countMem_mem ..)
      refine of_mem ?_ (Dev.combDrop_mem ..)
      refine addElts ?_ _ _ _ _
      exact hd.of_mem (Dev.countMem_mem ..)

/-! ## Channels (chapter 11) -/

theorem openChannels (p step : Nat) : (d.openChannels p step).Canon := by
  unfold Dev.openChannels
  dsimp only
  refine of_mem ?_ (Dev.serveWants_mem _ 1)
  refine of_mem ?_ (Dev.serveWants_mem _ 0)
  refine foldl (fun e y he => ?_) _ ?_
  · refine of_mem ?_ (Dev.sendAck_mem ..)
    refine ite ?_ (ite ?_ ?_)
    · refine unitWrite ?_ ..
      exact he.of_mem (Dev.setRecv_mem ..)
    · refine foldl (fun e k he => he.unitWrite ..) _ ?_
      exact he.of_mem (Dev.setRecv_mem ..)
    · exact he.of_mem (Dev.setRecv_mem ..)
  · exact foldl (fun e y he => he.of_mem (Dev.setSend_mem ..)) _ (h.of_mem (Dev.dropChannels_mem ..))

omit h in
/-- What a placement leaves. -/
def placed : Placed → Dev
  | .waits d => d
  | .done _ d => d

theorem placeWindow (p i : Nat) (x : RecvChan) (k : HeldPkt) : (placed (d.placeWindow p i x k)).Canon := by
  unfold Dev.placeWindow
  dsimp only
  split
  · exact h.of_mem (Dev.rxd_mem ..)
  split
  · exact h.of_mem (Dev.contextFault_mem ..)
  split
  · exact h
  split
  · exact h.of_mem (Dev.contextFault_mem ..)
  split
  · exact h
  · next e he =>
    have hw (m : Nat) (f : RecvChan → RecvChan) (a a' : Nat) (bs bs' : List Byte) (b : Bool) :
        (((e.uniWrite p m a bs b).unitWrite p a' bs' false).modRecv p i f).Canon :=
      (((h.of_mem (Dev.meter_mem he)).uniWrite ..).unitWrite ..).of_mem (Dev.modRecv_mem ..)
    exact ite ((hw ..).of_mem (Dev.netSignal_mem ..)) (hw ..)

theorem placeRing (p i : Nat) (x : RecvChan) (k : HeldPkt) : (placed (d.placeRing p i x k)).Canon := by
  unfold Dev.placeRing
  dsimp only
  split
  · exact h.of_mem (Dev.rxd_mem ..)
  split
  · exact h
  split
  · exact h.of_mem (Dev.rxd_mem ..)
  · have hfill (core : Nat) (r : RingDecl) (bs : List Byte) (b : Bool) (f : Nat) : (d.ringFill p i core r bs b f).Canon :=
      h.of_mem (Dev.ringFill_mem ..)
    split
    · split
      · exact (hfill ..).of_mem (Dev.setRecv_mem ..)
      · exact hfill ..
    · exact hfill ..

theorem placeSlice (p i : Nat) (x : RecvChan) (k : HeldPkt) : (placed (d.placeSlice p i x k)).Canon := by
  unfold Dev.placeSlice
  dsimp only
  split
  · exact h
  split
  · exact h.of_mem (Dev.rxd_mem ..)
  split
  · exact h
  split
  · exact h.of_mem (Dev.contextFault_mem ..)
  split
  · exact h
  split
  · exact h.of_mem (Dev.rxd_mem ..)
  split
  · exact h
  split
  · exact h
  · exact h.of_mem (Dev.rxd_mem ..)

theorem placeFeed (p i : Nat) (x : RecvChan) (k : HeldPkt) : (placed (d.placeFeed p i x k)).Canon := by
  unfold Dev.placeFeed
  dsimp only
  split
  · exact h.of_mem (Dev.rxd_mem ..)
  split
  · exact h
  split
  · exact h.of_mem (Dev.contextFault_mem ..)
  split
  · exact h
  · next e he =>
    have hm : e.Canon := h.of_mem (Dev.meter_mem he)
    -- the head of a record is written with its first bytes
    have hfirst (b : Bool) (a : Nat) (bs : List Byte) (f : RecvChan → RecvChan) :
        (if b then (e.uniWrite p (ceCtx x.entry) a bs false).modRecv p i f else e).Canon :=
      ite ((hm.uniWrite ..).of_mem (Dev.modRecv_mem ..)) hm
    split
    · exact uniWrite (hfirst ..) ..
    · refine ite (of_mem ?_ (Dev.netSignal_mem ..)) ?_
      · exact uniWrite (uniWrite (hfirst ..) ..) ..
      · exact uniWrite (uniWrite (hfirst ..) ..) ..

theorem placeRecovery (p i : Nat) (x : RecvChan) (k : HeldPkt) : (placed (d.placeRecovery p i x k)).Canon := by
  unfold Dev.placeRecovery
  dsimp only
  split
  · exact h.of_mem (Dev.rxd_mem ..)
  split
  · exact h.of_mem (Dev.mirrorRecord_mem ..)
  split
  · exact ite (h.of_mem (Dev.storeDigests_mem ..)) h
  split
  · exact h
  · refine h.of_mem ?_
    exact (Dev.modRecv_mem ..).trans (Dev.memberPacket_mem ..)

theorem place (p i : Nat) (x : RecvChan) (k : HeldPkt) : (placed (d.place p i x k)).Canon := by
  unfold Dev.place
  split
  · exact h.placeRecovery ..
  split
  · exact h.placeWindow ..
  · exact h.placeRing ..
  · exact h.placeSlice ..
  · exact h.placeFeed ..

theorem deliver (p i f : Nat) : (Dev.deliver p i f d).Canon := by
  induction f generalizing d with
  | zero => exact h
  | succ f ih =>
    rcases hx : d.recvChan p i with _ | x
    · rw [Dev.deliver, hx]
      exact h
    rcases hk : x.at' x.next with _ | k
    · rw [Dev.deliver, hx]
      dsimp only
      rw [hk]
      exact h
    · rw [Dev.deliver_succ hx hk]
      have hp := h.place p i x k
      revert hp
      rcases d.place p i x k with e | ⟨n, e⟩
      · exact id
      · exact fun hp => ih (hp.of_mem (Dev.delivered_mem ..))

theorem deliverAll (p i : Nat) : (d.deliverAll p i).Canon := by
  unfold Dev.deliverAll
  split
  · exact h.deliver ..
  · exact h

theorem relwWrite (p i : Nat) : (d.relwWrite p i).Canon := by
  unfold Dev.relwWrite
  split
  · exact h
  · dsimp only
    refine ite h (ite (h.of_mem (Dev.contextFault_mem ..)) ?_)
    refine deliverAll ?_ ..
    refine of_mem ?_ (Dev.setRecv_mem ..)
    exact (h.unitWrite ..).unitWrite ..

theorem pushReceipt (p i : Nat) : (d.pushReceipt p i).Canon := by
  have hfin (n : Nat) (e : Dev) (he : e.Canon) : ((e.delivered p i n).deliverAll p i).Canon :=
    (he.of_mem (Dev.delivered_mem ..)).deliverAll ..
  have hwait (x : Nat) : (d.uwait x).Canon := h.of_mem (Dev.uwait_mem ..)
  unfold Dev.pushReceipt
  split
  · exact h
  split
  · exact h
  · dsimp only
    refine ite h ?_
    split
    · exact hfin _ _ (h.of_mem (Dev.contextFault_mem ..))
    · refine ite (hfin _ _ (ite (h.setAdj ..) h)) ?_
      split
      · exact h
      · refine ite (hfin _ _ (h.of_mem (Dev.rxd_mem ..))) (ite (hfin _ _ h) (ite (hwait _) ?_))
        split
        · exact hwait _
        · next e he =>
          refine hfin _ _ (setStatus ?_ ..)
          refine foldl_with (fun z : Dev × List Byte => z.1) (fun z q hz => hz.unitWrite ..) _ ?_
          exact unitWrite (h.of_mem (Dev.meter_mem he)) ..

/-! ## Heat and power (chapter 17) -/

theorem trip (unit : Nat) : (d.trip unit).Canon := by
  unfold Dev.trip
  dsimp only
  exact ite h rfl

theorem powerOff (code : Nat) : (d.powerOff code).Canon := rfl

end Dev.Canon
end Sys2Proof.Machine
end

section
/-! SUPPORT. The unified range stays canonical: packets in sequence, heat, the installation of an image, recovery. -/

namespace Sys2Proof.Machine
open Sys2Proof

namespace Dev.Canon
variable {d e : Dev} (h : d.Canon)
include h

/-- What a packet's request for cells grants. -/
theorem creq (p i : Nat) (b : Bool) : (if b then (match d.grantShared p i 16 with
    | some d => d
    | none => d.modRecv p i (fun y => { y with want := max y.want 16 })) else d).Canon := by
  refine ite ?_ h
  split
  · next g hg => exact h.of_mem (Dev.grantShared_mem hg)
  · exact h.of_mem (Dev.modRecv_mem ..)

theorem sequence (p i net : Nat) (hd : DataHdr) (ce : Bool) (payload : List Byte) : (d.sequence p i net hd ce payload).Canon := by
  unfold Dev.sequence
  split
  · exact h
  · next x _ =>
    dsimp only
    have hrecv := (h.of_mem (Dev.setRecv_mem d p i { x with arr := net })).creq p i hd.creq
    revert hrecv
    generalize (if hd.creq then _ else _ : Dev) = e
    intro hrecv
    refine ite ((hrecv.of_mem (Dev.modNet_mem ..)).of_mem (Dev.sendAck_mem ..)) ?_
    have hheld : (if (x.at' hd.seq).isSome then e
        else e.modRecv p i (fun y => { y with held := y.held ++ [⟨hd, payload, ce, net⟩] })).Canon :=
      ite hrecv (hrecv.of_mem (Dev.modRecv_mem ..))
    revert hheld
    generalize (if (x.at' hd.seq).isSome then _ else _ : Dev) = f
    intro hheld
    have hchoice : ((f.modNet net (netCnt 18 1)).freshChoice 2).2.Canon :=
      (hheld.of_mem (Dev.modNet_mem ..)).of_mem (Dev.freshChoice_mem ..)
    refine ite (hheld.deliverAll ..) (ite ?_ (ite ?_ hchoice))
    · exact (hheld.of_mem (Dev.modNet_mem ..)).of_mem ((Dev.sendNak_mem ..).trans (Dev.modRecv_mem ..))
    · exact hchoice.of_mem (Dev.sendNak_mem ..)

theorem dataReceive (net : Nat) (hd : DataHdr) (ce : Bool) (udpLen : Nat) (payload : List Byte) :
    (d.dataReceive net hd ce udpLen payload).Canon := by
  have hcount : (d.modNet net (netCnt 13 1)).Canon := h.of_mem (Dev.modNet_mem ..)
  unfold Dev.dataReceive
  refine ite (hcount.of_mem (Dev.rxd_mem ..)) ?_
  split
  · exact h.of_mem (Dev.ackReceive_mem ..)
  · exact h.of_mem (Dev.nakReceive_mem ..)
  · exact h.of_mem (Dev.creditReceive_mem ..)
  · exact hcount
  · dsimp only
    revert hcount
    generalize d.modNet net (netCnt 13 1) = e
    intro hcount
    split
    · exact hcount.of_mem (Dev.rxd_mem ..)
    · next p _ =>
      refine ite (hcount.of_mem (Dev.rxd_mem ..)) (ite hcount ?_)
      have hopen : (e.openRecovery p hd).Canon := hcount.of_mem (Dev.openRecovery_mem ..)
      split
      · exact hopen.of_mem (Dev.unknownChan_mem ..)
      split
      · exact hopen
      split
      · exact hopen.of_mem (Dev.authFail_mem ..)
      · exact ite (hopen.of_mem (Dev.modNet_mem ..)) (ite (hopen.of_mem (Dev.sendNak_mem ..)) (hopen.sequence ..))

/-- What a sample of each unit leaves in the module and in the events. -/
theorem thermalUnit (u : SenseUnit) (c y : StageCnt) : (match u with
    | .dieFrame _ => d
    | .super x => (d.modSup (x % 4) (fun s => { s with stage := y.stage })).stageEvents 0x0E02 c.stage y.stage [x % 4 * 256 + y.stage]
    | .deep => (d.modBrd (fun b => { b with deepStage := y.stage })).stageEvents 0x0E03 c.stage y.stage []
    | .input => d.stageEvents 0x0E07 (min 1 c.stage) (min 1 y.stage) []
    | .inlet =>
      let d := d.modBrd (fun b => { b with inhot := y.stage != 0 && !y.badSensor })
      if c.stage = 0 && y.stage = 1 then d.event 0x0E08 0 0 0x1FF [] else d : Dev).Canon := by
  cases u with
  | dieFrame f => exact h
  | super x => exact h.of_mem ((Dev.stageEvents_mem ..).trans (Dev.modSup_mem ..))
  | deep => exact h.of_mem ((Dev.stageEvents_mem ..).trans (Dev.modBrd_mem ..))
  | input => exact h.of_mem (Dev.stageEvents_mem ..)
  | inlet =>
    have hin := h.of_mem (Dev.modBrd_mem d (fun b => { b with inhot := y.stage != 0 && !y.badSensor }))
    exact ite (hin.of_mem (Dev.event_mem ..)) hin

theorem thermal (u : SenseUnit) (r : Option Int) : (d.thermal u r).Canon := by
  unfold Dev.thermal
  dsimp only
  have hkeep : ((d.keepReading u r).modBrd (fun b => { b with stages := Store.set {} b.stages (senseIx u) (stageStep u (d.stageCnt (senseIx u)) r).1 })).Canon :=
    h.of_mem ((Dev.modBrd_mem ..).trans (Dev.keepReading_mem ..))
  revert hkeep
  generalize (d.keepReading u r).modBrd _ = e
  intro hkeep
  have hbad : ∀ b : Bool, (if b then e.event 0x0E0B 0 0 0x1FF [] else e).Canon := fun b => ite (hkeep.of_mem (Dev.event_mem ..)) hkeep
  generalize ((stageStep u (d.stageCnt (senseIx u)) r).1.badSensor && !(d.stageCnt (senseIx u)).badSensor) = b
  specialize hbad b
  revert hbad
  generalize (if b then e.event 0x0E0B 0 0 0x1FF [] else e : Dev) = f
  intro hbad
  have hmid : (f.modBrd (fun b => { b with dieStage := f.dieStageOf, plim := decide (((List.range 64).map (fun i => (f.stageCnt i).stage)).foldl max 0 = 0 && f.dieStageOf = 1) })).Canon := hbad.of_mem (Dev.modBrd_mem ..)
  revert hmid
  generalize f.modBrd _ = m
  intro hmid
  have hlast : ∀ g : Dev, g.Canon → (Dev.stageEvents (if f.dieStageOf = 2 then (List.range nParts).foldl
      (fun d p => d.modPart p (fun x => { x with dieHeld := true })) g else g) 0x0E01 d.brd.dieStage f.dieStageOf [f.dieStageOf]).Canon :=
    fun g hg => (ite (foldl (fun e p he => he.of_mem (Dev.modPart_mem ..)) _ hg) hg).of_mem (Dev.stageEvents_mem ..)
  have hunit := hlast _ (thermalUnit hmid u (d.stageCnt (senseIx u)) (stageStep u (d.stageCnt (senseIx u)) r).1)
  exact ite (trip hunit _) hunit

/-! ## Jobs and images (chapters 12 and 13) -/

omit h in
theorem install (j : LoadJob) (hj : j.d.Canon) : j.install.Canon := by
  have hreserve : ((List.range 4).foldl (fun d x => Dev.reservePages j.p x (j.saveNeed x) d) (j.d.setWays j.p (hdCways j.h))).Canon :=
    foldl (fun e x he => he.of_mem (Dev.reservePages_mem ..)) _ (hj.of_mem (Dev.setWays_mem ..))
  unfold LoadJob.install
  dsimp only
  revert hreserve
  generalize (List.range 4).foldl (fun d x => Dev.reservePages j.p x (j.saveNeed x) d) (j.d.setWays j.p (hdCways j.h)) = e
  intro hreserve
  refine of_mem ?_ (Dev.endSession_mem ..)
  refine of_mem ?_ (Dev.modSec_mem ..)
  refine of_mem ?_ (Dev.contextsInPlace_mem ..)
  refine of_mem ?_ (Dev.modPart_mem ..)
  have hplace : (j.place e).Canon := hreserve.of_mem (LoadJob.place_mem ..)
  have hctx : ∀ (e : Dev) (c : Nat), e.Canon → (e.setCtx c { inMap := true, run := true, saveb := j.saveb c }).Canon := fun e c he => by
    exact he.of_mem (by rfl)
  have hclear := hplace.clearPages (fun page => j.segs.any (fun g => g.has page))
  revert hclear
  generalize (j.place e).clearPages _ = g
  exact foldl hctx _

theorem commit (p : Nat) (l : LoadSession) : (d.commit p l).2.2.Canon := by
  unfold Dev.commit
  dsimp only
  split
  · exact h.of_mem (Dev.endSession_mem ..)
  · dsimp only
    exact install ⟨d, p, l.header, _⟩ h

theorem jobEnd (j : Job) : (d.jobEnd j).2.2.Canon := by
  unfold Dev.jobEnd
  split
  · exact h.of_mem (Dev.unpin_mem ..)
  · split
    · exact h.commit ..
    · exact h

theorem complete (q cseq : Nat) : (d.complete q cseq).Canon := by
  unfold Dev.complete
  split
  · exact h
  · dsimp only
    refine of_mem ?_ (Dev.raise_mem ..)
    exact jobEnd (by exact h) _

/-! ## Resets and recovery (chapters 14 and 15) -/

theorem drainPart (p : Nat) : (d.drainPart p).Canon := by
  unfold Dev.drainPart
  dsimp only
  refine of_mem ?_ (Dev.modTiers_mem ..)
  refine foldl (fun e n he => ?_) _ (foldl (fun e x he => foldl (fun e a he => ?_) _ he) _
    (foldl (fun e n he => foldl (fun e q he => foldl (fun e r he => ?_) _ he) _ he) _ h))
  · split
    · exact he
    · exact ite he (he.memPut ..)
  · refine ite he ?_
    exact (he.addElts ..).of_mem (Dev.combDrop_mem ..)
  · split
    · refine of_mem ?_ (Dev.countMem_mem ..)
      exact (he.memPut ..).of_mem (Dev.combDrop_mem ..)
    · exact he

theorem startJobAt (nv : NonVol) (p seed s0 epoch : Nat) : (d.startJobAt nv p seed s0 epoch).Canon := by
  unfold Dev.startJobAt
  dsimp only
  refine of_mem ?_ (Dev.beginStep_mem ..)
  have hready : ∀ e : Dev, e.Canon → (if e.nctx p ≤ 1 then e.firstTasks p else e.contextsToStart p).Canon := fun e he =>
    ite (he.of_mem (Dev.firstTasks_mem ..)) (he.of_mem (Dev.contextsToStart_mem ..))
  refine hready _ (of_mem ?_ (Dev.applyRuns_mem ..))
  refine encodeVersion (of_mem ?_ (Dev.stampsAt_mem ..)) ..
  refine replicasBefore (of_mem ?_ (Dev.logAppend_mem ..)) ..
  refine openChannels (of_mem ?_ (Dev.fillBuckets_mem ..)) ..
  refine foldl (fun e c he => he.of_mem (Dev.modCtx_mem ..)) _ ?_
  refine of_mem ?_ (Dev.modPart_mem ..)
  exact h.of_mem (Dev.reservePages_mem ..)

theorem restoreBase (p : Nat) (b : BaseSlot) : (d.restoreBase p b).Canon := by
  unfold Dev.restoreBase
  dsimp only
  refine foldl (fun e c he => he.of_mem (Dev.modCtx_mem ..)) _ ?_
  refine of_mem ?_ (Dev.modPart_mem ..)
  refine of_mem ?_ (Dev.setCursors_mem ..)
  refine replicasBefore (foldl (fun e y he => ?_) _ h) p b.step
  exact (he.unitWrite ..).setStatus ..

theorem rebuilt (p : Nat) (log : List LogRecord) (slot : BaseSlot) (par : Store Byte) : (d.rebuilt p log slot par).Canon := by
  unfold Dev.rebuilt
  dsimp only
  refine openChannels (restoreBase (of_mem ?_ (Dev.applyRuns_mem ..)) ..) ..
  refine of_mem ?_ (Dev.modPart_mem ..)
  exact h.of_mem (Dev.contextsToStart_mem ..)

end Dev.Canon
end Sys2Proof.Machine
end

section
/-! SUPPORT. The unified range stays canonical: resets and boots. -/

namespace Sys2Proof.Machine
open Sys2Proof

/-! ## Sparing (R376, R377) -/

theorem substitute_mem (x : Mod) (n : Nat) : (substitute x n).2.2.mem = x.2.mem := rfl
theorem failPosition_mem (x : Mod) (k : Nat) : (failPosition x k).2.mem = x.2.mem := rfl

theorem spareCore_mem (p : Nat) (x : Mod) (y : Nat × Nat) : (spareCore p x y).2.mem = x.2.mem := by
  unfold spareCore
  dsimp only
  split
  · exact (Dev.degrade_mem ..).trans (substitute_mem x y.1)
  · exact (Dev.event_mem ..).trans (substitute_mem x y.1)

/-- A fold over a module, each of whose steps keeps the unified range. -/
theorem modFold_mem {α : Type} {f : Mod → α → Mod} (h : ∀ x a, (f x a).2.mem = x.2.mem) (l : List α) (x : Mod) :
    (l.foldl f x).2.mem = x.2.mem := by
  induction l generalizing x with
  | nil => rfl
  | cons a l ih => exact (ih _).trans (h x a)

theorem sparing_mem (x : Mod) (p : Nat) (bist : List Nat) : (sparing x p bist).2.mem = x.2.mem := by
  unfold sparing
  dsimp only
  refine (modFold_mem (spareCore_mem p) _ _).trans ((modFold_mem failPosition_mem _ _).trans ?_)
  exact foldl_mem _ _ fun _ _ => Dev.raise_mem ..

/-! ## The boot (R370 to R379) -/

theorem phase3_mem (x : Mod) (env : BringUpEnv) : (phase3 x env).2.mem = x.2.mem := by
  unfold phase3
  dsimp only
  refine foldl_mem _ _ fun d f => ?_
  split
  · exact (Dev.cause_mem ..).trans (Dev.numberFrame_mem ..)
  · exact Dev.numberFrame_mem ..

theorem superRow_mem (x : Mod) (r : Nat × Nat) : (superRow x r).2.mem = x.2.mem := by
  unfold superRow
  dsimp only
  split
  · exact (Dev.recordOnly_mem ..).trans (Dev.bist_mem ..)
  · exact (Dev.recordOnly_mem ..).trans ((Dev.freshChoice_mem ..).trans (Dev.bist_mem ..))

theorem deepRetire_mem (n : Nat) (x : Mod) : (deepRetire n x).2.mem = x.2.mem := by
  induction n generalizing x with
  | zero => rfl
  | succ n ih => exact (ih _).trans ((Dev.recordOnly_mem ..).trans (Dev.freshChoice_mem ..))

theorem phase4_mem (x : Mod) (env : BringUpEnv) : (phase4 x env).2.mem = x.2.mem := by
  unfold phase4
  dsimp only
  refine (Dev.modBrd_mem ..).trans ((Dev.modTiers_mem ..).trans ((deepRetire_mem ..).trans ?_))
  refine (foldl_mem _ _ fun _ _ => Dev.bist_mem ..).trans ?_
  refine (foldl_mem _ _ fun _ _ => (Dev.cause_mem ..).trans (Dev.bist_mem ..)).trans ?_
  refine (modFold_mem superRow_mem _ _).trans ?_
  exact foldl_mem _ _ fun _ _ => (Dev.cause_mem ..).trans (Dev.bist_mem ..)

theorem waggleFailed_mem (x : Mod) (phys : Nat) : (waggleFailed x phys).2.mem = x.2.mem := by
  unfold waggleFailed
  dsimp only
  split
  · exact (failPosition_mem ..).trans (Dev.raise_mem ..)
  · split
    · exact (Dev.cause_mem ..).trans ((substitute_mem ..).trans ((failPosition_mem ..).trans (Dev.raise_mem ..)))
    · exact (substitute_mem ..).trans ((failPosition_mem ..).trans (Dev.raise_mem ..))

theorem phase5_mem (x : Mod) (env : BringUpEnv) (slot : Nat) : (phase5 x env slot).2.mem = x.2.mem :=
  (modFold_mem waggleFailed_mem _ _ : _)

theorem bootEnd_mem (x : Mod) (env : BringUpEnv) (slot : Nat) : (bootEnd x env slot).2.mem = x.2.mem := by
  unfold bootEnd
  dsimp only
  split
  · simp
  · split <;> simp

theorem bootStart_mem (x : Mod) (fromP0 : Bool) : (bootStart x fromP0).2.mem = [] := by
  unfold bootStart
  dsimp only
  split
  · exact Dev.recordOnly_mem ..
  · rfl

/-- A boot starts from an empty unified range, and none of its phases writes it. -/
theorem boot_mem (x : Mod) (fromP0 quick : Bool) (env : BringUpEnv) : (boot x fromP0 quick env).2.mem = [] := by
  have hstart := bootStart_mem x fromP0
  have hslot (b : Bool) (slot : Nat) : (((if b then (bootStart x fromP0).2 else (bootStart x fromP0).2.recordOnly 0x0C06 0 [3]).bootKeys
      (bootStart x fromP0).1 slot).phase2 env).mem = [] := by
    refine (Dev.phase2_mem ..).trans ((Dev.bootKeys_mem ..).trans ?_)
    split
    · exact hstart
    · exact (Dev.recordOnly_mem ..).trans hstart
  have hphase4 (nv : NonVol) (d : Dev) (hd : d.mem = []) : (phase4 (phase3 (nv, d) env) env).2.mem = [] :=
    (phase4_mem ..).trans ((phase3_mem ..).trans hd)
  unfold boot
  dsimp only
  split
  · exact (Dev.minimal_mem ..).trans hstart
  split
  · exact (Dev.minimal_mem ..).trans hstart
  split
  · exact (Dev.minimal_mem ..).trans (hslot ..)
  split
  · exact (Dev.minimal_mem ..).trans (hphase4 _ _ (hslot ..))
  · exact (bootEnd_mem ..).trans ((Dev.phase6_mem ..).trans ((phase5_mem ..).trans (hphase4 _ _ (hslot ..))))

theorem boot_canon (x : Mod) (fromP0 quick : Bool) (env : BringUpEnv) : (boot x fromP0 quick env).2.Canon := by
  unfold Dev.Canon
  rw [boot_mem]
  rfl

/-! ## Partition resets (R384, R386) -/

theorem partitionReset_canon {x : Mod} (h : x.2.Canon) (p : Nat) (bist : List Nat) : (partitionReset x p bist).2.Canon := by
  have hdrain : (((x.2.drainPart p).endSession p false).cutReplay p).Canon :=
    (h.drainPart p).of_mem ((Dev.cutReplay_mem ..).trans (Dev.endSession_mem ..))
  unfold partitionReset
  dsimp only
  revert hdrain
  generalize ((x.2.drainPart p).endSession p false).cutReplay p = d
  intro hdrain
  have hdrop : (((if (x.2.part p).started then d.openChannels p (((d.part p).capped + 1) % 2 ^ 32) else d).abandonBase p).dropMoves p).Canon :=
    Dev.Canon.of_mem (.ite (hdrain.openChannels ..) hdrain) ((Dev.dropMoves_mem ..).trans (Dev.abandonBase_mem ..))
  revert hdrop
  generalize Dev.dropMoves _ p = e
  intro hdrop
  have hstash : (if (x.2.part p).started then (e.resetSlices p).clearStash p else e).Canon := .ite ((hdrop.resetSlices p).clearStash p) hdrop
  revert hstash
  generalize (if (x.2.part p).started then (e.resetSlices p).clearStash p else e) = f
  intro hstash
  have hspare : (sparing (x.1, f.wakeFrames p) p bist).2.Canon := hstash.of_mem ((sparing_mem ..).trans (Dev.wakeFrames_mem ..))
  revert hspare
  generalize sparing (x.1, f.wakeFrames p) p bist = y
  exact fun hspare => hspare.of_mem (by simp)

theorem faultReset_canon {x : Mod} (h : x.2.Canon) (p : Nat) (bist : List Nat) : (faultReset x p bist).2.Canon := by
  have hreset := partitionReset_canon h p bist
  unfold faultReset
  dsimp only
  split
  · exact hreset.of_mem (by simp)
  · exact hreset

theorem resetPart_canon {s : State} (h : s.dev.Canon) (p : Nat) (bist : List Nat) : (resetPart p bist s).2.dev.Canon := by
  unfold resetPart
  split
  · exact h
  · have hreset := partitionReset_canon (x := (s.nv, s.dev)) h p bist
    revert hreset
    generalize partitionReset (s.nv, s.dev) p bist = y
    exact id

theorem resetCores_canon {s : State} (h : s.dev.Canon) (cores : List Nat) (p : Nat) (frame : Bool) (bist : List Nat) :
    (resetCores cores p frame bist s).2.dev.Canon := by
  unfold resetCores
  dsimp only
  split
  · split
    · exact h
    · have hreset (nv : NonVol) := partitionReset_canon (x := (nv, s.dev)) h p bist
      generalize (if frame then { s.nv with rstf := s.nv.rstf + 1 } else { s.nv with rstc := s.nv.rstc + 1 } : NonVol) = nv
      specialize hreset nv
      revert hreset
      generalize partitionReset (nv, s.dev) p bist = y
      exact id
  · refine Dev.Canon.foldl (fun e n he => he.of_mem (Dev.resetCore_mem ..)) cores ?_
    split
    · exact h.of_mem (Dev.wakeFrame_mem ..)
    · exact h

theorem discardStart_canon {x : Mod} (h : x.2.Canon) (p epoch revert : Nat) (bist : List Nat) :
    (discardStart x p epoch revert bist).2.Canon := by
  unfold discardStart
  dsimp only
  have hreset : (if (x.2.part p).stopped && !(x.2.part p).ran then x else partitionReset x p bist).2.Canon := by
    split
    · exact h
    · exact partitionReset_canon h p bist
  refine Dev.Canon.of_mem ?_ ((Dev.abandonBase_mem ..).trans (Dev.cutLog_mem ..))
  exact (hreset.of_mem (Dev.modPart_mem ..)).openChannels ..

theorem discardStep_canon {x : Mod} (h : x.2.Canon) (p epoch : Nat) (bist : List Nat) : (discardStep x p epoch bist).2.2.Canon := by
  have hcursors := fun f g => (discardStart_canon h p epoch 0xFFFFFFFF bist).of_mem (Dev.setCursors_mem _ p f g)
  unfold discardStep
  dsimp only
  split
  · exact hcursors ..
  · exact (hcursors ..).of_mem ((Dev.beginStep_mem ..).trans (Dev.modPart_mem ..))

end Sys2Proof.Machine
end

section
/-! SUPPORT. The unified range stays canonical: what a command leaves, by the way it acts on the module. -/

namespace Sys2Proof.Machine
open Sys2Proof

theorem Dev.finish_mem (d0 d : Dev) (q : Nat) (c : Cmd) (a : Ans) : (Dev.finish d0 d q c a).mem = d.mem :=
  (Dev.takeHeld_mem ..).trans (Dev.replied_mem ..)

/-- Whatever next state an outcome has, its unified range is canonical. -/
structure CanonNext (o : Out) : Prop where
  canon : ∀ t, o = .next t → t.dev.Canon

namespace CanonNext
variable {s : State}

theorem next {t : State} (h : t.dev.Canon) : CanonNext (.next t) := by
  refine ⟨?_⟩
  rintro u ⟨⟩
  exact h

theorem fault {f : Fault} : CanonNext (.fault f) := ⟨fun _ h => nomatch h⟩

theorem onDev {f : Dev → Dev} (h : (f s.dev).Canon) : CanonNext (s.onDev f) := .next h

theorem onUnit {b : Bool} {f : Dev → Dev} (h : (f s.dev).Canon) : CanonNext (s.onUnit b f) := by
  unfold State.onUnit
  split
  · exact .onDev h
  · exact .fault

theorem onEngine (h : s.dev.Canon) {n : Nat} {f : Dev → Dev} (hf : (f s.dev).mem = s.dev.mem) : CanonNext (s.onEngine n f) :=
  .onUnit (.ite h (h.of_mem hf))

theorem ctlExec (h : s.dev.Canon) (w : Who) (u : Uncapped) {f : Dev → Nat → Nat → TaskRun → Dev}
    (hf : ∀ e n ix t, e.Canon → (f e n ix t).Canon) : CanonNext (ctlExec s w u f) :=
  .onUnit (h.ctl w u f hf)

theorem onQueue {q : Nat} {r : Out} (h : CanonNext r) : CanonNext (onQueue s q r) := by
  unfold Machine.onQueue
  split
  · exact h
  · exact .fault

/-- The protocol's frame around a command: the replies and the held commands leave the unified range alone. -/
theorem runOp (h : s.dev.Canon) (q op : Nat) (mine : Cmd → Bool) {f : Cmd → State → Option Ans × State}
    (hf : ∀ (c : Cmd) (u : State), u.dev.Canon → (f c u).2.dev.Canon) : CanonNext (runOp s q op mine f) := by
  refine .onQueue ?_
  split
  · exact .next h
  · next c _ =>
    split
    · exact .next h
    · dsimp only
      split
      · exact .next h
      · split
        · exact .next (h.of_mem (Dev.finish_mem ..))
        · have hu := hf c { s with dev := { s.dev with qserved := q } } h
          split
          · next hans =>
            rw [hans] at hu
            exact .next hu
          · next hans =>
            rw [hans] at hu
            exact .next (hu.of_mem (Dev.finish_mem ..))

theorem devOp (h : s.dev.Canon) (q op : Nat) {f : Cmd → Dev → Ans × Dev} (hf : ∀ c d, d.Canon → (f c d).2.Canon) :
    CanonNext (devOp s q op f) :=
  .runOp h q op _ fun c u hu => hf c u.dev hu

end CanonNext

end Sys2Proof.Machine
end

section
/-! SUPPORT. The unified range stays canonical: the instructions of the control engine, and the commands that write no byte of it. -/

namespace Sys2Proof.Machine
open Sys2Proof

section
variable {s : State} (h : s.dev.Canon)
include h

/-! ## The control engine (chapter 5) -/

theorem aluOp_canon (w : Who) (xd xa xb : XReg) (f : Word64 → Word64 → Word64) : CanonNext (aluOp s w xd xa xb f) :=
  .ctlExec h w _ fun _ _ _ _ he => he.of_mem (Dev.result_mem ..)

theorem aluImm_canon (w : Who) (xd xa : XReg) (imm : BitVec 14) (f : Word64 → Word64 → Word64) : CanonNext (aluImm s w xd xa imm f) :=
  .ctlExec h w _ fun _ _ _ _ he => he.of_mem (Dev.result_mem ..)

theorem shiftImm_canon (w : Who) (xd xa : XReg) (imm : BitVec 14) (f : Word64 → Nat → Word64) : CanonNext (shiftImm s w xd xa imm f) :=
  .ctlExec h w _ fun _ _ _ _ he => .ite (he.of_mem (Dev.result_mem ..)) (he.of_mem (Dev.ctlFault_mem ..))

theorem branch_canon (w : Who) (xb xa : XReg) (imm : BitVec 14) (c : Word64 → Word64 → Bool) : CanonNext (branch s w xb xa imm c) :=
  .ctlExec h w _ fun _ _ _ _ he => he.of_mem (Dev.modTask_mem ..)

omit h in
theorem Dev.Canon.orFault {d k : Dev} (hd : d.Canon) (hk : k.Canon) (n ix : Nat) (t : TaskRun) (l : List (Bool × Nat)) (a : Nat)
    (uni : Bool) : (d.orFault n ix t l a uni k).Canon := by
  unfold Dev.orFault
  split
  · exact hd.of_mem (Dev.ctlFault_mem ..)
  · exact hk

theorem padLoad_canon (w : Who) (xd xa : XReg) (imm : BitVec 14) (m : Nat) : CanonNext (padLoad s w xd xa imm m) := by
  refine .ctlExec h w _ fun e n ix t he => .ite (he.of_mem (Dev.ctlFault_mem ..)) (.ite (he.of_mem (Dev.ctlFault_mem ..))
    (.ite (he.of_mem (Dev.twsw_mem ..)) ?_))
  dsimp only
  split
  · exact he
  · exact he.of_mem (Dev.ctlFault_mem ..)
  · exact he.of_mem (Dev.result_mem ..)

theorem uniLoad_canon (w : Who) (xd xa : XReg) (imm : BitVec 14) (m : Nat) : CanonNext (uniLoad s w xd xa imm m) := by
  refine .ctlExec h w _ fun e n ix t he => he.orFault (.ite (he.of_mem (Dev.twsw_mem ..)) ?_) ..
  dsimp only
  split
  · exact he.of_mem (Dev.result_mem ..)
  · have hfetch : (e.combFetch (e.ctxOf n) (t.ea xa imm)).2.Canon := he.of_mem (Dev.combFetch_mem ..)
    refine .ite hfetch (.ite (he.of_mem (Dev.ctlFault_mem ..)) ?_)
    exact hfetch.of_mem ((Dev.result_mem ..).trans ((Dev.cacheLine_mem ..).trans (Dev.modCore_mem ..)))

theorem padStoreExec_canon (w : Who) (xb xa : XReg) (imm : BitVec 14) (m : Nat) : CanonNext (padStoreExec s w xb xa imm m) :=
  .ctlExec h w _ fun _ _ _ _ he => he.orFault (he.effect ..) ..

theorem uniStoreExec_canon (w : Who) (xb xa : XReg) (imm : BitVec 14) (m : Nat) : CanonNext (uniStoreExec s w xb xa imm m) :=
  .ctlExec h w _ fun _ _ _ _ he => he.orFault (he.effect ..) ..

theorem imageOp_canon (w : Who) (xa : XReg) (imm : BitVec 14) (op : Nat → BufOp) : CanonNext (imageOp s w xa imm op) :=
  .ctlExec h w _ fun _ _ _ _ he => he.orFault (he.effect ..) ..

theorem execGatom_canon (w : Who) (xd xa xb : XReg) (fn : BitVec 3) : CanonNext (execGatom w xd xa xb fn s) :=
  .ctlExec h w _ fun _ _ _ _ he => .ite he (he.orFault (by exact he) ..)

theorem execTend_canon (w : Who) (imm : BitVec 14) : CanonNext (execTend w imm s) := by
  refine .ctlExec h w _ fun e n ix t he => .ite (he.of_mem (Dev.ctlFault_mem ..)) ?_
  dsimp only
  split
  · refine .ite ?_ (he.of_mem (Dev.setCore_mem ..))
    exact (Dev.Canon.capReady (he.of_mem (Dev.setCore_mem ..)) n).of_mem (Dev.modCore_mem ..)
  · exact he.of_mem (Dev.setCore_mem ..)

theorem execTaskStart_canon (core : Nat) : CanonNext (execTaskStart core s) := by
  refine .onUnit (h.of_mem ?_)
  dsimp only
  split
  · rfl
  · exact Dev.fetchTask_mem ..

theorem execSpr_canon (w : Who) (xd : XReg) (imm : BitVec 14) : CanonNext (execSpr w xd imm s) := by
  refine .ctlExec h w _ fun e n ix t he => ?_
  split
  · exact he.of_mem (Dev.result_mem ..)
  · exact he.of_mem (Dev.ctlFault_mem ..)

theorem execPushm_canon (w : Who) (w0 w1 w2 w3 : Word32) : CanonNext (execPushm w w0 w1 w2 w3 s) :=
  .ctlExec h w _ fun _ _ _ _ he =>
    .ite (he.of_mem (Dev.fetch_mem ..)) (he.of_mem ((Dev.modCore_mem ..).trans ((Dev.modTask_mem ..).trans (Dev.fetch_mem ..))))

theorem execPushv_canon (w : Who) (xs : XReg) (w0 w1 : Word32) : CanonNext (execPushv w xs w0 w1 s) := by
  refine .ctlExec h w _ fun e n ix t he => ?_
  have hfetch : (e.fetch n (t.pc + 8)).Canon := he.of_mem (Dev.fetch_mem ..)
  dsimp only
  generalize e.fetch n (t.pc + 8) = d at hfetch
  split
  · exact hfetch.of_mem (Dev.ctlFault_mem ..)
  · exact .ite hfetch (hfetch.of_mem ((Dev.modCore_mem ..).trans (Dev.modTask_mem ..)))

theorem execMvr_canon (w : Who) (xd : XReg) : CanonNext (execMvr w xd s) := by
  refine .ctlExec h w _ fun e n ix t he => ?_
  dsimp only
  split
  · exact he
  · exact he.of_mem ((Dev.result_mem ..).trans (Dev.modCore_mem ..))

theorem execEstat_canon (w : Who) (xd xa : XReg) (imm : BitVec 14) : CanonNext (execEstat w xd xa imm s) := by
  refine .ctlExec h w _ fun e n ix t he => ?_
  dsimp only
  split
  · exact he.of_mem ((Dev.result_mem ..).trans (Dev.modCore_mem ..))
  · exact he.of_mem ((Dev.result_mem ..).trans (Dev.modCore_mem ..))
  · exact he.of_mem (Dev.ctlFault_mem ..)

theorem execSwait_canon (w : Who) (imm : BitVec 14) : CanonNext (execSwait w imm s) :=
  .ctlExec h w _ fun _ _ _ _ he => .ite (he.of_mem (Dev.ctlFault_mem ..)) (.ite he (he.of_mem (Dev.advance_mem ..)))

theorem execSemw_canon (w : Who) (xa : XReg) (imm : BitVec 14) : CanonNext (execSemw w xa imm s) :=
  .ctlExec h w _ fun _ _ _ _ he => .ite (he.of_mem (Dev.ctlFault_mem ..)) (.ite (he.of_mem (Dev.suWaits_mem ..))
    (he.of_mem ((Dev.advance_mem ..).trans (Dev.modCore_mem ..))))

/-! ## Layers, moves and errors (chapters 6 to 8) -/

omit h in
theorem Dev.runPages_mem {f : Dev → Nat → Dev} (hf : ∀ d page, (f d page).mem = d.mem) (d : Dev) (c act : Nat) :
    (d.runPages c act f).mem = d.mem := by
  unfold Dev.runPages
  split
  · rfl
  · exact (Dev.dueStep_mem ..).trans (pagesWhile_mem hf ..)

theorem execDemote_canon (ctx : Nat) : CanonNext (execDemote ctx s) :=
  .onUnit (h.of_mem (Dev.runPages_mem (fun _ _ => Dev.demotePage_mem ..) ..))

theorem execPromote_canon (ctx : Nat) : CanonNext (execPromote ctx s) := by
  refine .onUnit (h.of_mem ?_)
  split
  · rfl
  · exact Dev.runPages_mem (fun _ _ => Dev.promotePage_mem ..) ..

theorem execBucketRefill_canon : CanonNext (execBucketRefill s) :=
  .onDev (h.of_mem ((Dev.meterRuns_mem _).trans ((Dev.modBrd_mem ..).trans
    ((foldl_mem _ _ fun _ _ => Dev.modSup_mem ..).trans (foldl_mem _ _ fun _ _ => Dev.modCore_mem ..)))))

theorem execHoldClockGate_canon (part : Nat) : CanonNext (execHoldClockGate part s) := by
  refine .onUnit (.ite (.foldl (fun e f he => ?_) _ h) h)
  exact .ite (he.of_mem (Dev.modFrame_mem ..)) he

theorem execTmloRead_canon : CanonNext (execTmloRead s) := .onDev (h.of_mem (Dev.modTiers_mem ..))

theorem execMigrationCopied_canon (ch : Nat) : CanonNext (execMigrationCopied ch s) := by
  refine .onUnit (h.of_mem ?_)
  dsimp only
  split
  · rfl
  · refine ite_mem rfl ((Dev.modTiers_mem ..).trans ((Dev.combDrop_mem ..).trans ((Dev.setTm_mem ..).trans ?_)))
    split
    · exact (Dev.countDev_mem ..).trans (Dev.countDev_mem ..)
    · rfl

theorem execPatrolScrub_canon (site : EccSite) (granule : Nat) (corrected uncorrectable : Bool) :
    CanonNext (execPatrolScrub site granule corrected uncorrectable s) := by
  refine .onUnit (h.of_mem ?_)
  repeat' split
  all_goals simp

theorem execMigrationStart_canon : CanonNext (execMigrationStart s) := by
  refine .onDev (h.of_mem ?_)
  split
  · exact Dev.tryMove_mem ..
  · rfl

theorem execCombFill_canon (slice line : Nat) : CanonNext (execCombFill slice line s) :=
  .onUnit (.ite (h.of_mem ((Dev.settleLeaving_mem ..).trans (Dev.combAlloc_mem ..))) h)

theorem execRowRepair_canon (super bank row : Nat) : CanonNext (execRowRepair super bank row s) := by
  unfold execRowRepair
  split
  · exact .fault
  dsimp only
  split
  · exact .next h
  split
  · exact .next h
  · exact .next (h.of_mem ((Dev.event_mem ..).trans (Dev.modTiers_mem ..)))

theorem execPageRetirement_canon (super ppn : Nat) : CanonNext (execPageRetirement super ppn s) := by
  unfold execPageRetirement
  split
  · exact .fault
  split
  · exact .next h
  dsimp only
  split
  · split
    · exact .next (h.of_mem (Dev.modTiers_mem ..))
    split
    · exact .next (h.of_mem (Dev.capacityLoss_mem ..))
    · exact .next (h.of_mem ((Dev.queueMove_mem ..).trans (Dev.modTiers_mem ..)))
  · split
    · exact .next (h.of_mem (Dev.modTiers_mem ..))
    · exact .next (h.of_mem ((Dev.freePhys_mem ..).trans (Dev.modTiers_mem ..)))

end

end Sys2Proof.Machine
end

section
/-! SUPPORT. The unified range stays canonical: commands of a queue, resets, and every command. -/

namespace Sys2Proof.Machine
open Sys2Proof

section
variable {s : State} (h : s.dev.Canon)
include h

/-! ## Slices (chapter 10) -/

theorem execContributionArrival_canon (super : Nat) : CanonNext (execContributionArrival super s) := by
  have hy := h.contribArrival super
  refine .onUnit ?_
  dsimp only
  split
  · exact hy
  split
  · exact hy
  · exact Dev.Canon.deliverAll (hy.of_mem (Dev.delivered_mem ..)) ..

/-! ## Commands of a queue (chapter 12) -/

omit h in
theorem Dev.Canon.snd_ite {α : Type} {c : Prop} [Decidable c] {a b : α × Dev} (ha : a.2.Canon) (hb : b.2.Canon) :
    (if c then a else b).2.Canon := by
  split
  · exact ha
  · exact hb

theorem execQbind_canon (q : Nat) : CanonNext (execQbind q s) := by
  refine .devOp h q 0x20 fun c d hd => hd.of_mem ?_
  dsimp only
  repeat' split
  all_goals simp

theorem execMemwrite_canon (q : Nat) : CanonNext (execMemwrite q s) :=
  .devOp h q 0x31 fun _ _ hd => .snd_ite hd (.snd_ite hd (.snd_ite hd (hd.uniWriteThrough ..)))

theorem execPlace_canon (q : Nat) : CanonNext (execPlace q s) := by
  refine .runOp h q 0x32 _ fun c u hu => ?_
  dsimp only
  split
  · exact hu
  split
  · exact hu.of_mem (Dev.placeSome_mem ..)
  · exact hu.of_mem ((Dev.modQueue_mem ..).trans (Dev.placeSome_mem ..))

theorem execStart_canon (q : Nat) : CanonNext (execStart q s) :=
  .devOp h q 0x50 fun _ _ hd => .snd_ite hd (.snd_ite hd (.snd_ite hd (.snd_ite hd (.snd_ite hd
    ((hd.startJobAt s.nv ..).of_mem (Dev.startJob_mem ..))))))

theorem execDiscard_canon (q : Nat) (bist : List Nat) : CanonNext (execDiscard q bist s) := by
  refine .runOp h q 0x52 _ fun c u hu => ?_
  dsimp only
  split
  · exact hu
  split
  · exact hu
  split
  · exact hu
  split
  · exact (discardStep_canon (x := (u.nv, u.dev)) hu _ _ _).of_mem (Dev.startJob_mem ..)
  split
  · exact hu
  · exact ((discardStart_canon (x := (u.nv, u.dev)) hu ..).restoreBase ..).of_mem (Dev.startJob_mem ..)

theorem execRebuild_canon (q : Nat) (digests mirror : List (List Byte)) (chunks : List (Nat × Nat × List Byte)) (noBase : Bool) :
    CanonNext (execRebuild q digests mirror chunks noBase s) := by
  refine .devOp h q 0x62 fun c d hd => ?_
  refine .snd_ite hd (.snd_ite hd (.snd_ite hd (.snd_ite hd (.snd_ite ?_ ?_))))
  · exact hd.of_mem ((Dev.startJob_mem ..).trans (Dev.event_mem ..))
  · exact (Dev.Canon.rebuilt (hd.of_mem (Dev.reservePages_mem ..)) ..).of_mem (Dev.startJob_mem ..)

theorem execReplay_canon (q : Nat) : CanonNext (execReplay q s) := by
  refine .devOp h q 0x63 fun c d hd => ?_
  dsimp only
  split
  · exact hd
  split
  · exact hd
  split
  · exact hd
  split
  · exact hd
  split
  · exact hd
  split
  · exact hd
  · refine Dev.Canon.of_mem (Dev.Canon.encodeVersion (hd.of_mem ?_) ..) ((Dev.startJob_mem ..).trans (Dev.beginStep_mem ..))
    exact (Dev.stampsAt_mem ..).trans (Dev.modPart_mem ..)

/-! ## Resets and boots (chapter 15) -/

theorem execPartitionReset_canon (part : Nat) (bist : List Nat) : CanonNext (execPartitionReset part bist s) := by
  unfold execPartitionReset
  split
  · exact .fault
  split
  · exact .next (faultReset_canon (x := (s.nv, s.dev)) h part bist)
  dsimp only
  split
  · exact .next h
  · exact .runOp h _ 0x90 _ fun _ u hu => resetPart_canon hu part bist

theorem execModuleReset_canon (q : Nat) (env : BringUpEnv) : CanonNext (execModuleReset q env s) := by
  refine .onQueue ?_
  split
  · exact .next h
  split
  · exact .next h
  dsimp only
  split
  · exact .next h
  split
  · exact .next (h.of_mem (Dev.finish_mem ..))
  · exact .next (boot_canon ..)

omit h in
theorem startUp_canon {d : Dev} (hd : d.Canon) (env : BringUpEnv) : CanonNext (startUp s d env) := by
  unfold startUp
  split
  · exact .next (boot_canon ..)
  · exact .next hd

theorem execEnableAssert_canon (quick : Bool) (env : BringUpEnv) : CanonNext (execEnableAssert quick env s) := by
  unfold execEnableAssert
  split
  · exact .next h
  dsimp only
  split
  · exact .next (h.of_mem (Dev.modBrd_mem ..))
  split
  · exact .next (h.of_mem (Dev.modBrd_mem ..))
  · exact .next (boot_canon ..)

theorem execInputPowerReturn_canon (mv : Nat) (env : BringUpEnv) : CanonNext (execInputPowerReturn mv env s) := by
  unfold execInputPowerReturn
  split
  · exact .next h
  · exact startUp_canon (h.of_mem (Dev.modBrd_mem ..)) env

theorem execStandbyRailPresent_canon (env : BringUpEnv) : CanonNext (execStandbyRailPresent env s) :=
  have hrail := h.of_mem (Dev.modBrd_mem s.dev (fun b => { b with sb12 := true, internalRail := false, present := true }))
  startUp_canon (.ite (hrail.of_mem (Dev.modBrd_mem ..)) hrail) env

theorem execPowerLoss_canon : CanonNext (execPowerLoss s) :=
  have hlow := h.of_mem (Dev.freshChoice_mem s.dev 45000)
  .onDev (.ite (Dev.Canon.powerOff hlow 0x0E09) (hlow.of_mem (Dev.modBrd_mem ..)))

theorem execInputOvervoltage_canon : CanonNext (execInputOvervoltage s) := by
  have hhigh := h.of_mem (Dev.freshChoice_mem s.dev 6000)
  have hin (f : Board → Board) := hhigh.of_mem (Dev.modBrd_mem _ f)
  refine .onDev ?_
  dsimp only
  split
  · exact (hin _).of_mem (Dev.modBrd_mem ..)
  · refine Dev.Canon.of_mem ?_ (Dev.modBrd_mem ..)
    split
    · exact Dev.Canon.powerOff (hin _) 0x0E0F
    · exact hin _

theorem execEnableDeassert_canon : CanonNext (execEnableDeassert s) :=
  .onDev (.ite h (.ite (Dev.Canon.powerOff h 0x0E0A) (h.of_mem rfl)))

theorem execUpdateStaged_canon : CanonNext (execUpdateStaged s) := by
  unfold execUpdateStaged
  split
  · exact .next h
  dsimp only
  split
  · exact .next h
  split
  · exact .onDev (h.of_mem (by simp))
  · exact .next (h.of_mem (by simp))

theorem execCenWrite_canon (cage : Nat) (value : Word32) : CanonNext (execCenWrite cage value s) := by
  unfold execCenWrite
  split
  · exact .fault
  · exact .next (h.of_mem (paramWrite_mem ..))

end

end Sys2Proof.Machine
end

section
/-! SUPPORT. Every command keeps the unified range in its canonical form. -/

namespace Sys2Proof.Machine
open Sys2Proof

/-- Every command leaves a canonical unified range canonical. -/
theorem exec_canon {s : State} (h : s.dev.Canon) (c : Instr) : CanonNext (exec c s) := by
  cases c <;> simp only [exec]
  case mma | heldTileLoad | mdrain | malign | vld | vst | vldb | vstb | vout => exact .onEngine h (by simp)
  case fadd | fsub | fmul | fma | fnma | fmax | fmin | fabs | fneg | fcpys | fmov | fceq | fclt | fcle | fcun | iadd | isub | imul |
      vectorAnd | vectorOr | vectorXor | vectorShl | vectorShr | vectorSra | imax | imin | iceq | iclt | iota | fscl | rcp | rsqrt |
      sqrt | div | exp2 | log2 | exp | log | tanh | sigm | cvtb | cvtfl | cvtfh | rsum | rmax | rmin | mand | mor | mxor | mnot | vcfg =>
    exact .onEngine h (Dev.vxIssue_mem ..)
  -- the control engine
  case add | sub | mul | divu | remu | and | or | xor | shl | shr | sra | slt | sltu | min | max => exact aluOp_canon h ..
  case addi | andi | ori | xori | slti => exact aluImm_canon h ..
  case shli | shri | srai => exact shiftImm_canon h ..
  case luh | lui | rng => exact .ctlExec h _ _ fun _ _ _ _ he => he.of_mem (Dev.result_mem ..)
  case ld | lw => exact padLoad_canon h ..
  case gld | glw => exact uniLoad_canon h ..
  case st | sw => exact padStoreExec_canon h ..
  case gst | gsw => exact uniStoreExec_canon h ..
  case gatom => exact execGatom_canon h ..
  case beq | bne | blt | bge | bltu | bgeu => exact branch_canon h ..
  case jal | jr => exact .ctlExec h _ _ fun _ _ _ _ he => he.of_mem (Dev.modTask_mem ..)
  case tend => exact execTend_canon h ..
  case taskStart => exact execTaskStart_canon h ..
  case tabt => exact .ctlExec h _ _ fun _ _ _ _ he => he.of_mem (Dev.ctlFault_mem ..)
  case spr => exact execSpr_canon h ..
  case fence => exact .ctlExec h _ _ fun _ _ _ _ he => .ite (he.of_mem (Dev.advance_mem ..)) he
  case bwait => exact .ctlExec h _ _ fun _ _ _ _ he => he.of_mem (Dev.modCore_mem ..)
  case pushm => exact execPushm_canon h ..
  case pushv => exact execPushv_canon h ..
  case mvr => exact execMvr_canon h ..
  case estat => exact execEstat_canon h ..
  case sarm | wopen => exact imageOp_canon h ..
  case wclose | sems => exact .ctlExec h _ _ fun _ _ _ _ he => he.orFault (he.effect ..) ..
  case swait => exact execSwait_canon h ..
  case semw => exact execSemw_canon h ..
  -- streams, beats and layers
  case requestLands core tag => exact .onUnit (h.requestLands core tag)
  case inboundHoldWrite core => exact .onUnit (h.inboundHoldWrite core)
  case bucketRefill => exact execBucketRefill_canon h
  case holdClockGate => exact execHoldClockGate_canon h ..
  case promote => exact execPromote_canon h ..
  case demote => exact execDemote_canon h ..
  case migrationStart => exact execMigrationStart_canon h
  case migrationCopied => exact execMigrationCopied_canon h ..
  case combFill => exact execCombFill_canon h ..
  case combAtomic core => exact .onUnit (h.combAtomic core)
  case patrolScrub => exact execPatrolScrub_canon h ..
  case rowRepair => exact execRowRepair_canon h ..
  case pageRetirement => exact execPageRetirement_canon h ..
  case tmloRead => exact execTmloRead_canon h
  -- micro-batches, slices and the network
  case microBatchPreparation ctx => exact .onUnit (h.prepare ctx)
  case readyWrite ctx region => exact .onUnit (h.readyWrite ctx region)
  case relsWrite ctx region => exact .onUnit (h.relsWrite ctx region)
  case contributionArrival => exact execContributionArrival_canon h ..
  case parkedContributionRetry super k => exact .onUnit (h.parkedRetry super k)
  case memorySideAdd super => exact .onUnit (h.sideAdd super)
  case fusedUpdate super lidx => exact .onUnit (h.fusedUpdate super lidx)
  case pushReceipt part k => exact .onUnit (h.pushReceipt part k)
  case dataPacketReceive => exact .onUnit (h.dataReceive ..)
  case placementRetry part chan => exact .onUnit (h.deliverAll part chan)
  case relwWrite part chan => exact .onUnit (h.relwWrite part chan)
  -- commands of a queue
  case qbind => exact execQbind_canon h ..
  case memwrite => exact execMemwrite_canon h ..
  case place => exact execPlace_canon h ..
  case start => exact execStart_canon h ..
  case discard => exact execDiscard_canon h ..
  case rebuild => exact execRebuild_canon h ..
  case replay => exact execReplay_canon h ..
  case commandComplete q cseq => exact .onQueue (.next (h.complete q cseq))
  case pread | pwrite | pswap => exact .devOp h _ _ fun _ _ hd => hd.of_mem (by simp)
  case ident | echo | bbread => exact .devOp h _ _ fun _ _ hd => hd
  case ftcmt | ptcmt | pcfgModeWrite | parameterWrite => exact .next (h.of_mem (paramWrite_mem ..))
  case cenWrite => exact execCenWrite_canon h ..
  -- resets, boots, heat and power
  case coreReset => exact .runOp h _ 0x90 _ fun _ u hu => resetCores_canon hu ..
  case frameReset => exact .runOp h _ 0x90 _ fun _ u hu => resetCores_canon hu ..
  case partitionReset => exact execPartitionReset_canon h ..
  case moduleReset => exact execModuleReset_canon h ..
  case enableAssert => exact execEnableAssert_canon h ..
  case updateStaged => exact execUpdateStaged_canon h
  case thermalSample u reading => exact .onDev (h.thermal u reading)
  case powerLoss => exact execPowerLoss_canon h
  case enableDeassert => exact execEnableDeassert_canon h
  case inputOvervoltage => exact execInputOvervoltage_canon h
  case inputPowerReturn => exact execInputPowerReturn_canon h ..
  case standbyRailPresent => exact execStandbyRailPresent_canon h ..
  -- what writes no byte of it
  case copy | blockTranspose | sliceSend | weantaerSend | guardClear | descriptorRequest | descriptorCompletion | foragerRequest |
      beatRelease | deadlock | barrierTimeout | normPartialArrival | frameReceive | rtoExpiry | failback | linkUp | linkDown |
      logRecordReceipt | baseCopied | parityContributionReceipt | baseComplete | normFactorArrival | commandPacketReceive |
      coreFailure | pfcPauseExpiry | tierMapEntryError =>
    exact .onUnit (h.of_mem (by simp))
  case waggleChunk => exact .onDev (f := fun d => d.waggleChunk _ _ _ _ _) (h.of_mem (Dev.waggleChunk_mem ..))
  case blackBoxRecordProgrammed | reportKeyExpiry => exact .onDev (h.of_mem (by simp))
  case eventAcknowledgement | ackReceive | nakReceive | creditReceive | announceReceive | announceTimer |
      ptpMessage | partitionResetFailure | superPowerDown | cageOvercurrent | deviceRemoval |
      transitFrameDeparture | frameWake | signalMessage =>
    refine .onUnit (h.of_mem ?_)
    split <;> simp
  case bringUpTimeout | holdUpCharged =>
    refine .onDev (h.of_mem ?_)
    split <;> simp
  case ackTimer =>
    refine .onUnit (h.of_mem ?_)
    split
    · exact ite_mem rfl (Dev.sendAck_mem ..)
    · rfl
  case creditRetry =>
    refine .onUnit (h.of_mem ?_)
    split
    · exact ite_mem (Dev.askCredit_mem ..) rfl
    · rfl
  case baseAbandonment =>
    refine .onUnit (h.of_mem ?_)
    split
    · exact Dev.abandonBase_mem ..
    · exact ite_mem (Dev.abandonBase_mem ..) rfl
  case creditMessage | rateIncreaseTick | eventResend | pfcFrameReceive | peerMissTick | openw | combw | deviceInsertion =>
    refine .onUnit (h.of_mem ?_)
    dsimp only
    repeat' split
    all_goals simp
  case missingBitmapSend | deepPowerDown | inputLow | standbyRailLost =>
    refine .onDev (h.of_mem ?_)
    dsimp only
    repeat' split
    all_goals simp
  case qreset | memread | lbegin | ldata | lcommit | unload | cap | stepparam | base | ptest | snapshot | attest | ctxset | acctread =>
    refine .devOp h _ _ fun _ _ hd => hd.of_mem ?_
    dsimp only
    repeat' split
    all_goals simp
  case keyrel | operatorEnrolment | fwupdate =>
    refine .runOp h _ _ _ fun _ _ hu => hu.of_mem ?_
    dsimp only
    repeat' split
    all_goals simp

/-- Settles O58: a step runs one command or idles, and every command keeps the unified range canonical. -/
theorem memoryStaysCanonical : Obligations.MemoryStaysCanonical := by
  unfold Obligations.MemoryStaysCanonical
  intro s t h hstep
  unfold step at hstep
  split at hstep
  · cases hstep
    exact h
  · next c rest _ => exact (exec_canon (s := { s with pending := rest }) h c).canon t hstep

end Sys2Proof.Machine
end

section
/-! SUPPORT. What the network changes: the ports keep their links, and the module outside the fabric, the channels, the records and the
accounts stays. -/

namespace Sys2Proof.Machine
open Sys2Proof

/-! ## A port apart from the frames of the module's own that wait there and its counters -/

/-- The port without what a frame of the module's own changes there. -/
def Port.fixed (x : Port) : Port := { x with own := [], deficit := [], turn := 0, alt := [], cnt := [] }

theorem Port.up_of_fixed {x y : Port} (h : x.fixed = y.fixed) : x.up = y.up := (congrArg (fun z : Port => z.up) h :)
theorem Port.en_of_fixed {x y : Port} (h : x.fixed = y.fixed) : x.en = y.en := (congrArg (fun z : Port => z.en) h :)
theorem Port.dead_of_fixed {x y : Port} (h : x.fixed = y.fixed) : x.dead = y.dead := (congrArg (fun z : Port => z.dead) h :)
theorem Port.media_of_fixed {x y : Port} (h : x.fixed = y.fixed) : x.media = y.media := (congrArg (fun z : Port => z.media) h :)
theorem Port.paused_of_fixed {x y : Port} (h : x.fixed = y.fixed) : x.paused = y.paused := (congrArg (fun z : Port => z.paused) h :)
theorem Port.transit_of_fixed {x y : Port} (h : x.fixed = y.fixed) : x.transit = y.transit := (congrArg (fun z : Port => z.transit) h :)

theorem Port.robin_fixed (net f : Nat) (x : Port) : (Port.robin net f x).2.fixed = x.fixed := by
  induction f generalizing x with
  | zero => rfl
  | succ f ih =>
    unfold Port.robin
    dsimp only
    split
    · exact ih _
    · split
      · rfl
      · exact ih _

theorem Port.pick_fixed (net : Nat) (x : Port) : (x.pick net).2.fixed = x.fixed := by
  unfold Port.pick
  split
  · rfl
  split
  · rfl
  split
  · rfl
  · exact x.robin_fixed ..

/-! ## What sending changes -/

/-- `e` is `d` after the network worked: the frames sent, the fabric, the event channels, the records, the free choices and the accounts
differ, and no port gained or lost its link. -/
def Dev.SameButNet (d e : Dev) : Prop :=
  (∃ tx fab chans bb fi ctxs, e = { d with tx := tx, fab := fab, chans := chans, bb := bb, freeIx := fi, ctxs := ctxs }) ∧
  ∀ k, (e.port k).fixed = (d.port k).fixed

namespace Dev.SameButNet

section
variable {d e f : Dev}

theorem refl (d : Dev) : d.SameButNet d := ⟨⟨_, _, _, _, _, _, rfl⟩, fun _ => rfl⟩

theorem trans (h : d.SameButNet e) (k : e.SameButNet f) : d.SameButNet f := by
  obtain ⟨⟨tx, fab, chans, bb, fi, ctxs, rfl⟩, hp⟩ := h
  obtain ⟨⟨tx', fab', chans', bb', fi', ctxs', rfl⟩, hp'⟩ := k
  exact ⟨⟨_, _, _, _, _, _, rfl⟩, fun n => (hp' n).trans (hp n)⟩

theorem congr {α : Type} (h : d.SameButNet e) (g : Dev → α) (hg : ∀ tx fab chans bb fi ctxs,
    g { d with tx := tx, fab := fab, chans := chans, bb := bb, freeIx := fi, ctxs := ctxs } = g d) : g e = g d := by
  obtain ⟨⟨tx, fab, chans, bb, fi, ctxs, rfl⟩, _⟩ := h
  exact hg ..

theorem of_ite {c : Prop} [Decidable c] (h : c → d.SameButNet e) (k : ¬c → d.SameButNet f) : d.SameButNet (if c then e else f) := by
  split
  · exact h ‹_›
  · exact k ‹_›

theorem foldl {α : Type} {g : Dev → α → Dev} (h : ∀ d a, Dev.SameButNet d (g d a)) (l : List α) (d : Dev) :
    d.SameButNet (l.foldl g d) := by
  induction l generalizing d with
  | nil => exact .refl d
  | cons a l ih => exact (h d a).trans (ih _)

/-- What keeps the ports as they are. -/
theorem of_ports {e : Dev} (h : ∃ tx fab chans bb fi ctxs, e = { d with tx := tx, fab := fab, chans := chans, bb := bb, freeIx := fi, ctxs := ctxs })
    (hp : e.fab.ports = d.fab.ports) : d.SameButNet e :=
  ⟨h, fun k => by rw [Dev.port, hp, Dev.port]⟩

variable (h : d.SameButNet e)
include h

theorem mem : e.mem = d.mem := h.congr Dev.mem fun _ _ _ _ _ _ => rfl
theorem cores : e.cores = d.cores := h.congr Dev.cores fun _ _ _ _ _ _ => rfl
theorem parts : e.parts = d.parts := h.congr Dev.parts fun _ _ _ _ _ _ => rfl
theorem tiers : e.tiers = d.tiers := h.congr Dev.tiers fun _ _ _ _ _ _ => rfl
theorem queues : e.queues = d.queues := h.congr Dev.queues fun _ _ _ _ _ _ => rfl
theorem jobs : e.jobs = d.jobs := h.congr Dev.jobs fun _ _ _ _ _ _ => rfl
theorem sec : e.sec = d.sec := h.congr Dev.sec fun _ _ _ _ _ _ => rfl
theorem brd : e.brd = d.brd := h.congr Dev.brd fun _ _ _ _ _ _ => rfl
theorem part (p : Nat) : e.part p = d.part p := h.congr (fun x => x.part p) fun _ _ _ _ _ _ => rfl
theorem cage (k : Nat) : e.cage k = d.cage k := h.congr (fun x => x.cage k) fun _ _ _ _ _ _ => rfl
theorem fixed (k : Nat) : (e.port k).fixed = (d.port k).fixed := h.2 k
theorem up (k : Nat) : (e.port k).up = (d.port k).up := Port.up_of_fixed (h.2 k)
theorem media (k : Nat) : (e.port k).media = (d.port k).media := Port.media_of_fixed (h.2 k)

end

section
variable (d : Dev)

theorem send (t : Tx) : d.SameButNet (d.send t) := .of_ports ⟨_, _, _, _, _, _, rfl⟩ rfl
theorem modChan (ch : Nat) (f : Channel → Channel) : d.SameButNet (d.modChan ch f) := .of_ports ⟨_, _, _, _, _, _, rfl⟩ rfl
theorem record (r : Raise) : d.SameButNet (d.record r) := .of_ports ⟨_, _, _, _, _, _, rfl⟩ rfl

theorem modPort {f : Port → Port} (k : Nat) (hf : (f (d.port k)).fixed = (d.port k).fixed) : d.SameButNet (d.modPort k f) := by
  refine ⟨⟨_, _, _, _, _, _, rfl⟩, fun n => ?_⟩
  by_cases hn : n = k
  · rw [hn, Dev.modPort_port_self, hf]
  · rw [Dev.modPort_port_ne d f hn]

theorem portCnt (k i : Nat) : d.SameButNet (d.portCnt k i) := modPort d k rfl

theorem leave (k : Nat) (t : Tx) : d.SameButNet (d.leave k t) := (portCnt d k 7).trans (send _ t)

theorem serveOwn (n k : Nat) : d.SameButNet (d.serveOwn n k) := by
  induction n generalizing d with
  | zero => exact .refl d
  | succ n ih =>
    unfold Dev.serveOwn
    dsimp only
    split
    · exact .refl d
    · split
      · refine ((modPort d k ?_).trans (leave _ k _)).trans (ih _)
        exact (d.port k).pick_fixed ..
      · exact .refl d

theorem sendOn (k prio bytes : Nat) (t : Tx) : d.SameButNet (d.sendOn k prio bytes t) :=
  .of_ite (fun _ => leave d k t) fun _ => (modPort d k rfl).trans (serveOwn _ _ k)

theorem sendCmd (dst : Nat) (t : Tx) : d.SameButNet (d.sendCmd dst t) := by
  unfold Dev.sendCmd
  split
  · exact leave d _ t
  · exact send d t

theorem sendEvent (ch : Nat) (e : Event) : d.SameButNet (d.sendEvent ch e) := sendCmd d _ _

theorem emit (ch : Nat) (r : Raise) : d.SameButNet (d.emit ch r) :=
  .of_ite (fun _ => (modChan d ch _).trans (sendEvent _ ch _)) fun _ => modChan d ch _

theorem raise (r : Raise) : d.SameButNet (d.raise r) := by
  unfold Dev.raise
  split
  · exact .of_ports ⟨_, _, _, _, _, _, rfl⟩ rfl
  · split
    · exact (record d r).trans (emit _ _ r)
    · exact record d r

theorem event (code part ctx lcore : Nat) (detail : List Nat) : d.SameButNet (d.event code part ctx lcore detail) := raise d _

theorem recordOnly (code part : Nat) (detail : List Nat) : d.SameButNet (d.recordOnly code part detail) := raise d _

theorem modFab {f : Fabric → Fabric} (hf : (f d.fab).ports = d.fab.ports) : d.SameButNet (d.modFab f) :=
  .of_ports ⟨_, _, _, _, _, _, rfl⟩ hf

theorem modNet (n : Nat) (f : Network → Network) : d.SameButNet (d.modNet n f) := by
  unfold Dev.modNet
  split
  · exact .of_ports ⟨_, _, _, _, _, _, rfl⟩ rfl
  · exact .of_ports ⟨_, _, _, _, _, _, rfl⟩ rfl

theorem setSend (p i : Nat) (x : SendChan) : d.SameButNet (d.setSend p i x) := modFab d rfl
theorem setRecv (p i : Nat) (x : RecvChan) : d.SameButNet (d.setRecv p i x) := modFab d rfl
theorem modPeer (k : Nat) (f : Peer → Peer) : d.SameButNet (d.modPeer k f) := modFab d rfl

theorem modSend (p i : Nat) (f : SendChan → SendChan) : d.SameButNet (d.modSend p i f) := by
  unfold Dev.modSend
  split
  · exact setSend d ..
  · exact .refl d

theorem modRecv (p i : Nat) (f : RecvChan → RecvChan) : d.SameButNet (d.modRecv p i f) := by
  unfold Dev.modRecv
  split
  · exact setRecv d ..
  · exact .refl d

theorem freshChoice (n : Nat) : d.SameButNet (d.freshChoice n).2 := .of_ports ⟨_, _, _, _, _, _, rfl⟩ rfl

theorem nextHop (net dst src : Nat) : d.SameButNet (d.nextHop net dst src).2 := by
  unfold Dev.nextHop
  split
  · exact .refl d
  · dsimp only
    split
    · exact .refl d
    · next a _ =>
      have hany : d.SameButNet (d.anyPort net).2 := freshChoice d (((List.range 4).map (4 * net + ·)).filter (fun e => (d.port e).up)).length
      revert hany
      rcases d.anyPort net with ⟨_ | e, d'⟩
      · exact id
      · exact fun hany => by
          dsimp only
          split
          · exact hany
          · exact hany.trans ((modNet _ ..).trans (sendOn _ ..))

theorem emitPkt (net pcp dst : Nat) (h : DataHdr) (payload : List Byte) : d.SameButNet (d.emitPkt net pcp dst h payload) := by
  unfold Dev.emitPkt
  dsimp only
  split
  · exact nextHop d ..
  · exact (nextHop d ..).trans ((modNet _ ..).trans (sendOn _ ..))

theorem acct (c : Nat) (f : Account → Account) : d.SameButNet (d.acct c f) := .of_ports ⟨_, _, _, _, _, _, rfl⟩ rfl

theorem acctChan (chan : Nat) (entry : List Nat) (net n : Nat) (tx : Bool) : d.SameButNet (d.acctChan chan entry net n tx) :=
  .of_ite (fun _ => acct d ..) fun _ => .refl d

theorem transmit (p : Nat) (x : SendChan) (k : SentPkt) (rtx : Bool) : d.SameButNet (d.transmit p x k rtx) := by
  unfold Dev.transmit
  dsimp only
  have hsent := fun net pcp dst h pl chan entry n => (emitPkt d net pcp dst h pl).trans (acctChan _ chan entry net n true)
  exact .of_ite (fun _ => (hsent ..).trans (modNet _ ..)) fun _ => hsent ..

theorem askCredit (p i : Nat) : d.SameButNet (d.askCredit p i) := by
  unfold Dev.askCredit
  split
  · exact .refl d
  split
  · exact .refl d
  · exact ((emitPkt d ..).trans (modNet _ ..)).trans (modSend _ ..)

theorem sendAck (p i net : Nat) : d.SameButNet (d.sendAck p i net) := by
  unfold Dev.sendAck
  split
  · exact .refl d
  · exact (emitPkt d ..).trans (setRecv _ ..)

theorem sendNak (p i net : Nat) (epw : Bool) : d.SameButNet (d.sendNak p i net epw) := by
  unfold Dev.sendNak
  split
  · exact .refl d
  · exact (emitPkt d ..).trans (modNet _ ..)

theorem failover (p peer : Nat) : d.SameButNet (d.failover p peer) := by
  unfold Dev.failover
  split
  · exact .refl d
  · dsimp only
    refine ((modPeer d ..).trans ((event _ ..).trans (modNet _ ..))).trans (foldl (fun e y => ?_) ..)
    split
    · refine .of_ite (fun _ => ?_) fun _ => .refl e
      exact (setSend e ..).trans (foldl (fun e k => transmit e ..) ..)
    · exact .refl e

theorem judgePaths : d.SameButNet d.judgePaths :=
  foldl (fun e _ => .of_ite (fun _ => failover e ..) fun _ => .refl e) _ _

theorem portUp_of {k : Nat} (h : (d.port k).up = true) : d.SameButNet (d.portUp k) := by
  unfold Dev.portUp
  simp [h, SameButNet.refl]

end

end Dev.SameButNet

end Sys2Proof.Machine
end

section
/-! SUPPORT. The input, the rails and the cages (chapter 18). -/

namespace Sys2Proof.Machine
open Sys2Proof Sys2Proof.Machine.Claims

/-! ## What the programming of records leaves (R423, R424) -/

theorem Dev.program_brd (d : Dev) : d.program.brd = d.brd := by
  unfold Dev.program
  split <;> rfl

theorem Dev.raiseWaiting_brd (d : Dev) : d.raiseWaiting.brd = d.brd := by
  unfold Dev.raiseWaiting
  split
  · rfl
  · split
    · exact Dev.raise_brd ..
    · rfl

theorem Dev.flush_brd (d : Dev) : d.flush.brd = d.brd := foldl_keeps Dev.brd (fun e _ => e.program_brd) _ d

theorem Dev.flushAll_brd (d : Dev) : d.flushAll.brd = d.brd :=
  (Dev.flush_brd _).trans ((foldl_keeps Dev.brd (fun e _ => e.raiseWaiting_brd) _ _).trans d.flush_brd)

/-- The board of a module whose power has gone (R424, R433). -/
theorem Dev.powerOff_brd (d : Dev) (code : Nat) : (d.powerOff code).brd =
    { (d.dark (if d.brd.sb12 then .standby else .off)).brd with huok := false, internalRail := false, present := d.brd.sb12, uvw := false } := by
  have hrec : (if d.brd.huok then (d.recordOnly code 0 []).flushAll else
      (List.range ((d.recordOnly code 0 []).freshChoice ((d.recordOnly code 0 []).bb.queue.length + 1)).1).foldl (fun d _ => d.program)
        ((d.recordOnly code 0 []).freshChoice ((d.recordOnly code 0 []).bb.queue.length + 1)).2).brd = d.brd := by
    split
    · exact (Dev.flushAll_brd _).trans (d.recordOnly_brd ..)
    · exact (foldl_keeps Dev.brd (fun e _ => e.program_brd) _ _).trans (d.recordOnly_brd ..)
  unfold Dev.powerOff
  dsimp only
  rw [Dev.recordOnly_brd, Dev.modBrd_brd, Dev.dark, Dev.dark, hrec]

theorem Dev.powerOff_mem (d : Dev) (code : Nat) : (d.powerOff code).mem = [] := rfl

/-! ## Links and cages -/

theorem Dev.linkLost_net (d : Dev) {e : Nat} (h : (d.port e).up = true) :
    Dev.SameButNet (d.modPort e (fun x => { x with up := false, lock := false, andn := false })) (d.linkLost e) := by
  unfold Dev.linkLost
  rw [if_neg (by simp [h])]
  exact (Dev.SameButNet.event _ ..).trans (.of_ite (fun _ => .refl _) fun _ => .judgePaths _)

theorem Dev.linkLost_up (d : Dev) (e : Nat) : ((d.linkLost e).port e).up = false := by
  by_cases h : (d.port e).up = true
  · rw [(d.linkLost_net h).up, Dev.modPort_port_self]
  · rw [Dev.linkLost, if_pos (by simp [h])]
    simpa using h

theorem Dev.linkLost_brd (d : Dev) (e : Nat) : (d.linkLost e).brd = d.brd := by
  by_cases h : (d.port e).up = true
  · exact (d.linkLost_net h).brd
  · rw [Dev.linkLost, if_pos (by simp [h])]

theorem Dev.cage_of_brd {d e : Dev} (h : e.brd = d.brd) (k : Nat) : e.cage k = d.cage k := by rw [Dev.cage, h, Dev.cage]

/-- An enabled port with a supported medium that is down gains link (R273). -/
theorem Dev.portUp_net (d : Dev) {k : Nat} (hup : (d.port k).up = false) (hen : (d.port k).en = true) (hdead : (d.port k).dead = false)
    (hmedia : (d.port k).media ≠ 0) :
    Dev.SameButNet (d.modPort k (fun x => { x with up := true, lock := true, andn := x.media == 1 })) (d.portUp k) := by
  unfold Dev.portUp
  rw [if_neg (by simp [hup, hen, hdead, hmedia])]
  exact (Dev.SameButNet.event _ ..).trans (.serveOwn _ ..)

end Sys2Proof.Machine
end

section
/-! SUPPORT. The electrical events (chapter 18): what each leaves. -/

namespace Sys2Proof.Machine
open Sys2Proof Sys2Proof.Machine.Claims

@[simp] theorem Dev.freshChoice_brd (d : Dev) (n : Nat) : (d.freshChoice n).2.brd = d.brd := rfl

/-- The cage after a device is inserted (R438). -/
def Cage.inserted (c : Cage) (watts media : Nat) : Cage :=
  { c with prs := true, padv := watts % 256, media := if media ≤ 3 then media else 0, ocCut := c.ocCut && c.oc }

/-- A powered cage and the port behind it (R438). -/
theorem Dev.powerCage_cage (d : Dev) (k : Nat) : (d.powerCage k).cage k =
    { d.cage k with powered := (d.cage k).prs, lpm := (d.cage k).prs && decide (15 < (d.cage k).padv) } := by
  unfold Dev.powerCage
  rw [Dev.cage_of_brd (Dev.modPort_brd ..), Dev.modCage_cage_self]

theorem Dev.powerCage_port (d : Dev) (k : Nat) : (d.powerCage k).port k =
    { d.port k with media := if (d.cage k).prs && decide ((d.cage k).padv ≤ 15) then (d.cage k).media else 0 } := by
  unfold Dev.powerCage
  rw [Dev.modPort_port_self]
  rfl

theorem inputAndRailsMoveTheModule : InputAndRailsMoveTheModule := by
  intro s mv env
  refine ⟨fun hen hsb hst => ?_, fun hen => ?_, fun hen hpow => ?_, fun hlo hhi => ?_, fun hlo hhi hen => ?_, fun hsb => ⟨fun hpow => ?_,
    fun hpow => ?_⟩, fun hoff hen => ?_, fun hsb => ?_⟩
  · refine ⟨_, rfl, ⟨rfl, rfl⟩, ?_⟩
    dsimp only
    rw [if_neg (by simp [hen])]
    split
    · rw [Dev.powerOff_brd]
      exact ⟨if_pos hsb, rfl, rfl, fun _ => rfl⟩
    · next hpow => exact ⟨if_pos hsb, rfl, rfl, fun h => absurd h hpow⟩
  · refine ⟨_, rfl, ⟨rfl, rfl⟩, ?_⟩
    dsimp only
    rw [if_pos (show _ = true by simp [hen])]
    exact ⟨rfl, rfl, by simp; omega⟩
  · refine ⟨_, rfl, ⟨rfl, rfl⟩, ?_⟩
    dsimp only
    rw [if_neg (by simp [hen])]
    split
    · rw [Dev.modBrd_brd, Dev.powerOff_brd]
      exact ⟨rfl, rfl, rfl, rfl⟩
    · next h => exact absurd hpow h
  · refine ⟨_, rfl, ⟨rfl, rfl⟩, ?_⟩
    dsimp only
    rw [if_neg (by simp only [Bool.or_eq_true, decide_eq_true_eq]; omega)]
    split
    · rw [Dev.event_mem, Dev.event_cores, Dev.event_brd]
      exact ⟨rfl, rfl, rfl, rfl⟩
    · exact ⟨rfl, rfl, rfl, rfl⟩
  · simp only [exec, execInputPowerReturn]
    rw [if_neg (by simp only [Bool.or_eq_true, decide_eq_true_eq]; omega), startUp, if_neg (by simp [Dev.mayStart, hen])]
    rfl
  · refine ⟨_, rfl, ⟨rfl, rfl⟩, ?_⟩
    dsimp only
    rw [if_neg (by simp [hsb])]
    split
    · rw [Dev.event_mem, Dev.event_brd]
      exact ⟨rfl, rfl, rfl, rfl⟩
    · next h => exact absurd hpow h
  · refine ⟨_, rfl, ⟨rfl, rfl⟩, ?_⟩
    dsimp only
    rw [if_neg (by simp [hsb])]
    split
    · next h => exact absurd (h.symm.trans hpow) (by decide)
    · exact ⟨rfl, rfl⟩
  · simp only [exec, execStandbyRailPresent]
    rw [if_pos (by simp [hoff]), startUp, if_neg (by simp [Dev.mayStart, Dev.atRest, hen])]
    exact ⟨_, rfl, ⟨rfl, rfl⟩, rfl, rfl⟩
  · simp only [exec, execHoldUpCharged, State.onDev, if_pos hsb]
    rfl

theorem cagesArePoweredAndCut : CagesArePoweredAndCut := by
  intro s k watts media hk
  refine ⟨fun hpow => ?_, fun hprs hup hcen hcut hw hm0 hm4 hdown hen hdead => ?_, fun hprs hm hdown => ?_, fun hprs hcen => ?_, fun hprs => ?_⟩
  · refine ⟨_, onUnit_eq (decide_eq_true hk) _, ⟨rfl, rfl⟩, ?_⟩
    dsimp only
    rw [if_neg (by simp [hpow])]
    have hbrd := (Dev.event_brd (((s.dev.modCage k (fun c => { c with oc := true, ocCut := true, powered := false })).linkLost k)) 0x0E0C 0 0
      0x1FF [k]).trans (Dev.linkLost_brd _ k)
    refine ⟨by simp, ?_, ?_, fun n hn => ?_⟩
    · rw [(Dev.SameButNet.event _ ..).up, Dev.linkLost_up]
    · rw [Dev.cage_of_brd hbrd, Dev.modCage_cage_self]
    · rw [Dev.cage_of_brd hbrd, Dev.modCage_cage_ne _ _ hn]
  · refine ⟨_, onUnit_eq (decide_eq_true hk) _, ⟨rfl, rfl⟩, ?_⟩
    dsimp only
    rw [if_neg (by simp [hprs]), if_pos (by simp [Dev.cageServed, hcen, hcut, show Dev.up (s.dev.modCage k _) = true from hup]), if_pos rfl]
    generalize hd : s.dev.modCage k _ = d
    have hcage : d.cage k = (s.dev.cage k).inserted watts media := by
      rw [← hd, Dev.modCage_cage_self, Cage.inserted]
    have hport : (d.powerCage k).port k = { s.dev.port k with media := media } := by
      have hmedia : (if ((s.dev.cage k).inserted watts media).prs && decide (((s.dev.cage k).inserted watts media).padv ≤ 15)
          then ((s.dev.cage k).inserted watts media).media else 0) = media := by
        simp [Cage.inserted, show watts % 256 ≤ 15 by omega, show media ≤ 3 by omega]
      rw [Dev.powerCage_port, hcage, hmedia, ← hd]
      rfl
    have hup := Dev.portUp_net (d.powerCage k) (k := k) (by rw [hport]; exact hdown) (by rw [hport]; exact hen) (by rw [hport]; exact hdead)
      (by rw [hport]; exact hm0)
    have hbrd := hup.brd.trans (Dev.modPort_brd ..)
    refine ⟨?_, ?_, ?_, ?_, ?_, ?_⟩
    · rw [hup.mem, Dev.modPort_mem, Dev.powerCage_mem, ← hd, Dev.modCage_mem]
    · rw [Dev.cage_of_brd hbrd, Dev.powerCage_cage, hcage]
      rfl
    · rw [Dev.cage_of_brd hbrd, Dev.powerCage_cage, hcage]
      rfl
    · rw [Dev.cage_of_brd hbrd, Dev.powerCage_cage, hcage]
      exact Nat.mod_eq_of_lt (by omega)
    · rw [hup.up, Dev.modPort_port_self]
    · rw [hup.media, Dev.modPort_port_self, hport]
  · refine ⟨_, onUnit_eq (decide_eq_true hk) _, ⟨rfl, rfl⟩, ?_⟩
    dsimp only
    rw [if_neg (by simp [hprs]), if_pos rfl]
    generalize hd : s.dev.modCage k _ = d
    have hcage : d.cage k = (s.dev.cage k).inserted watts media := by
      rw [← hd, Dev.modCage_cage_self, Cage.inserted]
    have hmedia : ((s.dev.cage k).inserted watts media).media = 0 := if_neg (by omega)
    have hport : d.port k = s.dev.port k := by
      rw [← hd]
      rfl
    split
    · have hnone : (d.powerCage k).portUp k = d.powerCage k := by
        unfold Dev.portUp
        exact if_pos (by simp [Dev.powerCage_port, hcage, hmedia])
      rw [hnone, Dev.powerCage_cage, hcage, Dev.powerCage_port, hport]
      exact ⟨rfl, hmedia, hdown⟩
    · rw [hcage, hport]
      exact ⟨rfl, hmedia, hdown⟩
  · refine ⟨_, onUnit_eq (decide_eq_true hk) _, ⟨rfl, rfl⟩, ?_⟩
    dsimp only
    rw [if_neg (by simp [hprs]), if_neg (by simp [hcen])]
    exact ⟨by simp, by simp, rfl⟩
  · refine ⟨_, onUnit_eq (decide_eq_true hk) _, ⟨rfl, rfl⟩, ?_⟩
    dsimp only
    rw [if_neg (by simp [hprs])]
    refine ⟨by simp, ?_, ?_, ?_⟩
    · rw [Dev.cage_of_brd (Dev.modPort_brd ..), Dev.modCage_cage_self]
    · rw [Dev.cage_of_brd (Dev.modPort_brd ..), Dev.modCage_cage_self]
    · rw [Dev.modPort_port_self]
      exact Dev.linkLost_up s.dev k

/-- Settles O57: each electrical event's board, from the equations of the power-off and of a link's loss. -/
theorem electricalEventsMoveTheModule : Obligations.ElectricalEventsMoveTheModule :=
  ⟨inputAndRailsMoveTheModule, cagesArePoweredAndCut⟩

end Sys2Proof.Machine
end

section
/-! SUPPORT. Heat, power-down and the black box (chapter 17). -/

namespace Sys2Proof.Machine
open Sys2Proof Sys2Proof.Machine.Claims

/-- `e` is `d` as far as the samples of its units, its supers, its state and its memory go. -/
structure Dev.SameHeat (d e : Dev) : Prop where
  mem : e.mem = d.mem
  state : e.brd.state = d.brd.state
  stages : e.brd.stages = d.brd.stages
  supers : e.supers = d.supers

namespace Dev.SameHeat

variable {d e f : Dev}

theorem refl (d : Dev) : d.SameHeat d := ⟨rfl, rfl, rfl, rfl⟩
theorem trans (h : d.SameHeat e) (k : e.SameHeat f) : d.SameHeat f :=
  ⟨k.mem.trans h.mem, k.state.trans h.state, k.stages.trans h.stages, k.supers.trans h.supers⟩
theorem event (d : Dev) (code part ctx lcore : Nat) (detail : List Nat) : d.SameHeat (d.event code part ctx lcore detail) :=
  ⟨by simp, by simp, by simp, by simp⟩
theorem of_ite {c : Prop} [Decidable c] (h : d.SameHeat e) (k : d.SameHeat f) : d.SameHeat (if c then e else f) := by
  split
  · exact h
  · exact k
theorem foldl {α : Type} {g : Dev → α → Dev} (h : ∀ d a, Dev.SameHeat d (g d a)) (l : List α) (d : Dev) : d.SameHeat (l.foldl g d) := by
  induction l generalizing d with
  | nil => exact refl d
  | cons a l ih => exact (h d a).trans (ih _)

theorem stageEvents (d : Dev) (code old new : Nat) (detail : List Nat) : d.SameHeat (d.stageEvents code old new detail) := by
  unfold Dev.stageEvents
  refine .of_ite (refl d) ((event d code 0 0 0x1FF detail).trans ?_)
  have hcount : ∀ e : Dev, e.SameHeat (if old < new then e.modBrd (fun b => { b with stgn := b.stgn + BitVec.ofNat 32 (new - old) }) else e) :=
    fun e => .of_ite ⟨rfl, rfl, rfl, rfl⟩ (refl e)
  exact (hcount _).trans (.of_ite (event _ ..) (.of_ite (event _ ..) (refl _)))

end Dev.SameHeat

theorem Config.nSupers_le : Config.nSupers ≤ 4 := by
  unfold Config.nSupers
  split <;> decide

/-- The module after a sample's counters and reading are kept (R417). -/
def Dev.sampled (d : Dev) (u : SenseUnit) (y : StageCnt) (r : Option Int) : Dev :=
  (d.keepReading u r).modBrd (fun b => { b with stages := Store.set {} b.stages (senseIx u) y })

/-- A sample of a super keeps its counters and its reading, then the stage of the super; all else is events and the die's stage. -/
theorem Dev.thermal_super (d : Dev) (x : Nat) (r : Option Int) : ∃ a e,
    d.thermal (.super x) r = (if (stageStep (.super x) (d.stageCnt (senseIx (.super x))) r).2 then e.trip (senseIx (.super x)) else e) ∧
    (d.sampled (.super x) (stageStep (.super x) (d.stageCnt (senseIx (.super x))) r).1 r).SameHeat a ∧
    (a.modSup (x % 4) (fun s => { s with stage := (stageStep (.super x) (d.stageCnt (senseIx (.super x))) r).1.stage })).SameHeat e := by
  have hheld (e : Dev) (c : Prop) [Decidable c] : e.SameHeat (if c then
      (List.range nParts).foldl (fun d p => d.modPart p (fun x => { x with dieHeld := true })) e else e) :=
    .of_ite (.foldl (fun e p => ⟨e.modPart_mem .., by rw [Dev.modPart_brd], by rw [Dev.modPart_brd], e.modPart_supers ..⟩) ..) (.refl e)
  have hbad (e : Dev) (c : Prop) [Decidable c] : e.SameHeat (if c then e.event 0x0E0B 0 0 0x1FF [] else e) :=
    .of_ite (.event ..) (.refl e)
  have hsampled : (d.keepReading (.super x) r).modBrd (fun b => { b with stages := Store.set {} b.stages (senseIx (.super x)) (stageStep (.super x) (d.stageCnt (senseIx (.super x))) r).1 }) =
    d.sampled (.super x) (stageStep (.super x) (d.stageCnt (senseIx (.super x))) r).1 r := rfl
  unfold Dev.thermal
  dsimp only
  rw [hsampled]
  generalize d.sampled (.super x) (stageStep (.super x) (d.stageCnt (senseIx (.super x))) r).1 r = b
  generalize hy : stageStep (.super x) (d.stageCnt (senseIx (.super x))) r = y
  have hbad' := hbad b ((y.1.badSensor && !(d.stageCnt (senseIx (.super x))).badSensor) = true)
  revert hbad'
  generalize (if (y.1.badSensor && !(d.stageCnt (senseIx (.super x))).badSensor) = true then b.event 0x0E0B 0 0 0x1FF [] else b) = f
  intro hbad'
  have hdie (g : Board → Board) (hstate : ∀ b, (g b).state = b.state) (hstages : ∀ b, (g b).stages = b.stages) : b.SameHeat (f.modBrd g) :=
    hbad'.trans ⟨Dev.modBrd_mem .., hstate _, hstages _, Dev.modBrd_supers ..⟩
  have hm := hdie (fun b => { b with dieStage := f.dieStageOf, plim := decide (((List.range 64).map (fun i => (f.stageCnt i).stage)).foldl max 0 = 0 && f.dieStageOf = 1) })
    (fun _ => rfl) (fun _ => rfl)
  revert hm
  generalize f.modBrd _ = m
  generalize f.dieStageOf = die
  intro hm
  have hstage := Dev.SameHeat.stageEvents (m.modSup (x % 4) (fun s => { s with stage := y.1.stage })) 0x0E02 (d.stageCnt (senseIx (.super x))).stage
    y.1.stage [x % 4 * 256 + y.1.stage]
  exact ⟨m, _, rfl, hm, (hstage.trans (hheld _ _)).trans (.stageEvents ..)⟩

end Sys2Proof.Machine
end

section
/-! SUPPORT. The black box (R421, R423, R424), and what heat and power-down leave. -/

namespace Sys2Proof.Machine
open Sys2Proof Sys2Proof.Machine.Claims

theorem onDev_eq {s : State} {f : Dev → Dev} {e : Dev} (h : f s.dev = e) : s.onDev f = .next { s with dev := e } := by
  rw [State.onDev, h]

/-! ## Programming the queued records -/

theorem Dev.program_of_cons {d : Dev} {r : BbRecord} {rest : List BbRecord} (h : d.bb.queue = r :: rest) :
    d.program.bb.queue = rest ∧ d.program.bb.waiting = d.bb.waiting ∧ d.program.bb.recs.getLast? = some r ∧
      ∀ y ∈ d.program.bb.recs, y = r ∨ y ∈ d.bb.recs := by
  unfold Dev.program
  rw [h]
  refine ⟨rfl, rfl, by simp, fun y hy => ?_⟩
  rcases List.mem_append.1 hy with hy | hy
  · exact .inr (List.mem_filter.1 hy).1
  · exact .inl (List.mem_singleton.1 hy)

theorem Dev.program_of_nil {d : Dev} (h : d.bb.queue = []) : d.program = d := by
  unfold Dev.program
  rw [h]

/-- A flush programs every queued record, the last one last. -/
theorem Dev.foldl_program {α : Type} (l : List α) {d : Dev} {q : List BbRecord} {r : BbRecord} (h : d.bb.queue = q ++ [r])
    (hl : l.length = q.length + 1) : (l.foldl (fun d _ => d.program) d).bb.queue = [] ∧
      (l.foldl (fun d _ => d.program) d).bb.waiting = d.bb.waiting ∧ (l.foldl (fun d _ => d.program) d).bb.recs.getLast? = some r := by
  induction q generalizing l d with
  | nil =>
    obtain ⟨a, rfl⟩ := List.length_eq_one_iff.1 hl
    obtain ⟨hq, hw, hr, -⟩ := Dev.program_of_cons h
    exact ⟨hq, hw, hr⟩
  | cons b q ih =>
    rcases l with - | ⟨a, l⟩
    · cases hl
    · obtain ⟨hq, hw, -, -⟩ := Dev.program_of_cons h
      obtain ⟨hq', hw', hr'⟩ := ih l hq (by simpa using hl)
      exact ⟨hq', hw'.trans hw, hr'⟩

theorem Dev.flush_of_queue {d : Dev} {q : List BbRecord} {r : BbRecord} (h : d.bb.queue = q ++ [r]) :
    d.flush.bb.queue = [] ∧ d.flush.bb.waiting = d.bb.waiting ∧ d.flush.bb.recs.getLast? = some r :=
  Dev.foldl_program _ h (by simp [h])

theorem Dev.flush_of_nil {d : Dev} (h : d.bb.queue = []) : d.flush = d := by
  unfold Dev.flush
  rw [h]
  rfl

/-- With nothing held by a unit, flushing everything programs the queue. -/
theorem Dev.flushAll_of_queue {d : Dev} {q : List BbRecord} {r : BbRecord} (h : d.bb.queue = q ++ [r]) (hw : d.bb.waiting = []) :
    d.flushAll.bb.recs.getLast? = some r := by
  obtain ⟨hq, hw', hr⟩ := Dev.flush_of_queue h
  unfold Dev.flushAll
  dsimp only
  rw [hw'.trans hw, List.length_nil, List.range_zero, List.foldl_nil, Dev.flush_of_nil hq, hr]

theorem Dev.recordOnly_bb {d : Dev} (code part : Nat) (detail : List Nat) (h : d.bb.queue.length < bbDepth) :
    ∃ y : BbRecord, (d.recordOnly code part detail).bb = { d.bb with nextSeq := d.bb.nextSeq + 1, queue := d.bb.queue ++ [y] } ∧
      y.seq = d.bb.nextSeq ∧ y.words.getD 5 0 / 2 ^ 16 = code := by
  rw [Dev.recordOnly, d.raise_bb_of_room _ h]
  exact ⟨_, rfl, rfl, idWord_code _⟩

/-- A power-off on a charged hold-up store programs its record last (R424). -/
theorem Dev.powerOff_record {d : Dev} (code : Nat) (hhu : d.brd.huok = true) (h : d.bb.queue.length < bbDepth) (hw : d.bb.waiting = []) :
    ∃ y : BbRecord, (d.powerOff code).bb.recs.getLast? = some y ∧ y.seq = d.bb.nextSeq ∧ y.words.getD 5 0 / 2 ^ 16 = code := by
  obtain ⟨y, hbb, hseq, hcode⟩ := Dev.recordOnly_bb code 0 [] h
  refine ⟨y, ?_, hseq, hcode⟩
  have hlast : (d.recordOnly code 0 []).flushAll.bb.recs.getLast? = some y :=
    Dev.flushAll_of_queue (by rw [hbb]) (by rw [hbb]; exact hw)
  unfold Dev.powerOff
  dsimp only
  rw [if_pos (show _ = true from by rw [Dev.recordOnly_brd]; exact hhu)]
  revert hlast
  generalize (d.recordOnly code 0 []).flushAll = e
  exact id

/-- The module that senses its input below 45 V (R432). -/
def Dev.lowInput (d : Dev) : Dev := (d.freshChoice 45000).2.modBrd (fun b => { b with vinMv := (d.freshChoice 45000).1, uvw := false })

/-! ## Samples of a super (Table 17-3) -/

/-- A reading between stage 1 and stage 2 of a super in stage 0. -/
theorem stageStep_super_warm {x : Nat} {c : StageCnt} {v : Int} (h1 : 704 ≤ v) (h2 : v < 760) (hst : c.stage = 0)
    (hbad : c.badSensor = false) (hhot : c.hot1 ≤ 2) :
    (stageStep (.super x) c (some v)).2 = false ∧ (stageStep (.super x) c (some v)).1.hot1 = c.hot1 + 1 ∧
      (stageStep (.super x) c (some v)).1.stage = if c.hot1 = 2 then 1 else 0 := by
  simp only [stageStep, thresholds, coolSpan, Option.filter_some, hst, hbad, Bool.not_true, Bool.false_or,
    show decide (-320 ≤ v) = true by simp; omega, show decide (v ≤ 1200) = true by simp; omega]
  have hmin : min 3 (c.hot1 + 1) = c.hot1 + 1 := by omega
  have h760 : ¬760 ≤ v := by omega
  have h840 : ¬840 ≤ v := by omega
  simp [h1, h760, h840, hmin]

/-- A second reading of at least 105 °C trips (R420). -/
theorem stageStep_super_trip {x : Nat} {c : StageCnt} {v : Int} (h1 : 840 ≤ v) (h2 : v ≤ 1200) (htrip : c.trip = 1) :
    (stageStep (.super x) c (some v)).2 = true := by
  simp only [stageStep, thresholds, coolSpan, Option.filter_some, Bool.not_true, Bool.false_or,
    show decide (-320 ≤ v) = true by simp; omega, show decide (v ≤ 1200) = true by simp; omega]
  simp [htrip, h1]

/-- A lost reading is stage 2 (R417). -/
theorem stageStep_none (u : SenseUnit) (c : StageCnt) :
    stageStep u c none = ({ c with badSensor := true, stage := 2, coolSamples := 0, hot1 := 0, hot2 := 0, trip := 0 }, false) := rfl

theorem Dev.keepReading_super_brd (d : Dev) (x : Nat) (r : Option Int) : (d.keepReading (.super x) r).brd = d.brd := by
  cases r <;> rfl

/-- What a sample of a super leaves before a trip: its reading, its counters and its stage. -/
theorem Dev.thermal_super_left (d : Dev) {x : Nat} (hx : x < 4) (r : Option Int) :
    ∃ e, d.thermal (.super x) r = (if (stageStep (.super x) (d.stageCnt (64 + x)) r).2 then e.trip (64 + x) else e) ∧ e.mem = d.mem ∧
      e.brd.state = d.brd.state ∧ e.stageCnt (64 + x) = (stageStep (.super x) (d.stageCnt (64 + x)) r).1 ∧
      (e.sup x).stage = (stageStep (.super x) (d.stageCnt (64 + x)) r).1.stage ∧
      ∀ v, r = some v → (e.sup x).temp = BitVec.ofInt 16 v := by
  obtain ⟨a, e, heq, ha, he⟩ := d.thermal_super x r
  have hix : senseIx (.super x) = 64 + x := by simp [senseIx, Nat.mod_eq_of_lt hx]
  rw [hix] at heq ha he
  rw [Nat.mod_eq_of_lt hx] at he
  generalize stageStep (.super x) (d.stageCnt (64 + x)) r = y at heq ha he ⊢
  have hsup : (e.sup x) = { a.sup x with stage := y.1.stage } := by
    rw [Dev.sup, he.supers, ← Dev.sup, Dev.modSup_sup_self]
  refine ⟨e, heq, ?_, ?_, ?_, ?_, fun v hv => ?_⟩
  · rw [he.mem, Dev.modSup_mem, ha.mem, Dev.sampled, Dev.modBrd_mem, Dev.keepReading_mem]
  · rw [he.state, Dev.modSup_brd, ha.state, Dev.sampled, Dev.modBrd_brd, Dev.keepReading_super_brd]
  · rw [Dev.stageCnt, he.stages, Dev.modSup_brd, ha.stages, Dev.sampled, Dev.modBrd_brd, hix]
    exact Store.get_set_self (α := StageCnt) ..
  · rw [hsup]
  · rw [hsup, Dev.sup, ha.supers, hv, Dev.sampled, Dev.modBrd_supers, ← Dev.sup, Dev.keepReading, Nat.mod_eq_of_lt hx,
      Dev.modSup_sup_self]

theorem Dev.trip_of_up (d : Dev) (i : Nat) (h : d.brd.state = .ready ∨ d.brd.state = .degraded) :
    (d.trip i).brd.state = .tripped ∧ (d.trip i).brd.faultPin = true ∧ (d.trip i).mem = [] ∧ (d.trip i).cores = [] := by
  unfold Dev.trip
  rw [if_neg (by rcases h with h | h <;> rw [h] <;> decide)]
  exact ⟨rfl, rfl, rfl, rfl⟩

theorem Dev.up_iff (d : Dev) : d.up = true ↔ d.brd.state = .ready ∨ d.brd.state = .degraded := by
  simp [Dev.up]

/-- Settles O56: each command from the one thing it does, a sample's staging, the programming of a record, or a power-off. -/
theorem heatPowerDownAndTheBlackBox : Obligations.HeatPowerDownAndTheBlackBox := by
  intro s x v f r rest hx
  have hx4 := hx.trans_le Config.nSupers_le
  refine ⟨fun h1 h2 hst hbad hhot => ?_, fun h1 h2 htrip hup => ?_, ?_, fun hquiet hused => ?_, fun hused => ?_, ?_, fun hq hw => ?_,
    fun hpow hhu hroom hw => ?_⟩
  · obtain ⟨e, heq, hmem, -, hcnt, hstage, htemp⟩ := s.dev.thermal_super_left hx4 (some v)
    obtain ⟨hno, hhot', hst'⟩ := stageStep_super_warm (x := x) h1 h2 hst hbad hhot
    rw [hno] at heq
    refine ⟨{ s with dev := e }, ?_, ⟨rfl, rfl⟩, hmem, hstage.trans hst', htemp v rfl, by rw [← hhot', ← hcnt]⟩
    exact onDev_eq (f := fun d => d.thermal (.super x) (some v)) heq
  · obtain ⟨e, heq, -, hstate, -⟩ := s.dev.thermal_super_left hx4 (some v)
    rw [if_pos (stageStep_super_trip h1 h2 htrip)] at heq
    refine ⟨{ s with dev := e.trip (64 + x) }, onDev_eq (f := fun d => d.thermal (.super x) (some v)) heq, ⟨rfl, rfl⟩, ?_⟩
    exact e.trip_of_up _ (hstate ▸ s.dev.up_iff.1 hup)
  · obtain ⟨e, heq, hmem, -, hcnt, hstage, -⟩ := s.dev.thermal_super_left hx4 none
    exact ⟨{ s with dev := e }, onDev_eq (f := fun d => d.thermal (.super x) none) heq, ⟨rfl, rfl⟩, hmem, hstage, by rw [hcnt]; rfl⟩
  · refine ⟨_, onUnit_eq (decide_eq_true hx) _, ⟨rfl, rfl⟩, ?_⟩
    dsimp only
    rw [if_neg (by cases f <;> simp [hquiet, hused])]
    exact ⟨rfl, Dev.modSup_sup_self ..⟩
  · refine (onUnit_eq (decide_eq_true hx) _).trans ?_
    rw [if_pos (by simp [hused])]
  · exact ⟨_, rfl, ⟨rfl, rfl⟩, rfl⟩
  · obtain ⟨hqueue, hwait, hlast, hrecs⟩ := Dev.program_of_cons hq
    have hnone : s.dev.program.raiseWaiting = s.dev.program := by
      unfold Dev.raiseWaiting
      rw [hwait, hw]
    refine ⟨{ s with dev := s.dev.program }, onDev_eq (f := fun d => d.program.raiseWaiting) hnone, ⟨rfl, rfl⟩, ?_, hqueue, hlast, hrecs⟩
    exact Dev.program_mem _
  · obtain ⟨y, hlast, hseq, hcode⟩ := Dev.powerOff_record (d := s.dev.lowInput) 0x0E09 hhu hroom hw
    refine ⟨{ s with dev := s.dev.lowInput.powerOff 0x0E09 }, y, ?_, ⟨rfl, rfl⟩, rfl, ?_, hlast, hseq, hcode⟩
    · exact onDev_eq (f := fun d => if d.lowInput.powered then d.lowInput.powerOff 0x0E09 else d.lowInput) (if_pos hpow)
    · exact congrArg Board.state (Dev.powerOff_brd ..)

end Sys2Proof.Machine
end

section
/-! SUPPORT. Deadlock, the barrier's timeout and the states of frames (chapters 6, 7 and 17). -/

namespace Sys2Proof.Machine
open Sys2Proof Sys2Proof.Machine.Claims

/-- A frame in Run is clock-gated, any other stays as it is (R412). -/
def FrameSt.gated (y : FrameSt) : FrameSt := if y.pstate = 0 then { y with pstate := 1 } else y

theorem FrameSt.gated_gated (y : FrameSt) : y.gated.gated = y.gated := by
  by_cases h : y.pstate = 0 <;> simp [FrameSt.gated, h]

/-- The frames of a list that are gated one after another. -/
def Dev.gateFrames (d : Dev) (l : List Nat) : Dev :=
  l.foldl (fun d f => if (d.frame f).pstate = 0 then d.modFrame f (fun y => { y with pstate := 1 }) else d) d

theorem Dev.gateFrames_frame (d : Dev) (l : List Nat) (g : Nat) :
    (d.gateFrames l).frame g = if g ∈ l then (d.frame g).gated else d.frame g := by
  induction l generalizing d with
  | nil => rfl
  | cons f l ih =>
    have hstep : (if (d.frame f).pstate = 0 then d.modFrame f (fun y => { y with pstate := 1 }) else d).frame g =
        if g = f then (d.frame g).gated else d.frame g := by
      by_cases hg : g = f
      · subst hg
        rw [if_pos rfl, FrameSt.gated]
        split
        · exact Dev.modFrame_frame_self ..
        · rfl
      · rw [if_neg hg]
        split
        · exact Dev.modFrame_frame_ne _ _ hg
        · rfl
    refine (ih _).trans ?_
    rw [hstep]
    by_cases hg : g = f
    · simp [hg, FrameSt.gated_gated]
    · simp [hg]

theorem Dev.gateFrames_cores (d : Dev) (l : List Nat) : (d.gateFrames l).cores = d.cores :=
  foldl_keeps Dev.cores (fun e f => by split <;> rfl) l d

theorem Dev.gateFrames_mem (d : Dev) (l : List Nat) : (d.gateFrames l).mem = d.mem :=
  foldl_keeps Dev.mem (fun e f => by split <;> rfl) l d

/-- Settles O27: the fault of the first waiter, the timeout's context fault, and the frame that wakes or is gated. -/
theorem barrierFaultsAndFrameStates : Obligations.BarrierFaultsAndFrameStates := by
  intro s p c n f hp hf
  refine ⟨fun u r hrun hres hblk hfind hw => ?_, fun hrun hlate => ?_, fun hst => ?_, fun himg hhold => ?_⟩
  · have hcond : (s.dev.running p && (s.dev.part p).resident == some c &&
        (s.dev.partCores p).all (fun n => decide (256 ≤ (s.dev.core n).su.blkn))) = true := by
      simpa [hrun, hres] using hblk
    have hdead : s.dev.deadlock p c = s.dev.abort n u.uid ⟨0x0406, true, u.tid, u.pc, 0, false⟩ := by
      unfold Dev.deadlock
      rw [if_pos hcond, hfind]
      dsimp only
      rw [hw]
    refine ⟨_, onUnit_eq (decide_eq_true hp) _, ?_⟩
    rw [hdead]
    refine ⟨Dev.abort_mem .., (Dev.abort_aborts ..).1, Dev.abort_resetDue .., fun hfrec => ?_⟩
    rw [(Dev.abort_aborts ..).2.1 hfrec]
    rfl
  · have htime : s.dev.barrierTimeout p = s.dev.contextFault 0x0F01 p (((s.dev.part p).resident).getD 0) 0x1FF
        [frameMask (s.dev.lateFrames p), frameMask (s.dev.undrained p)] :=
      if_pos (by simp [hrun, hlate])
    refine ⟨_, onUnit_eq (decide_eq_true hp) _, ?_⟩
    rw [htime, Dev.contextFault_part_self]
    exact ⟨Dev.contextFault_mem .., rfl⟩
  · refine ⟨_, onUnit_eq (decide_eq_true hf) _, ?_⟩
    rw [if_pos hst, Dev.wakeFrame, if_pos (by simp [hst])]
    refine ⟨rfl, rfl, ?_, fun g hg => ?_, rfl⟩
    · exact congrArg FrameSt.pstate (Store.get_set_self ({} : FrameSt) s.dev.brd.frames f { s.dev.frame f with pstate := 0 })
    · exact Store.get_set_ne ({} : FrameSt) s.dev.brd.frames { s.dev.frame f with pstate := 0 } hg
  · refine ⟨_, onUnit_eq (decide_eq_true hp) _, ?_⟩
    dsimp only
    rw [if_pos (by simp [himg, hhold])]
    refine ⟨s.dev.gateFrames_cores _, s.dev.gateFrames_mem _, fun g hg hst => ?_, fun g hg => ?_⟩
    · refine (congrArg FrameSt.pstate ((s.dev.gateFrames_frame _ g).trans (if_pos hg))).trans ?_
      rw [FrameSt.gated, if_pos hst]
    · exact (s.dev.gateFrames_frame _ g).trans (if_neg hg)

end Sys2Proof.Machine
end

section
/-! SUPPORT. A packet that leaves at once, and what sending leaves of the channels and the peers (chapter 11). -/

namespace Sys2Proof.Machine
open Sys2Proof Sys2Proof.Machine.Claims

/-! ## Channels and peers -/

@[simp] theorem Dev.setSend_sendChan_self (d : Dev) (p i : Nat) (x : SendChan) : (d.setSend p i x).sendChan p i = some x :=
  Store.get_set_self (none : Option SendChan) d.fab.send (chanKey p i) (some x)
@[simp] theorem Dev.setRecv_recvChan_self (d : Dev) (p i : Nat) (x : RecvChan) : (d.setRecv p i x).recvChan p i = some x :=
  Store.get_set_self (none : Option RecvChan) d.fab.recv (chanKey p i) (some x)

/-- `e` is `d` after the network worked, with the channels and the peers as they were. -/
structure Dev.Carried (d e : Dev) : Prop where
  net : d.SameButNet e
  send : e.fab.send = d.fab.send
  recv : e.fab.recv = d.fab.recv
  peers : e.fab.peers = d.fab.peers

namespace Dev.Carried

section
variable {d e f : Dev}

theorem refl (d : Dev) : d.Carried d := ⟨.refl d, rfl, rfl, rfl⟩
theorem trans (h : d.Carried e) (k : e.Carried f) : d.Carried f :=
  ⟨h.net.trans k.net, k.send.trans h.send, k.recv.trans h.recv, k.peers.trans h.peers⟩
theorem of_ite {c : Prop} [Decidable c] (h : d.Carried e) (k : d.Carried f) : d.Carried (if c then e else f) := by
  split
  · exact h
  · exact k

variable (h : d.Carried e)
include h

theorem sendChan (p i : Nat) : e.sendChan p i = d.sendChan p i := by rw [Dev.sendChan, h.send, Dev.sendChan]
theorem recvChan (p i : Nat) : e.recvChan p i = d.recvChan p i := by rw [Dev.recvChan, h.recv, Dev.recvChan]
theorem peer (p r : Nat) : e.peer p r = d.peer p r := by rw [Dev.peer, Dev.peerKey, h.peers, h.net.brd, Dev.peer, Dev.peerKey]

end

section
variable (d : Dev)

theorem of_sent {e : Dev} (h : d.SameButSent e) (hn : d.SameButNet e) : d.Carried e := ⟨hn, h.sendChans, h.recv, h.peers⟩

theorem sendOn (k prio bytes : Nat) (t : Tx) : d.Carried (d.sendOn k prio bytes t) := of_sent d (d.sendOn_same ..) (.sendOn d ..)
theorem event (code part ctx lcore : Nat) (detail : List Nat) : d.Carried (d.event code part ctx lcore detail) :=
  of_sent d (d.event_same ..) (.event d ..)

theorem modNet (n : Nat) (f : Network → Network) : d.Carried (d.modNet n f) := by
  refine ⟨.modNet d n f, ?_, ?_, ?_⟩ <;> (unfold Dev.modNet; split <;> rfl)

theorem nextHop (net dst src : Nat) : d.Carried (d.nextHop net dst src).2 := by
  unfold Dev.nextHop
  split
  · exact .refl d
  · dsimp only
    split
    · exact .refl d
    · next a _ =>
      have hany : d.Carried (d.anyPort net).2 := ⟨.freshChoice d (((List.range 4).map (4 * net + ·)).filter (fun e => (d.port e).up)).length, rfl,
          rfl, rfl⟩
      revert hany
      rcases d.anyPort net with ⟨_ | e, d'⟩
      · exact id
      · exact fun hany => by
          dsimp only
          split
          · exact hany
          · exact hany.trans ((modNet _ ..).trans (sendOn _ ..))

theorem emitPkt (net pcp dst : Nat) (h : DataHdr) (payload : List Byte) : d.Carried (d.emitPkt net pcp dst h payload) := by
  unfold Dev.emitPkt
  dsimp only
  split
  · exact nextHop d ..
  · exact (nextHop d ..).trans ((modNet _ ..).trans (sendOn _ ..))

theorem acctChan (chan : Nat) (entry : List Nat) (net n : Nat) (tx : Bool) : d.Carried (d.acctChan chan entry net n tx) :=
  ⟨.acctChan d .., by unfold Dev.acctChan; split <;> rfl, by unfold Dev.acctChan; split <;> rfl, by unfold Dev.acctChan; split <;> rfl⟩

theorem transmit (p : Nat) (x : SendChan) (k : SentPkt) (rtx : Bool) : d.Carried (d.transmit p x k rtx) := by
  unfold Dev.transmit
  dsimp only
  have hsent := fun net pcp dst h pl chan entry n => (emitPkt d net pcp dst h pl).trans (acctChan _ chan entry net n true)
  exact .of_ite ((hsent ..).trans (modNet _ ..)) (hsent ..)

end

end Dev.Carried

/-! ## A packet that finds its port free leaves at once (R276 to R278, R295) -/

@[simp] theorem Dev.modNet_tx (d : Dev) (n : Nat) (f : Network → Network) : (d.modNet n f).tx = d.tx := by
  unfold Dev.modNet
  split <;> rfl

@[simp] theorem Dev.modNet_ports (d : Dev) (n : Nat) (f : Network → Network) : (d.modNet n f).fab.ports = d.fab.ports := by
  unfold Dev.modNet
  split <;> rfl

theorem Dev.sendOn_of_clear {d : Dev} {e prio : Nat} (h : (d.port e).clear prio = true) (bytes : Nat) (t : Tx) :
    d.sendOn e prio bytes t = d.leave e t := if_pos h

theorem Dev.emitPkt_of_clear {d : Dev} {net dst pcp : Nat} {h : DataHdr} (hc : pathClear d net dst h.chan pcp) (payload : List Byte) :
    ∃ o m ip, (d.emitPkt net pcp dst h payload).tx = d.tx ++ [.data net o m ip h payload] := by
  obtain ⟨o, ho, hclear⟩ := hc
  have hport : ((d.modNet net (netCnt 14 1)).port o.1).clear pcp = true := by
    rw [Dev.port, Dev.modNet_ports, ← Dev.port, hclear]
  refine ⟨o.1, some o.2, d.ipHdr net pcp dst, ?_⟩
  unfold Dev.emitPkt Dev.nextHop
  rw [ho]
  dsimp only
  rw [Dev.sendOn_of_clear hport, Dev.leave]
  exact congrArg (· ++ _) (d.modNet_tx ..)

@[simp] theorem Dev.acctChan_tx (d : Dev) (chan : Nat) (entry : List Nat) (net n : Nat) (tx : Bool) : (d.acctChan chan entry net n tx).tx = d.tx := by
  unfold Dev.acctChan
  split <;> rfl

theorem Dev.sealPkt_hdr (d : Dev) (p : Nat) (h : DataHdr) (pl : List Byte) :
    (d.sealPkt p h pl).1.seq = h.seq ∧ (d.sealPkt p h pl).1.rtx = h.rtx ∧ (d.sealPkt p h pl).1.chan = h.chan := by
  unfold Dev.sealPkt
  dsimp only
  split <;> exact ⟨rfl, rfl, rfl⟩

/-- The header of a packet as it goes out, before it is sealed. -/
def SentPkt.header (k : SentPkt) (rtx fov : Bool) : DataHdr := { k.hdr with seq := k.seq % 2 ^ 32, rtx := rtx, fov := fov }

/-- A transmission over a free path sends one packet of the channel's sequence (R284). -/
theorem Dev.transmit_of_clear {d : Dev} {p : Nat} {x : SendChan} {k : SentPkt}
    (hc : pathClear d (d.chanNet p x) (peerAddr d p x.peer (d.chanNet p x)) k.hdr.chan (clsPcp (ceCls x.entry) (d.chanNet p x != ceNet x.entry)))
    (rtx : Bool) : ∃ o m ip q bs, (d.transmit p x k rtx).tx = d.tx ++ [.data (d.chanNet p x) o m ip q bs] ∧ q.seq = k.seq % 2 ^ 32 ∧ q.rtx = rtx := by
  have hy := d.sealPkt_hdr p (k.header rtx (d.chanNet p x != ceNet x.entry)) k.payload
  have htransmit : d.transmit p x k rtx = (let y := d.sealPkt p (k.header rtx (d.chanNet p x != ceNet x.entry)) k.payload
      let e := (d.emitPkt (d.chanNet p x) (clsPcp (ceCls x.entry) (d.chanNet p x != ceNet x.entry)) (peerAddr d p x.peer (d.chanNet p x)) y.1 y.2).acctChan
        x.chan x.entry (d.chanNet p x) (d.frameBytes (d.chanNet p x) k.hdr.plen y.1.enc) true
      if rtx then e.modNet (d.chanNet p x) (netCnt 15 1) else e) := rfl
  rw [htransmit]
  generalize d.sealPkt p (k.header rtx (d.chanNet p x != ceNet x.entry)) k.payload = y at hy
  obtain ⟨hseq, hrtx, hchan⟩ := hy
  obtain ⟨o, m, ip, htx⟩ := Dev.emitPkt_of_clear (h := y.1) (show pathClear d _ _ y.1.chan _ from hchan ▸ hc) y.2
  refine ⟨o, m, ip, y.1, y.2, ?_, hseq, hrtx⟩
  dsimp only
  split
  · rw [Dev.modNet_tx, Dev.acctChan_tx, htx]
  · rw [Dev.acctChan_tx, htx]

end Sys2Proof.Machine
end

section
/-! SUPPORT. Acknowledgements, credit requests and path failure of a channel; and PROOF, channel timers (R284, R285, R288, R289). -/

namespace Sys2Proof.Machine
open Sys2Proof Sys2Proof.Machine.Claims

/-! ## Packets of a channel's own (R284, R288) -/

@[simp] theorem Dev.setRecv_tx (d : Dev) (p i : Nat) (x : RecvChan) : (d.setRecv p i x).tx = d.tx := rfl
@[simp] theorem Dev.setSend_tx (d : Dev) (p i : Nat) (x : SendChan) : (d.setSend p i x).tx = d.tx := rfl

@[simp] theorem Dev.modSend_tx (d : Dev) (p i : Nat) (f : SendChan → SendChan) : (d.modSend p i f).tx = d.tx := by
  unfold Dev.modSend
  split <;> rfl

@[simp] theorem Dev.modRecv_tx (d : Dev) (p i : Nat) (f : RecvChan → RecvChan) : (d.modRecv p i f).tx = d.tx := by
  unfold Dev.modRecv
  split <;> rfl

theorem Dev.modSend_of_some {d : Dev} {p i : Nat} {x : SendChan} (h : d.sendChan p i = some x) (f : SendChan → SendChan) :
    d.modSend p i f = d.setSend p i (f x) := by
  unfold Dev.modSend
  rw [h]

theorem Dev.modRecv_of_some {d : Dev} {p i : Nat} {x : RecvChan} (h : d.recvChan p i = some x) (f : RecvChan → RecvChan) :
    d.modRecv p i f = d.setRecv p i (f x) := by
  unfold Dev.modRecv
  rw [h]

/-- What an ACK of a channel leaves there: nothing is due any more. -/
def RecvChan.answered (x : RecvChan) : RecvChan := { x with grantDue := 0, unacked := 0, ceDue := false }

theorem Dev.sendAck_recvChan {d : Dev} {p i : Nat} {x : RecvChan} (h : d.recvChan p i = some x) (net : Nat) :
    (d.sendAck p i net).recvChan p i = some x.answered := by
  unfold Dev.sendAck
  rw [h]
  exact Dev.setRecv_recvChan_self ..

/-- Over a free path an ACK leaves at once, with NEXT and the grant that is due. -/
theorem Dev.sendAck_of_clear {d : Dev} {p i net : Nat} {x : RecvChan} (h : d.recvChan p i = some x)
    (hc : pathClear d net (peerAddr d p x.peer net) x.chan 7) :
    ∃ o m ip q, (d.sendAck p i net).tx = d.tx ++ [.data net o m ip q []] ∧ q.type = 0x10 ∧ q.ackseq = x.next % 2 ^ 32 ∧
      q.tsw0 = x.grantDue ∧ q.ece = x.ceDue := by
  unfold Dev.sendAck
  rw [h]
  dsimp only
  rw [Dev.setRecv_tx]
  obtain ⟨o, m, ip, htx⟩ := Dev.emitPkt_of_clear (h := { d.hdr p x.peer x.chan 0x10 (d.partStamp p).step (d.partStamp p).phase 0 with
      ackseq := x.next % 2 ^ 32, tsw0 := x.grantDue, ece := x.ceDue, fov := net != ceNet x.entry }) hc []
  exact ⟨o, m, ip, _, htx, rfl, rfl, rfl, rfl⟩

/-- Over a free path a NAK leaves at once. -/
theorem Dev.sendNak_of_clear {d : Dev} {p i net : Nat} {x : RecvChan} (h : d.recvChan p i = some x) (epw : Bool)
    (hc : pathClear d net (peerAddr d p x.peer net) x.chan 7) :
    ∃ o m ip q, (d.sendNak p i net epw).tx = d.tx ++ [.data net o m ip q []] ∧ q.type = 0x11 ∧ q.tsw0 = x.next % 2 ^ 32 ∧ q.epw = epw := by
  unfold Dev.sendNak
  rw [h]
  dsimp only
  rw [Dev.modNet_tx]
  obtain ⟨o, m, ip, htx⟩ := Dev.emitPkt_of_clear (h := { d.hdr p x.peer x.chan 0x11 (d.partStamp p).step (d.partStamp p).phase 0 with
      ackseq := x.next % 2 ^ 32, tsw0 := x.next % 2 ^ 32, epw := epw, fov := net != ceNet x.entry }) hc []
  exact ⟨o, m, ip, _, htx, rfl, rfl, rfl⟩

/-- Over a free path a CREDIT leaves at once, for the cells of the next packet. -/
theorem Dev.askCredit_of_clear {d : Dev} {p i : Nat} {x : SendChan} {k : SentPkt} {rest : List SentPkt} (h : d.sendChan p i = some x)
    (hw : x.waiting = k :: rest) (hc : pathClear d (d.chanNet p x) (peerAddr d p x.peer (d.chanNet p x)) x.chan 7) :
    ∃ o m ip q, (d.askCredit p i).tx = d.tx ++ [.data (d.chanNet p x) o m ip q []] ∧ q.type = 0x12 ∧ q.seq = x.seq % 2 ^ 32 ∧
      q.tsw0 = min 256 (cellsOf k.payload.length) := by
  unfold Dev.askCredit
  rw [h]
  dsimp only
  rw [hw]
  dsimp only
  rw [Dev.modSend_tx, Dev.modNet_tx]
  obtain ⟨o, m, ip, htx⟩ := Dev.emitPkt_of_clear (h := { d.hdr p x.peer x.chan 0x12 (d.partStamp p).step (d.partStamp p).phase 0 with
      seq := x.seq % 2 ^ 32, tsw0 := min 256 (cellsOf k.payload.length), fov := d.chanNet p x != ceNet x.entry }) hc []
  exact ⟨o, m, ip, _, htx, rfl, rfl, rfl⟩

/-! ## Another transmission (R284) -/

/-- A packet of a channel whose entry in the table is replaced first: it leaves, and the channel stays as replaced. -/
theorem Dev.setSend_transmit {d : Dev} {p i : Nat} {x y : SendChan} {k : SentPkt} (hp : y.peer = x.peer) (he : y.entry = x.entry)
    (hc : pathClear d (d.chanNet p x) (peerAddr d p x.peer (d.chanNet p x)) k.hdr.chan (clsPcp (ceCls x.entry) (d.chanNet p x != ceNet x.entry))) :
    ((d.setSend p i y).transmit p y k true).mem = d.mem ∧ ((d.setSend p i y).transmit p y k true).sendChan p i = some y ∧
    ∃ o m ip q bs, ((d.setSend p i y).transmit p y k true).tx = d.tx ++ [.data (d.chanNet p x) o m ip q bs] ∧
      q.seq = k.seq % 2 ^ 32 ∧ q.rtx = true := by
  have hcarried := Dev.Carried.transmit (d.setSend p i y) p y k true
  have hnet : (d.setSend p i y).chanNet p y = d.chanNet p x := by
    rw [Dev.chanNet, hp, he]
    rfl
  refine ⟨hcarried.net.mem, (hcarried.sendChan p i).trans (d.setSend_sendChan_self p i y), ?_⟩
  rw [← hnet] at hc ⊢
  exact Dev.transmit_of_clear (d := d.setSend p i y) (x := y) (by rw [hp, he]; exact hc) true

theorem Dev.retransmit_of_lt {d : Dev} {p i : Nat} {x : SendChan} {k : SentPkt} (timer : Bool) (h : k.tries < (d.net (d.chanNet p x)).rmax) :
    d.retransmit p i x k timer =
      (d.setSend p i { x with sent := x.sent.map (fun q => if q.seq = k.seq then
        { k with tries := k.tries + 1, mul := if timer then min 8 (2 * k.mul) else k.mul } else q) }).transmit p
      { x with sent := x.sent.map (fun q => if q.seq = k.seq then
        { k with tries := k.tries + 1, mul := if timer then min 8 (2 * k.mul) else k.mul } else q) }
      { k with tries := k.tries + 1, mul := if timer then min 8 (2 * k.mul) else k.mul } true := by
  rw [Dev.retransmit, if_neg (by omega)]

theorem Dev.retransmit_of_le {d : Dev} {p i : Nat} {x : SendChan} {k : SentPkt} (timer : Bool) (h : (d.net (d.chanNet p x)).rmax ≤ k.tries) :
    d.retransmit p i x k timer = d.pathFailed p i := if_pos h

/-! ## A path that has failed (R284, R299, R351) -/

/-- The channel marked as failed, counted. -/
def Dev.channelFails (d : Dev) (p i : Nat) (x : SendChan) : Dev :=
  (d.setSend p i { x with failed := true }).modNet (d.chanNet p x) (netCnt 24 1)

theorem Dev.channelFails_carried (d : Dev) (p i : Nat) (x : SendChan) : (d.setSend p i { x with failed := true }).Carried (d.channelFails p i x) :=
  .modNet ..

section
variable {d : Dev} {p i : Nat} {x : SendChan} (h : d.sendChan p i = some x) (hf : x.failed = false)
include h hf

/-- A channel that cannot move fails. -/
theorem Dev.pathFailed_of_stays (hm : ceNet x.entry = 1 ∨ d.canFail p x.peer = false) :
    d.pathFailed p i = if x.chan < 4064 then (d.channelFails p i x).contextFault 0x0804 p (ceCtx x.entry) 0x1FF []
      else if ((((d.channelFails p i x).event 0x0804 p 0 0x1FF []).part p).others.contains x.peer && x.chan != 4067) then
        ((d.channelFails p i x).event 0x0804 p 0 0x1FF []).abandonBase p
      else (d.channelFails p i x).event 0x0804 p 0 0x1FF [] := by
  have hm' : (decide (ceNet x.entry = 0) && d.canFail p x.peer) = false := by
    rcases hm with hm | hm
    · rw [hm]; rfl
    · rw [hm, Bool.and_false]
  unfold Dev.pathFailed
  rw [h]
  dsimp only
  simp only [hf, hm', Bool.false_and, Bool.false_eq_true, if_false]
  rw [Dev.modSend_of_some h]
  rfl

/-- A channel that may move does, with its peer's other channels. -/
theorem Dev.pathFailed_of_moves (h0 : ceNet x.entry = 0) (hc : d.canFail p x.peer = true) (hv : ceFovok x.entry = true) :
    d.pathFailed p i = d.failover p x.peer := by
  unfold Dev.pathFailed
  rw [h]
  dsimp only
  simp [hf, h0, hc, hv]

end

/-- A peer that can fail over stands in the peer table. -/
theorem Dev.peerKey_of_canFail {d : Dev} {p r : Nat} (h : d.canFail p r = true) : ∃ k, d.peerKey p r = some k := by
  rcases hk : d.peerKey p r with _ | k
  · simp [Dev.canFail, Dev.peer, hk] at h
  · exact ⟨k, rfl⟩

theorem Dev.peer_of_peerKey {d : Dev} {p r k : Nat} (h : d.peerKey p r = some k) : d.peer p r = Store.get {} d.fab.peers k := by
  unfold Dev.peer
  rw [h]

/-- A failover repeats packets, which moves no peer. -/
theorem Dev.failover_peers {d : Dev} {p r k : Nat} (h : d.peerKey p r = some k) :
    (d.failover p r).fab.peers = Store.modify {} d.fab.peers k (fun x => { x with onb := true, heardA := false }) := by
  have hfold (l : List (Nat × Option SendChan)) (e : Dev) (g : Dev → Nat × Option SendChan → Dev)
      (hg : ∀ e y, (g e y).fab.peers = e.fab.peers) : (l.foldl g e).fab.peers = e.fab.peers := by
    induction l generalizing e with
    | nil => rfl
    | cons y l ih => exact (ih _).trans (hg e y)
  unfold Dev.failover
  rw [h]
  dsimp only
  refine (hfold _ _ _ fun e y => ?_).trans ?_
  · split
    · split
      · next z _ _ =>
        have hk (l : List SentPkt) (x : SendChan) (e : Dev) : (l.foldl (fun d k => d.transmit p x k true) e).fab.peers = e.fab.peers := by
          induction l generalizing e with
          | nil => rfl
          | cons k l ih => exact (ih _).trans (Dev.Carried.transmit e p x k true).peers
        exact hk ..
      · rfl
    · rfl
  · exact (Dev.Carried.modNet ..).peers.trans (Dev.Carried.event ..).peers

theorem Dev.failover_peer {d : Dev} {p r k : Nat} (h : d.peerKey p r = some k) :
    (d.failover p r).peer p r = { d.peer p r with onb := true, heardA := false } := by
  have hbrd : (d.failover p r).peerKey p r = d.peerKey p r := by
    unfold Dev.peerKey
    rw [(Dev.SameButNet.failover d p r).brd]
  rw [Dev.peer_of_peerKey (hbrd.trans h), Dev.failover_peers h, Dev.peer_of_peerKey h, Store.modify, Store.get_set_self]

/-! ## The timers -/

section
variable {s : State} {p i seq : Nat} {x : SendChan} {k : SentPkt}

theorem exec_rtoExpiry (hp : p < nParts) : exec (.rtoExpiry p ⟨i, seq⟩) s = .next { s with dev := s.dev.rtoExpiry p i seq } :=
  onUnit_eq (decide_eq_true hp) _

theorem Dev.rtoExpiry_of_sent {d : Dev} (hx : d.sendChan p i = some x) (hk : x.sent.find? (fun k => k.seq % 2 ^ 32 == seq % 2 ^ 32) = some k)
    (hf : x.failed = false) : d.rtoExpiry p i seq = if x.epwSeen then
      (d.setSend p i { x with epwSeen := false }).transmit p { x with epwSeen := false } k true else d.retransmit p i x k true := by
  unfold Dev.rtoExpiry
  rw [hx]
  dsimp only
  rw [hk]
  dsimp only
  rw [if_neg (by simp [hf])]

end

/-- Settles O39: each timer sends its packet over the free path, and a path that has failed takes the branch that its channel allows. -/
theorem channelTimersRepeatOrFail : Obligations.ChannelTimersRepeatOrFail := by
  unfold Obligations.ChannelTimersRepeatOrFail
  intro s p i seq hp
  refine ⟨fun x hx hu hc => ?_, fun x k hx hk hf => ?_, fun x k rest hx hw ha hc => ?_, fun x hx => ?_⟩
  · obtain ⟨o, m, ip, q, htx, hq⟩ := Dev.sendAck_of_clear hx hc
    have hrun : exec (.ackTimer p i) s = .next { s with dev := s.dev.sendAck p i x.arr } := by
      refine (onUnit_eq (decide_eq_true hp) _).trans ?_
      rw [hx]
      dsimp only
      rw [if_neg hu]
    obtain ⟨htype, hack, hgrant, hece⟩ := hq
    exact ⟨_, o, m, ip, q, hrun, ⟨rfl, rfl⟩, (Dev.SameButNet.sendAck ..).mem, htx, htype, hack, hgrant, hece, Dev.sendAck_recvChan hx _⟩
  · have hrto := Dev.rtoExpiry_of_sent hx hk hf
    dsimp only
    refine ⟨fun he ht hc => ?_, fun he hc => ?_, fun he ht hm => ?_, fun he ht h0 hcan hv => ?_⟩
    · rw [he, if_neg Bool.false_ne_true, Dev.retransmit_of_lt true ht] at hrto
      obtain ⟨hmem, hsend, o, m, ip, q, bs, htx, hseq, hrtx⟩ := Dev.setSend_transmit (i := i) (x := x)
        (y := { x with sent := x.sent.map (fun q => if q.seq = k.seq then
          { k with tries := k.tries + 1, mul := if true then min 8 (2 * k.mul) else k.mul } else q) })
        (k := { k with tries := k.tries + 1, mul := if true then min 8 (2 * k.mul) else k.mul }) rfl rfl hc
      rw [← hrto] at hmem hsend htx
      exact ⟨_, o, m, ip, q, bs, exec_rtoExpiry hp, ⟨rfl, rfl⟩, hmem, htx, hseq, hrtx, hsend⟩
    · rw [he, if_pos rfl] at hrto
      obtain ⟨hmem, hsend, o, m, ip, q, bs, htx, hseq, hrtx⟩ := Dev.setSend_transmit (i := i) (x := x)
        (y := { x with epwSeen := false }) (k := k) rfl rfl hc
      rw [← hrto] at hmem hsend htx
      exact ⟨_, o, m, ip, q, bs, exec_rtoExpiry hp, ⟨rfl, rfl⟩, hmem, htx, hseq, hrtx, hsend⟩
    · rw [he, if_neg Bool.false_ne_true, Dev.retransmit_of_le true ht, Dev.pathFailed_of_stays hx hf hm] at hrto
      have hfails := s.dev.channelFails_carried p i x
      have hsend : (s.dev.channelFails p i x).sendChan p i = some { x with failed := true } :=
        (hfails.sendChan p i).trans (Dev.setSend_sendChan_self ..)
      refine ⟨fun hn => ?_, fun hn => ?_⟩
      · rw [if_pos hn] at hrto
        refine ⟨_, exec_rtoExpiry hp, ⟨rfl, rfl⟩, ?_, ?_, ?_⟩ <;> dsimp only <;> rw [hrto]
        · exact (Dev.contextFault_mem ..).trans hfails.net.mem
        · rw [Dev.sendChan, Dev.contextFault_sendChans, ← Dev.sendChan, hsend]
        · rw [Dev.contextFault_part_self]
      · rw [if_neg (by omega), if_neg (by simp [hn])] at hrto
        refine ⟨_, exec_rtoExpiry hp, ⟨rfl, rfl⟩, ?_, ?_, ?_⟩ <;> dsimp only <;> rw [hrto]
        · exact (Dev.event_mem ..).trans hfails.net.mem
        · rw [((Dev.Carried.event ..).sendChan p i), hsend]
        · exact (Dev.SameButNet.event ..).parts.trans hfails.net.parts
    · rw [he, if_neg Bool.false_ne_true, Dev.retransmit_of_le true ht, Dev.pathFailed_of_moves hx hf h0 hcan hv] at hrto
      obtain ⟨j, hj⟩ := Dev.peerKey_of_canFail hcan
      have hnet := Dev.SameButNet.failover s.dev p x.peer
      refine ⟨_, exec_rtoExpiry hp, ⟨rfl, rfl⟩, ?_, ?_, ?_⟩ <;> dsimp only <;> rw [hrto]
      · exact hnet.mem
      · exact hnet.parts
      · rw [Dev.failover_peer hj]
  · obtain ⟨o, m, ip, q, htx, hq⟩ := Dev.askCredit_of_clear hx hw hc
    have hrun : exec (.creditRetry p i) s = .next { s with dev := s.dev.askCredit p i } := by
      refine (onUnit_eq (decide_eq_true hp) _).trans ?_
      rw [hx]
      dsimp only
      rw [if_pos ha]
    exact ⟨_, o, m, ip, q, hrun, ⟨rfl, rfl⟩, (Dev.SameButNet.askCredit ..).mem, htx, hq⟩
  · refine ⟨_, onUnit_eq (decide_eq_true hp) _, ⟨rfl, rfl⟩, ?_, ?_⟩ <;> dsimp only <;> rw [hx]
    · rfl
    · exact Dev.setSend_sendChan_self ..

end Sys2Proof.Machine
end

section
/-! SUPPORT. An event's frames touch only the ports' counters; and PROOF, discovery, links and the wall clock (R273, R297 to R300, R416). -/

namespace Sys2Proof.Machine
open Sys2Proof Sys2Proof.Machine.Claims

/-! ## What an event leaves of the ports -/

/-- Every port of `e` is that of `d` but for its counters. -/
def Dev.CountedPorts (d e : Dev) : Prop := ∀ o, { e.port o with cnt := (d.port o).cnt } = d.port o

namespace Dev.CountedPorts

theorem refl (d : Dev) : d.CountedPorts d := fun _ => rfl

theorem trans {d e f : Dev} (h : d.CountedPorts e) (k : e.CountedPorts f) : d.CountedPorts f := fun o => by
  have hk := congrArg (fun x : Port => { x with cnt := (d.port o).cnt }) (k o)
  exact hk.trans (h o)

theorem of_ports {d e : Dev} (h : e.fab.ports = d.fab.ports) : d.CountedPorts e := fun o => by
  rw [Dev.port, h, Dev.port]

variable (d : Dev)

theorem portCnt (k i : Nat) : d.CountedPorts (d.portCnt k i) := fun o => by
  by_cases ho : o = k
  · rw [ho, Dev.portCnt, Dev.modPort_port_self]
  · rw [Dev.portCnt, Dev.modPort_port_ne d _ ho]

theorem leave (k : Nat) (t : Tx) : d.CountedPorts (d.leave k t) := (portCnt d k 7).trans (of_ports rfl)

theorem sendCmd (dst : Nat) (t : Tx) : d.CountedPorts (d.sendCmd dst t) := by
  unfold Dev.sendCmd
  split
  · exact leave d _ t
  · exact of_ports rfl

theorem emit (ch : Nat) (r : Raise) : d.CountedPorts (d.emit ch r) := by
  unfold Dev.emit
  dsimp only
  split
  · exact (of_ports rfl : d.CountedPorts (d.modChan ch _)).trans (sendCmd _ _ _)
  · exact of_ports rfl

theorem event (code part ctx lcore : Nat) (detail : List Nat) : d.CountedPorts (d.event code part ctx lcore detail) := by
  unfold Dev.event Dev.raise
  split
  · exact of_ports rfl
  · exact (of_ports rfl : d.CountedPorts (d.record _)).trans (emit _ _ _)

end Dev.CountedPorts

/-! ## Own frames (R277) -/

/-- The one own frame of a port with nothing else to send, of the highest priority, leaves. -/
theorem Dev.serveOwn_single {d : Dev} {e : Nat} {l : LocalFrame} (hup : (d.port e).up = true) (hown : (d.port e).own = [l])
    (htr : (d.port e).transit = []) (hpa : (d.port e).paused = []) (hprio : l.prio = 7) :
    ((d.serveOwn 1 e).port e).own = [] ∧ l.tx ∈ (d.serveOwn 1 e).tx := by
  have hhead : (d.port e).headOf 7 = some (true, l.bytes) := by simp [Port.headOf, hown, htr, hpa, hprio]
  have hpick : (d.port e).pick (e / 4) = (some 7, d.port e) := by simp [Port.pick, hhead]
  have hrun : d.serveOwn 1 e = (d.modPort e (fun _ => { (d.port e).swap 7 true with own := [l].erase l })).leave e l.tx := by
    unfold Dev.serveOwn
    dsimp only
    simp [hup, hpick, hhead, hown, hprio, Dev.serveOwn]
  rw [hrun, Dev.leave]
  refine ⟨?_, List.mem_append_right _ (List.mem_singleton_self _)⟩
  change (((d.modPort e _).portCnt e 7).port e).own = []
  rw [Dev.portCnt, Dev.modPort_port_self, Dev.modPort_port_self]
  exact List.erase_cons_head ..

theorem Dev.serveOwn_port_ne {d : Dev} {e o : Nat} (h : o ≠ e) (n : Nat) : (d.serveOwn n e).port o = d.port o := by
  induction n generalizing d with
  | zero => rfl
  | succ n ih =>
    unfold Dev.serveOwn
    dsimp only
    split
    · rfl
    · split
      · refine ih.trans ?_
        change (((d.modPort e _).portCnt e 7).port o) = _
        rw [Dev.portCnt, Dev.modPort_port_ne _ _ h, Dev.modPort_port_ne _ _ h]
      · rfl

/-! ## Discovery (R297, R298) -/

theorem Store.get_map {α : Type} (d : α) (f : α → α) (hd : f d = d) (m : Store α) (k : Nat) :
    Store.get d (m.map (fun x => (x.1, f x.2))) k = f (Store.get d m k) := by
  induction m with
  | nil => exact hd.symm
  | cons x m ih =>
    rw [List.map_cons]
    unfold Store.get
    split
    · rfl
    · exact ih

/-- The announcement is of this peer: its serial number or its address on the network matches (R298). -/
def Peer.announcedBy (q : Peer) (net src ser : Nat) : Bool :=
  q.valid && ((q.serial != 0 && q.serial == ser) || (src != 0 && (if net = 0 then q.addrA else q.addrB) == src))

/-- What an announcement makes of a peer (R298). -/
def Peer.hear (q : Peer) (net src ser : Nat) : Peer :=
  if q.announcedBy net src ser then { q with state := 1, miss := 0, serial := ser, heard := true, heardA := q.heardA || net == 0 } else q

theorem Dev.announce_peer (d : Dev) (net src j : Nat) (pl : List Byte) :
    Store.get {} (d.announce net src pl).fab.peers j = (Store.get {} d.fab.peers j).hear net src (leAt pl 0 8) := by
  have hpeers : (d.announce net src pl).fab.peers = d.fab.peers.map (fun x => (x.1, x.2.hear net src (leAt pl 0 8))) := by
    change (d.modNet net (netCnt 13 1)).fab.peers.map _ = _
    rw [(Dev.Carried.modNet d net _).peers]
    refine List.map_congr_left fun x _ => ?_
    unfold Peer.hear
    rw [apply_ite (Prod.mk x.1)]
    rfl
  rw [hpeers, Store.get_map ({} : Peer) (fun q => q.hear net src (leAt pl 0 8)) rfl]

theorem Peer.hear_of_announcedBy {q : Peer} {net src ser : Nat} (h : q.announcedBy net src ser = true) :
    (q.hear net src ser).state = 1 ∧ (q.hear net src ser).miss = 0 ∧ (q.hear net src ser).serial = ser := by
  rw [Peer.hear, if_pos h]
  exact ⟨rfl, rfl, rfl⟩

theorem Dev.announcePayload_length (nv : NonVol) (d : Dev) : (d.announcePayload nv).length = 64 := by
  have hmemb : ((List.range nParts).map (fun p =>
      toLe 4 (if (d.part p).image.isSome then (d.part p).swid * 65536 + (d.part p).rank else 0))).flatten.length = 16 := by
    rw [List.length_flatten, List.map_map, List.map_congr_left (g := fun _ => 4) fun p _ => by rw [Function.comp_apply, toLe_length]]
    rfl
  unfold Dev.announcePayload
  simp only [List.length_append, toLe_length, addrWords, hmemb]

theorem Dev.portCnt_clear (d : Dev) (e i prio : Nat) : ((d.portCnt e i).port e).clear prio = (d.port e).clear prio := by
  rw [Dev.portCnt, Dev.modPort_port_self]
  rfl

/-- The module's LLDP and ANNOUNCE leave a port at once (R297). -/
def Dev.greet (d : Dev) (nv : NonVol) (e : Nat) : Dev :=
  (d.leave e (.lldp e Config.serial.toNat (d.net (e / 4)).addr)).leave e
    (.announce e (d.ipHdr (e / 4) 7 (announceGroup (e / 4))) (d.announcePayload nv))

theorem Dev.sayHello_of_clear {d : Dev} {e : Nat} (nv : NonVol) (h : (d.port e).clear 7 = true) : d.sayHello nv e = d.greet nv e := by
  unfold Dev.sayHello Dev.greet
  rw [Dev.sendOn_of_clear h, Dev.sendOn_of_clear]
  exact (d.portCnt_clear e 7 7).trans h

/-- Two frames leave: the frames and the ports' counters change. -/
theorem Dev.leave_leave_apart (d : Dev) (e : Nat) (t u : Tx) :
    { (d.leave e t).leave e u with tx := d.tx, fab := { ((d.leave e t).leave e u).fab with ports := d.fab.ports } } = d := by
  have hleave (d : Dev) (t : Tx) : ∃ ports, d.leave e t = { d with tx := d.tx ++ [t], fab := { d.fab with ports := ports } } := ⟨_, rfl⟩
  obtain ⟨ports, h⟩ := hleave d t
  obtain ⟨ports', h'⟩ := hleave (d.leave e t) u
  rw [h', h]

theorem portCounter_portCnt (d : Dev) (e i : Nat) : portCounter (d.portCnt e i) e i = portCounter d e i + 1#32 := by
  unfold portCounter Dev.portCnt
  rw [Dev.modPort_port_self]
  exact Store.get_set_self ..

theorem Port.up_of_clear {x : Port} {q : Nat} (h : x.clear q = true) : x.up = true := by
  simp only [Port.clear, Bool.and_eq_true] at h
  exact h.1.1.1

theorem Dev.modPeer_peer (d : Dev) (k : Nat) (f : Peer → Peer) :
    Store.get {} (d.modPeer k f).fab.peers k = f (Store.get {} d.fab.peers k) := Store.get_set_self ({} : Peer) d.fab.peers k (f (Store.get {} d.fab.peers k))

/-- The peer after a second without an announcement (R298). -/
def Peer.missed (q : Peer) : Peer := { q with miss := min 255 (q.miss + 1), state := if q.miss + 1 = 3 then 3 else q.state }

theorem peersAreAnnouncedMissedAndReturned : PeersAreAnnouncedMissedAndReturned := by
  intro s net src e k p r pl hnet he hk hp
  refine ⟨fun hpl j => ?_, fun hc hs => ?_, ?_, fun j hj hb ha hsend hup => ?_⟩
  · have hrun : exec (.announceReceive net src pl) s = .next { s with dev := s.dev.announce net src pl } := by
      refine (onUnit_eq (decide_eq_true hnet) _).trans ?_
      rw [if_pos hpl]
    refine ⟨_, hrun, ⟨rfl, rfl⟩, Dev.modNet_mem .., fun hv hm => ?_, fun hv => ?_⟩ <;> dsimp only <;> rw [Dev.announce_peer]
    · refine Peer.hear_of_announcedBy ?_
      unfold Peer.announcedBy
      rw [hv, Bool.true_and, Bool.or_eq_true, Bool.and_eq_true, Bool.and_eq_true, bne_iff_ne, bne_iff_ne, beq_iff_eq, beq_iff_eq]
      exact hm
    · rw [Peer.hear, Peer.announcedBy, hv]
      rfl
  · have hrun : exec (.announceTimer e) s = .next { s with dev := s.dev.greet s.nv e } := by
      refine (onUnit_eq (decide_eq_true he) _).trans ?_
      rw [if_pos (by rw [Port.up_of_clear hc, hs]; rfl), Dev.sayHello_of_clear s.nv hc]
    refine ⟨_, hrun, ⟨rfl, rfl⟩, Dev.leave_leave_apart .., List.append_assoc .., fun o ho => ?_, ?_, Dev.announcePayload_length ..⟩
    · change (((s.dev.portCnt e 7).send _).portCnt e 7).port o = _
      rw [Dev.portCnt, Dev.modPort_port_ne _ _ ho]
      change (s.dev.portCnt e 7).port o = _
      rw [Dev.portCnt, Dev.modPort_port_ne _ _ ho]
    · change portCounter (((s.dev.portCnt e 7).send _).portCnt e 7) e 7 = _
      rw [portCounter_portCnt]
      change portCounter (s.dev.portCnt e 7) e 7 + 1#32 = _
      rw [portCounter_portCnt, BitVec.add_assoc]
      rfl
  · have hrun := onUnit_eq (s := s) (decide_eq_true hk)
    dsimp only
    refine fun hv => ⟨fun hh => ⟨_, hrun _, ⟨rfl, rfl⟩, ?_⟩, fun hh => ⟨_, hrun _, ⟨rfl, rfl⟩, ?_, ?_⟩⟩ <;> dsimp only <;>
      rw [if_neg (by simp [hv])]
    · rw [if_pos hh, Dev.modPeer_peer]
    · rw [if_neg (by simp [hh])]
      split
      · exact Dev.event_mem ..
      · rfl
    · rw [if_neg (by simp [hh])]
      refine Eq.trans ?_ (s.dev.modPeer_peer k Peer.missed)
      split
      · rw [(Dev.Carried.event ..).peers]
        rfl
      · rfl
  · have hback : s.dev.failback p r = (s.dev.modPeer j (fun x => { x with onb := false })).event 0x0809 p 0 0x1FF [] := by
      unfold Dev.failback
      rw [hj]
      dsimp only
      rw [hsend, hb, ha, hup]
      rfl
    refine ⟨_, onUnit_eq (decide_eq_true hp) _, ⟨rfl, rfl⟩, ?_, ?_⟩ <;> dsimp only <;> rw [hback]
    · exact Dev.event_mem ..
    · rw [(Dev.Carried.event ..).peer, Dev.peer_of_peerKey hj]
      exact Dev.peer_of_peerKey (d := s.dev.modPeer j (fun x => { x with onb := false })) (p := p) (r := r) hj ▸ Dev.modPeer_peer ..

/-! ## Links and the wall clock (R273, R299, R416) -/

/-- The port with link. -/
def Port.linked (x : Port) : Port := { x with up := true, lock := true, andn := x.media == 1 }
/-- The port without link. -/
def Port.unlinked (x : Port) : Port := { x with up := false, lock := false, andn := false }

theorem Dev.portUp_of_down {d : Dev} {e : Nat} (hup : (d.port e).up = false) (hen : (d.port e).en = true) (hdead : (d.port e).dead = false)
    (hm : (d.port e).media ≠ 0) : d.portUp e = (let f := (d.modPort e Port.linked).event 0x0802 0 0 0x1FF []
      f.serveOwn ((f.port e).own.length) e) := by
  unfold Dev.portUp
  dsimp only
  simp only [hup, hen, hdead, hm, Bool.not_true, Bool.false_or, decide_false, Bool.or_self, Bool.false_eq_true, if_false]
  rfl

theorem Dev.linkLost_of_up {d : Dev} {e : Nat} (hup : (d.port e).up = true) :
    d.linkLost e = (let f := (d.modPort e Port.unlinked).event 0x0801 0 0 0x1FF []
      if 4 ≤ e then f else f.judgePaths) := by
  unfold Dev.linkLost
  rw [if_neg (by simp [hup])]
  rfl

/-- An event after a port changed: apart from counters only that port differs. -/
theorem Dev.modPort_event_counted (d : Dev) (e : Nat) (g : Port → Port) (code : Nat) :
    let f := (d.modPort e g).event code 0 0 0x1FF []
    { f.port e with cnt := (g (d.port e)).cnt } = g (d.port e) ∧ ∀ o, o ≠ e → { f.port o with cnt := (d.port o).cnt } = d.port o := by
  have h := Dev.CountedPorts.event (d.modPort e g) code 0 0 0x1FF []
  refine ⟨?_, fun o ho => ?_⟩
  · have he := h e
    rwa [Dev.modPort_port_self] at he
  · have ho' := h o
    rwa [Dev.modPort_port_ne d g ho] at ho'

theorem linksComeAndGo : LinksComeAndGo := by
  intro s e m ns y he
  refine ⟨fun hup hen hdead hm => ?_, fun hup h4 => ?_, fun r q w hup h4 hp hpeers hsend hv hb haddr hfov hroute hdown => ?_,
    fun hen hm h4 => ?_, fun h => ?_⟩
  · obtain ⟨hself, hother⟩ := s.dev.modPort_event_counted e Port.linked 0x0802
    have hnet : s.dev.mem = ((s.dev.modPort e Port.linked).event 0x0802 0 0 0x1FF []).mem :=
      (Dev.event_mem (s.dev.modPort e _) _ _ _ _ _).symm
    have hrun : exec (.linkUp e) s = .next { s with dev := s.dev.portUp e } := onUnit_eq (decide_eq_true he) _
    rw [Dev.portUp_of_down hup hen hdead hm] at hrun
    refine ⟨_, hrun, ⟨rfl, rfl⟩, ?_⟩
    dsimp only
    rw [hnet]
    clear hrun hnet
    generalize (s.dev.modPort e Port.linked).event 0x0802 0 0 0x1FF [] = f at hself hother
    have hown : (f.port e).own = (s.dev.port e).own := (congrArg Port.own hself :)
    have htr : (f.port e).transit = (s.dev.port e).transit := (congrArg Port.transit hself :)
    have hpa : (f.port e).paused = (s.dev.port e).paused := (congrArg Port.paused hself :)
    have hfup : (f.port e).up = true := (congrArg Port.up hself :)
    have hserve := Dev.SameButNet.serveOwn f (f.port e).own.length e
    refine ⟨hserve.mem, fun hn => ?_, fun l hl ht hp hprio => ?_, (hserve.up e).trans hfup, fun o ho => ?_⟩
    · rw [show (f.port e).own.length = 0 by rw [hown, hn]; rfl, Dev.serveOwn]
      exact hself
    · rw [hown, hl]
      exact Dev.serveOwn_single hfup (hown.trans hl) (htr.trans ht) (hpa.trans hp) hprio
    · rw [Dev.serveOwn_port_ne ho]
      exact hother o ho
  · obtain ⟨hself, hother⟩ := s.dev.modPort_event_counted e Port.unlinked 0x0801
    have hrun : exec (.linkDown e) s = .next { s with dev := s.dev.linkLost e } := onUnit_eq (decide_eq_true he) _
    rw [Dev.linkLost_of_up hup, if_pos h4] at hrun
    exact ⟨_, hrun, ⟨rfl, rfl⟩, Dev.event_mem .., (Dev.Carried.event ..).peers, hself, hother⟩
  · obtain ⟨hself, hother⟩ := s.dev.modPort_event_counted e Port.unlinked 0x0801
    have hnet : s.dev.mem = ((s.dev.modPort e Port.unlinked).event 0x0801 0 0 0x1FF []).mem :=
      (Dev.event_mem (s.dev.modPort e _) _ _ _ _ _).symm
    have hcarried := Dev.Carried.event (s.dev.modPort e Port.unlinked) 0x0801 0 0 0x1FF []
    have hsent := Dev.event_same (s.dev.modPort e Port.unlinked) 0x0801 0 0 0x1FF []
    have hrun : exec (.linkDown e) s = .next { s with dev := s.dev.linkLost e } := onUnit_eq (decide_eq_true he) _
    rw [Dev.linkLost_of_up hup, if_neg (by omega)] at hrun
    refine ⟨_, hrun, ⟨rfl, rfl⟩, ?_⟩
    dsimp only
    rw [hnet]
    clear hrun hnet
    have hfpeers : ((s.dev.modPort e Port.unlinked).event 0x0801 0 0 0x1FF []).fab.peers = [(r, q)] := hcarried.peers.trans hpeers
    have hfbrd : ((s.dev.modPort e Port.unlinked).event 0x0801 0 0 0x1FF []).brd.pcfgMode = false := by rw [hcarried.net.brd]; exact hp
    have hfroute : ((s.dev.modPort e Port.unlinked).event 0x0801 0 0 0x1FF []).route 0 q.addrA = some w :=
      (hsent.congr (fun d => d.route 0 q.addrA) fun _ _ _ _ _ => rfl).trans hroute
    have hffov : ((s.dev.modPort e Port.unlinked).event 0x0801 0 0 0x1FF []).fab.netA.fov = true :=
      (hsent.congr (fun d => d.fab.netA.fov) fun _ _ _ _ _ => rfl).trans hfov
    generalize (s.dev.modPort e Port.unlinked).event 0x0801 0 0 0x1FF [] = f at hself hother hfpeers hfbrd hfroute hffov
    have hfup : (f.port e).up = false := (congrArg Port.up hself :)
    have hkey : f.peerKey 0 r = some r := by simp [Dev.peerKey, hfbrd]
    have hget : Store.get {} f.fab.peers r = q := by
      rw [hfpeers]
      exact if_pos rfl
    have hpeer : f.peer 0 r = q := (Dev.peer_of_peerKey hkey).trans hget
    have hpath : f.pathDown q.addrA = true := by
      simp only [Dev.pathDown, hfroute, Bool.not_eq_true', List.any_eq_false, Bool.and_eq_true, not_and, Bool.not_eq_true]
      intro o ho hbit
      by_cases hoe : o = e
      · rw [hoe, hfup]
      · exact (congrArg Port.up (hother o hoe) :).trans (hdown o (List.mem_range.1 ho) hoe hbit)
    have hcan : f.canFail 0 r = true := by simp [Dev.canFail, hffov, hpeer, hb, haddr]
    have hjudge : f.judgePaths = f.failover 0 r := by
      unfold Dev.judgePaths
      rw [hfpeers]
      simp only [List.map_cons, List.map_nil, List.foldl_cons, List.foldl_nil, hfbrd, Bool.false_eq_true, if_false]
      rw [hget, hv, hpath, hcan]
      rfl
    have hover := Dev.SameButNet.failover f 0 r
    rw [hjudge]
    refine ⟨hover.mem, (hover.up e).trans hfup, ?_⟩
    rw [Dev.failover_peers hkey, Store.modify, Store.get_set_self, hget]
  · refine ⟨_, onUnit_eq (decide_eq_true he) _, ⟨rfl, rfl⟩, ?_⟩
    dsimp only
    rw [if_pos (by simp [hen, hm, h4])]
    rfl
  · refine (onUnit_eq (decide_eq_true he) _).trans ?_
    dsimp only
    rw [if_neg ?_]
    rcases h with h | h | h
    · simp [show ¬ 4 ≤ e by omega]
    · simp [h]
    · simp [h]

/-- Settles O40: both claims of the peers and the links hold. -/
theorem peersAndLinks : Obligations.PeersAndLinks := ⟨peersAreAnnouncedMissedAndReturned, linksComeAndGo⟩

end Sys2Proof.Machine
end

section
/-! SUPPORT. Answers find their channel, and the work of other channels leaves a channel's entry; and PROOF, ACK, NAK and CREDIT packets
(R284, R288, R289). -/

namespace Sys2Proof.Machine
open Sys2Proof Sys2Proof.Machine.Claims

/-! ## Serial numbers and tables -/

/-- A number that fits is not earlier than itself (R444). -/
theorem serialEarlier_self {n a : Nat} (h : a < 2 ^ n) (hn : 0 < 2 ^ (n - 1)) : serialEarlier n a a = false := by
  have hd : (a + 2 ^ n - a % 2 ^ n) % 2 ^ n = 0 := by
    rw [Nat.mod_eq_of_lt h, Nat.add_sub_cancel_left, Nat.mod_self]
  simp [serialEarlier, hd]

theorem Store.insert_insert {α : Type} (m : Store α) (k : Nat) (v w : α) : Store.insert (Store.insert m k v) k w = Store.insert m k w := by
  induction m with
  | nil => simp [Store.insert]
  | cons x m ih =>
    obtain ⟨j, u⟩ := x
    by_cases hlt : k < j
    · simp [Store.insert, hlt]
    · by_cases hne : j = k
      · simp [Store.insert, hne]
      · simp [Store.insert, hlt, hne, ih]

/-- Two values that read the same leave the same readings of a table. -/
theorem Store.map_insert {α β : Type} (m : Store α) (k : Nat) (v w : α) (f : Nat × α → β) (h : f (k, v) = f (k, w)) :
    (Store.insert m k v).map f = (Store.insert m k w).map f := by
  induction m with
  | nil => simp [Store.insert, h]
  | cons x m ih =>
    obtain ⟨j, u⟩ := x
    unfold Store.insert
    split
    · simp [h]
    · split
      · simp [h]
      · simp [ih]

theorem Store.set_some {α : Type} [DecidableEq α] (m : Store (Option α)) (k : Nat) (v : α) :
    Store.set none m k (some v) = Store.insert m k (some v) := if_neg (by simp)

/-! ## Networks -/

theorem Dev.modNet_eq (d : Dev) (n : Nat) (f : Network → Network) :
    ∃ a b, d.modNet n f = { d with fab := { d.fab with netA := a, netB := b } } := by
  unfold Dev.modNet
  split
  · exact ⟨_, _, rfl⟩
  · exact ⟨_, _, rfl⟩

theorem Dev.modNet_net_self (d : Dev) (n : Nat) (f : Network → Network) : (d.modNet n f).net n = f (d.net n) := by
  by_cases h : n = 0 <;> simp [Dev.modNet, Dev.net, h]

theorem Dev.modNet_net_cases (d : Dev) (n k : Nat) (f : Network → Network) :
    (d.modNet n f).net k = f (d.net k) ∨ (d.modNet n f).net k = d.net k := by
  by_cases h : n = 0 <;> by_cases hk : k = 0 <;> simp [Dev.modNet, Dev.net, h, hk]

/-- What reads a network but not its counters reads the same after one counted. -/
theorem Dev.modNet_netCnt_net {α : Type} (d : Dev) (n i c k : Nat) (g : Network → α) (hg : ∀ x, g (netCnt i c x) = g x) :
    g ((d.modNet n (netCnt i c)).net k) = g (d.net k) := by
  rcases d.modNet_net_cases n k (netCnt i c) with h | h
  · rw [h, hg]
  · rw [h]

theorem netCounter_modNet (d : Dev) (n i : Nat) : netCounter (d.modNet n (netCnt i 1)) n i = netCounter d n i + 1#32 := by
  unfold netCounter
  rw [Dev.modNet_net_self]
  exact Store.get_set_self ..

theorem pathClear_modNet {d : Dev} (n : Nat) (f : Network → Network) {net dst chan pcp : Nat} (h : pathClear d net dst chan pcp) :
    pathClear (d.modNet n f) net dst chan pcp := by
  obtain ⟨a, b, he⟩ := d.modNet_eq n f
  rw [he]
  exact h

@[simp] theorem Dev.modNet_findRecv (d : Dev) (n : Nat) (f : Network → Network) (p : Nat) (h : DataHdr) :
    (d.modNet n f).findRecv p h = d.findRecv p h := by
  obtain ⟨a, b, he⟩ := d.modNet_eq n f
  rw [he]
  rfl

@[simp] theorem Dev.modNet_findSend (d : Dev) (n : Nat) (f : Network → Network) (p : Nat) (h : DataHdr) :
    (d.modNet n f).findSend p h = d.findSend p h := by
  obtain ⟨a, b, he⟩ := d.modNet_eq n f
  rw [he]
  rfl

@[simp] theorem Dev.modNet_swarmPart (d : Dev) (n : Nat) (f : Network → Network) (h : DataHdr) :
    (d.modNet n f).swarmPart h = d.swarmPart h := by
  obtain ⟨a, b, he⟩ := d.modNet_eq n f
  rw [he]
  rfl

@[simp] theorem Dev.modNet_mgmtOk (d : Dev) (n : Nat) (f : Network → Network) (h : DataHdr) (pl : List Byte) :
    (d.modNet n f).mgmtOk h pl = d.mgmtOk h pl := by
  obtain ⟨a, b, he⟩ := d.modNet_eq n f
  rw [he]
  rfl

@[simp] theorem Dev.modNet_part (d : Dev) (n : Nat) (f : Network → Network) (p : Nat) : (d.modNet n f).part p = d.part p :=
  (Dev.SameButNet.modNet d n f).part p

@[simp] theorem Dev.modNet_peer (d : Dev) (n : Nat) (f : Network → Network) (p r : Nat) : (d.modNet n f).peer p r = d.peer p r :=
  (Dev.Carried.modNet d n f).peer p r

@[simp] theorem Dev.modNet_sendChan (d : Dev) (n : Nat) (f : Network → Network) (p i : Nat) : (d.modNet n f).sendChan p i = d.sendChan p i :=
  (Dev.Carried.modNet d n f).sendChan p i

@[simp] theorem Dev.modNet_recvChan (d : Dev) (n : Nat) (f : Network → Network) (p i : Nat) : (d.modNet n f).recvChan p i = d.recvChan p i :=
  (Dev.Carried.modNet d n f).recvChan p i

@[simp] theorem Dev.modNet_chanNet (d : Dev) (n : Nat) (f : Network → Network) (p : Nat) (x : SendChan) :
    (d.modNet n f).chanNet p x = d.chanNet p x := by
  rw [Dev.chanNet, Dev.modNet_peer, Dev.chanNet]

@[simp] theorem peerAddr_modNet (d : Dev) (n : Nat) (f : Network → Network) (p r net : Nat) :
    peerAddr (d.modNet n f) p r net = peerAddr d p r net := by
  rw [peerAddr, Dev.modNet_peer, peerAddr]

/-! ## Answers (R284, R285) -/

section
variable {d : Dev} {h : DataHdr} {p i : Nat} {x : SendChan}

theorem Dev.answers_of_answered (ha : answered d h p i x) (net : Nat) : d.answers net h [] = (d.modNet net (netCnt 13 1), some (p, i)) := by
  obtain ⟨hver, hcls, hrsv, hok, hpart, hpeer, hfind, _, _, _⟩ := ha
  unfold Dev.answers
  simp [hver, hcls, hrsv, hok, hpart, hpeer, hfind]

/-- The epoch of an answer to this channel is neither earlier nor another one. -/
theorem epoch_of_answered (ha : answered d h p i x) : serialEarlier 16 h.epoch (d.part p).epoch = false ∧ (h.epoch != (d.part p).epoch) = false := by
  obtain ⟨_, _, _, _, _, _, _, _, hep, hlt⟩ := ha
  rw [← hep]
  exact ⟨serialEarlier_self hlt (by decide), by simp⟩

theorem Dev.nakReceive_of_answered (ha : answered d h p i x) (net : Nat) (hw : h.epw = false) {k : SentPkt} (hf : x.failed = false)
    (hk : x.sent.find? (fun k => k.seq % 2 ^ 32 == h.tsw0) = some k) :
    d.nakReceive net h [] = (d.modNet net (netCnt 13 1)).retransmit p i x k false := by
  obtain ⟨hearlier, hne⟩ := epoch_of_answered ha
  have hx : d.sendChan p i = some x := ha.2.2.2.2.2.2.2.1
  unfold Dev.nakReceive
  rw [Dev.answers_of_answered ha]
  dsimp only
  simp only [hw, hearlier, hne, hx, hk, hf, Dev.modNet_part, Dev.modNet_sendChan, Bool.false_eq_true, if_false]

end

/-! ## What freeing copies leaves of the fabric -/

/-- The fabric but for its ports is as it was. -/
def Dev.SameFab (d e : Dev) : Prop := { e.fab with ports := d.fab.ports } = d.fab

namespace Dev.SameFab

theorem refl (d : Dev) : d.SameFab d := rfl

theorem trans {d e f : Dev} (h : d.SameFab e) (k : e.SameFab f) : d.SameFab f :=
  (congrArg (fun x : Fabric => { x with ports := d.fab.ports }) k :).trans h

theorem of_fab {d e : Dev} (h : e.fab = d.fab) : d.SameFab e := by
  unfold Dev.SameFab
  rw [h]

theorem foldl {α : Type} {g : Dev → α → Dev} (h : ∀ d a, Dev.SameFab d (g d a)) (l : List α) (d : Dev) : d.SameFab (l.foldl g d) := by
  induction l generalizing d with
  | nil => exact .refl d
  | cons a l ih => exact (h d a).trans (ih _)

theorem of_ite {d e f : Dev} {c : Prop} [Decidable c] (h : d.SameFab e) (k : d.SameFab f) : d.SameFab (if c then e else f) := by
  split
  · exact h
  · exact k

theorem of_sent {d e : Dev} (h : d.SameButSent e) : d.SameFab e := by
  obtain ⟨tx, ports, chans, bb, fi, rfl⟩ := h
  rfl

theorem congr {d e : Dev} (h : d.SameFab e) {α : Type} (g : Fabric → α) (hg : ∀ x ports, g { x with ports := ports } = g x) : g e.fab = g d.fab :=
  (hg e.fab d.fab.ports).symm.trans (congrArg g h)

variable (d : Dev)

theorem freePhys (part ctx dev ppn : Nat) : d.SameFab (d.freePhys part ctx dev ppn) := by
  unfold Dev.freePhys
  exact of_ite ((of_fab rfl : d.SameFab (Dev.modTiers (d.modTiers _) _)).trans (of_sent (Dev.event_same ..))) (of_fab rfl)

theorem settleLeaving : d.SameFab d.settleLeaving := by
  unfold Dev.settleLeaving
  refine foldl (fun d l => ?_) _ _
  exact of_ite ((of_fab rfl : d.SameFab (d.modTiers _)).trans (freePhys _ ..)) (of_fab rfl)

theorem modCtxCore (p c n : Nat) (f : Core → Core) : d.SameFab (d.modCtxCore p c n f) := by
  unfold Dev.modCtxCore
  exact of_ite (of_fab rfl) (of_fab rfl)

theorem awayDone (p c : Nat) (t : Nat × Nat) (n : Nat) : d.SameFab (d.awayDone p c t n) := by
  unfold Dev.awayDone
  dsimp only
  refine .trans ?_ (settleLeaving _)
  exact of_ite (modCtxCore d ..) ((modCtxCore d ..).trans (of_fab rfl))

theorem acked (p i : Nat) (k : SentPkt) : d.SameFab (d.acked p i k) := by
  have hpush (d : Dev) : d.SameFab (match k.push with
      | some w => d.modPart p (fun y => { y with pushWait := y.pushWait.erase w })
      | none => d) := by
    split
    · exact of_fab rfl
    · exact refl d
  unfold Dev.acked
  split
  · exact refl d
  · dsimp only
    refine .trans ?_ (hpush _)
    split
    · exact awayDone d ..
    · exact refl d

end Dev.SameFab

/-! ## What the work of one channel leaves of another -/

section
variable (d : Dev)

/-- The entry at a key of the send channels. -/
def Dev.sendAt (d : Dev) (k : Nat) : Option SendChan := Store.get none d.fab.send k

theorem Dev.setSend_sendAt_ne {p i k : Nat} (x : SendChan) (h : k ≠ chanKey p i) : (d.setSend p i x).sendAt k = d.sendAt k :=
  Store.get_set_ne (none : Option SendChan) d.fab.send (some x) h

theorem Dev.Carried.sendAt {d e : Dev} (h : d.Carried e) (k : Nat) : e.sendAt k = d.sendAt k := by rw [Dev.sendAt, h.send, Dev.sendAt]

theorem Dev.modSend_sendAt_ne {p i k : Nat} (f : SendChan → SendChan) (h : k ≠ chanKey p i) : (d.modSend p i f).sendAt k = d.sendAt k := by
  unfold Dev.modSend
  split
  · exact d.setSend_sendAt_ne _ h
  · rfl

theorem Dev.askCredit_sendAt_ne {p i k : Nat} (h : k ≠ chanKey p i) : (d.askCredit p i).sendAt k = d.sendAt k := by
  unfold Dev.askCredit
  split
  · rfl
  split
  · rfl
  · exact (Dev.modSend_sendAt_ne _ _ h).trans (((Dev.Carried.emitPkt d ..).trans (.modNet ..)).sendAt k)

theorem Dev.pumpN_sendAt_ne {p i k : Nat} (h : k ≠ chanKey p i) (f : Nat) : (Dev.pumpN f d p i).sendAt k = d.sendAt k := by
  induction f generalizing d with
  | zero => rfl
  | succ f ih =>
    have hhead (d : Dev) (x : SendChan) (q : SentPkt) (rest : List SentPkt) (n : Nat) :
        (Dev.pumpN.sendHead d p i x q rest n).sendAt k = d.sendAt k := by
      unfold Dev.pumpN.sendHead
      exact ((Dev.Carried.transmit ..).sendAt k).trans (d.setSend_sendAt_ne _ h)
    unfold Dev.pumpN
    split
    · rfl
    · split
      · rfl
      · dsimp only
        split
        · split
          · exact d.askCredit_sendAt_ne h
          · rfl
        · split
          · rfl
          · split
            · split
              · split
                · rfl
                · rw [Dev.sendAt, Dev.contextFault_sendChans]
                  exact d.modSend_sendAt_ne _ h
              · exact (ih _).trans (hhead ..)
            · exact (ih _).trans (hhead ..)

theorem Dev.pump_sendAt_ne {p i k : Nat} (h : k ≠ chanKey p i) : (d.pump p i).sendAt k = d.sendAt k := by
  unfold Dev.pump
  split
  · exact d.pumpN_sendAt_ne h _
  · rfl

theorem chanKey_div_mod (k : Nat) : chanKey (k / 2 ^ 24) (k % 2 ^ 24) = k := Nat.div_add_mod k (2 ^ 24)

/-- A channel with nothing to send is as it was after the others went on. -/
theorem Dev.pumpAll_sendAt {d : Dev} {k : Nat} {x : SendChan} (h : d.sendAt k = some x) (hw : x.waiting = []) (net : Nat) :
    (d.pumpAll net).sendAt k = some x := by
  unfold Dev.pumpAll
  generalize d.fab.send.map (·.1) = l
  induction l generalizing d with
  | nil => exact h
  | cons j l ih =>
    refine ih ?_
    dsimp only
    split
    · next y hy =>
      split
      · next hc =>
        have hne : k ≠ j := by
          intro he
          rw [he, Dev.sendAt, hy] at h
          simp [Option.some.inj h, hw] at hc
        rw [d.pump_sendAt_ne ((chanKey_div_mod j).symm ▸ hne :), h]
      · exact h
    · exact h

theorem Dev.pump_of_idle {d : Dev} {p i : Nat} {x : SendChan} (h : d.sendChan p i = some x) (hw : x.waiting = []) : d.pump p i = d := by
  unfold Dev.pump
  rw [h]
  dsimp only
  unfold Dev.pumpN
  rw [h]
  dsimp only
  rw [hw]

end

end Sys2Proof.Machine
end

section
/-! PROOF. ACK, NAK and CREDIT packets (R284, R288, R289). -/

namespace Sys2Proof.Machine
open Sys2Proof Sys2Proof.Machine.Claims

/-! ## An acknowledgement (R284, R289) -/

/-- The channel after an ACK that freed `n` copies (R284, R289). -/
def SendChan.acknowledged (x : SendChan) (h : DataHdr) (rmin n : Nat) : SendChan :=
  let y := if h.ece then x.slow rmin else x
  { y with sent := y.sent.drop n, credit := y.credit + h.tsw0, epwSeen := false, askedCredit := y.askedCredit && h.tsw0 == 0 }

theorem SendChan.acknowledged_fields (x : SendChan) (h : DataHdr) (rmin n : Nat) :
    (x.acknowledged h rmin n).sent = x.sent.drop n ∧ (x.acknowledged h rmin n).credit = x.credit + h.tsw0 ∧
    (x.acknowledged h rmin n).seq = x.seq ∧ (x.acknowledged h rmin n).waiting = x.waiting ∧ (x.acknowledged h rmin n).epwSeen = false ∧
    (x.acknowledged h rmin n).rate = if h.ece && !x.eceSeen then max (x.rate / 2) (rmin * 2 ^ 32) else x.rate := by
  unfold SendChan.acknowledged SendChan.slow
  cases h.ece <;> cases x.eceSeen <;> exact ⟨rfl, rfl, rfl, rfl, rfl, rfl⟩

section
variable {d : Dev} {h : DataHdr} {p i : Nat} {x : SendChan}

/-- The copies below the number are free. -/
def Dev.freeBelow (d : Dev) (p i : Nat) (x : SendChan) (n : Nat) : Dev := (x.below n).foldl (fun d k => d.acked p i k) d

theorem Dev.freeBelow_fab (d : Dev) (p i : Nat) (x : SendChan) (n : Nat) : d.SameFab (d.freeBelow p i x n) :=
  .foldl (fun d k => .acked d p i k) _ _

theorem Dev.ackReceive_of_answered (ha : answered d h p i x) (net : Nat) :
    d.ackReceive net h [] = (let e := (d.modNet net (netCnt 13 1)).freeBelow p i x h.ackseq
      let e := if h.ece then e.modNet net (netCnt 20 1) else e
      ((e.modSend p i (fun x' => x'.acknowledged h (e.net (ceNet x.entry)).rmin (x.below h.ackseq).length)).pump p i).pumpAll (ceNet x.entry)) := by
  obtain ⟨hearlier, hne⟩ := epoch_of_answered ha
  have hx : d.sendChan p i = some x := ha.2.2.2.2.2.2.2.1
  unfold Dev.ackReceive
  rw [Dev.answers_of_answered ha]
  dsimp only
  simp only [hearlier, hne, hx, Dev.modNet_part, Dev.modNet_sendChan, Bool.false_eq_true, if_false]
  rfl

theorem Dev.ackReceive_sendChan (ha : answered d h p i x) (hw : x.waiting = []) (net : Nat) :
    (d.ackReceive net h []).sendChan p i = some (x.acknowledged h (d.net (ceNet x.entry)).rmin (x.below h.ackseq).length) := by
  have hx : d.sendChan p i = some x := ha.2.2.2.2.2.2.2.1
  rw [Dev.ackReceive_of_answered ha]
  have hfab := Dev.freeBelow_fab (d.modNet net (netCnt 13 1)) p i x h.ackseq
  have hsend : ((d.modNet net (netCnt 13 1)).freeBelow p i x h.ackseq).sendChan p i = some x := by
    have hs := hfab.congr Fabric.send fun _ _ => rfl
    rw [Dev.sendChan, hs, ← Dev.sendChan, Dev.modNet_sendChan, hx]
  have hrmin : (((d.modNet net (netCnt 13 1)).freeBelow p i x h.ackseq).net (ceNet x.entry)).rmin = (d.net (ceNet x.entry)).rmin := by
    have hn := hfab.congr (fun f => (if ceNet x.entry = 0 then f.netA else f.netB).rmin) fun _ _ => rfl
    exact hn.trans (d.modNet_netCnt_net net 13 1 (ceNet x.entry) (·.rmin) fun _ => rfl)
  generalize (d.modNet net (netCnt 13 1)).freeBelow p i x h.ackseq = e at hsend hrmin
  have hsend' : (if h.ece then e.modNet net (netCnt 20 1) else e).sendChan p i = some x := by
    split
    · rw [Dev.modNet_sendChan, hsend]
    · exact hsend
  have hrmin' : ((if h.ece then e.modNet net (netCnt 20 1) else e).net (ceNet x.entry)).rmin = (d.net (ceNet x.entry)).rmin := by
    split
    · exact (e.modNet_netCnt_net net 20 1 (ceNet x.entry) (·.rmin) fun _ => rfl).trans hrmin
    · exact hrmin
  dsimp only
  rw [hrmin']
  generalize (if h.ece then e.modNet net (netCnt 20 1) else e) = e at hsend'
  have hack := x.acknowledged_fields h (d.net (ceNet x.entry)).rmin (x.below h.ackseq).length
  obtain ⟨_, _, _, hwait, _, _⟩ := hack
  have hself := e.setSend_sendChan_self p i (x.acknowledged h (d.net (ceNet x.entry)).rmin (x.below h.ackseq).length)
  rw [Dev.modSend_of_some hsend', Dev.pump_of_idle hself (hwait.trans hw)]
  exact Dev.pumpAll_sendAt (k := chanKey p i) hself (hwait.trans hw) _

theorem drop_length_takeWhile {α : Type} (q : α → Bool) (l : List α) : l.drop (l.takeWhile q).length = l.dropWhile q := by
  induction l with
  | nil => rfl
  | cons a l ih =>
    by_cases h : q a
    · simp [List.takeWhile, List.dropWhile, h, ih]
    · simp [List.takeWhile, List.dropWhile, h]

end

/-! ## A credit request (R287, R288) -/

section
variable {d : Dev} {p i : Nat} {x : RecvChan}

theorem Dev.setRecv_setRecv (d : Dev) (p i : Nat) (x y : RecvChan) : (d.setRecv p i x).setRecv p i y = d.setRecv p i y := by
  have h : Store.set none (Store.set none d.fab.recv (chanKey p i) (some x)) (chanKey p i) (some y) =
      Store.set none d.fab.recv (chanKey p i) (some y) := by
    rw [Store.set_some, Store.set_some, Store.set_some, Store.insert_insert]
  exact congrArg (fun r => ({ d with fab := { d.fab with recv := r } } : Dev)) h

/-- The free cells do not depend on what else an entry says than its reserved cells. -/
theorem Dev.setRecv_freeCells (d : Dev) (p i : Nat) {x y : RecvChan} (hm : y.minc = x.minc) (he : y.entry = x.entry) (net : Nat) :
    (d.setRecv p i x).freeCells net = (d.setRecv p i y).freeCells net := by
  have h : ∀ z : RecvChan, (d.setRecv p i z).fab.recv = Store.insert d.fab.recv (chanKey p i) (some z) := fun z => Store.set_some ..
  unfold Dev.freeCells Dev.reserved
  rw [h, h, Store.map_insert d.fab.recv (chanKey p i) (some x) (some y)]
  · rfl
  · dsimp only
    rw [hm, he]

theorem Dev.grantShared_of_le {n : Nat} (hx : d.recvChan p i = some x) (hn : n ≤ d.freeCells (ceNet x.entry)) :
    d.grantShared p i n = some ((d.setRecv p i { x with shared := x.shared + n, grantDue := x.grantDue + n, want := 0 }).modNet
      (ceNet x.entry) (fun y => { y with shared := y.shared + n })) := by
  unfold Dev.grantShared
  rw [hx]
  exact if_pos hn

theorem Dev.grantShared_of_lt {n : Nat} (hx : d.recvChan p i = some x) (hn : d.freeCells (ceNet x.entry) < n) : d.grantShared p i n = none := by
  unfold Dev.grantShared
  rw [hx]
  exact if_neg (by omega)

/-- Nothing is granted while the pool holds less than a chunk (R287). -/
theorem Dev.serveWants_of_short {net : Nat} (h : d.freeCells net < 16) : d.serveWants net = d := by
  unfold Dev.serveWants
  rw [show d.freeCells net / 16 = 0 by omega]
  rfl

/-- A chunk of 16 cells at least (R288). -/
theorem chunk_ge (n : Nat) : 16 ≤ ceilDiv (min 256 (max 1 n)) 16 * 16 := by
  unfold ceilDiv
  omega

end

/-- The channel has asked for `n` cells on a network. -/
def RecvChan.asking (x : RecvChan) (net n : Nat) : RecvChan := { x with arr := net, want := n }
/-- The channel was granted `n` cells when it asked on a network. -/
def RecvChan.granted (x : RecvChan) (net n : Nat) : RecvChan :=
  { x with arr := net, shared := x.shared + n, grantDue := x.grantDue + n, want := 0 }

/-- A CREDIT that is for the channel (R285, R288). -/
def credited (d : Dev) (h : DataHdr) (p i : Nat) (x : RecvChan) : Prop :=
  h.ver = 1 ∧ h.cls = 2 ∧ h.rsv = false ∧ d.mgmtOk h [] = true ∧ d.swarmPart h = some p ∧ (d.peer p h.srank).valid = true ∧
  d.findRecv p h = some i ∧ d.recvChan p i = some x ∧ h.epoch = (d.part p).epoch ∧ h.epoch < 65536

section
variable {d : Dev} {h : DataHdr} {p i : Nat} {x : RecvChan}

/-- A channel that is found is open already. -/
theorem Dev.openRecovery_of_found (hf : d.findRecv p h = some i) : d.openRecovery p h = d := by
  unfold Dev.openRecovery
  refine if_neg fun hc => ?_
  simp only [Bool.and_eq_true, decide_eq_true_eq, Option.isNone_iff_eq_none] at hc
  obtain ⟨⟨hch, _⟩, hnone⟩ := hc
  simp [Dev.findRecv, hch, hnone] at hf

/-- Cells of a CREDIT, in chunks of 16 (R288). -/
def creditCells (h : DataHdr) : Nat := ceilDiv (min 256 (max 1 h.tsw0)) 16 * 16

theorem Dev.creditReceive_of_credited (hc : credited d h p i x) (net : Nat) :
    d.creditReceive net h [] = (let e := (d.modNet net (netCnt 13 1)).setRecv p i { x with arr := net }
      match e.grantShared p i (creditCells h) with
      | some d => d.sendAck p i net
      | none => (e.setRecv p i (x.asking net (creditCells h))).serveWants (ceNet x.entry)) := by
  obtain ⟨hver, hcls, hrsv, hok, hpart, hpeer, hfind, hx, hep, hlt⟩ := hc
  have hearlier : serialEarlier 16 h.epoch (d.part p).epoch = false := hep ▸ serialEarlier_self hlt (by decide)
  unfold Dev.creditReceive
  have hopen : (d.modNet net (netCnt 13 1)).openRecovery p h = d.modNet net (netCnt 13 1) :=
    Dev.openRecovery_of_found (by rw [Dev.modNet_findRecv, hfind])
  have hrecv : (d.modNet net (netCnt 13 1)).recvChan p i = some x := by rw [Dev.modNet_recvChan, hx]
  dsimp only
  simp only [hver, hcls, hrsv, hok, hpart, hpeer, hfind, hopen, hearlier, hep, Dev.modNet_swarmPart, Dev.modNet_peer, Dev.modNet_mgmtOk,
    Dev.modNet_findRecv, Dev.modNet_part, bne_self_eq_false, Bool.or_self, Bool.not_true, Bool.false_eq_true, if_false]
  rw [hep] at hearlier
  simp only [hearlier, Bool.false_eq_true, if_false]
  rw [Dev.modRecv_of_some hrecv, Dev.modRecv_of_some (Dev.setRecv_recvChan_self ..), Dev.setRecv_recvChan_self]
  rfl

end

end Sys2Proof.Machine
end

section
/-! PROOF. ACK, NAK and CREDIT packets (R284, R288, R289). -/

namespace Sys2Proof.Machine
open Sys2Proof Sys2Proof.Machine.Claims

theorem Dev.SameFab.net {d e : Dev} (h : d.SameFab e) (k : Nat) : e.net k = d.net k :=
  h.congr (fun f => if k = 0 then f.netA else f.netB) fun _ _ => rfl

/-- A packet over a free path changes its network's counters only. -/
theorem Dev.emitPkt_net_of_clear {α : Type} {d : Dev} {net dst pcp : Nat} {h : DataHdr} (hc : pathClear d net dst h.chan pcp) (payload : List Byte)
    (k : Nat) (g : Network → α) (hg : ∀ x, g (netCnt 14 1 x) = g x) : g ((d.emitPkt net pcp dst h payload).net k) = g (d.net k) := by
  obtain ⟨o, ho, _⟩ := hc
  unfold Dev.emitPkt Dev.nextHop
  rw [ho]
  dsimp only
  rw [(Dev.SameFab.of_sent (Dev.sendOn_same ..)).net]
  exact d.modNet_netCnt_net net 14 1 k g hg

theorem Dev.sendAck_shared_of_clear {d : Dev} {p i net : Nat} {x : RecvChan} (h : d.recvChan p i = some x)
    (hc : pathClear d net (peerAddr d p x.peer net) x.chan 7) (k : Nat) : ((d.sendAck p i net).net k).shared = (d.net k).shared := by
  unfold Dev.sendAck
  rw [h]
  exact Dev.emitPkt_net_of_clear (h := { d.hdr p x.peer x.chan 0x10 (d.partStamp p).step (d.partStamp p).phase 0 with
      ackseq := x.next % 2 ^ 32, tsw0 := x.grantDue, ece := x.ceDue, fov := net != ceNet x.entry }) hc [] k (·.shared) fun _ => rfl

/-- Counting on a network takes no cell. -/
theorem Dev.modNet_setRecv_freeCells (d : Dev) (n c v p i : Nat) (y : RecvChan) (k : Nat) :
    ((d.modNet n (netCnt c v)).setRecv p i y).freeCells k = (d.setRecv p i y).freeCells k := by
  have hshared := d.modNet_netCnt_net n c v k (·.shared) fun _ => rfl
  unfold Dev.freeCells
  have hnet (d : Dev) : (d.setRecv p i y).net k = d.net k := rfl
  rw [hnet, hnet, hshared]
  obtain ⟨a, b, he⟩ := d.modNet_eq n (netCnt c v)
  rw [he]
  rfl

/-- A CREDIT came in on a network and took `n` cells of the channel's (R288). -/
def Dev.withGrant (d : Dev) (net p i : Nat) (x : RecvChan) (n : Nat) : Dev :=
  ((d.modNet net (netCnt 13 1)).setRecv p i (x.granted net n)).modNet (ceNet x.entry) (fun y => { y with shared := y.shared + n })

theorem Dev.withGrant_recvChan (d : Dev) (net p i : Nat) (x : RecvChan) (n : Nat) :
    (d.withGrant net p i x n).recvChan p i = some (x.granted net n) := by
  rw [Dev.withGrant, Dev.modNet_recvChan, Dev.setRecv_recvChan_self]

theorem Dev.withGrant_tx (d : Dev) (net p i : Nat) (x : RecvChan) (n : Nat) : (d.withGrant net p i x n).tx = d.tx := by
  rw [Dev.withGrant, Dev.modNet_tx, Dev.setRecv_tx, Dev.modNet_tx]

theorem Dev.withGrant_shared (d : Dev) (net p i : Nat) (x : RecvChan) (n : Nat) :
    ((d.withGrant net p i x n).net (ceNet x.entry)).shared = (d.net (ceNet x.entry)).shared + n := by
  rw [Dev.withGrant, Dev.modNet_net_self]
  exact congrArg (· + n) (d.modNet_netCnt_net net 13 1 (ceNet x.entry) (·.shared) fun _ => rfl)

theorem Dev.withGrant_pathClear {d : Dev} {net dst chan pcp : Nat} (p i : Nat) (x : RecvChan) (n : Nat) (h : pathClear d net dst chan pcp) :
    pathClear (d.withGrant net p i x n) net dst chan pcp := by
  have h' : pathClear ((d.modNet net (netCnt 13 1)).setRecv p i (x.granted net n)) net dst chan pcp := pathClear_modNet net (netCnt 13 1) h
  exact pathClear_modNet _ _ h'

theorem peerAddr_withGrant (d : Dev) (net p i : Nat) (x : RecvChan) (n q r k : Nat) :
    peerAddr (d.withGrant net p i x n) q r k = peerAddr d q r k := by
  have h : peerAddr ((d.modNet net (netCnt 13 1)).setRecv p i (x.granted net n)) q r k = peerAddr d q r k := peerAddr_modNet d ..
  rw [Dev.withGrant, peerAddr_modNet, h]

section
variable {d : Dev} {h : DataHdr} {p i net : Nat} {x : RecvChan} (hc : credited d h p i x)
include hc

theorem noted_of_credited : noted d p i net = d.setRecv p i { x with arr := net } := Dev.modRecv_of_some hc.2.2.2.2.2.2.2.1 _

/-- The pool holds what is asked: the cells are granted and acknowledged. -/
theorem Dev.creditReceive_of_le (hn : creditCells h ≤ (noted d p i net).freeCells (ceNet x.entry)) :
    d.creditReceive net h [] = (d.withGrant net p i x (creditCells h)).sendAck p i net := by
  rw [noted_of_credited hc, ← d.modNet_setRecv_freeCells net 13 1] at hn
  rw [Dev.creditReceive_of_credited hc]
  dsimp only
  rw [Dev.grantShared_of_le (Dev.setRecv_recvChan_self ..) hn, Dev.setRecv_setRecv]
  rfl

/-- The pool holds no chunk: what is asked is recorded. -/
theorem Dev.creditReceive_of_short (hn : (noted d p i net).freeCells (ceNet x.entry) < 16) :
    d.creditReceive net h [] = (d.modNet net (netCnt 13 1)).setRecv p i (x.asking net (creditCells h)) := by
  have hchunk : 16 ≤ creditCells h := chunk_ge _
  rw [noted_of_credited hc, ← d.modNet_setRecv_freeCells net 13 1] at hn
  rw [Dev.creditReceive_of_credited hc]
  dsimp only
  rw [Dev.grantShared_of_lt (x := { x with arr := net }) (Dev.setRecv_recvChan_self ..) (by dsimp only; omega)]
  dsimp only
  rw [Dev.serveWants_of_short, Dev.setRecv_setRecv]
  rw [Dev.setRecv_setRecv, ← Dev.setRecv_freeCells (x := { x with arr := net }) (y := x.asking net (creditCells h)) _ p i rfl rfl]
  exact hn

end

/-- Settles O38: an ACK frees the oldest copies, a NAK repeats the packet it names, a CREDIT is granted or recorded. -/
theorem answersFreeCopiesAndGrantCells : Obligations.AnswersFreeCopiesAndGrantCells := by
  unfold Obligations.AnswersFreeCopiesAndGrantCells
  intro s net p i h hnet hp
  refine ⟨fun x ht ha hw => ?_, fun x k ht hw ha hf hk htr hclear => ?_, fun x ht hver hcls hrsv hok hpart hpeer hfind hx hep hlt => ?_⟩
  · have hrun : exec (.ackReceive net h) s = .next { s with dev := s.dev.ackReceive net h [] } := by
      refine (onUnit_eq (decide_eq_true hnet) _).trans ?_
      rw [if_pos ht]
    obtain ⟨hsent, hcredit, hseq, hwait, hepw, hrate⟩ := x.acknowledged_fields h (s.dev.net (ceNet x.entry)).rmin (x.below h.ackseq).length
    exact ⟨_, _, hrun, ⟨rfl, rfl⟩, Dev.ackReceive_mem .., Dev.ackReceive_sendChan ha hw net,
      hsent.trans (drop_length_takeWhile ..), hcredit, hseq, hwait.trans hw, hepw, hrate⟩
  · have hrun : exec (.nakReceive net h) s = .next { s with dev := s.dev.nakReceive net h [] } := by
      refine (onUnit_eq (decide_eq_true hnet) _).trans ?_
      rw [if_pos ht]
    have hnak := Dev.nakReceive_of_answered ha net hw hf hk
    have htr' : k.tries < ((s.dev.modNet net (netCnt 13 1)).net ((s.dev.modNet net (netCnt 13 1)).chanNet p x)).rmax := by
      rw [Dev.modNet_chanNet, s.dev.modNet_netCnt_net net 13 1 _ (·.rmax) fun _ => rfl]
      exact htr
    rw [Dev.retransmit_of_lt false htr'] at hnak
    have hclear' := pathClear_modNet net (netCnt 13 1) hclear
    rw [← Dev.modNet_chanNet s.dev net (netCnt 13 1), ← peerAddr_modNet s.dev net (netCnt 13 1)] at hclear'
    obtain ⟨hmem, hsend, o, m, ip, q, bs, htx, hseq, hrtx⟩ := Dev.setSend_transmit (i := i) (x := x)
      (y := { x with sent := x.sent.map (fun q => if q.seq = k.seq then
        { k with tries := k.tries + 1, mul := if false then min 8 (2 * k.mul) else k.mul } else q) })
      (k := { k with tries := k.tries + 1, mul := if false then min 8 (2 * k.mul) else k.mul }) rfl rfl hclear'
    rw [← hnak] at hmem hsend htx
    rw [Dev.modNet_chanNet, Dev.modNet_tx] at htx
    exact ⟨_, o, m, ip, q, bs, hrun, ⟨rfl, rfl⟩, hmem.trans (Dev.modNet_mem ..), hsend, htx, hseq, hrtx⟩
  · have hc : credited s.dev h p i x := ⟨hver, hcls, hrsv, hok, hpart, hpeer, hfind, hx, hep, hlt⟩
    have hrun : exec (.creditReceive net h) s = .next { s with dev := s.dev.creditReceive net h [] } := by
      refine (onUnit_eq (decide_eq_true hnet) _).trans ?_
      rw [if_pos ht]
    refine ⟨fun hn hclear => ?_, fun hn => ?_⟩
    · have hgrant := Dev.creditReceive_of_le hc hn
      have hrecv := s.dev.withGrant_recvChan net p i x (creditCells h)
      have hclear' := Dev.withGrant_pathClear p i x (creditCells h) hclear
      rw [← peerAddr_withGrant s.dev net p i x (creditCells h)] at hclear'
      obtain ⟨o, m, ip, q, htx, htype, hack, hgr, hece⟩ := Dev.sendAck_of_clear hrecv hclear'
      have hshared := Dev.sendAck_shared_of_clear hrecv hclear' (ceNet x.entry)
      have hafter := Dev.sendAck_recvChan hrecv net
      rw [← hgrant] at htx hshared hafter
      rw [Dev.withGrant_tx] at htx
      exact ⟨_, o, m, ip, q, _, hrun, ⟨rfl, rfl⟩, Dev.creditReceive_mem .., htx, htype, hack, hgr, hafter, rfl,
        hshared.trans (s.dev.withGrant_shared ..)⟩
    · have hshort := Dev.creditReceive_of_short hc hn
      refine ⟨_, x.asking net (creditCells h), hrun, ⟨rfl, rfl⟩, Dev.creditReceive_mem .., ?_, ?_, rfl⟩
      · rw [Sends, List.append_nil]
        dsimp only
        rw [hshort, Dev.setRecv_tx, Dev.modNet_tx]
      · dsimp only
        rw [hshort, Dev.setRecv_recvChan_self]

end Sys2Proof.Machine
end

section
/-! SUPPORT. A write into the unified range leaves the fabric, and the delivery of a packet on a windowed channel (R283, R286, R290). -/

namespace Sys2Proof.Machine
open Sys2Proof Sys2Proof.Machine.Claims

/-! ## Writes into the unified range leave the channels -/

namespace Dev.SameFab

theorem foldl_of_mem {α : Type} {g : Dev → α → Dev} {l : List α} (h : ∀ a ∈ l, ∀ d, Dev.SameFab d (g d a)) (d : Dev) : d.SameFab (l.foldl g d) := by
  induction l generalizing d with
  | nil => exact .refl d
  | cons a l ih => exact (h a (List.mem_cons_self ..) d).trans (ih (fun b hb => h b (List.mem_cons_of_mem _ hb)) _)

variable (d : Dev)

theorem event (code part ctx lcore : Nat) (detail : List Nat) : d.SameFab (d.event code part ctx lcore detail) := of_sent (d.event_same ..)

theorem contextFault (code part ctx lcore : Nat) (detail : List Nat) : d.SameFab (d.contextFault code part ctx lcore detail) :=
  (event d ..).trans (of_fab rfl)

theorem abort (n uid : Nat) (fi : FaultInfo) : d.SameFab (d.abort n uid fi) := by
  unfold Dev.abort
  dsimp only
  refine .trans ?_ (contextFault _ ..)
  exact of_fab rfl

theorem abortSaved (c n uid : Nat) (fi : FaultInfo) : d.SameFab (d.abortSaved c n uid fi) := by
  unfold Dev.abortSaved
  dsimp only
  refine .trans ?_ (contextFault _ ..)
  exact of_fab rfl

theorem staleCheck (p a n : Nat) : d.SameFab (d.staleCheck p a n) := by
  unfold Dev.staleCheck
  refine .trans (foldl (fun e x => ?_) _ d) (foldl (fun e c => ?_) _ _)
  · exact of_ite (foldl (fun e y => abort e ..) _ _) (refl e)
  · exact of_ite (foldl (fun e x => foldl (fun e y => abortSaved e ..) _ _) _ _) (refl e)

theorem combDrop (a n : Nat) : d.SameFab (d.combDrop a n) := by
  unfold Dev.combDrop
  refine foldl (fun d line => ?_) _ d
  exact of_fab rfl

theorem countMem (c a n : Nat) (write : Bool) : d.SameFab (d.countMem c a n write) := by
  have hwake (d : Dev) (k : Nat) : d.SameFab (d.wakeDev k) := by
    unfold Dev.wakeDev
    exact of_ite (of_ite (refl d) (of_fab rfl)) (of_ite (of_ite (refl d) (of_fab rfl)) (refl d))
  have hdev (d : Dev) (c k n : Nat) (write : Bool) : d.SameFab (d.countDev c k n write) := by
    unfold Dev.countDev
    exact of_ite ((hwake d k).trans (of_fab rfl)) (of_ite ((hwake d k).trans (of_fab rfl)) (hwake d k))
  have htouch (d : Dev) (a : Nat) : d.SameFab (d.touch a) := by
    unfold Dev.touch
    exact of_ite (of_fab rfl) (refl d)
  exact (htouch d a).trans (hdev _ ..)

theorem unitWrite (p a : Nat) (bs : List Byte) (poison : Bool) : d.SameFab (d.unitWrite p a bs poison) :=
  ((of_fab rfl : d.SameFab (d.memPut a bs poison)).trans (combDrop _ ..)).trans (staleCheck _ ..)

theorem uniWrite (p c a : Nat) (bs : List Byte) (poison : Bool) : d.SameFab (d.uniWrite p c a bs poison) :=
  (((of_fab rfl : d.SameFab (d.memPut a bs poison)).trans (combDrop _ ..)).trans (countMem _ ..)).trans (staleCheck _ ..)

theorem coreContextFault (n : Nat) (fi : FaultInfo) : d.SameFab (d.coreContextFault n fi) :=
  (of_fab rfl : d.SameFab (d.modCore n _)).trans (contextFault _ ..)

theorem semAdd (n i cnt : Nat) (src : Option SignalFrom) : d.SameFab (d.semAdd n i cnt src) := by
  unfold Dev.semAdd
  dsimp only
  refine of_ite (of_fab rfl) ?_
  split
  · exact (of_fab rfl : d.SameFab (d.modCore n _)).trans (coreContextFault _ ..)
  · refine .trans ?_ (coreContextFault _ ..)
    exact of_fab rfl

theorem netSignal (p c core entry : Nat) : d.SameFab (d.netSignal p c core entry) := by
  unfold Dev.netSignal
  exact of_ite (semAdd d ..) (of_fab rfl)

variable {d} {e : Dev} (h : d.SameFab e)
include h

theorem recvChan (p i : Nat) : e.recvChan p i = d.recvChan p i := h.congr (fun f => Store.get none f.recv (chanKey p i)) fun _ _ => rfl
theorem recv : e.fab.recv = d.fab.recv := h.congr Fabric.recv fun _ _ => rfl
theorem send : e.fab.send = d.fab.send := h.congr Fabric.send fun _ _ => rfl

end Dev.SameFab

theorem Dev.unitWrite_mem_memPut (d : Dev) (p a : Nat) (bs : List Byte) (poison : Bool) : (d.unitWrite p a bs poison).mem = (d.memPut a bs poison).mem :=
  (Dev.staleCheck_mem ..).trans (Dev.combDrop_mem ..)

theorem Dev.uniWrite_mem_memPut (d : Dev) (p c a : Nat) (bs : List Byte) (poison : Bool) : (d.uniWrite p c a bs poison).mem = (d.memPut a bs poison).mem :=
  (Dev.staleCheck_mem ..).trans ((Dev.countMem_mem ..).trans (Dev.combDrop_mem ..))

/-- A write leaves the same bytes whatever else the module holds. -/
theorem Dev.memPut_mem_congr {d e : Dev} (h : e.mem = d.mem) (a : Nat) (bs : List Byte) (poison : Bool) :
    (e.memPut a bs poison).mem = (d.memPut a bs poison).mem := by
  change (bs.zipIdx).foldl (fun m x => Store.set 0#8 m (a + x.2) x.1) e.mem = _
  rw [h]
  rfl

/-! ## What a channel's delivery goes by -/

/-- The channel without its cells and what it has to acknowledge. -/
def RecvChan.order (x : RecvChan) : RecvChan :=
  { x with grantDue := 0, shared := 0, want := 0, unacked := 0, ceDue := false, nakSent := none, arr := 0 }

theorem RecvChan.order_next {x y : RecvChan} (h : x.order = y.order) : x.next = y.next := (congrArg (fun z : RecvChan => z.next) h :)
theorem RecvChan.order_held {x y : RecvChan} (h : x.order = y.order) : x.held = y.held := (congrArg (fun z : RecvChan => z.held) h :)
theorem RecvChan.order_chan {x y : RecvChan} (h : x.order = y.order) : x.chan = y.chan := (congrArg (fun z : RecvChan => z.chan) h :)
theorem RecvChan.order_peer {x y : RecvChan} (h : x.order = y.order) : x.peer = y.peer := (congrArg (fun z : RecvChan => z.peer) h :)
theorem RecvChan.order_entry {x y : RecvChan} (h : x.order = y.order) : x.entry = y.entry := (congrArg (fun z : RecvChan => z.entry) h :)
theorem RecvChan.order_oldw {x y : RecvChan} (h : x.order = y.order) : x.oldw = y.oldw := (congrArg (fun z : RecvChan => z.oldw) h :)
theorem RecvChan.order_slotCnt {x y : RecvChan} (h : x.order = y.order) : x.slotCnt = y.slotCnt := (congrArg (fun z : RecvChan => z.slotCnt) h :)

/-- The entry at a key of the receive channels. -/
def Dev.recvAt (d : Dev) (k : Nat) : Option RecvChan := Store.get none d.fab.recv k

/-- Every receive channel delivers as before. -/
structure Dev.SameOrder (d e : Dev) : Prop where
  order : ∀ k, (e.recvAt k).map RecvChan.order = (d.recvAt k).map RecvChan.order

namespace Dev.SameOrder

theorem refl (d : Dev) : d.SameOrder d := ⟨fun _ => rfl⟩
theorem trans {d e f : Dev} (h : d.SameOrder e) (k : e.SameOrder f) : d.SameOrder f := ⟨fun n => (k.order n).trans (h.order n)⟩
theorem of_recv {d e : Dev} (h : e.fab.recv = d.fab.recv) : d.SameOrder e := ⟨fun k => by rw [Dev.recvAt, h, Dev.recvAt]⟩
theorem of_carried {d e : Dev} (h : d.Carried e) : d.SameOrder e := of_recv h.recv
theorem of_ite {d e f : Dev} {c : Prop} [Decidable c] (h : d.SameOrder e) (k : d.SameOrder f) : d.SameOrder (if c then e else f) := by
  split
  · exact h
  · exact k

theorem foldl {α : Type} {g : Dev → α → Dev} (h : ∀ d a, Dev.SameOrder d (g d a)) (l : List α) (d : Dev) : d.SameOrder (l.foldl g d) := by
  induction l generalizing d with
  | nil => exact .refl d
  | cons a l ih => exact (h d a).trans (ih _)

theorem recvChan {d e : Dev} (h : d.SameOrder e) {p i : Nat} {x : RecvChan} (hx : d.recvChan p i = some x) :
    ∃ y, e.recvChan p i = some y ∧ y.order = x.order := by
  have hk := h.order (chanKey p i)
  change (e.recvChan p i).map _ = (d.recvChan p i).map _ at hk
  rw [hx, Option.map_some, Option.map_eq_some_iff] at hk
  exact hk

theorem setRecv {d : Dev} {p i : Nat} {x y : RecvChan} (hx : d.recvChan p i = some x) (hy : y.order = x.order) : d.SameOrder (d.setRecv p i y) := by
  refine ⟨fun k => ?_⟩
  by_cases hk : k = chanKey p i
  · rw [hk]
    change ((d.setRecv p i y).recvChan p i).map _ = (d.recvChan p i).map _
    rw [Dev.setRecv_recvChan_self, hx, Option.map_some, Option.map_some, hy]
  · have hne : (d.setRecv p i y).recvAt k = d.recvAt k := Store.get_set_ne (none : Option RecvChan) d.fab.recv (some y) hk
    rw [hne]

theorem modRecv (d : Dev) (p i : Nat) {f : RecvChan → RecvChan} (hf : ∀ x, (f x).order = x.order) : d.SameOrder (d.modRecv p i f) := by
  unfold Dev.modRecv
  split
  · next x hx => exact setRecv hx (hf x)
  · exact refl d

theorem modNet (d : Dev) (n : Nat) (f : Network → Network) : d.SameOrder (d.modNet n f) := of_carried (.modNet d n f)

theorem sendAck (d : Dev) (p i net : Nat) : d.SameOrder (d.sendAck p i net) := by
  unfold Dev.sendAck
  split
  · exact refl d
  · next x hx =>
    have hemit := Dev.Carried.emitPkt d net 7 (peerAddr d p x.peer net) { d.hdr p x.peer x.chan 0x10 (d.partStamp p).step (d.partStamp p).phase 0 with
      ackseq := x.next % 2 ^ 32, tsw0 := x.grantDue, ece := x.ceDue, fov := net != ceNet x.entry } []
    exact (of_carried hemit).trans (setRecv ((hemit.recvChan p i).trans hx) rfl)

theorem sendNak (d : Dev) (p i net : Nat) (epw : Bool) : d.SameOrder (d.sendNak p i net epw) := by
  unfold Dev.sendNak
  split
  · exact refl d
  · exact of_carried ((Dev.Carried.emitPkt d ..).trans (.modNet ..))

theorem grantTurns (net f : Nat) (d : Dev) (l : List Nat) : d.SameOrder (Dev.grantTurns net f d l).1 := by
  induction f generalizing d l with
  | zero => exact refl d
  | succ f ih =>
    unfold Dev.grantTurns
    split
    · exact refl d
    · dsimp only
      refine .trans ?_ (ih _ _)
      refine .trans ?_ (modNet ..)
      exact modRecv d _ _ fun _ => rfl

theorem serveWants (d : Dev) (net : Nat) : d.SameOrder (d.serveWants net) := by
  unfold Dev.serveWants
  refine (grantTurns net _ d []).trans (foldl (fun d k => ?_) _ _)
  split
  · exact sendAck d ..
  · exact refl d

theorem giveBack (d : Dev) (p i n : Nat) : d.SameOrder (d.giveBack p i n) := by
  unfold Dev.giveBack
  split
  · exact refl d
  · next x hx =>
    dsimp only
    refine .trans ?_ (serveWants ..)
    refine .trans ?_ (modNet ..)
    exact setRecv hx rfl

theorem acctChan (d : Dev) (chan : Nat) (entry : List Nat) (net n : Nat) (tx : Bool) : d.SameOrder (d.acctChan chan entry net n tx) :=
  of_carried (.acctChan d ..)

end Dev.SameOrder

/-! ## One delivery (R283, R286) -/

theorem Dev.delivered_one {d : Dev} {p i : Nat} {x : RecvChan} {k : HeldPkt} (hx : d.recvChan p i = some x) (hk : x.at' x.next = some k) :
    ∃ y, (d.delivered p i 1).recvChan p i = some y ∧ y.order = { x.order with next := x.next + 1, held := x.held.erase k } := by
  unfold Dev.delivered
  rw [hx]
  dsimp only
  rw [hk]
  dsimp only [Dev.delivered]
  have hset := d.setRecv_recvChan_self p i { x with
    next := x.next + 1, held := x.held.erase k, unacked := x.unacked + 1, ceDue := x.ceDue || k.ce, nakSent := none }
  generalize d.setRecv p i { x with
    next := x.next + 1, held := x.held.erase k, unacked := x.unacked + 1, ceDue := x.ceDue || k.ce, nakSent := none } = e at hset ⊢
  refine Dev.SameOrder.recvChan (x := { x with
    next := x.next + 1, held := x.held.erase k, unacked := x.unacked + 1, ceDue := x.ceDue || k.ce, nakSent := none }) ?_ hset
  have hgive := fun e' : Dev => Dev.SameOrder.giveBack e' p i (cellsOf k.hdr.plen)
  exact .of_ite (((Dev.SameOrder.acctChan e ..).trans (hgive _)).trans (.sendAck ..)) ((Dev.SameOrder.acctChan e ..).trans (hgive _))

/-- Nothing is delivered while the packet at NEXT is not there. -/
theorem Dev.deliver_of_absent {d : Dev} {p i : Nat} {x : RecvChan} (hx : d.recvChan p i = some x) (hk : x.at' x.next = none) (f : Nat) :
    Dev.deliver p i f d = d := by
  cases f with
  | zero => rfl
  | succ f =>
    unfold Dev.deliver
    rw [hx]
    dsimp only
    rw [hk]

theorem Dev.deliverAll_of_absent {d : Dev} {p i : Nat} {x : RecvChan} (hx : d.recvChan p i = some x) (hk : x.at' x.next = none) :
    d.deliverAll p i = d := by
  unfold Dev.deliverAll
  rw [hx]
  exact Dev.deliver_of_absent hx hk _

theorem RecvChan.at'_of_nil {x : RecvChan} (h : x.held = []) (seq : Nat) : x.at' seq = none := by rw [RecvChan.at', h]; rfl

theorem RecvChan.at'_of_single {x : RecvChan} {k : HeldPkt} (h : x.held = [k]) (hs : k.hdr.seq = x.next % 2 ^ 32) : x.at' x.next = some k := by
  rw [RecvChan.at', h, List.find?_cons_of_pos]
  exact beq_iff_eq.2 hs

end Sys2Proof.Machine
end

section
/-! PROOF. Windows, their release and the packet that waits (R287, R290). -/

namespace Sys2Proof.Machine
open Sys2Proof Sys2Proof.Machine.Claims

/-! ## A WRITE into an open window (R290) -/

/-- The channel after `n` more bytes in a slot (R290). -/
def RecvChan.counted (x : RecvChan) (slot n : Nat) : RecvChan := { x with slotCnt := Store.set 0 x.slotCnt slot (Store.get 0 x.slotCnt slot + n) }

section
variable {d : Dev} {p i : Nat} {x : RecvChan} {k : HeldPkt} (hx : d.recvChan p i = some x) (hw : windowOpen d p x k.hdr)
include hx hw

theorem Dev.placeWindow_of_open : ∃ e, d.placeWindow p i x k = .done 1 e ∧ e.mem = afterWindow d p x k.hdr k.payload ∧
    e.recvChan p i = some (x.counted (d.window p x.entry k.hdr.step k.hdr.phase % ceSlots x.entry) k.hdr.plen) := by
  obtain ⟨hchan, hdest, htype, hold, hnew, hroom, hbytes, hhot⟩ := hw
  have hmeter : d.meter (ceBase x.entry + 512 + d.window p x.entry k.hdr.step k.hdr.phase % ceSlots x.entry * ceSlotb x.entry + k.hdr.tsw0)
      k.hdr.plen = some d := by
    unfold Dev.meter
    simp [hhot]
  unfold Dev.placeWindow
  dsimp only
  rw [if_neg (by simp [htype]), if_neg (by omega), if_neg (by omega), if_neg (by simp; omega), hmeter]
  dsimp only
  refine ⟨_, rfl, ?_, ?_⟩
  · rw [apply_ite Dev.mem, Dev.netSignal_mem, ite_self, Dev.modRecv_mem, Dev.unitWrite_mem_memPut,
      Dev.memPut_mem_congr (Dev.uniWrite_mem_memPut ..)]
    rfl
  · have hsig (c : Prop) [Decidable c] (e : Dev) (a b c' f : Nat) :
        (if c then e.netSignal a b c' f else e).recvChan p i = e.recvChan p i := by
      split
      · exact (Dev.SameFab.netSignal e ..).recvChan p i
      · rfl
    have hwritten := ((Dev.SameFab.uniWrite d p (ceCtx x.entry) (ceBase x.entry + 512 +
      d.window p x.entry k.hdr.step k.hdr.phase % ceSlots x.entry * ceSlotb x.entry + k.hdr.tsw0) k.payload (bit k.hdr.tsw1 0)).trans
      (.unitWrite _ p (ceBase x.entry + 8 + 4 * (d.window p x.entry k.hdr.step k.hdr.phase % ceSlots x.entry)) (toLe 4
        (Store.get 0 x.slotCnt (d.window p x.entry k.hdr.step k.hdr.phase % ceSlots x.entry) + k.hdr.plen)) false)).recvChan p i
    rw [hsig, Dev.modRecv_of_some (hwritten.trans hx), Dev.setRecv_recvChan_self]
    rfl

/-- The one packet held at NEXT is placed and delivered. -/
theorem Dev.deliverAll_of_open (hh : x.held = [k]) (hs : k.hdr.seq = x.next % 2 ^ 32) :
    (d.deliverAll p i).mem = afterWindow d p x k.hdr k.payload ∧
    ∃ y, (d.deliverAll p i).recvChan p i = some y ∧ y.next = x.next + 1 ∧ y.held = [] := by
  have hchan : x.chan < 4064 := hw.1
  have hdest : ceDest x.entry = 0 := hw.2.1
  obtain ⟨e, hplace, hmem, hrecv⟩ := Dev.placeWindow_of_open hx hw
  have hat := RecvChan.at'_of_single hh hs
  obtain ⟨y, hy, horder⟩ := Dev.delivered_one hrecv (k := k) hat
  have hnext : y.next = x.next + 1 := (congrArg (fun z : RecvChan => z.next) horder :)
  have hheld : y.held = [] := by
    have h : y.held = x.held.erase k := (congrArg (fun z : RecvChan => z.held) horder :)
    rw [h, hh, List.erase_cons_head]
  have hrun : d.deliverAll p i = e.delivered p i 1 := by
    unfold Dev.deliverAll
    rw [hx]
    dsimp only
    rw [Dev.deliver, hx]
    dsimp only
    rw [hat]
    dsimp only
    rw [if_neg (by omega), hdest, hplace]
    exact Dev.deliver_of_absent hy (y.at'_of_nil hheld _) _
  rw [hrun]
  exact ⟨(Dev.delivered_mem ..).trans hmem, y, hy, hnext, hheld⟩

end

/-- Settles O37: RELW is written back or faults, and the packet at NEXT lands once its window is open. -/
theorem windowsAreReleasedAndWaitingPacketsPlaced : Obligations.WindowsAreReleasedAndWaitingPacketsPlaced := by
  unfold Obligations.WindowsAreReleasedAndWaitingPacketsPlaced
  intro s p i x hp hx
  have hrelw : exec (.relwWrite p i) s = .next { s with dev := s.dev.relwWrite p i } := onUnit_eq (decide_eq_true hp) _
  refine ⟨fun hd hr hh => ?_, fun hd hr => ?_, fun k hh hs hw => ?_⟩
  · have hrun : s.dev.relwWrite p i = (((s.dev.unitWrite p (ceBase x.entry + 8 + 4 * (x.oldw % ceSlots x.entry)) (toLe 4 0) false).unitWrite p
        (ceBase x.entry + 4) (toLe 4 (x.oldw + 1)) false).setRecv p i
        { x with slotCnt := Store.set 0 x.slotCnt (x.oldw % ceSlots x.entry) 0, oldw := x.oldw + 1 }) := by
      unfold Dev.relwWrite
      rw [hx]
      dsimp only
      rw [if_neg (by simp [hd]), if_neg (by simp [hr])]
      exact Dev.deliverAll_of_absent (Dev.setRecv_recvChan_self ..) (RecvChan.at'_of_nil hh _)
    refine ⟨_, { x with slotCnt := Store.set 0 x.slotCnt (x.oldw % ceSlots x.entry) 0, oldw := x.oldw + 1 }, hrelw, ⟨rfl, rfl⟩, ?_, rfl,
        Store.get_set_self 0 x.slotCnt _ 0, fun k hk => Store.get_set_ne 0 x.slotCnt 0 hk, fun hw => ?_, ?_⟩ <;> dsimp only <;> rw [hrun]
    · rw [Dev.setRecv_recvChan_self]
    · change (Dev.unitWrite _ ..).cores = _
      rw [Dev.unitWrite_of_noWindows (noWindows_unitWrite hw ..), Dev.unitWrite_of_noWindows hw]
      simp
    · change (Dev.unitWrite _ ..).mem = _
      rw [Dev.unitWrite_mem_memPut, Dev.memPut_mem_congr (Dev.unitWrite_mem_memPut ..)]
  · have hrun : s.dev.relwWrite p i = s.dev.contextFault 0x0806 p (ceCtx x.entry) 0x1FF [] := by
      unfold Dev.relwWrite
      rw [hx]
      dsimp only
      rw [if_neg (by simp [hd]), if_pos (by simpa using hr)]
    refine ⟨_, hrelw, ⟨rfl, rfl⟩, ?_, ?_, ?_, ?_⟩ <;> dsimp only <;> rw [hrun]
    · exact Dev.contextFault_mem ..
    · exact Dev.contextFault_recv ..
    · exact Dev.contextFault_sendChans ..
    · rw [Dev.contextFault_part_self]
  · obtain ⟨hmem, y, hy, hnext, hheld⟩ := Dev.deliverAll_of_open hx hw hh hs
    exact ⟨_, y, onUnit_eq (decide_eq_true hp) _, ⟨rfl, rfl⟩, hmem, hy, hnext, hheld⟩

end Sys2Proof.Machine
end

section
/-! PROOF. Data packets are placed, held, answered or discarded (R279, R283, R285, R290, R294). -/

namespace Sys2Proof.Machine
open Sys2Proof Sys2Proof.Machine.Claims

/-! ## What a packet changes of a network -/

/-- What a network reads as but for the counters of sent packets and the neighbors it knows. -/
theorem Dev.emitPkt_net {α : Type} (d : Dev) (net pcp dst : Nat) (h : DataHdr) (payload : List Byte) (k : Nat) (g : Network → α)
    (hg : ∀ x, g (netCnt 14 1 x) = g x) (hn : ∀ x l, g { x with neigh := l } = g x) : g ((d.emitPkt net pcp dst h payload).net k) = g (d.net k) := by
  have hneigh (e : Dev) (n a : Nat) : g ((e.modNet n (fun x => { x with neigh := x.neigh ++ [a] })).net k) = g (e.net k) := by
    rcases e.modNet_net_cases n k (fun x => { x with neigh := x.neigh ++ [a] }) with h | h <;> rw [h]
    exact hn ..
  have hhop : g ((d.nextHop net dst (srcPort h.chan)).2.net k) = g (d.net k) := by
    unfold Dev.nextHop
    split
    · rfl
    · dsimp only
      split
      · rfl
      · next a _ =>
        have hany : (d.anyPort net).2.net k = d.net k := rfl
        revert hany
        rcases d.anyPort net with ⟨_ | e, d'⟩
        · exact fun h => congrArg g h
        · intro hany
          dsimp only
          split
          · exact congrArg g hany
          · rw [(Dev.SameFab.of_sent (Dev.sendOn_same ..)).net]
            exact (hneigh d' net a).trans (congrArg g hany)
  unfold Dev.emitPkt
  dsimp only
  split
  · exact hhop
  · rw [(Dev.SameFab.of_sent (Dev.sendOn_same ..)).net]
    exact ((Dev.modNet_netCnt_net _ net 14 1 k g hg)).trans hhop

/-- Counting one thing leaves what is counted of another. -/
theorem bump_ne (m : Store (BitVec 32)) {i j : Nat} (n : Nat) (h : i ≠ j) : Store.get 0#32 (bump m j n) i = Store.get 0#32 m i :=
  Store.get_set_ne 0#32 m _ h

theorem netCounter_netCnt_ne (d : Dev) (n c k : Nat) {i j : Nat} (h : i ≠ j) : netCounter (d.modNet n (netCnt j c)) k i = netCounter d k i :=
  d.modNet_netCnt_net n j c k (fun x => Store.get 0#32 x.cnt i) fun x => bump_ne x.cnt c h

theorem netCounter_emitPkt (d : Dev) (net pcp dst : Nat) (h : DataHdr) (payload : List Byte) (k : Nat) {i : Nat} (hi : i ≠ 14) :
    netCounter (d.emitPkt net pcp dst h payload) k i = netCounter d k i :=
  d.emitPkt_net net pcp dst h payload k (fun x => Store.get 0#32 x.cnt i) (fun x => bump_ne x.cnt 1 hi) fun _ _ => rfl

theorem netCounter_sendNak (d : Dev) (p i net : Nat) (epw : Bool) (k : Nat) {j : Nat} (h14 : j ≠ 14) (h16 : j ≠ 16) :
    netCounter (d.sendNak p i net epw) k j = netCounter d k j := by
  unfold Dev.sendNak
  split
  · rfl
  · exact (netCounter_netCnt_ne _ net 1 k h16).trans (netCounter_emitPkt d _ _ _ _ _ k h14)

theorem netCounter_sendAck (d : Dev) (p i net k : Nat) {j : Nat} (h14 : j ≠ 14) : netCounter (d.sendAck p i net) k j = netCounter d k j := by
  unfold Dev.sendAck
  split
  · rfl
  · exact netCounter_emitPkt d _ _ _ _ _ k h14

theorem netCounter_event (d : Dev) (code part ctx lcore : Nat) (detail : List Nat) (k i : Nat) :
    netCounter (d.event code part ctx lcore detail) k i = netCounter d k i := by
  rw [netCounter, (Dev.SameFab.event d ..).net, netCounter]

/-! ## The packet finds its channel (R279, R294, R298) -/

section
variable {d : Dev} {h : DataHdr} {u : Nat} {payload plain : List Byte} {p i : Nat} {x : RecvChan}

@[simp] theorem Dev.modNet_openPkt (d : Dev) (n : Nat) (f : Network → Network) (p : Nat) (e : List Nat) (h : DataHdr) (pl : List Byte) :
    (d.modNet n f).openPkt p e h pl = d.openPkt p e h pl := by
  obtain ⟨a, b, he⟩ := d.modNet_eq n f
  rw [he]
  rfl

/-- A packet of a data type on a known channel, as far as opening it (R279, R298). -/
theorem Dev.dataReceive_of_found (hb : badData h u payload = false) (ht : h.type < 5) (hch : h.chan ≠ 4070) (hpart : d.swarmPart h = some p)
    (hpeer : (d.peer p h.srank).valid = true) (hfind : d.findRecv p h = some i) (hx : d.recvChan p i = some x) (net : Nat) (ce : Bool) :
    d.dataReceive net h ce u payload = (let e := d.modNet net (netCnt 13 1)
      match d.openPkt p x.entry h payload with
      | none => e.authFail net p
      | some plain =>
        if serialEarlier 16 h.epoch (d.part p).epoch then e.modNet net (netCnt 25 1)
        else if h.epoch != (d.part p).epoch then e.sendNak p i net true
        else e.sequence p i net h ce plain) := by
  have hopen : (d.modNet net (netCnt 13 1)).openRecovery p h = d.modNet net (netCnt 13 1) :=
    Dev.openRecovery_of_found (by rw [Dev.modNet_findRecv, hfind])
  unfold Dev.dataReceive
  rw [if_neg (by simp [hb])]
  split
  · omega
  · omega
  · omega
  · omega
  · simp only [hpart, hpeer, hfind, hx, hopen, hch, Dev.modNet_swarmPart, Dev.modNet_peer, Dev.modNet_findRecv, Dev.modNet_recvChan,
      Dev.modNet_openPkt, Dev.modNet_part, Bool.not_true, Bool.false_eq_true, if_false] <;> rfl

theorem Dev.dataReceive_of_bad (hb : badData h u payload = true) (net : Nat) (ce : Bool) :
    d.dataReceive net h ce u payload = (d.modNet net (netCnt 13 1)).rxd net := if_pos hb

theorem Dev.dataReceive_of_received (hr : received d h u payload p i x plain) (net : Nat) (ce : Bool) :
    d.dataReceive net h ce u payload = (let e := d.modNet net (netCnt 13 1)
      if serialEarlier 16 h.epoch (d.part p).epoch then e.modNet net (netCnt 25 1)
      else if h.epoch != (d.part p).epoch then e.sendNak p i net true
      else e.sequence p i net h ce plain) := by
  obtain ⟨hb, ht, hch, hpart, hpeer, hfind, hx, hopen⟩ := hr
  rw [Dev.dataReceive_of_found hb ht hch hpart hpeer hfind hx, hopen]

theorem Dev.dataReceive_of_accepts (ha : accepts d h u payload p i x plain) (net : Nat) (ce : Bool) :
    d.dataReceive net h ce u payload = (d.modNet net (netCnt 13 1)).sequence p i net h ce plain := by
  obtain ⟨hr, hep, hlt⟩ := ha
  have hearlier : serialEarlier 16 h.epoch (d.part p).epoch = false := hep ▸ serialEarlier_self hlt (by decide)
  rw [Dev.dataReceive_of_received hr]
  dsimp only
  rw [if_neg (by simp [hearlier]), if_neg (by simp [hep])]

end

/-! ## A packet that does not open (R294, R303) -/

theorem Dev.authFail_carried (d : Dev) (net p : Nat) : d.Carried (d.authFail net p) := by
  unfold Dev.authFail Dev.limited
  dsimp only
  have hchoice (e : Dev) : e.Carried (e.freshChoice 2).2 := ⟨.freshChoice e 2, rfl, rfl, rfl⟩
  split
  · exact ((Dev.Carried.modNet d ..).trans (.event ..)).trans (.modNet ..)
  · exact .of_ite ((((Dev.Carried.modNet d ..).trans (hchoice _)).trans (.event ..)).trans (.modNet ..))
      (((Dev.Carried.modNet d ..).trans (hchoice _)).trans (.modNet ..))

theorem netCounter_authFail (d : Dev) (net p : Nat) : netCounter (d.authFail net p) net 21 = netCounter d net 21 + 1#32 := by
  have hlast (e : Dev) (v : Option Nat) : netCounter (e.modNet net (fun x => { x with authLast := v })) net 21 = netCounter e net 21 := by
    rw [netCounter, Dev.modNet_net_self, netCounter]
  have hchoice (e : Dev) : netCounter (e.freshChoice 2).2 net 21 = netCounter e net 21 := rfl
  rw [← netCounter_modNet]
  unfold Dev.authFail Dev.limited
  dsimp only
  split
  · rw [hlast, netCounter_event]
  · split
    · rw [hlast, netCounter_event, hchoice]
    · rw [hlast, hchoice]

end Sys2Proof.Machine
end

section
/-! PROOF. Data packets are placed, held, answered or discarded (R279, R283, R285, R290, R294). -/

namespace Sys2Proof.Machine
open Sys2Proof Sys2Proof.Machine.Claims

/-! ## A packet in its channel's sequence (R283) -/

/-- The channel has heard a packet on a network, and its request for credit (R287, R299). -/
def Dev.heard (d : Dev) (p i net : Nat) (x : RecvChan) (creq : Bool) : Dev :=
  let e := d.setRecv p i { x with arr := net }
  if creq then
    (match e.grantShared p i 16 with
     | some d => d
     | none => e.modRecv p i (fun y => { y with want := max y.want 16 }))
  else e

/-- `e` is `d` but for what channel (p, i) may get and has to acknowledge, and the cells of its network. -/
structure Dev.Heard (d e : Dev) : Prop where
  net : d.SameButNet e
  order : d.SameOrder e
  tx : e.tx = d.tx
  clear : ∀ {n dst chan pcp}, pathClear d n dst chan pcp → pathClear e n dst chan pcp
  addr : ∀ q r k, peerAddr e q r k = peerAddr d q r k
  counter : ∀ k j, netCounter e k j = netCounter d k j

namespace Dev.Heard

theorem refl (d : Dev) : d.Heard d := ⟨.refl d, .refl d, rfl, id, fun _ _ _ => rfl, fun _ _ => rfl⟩

theorem trans {d e f : Dev} (h : d.Heard e) (k : e.Heard f) : d.Heard f :=
  ⟨h.net.trans k.net, h.order.trans k.order, k.tx.trans h.tx, fun c => k.clear (h.clear c), fun q r n => (k.addr q r n).trans (h.addr q r n),
    fun n j => (k.counter n j).trans (h.counter n j)⟩

theorem setRecv {d : Dev} {p i : Nat} {x y : RecvChan} (hx : d.recvChan p i = some x) (hy : y.order = x.order) : d.Heard (d.setRecv p i y) :=
  ⟨.setRecv d p i y, .setRecv hx hy, rfl, id, fun _ _ _ => rfl, fun _ _ => rfl⟩

theorem modNet {d : Dev} (n : Nat) {f : Network → Network} (hf : ∀ x, (f x).cnt = x.cnt) : d.Heard (d.modNet n f) := by
  refine ⟨.modNet d n f, .modNet d n f, d.modNet_tx n f, fun h => pathClear_modNet n f h, fun q r k => peerAddr_modNet d n f q r k, fun k j => ?_⟩
  unfold netCounter
  rcases d.modNet_net_cases n k f with h | h <;> rw [h]
  rw [hf]

theorem heard {d : Dev} {p i : Nat} {x : RecvChan} (hx : d.recvChan p i = some x) (net : Nat) (creq : Bool) : d.Heard (d.heard p i net x creq) := by
  have harr : d.Heard (d.setRecv p i { x with arr := net }) := setRecv hx rfl
  have hself := d.setRecv_recvChan_self p i { x with arr := net }
  unfold Dev.heard
  dsimp only
  generalize d.setRecv p i { x with arr := net } = e at harr hself ⊢
  split
  · refine harr.trans ?_
    unfold Dev.grantShared
    rw [hself]
    dsimp only
    split
    · next g hg =>
      split at hg
      · obtain rfl := Option.some.inj hg
        refine .trans ?_ (modNet _ fun _ => rfl)
        exact setRecv hself rfl
      · cases hg
    · rw [Dev.modRecv_of_some hself]
      exact setRecv hself rfl
  · exact harr

end Dev.Heard

section
variable {d : Dev} {p i : Nat} {x : RecvChan} (hx : d.recvChan p i = some x) (net : Nat) (h : DataHdr) (ce : Bool) (pl : List Byte)
include hx

/-- A duplicate is answered with an ACK (R283). -/
theorem Dev.sequence_of_earlier (he : serialEarlier 32 h.seq (x.next % 2 ^ 32) = true) :
    d.sequence p i net h ce pl = ((d.heard p i net x h.creq).modNet net (netCnt 17 1)).sendAck p i net := by
  unfold Dev.sequence
  rw [hx]
  exact if_pos he

/-- A packet that is new waits in the receive buffer (R283). -/
theorem Dev.sequence_of_new (he : serialEarlier 32 h.seq (x.next % 2 ^ 32) = false) (hat : x.at' h.seq = none) :
    d.sequence p i net h ce pl = (let e := (d.heard p i net x h.creq).modRecv p i (fun y => { y with held := y.held ++ [⟨h, pl, ce, net⟩] })
      if h.seq = x.next % 2 ^ 32 || x.secondHalf h then e.deliverAll p i
      else
        let d := e.modNet net (netCnt 18 1)
        let y := d.freshChoice 2
        if x.nakSent != some x.next then
          (d.modRecv p i (fun z => { z with nakSent := some x.next })).sendNak p i net false
        else if y.1 = 0 then y.2.sendNak p i net false
        else y.2) := by
  unfold Dev.sequence
  rw [hx]
  dsimp only
  rw [if_neg (by rw [he]; exact Bool.false_ne_true), hat]
  rfl

/-- The new packet joins what the channel holds. -/
theorem Dev.heard_held (creq : Bool) (k : HeldPkt) :
    ∃ y, (d.heard p i net x creq).modRecv p i (fun y => { y with held := y.held ++ [k] }) = (d.heard p i net x creq).setRecv p i y ∧
      y.order = { x.order with held := x.held ++ [k] } := by
  obtain ⟨y, hy, horder⟩ := (Dev.Heard.heard hx net creq).order.recvChan hx
  refine ⟨_, Dev.modRecv_of_some hy _, ?_⟩
  have hheld : y.held = x.held := RecvChan.order_held horder
  have h := congrArg (fun z : RecvChan => { z with held := x.held ++ [k] }) horder
  rw [hheld]
  exact h

end

/-! ## A window seen by the same module -/

/-- A window is open whatever the network did meanwhile. -/
theorem windowOpen_congr {d e : Dev} (hn : d.SameButNet e) {p : Nat} {x y : RecvChan} {h : DataHdr} (hchan : y.chan = x.chan)
    (hentry : y.entry = x.entry) (hold : y.oldw = x.oldw) (hslot : y.slotCnt = x.slotCnt) (hw : windowOpen d p x h) : windowOpen e p y h := by
  obtain ⟨⟨tx, fab, chans, bb, fi, ctxs, rfl⟩, _⟩ := hn
  unfold windowOpen at hw ⊢
  rw [hchan, hentry, hold, hslot]
  exact hw

theorem afterWindow_congr {d e : Dev} (hn : d.SameButNet e) {p : Nat} {x y : RecvChan} {h : DataHdr} (hentry : y.entry = x.entry)
    (hslot : y.slotCnt = x.slotCnt) (bs : List Byte) : afterWindow e p y h bs = afterWindow d p x h bs := by
  obtain ⟨⟨tx, fab, chans, bb, fi, ctxs, rfl⟩, _⟩ := hn
  unfold afterWindow
  rw [hentry, hslot]
  rfl

/-- A window past the open ones keeps the packet waiting (R290). -/
theorem Dev.deliverAll_of_ahead {d : Dev} {p i : Nat} {x : RecvChan} {k : HeldPkt} (hx : d.recvChan p i = some x) (hh : x.held = [k])
    (hs : k.hdr.seq = x.next % 2 ^ 32) (hchan : x.chan < 4064) (hdest : ceDest x.entry = 0) (htype : k.hdr.type = 1)
    (hahead : x.oldw + ceSlots x.entry ≤ d.window p x.entry k.hdr.step k.hdr.phase) : d.deliverAll p i = d := by
  have hat := RecvChan.at'_of_single hh hs
  have hplace : d.placeWindow p i x k = .waits d := by
    unfold Dev.placeWindow
    dsimp only
    rw [if_neg (by simp [htype]), if_neg (by omega), if_pos hahead]
  unfold Dev.deliverAll
  rw [hx]
  dsimp only
  rw [Dev.deliver, hx]
  dsimp only
  rw [hat]
  dsimp only
  rw [if_neg (by omega), hdest, hplace]
  rfl

/-! ## What becomes of a packet at, below and above NEXT (R283, R290) -/

section
variable {d : Dev} {p i : Nat} {x : RecvChan} (hx : d.recvChan p i = some x) (net : Nat) (h : DataHdr) (ce : Bool) (pl : List Byte)
include hx

theorem Dev.sequence_duplicate (he : serialEarlier 32 h.seq (x.next % 2 ^ 32) = true)
    (hc : pathClear d net (peerAddr d p x.peer net) x.chan 7) :
    (d.sequence p i net h ce pl).mem = d.mem ∧ netCounter (d.sequence p i net h ce pl) net 17 = netCounter d net 17 + 1#32 ∧
    ∃ o m ip q, (d.sequence p i net h ce pl).tx = d.tx ++ [.data net o m ip q []] ∧ q.type = 0x10 ∧ q.ackseq = x.next % 2 ^ 32 := by
  rw [Dev.sequence_of_earlier hx net h ce pl he]
  have hheard := Dev.Heard.heard hx net h.creq
  obtain ⟨y, hy, horder⟩ := hheard.order.recvChan hx
  generalize d.heard p i net x h.creq = e at hheard hy
  have hc' := pathClear_modNet net (netCnt 17 1) (hheard.clear hc)
  rw [← hheard.addr, ← RecvChan.order_peer horder, ← RecvChan.order_chan horder, ← peerAddr_modNet e net (netCnt 17 1)] at hc'
  obtain ⟨o, m, ip, q, htx, htype, hack, -, -⟩ := Dev.sendAck_of_clear ((e.modNet_recvChan ..).trans hy) hc'
  rw [Dev.modNet_tx, hheard.tx] at htx
  refine ⟨?_, ?_, o, m, ip, q, htx, htype, RecvChan.order_next horder ▸ hack⟩
  · exact (Dev.SameButNet.sendAck ..).mem.trans ((Dev.SameButNet.modNet e ..).mem.trans hheard.net.mem)
  · rw [netCounter_sendAck _ _ _ _ _ (by decide), netCounter_modNet, hheard.counter]

theorem Dev.sequence_gap (he : serialEarlier 32 h.seq (x.next % 2 ^ 32) = false) (hne : h.seq ≠ x.next % 2 ^ 32) (hs : x.secondHalf h = false)
    (hat : x.at' h.seq = none) :
    (d.sequence p i net h ce pl).mem = d.mem ∧ netCounter (d.sequence p i net h ce pl) net 18 = netCounter d net 18 + 1#32 ∧
    (∃ y, (d.sequence p i net h ce pl).recvChan p i = some y ∧ y.next = x.next ∧ y.held = x.held ++ [⟨h, pl, ce, net⟩]) ∧
    (x.nakSent ≠ some x.next → pathClear d net (peerAddr d p x.peer net) x.chan 7 →
      ∃ o m ip q, (d.sequence p i net h ce pl).tx = d.tx ++ [.data net o m ip q []] ∧ q.type = 0x11 ∧ q.tsw0 = x.next % 2 ^ 32 ∧ q.epw = false) := by
  have hheard := Dev.Heard.heard hx net h.creq
  obtain ⟨y, hmod, hy⟩ := Dev.heard_held hx net h.creq ⟨h, pl, ce, net⟩
  rw [Dev.sequence_of_new hx net h ce pl he hat, hmod]
  dsimp only
  rw [if_neg (by rw [hs, decide_eq_false hne]; exact Bool.false_ne_true)]
  generalize d.heard p i net x h.creq = e at hheard
  have hrecv : ((e.setRecv p i y).modNet net (netCnt 18 1)).recvChan p i = some y :=
    (Dev.modNet_recvChan ..).trans (Dev.setRecv_recvChan_self ..)
  have hnet : d.SameButNet ((e.setRecv p i y).modNet net (netCnt 18 1)) := (hheard.net.trans (.setRecv e p i y)).trans (.modNet ..)
  have htx : ((e.setRecv p i y).modNet net (netCnt 18 1)).tx = d.tx := (Dev.modNet_tx ..).trans hheard.tx
  have hcnt : netCounter ((e.setRecv p i y).modNet net (netCnt 18 1)) net 18 = netCounter d net 18 + 1#32 :=
    (netCounter_modNet ..).trans (congrArg (· + 1#32) (hheard.counter net 18))
  have hclear (hc : pathClear d net (peerAddr d p x.peer net) x.chan 7) : pathClear ((e.setRecv p i y).modNet net (netCnt 18 1)) net
      (peerAddr ((e.setRecv p i y).modNet net (netCnt 18 1)) p y.peer net) y.chan 7 := by
    have hpeer : y.peer = x.peer := (congrArg (fun z : RecvChan => z.peer) hy :)
    have hchan : y.chan = x.chan := (congrArg (fun z : RecvChan => z.chan) hy :)
    have h' : pathClear (e.setRecv p i y) net (peerAddr d p x.peer net) x.chan 7 := hheard.clear hc
    rw [hpeer, hchan, peerAddr_modNet]
    exact (hheard.addr p x.peer net).symm ▸ pathClear_modNet net _ h'
  have hnext : y.next = x.next := (congrArg (fun z : RecvChan => z.next) hy :)
  have hheld : y.held = x.held ++ [⟨h, pl, ce, net⟩] := (congrArg (fun z : RecvChan => z.held) hy :)
  generalize (e.setRecv p i y).modNet net (netCnt 18 1) = f at hrecv hnet htx hcnt hclear ⊢
  have hdone {g : Dev} (hn : f.SameButNet g) (ho : f.SameOrder g) (hk : netCounter g net 18 = netCounter f net 18) :
      g.mem = d.mem ∧ netCounter g net 18 = netCounter d net 18 + 1#32 ∧
        ∃ z, g.recvChan p i = some z ∧ z.next = x.next ∧ z.held = x.held ++ [⟨h, pl, ce, net⟩] := by
    obtain ⟨z, hz, hzo⟩ := ho.recvChan hrecv
    exact ⟨(hnet.trans hn).mem, hk.trans hcnt, z, hz, (RecvChan.order_next hzo).trans hnext, (RecvChan.order_held hzo).trans hheld⟩
  by_cases hnak : x.nakSent = some x.next
  · rw [if_neg (by simp [hnak])]
    have hchoice : f.SameOrder (f.freshChoice 2).2 := .of_recv rfl
    have hall : ∀ g, g = f.freshChoice 2 → (if g.1 = 0 then g.2.sendNak p i net false else g.2).mem = d.mem ∧
        netCounter (if g.1 = 0 then g.2.sendNak p i net false else g.2) net 18 = netCounter d net 18 + 1#32 ∧
        ∃ z, (if g.1 = 0 then g.2.sendNak p i net false else g.2).recvChan p i = some z ∧ z.next = x.next ∧ z.held = x.held ++ [⟨h, pl, ce, net⟩] := by
      rintro g rfl
      split
      · exact hdone ((Dev.SameButNet.freshChoice f 2).trans (.sendNak ..)) (hchoice.trans (.sendNak ..))
          (netCounter_sendNak _ _ _ _ _ _ (by decide) (by decide))
      · exact hdone (Dev.SameButNet.freshChoice f 2) hchoice rfl
    obtain ⟨hmem, hk, hz⟩ := hall _ rfl
    exact ⟨hmem, hk, hz, fun hn => absurd hnak hn⟩
  · rw [if_pos (by simpa using hnak), Dev.modRecv_of_some hrecv]
    have hset : (f.setRecv p i { y with nakSent := some x.next }).recvChan p i = some { y with nakSent := some x.next } := Dev.setRecv_recvChan_self ..
    obtain ⟨hmem, hk, hz⟩ := hdone ((Dev.SameButNet.setRecv f p i { y with nakSent := some x.next }).trans (.sendNak _ p i net false))
      ((Dev.SameOrder.setRecv hrecv (y := { y with nakSent := some x.next }) rfl).trans (.sendNak ..)) (netCounter_sendNak _ _ _ _ _ _ (by decide) (by decide))
    refine ⟨hmem, hk, hz, fun _ hc => ?_⟩
    obtain ⟨o, m, ip, q, hq, htype, htsw, hepw⟩ := Dev.sendNak_of_clear hset false (hclear hc)
    exact ⟨o, m, ip, q, hq.trans (congrArg (· ++ _) htx), htype, by rw [htsw, hnext], hepw⟩

/-- The channel holds just the packet at NEXT. -/
theorem Dev.sequence_at_next (hs : h.seq = x.next % 2 ^ 32) (hh : x.held = []) :
    ∃ e y, d.sequence p i net h ce pl = e.deliverAll p i ∧ d.SameButNet e ∧ e.recvChan p i = some y ∧
      y.order = { x.order with held := [⟨h, pl, ce, net⟩] } := by
  obtain ⟨y, hmod, hy⟩ := Dev.heard_held hx net h.creq ⟨h, pl, ce, net⟩
  have he : serialEarlier 32 h.seq (x.next % 2 ^ 32) = false := by
    rw [hs]
    exact serialEarlier_self (Nat.mod_lt _ (Nat.two_pow_pos 32)) (by decide)
  refine ⟨(d.heard p i net x h.creq).setRecv p i y, y, ?_, (Dev.Heard.heard hx net h.creq).net.trans (.setRecv ..), Dev.setRecv_recvChan_self .., ?_⟩
  · rw [Dev.sequence_of_new hx net h ce pl he (RecvChan.at'_of_nil hh _), hmod]
    exact if_pos (by rw [decide_eq_true hs]; rfl)
  · rw [hy, hh]
    rfl

theorem Dev.sequence_open (hs : h.seq = x.next % 2 ^ 32) (hh : x.held = []) (hw : windowOpen d p x h) :
    (d.sequence p i net h ce pl).mem = afterWindow d p x h pl ∧
    ∃ y, (d.sequence p i net h ce pl).recvChan p i = some y ∧ y.next = x.next + 1 ∧ y.held = [] := by
  obtain ⟨e, y, hseq, hnet, hy, horder⟩ := Dev.sequence_at_next hx net h ce pl hs hh
  have hentry : y.entry = x.entry := (congrArg (fun z : RecvChan => z.entry) horder :)
  have hslot : y.slotCnt = x.slotCnt := (congrArg (fun z : RecvChan => z.slotCnt) horder :)
  have hnext : y.next = x.next := (congrArg (fun z : RecvChan => z.next) horder :)
  have hw' : windowOpen e p y h := windowOpen_congr hnet (congrArg (fun z : RecvChan => z.chan) horder :) hentry
    (congrArg (fun z : RecvChan => z.oldw) horder :) hslot hw
  obtain ⟨hmem, z, hz, hznext, hheld⟩ := Dev.deliverAll_of_open (k := ⟨h, pl, ce, net⟩) hy hw'
    (congrArg (fun z : RecvChan => z.held) horder :) (by rw [hnext]; exact hs)
  rw [hseq]
  exact ⟨hmem.trans (afterWindow_congr hnet hentry hslot pl), z, hz, hnext ▸ hznext, hheld⟩

theorem Dev.sequence_ahead (hs : h.seq = x.next % 2 ^ 32) (hh : x.held = []) (hchan : x.chan < 4064) (hdest : ceDest x.entry = 0)
    (htype : h.type = 1) (hahead : x.oldw + ceSlots x.entry ≤ d.window p x.entry h.step h.phase) :
    (d.sequence p i net h ce pl).mem = d.mem ∧
    ∃ y, (d.sequence p i net h ce pl).recvChan p i = some y ∧ y.next = x.next ∧ y.held = [⟨h, pl, ce, net⟩] := by
  obtain ⟨e, y, hseq, hnet, hy, horder⟩ := Dev.sequence_at_next hx net h ce pl hs hh
  have hentry : y.entry = x.entry := (congrArg (fun z : RecvChan => z.entry) horder :)
  have hnext : y.next = x.next := (congrArg (fun z : RecvChan => z.next) horder :)
  have hheld : y.held = [⟨h, pl, ce, net⟩] := (congrArg (fun z : RecvChan => z.held) horder :)
  have hc : y.chan = x.chan := (congrArg (fun z : RecvChan => z.chan) horder :)
  have hold : y.oldw = x.oldw := (congrArg (fun z : RecvChan => z.oldw) horder :)
  have hwin : e.window p x.entry h.step h.phase = d.window p x.entry h.step h.phase :=
    hnet.congr (fun d => d.window p x.entry h.step h.phase) fun _ _ _ _ _ _ => rfl
  rw [hseq, Dev.deliverAll_of_ahead hy hheld (by rw [hnext]; exact hs) (hc ▸ hchan) (hentry ▸ hdest) htype
    (by rw [hold, hentry]; exact hwin ▸ hahead)]
  exact ⟨hnet.mem, y, hy, hnext, hheld⟩

end

/-- Settles O36: each branch of the receiver, as far as a single packet goes. -/
theorem dataPacketsAreDeliveredHeldOrDiscarded : Obligations.DataPacketsAreDeliveredHeldOrDiscarded := by
  unfold Obligations.DataPacketsAreDeliveredHeldOrDiscarded
  intro s net h ce u pl plain p i x hnet
  have hrun : exec (.dataPacketReceive net h ce u pl) s = .next { s with dev := s.dev.dataReceive net h ce u pl } :=
    onUnit_eq (decide_eq_true hnet) _
  have hcount := Dev.Carried.modNet s.dev net (netCnt 13 1)
  refine ⟨fun hb => ?_, fun hb ht hch hpart hpeer hfind hx hopen => ?_, fun hr he => ?_, fun hr he hne hc => ?_, fun ha hp => ?_⟩
  · have hdev := Dev.dataReceive_of_bad (d := s.dev) hb net ce
    refine ⟨_, hrun, ⟨rfl, rfl⟩, ?_, ?_, ?_, ?_⟩ <;> dsimp only [Sends] <;> rw [hdev]
    · exact Dev.modNet_mem ..
    · exact hcount.recv
    · rw [List.append_nil]
      exact s.dev.modNet_tx ..
    · rw [Dev.rxd, portCounter_portCnt, portCounter, Dev.port, Dev.modNet_ports]
      rfl
  · have hdev := Dev.dataReceive_of_found hb ht hch hpart hpeer hfind hx net ce
    rw [hopen] at hdev
    refine ⟨_, hrun, ⟨rfl, rfl⟩, ?_, ?_, ?_⟩ <;> dsimp only <;> rw [hdev]
    · exact (Dev.authFail_mem ..).trans hcount.net.mem
    · exact (Dev.authFail_carried ..).recv.trans hcount.recv
    · exact (netCounter_authFail ..).trans (congrArg (· + 1#32) (netCounter_netCnt_ne _ _ _ _ (by decide)))
  · have hdev := Dev.dataReceive_of_received hr net ce
    dsimp only at hdev
    rw [if_pos he] at hdev
    have hboth := hcount.trans (.modNet _ net (netCnt 25 1))
    refine ⟨_, hrun, ⟨rfl, rfl⟩, ?_, ?_, ?_, ?_⟩ <;> dsimp only [Sends] <;> rw [hdev]
    · exact hboth.net.mem
    · exact hboth.recv
    · rw [List.append_nil, Dev.modNet_tx, Dev.modNet_tx]
    · exact (netCounter_modNet ..).trans (congrArg (· + 1#32) (netCounter_netCnt_ne _ _ _ _ (by decide)))
  · have hdev := Dev.dataReceive_of_received hr net ce
    dsimp only at hdev
    rw [if_neg (by simp [he]), if_pos (by simpa using hne)] at hdev
    have hx : s.dev.recvChan p i = some x := hr.2.2.2.2.2.2.1
    have hc' := pathClear_modNet net (netCnt 13 1) hc
    rw [← peerAddr_modNet s.dev net (netCnt 13 1)] at hc'
    obtain ⟨o, m, ip, q, htx, htype, htsw, hepw⟩ := Dev.sendNak_of_clear ((s.dev.modNet_recvChan ..).trans hx) true hc'
    rw [← hdev, Dev.modNet_tx] at htx
    refine ⟨_, o, m, ip, q, hrun, ⟨rfl, rfl⟩, ?_, htx, htype, hepw⟩
    dsimp only
    rw [hdev]
    exact (Dev.SameButNet.sendNak ..).mem.trans hcount.net.mem
  · rw [Dev.dataReceive_of_accepts ha net ce] at hrun
    have hx : (s.dev.modNet net (netCnt 13 1)).recvChan p i = some x := (s.dev.modNet_recvChan ..).trans ha.1.2.2.2.2.2.2.1
    have hclear (hc : pathClear s.dev net (peerAddr s.dev p x.peer net) x.chan 7) : pathClear (s.dev.modNet net (netCnt 13 1)) net
        (peerAddr (s.dev.modNet net (netCnt 13 1)) p x.peer net) x.chan 7 := by
      rw [peerAddr_modNet]
      exact pathClear_modNet net _ hc
    have hcnt {j : Nat} (hj : j ≠ 13) : netCounter (s.dev.modNet net (netCnt 13 1)) net j = netCounter s.dev net j := netCounter_netCnt_ne _ _ _ _ hj
    refine ⟨fun he hc => ?_, fun he hne hsecond hat => ?_, fun hs hh hw => ?_, fun hs hh hchan hdest htype hahead => ?_⟩
    · obtain ⟨hmem, hk, o, m, ip, q, htx, hq⟩ := Dev.sequence_duplicate hx net h ce plain he (hclear hc)
      rw [Dev.modNet_tx] at htx
      exact ⟨_, o, m, ip, q, hrun, ⟨rfl, rfl⟩, hmem.trans hcount.net.mem, hk.trans (congrArg (· + 1#32) (hcnt (by decide))), htx, hq⟩
    · obtain ⟨hmem, hk, ⟨y, hy, hnext, hheld⟩, hnak⟩ := Dev.sequence_gap hx net h ce plain he hne hsecond hat
      refine ⟨⟨_, y, hrun, ⟨rfl, rfl⟩, hmem.trans hcount.net.mem, hy, hnext, hheld, hk.trans (congrArg (· + 1#32) (hcnt (by decide)))⟩,
        fun hn hc => ?_⟩
      obtain ⟨o, m, ip, q, htx, hq⟩ := hnak hn (hclear hc)
      rw [Dev.modNet_tx] at htx
      exact ⟨_, o, m, ip, q, hrun, htx, hq⟩
    · obtain ⟨hmem, y, hy, hnext, hheld⟩ := Dev.sequence_open hx net h ce plain hs hh (windowOpen_congr hcount.net rfl rfl rfl rfl hw)
      exact ⟨_, y, hrun, ⟨rfl, rfl⟩, hmem.trans (afterWindow_congr hcount.net rfl rfl plain), hy, hnext, hheld⟩
    · have hwin : (s.dev.modNet net (netCnt 13 1)).window p x.entry h.step h.phase = s.dev.window p x.entry h.step h.phase :=
        hcount.net.congr (fun d => d.window p x.entry h.step h.phase) fun _ _ _ _ _ _ => rfl
      obtain ⟨hmem, y, hy, hnext, hheld⟩ := Dev.sequence_ahead hx net h ce plain hs hh hchan hdest htype (hwin ▸ hahead)
      exact ⟨_, y, hrun, ⟨rfl, rfl⟩, hmem.trans hcount.net.mem, hy, hnext, hheld⟩

end Sys2Proof.Machine
end

section
/-! PROOF. Frames are taken, forwarded or discarded; transit frames leave, and pauses hold (R274, R275, R277, R278, R295, R296). -/

namespace Sys2Proof.Machine
open Sys2Proof Sys2Proof.Machine.Claims

/-! ## A frame comes in (R275, R302) -/

theorem portCounter_portCnt_ne (d : Dev) (e k : Nat) {i j : Nat} (h : i ≠ j) : portCounter (d.portCnt e j) k i = portCounter d k i := by
  unfold portCounter Dev.portCnt
  by_cases hk : k = e
  · rw [hk, Dev.modPort_port_self]
    exact bump_ne _ _ h
  · rw [Dev.modPort_port_ne _ _ hk]

/-- What a port reads as but for its counters. -/
theorem Dev.CountedPorts.reads {d e : Dev} (h : d.CountedPorts e) {α : Type} (o : Nat) (g : Port → α)
    (hg : ∀ x c, g { x with cnt := c } = g x) : g (e.port o) = g (d.port o) :=
  (hg (e.port o) (d.port o).cnt).symm.trans (congrArg g (h o))

/-- The module has counted a frame that came in at a port (R302). -/
def Dev.tookFrame (d : Dev) (e : Nat) (f : EthFrame) : Dev :=
  (d.portCnt e 6).modPort e (fun x => { x with cnt := bump (bump x.cnt 4 f.fecc) 5 f.fecu })

section
variable (d : Dev) (e : Nat) (f : EthFrame)

theorem Dev.tookFrame_counted : d.CountedPorts (d.tookFrame e f) := by
  refine (Dev.CountedPorts.portCnt d e 6).trans fun o => ?_
  by_cases ho : o = e
  · rw [ho, Dev.tookFrame, Dev.modPort_port_self]
  · rw [Dev.tookFrame, Dev.modPort_port_ne _ _ ho]

theorem Dev.portCnt_tx (i : Nat) : (d.portCnt e i).tx = d.tx := rfl
theorem Dev.leave_tx (t : Tx) : (d.leave e t).tx = d.tx ++ [t] := rfl
theorem Dev.tookFrame_tx : (d.tookFrame e f).tx = d.tx := rfl
theorem Dev.tookFrame_drop_tx : ((d.tookFrame e f).portCnt e 8).tx = d.tx := (Dev.portCnt_tx ..).trans (d.tookFrame_tx e f)

theorem Dev.tookFrame_mem : (d.tookFrame e f).mem = d.mem := rfl
theorem Dev.tookFrame_drop_mem : ((d.tookFrame e f).portCnt e 8).mem = d.mem := (Dev.portCnt_mem ..).trans (d.tookFrame_mem e f)

theorem portCounter_tookFrame {i : Nat} (h4 : i ≠ 4) (h5 : i ≠ 5) : portCounter (d.tookFrame e f) e i = portCounter (d.portCnt e 6) e i := by
  unfold portCounter Dev.tookFrame
  rw [Dev.modPort_port_self]
  exact (bump_ne _ _ h5).trans (bump_ne _ _ h4)

theorem portCounter_tookFrame_six : portCounter (d.tookFrame e f) e 6 = portCounter d e 6 + 1#32 := by
  rw [portCounter_tookFrame d e f (by decide) (by decide), portCounter_portCnt]

theorem portCounter_tookFrame_eight : portCounter (d.tookFrame e f) e 8 = portCounter d e 8 := by
  rw [portCounter_tookFrame d e f (by decide) (by decide), portCounter_portCnt_ne d e e (by decide)]

variable {d e f}

theorem Dev.frameReceive_of_badTag {v : Nat} (hv : f.vlan = some v) (hne : v ≠ (d.net (e / 4)).vid) :
    d.frameReceive e f = (d.tookFrame e f).portCnt e 8 := by
  unfold Dev.frameReceive
  rw [hv]
  exact if_pos (bne_iff_ne.2 hne)

section
variable (hv : ∀ v, f.vlan = some v → v = (d.net (e / 4)).vid) (hfcs : f.fcsOk = true) (hip : f.ipv6 = true) (hl : f.lldp = false)
  (hx : f.extHdr = false)
include hv hfcs hip hl hx

/-- A good frame, as far as its address. -/
theorem Dev.frameReceive_of_good (hu : f.icmp = none → f.udpSumOk = true ∧ f.udpDst = (d.net (e / 4)).udpp) :
    d.frameReceive e f = (if d.ours (e / 4) f.dst || (f.icmp.isSome && f.dst / 2 ^ 120 == 0xFF) then
        match f.icmp with
        | some m => (d.tookFrame e f).icmpFor e f.src f.bytes m
        | none => d.tookFrame e f
      else match d.route (e / 4) f.dst with
        | none => (d.tookFrame e f).portCnt e 8
        | some w => match (if f.hop ≤ 1 then none else maskPort (e / 4) (fwMask w) f.udpSrc) with
          | none => (d.tookFrame e f).portCnt e 8
          | some o => (d.tookFrame e f).forward e o (fwMac w) f) := by
  have htag : (match f.vlan with
      | some v => v != (d.net (e / 4)).vid
      | none => false) = false := by
    split
    · next v h => rw [hv v h, bne_self_eq_false]
    · rfl
  have hudp : (f.icmp.isNone && (!f.udpSumOk || !(f.udpDst == (d.net (e / 4)).udpp || f.udpDst == 319 || f.udpDst == 320))) = false := by
    rcases h : f.icmp with - | m
    · obtain ⟨hsum, hdst⟩ := hu h
      simp [hsum, hdst]
    · rfl
  change (let d1 := d.tookFrame e f
    if (match f.vlan with
      | some v => v != (d.net (e / 4)).vid
      | none => false) then d1.portCnt e 8
    else if f.lldp then if f.fcsOk then d1 else d1.portCnt e 8
    else if !f.ipv6 || f.extHdr then d1.portCnt e 8
    else if f.icmp.isNone && (!f.udpSumOk || !(f.udpDst == (d.net (e / 4)).udpp || f.udpDst == 319 || f.udpDst == 320)) then d1.portCnt e 8
    else if d.ours (e / 4) f.dst || (f.icmp.isSome && f.dst / 2 ^ 120 == 0xFF) then
      if !f.fcsOk then d1.portCnt e 8
      else match f.icmp with
        | some m => d1.icmpFor e f.src f.bytes m
        | none => d1
    else match d.route (e / 4) f.dst with
      | none => d1.portCnt e 8
      | some w => match (if f.hop ≤ 1 then none else maskPort (e / 4) (fwMask w) f.udpSrc) with
        | none => d1.portCnt e 8
        | some o => (if f.fcsOk then d1 else d1.portCnt e 8).forward e o (fwMac w) f) = _
  dsimp only
  rw [htag, hudp]
  simp only [hfcs, hip, hl, hx, Bool.not_true, Bool.or_self, Bool.false_eq_true, if_false, if_true]

end

end

/-! ## Forwarding (R295, R296) -/

section
variable {d : Dev} {inPort o mac : Nat} {f : EthFrame} (hfcs : f.fcsOk = true)
include hfcs

theorem Dev.forward_of_clear (hc : (d.port o).clear f.prio = true) :
    d.forward inPort o mac f = (d.portCnt o 11).leave o (.forward o mac (f.hop - 1) f.bytes false false) := by
  unfold Dev.forward
  rw [if_pos hc, hfcs]
  rfl

/-- A frame that the buffer holds joins those that wait; the neighbor may hear XOFF. -/
theorem Dev.forward_of_room (hc : (d.port o).clear f.prio = false) (hr : (d.port o).queued + f.bytes ≤ transitBytes) :
    ((d.forward inPort o mac f).port o).transit = (d.port o).transit ++
      [{ prio := f.prio, bytes := f.bytes, inPort := inPort, mac := mac, hop := f.hop - 1
         ce := f.ect && decide ((d.net (o / 4)).kmin * 16384 < (d.port o).queued) }] := by
  unfold Dev.forward
  dsimp only
  rw [if_neg (by simp [hc]), if_neg (by simp [hfcs]), if_neg (by omega)]
  have hpfc (d : Dev) (k : Nat) (g : Port → Port) (prio : Nat) (hg : (g (d.port o)).transit = (d.port o).transit) :
      (((d.modPort o g).sendPfc k prio true).port o).transit = (d.port o).transit := by
    have h := ((Dev.CountedPorts.portCnt (d.modPort o g) k 10).trans (.leave _ k (.pfc k prio true))).reads o Port.transit fun _ _ => rfl
    exact h.trans ((congrArg Port.transit (d.modPort_port_self o g)).trans hg)
  split
  · refine (hpfc _ _ _ _ rfl).trans ?_
    rw [Dev.modPort_port_self]
  · rw [Dev.modPort_port_self]

theorem Dev.forward_of_full (hc : (d.port o).clear f.prio = false) (hr : transitBytes < (d.port o).queued + f.bytes) :
    d.forward inPort o mac f = d.modNet (o / 4) (netCnt 22 1) := by
  unfold Dev.forward
  dsimp only
  rw [if_neg (by simp [hc]), if_neg (by simp [hfcs]), if_pos hr]

end

theorem framesAreTakenForwardedOrDiscarded : FramesAreTakenForwardedOrDiscarded := by
  intro s e f he
  have hrun : exec (.frameReceive e f) s = .next { s with dev := s.dev.frameReceive e f } := onUnit_eq (decide_eq_true he) _
  have hcounted := s.dev.tookFrame_counted e f
  have hclear (o q : Nat) : ((s.dev.tookFrame e f).port o).clear q = (s.dev.port o).clear q := hcounted.reads o (·.clear q) fun _ _ => rfl
  have hqueued (o : Nat) : ((s.dev.tookFrame e f).port o).queued = (s.dev.port o).queued := hcounted.reads o Port.queued fun _ _ => rfl
  have htransit (o : Nat) : ((s.dev.tookFrame e f).port o).transit = (s.dev.port o).transit := hcounted.reads o Port.transit fun _ _ => rfl
  have hsends {t : State} (h : t.dev.tx = s.dev.tx) : Sends s t [] := h.trans (List.append_nil _).symm
  dsimp only
  refine ⟨fun v hv hne => ?_, fun hv hfcs hip hl hx => ⟨fun hi hsum hdst => ⟨fun ho => ?_, fun ho w hw hhop o hm => ⟨fun hc => ?_, fun hc hr => ?_,
    fun hc hr => ?_⟩, fun ho hnone => ?_⟩, fun a hi ho ha hc => ?_⟩⟩
  · rw [Dev.frameReceive_of_badTag hv hne] at hrun
    refine ⟨_, hrun, ⟨rfl, rfl⟩, s.dev.tookFrame_drop_mem e f, hsends (s.dev.tookFrame_drop_tx e f), ?_, ?_⟩
    · rw [portCounter_portCnt_ne _ _ _ (by decide), portCounter_tookFrame_six]
    · rw [portCounter_portCnt, portCounter_tookFrame_eight]
  · rw [Dev.frameReceive_of_good hv hfcs hip hl hx fun _ => ⟨hsum, hdst⟩, if_pos (by rw [ho]; rfl), hi] at hrun
    exact ⟨_, hrun, ⟨rfl, rfl⟩, s.dev.tookFrame_mem e f, hsends (s.dev.tookFrame_tx e f), portCounter_tookFrame_six .., portCounter_tookFrame_eight ..⟩
  all_goals rw [Dev.frameReceive_of_good hv hfcs hip hl hx (by simp_all)] at hrun
  · rw [if_neg (by simp [ho, hi]), hw] at hrun
    dsimp only at hrun
    rw [if_neg (by omega), hm] at hrun
    dsimp only at hrun
    rw [Dev.forward_of_clear hfcs ((hclear o _).trans hc)] at hrun
    exact ⟨_, hrun, ⟨rfl, rfl⟩, (Dev.leave_mem ..).trans ((Dev.portCnt_mem ..).trans (s.dev.tookFrame_mem e f)),
      (Dev.leave_tx ..).trans (congrArg (· ++ _) ((Dev.portCnt_tx ..).trans (s.dev.tookFrame_tx e f)))⟩
  · rw [if_neg (by simp [ho, hi]), hw] at hrun
    dsimp only at hrun
    rw [if_neg (by omega), hm] at hrun
    dsimp only at hrun
    have htr := Dev.forward_of_room (inPort := e) (mac := fwMac w) hfcs ((hclear o _).trans hc) ((hqueued o).symm ▸ hr)
    rw [hqueued, htransit] at htr
    exact ⟨_, hrun, ⟨rfl, rfl⟩, Dev.forward_mem .., htr⟩
  · rw [if_neg (by simp [ho, hi]), hw] at hrun
    dsimp only at hrun
    rw [if_neg (by omega), hm] at hrun
    dsimp only at hrun
    rw [Dev.forward_of_full hfcs ((hclear o _).trans hc) ((hqueued o).symm ▸ hr)] at hrun
    refine ⟨_, hrun, ⟨rfl, rfl⟩, Dev.modNet_mem .., hsends (Dev.modNet_tx ..), ?_, ?_⟩
    · dsimp only
      rw [Dev.port, Dev.modNet_ports]
      exact htransit o
    · exact netCounter_modNet ..
  · have hrun' : exec (.frameReceive e f) s = .next { s with dev := (s.dev.tookFrame e f).portCnt e 8 } := by
      rw [hrun, if_neg (by simp [ho, hi])]
      rcases hw : s.dev.route (e / 4) f.dst with - | w
      · rfl
      · dsimp only
        rw [if_pos (hnone.resolve_left (by simp [hw]))]
    refine ⟨_, hrun', ⟨rfl, rfl⟩, s.dev.tookFrame_drop_mem e f, hsends (s.dev.tookFrame_drop_tx e f), ?_⟩
    rw [portCounter_portCnt, portCounter_tookFrame_eight]
  · rw [if_pos (by rw [ho]; rfl), hi] at hrun
    have hsol : (s.dev.tookFrame e f).icmpFor e f.src f.bytes (.solicit a) =
        (s.dev.tookFrame e f).leave e (.icmp e (s.dev.ipHdr (e / 4) 7 f.src) (.advert a)) := by
      have hours : (s.dev.tookFrame e f).ours (e / 4) a = true := ha
      unfold Dev.icmpFor
      dsimp only
      rw [if_pos hours, Dev.sendOn_of_clear ((hclear e 7).trans hc)]
      rfl
    dsimp only at hrun
    rw [hsol] at hrun
    exact ⟨_, hrun, ⟨rfl, rfl⟩, (Dev.leave_mem ..).trans (s.dev.tookFrame_mem e f),
      (Dev.leave_tx ..).trans (congrArg (· ++ _) (s.dev.tookFrame_tx e f))⟩

end Sys2Proof.Machine
end

section
/-! PROOF. Transit frames leave, and pauses hold (R277, R278, R296). -/

namespace Sys2Proof.Machine
open Sys2Proof Sys2Proof.Machine.Claims

/-! ## What the choice of the next frame changes (R277) -/

/-- `y` is `x` but for the shares and the turn. -/
def Port.ButShares (x y : Port) : Prop := { y with deficit := x.deficit, turn := x.turn } = x

theorem Port.ButShares.trans {x y z : Port} (h : x.ButShares y) (k : y.ButShares z) : x.ButShares z :=
  (congrArg (fun w : Port => { w with deficit := x.deficit, turn := x.turn }) k :).trans h

theorem Port.robin_butShares (net f : Nat) (x : Port) : x.ButShares (Port.robin net f x).2 := by
  induction f generalizing x with
  | zero => exact rfl
  | succ f ih =>
    unfold Port.robin
    dsimp only
    split
    · refine Port.ButShares.trans ?_ (ih _)
      exact rfl
    · split
      · exact rfl
      · refine Port.ButShares.trans ?_ (ih _)
        exact rfl

theorem Port.pick_butShares (net : Nat) (x : Port) : x.ButShares (x.pick net).2 := by
  unfold Port.pick
  split
  · exact rfl
  split
  · exact rfl
  split
  · exact rfl
  · exact x.robin_butShares ..

theorem Port.pick_of_seven {x : Port} (net : Nat) (h : (x.headOf 7).isSome = true) : x.pick net = (some 7, x) := if_pos h

theorem Port.pick_of_six {x : Port} (net : Nat) (h7 : (x.headOf 7).isSome = false) (h6 : (x.headOf 6).isSome = true) : x.pick net = (some 6, x) := by
  rw [Port.pick, if_neg (by simp [h7]), if_pos h6]

/-! ## The oldest transit frame leaves (R296) -/

/-- The port without the transit frame that leaves. -/
def Port.departed (x : Port) (net q : Nat) (t : Transit) : Port := { (x.pick net).2.swap q false with transit := x.transit.erase t }

theorem Port.departed_fields (x : Port) (net q : Nat) (t : Transit) :
    (x.departed net q t).own = x.own ∧ (x.departed net q t).xoff = x.xoff ∧ (x.departed net q t).transit = x.transit.erase t :=
  ⟨(congrArg Port.own (x.pick_butShares net) :), (congrArg Port.xoff (x.pick_butShares net) :), rfl⟩

/-- A port with nothing of the module's own to send, and no paused neighbor, sends just that frame. -/
theorem Dev.transitLeaves_of_pick {d : Dev} {e q : Nat} {t : Transit} (hown : (d.port e).own = []) (hxoff : (d.port e).xoff = [])
    (hpick : ((d.port e).pick (e / 4)).1 = some q) (hfind : (d.port e).transit.find? (fun x => x.prio == q) = some t) :
    (d.transitLeaves e).tx = d.tx ++ [.forward e t.mac t.hop t.bytes t.ce false] ∧
    ((d.transitLeaves e).port e).transit = (d.port e).transit.erase t := by
  have hrun : d.transitLeaves e = (let f := (d.modPort e (fun _ => (d.port e).departed (e / 4) q t)).leave e (.forward e t.mac t.hop t.bytes t.ce false)
      let g := if (f.port e).queued ≤ 524288 then
          ((f.port e).xoff.foldl (fun d q => d.sendPfc q.1 q.2 false) f).modPort e (fun x => { x with xoff := [] })
        else f
      g.serveOwn ((g.port e).own.length) e) := by
    unfold Dev.transitLeaves
    rw [hown]
    dsimp only [List.length_nil, Dev.serveOwn]
    rw [hpick]
    dsimp only
    rw [hfind]
    rfl
  rw [hrun]
  obtain ⟨hdown, hdxoff, hdtr⟩ := (d.port e).departed_fields (e / 4) q t
  have hcounted := Dev.CountedPorts.leave (d.modPort e (fun _ => (d.port e).departed (e / 4) q t)) e (.forward e t.mac t.hop t.bytes t.ce false)
  have hfown := hcounted.reads e Port.own fun _ _ => rfl
  have hfxoff := hcounted.reads e Port.xoff fun _ _ => rfl
  have hftr := hcounted.reads e Port.transit fun _ _ => rfl
  rw [Dev.modPort_port_self] at hfown hfxoff hftr
  have hftx : ((d.modPort e (fun _ => (d.port e).departed (e / 4) q t)).leave e (.forward e t.mac t.hop t.bytes t.ce false)).tx =
      d.tx ++ [.forward e t.mac t.hop t.bytes t.ce false] := rfl
  generalize (d.modPort e (fun _ => (d.port e).departed (e / 4) q t)).leave e (.forward e t.mac t.hop t.bytes t.ce false) = f at *
  have hserve (g : Dev) (ho : (g.port e).own = []) : g.serveOwn ((g.port e).own.length) e = g := by rw [ho]; rfl
  dsimp only
  rw [← hftx, ← hdtr, ← hftr]
  split
  · rw [hserve, hfxoff, hdxoff, hxoff]
    · refine ⟨rfl, ?_⟩
      rw [List.foldl_nil, Dev.modPort_port_self]
    · rw [Dev.modPort_port_self, hfxoff, hdxoff, hxoff]
      exact hfown.trans (hdown.trans hown)
  · rw [hserve _ (hfown.trans (hdown.trans hown))]
    exact ⟨rfl, rfl⟩

/-! ## Pauses (R278) -/

/-- The priorities that a PFC frame pauses: those that PFCM enables, on network A (R278). -/
def Dev.pausing (d : Dev) (e prios : Nat) : List Nat :=
  (List.range 8).filter (fun q => bit prios q && bit d.fab.netA.pfcm q && decide (e < 4))

theorem Dev.mem_pausing (d : Dev) (e prios k : Nat) :
    k ∈ d.pausing e prios ↔ k < 8 ∧ bit prios k = true ∧ bit d.fab.netA.pfcm k = true ∧ e < 4 := by
  simp [Dev.pausing, and_assoc]

/-- The port pauses these priorities too. -/
def Port.pause (x : Port) (on : List Nat) : Port := { x with paused := x.paused ++ on.filter (fun q => !(x.paused.contains q)) }

theorem Port.mem_pause (x : Port) (on : List Nat) (k : Nat) : k ∈ (x.pause on).paused ↔ k ∈ x.paused ∨ k ∈ on := by
  by_cases h : k ∈ x.paused <;> simp [Port.pause, h]

/-- A PFC frame has come in at a port (R278). -/
def Dev.pauseFrame (d : Dev) (e prios : Nat) : Dev :=
  if (d.pausing e prios).isEmpty then d else (d.portCnt e 9).modPort e (fun x => x.pause (d.pausing e prios))

/-- The port without one pause. -/
def Port.resume (x : Port) (q : Nat) : Port := { x with paused := x.paused.filter (· != q) }

theorem Port.resume_contains (x : Port) (q k : Nat) : (x.resume q).paused.contains k = (decide (k ≠ q) && x.paused.contains k) := by
  rw [Bool.eq_iff_iff, List.contains_iff_mem, Bool.and_eq_true, List.contains_iff_mem, decide_eq_true_iff, Port.resume, List.mem_filter,
    bne_iff_ne]
  exact and_comm

/-- A pause of a port ends, and what waited for it leaves (R278). -/
def Dev.pauseEnds (d : Dev) (e q : Nat) : Dev :=
  (d.modPort e (fun x => x.resume q)).serveOwn (((d.modPort e (fun x => x.resume q)).port e).own.length) e

/-- The one own frame of a port with nothing else to send leaves when its priority is picked. -/
theorem Dev.serveOwn_one {d : Dev} {e q n : Nat} {l : LocalFrame} (hup : (d.port e).up = true) (hown : (d.port e).own = [l])
    (hhead : (d.port e).headOf q = some (true, n)) (hpick : ((d.port e).pick (e / 4)).1 = some q) (hq : l.prio = q) :
    ((d.serveOwn 1 e).port e).own = [] ∧ (d.serveOwn 1 e).tx = d.tx ++ [l.tx] := by
  have hrun : d.serveOwn 1 e = (d.modPort e (fun _ => { ((d.port e).pick (e / 4)).2.swap q true with own := [l].erase l })).leave e l.tx := by
    unfold Dev.serveOwn
    dsimp only
    simp [hup, hpick, hhead, hown, hq, Dev.serveOwn]
  rw [hrun]
  refine ⟨?_, rfl⟩
  rw [(Dev.CountedPorts.leave (d.modPort e _) e l.tx).reads e Port.own fun _ _ => rfl, Dev.modPort_port_self]
  exact List.erase_cons_head ..

theorem transitFramesLeaveAndPausesHold : TransitFramesLeaveAndPausesHold := by
  intro s e prios q he
  refine ⟨fun x hup hown hxoff hpick hfind => ?_, fun h7 => congrArg Prod.fst (Port.pick_of_seven _ h7),
    fun h7 h6 => congrArg Prod.fst (Port.pick_of_six _ h7 h6), ?_, ?_⟩
  · have hrun : exec (.transitFrameDeparture e) s = .next { s with dev := s.dev.transitLeaves e } := by
      refine (onUnit_eq (decide_eq_true he) _).trans ?_
      rw [if_pos hup]
    obtain ⟨htx, htr⟩ := Dev.transitLeaves_of_pick hown hxoff hpick hfind
    exact ⟨_, hrun, ⟨rfl, rfl⟩, Dev.transitLeaves_mem .., htx, htr⟩
  · have hrun : exec (.pfcFrameReceive e prios) s = .next { s with dev := s.dev.pauseFrame e prios } := onUnit_eq (decide_eq_true he) _
    refine ⟨_, hrun, ⟨rfl, rfl⟩, ?_, ?_, fun k hk => ?_⟩ <;> dsimp only [Sends] <;> unfold Dev.pauseFrame
      <;> by_cases hon : (s.dev.pausing e prios).isEmpty = true
    · rw [if_pos hon]
    · rw [if_neg hon, Dev.modPort_mem, Dev.portCnt_mem]
    · rw [if_pos hon, List.append_nil]
    · rw [if_neg hon, List.append_nil]
      rfl
    · rw [if_pos hon]
      have hnot : ¬(e < 4 ∧ bit prios k = true ∧ bit s.dev.fab.netA.pfcm k = true) := fun ⟨h4, hp, hm⟩ => by
        have hmem := (s.dev.mem_pausing e prios k).2 ⟨hk, hp, hm, h4⟩
        rw [List.isEmpty_iff.1 hon] at hmem
        cases hmem
      rw [or_iff_left hnot]
    · rw [if_neg hon, Dev.modPort_port_self, List.contains_iff_mem, Port.mem_pause, Dev.mem_pausing, Dev.portCnt, Dev.modPort_port_self,
        List.contains_iff_mem]
      constructor
      · rintro (h | ⟨-, hp, hm, h4⟩)
        · exact .inl h
        · exact .inr ⟨h4, hp, hm⟩
      · rintro (h | ⟨h4, hp, hm⟩)
        · exact .inl h
        · exact .inr ⟨hk, hp, hm, h4⟩
  · have hrun : exec (.pfcPauseExpiry e q) s = .next { s with dev := s.dev.pauseEnds e q } := onUnit_eq (decide_eq_true he) _
    have hport : (s.dev.modPort e (fun x => x.resume q)).port e = (s.dev.port e).resume q := Dev.modPort_port_self ..
    have hkeep := (Dev.SameButNet.serveOwn (s.dev.modPort e (fun x => x.resume q))
      (((s.dev.modPort e (fun x => x.resume q)).port e).own.length) e)
    refine ⟨_, hrun, ⟨rfl, rfl⟩, hkeep.mem, fun k => ?_, fun hown => ?_, fun l hown hup htr hl h6 h8 => ?_⟩ <;> dsimp only [Sends] <;> unfold Dev.pauseEnds
    · rw [Port.paused_of_fixed (hkeep.fixed e), hport]
      exact Port.resume_contains ..
    · rw [hport, show ((s.dev.port e).resume q).own = [] from hown, List.append_nil]
      rfl
    · rw [hport, show ((s.dev.port e).resume q).own = [l] from hown]
      have hq : ((s.dev.port e).resume q).paused.contains q = false := by simp [Port.resume]
      have hhead : ((s.dev.port e).resume q).headOf q = some (true, l.bytes) := by
        unfold Port.headOf
        rw [hq]
        simp [Port.resume, hown, htr, hl]
      have hpick : (((s.dev.port e).resume q).pick (e / 4)).1 = some q := by
        obtain rfl | rfl : q = 7 ∨ q = 6 := by omega
        · rw [Port.pick_of_seven _ (by rw [hhead]; rfl)]
        · have h7 : ((s.dev.port e).resume 6).headOf 7 = none := by
            unfold Port.headOf
            simp [Port.resume, hown, htr, hl]
          rw [Port.pick_of_six _ (by rw [h7]; rfl) (by rw [hhead]; rfl)]
      obtain ⟨hno, htx⟩ := Dev.serveOwn_one (d := s.dev.modPort e (fun x => x.resume q)) (e := e) (q := q) (by rw [hport]; exact hup)
        (by rw [hport]; exact hown) (by rw [hport]; exact hhead) (by rw [hport]; exact hpick) hl
      exact ⟨htx, hno⟩

/-- Settles O35: both claims of the frames and the pauses hold. -/
theorem framesAndPauses : Obligations.FramesAndPauses := ⟨framesAreTakenForwardedOrDiscarded, transitFramesLeaveAndPausesHold⟩

end Sys2Proof.Machine
end

section
/-! PROOF. A pushed version is written whole, dropped, or waits (R265, R267, R292). -/

namespace Sys2Proof.Machine
open Sys2Proof Sys2Proof.Machine.Claims

/-! ## Bytes of a value, and of a write -/

theorem leNat_toLe (n v : Nat) : leNat (toLe n v) = v % 256 ^ n := by
  induction n generalizing v with
  | zero => simp [toLe, leNat, Nat.mod_one]
  | succ n ih =>
    rw [toLe, leNat, ih, Nat.pow_succ, Nat.mul_comm (256 ^ n) 256, Nat.mod_mul, BitVec.toNat_ofNat]

theorem Dev.unitWrite_byte (d : Dev) (p a : Nat) (bs : List Byte) (poison : Bool) (z : Nat) :
    (d.unitWrite p a bs poison).memByte z = if a ≤ z ∧ z < a + bs.length then bs.getD (z - a) 0#8 else d.memByte z := by
  rw [Dev.memByte_of_mem (d.unitWrite_mem_memPut p a bs poison), Dev.memPut_memByte]

theorem Dev.unitWrite_byte_out (d : Dev) (p : Nat) {a : Nat} {bs : List Byte} (poison : Bool) {z : Nat} (h : z < a ∨ a + bs.length ≤ z) :
    (d.unitWrite p a bs poison).memByte z = d.memByte z := by
  rw [Dev.unitWrite_byte, if_neg (by omega)]

/-- A unit's write is read back. -/
theorem Dev.unitWrite_memRead (d : Dev) (p a : Nat) (bs : List Byte) (poison : Bool) {n : Nat} (h : n ≤ bs.length) :
    (d.unitWrite p a bs poison).memRead a n = bs.take n := by
  refine List.ext_getElem (by simp [Dev.memRead, h]) fun i hi hi' => ?_
  have hin : i < n := by simpa [Dev.memRead] using hi
  simp only [Dev.memRead, List.getElem_map, List.getElem_range, List.getElem_take]
  rw [Dev.unitWrite_byte, if_pos (by omega), Nat.add_sub_cancel_left, List.getD_eq_getElem _ _ (by omega)]

/-! ## The column pieces (R267) -/

/-- The next piece of a version's columns is written, from the bytes that are left. -/
def writePiece (p : Nat) (acc : Dev × List Byte) (q : Nat × Nat) : Dev × List Byte :=
  (acc.1.unitWrite p q.1 (acc.2.take q.2) false, acc.2.drop q.2)

theorem foldl_writePiece_byte (p : Nat) {l : List (Nat × Nat)} {z : Nat} (h : ∀ q ∈ l, z < q.1 ∨ q.1 + q.2 ≤ z) (acc : Dev × List Byte) :
    (l.foldl (writePiece p) acc).1.memByte z = acc.1.memByte z := by
  induction l generalizing acc with
  | nil => rfl
  | cons q l ih =>
    refine (ih (fun r hr => h r (List.mem_cons_of_mem _ hr)) _).trans (Dev.unitWrite_byte_out _ _ _ ?_)
    have hq := h q (List.mem_cons_self ..)
    rw [List.length_take]
    omega

theorem foldl_writePiece_fab (p : Nat) (l : List (Nat × Nat)) (acc : Dev × List Byte) : acc.1.SameFab (l.foldl (writePiece p) acc).1 := by
  induction l generalizing acc with
  | nil => exact .refl _
  | cons q l ih =>
    refine .trans ?_ (ih _)
    exact Dev.SameFab.unitWrite ..

/-! ## Two packets are delivered (R283, R292) -/

section
variable {d : Dev} {p i : Nat} {x : RecvChan} {k k1 : HeldPkt} (hx : d.recvChan p i = some x) (hh : x.held = [k, k1])
  (hk : k.hdr.seq = x.next % 2 ^ 32) (hk1 : k1.hdr.seq = (x.next + 1) % 2 ^ 32)
include hh hk hk1

theorem RecvChan.at'_first : x.at' x.next = some k := by
  rw [RecvChan.at', hh, List.find?_cons_of_pos]
  exact beq_iff_eq.2 hk

theorem RecvChan.at'_second : x.at' (x.next + 1) = some k1 := by
  rw [RecvChan.at', hh, List.find?_cons_of_neg, List.find?_cons_of_pos]
  · exact beq_iff_eq.2 hk1
  · rw [beq_iff_eq, hk]
    omega

include hx

theorem Dev.delivered_two : ∃ y, ((d.delivered p i 2).deliverAll p i) = d.delivered p i 2 ∧ (d.delivered p i 2).recvChan p i = some y ∧
    y.next = x.next + 2 ∧ y.held = [] := by
  have hat := RecvChan.at'_first hh hk hk1
  obtain ⟨y, hy, horder⟩ := Dev.delivered_one hx hat
  have hnext : y.next = x.next + 1 := (congrArg (fun z : RecvChan => z.next) horder :)
  have hheld : y.held = [k1] := by
    have h : y.held = x.held.erase k := (congrArg (fun z : RecvChan => z.held) horder :)
    rw [h, hh, List.erase_cons_head]
  obtain ⟨z, hz, hzo⟩ := Dev.delivered_one hy (RecvChan.at'_of_single hheld (by rw [hnext, hk1]))
  have hznext : z.next = x.next + 2 := by
    have h : z.next = y.next + 1 := (congrArg (fun w : RecvChan => w.next) hzo :)
    rw [h, hnext]
  have hzheld : z.held = [] := by
    have h : z.held = y.held.erase k1 := (congrArg (fun w : RecvChan => w.held) hzo :)
    rw [h, hheld, List.erase_cons_head]
  have htwo : d.delivered p i 2 = (d.delivered p i 1).delivered p i 1 := by
    simp only [Dev.delivered, hx, hat]
  rw [htwo]
  exact ⟨z, Dev.deliverAll_of_absent hz (z.at'_of_nil hzheld _), hz, hznext, hzheld⟩

end

/-! ## The receipt (R265, R267) -/

/-- The version's bytes are written: its row half, its column pieces, its status record (R267). -/
def Dev.takePush (d : Dev) (p c l v : Nat) (k k1 : HeldPkt) : Dev :=
  let t := d.sliceTab c
  let half := if v % 2 = 1 then bkHalf (d.blockTab c) (slBlk t l) else 0
  let adj := signed 8 (bits k.hdr.tsw2 31 24)
  let e := ((colPieces (slCol t l + half) (slQidx t l)).foldl (writePiece p) (d.unitWrite p (slRow t l + half) k.payload false, k1.payload)).1
  e.setStatus t l v (decide ((e.part p).s0 ≤ v) && (e.slVn t l + 1) % 2 ^ 32 == v) (if v % 2 = 0 then adj else e.slAdj t l 0)
    (if v % 2 = 1 then adj else e.slAdj t l 1) v

theorem Dev.takePush_fab (d : Dev) (p c l v : Nat) (k k1 : HeldPkt) : d.SameFab (d.takePush p c l v k k1) := by
  unfold Dev.takePush
  dsimp only
  refine .trans ?_ (Dev.SameFab.unitWrite ..)
  refine .trans ?_ (foldl_writePiece_fab ..)
  exact Dev.SameFab.unitWrite ..

theorem Dev.setStatus_slVn (d : Dev) (t : List Byte) (l : Nat) {v : Nat} (hv : v < 2 ^ 32) (o : Bool) (a0 a1 : Int) (s : Nat) :
    (d.setStatus t l v o a0 a1 s).slVn t l = v := by
  unfold Dev.slVn Dev.stWord Dev.setStatus Dev.statWrite
  change leNat ((Dev.unitWrite d _ (d.stAddr t l) _ _).memRead (d.stAddr t l) 4) = v
  rw [Dev.unitWrite_memRead _ _ _ _ _ (by simp [toLe_length]), List.append_assoc, List.append_assoc, List.take_left' (toLe_length 4 v), leNat_toLe]
  exact Nat.mod_eq_of_lt hv

theorem Dev.slVn_congr {d e : Dev} (h : e.mem = d.mem) (t : List Byte) (l : Nat) : e.slVn t l = d.slVn t l := by
  unfold Dev.slVn Dev.stWord Dev.memRead Dev.memByte
  rw [h]
  rfl

theorem Dev.takePush_byte (d : Dev) (p c l v : Nat) {k : HeldPkt} (k1 : HeldPkt) (hlen : k.payload.length = 4224) {z : Nat}
    (hst : z < d.stAddr (d.sliceTab c) l ∨ d.stAddr (d.sliceTab c) l + 16 ≤ z)
    (hcol : ∀ q ∈ colPieces (slCol (d.sliceTab c) l + if v % 2 = 1 then bkHalf (d.blockTab c) (slBlk (d.sliceTab c) l) else 0)
      (slQidx (d.sliceTab c) l), z < q.1 ∨ q.1 + q.2 ≤ z) :
    (d.takePush p c l v k k1).memByte z =
      if slRow (d.sliceTab c) l + (if v % 2 = 1 then bkHalf (d.blockTab c) (slBlk (d.sliceTab c) l) else 0) ≤ z ∧
        z < slRow (d.sliceTab c) l + (if v % 2 = 1 then bkHalf (d.blockTab c) (slBlk (d.sliceTab c) l) else 0) + 4224
      then k.payload.getD (z - (slRow (d.sliceTab c) l + if v % 2 = 1 then bkHalf (d.blockTab c) (slBlk (d.sliceTab c) l) else 0)) 0#8
      else d.memByte z := by
  unfold Dev.takePush Dev.setStatus Dev.statWrite
  dsimp only
  rw [Dev.unitWrite_byte_out, foldl_writePiece_byte p hcol, Dev.unitWrite_byte, hlen]
  simp only [List.length_append, toLe_length]
  exact hst

section
variable {d : Dev} {p i l : Nat} {x : RecvChan} {k k1 : HeldPkt} (hx : d.recvChan p i = some x) (hd : ceDest x.entry = 2)
  (hh : x.held = [k, k1]) (hk : k.hdr.seq = x.next % 2 ^ 32) (hk1 : k1.hdr.seq = (x.next + 1) % 2 ^ 32) (ht : k.hdr.type = 3)
  (ht1 : k1.hdr.type = 3) (hp : k.hdr.plen = 4224) (hp1 : k1.hdr.plen = 4224) (hs : k1.hdr.tsw0 = k.hdr.tsw0) (hb1 : bit k.hdr.tsw2 1 = false)
  (hb0 : bit k.hdr.tsw2 0 = false) (hb : bit k1.hdr.tsw2 0 = true) (hf : slFind (d.sliceTab (ceCtx x.entry)) k.hdr.tsw0 = some l)
include hx hd hh hk hk1 ht ht1 hp hp1 hs hb1 hb0 hb hf

/-- Both halves are there: what becomes of the version, where its super is cool when it is written. -/
theorem Dev.pushReceipt_of_both (hcool : verBefore (d.slVn (d.sliceTab (ceCtx x.entry)) l) k.hdr.tsw1 = true →
    d.mayWrite p (ceCtx x.entry) l k.hdr.tsw1 = true → d.hot (d.tm (slRow (d.sliceTab (ceCtx x.entry)) l / pageBytes)).dev = false) : d.pushReceipt p i =
    if !(verBefore (d.slVn (d.sliceTab (ceCtx x.entry)) l) k.hdr.tsw1) then (d.delivered p i 2).deliverAll p i
    else if !(d.mayWrite p (ceCtx x.entry) l k.hdr.tsw1) then d.uwait (slSup (d.sliceTab (ceCtx x.entry)) l)
    else ((d.takePush p (ceCtx x.entry) l k.hdr.tsw1 k k1).delivered p i 2).deliverAll p i := by
  have hgood : (decide (k1.hdr.type = 3) && bit k1.hdr.tsw2 0 && !(bit k.hdr.tsw2 0) && decide (k1.hdr.tsw0 = k.hdr.tsw0) &&
      decide (k.hdr.plen = 4224) && decide (k1.hdr.plen = 4224)) = true := by
    simp [ht1, hb, hb0, hs, hp, hp1]
  unfold Dev.pushReceipt
  rw [hx]
  dsimp only
  rw [RecvChan.at'_first hh hk hk1]
  dsimp only
  rw [if_neg (by simp [hd, ht]), hf]
  dsimp only
  rw [if_neg (by simp [hb1]), RecvChan.at'_second hh hk hk1]
  dsimp only
  rw [if_neg (by simpa using hgood)]
  cases hver : verBefore (d.slVn (d.sliceTab (ceCtx x.entry)) l) k.hdr.tsw1
  · rw [if_pos Bool.not_false, if_pos Bool.not_false]
  · have hno : ¬ (!true) = true := Bool.false_ne_true
    rw [if_neg hno, if_neg hno]
    cases hmay : d.mayWrite p (ceCtx x.entry) l k.hdr.tsw1
    · rw [if_pos Bool.not_false, if_pos Bool.not_false]
    · rw [if_neg hno, if_neg hno]
      have hmeter : d.meter (slRow (d.sliceTab (ceCtx x.entry)) l) 8448 = some d := by
        unfold Dev.meter
        dsimp only
        rw [hcool hver hmay]
        rfl
      rw [hmeter]
      rfl

end

/-- Settles O41: the push at NEXT is dropped as stale, waits, or is written where its slice lies. -/
theorem pushesAreWrittenDroppedOrWait : Obligations.PushesAreWrittenDroppedOrWait := by
  unfold Obligations.PushesAreWrittenDroppedOrWait
  intro s p i l x k k1 hp hx hd hh hk hk1 ht ht1 hpl hpl1 hlen hlen1 hs hb1 hb0 hb hf
  have hrun : exec (.pushReceipt p i) s = .next { s with dev := s.dev.pushReceipt p i } := onUnit_eq (decide_eq_true hp) _
  have hboth := Dev.pushReceipt_of_both hx hd hh hk hk1 ht ht1 hpl hpl1 hs hb1 hb0 hb hf
  dsimp only
  refine ⟨fun hold => ?_, fun hnew hmay => ?_, fun hnew hv hmay hhot => ?_⟩
  · obtain ⟨y, hall, hy, hnext, hheld⟩ := Dev.delivered_two hx hh hk hk1
    rw [hboth fun h => absurd h (by simp [hold]), hold, if_pos (by rfl), hall] at hrun
    exact ⟨_, y, hrun, ⟨rfl, rfl⟩, Dev.delivered_mem .., hy, hnext, hheld⟩
  · rw [hboth fun _ h => absurd h (by simp [hmay]), hnew, hmay, if_neg (by decide), if_pos (by rfl)] at hrun
    exact ⟨_, hrun, ⟨rfl, rfl⟩, rfl, hx⟩
  · have hfab := s.dev.takePush_fab p (ceCtx x.entry) l k.hdr.tsw1 k k1
    obtain ⟨y, hall, hy, hnext, hheld⟩ := Dev.delivered_two ((hfab.recvChan p i).trans hx) hh hk hk1
    rw [hboth fun _ _ => hhot, hnew, hmay, if_neg (by decide), if_neg (by decide), hall] at hrun
    have hmem : ((s.dev.takePush p (ceCtx x.entry) l k.hdr.tsw1 k k1).delivered p i 2).mem =
      (s.dev.takePush p (ceCtx x.entry) l k.hdr.tsw1 k k1).mem := Dev.delivered_mem ..
    refine ⟨_, y, hrun, ⟨rfl, rfl⟩, hy, hnext, hheld, ?_, fun z hst hcol => ?_⟩ <;> dsimp only
    · refine (Dev.slVn_congr hmem ..).trans ?_
      exact Dev.setStatus_slVn _ _ l hv ..
    · rw [Dev.memByte_of_mem hmem]
      exact Dev.takePush_byte s.dev p (ceCtx x.entry) l k.hdr.tsw1 k1 hlen hst hcol

end Sys2Proof.Machine
end

section
/-! SUPPORT. A command's turn and its answer in the clear (R308, R309, R311); and PROOF, refused commands (R312). -/

namespace Sys2Proof.Machine
open Sys2Proof Sys2Proof.Machine.Claims

/-! ## The answer (R308, R311) -/

/-- The reply that answers a request in the clear. -/
def replyFor (d : Dev) (c : Cmd) (a : Ans) (retry : Bool) : Reply :=
  { dst := c.src, ip := d.ipHdr 1 6 c.src, queue := c.hdr.queue, cseq := c.hdr.seq, opcode := c.hdr.opcode, status := a.status,
    retry := retry, tag := c.hdr.tag, mstate := modCode d.brd.state, pmap := a.pmap, payload := a.payload }

/-- The queue after its command was answered (R308). -/
def CmdQueue.answered (y : CmdQueue) (c : Cmd) (a : Ans) (r : Reply) : CmdQueue :=
  let y := { y with cur := none, pos := 0, qcmd := y.qcmd + 1 }
  if a.cache then
    let l := y.cache ++ [{ req := c.hdr, body := c.payload, reply := r }]
    { y with next := (y.next + 1) % 2 ^ 32, cache := l.drop (l.length - 16) }
  else y

/-- The module after a request in the clear was answered. -/
def Dev.answer (d : Dev) (q : Nat) (c : Cmd) (a : Ans) : Dev :=
  (d.sendCmd c.src (.reply (replyFor d c a false))).modQueue q (fun y => y.answered c a (replyFor d c a false))

section
variable {d0 d : Dev} {q : Nat} {c : Cmd} {a : Ans}

theorem Dev.sealReply_clear (d0 d : Dev) (r : Reply) : d0.sealReply d r 0 = (r, d) := rfl

theorem Dev.replyTo_clear (henc : c.hdr.enc = false) (hkey : a.keyid = none) (retry : Bool) :
    d0.replyTo d c a retry = (replyFor d c a retry, d) := by
  unfold Dev.replyTo
  rw [hkey]
  dsimp only
  rw [henc]
  exact d0.sealReply_clear d _

theorem Dev.replied_clear (henc : c.hdr.enc = false) (hkey : a.keyid = none) : d0.replied d q c a = d.answer q c a := by
  unfold Dev.replied
  rw [Dev.replyTo_clear henc hkey]
  rfl

theorem Dev.sendCmd_tx (d : Dev) (dst : Nat) (t : Tx) : (d.sendCmd dst t).tx = d.tx ++ [t] := by
  unfold Dev.sendCmd
  split <;> rfl

theorem Dev.sendCmd_queue (d : Dev) (dst : Nat) (t : Tx) (k : Nat) : (d.sendCmd dst t).queue k = d.queue k := by
  unfold Dev.sendCmd
  split <;> rfl

theorem Dev.sendCmd_ports (d : Dev) (dst : Nat) (t : Tx) :
    ∃ ports, d.sendCmd dst t = { d with tx := d.tx ++ [t], fab := { d.fab with ports := ports } } := by
  unfold Dev.sendCmd
  split
  · exact ⟨_, rfl⟩
  · exact ⟨d.fab.ports, rfl⟩

theorem Dev.answer_queue_self (d : Dev) (q : Nat) (c : Cmd) (a : Ans) :
    (d.answer q c a).queue q = (d.queue q).answered c a (replyFor d c a false) := by
  rw [Dev.answer, Dev.modQueue_queue_self, Dev.sendCmd_queue]

theorem Dev.answer_queue_ne (d : Dev) {q k : Nat} (c : Cmd) (a : Ans) (h : k ≠ q) : (d.answer q c a).queue k = d.queue k := by
  rw [Dev.answer, Dev.modQueue_queue_ne _ _ h, Dev.sendCmd_queue]

theorem Dev.answer_tx (d : Dev) (q : Nat) (c : Cmd) (a : Ans) : (d.answer q c a).tx = d.tx ++ [.reply (replyFor d c a false)] :=
  d.sendCmd_tx ..

/-- An answer changes the frames sent, the ports' counters and the queues. -/
theorem Dev.answer_eq (d : Dev) (q : Nat) (c : Cmd) (a : Ans) :
    ∃ tx ports queues, d.answer q c a = { d with tx := tx, fab := { d.fab with ports := ports }, queues := queues } := by
  obtain ⟨ports, h⟩ := d.sendCmd_ports c.src (.reply (replyFor d c a false))
  rw [Dev.answer, h]
  exact ⟨_, _, _, rfl⟩

/-- What looks at none of these reads the same after an answer. -/
theorem Dev.answer_congr (d : Dev) (q : Nat) (c : Cmd) (a : Ans) {α : Type} (g : Dev → α)
    (hg : ∀ tx ports queues, g { d with tx := tx, fab := { d.fab with ports := ports }, queues := queues } = g d) : g (d.answer q c a) = g d := by
  obtain ⟨tx, ports, queues, h⟩ := d.answer_eq q c a
  rw [h]
  exact hg ..

theorem Dev.answer_counted (d : Dev) (q : Nat) (c : Cmd) (a : Ans) : d.CountedPorts (d.answer q c a) :=
  (Dev.CountedPorts.sendCmd d c.src _).trans (.of_ports rfl)

theorem Dev.answer_sameBut (d : Dev) (q : Nat) (c : Cmd) (a : Ans) : SameBut (d.answer q c a) d := by
  refine ⟨?_, d.answer_counted q c a⟩
  obtain ⟨tx, ports, queues, h⟩ := d.answer_eq q c a
  rw [h]

@[simp] theorem Dev.answer_mem (d : Dev) (q : Nat) (c : Cmd) (a : Ans) : (d.answer q c a).mem = d.mem := d.answer_congr q c a Dev.mem fun _ _ _ => rfl
@[simp] theorem Dev.answer_cores (d : Dev) (q : Nat) (c : Cmd) (a : Ans) :
    (d.answer q c a).cores = d.cores := d.answer_congr q c a Dev.cores fun _ _ _ => rfl
@[simp] theorem Dev.answer_jobs (d : Dev) (q : Nat) (c : Cmd) (a : Ans) : (d.answer q c a).jobs = d.jobs := d.answer_congr q c a Dev.jobs fun _ _ _ => rfl
@[simp] theorem Dev.answer_parts (d : Dev) (q : Nat) (c : Cmd) (a : Ans) :
    (d.answer q c a).parts = d.parts := d.answer_congr q c a Dev.parts fun _ _ _ => rfl
@[simp] theorem Dev.answer_part (d : Dev) (q : Nat) (c : Cmd) (a : Ans) (p : Nat) : (d.answer q c a).part p = d.part p :=
  d.answer_congr q c a (fun d => d.part p) fun _ _ _ => rfl
@[simp] theorem Dev.answer_ctx (d : Dev) (q : Nat) (c : Cmd) (a : Ans) (x : Nat) : (d.answer q c a).ctx x = d.ctx x :=
  d.answer_congr q c a (fun d => d.ctx x) fun _ _ _ => rfl
@[simp] theorem Dev.answer_core (d : Dev) (q : Nat) (c : Cmd) (a : Ans) (n : Nat) : (d.answer q c a).core n = d.core n :=
  d.answer_congr q c a (fun d => d.core n) fun _ _ _ => rfl
@[simp] theorem Dev.answer_chan (d : Dev) (q : Nat) (c : Cmd) (a : Ans) (n : Nat) : (d.answer q c a).chan n = d.chan n :=
  d.answer_congr q c a (fun d => d.chan n) fun _ _ _ => rfl
@[simp] theorem Dev.answer_tiers (d : Dev) (q : Nat) (c : Cmd) (a : Ans) :
    (d.answer q c a).tiers = d.tiers := d.answer_congr q c a Dev.tiers fun _ _ _ => rfl
@[simp] theorem Dev.answer_brd (d : Dev) (q : Nat) (c : Cmd) (a : Ans) : (d.answer q c a).brd = d.brd := d.answer_congr q c a Dev.brd fun _ _ _ => rfl
@[simp] theorem Dev.answer_sec (d : Dev) (q : Nat) (c : Cmd) (a : Ans) : (d.answer q c a).sec = d.sec := d.answer_congr q c a Dev.sec fun _ _ _ => rfl

theorem Dev.answer_tm (d : Dev) (q : Nat) (c : Cmd) (a : Ans) (n : Nat) : (d.answer q c a).tm n = d.tm n :=
  d.answer_congr q c a (fun d => d.tm n) fun _ _ _ => rfl

/-- With nothing held behind it, a command that is done is answered, and the queue waits for the next one. -/
theorem Dev.finish_clear (henc : c.hdr.enc = false) (hkey : a.keyid = none) (hheld : (d.queue q).heldc = []) :
    d0.finish d q c a = d.answer q c a := by
  have hheld' : ((d.answer q c a).queue q).heldc = [] := by
    rw [Dev.answer_queue_self]
    unfold CmdQueue.answered
    dsimp only
    split <;> exact hheld
  unfold Dev.finish
  rw [Dev.replied_clear henc hkey, Dev.takeHeld]
  rw [hheld', List.find?_nil]
  exact ite_self _

end

/-! ## A command's turn (R309) -/

section
variable {s : State} {q op : Nat} {c : Cmd} {mine : Cmd → Bool} {f : Cmd → State → Option Ans × State}

/-- The module once the queen has turned to the queue. -/
def State.turned (s : State) (q : Nat) : State := { s with dev := served s q }

theorem runOp_of_turn (h : queueTurn s q c) (hop : c.hdr.opcode = op) (hr : refuse s.nv s.dev c = 0) (hm : mine c = true) :
    runOp s q op mine f = match f c (s.turned q) with
      | (none, t) => .next t
      | (some a, t) => .next { t with dev := (served s q).finish t.dev q c a } := by
  obtain ⟨hq, hcur, hturn, _, _, hroom⟩ := h
  unfold runOp onQueue
  rw [if_pos hq, hcur]
  dsimp only
  rw [if_neg (by simp [hop, hroom, hturn]), hr, if_neg (by simp [hm]), if_neg (by simp)]
  rfl

theorem runOp_of_refused (h : queueTurn s q c) (hop : c.hdr.opcode = op) (hr : refuse s.nv s.dev c ≠ 0) :
    runOp s q op mine f = .next { s with dev := (served s q).answer q c (bad (refuse s.nv s.dev c)) } := by
  obtain ⟨hq, hcur, hturn, henc, hheld, hroom⟩ := h
  unfold runOp onQueue
  rw [if_pos hq, hcur]
  dsimp only
  rw [if_neg (by simp [hop, hroom, hturn]), if_neg (by simp [hr]), if_pos (by simpa using hr)]
  have hfin : (served s q).finish (served s q) q c (bad (refuse s.nv s.dev c)) = (served s q).answer q c (bad (refuse s.nv s.dev c)) :=
    Dev.finish_clear (a := bad (refuse s.nv s.dev c)) henc rfl hheld
  rw [← hfin]
  rfl

theorem runOp_of_waiting (hq : q < nQueues) (hcur : (s.dev.queue q).cur = some c) (ht : s.dev.myTurn q = false) :
    runOp s q op mine f = .next s := by
  unfold runOp onQueue
  rw [if_pos hq, hcur]
  exact if_pos (by simp [ht])

theorem devOp_of_turn {f : Cmd → Dev → Ans × Dev} (h : itsTurn s q op c) :
    devOp s q op f = .next { s with dev := (served s q).finish (f c (served s q)).2 q c (f c (served s q)).1 } := by
  obtain ⟨hturn, hop, hr⟩ := h
  exact runOp_of_turn hturn hop hr rfl

/-- A command that leaves its queue as it is, answered in the clear. -/
theorem devOp_answer {f : Cmd → Dev → Ans × Dev} (h : itsTurn s q op c) (hk : (f c (served s q)).1.keyid = none)
    (hheld : ((f c (served s q)).2.queue q).heldc = []) :
    devOp s q op f = .next { s with dev := (f c (served s q)).2.answer q c (f c (served s q)).1 } := by
  rw [devOp_of_turn h, Dev.finish_clear h.1.2.2.2.1 hk hheld]

end

/-! ## What the claims say of an answer -/

section
variable {s : State} {q : Nat} {c : Cmd} {a : Ans} {d : Dev}

theorem answered_of_answer {t : State} (ht : t.dev = d.answer q c a) (hcache : a.cache = true) (hnext : (d.queue q).next = (s.dev.queue q).next)
    (hcmd : (d.queue q).qcmd = (s.dev.queue q).qcmd) : Answered s t q c a.status a.payload := by
  have hqueue : t.dev.queue q = (d.queue q).answered c a (replyFor d c a false) := by rw [ht, Dev.answer_queue_self]
  have hfields : ((d.queue q).answered c a (replyFor d c a false)).cur = none ∧
      ((d.queue q).answered c a (replyFor d c a false)).next = ((d.queue q).next + 1) % 2 ^ 32 ∧
      ((d.queue q).answered c a (replyFor d c a false)).qcmd = (d.queue q).qcmd + 1#32 := by
    unfold CmdQueue.answered
    dsimp only
    rw [if_pos hcache]
    exact ⟨rfl, rfl, rfl⟩
  obtain ⟨hcur, hn, hc⟩ := hfields
  refine ⟨⟨replyFor d c a false, ?_, rfl, rfl, rfl, rfl, rfl⟩, ?_, ?_, ?_⟩
  · rw [ht, Dev.answer_tx, List.getLast?_concat]
  · rw [hqueue, hcur]
  · rw [hqueue, hn, hnext]
  · rw [hqueue, hc, hcmd]

theorem onlyReply_of_answer (s : State) (q : Nat) (c : Cmd) (a : Ans) : OnlyReply s { s with dev := (served s q).answer q c a } q := by
  refine ⟨⟨rfl, rfl⟩, Dev.answer_sameBut .., ?_, fun k hk => Dev.answer_queue_ne _ c a hk⟩
  dsimp only
  rw [Dev.answer_tx, List.length_append]
  rfl

theorem answered_served (s : State) (q : Nat) (c : Cmd) {a : Ans} (hcache : a.cache = true) :
    Answered s { s with dev := (served s q).answer q c a } q c a.status a.payload := answered_of_answer rfl hcache rfl rfl

end

/-! ## Refused commands (R312) -/

/-- What a command's row answers is what its turn gives. -/
structure TakesTurn (o : Out) (s : State) (q op : Nat) : Prop where
  run : ∃ mine f, o = runOp s q op mine f

theorem TakesTurn.devOp (s : State) (q op : Nat) (f : Cmd → Dev → Ans × Dev) : TakesTurn (devOp s q op f) s q op := ⟨_, _, rfl⟩
theorem TakesTurn.runOp (s : State) (q op : Nat) (mine : Cmd → Bool) (f : Cmd → State → Option Ans × State) :
    TakesTurn (runOp s q op mine f) s q op := ⟨_, _, rfl⟩

/-- Every row of the table of commands takes its turn under its opcode. -/
theorem exec_of_opTable (q : Nat) (s : State) : ∀ y ∈ opTable, TakesTurn (exec (y.2 q) s) s q y.1 := by
  unfold opTable
  simp only [List.forall_mem_cons]
  refine ⟨?_, ?_, ?_, ?_, ?_, ?_, ?_, ?_, ?_, ?_, ?_, ?_, ?_, ?_, ?_, ?_, ?_, ?_, ?_, ?_, ?_, ?_, ?_, ?_, ?_, ?_, ?_, ?_, ?_, ?_, List.forall_mem_nil _⟩
  · rw [exec, execIdent]
    exact .devOp ..
  · rw [exec, execEcho]
    exact .devOp ..
  · rw [exec, execPread]
    exact .devOp ..
  · rw [exec, execPwrite]
    exact .devOp ..
  · rw [exec, execPswap]
    exact .devOp ..
  · rw [exec, execQbind]
    exact .devOp ..
  · rw [exec, execQreset]
    exact .devOp ..
  · rw [exec, execMemread]
    exact .devOp ..
  · rw [exec, execMemwrite]
    exact .devOp ..
  · rw [exec, execPlace]
    exact .runOp ..
  · rw [exec, execLbegin]
    exact .devOp ..
  · rw [exec, execLdata]
    exact .devOp ..
  · rw [exec, execLcommit]
    exact .devOp ..
  · rw [exec, execUnload]
    exact .devOp ..
  · rw [exec, execStart]
    exact .devOp ..
  · rw [exec, execCap]
    exact .devOp ..
  · rw [exec, execDiscard]
    exact .runOp ..
  · rw [exec, execStepparam]
    exact .devOp ..
  · rw [exec, execBase]
    exact .devOp ..
  · rw [exec, execPtest]
    exact .devOp ..
  · rw [exec, execRebuild]
    exact .devOp ..
  · rw [exec, execReplay]
    exact .devOp ..
  · rw [exec, execSnapshot]
    exact .devOp ..
  · rw [exec, execBbread]
    exact .devOp ..
  · rw [exec, execCoreReset]
    exact .runOp ..
  · rw [exec, execAttest]
    exact .devOp ..
  · rw [exec, execKeyrel]
    exact .runOp ..
  · rw [exec, execFwupdate]
    exact .runOp ..
  · rw [exec, execCtxset]
    exact .devOp ..
  · rw [exec, execAcctread]
    exact .devOp ..

/-- Settles O43: every command's row refuses before it executes, and waits for its turn. -/
theorem refusedCommandsChangeNothing : Obligations.RefusedCommandsChangeNothing := by
  unfold Obligations.RefusedCommandsChangeNothing
  intro s q c y hy hop
  obtain ⟨mine, f, hrun⟩ := (exec_of_opTable q s y hy).run
  refine ⟨fun hturn hr => ?_, fun hq hcur ht => ?_⟩
  · rw [hrun, runOp_of_refused hturn hop hr]
    exact ⟨_, rfl, answered_served s q c rfl, onlyReply_of_answer s q c _⟩
  · rw [hrun, runOp_of_waiting hq hcur ht]

end Sys2Proof.Machine
end

section
/-! PROOF. Command packets in their sequence (R305, R307, R308, R311). -/

namespace Sys2Proof.Machine
open Sys2Proof Sys2Proof.Machine.Claims

section
variable {d : Dev} {q : Nat} {c : Cmd}

/-- A reply outside the sequence, in the clear. -/
theorem Dev.replyOnly_clear (henc : c.hdr.enc = false) (status : Nat) :
    d.replyOnly c status = d.sendCmd c.src (.reply (replyFor d c (bad status) false)) := by
  unfold Dev.replyOnly
  rw [Dev.replyTo_clear henc rfl]

theorem Dev.sendCmd_queues (d : Dev) (dst : Nat) (t : Tx) : (d.sendCmd dst t).queues = d.queues := by
  obtain ⟨ports, h⟩ := d.sendCmd_ports dst t
  rw [h]

theorem Dev.takeHeld_of_cur (h : (d.queue q).cur.isSome = true) (n : Nat) : Dev.takeHeld n d q = d := by
  cases n with
  | zero => rfl
  | succ n =>
    rw [Dev.takeHeld, if_pos h]

theorem Dev.takeHeld_of_nil (h : (d.queue q).heldc = []) (n : Nat) : Dev.takeHeld n d q = d := by
  cases n with
  | zero => rfl
  | succ n =>
    rw [Dev.takeHeld, h, List.find?_nil]
    exact ite_self _

/-- Whether the queue serves who sends (R307). -/
def Dev.serves (d : Dev) (q src : Nat) : Prop := q = 0 ∨ ((d.queue q).bound = true ∧ (d.queue q).binder = src)

/-- How far a CSEQ lies from NEXT (R308). -/
def Dev.beyond (d : Dev) (q seq : Nat) : Nat := (seq + 2 ^ 32 - (d.queue q).next) % 2 ^ 32

theorem Dev.request_of_unbound (hq : q ≠ 0) (hb : (d.queue q).bound = false) : d.request q c = d.replyOnly c 0x0008 := by
  unfold Dev.request
  exact if_pos (by simp [hq, hb])

section
variable (hs : d.serves q c.src)
include hs

/-- A request from the queue's binder, by how far it lies from NEXT (R308). -/
theorem Dev.request_of_serves : d.request q c = (let x := d.queue q
    let same (y : Cmd) : Bool := y.hdr.opcode == c.hdr.opcode && y.payload == c.payload
    if d.beyond q c.hdr.seq = 0 then
      match x.cur with
      | none => Dev.takeHeld 16 (d.take q c) q
      | some y => if same y then d else d.replyOnly c 0x0009
    else if d.beyond q c.hdr.seq ≤ 15 then
      match x.heldc.find? (fun y => y.hdr.seq == c.hdr.seq) with
      | none => d.modQueue q (fun x => { x with heldc := x.heldc ++ [c] })
      | some y => if same y then d else d.replyOnly c 0x0009
    else
      match x.cache.find? (fun e => e.req.seq == c.hdr.seq) with
      | none => d.replyOnly c 0x0009
      | some e =>
        if e.req.opcode != c.hdr.opcode then d.replyOnly c 0x0009
        else (d.modQueue q (fun x => { x with qrty := x.qrty + 1 })).sendCmd e.reply.dst (.reply { e.reply with retry := true })) := by
  unfold Dev.request
  refine if_neg ?_
  rcases hs with h | ⟨hb, hsrc⟩
  · simp [h]
  · simp [hb, hsrc]

theorem Dev.request_known (h0 : d.beyond q c.hdr.seq = 0) (hcur : (d.queue q).cur = none) (hop : (opStates c.hdr.opcode).isSome = true) :
    d.request q c = d.modQueue q (fun x => { x with cur := some c }) := by
  rw [Dev.request_of_serves hs]
  dsimp only
  rw [if_pos h0, hcur]
  dsimp only
  have htake : d.take q c = d.modQueue q (fun x => { x with cur := some c }) :=
    if_neg (by rw [Option.isNone_eq_false_iff.2 hop]; exact Bool.false_ne_true)
  rw [htake, Dev.takeHeld_of_cur]
  rw [Dev.modQueue_queue_self]
  rfl

theorem Dev.request_unknown (h0 : d.beyond q c.hdr.seq = 0) (hcur : (d.queue q).cur = none) (hheld : (d.queue q).heldc = [])
    (henc : c.hdr.enc = false) (hop : opStates c.hdr.opcode = none) : d.request q c = d.answer q c (bad 0x0002) := by
  rw [Dev.request_of_serves hs]
  dsimp only
  rw [if_pos h0, hcur]
  dsimp only
  have htake : d.take q c = d.answer q c (bad 0x0002) := by
    unfold Dev.take
    rw [if_pos (by rw [hop]; rfl), Dev.replied_clear henc rfl]
  rw [htake, Dev.takeHeld_of_nil]
  rw [Dev.answer_queue_self]
  exact hheld

theorem Dev.request_early (h0 : 0 < d.beyond q c.hdr.seq) (h15 : d.beyond q c.hdr.seq ≤ 15)
    (hf : (d.queue q).heldc.find? (fun y => y.hdr.seq == c.hdr.seq) = none) :
    d.request q c = d.modQueue q (fun x => { x with heldc := x.heldc ++ [c] }) := by
  rw [Dev.request_of_serves hs]
  dsimp only
  rw [if_neg (by omega), if_pos h15, hf]

theorem Dev.request_cached (h15 : 15 < d.beyond q c.hdr.seq) {e : Cached} (hf : (d.queue q).cache.find? (fun e => e.req.seq == c.hdr.seq) = some e)
    (hop : e.req.opcode = c.hdr.opcode) : d.request q c =
      (d.modQueue q (fun x => { x with qrty := x.qrty + 1 })).sendCmd e.reply.dst (.reply { e.reply with retry := true }) := by
  rw [Dev.request_of_serves hs]
  dsimp only
  rw [if_neg (by omega), if_neg (by omega), hf]
  exact if_neg (by simp [hop])

theorem Dev.request_forgotten (h15 : 15 < d.beyond q c.hdr.seq) (hf : (d.queue q).cache.find? (fun e => e.req.seq == c.hdr.seq) = none) :
    d.request q c = d.replyOnly c 0x0009 := by
  rw [Dev.request_of_serves hs]
  dsimp only
  rw [if_neg (by omega), if_neg (by omega), hf]

end

/-- A well-formed request in the clear reaches its queue. -/
theorem Dev.cmdPacket_of_request {src u : Nat} {h : CmdHdr} {pl : List Byte} (hl : d.listens = true) (hb : badCmd 1 h u pl = false)
    (henc : h.enc = false) (hk : h.kind = 0) (hn : d.needsEnc h.queue = false) :
    d.cmdPacket 1 src h u pl = (d.modNet 1 (netCnt 13 1)).request h.queue { hdr := h, src := src, payload := pl } := by
  have hopen : (d.modNet 1 (netCnt 13 1)).openCmd h pl = some pl := by
    have hn' : (d.modNet 1 (netCnt 13 1)).needsEnc h.queue = false := hn
    unfold Dev.openCmd
    simp [henc, hn']
  unfold Dev.cmdPacket
  rw [if_neg (by simp [hl])]
  dsimp only
  rw [if_neg (by simp [hb]), hopen]
  dsimp only
  rw [if_neg (by omega), henc]
  rfl

end

/-- Settles O42: a packet goes by the distance of its CSEQ from NEXT. -/
theorem commandPacketsAreSequenced : Obligations.CommandPacketsAreSequenced := by
  unfold Obligations.CommandPacketsAreSequenced
  intro s net src h u pl hnet
  have hrun : exec (.commandPacketReceive net src h u pl) s = .next { s with dev := s.dev.cmdPacket net src h u pl } :=
    onUnit_eq (decide_eq_true hnet) _
  have hsends {t : State} (h : t.dev.tx = s.dev.tx) : Sends s t [] := h.trans (List.append_nil _).symm
  have hqueue (q : Nat) : (s.dev.modNet 1 (netCnt 13 1)).queue q = s.dev.queue q := rfl
  dsimp only
  refine ⟨fun hl hb => ?_, ?_, fun hn hl hb henc hk hq hbound => ?_⟩
  · have hdev : s.dev.cmdPacket net src h u pl = (s.dev.modNet net (netCnt 13 1)).rxd net := by
      unfold Dev.cmdPacket
      rw [if_neg (by simp [hl])]
      exact if_pos hb
    rw [hdev] at hrun
    refine ⟨_, hrun, (Dev.SameButNet.modNet ..).queues, hsends (Dev.modNet_tx ..), ?_⟩
    dsimp only
    rw [Dev.rxd, portCounter_portCnt, portCounter, Dev.port, Dev.modNet_ports]
    rfl
  · rintro ⟨rfl, hl, hb, henc, hk, hn, hserves⟩
    rw [Dev.cmdPacket_of_request hl hb henc hk hn] at hrun
    have hs : (s.dev.modNet 1 (netCnt 13 1)).serves h.queue ({ hdr := h, src := src, payload := pl } : Cmd).src := hserves
    refine ⟨fun h0 hcur hheld => ⟨fun hop => ?_, fun hop => ?_⟩, fun h0 h15 hf => ?_, fun h15 => ⟨fun e hf hop => ?_, fun hf => ?_⟩⟩
    · rw [Dev.request_known hs h0 hcur hop] at hrun
      refine ⟨_, hrun, hsends (Dev.modNet_tx ..), ?_, fun k hk => ?_⟩
      · rw [Dev.modQueue_queue_self]
        rfl
      · rw [Dev.modQueue_queue_ne _ _ hk]
        rfl
    · rw [Dev.request_unknown hs h0 hcur hheld henc hop] at hrun
      exact ⟨_, hrun, answered_of_answer (a := bad 0x0002) rfl rfl rfl rfl⟩
    · rw [Dev.request_early hs h0 h15 hf] at hrun
      refine ⟨_, hrun, hsends (Dev.modNet_tx ..), ?_⟩
      rw [Dev.modQueue_queue_self]
      rfl
    · rw [Dev.request_cached hs h15 hf hop] at hrun
      refine ⟨_, hrun, ?_, ?_⟩
      · exact (Dev.sendCmd_tx ..).trans (congrArg (· ++ _) (s.dev.modNet_tx ..))
      · dsimp only
        rw [Dev.sendCmd_queue, Dev.modQueue_queue_self]
        rfl
    · rw [Dev.request_forgotten hs h15 hf, Dev.replyOnly_clear henc] at hrun
      exact ⟨_, _, hrun, (Dev.sendCmd_queues ..).trans rfl, (Dev.sendCmd_tx ..).trans (congrArg (· ++ _) (s.dev.modNet_tx ..)), rfl, rfl⟩
  · subst hn
    have hneed : s.dev.needsEnc h.queue = false := by simp [Dev.needsEnc, hbound]
    rw [Dev.cmdPacket_of_request hl hb henc hk hneed, Dev.request_of_unbound (d := s.dev.modNet 1 (netCnt 13 1)) hq hbound,
        Dev.replyOnly_clear henc] at hrun
    exact ⟨_, _, hrun, (Dev.sendCmd_queues ..).trans rfl, (Dev.sendCmd_tx ..).trans (congrArg (· ++ _) (s.dev.modNet_tx ..)), rfl⟩

end Sys2Proof.Machine
end

section
/-! PROOF. Completion events, their acknowledgement and resending (R309, R323, R444). -/

namespace Sys2Proof.Machine
open Sys2Proof Sys2Proof.Machine.Claims

/-! ## An event on its channel (R323) -/

section
variable {d : Dev} {ch : Nat} {r : Raise}

/-- The event that a report becomes on its channel. -/
def eventOf (d : Dev) (ch : Nat) (r : Raise) : Event :=
  ⟨(d.chan ch).next, r.code, evWords d r, (d.partStamp r.part).step, (d.partStamp r.part).phase, (d.part r.part).epoch⟩

theorem Dev.sendCmd_chan (d : Dev) (dst : Nat) (t : Tx) (k : Nat) : (d.sendCmd dst t).chan k = d.chan k := by
  obtain ⟨ports, h⟩ := d.sendCmd_ports dst t
  rw [h]
  rfl

theorem Dev.emit_chan_ne (d : Dev) {ch k : Nat} (r : Raise) (h : k ≠ ch) : (d.emit ch r).chan k = d.chan k := by
  unfold Dev.emit
  dsimp only
  split
  · exact (Dev.sendCmd_chan ..).trans (Dev.modChan_chan_ne _ _ h)
  · exact Dev.modChan_chan_ne _ _ h

/-- An open channel with room keeps the event and sends it. -/
theorem Dev.emit_chan (hen : (d.chan ch).en = true) (hroom : (d.chan ch).unacked.length < 64) (hs : d.sends = true) :
    (d.emit ch r).chan ch = { d.chan ch with next := (d.chan ch).next + 1, unacked := (d.chan ch).unacked ++ [eventOf d ch r] } := by
  unfold Dev.emit
  dsimp only
  rw [if_pos (by simp [hen, hroom, hs])]
  exact (Dev.sendCmd_chan ..).trans (Dev.modChan_chan_self ..)

theorem evWords_getD (d : Dev) (r : Raise) :
    (evWords d r).getD 1 0 = r.w1 ∧ (evWords d r).getD 2 0 = r.w2 ∧ (evWords d r).getD 5 0 = r.detail.getD 0 0 := ⟨rfl, rfl, rfl⟩

/-- A report is recorded, and an open channel with room keeps its event. -/
theorem Dev.raise_chan {code part ctx lcore w1 w2 : Nat} {detail : List Nat} (hbb : d.bb.queue.length < bbDepth) (hen : (d.chan ch).en = true)
    (hroom : (d.chan ch).unacked.length < 64) (hs : d.sends = true) :
    ∃ e, (d.raise ⟨code, some ch, part, ctx, lcore, w1, w2, detail⟩).chan ch =
      { d.chan ch with next := (d.chan ch).next + 1, unacked := (d.chan ch).unacked ++ [e] } ∧
      e.code = code ∧ e.seq = (d.chan ch).next ∧ e.words.getD 1 0 = w1 ∧ e.words.getD 2 0 = w2 := by
  unfold Dev.raise
  rw [if_neg (by omega)]
  exact ⟨_, Dev.emit_chan (d := d.record _) hen hroom hs, rfl, rfl, rfl, rfl⟩

end

/-! ## Acknowledgement (R323, R444) -/

section
variable {d : Dev} {ch n : Nat}

/-- The channel with the events from `n` on. -/
def Channel.keepFrom (c : Channel) (n : Nat) : Channel := { c with unacked := c.unacked.dropWhile (fun e => serialLater 32 n (e.seq % 2 ^ 32)) }

theorem Dev.ackEvents_of_none (hl : (d.chan ch).lost = 0) : d.ackEvents ch n = d.modChan ch (·.keepFrom n) := by
  have hlost : ((d.modChan ch (·.keepFrom n)).chan ch).lost = 0 := by
    rw [Dev.modChan_chan_self]
    exact hl
  have hrun : d.ackEvents ch n = (d.modChan ch (·.keepFrom n)).tellLost ch := rfl
  rw [hrun]
  exact if_neg (by rw [hlost]; exact Bool.false_ne_true)

/-- What was lost is told once the channel has room again. -/
theorem Dev.ackEvents_of_lost (hl : (d.chan ch).lost ≠ 0) (hen : (d.chan ch).en = true) (hroom : ((d.chan ch).keepFrom n).unacked.length < 64)
    (hs : d.sends = true) : ∃ e, (d.ackEvents ch n).chan ch =
      { (d.chan ch).keepFrom n with lost := 0, next := (d.chan ch).next + 1, unacked := ((d.chan ch).keepFrom n).unacked ++ [e] } ∧
      e.code = 0x0903 ∧ e.words.getD 5 0 = (d.chan ch).lost ∧ ∀ k, k ≠ ch → (d.ackEvents ch n).chan k = d.chan k := by
  have hself := d.modChan_chan_self ch (·.keepFrom n)
  have hother (k : Nat) (hk : k ≠ ch) := d.modChan_chan_ne (·.keepFrom n) hk
  have hsends : (d.modChan ch (·.keepFrom n)).sends = true := hs
  have hrun : d.ackEvents ch n = (d.modChan ch (·.keepFrom n)).tellLost ch := rfl
  rw [hrun]
  generalize d.modChan ch (·.keepFrom n) = e at hself hother hsends
  have htell : e.tellLost ch = ((e.record { code := 0x0903, chan := some ch, detail := [(e.chan ch).lost, ch] }).modChan ch
      (fun c => { c with lost := 0 })).emit ch { code := 0x0903, chan := some ch, detail := [(e.chan ch).lost, ch] } := by
    refine if_pos ?_
    rw [hself, decide_eq_true hroom, Bool.and_true]
    exact Bool.and_eq_true_iff.mpr ⟨bne_iff_ne.mpr hl, hen⟩
  have hzero : ((e.record { code := 0x0903, chan := some ch, detail := [(e.chan ch).lost, ch] }).modChan ch
      (fun c => { c with lost := 0 })).chan ch = { (d.chan ch).keepFrom n with lost := 0 } := by
    rw [Dev.modChan_chan_self]
    exact congrArg (fun c : Channel => { c with lost := 0 }) hself
  have hemit := Dev.emit_chan (d := (e.record { code := 0x0903, chan := some ch, detail := [(e.chan ch).lost, ch] }).modChan ch
    (fun c => { c with lost := 0 })) (ch := ch) (r := { code := 0x0903, chan := some ch, detail := [(e.chan ch).lost, ch] })
    (by rw [hzero]; exact hen) (by rw [hzero]; exact hroom) hsends
  rw [htell, hemit, hzero]
  refine ⟨_, rfl, rfl, (congrArg Channel.lost hself :), fun k hk => ?_⟩
  rw [Dev.emit_chan_ne _ _ hk, Dev.modChan_chan_ne _ _ hk]
  exact hother k hk

end

/-! ## Resending (R323) -/

/-- An event as a frame on its channel. -/
def Dev.eventTx (d : Dev) (ch : Nat) (e : Event) : Tx :=
  .event ch e.seq e.code e.words (modCode d.brd.state) e.step e.phase e.epoch (d.ipHdr 1 6 (d.chan ch).dst) (d.chan ch).port

theorem Dev.sendEvent_eq (d : Dev) (ch : Nat) (e : Event) : d.sendEvent ch e = d.sendCmd (d.chan ch).dst (d.eventTx ch e) := rfl

theorem SameBut.refl (d : Dev) : SameBut d d := ⟨rfl, fun _ => rfl⟩

theorem Dev.sendCmd_sameBut (d : Dev) (dst : Nat) (t : Tx) : SameBut (d.sendCmd dst t) d := by
  refine ⟨?_, Dev.CountedPorts.sendCmd d dst t⟩
  obtain ⟨ports, h⟩ := d.sendCmd_ports dst t
  rw [h]

theorem SameBut.trans {a b c : Dev} (h : SameBut a b) (k : SameBut b c) : SameBut a c := by
  refine ⟨?_, Dev.CountedPorts.trans (d := c) (e := b) (f := a) k.2 h.2⟩
  have hb := congrArg (fun d : Dev => { d with tx := c.tx, queues := c.queues, fab := { d.fab with ports := c.fab.ports } }) h.1
  exact hb.trans k.1

/-- The frames that a resend sends, in order. -/
theorem Dev.foldl_sendEvent (l : List Event) (d : Dev) (ch : Nat) :
    SameBut (l.foldl (fun d e => d.sendEvent ch e) d) d ∧ (l.foldl (fun d e => d.sendEvent ch e) d).queues = d.queues ∧
    (l.foldl (fun d e => d.sendEvent ch e) d).tx = d.tx ++ l.map (d.eventTx ch) := by
  induction l generalizing d with
  | nil => exact ⟨SameBut.refl d, rfl, (List.append_nil _).symm⟩
  | cons e l ih =>
    obtain ⟨hsame, hq, htx⟩ := ih (d.sendEvent ch e)
    have hone := d.sendCmd_sameBut (d.chan ch).dst (d.eventTx ch e)
    have hevent (y : Event) : (d.sendEvent ch e).eventTx ch y = d.eventTx ch y := by
      obtain ⟨ports, h⟩ := d.sendCmd_ports (d.chan ch).dst (d.eventTx ch e)
      rw [Dev.sendEvent_eq, h]
      rfl
    refine ⟨SameBut.trans hsame hone, hq.trans (Dev.sendCmd_queues ..), ?_⟩
    rw [List.foldl_cons, htx, Dev.sendEvent_eq, Dev.sendCmd_tx, ← Dev.sendEvent_eq, List.append_assoc, List.map_congr_left fun y _ => hevent y]
    rfl

/-! ## Completion (R309) -/

theorem Dev.foldl_modCtx {α : Type} (l : List α) (c : α → Nat) (g : α → Context → Context) (d : Dev) :
    ∃ ctxs, l.foldl (fun d x => d.modCtx (c x) (g x)) d = { d with ctxs := ctxs } := by
  induction l generalizing d with
  | nil => exact ⟨_, rfl⟩
  | cons x l ih =>
    obtain ⟨ctxs, h⟩ := ih (d.modCtx (c x) (g x))
    exact ⟨ctxs, h⟩

theorem Dev.unpin_eq (d : Dev) (l : List (Nat × Nat)) : ∃ ctxs, d.unpin l = { d with ctxs := ctxs } := Dev.foldl_modCtx l ..

/-- Settles O44: a completion is an event like any other, and acknowledging frees the oldest of what is kept. -/
theorem completionsAndEventsAreSentUntilAcknowledged : Obligations.CompletionsAndEventsAreSentUntilAcknowledged := by
  unfold Obligations.CompletionsAndEventsAreSentUntilAcknowledged
  intro s q cseq ch n j
  dsimp only
  refine ⟨fun hq hj hf hbb hen hroom hs => ?_, fun hch hl hlost => ?_, fun hch hl hlost hen hroom => ?_, fun hch hen hs => ?_⟩
  · have hrun : exec (.commandComplete q cseq) s = .next { s with dev := s.dev.complete q cseq } := if_pos hq
    obtain ⟨ctxs, hpin⟩ := ({ s.dev with jobs := s.dev.jobs.erase j } : Dev).unpin_eq j.pins
    have hend : ({ s.dev with jobs := s.dev.jobs.erase j } : Dev).jobEnd j =
        (j.status, j.detail, { s.dev with jobs := s.dev.jobs.erase j, ctxs := ctxs }) := by
      unfold Dev.jobEnd
      rw [if_pos (by rcases hj with h | h <;> simp [h]), hpin]
    have hdev : s.dev.complete q cseq = ({ s.dev with jobs := s.dev.jobs.erase j, ctxs := ctxs } : Dev).raise
        ⟨0x0901, some q, j.part, j.ctx, 0x1FF, j.status * 2 ^ 16 + j.opcode, j.cseq, j.detail⟩ := by
      unfold Dev.complete
      rw [hf]
      dsimp only
      rw [hend]
    obtain ⟨e, hchan, hcode, hseq, hw1, hw2⟩ := Dev.raise_chan (d := { s.dev with jobs := s.dev.jobs.erase j, ctxs := ctxs }) (ch := q)
      (code := 0x0901) (part := j.part) (ctx := j.ctx) (lcore := 0x1FF) (w1 := j.status * 2 ^ 16 + j.opcode) (w2 := j.cseq)
      (detail := j.detail) hbb hen hroom hs
    have hnet := Dev.SameButNet.raise ({ s.dev with jobs := s.dev.jobs.erase j, ctxs := ctxs } : Dev)
      ⟨0x0901, some q, j.part, j.ctx, 0x1FF, j.status * 2 ^ 16 + j.opcode, j.cseq, j.detail⟩
    rw [hdev] at hrun
    exact ⟨_, e, hrun, ⟨rfl, rfl⟩, hnet.mem, hnet.jobs, (congrArg Channel.unacked hchan :), (congrArg Channel.next hchan :), hcode, hseq, hw1, hw2⟩
  · have hrun : exec (.eventAcknowledgement ch n) s = .next { s with dev := s.dev.modChan ch (·.keepFrom (n % 2 ^ 32)) } := by
      refine (onUnit_eq (decide_eq_true hch) _).trans ?_
      rw [if_pos hl, Dev.ackEvents_of_none hlost]
    exact ⟨_, hrun, ⟨rfl, rfl⟩, rfl, (List.append_nil _).symm, Dev.modChan_chan_self .., fun k hk => Dev.modChan_chan_ne _ _ hk⟩
  · have hrun : exec (.eventAcknowledgement ch n) s = .next { s with dev := s.dev.ackEvents ch (n % 2 ^ 32) } := by
      refine (onUnit_eq (decide_eq_true hch) _).trans ?_
      rw [if_pos hl]
    have hs : s.dev.sends = true := by
      unfold Dev.sends
      revert hl
      unfold Dev.listens
      cases s.dev.brd.state <;> simp
    obtain ⟨e, hchan, hcode, hword, hother⟩ := Dev.ackEvents_of_lost hlost hen hroom hs
    exact ⟨_, e, hrun, ⟨rfl, rfl⟩, Dev.ackEvents_mem .., (congrArg Channel.unacked hchan :), (congrArg Channel.lost hchan :), hcode, hword, hother⟩
  · have hrun : exec (.eventResend ch) s = .next { s with dev := (s.dev.chan ch).unacked.foldl (fun d e => d.sendEvent ch e) s.dev } := by
      refine (onUnit_eq (decide_eq_true hch) _).trans ?_
      dsimp only
      rw [if_pos (by rw [hen, hs]; rfl)]
    obtain ⟨hsame, hq, htx⟩ := Dev.foldl_sendEvent (s.dev.chan ch).unacked s.dev ch
    exact ⟨_, hrun, ⟨rfl, rfl⟩, hsame, hq, htx⟩

end Sys2Proof.Machine
end

section
/-! SUPPORT. What judging the peers' paths leaves of the tables and of the other peers (R299); and PROOF, commits, mode and cages. -/

namespace Sys2Proof.Machine
open Sys2Proof Sys2Proof.Machine.Claims

/-! ## The tables of the fabric -/

/-- The forwarding table, the staged words and FOV are as they were. -/
structure Dev.SameTables (d e : Dev) : Prop where
  fwd : e.fab.fwd = d.fab.fwd
  ftw : e.fab.ftw = d.fab.ftw
  ptw : e.fab.ptw = d.fab.ptw
  fov : e.fab.netA.fov = d.fab.netA.fov

namespace Dev.SameTables

variable {d e f : Dev}

theorem refl (d : Dev) : d.SameTables d := ⟨rfl, rfl, rfl, rfl⟩
theorem trans (h : d.SameTables e) (k : e.SameTables f) : d.SameTables f :=
  ⟨k.fwd.trans h.fwd, k.ftw.trans h.ftw, k.ptw.trans h.ptw, k.fov.trans h.fov⟩
theorem of_fab (h : d.SameFab e) : d.SameTables e :=
  ⟨h.congr Fabric.fwd fun _ _ => rfl, h.congr Fabric.ftw fun _ _ => rfl, h.congr Fabric.ptw fun _ _ => rfl, h.congr (·.netA.fov) fun _ _ => rfl⟩
theorem of_ite {c : Prop} [Decidable c] (h : d.SameTables e) (k : d.SameTables f) : d.SameTables (if c then e else f) := by
  split
  · exact h
  · exact k
theorem foldl {α : Type} {g : Dev → α → Dev} (h : ∀ d a, Dev.SameTables d (g d a)) (l : List α) (d : Dev) : d.SameTables (l.foldl g d) := by
  induction l generalizing d with
  | nil => exact .refl d
  | cons a l ih => exact (h d a).trans (ih _)

section
variable (d : Dev)

theorem netCnt (n i k : Nat) : d.SameTables (d.modNet n (netCnt i k)) := by
  unfold Dev.modNet
  exact of_ite ⟨rfl, rfl, rfl, rfl⟩ ⟨rfl, rfl, rfl, rfl⟩

theorem sendOn (k prio bytes : Nat) (t : Tx) : d.SameTables (d.sendOn k prio bytes t) := of_fab (.of_sent (d.sendOn_same ..))

theorem nextHop (net dst src : Nat) : d.SameTables (d.nextHop net dst src).2 := by
  unfold Dev.nextHop
  split
  · exact .refl d
  · dsimp only
    split
    · exact .refl d
    · have hany : d.SameTables (d.anyPort net).2 := ⟨rfl, rfl, rfl, rfl⟩
      revert hany
      rcases d.anyPort net with ⟨_ | e, d'⟩
      · exact id
      · exact fun hany => by
          dsimp only
          split
          · exact hany
          · have hnet (f : Network → Network) (hf : ∀ x, (f x).fov = x.fov) : d'.SameTables (d'.modNet net f) := by
              unfold Dev.modNet
              exact of_ite ⟨rfl, rfl, rfl, hf _⟩ ⟨rfl, rfl, rfl, rfl⟩
            refine hany.trans (.trans ?_ (sendOn _ ..))
            exact hnet _ fun _ => rfl

theorem emitPkt (net pcp dst : Nat) (h : DataHdr) (payload : List Byte) : d.SameTables (d.emitPkt net pcp dst h payload) := by
  unfold Dev.emitPkt
  dsimp only
  split
  · exact nextHop d ..
  · exact (nextHop d ..).trans ((netCnt _ ..).trans (sendOn _ ..))

theorem acctChan (chan : Nat) (entry : List Nat) (net n : Nat) (tx : Bool) : d.SameTables (d.acctChan chan entry net n tx) := by
  unfold Dev.acctChan
  exact of_ite ⟨rfl, rfl, rfl, rfl⟩ (.refl d)

theorem transmit (p : Nat) (x : SendChan) (k : SentPkt) (rtx : Bool) : d.SameTables (d.transmit p x k rtx) := by
  unfold Dev.transmit
  dsimp only
  have hsent := fun net pcp dst h pl chan entry n => (emitPkt d net pcp dst h pl).trans (acctChan _ chan entry net n true)
  exact of_ite ((hsent ..).trans (netCnt _ ..)) (hsent ..)

theorem failover (p r : Nat) : d.SameTables (d.failover p r) := by
  unfold Dev.failover
  split
  · exact .refl d
  · dsimp only
    have hmove (k : Nat) : d.SameTables (d.modPeer k (fun x => { x with onb := true, heardA := false })) := ⟨rfl, rfl, rfl, rfl⟩
    refine (((hmove _).trans (of_fab (.of_sent (Dev.event_same ..)))).trans (netCnt _ ..)).trans (foldl (fun e y => ?_) ..)
    split
    · refine of_ite ?_ (.refl e)
      exact (⟨rfl, rfl, rfl, rfl⟩ : e.SameTables (e.setSend _ _ _)).trans (foldl (fun e k => transmit e ..) ..)
    · exact .refl e

end

end Dev.SameTables

/-! ## A peer that judging its path moves (R299) -/

/-- The peer is as it was, or has moved to network B where that is allowed. -/
structure Peer.Judged (fov : Bool) (x y : Peer) : Prop where
  same : { y with onb := x.onb, heardA := x.heardA } = x
  moved : x.onb = false → y.onb = true → x.valid = true ∧ fov = true ∧ x.addrB ≠ 0

namespace Peer.Judged

variable {fov : Bool} {x y z : Peer}

theorem refl (x : Peer) : Judged fov x x := ⟨rfl, fun h h' => absurd h' (by rw [h]; exact Bool.false_ne_true)⟩

theorem valid (h : Judged fov x y) : y.valid = x.valid := (congrArg Peer.valid h.same :)
theorem addrB (h : Judged fov x y) : y.addrB = x.addrB := (congrArg Peer.addrB h.same :)

theorem trans (h : Judged fov x y) (k : Judged fov y z) : Judged fov x z := by
  refine ⟨(congrArg (fun p : Peer => { p with onb := x.onb, heardA := x.heardA }) k.same).trans h.same, fun hx hz => ?_⟩
  by_cases hy : y.onb = true
  · exact h.moved hx hy
  · obtain ⟨hv, hf, ha⟩ := k.moved (Bool.eq_false_iff.2 hy) hz
    exact ⟨h.valid.symm.trans hv, hf, fun h0 => ha (h.addrB.trans h0)⟩

/-- A peer that can fail over does. -/
theorem onB (hv : x.valid = true) (hf : fov = true) (ha : x.addrB ≠ 0) : Judged fov x { x with onb := true, heardA := false } :=
  ⟨rfl, fun _ _ => ⟨hv, hf, ha⟩⟩

end Peer.Judged

/-- After the paths were judged: the tables as they were, every peer judged. -/
structure Dev.Judged (d e : Dev) : Prop where
  net : d.SameButNet e
  tables : d.SameTables e
  peer : ∀ n, Peer.Judged d.fab.netA.fov (Store.get {} d.fab.peers n) (Store.get {} e.fab.peers n)

namespace Dev.Judged

theorem refl (d : Dev) : d.Judged d := ⟨.refl d, .refl d, fun _ => .refl _⟩

theorem trans {d e f : Dev} (h : d.Judged e) (k : e.Judged f) : d.Judged f :=
  ⟨h.net.trans k.net, h.tables.trans k.tables, fun n => (h.peer n).trans (h.tables.fov ▸ k.peer n)⟩

theorem foldl {α : Type} {g : Dev → α → Dev} (h : ∀ d a, Dev.Judged d (g d a)) (l : List α) (d : Dev) : d.Judged (l.foldl g d) := by
  induction l generalizing d with
  | nil => exact .refl d
  | cons a l ih => exact (h d a).trans (ih _)

theorem of_ite {d e f : Dev} {c : Prop} [Decidable c] (h : c → d.Judged e) (k : d.Judged f) : d.Judged (if c then e else f) := by
  split
  · exact h ‹_›
  · exact k

/-- A failover that is allowed moves its peer and no other one. -/
theorem failover {d : Dev} {p r k : Nat} (hk : d.peerKey p r = some k) (hv : (Store.get {} d.fab.peers k).valid = true)
    (hc : d.canFail p r = true) : d.Judged (d.failover p r) := by
  refine ⟨.failover d .., .failover d .., fun n => ?_⟩
  rw [Dev.failover_peers hk, Store.modify]
  by_cases hn : n = k
  · rw [hn, Store.get_set_self]
    unfold Dev.canFail at hc
    rw [Dev.peer_of_peerKey hk, Bool.and_eq_true, Bool.and_eq_true] at hc
    obtain ⟨⟨hf, ha⟩, _⟩ := hc
    exact .onB hv hf (bne_iff_ne.1 ha)
  · rw [Store.get_set_ne _ _ _ hn]
    exact .refl _

theorem judgePaths (d : Dev) : d.Judged d.judgePaths := by
  refine foldl (fun e k => ?_) _ d
  have hkey : e.peerKey (if e.brd.pcfgMode then k / 16384 else 0) (if e.brd.pcfgMode then k % 16384 else k) = some k := by
    unfold Dev.peerKey
    by_cases hm : e.brd.pcfgMode = true
    · rw [if_pos hm, if_pos hm, if_pos hm, if_pos (Nat.mod_lt _ (by decide)), Nat.div_add_mod]
    · rw [if_neg hm, if_neg hm]
  refine of_ite (fun h => ?_) (.refl e)
  rw [Bool.and_eq_true, Bool.and_eq_true] at h
  obtain ⟨⟨hv, _⟩, hc⟩ := h
  exact failover hkey hv hc

end Dev.Judged

/-! ## A write of one object (R320) -/

section
variable {nv : NonVol} {d : Dev} {key v : Nat} {o : Obj}

theorem paramWrite_of_taken (h : objAt nv d key v = some o) (hresv : v &&& o.resv = 0) (hbusy : o.busy = false) (hbad : o.bad = false) :
    paramWrite nv d key v = (0, o.write d) := by
  unfold paramWrite
  rw [h]
  dsimp only
  rw [if_neg (by rw [hresv]; exact fun h => h rfl), hbusy, if_neg Bool.false_ne_true, hbad, if_neg Bool.false_ne_true]

/-- A refused write leaves the module as it is. -/
theorem paramWrite_of_refused (h : objAt nv d key v = some o) (hr : v &&& o.resv ≠ 0 ∨ o.busy = true ∨ o.bad = true) :
    (paramWrite nv d key v).2 = d := by
  unfold paramWrite
  rw [h]
  dsimp only
  split
  · rfl
  split
  · rfl
  split
  · rfl
  · next h1 h2 h3 => exact absurd hr (by simp [h1, h2, h3])

end

/-! ## The commits' objects -/

theorem objAt_ftcmt (nv : NonVol) (d : Dev) (v : Nat) :
    objAt nv d 0x240209 v = some { val := 0, write := fun d => d.ftCommit.judgePaths } := rfl
theorem objAt_ptcmt (nv : NonVol) (d : Dev) (v : Nat) :
    objAt nv d 0x24021D v = some { val := 0, write := fun d => d.ptCommit.judgePaths } := rfl
theorem objAt_mode (nv : NonVol) (d : Dev) (v : Nat) : objAt nv d 0x280000 v =
    some { val := b2n d.brd.pcfgMode, resv := mask 31 1, busy := d.anyImage, write := fun d => d.setMode v } := rfl

theorem objAt_cage (nv : NonVol) (d : Dev) {k : Nat} (v : Nat) (hk : k < nCages) : objAt nv d (0x380300 + 4 * k) v = objCage d k 0 v := by
  have hk8 : k < 8 := hk
  have hblock : (0x380300 + 4 * k) / 2 ^ 18 = 14 := by omega
  have hoff : (0x380300 + 4 * k) % 2 ^ 18 = 0x300 + 4 * k := by omega
  unfold objAt
  dsimp only
  rw [hblock, hoff]
  change objThermal d (0x300 + 4 * k) v = objCage d k 0 v
  unfold objThermal
  dsimp only
  have hblocks (a b : Nat) (hb : b ≤ 0x300) : ¬(decide (a ≤ 0x300 + 4 * k) && decide (0x300 + 4 * k < b)) = true := by
    rw [Bool.and_eq_true, decide_eq_true_eq, decide_eq_true_eq]
    omega
  rw [if_neg (by omega), if_neg (hblocks _ _ (by decide)), if_neg (hblocks _ _ (by decide)), if_neg (hblocks _ _ (by decide)),
    if_pos (by rw [Bool.and_eq_true, decide_eq_true_eq, decide_eq_true_eq]; omega),
    show (0x300 + 4 * k - 0x300) / 4 = k by omega, show (0x300 + 4 * k) % 4 = 0 by omega]

/-- Words past the first change no valid bit. -/
theorem Peer.setWord_valid (x : Peer) {j : Nat} (v : Nat) (hj : j ≠ 0) : (x.setWord j v).valid = x.valid := by
  unfold Peer.setWord
  rw [if_neg hj]
  split
  · rfl
  · split <;> rfl

theorem Dev.ptCommit_valid (d : Dev) (h : Store.get unstaged d.fab.ptw 0 ≠ unstaged) :
    (Store.get {} d.ptCommit.fab.peers d.fab.ptsel).valid = bit (Store.get unstaged d.fab.ptw 0) 31 := by
  have hkeep (l : List Nat) (x : Peer) (hl : ∀ j ∈ l, j ≠ 0) : (l.foldl (fun x j => let w := Store.get unstaged d.fab.ptw j
      if w = unstaged then x else Peer.setWord x j w) x).valid = x.valid := by
    induction l generalizing x with
    | nil => rfl
    | cons j l ih =>
      rw [List.foldl_cons, ih _ fun i hi => hl i (List.mem_cons_of_mem _ hi)]
      dsimp only
      split
      · rfl
      · exact Peer.setWord_valid _ _ (hl j List.mem_cons_self)
  unfold Dev.ptCommit
  dsimp only
  rw [Store.get_set_self, show List.range 12 = 0 :: List.range' 1 11 from rfl, List.foldl_cons, hkeep _ _ (by decide), if_neg h]
  rfl

theorem Dev.ftCommit_word (d : Dev) {j : Nat} (hj : j < 8) : (Store.get [] d.ftCommit.fab.fwd d.fab.ftsel).getD j 0 =
    if Store.get unstaged d.fab.ftw j = unstaged then (Store.get [] d.fab.fwd d.fab.ftsel).getD j 0 else Store.get unstaged d.fab.ftw j := by
  unfold Dev.ftCommit
  dsimp only
  rw [Store.get_set_self]
  generalize hnew : (List.range 8).map _ = new
  have hword : new.getD j 0 = if Store.get unstaged d.fab.ftw j = unstaged then (Store.get [] d.fab.fwd d.fab.ftsel).getD j 0
      else Store.get unstaged d.fab.ftw j := by
    rw [← hnew, List.getD_eq_getElem?_getD, List.getElem?_map, List.getElem?_range hj]
    rfl
  split
  · next hz =>
    rw [← hword, List.getD_nil]
    by_cases hl : j < new.length
    · rw [List.getD_eq_getElem _ _ hl]
      exact (beq_iff_eq.1 (List.all_eq_true.1 hz _ (List.getElem_mem hl))).symm
    · rw [List.getD_eq_default _ _ (by omega)]
  · exact hword

/-! ## Mode and cages -/

/-- A write of MODE changes MODE and the frames' states. -/
theorem Dev.setMode_brd (d : Dev) (v : Nat) : ∃ brd, d.setMode v = { d with brd := brd } ∧ brd.pcfgMode = bit v 0 := by
  have hfold (l : List Nat) (e : Dev) : ∃ brd, l.foldl (fun d f => match d.framePart f with
      | none => d.modFrame f (fun y => { y with pstate := 2 })
      | some p => if (d.part p).load.isNone then d.modFrame f (fun y => { y with pstate := 3 }) else d) e = { e with brd := brd } ∧
      brd.pcfgMode = e.brd.pcfgMode := by
    induction l generalizing e with
    | nil => exact ⟨e.brd, rfl, rfl⟩
    | cons f l ih =>
      rw [List.foldl_cons]
      split
      · obtain ⟨brd, h, hm⟩ := ih (e.modFrame f (fun y => { y with pstate := 2 }))
        exact ⟨brd, h, hm⟩
      · split
        · obtain ⟨brd, h, hm⟩ := ih (e.modFrame f (fun y => { y with pstate := 3 }))
          exact ⟨brd, h, hm⟩
        · exact ih e
  obtain ⟨brd, h, hm⟩ := hfold (List.range nFrames) (d.modBrd (fun b => { b with pcfgMode := bit v 0 }))
  exact ⟨brd, h, hm⟩

/-- A cage without CEN: no power, and its port has no link. -/
structure Dev.CageOff (d : Dev) (k : Nat) (e : Dev) : Prop where
  cen : (e.cage k).cen = false
  powered : (e.cage k).powered = false
  up : (e.port k).up = false
  other : ∀ n, n ≠ k → e.cage n = d.cage n

theorem Dev.setCen_off (d : Dev) (k : Nat) : d.CageOff k (d.setCen k false) := by
  have hoff : ∃ g : Cage → Cage, (∀ x, (g x).cen = false ∧ (g x).powered = false) ∧ d.setCen k false =
      if !false && ((d.modCage k g).port k).up then (d.modCage k g).linkLost k else d.modCage k g :=
    ⟨_, fun _ => ⟨rfl, rfl⟩, rfl⟩
  obtain ⟨g, hg, h⟩ := hoff
  have hcage (e : Dev) (he : e.brd = (d.modCage k g).brd) (hup : (e.port k).up = false) : d.CageOff k e := by
    have hself : e.cage k = g (d.cage k) := (Dev.cage_of_brd he k).trans (d.modCage_cage_self k g)
    refine ⟨?_, ?_, hup, fun n hn => (Dev.cage_of_brd he n).trans (d.modCage_cage_ne g hn)⟩
    · rw [hself]
      exact (hg _).1
    · rw [hself]
      exact (hg _).2
  rw [h]
  split
  · exact hcage _ (Dev.linkLost_brd ..) (Dev.linkLost_up ..)
  · next hn => exact hcage _ rfl (by simpa using hn)

theorem commitsModeAndCageWrites : CommitsModeAndCageWrites := by
  intro s v k
  refine ⟨?_, ?_, fun hv him => ?_, fun him => ?_, fun hk hv hb => ?_⟩
  · have hrun : exec (.ftcmt v) s = .next { s with dev := s.dev.ftCommit.judgePaths } := by
      rw [exec, execFtcmt, writeExec, paramWrite_of_taken (objAt_ftcmt ..) (Nat.and_zero _) rfl rfl]
    have h := Dev.Judged.judgePaths s.dev.ftCommit
    refine ⟨_, hrun, ⟨rfl, rfl⟩, h.net.mem, h.net.cores, h.net.tiers, h.tables.ftw, fun hp => ?_, fun j hj => ?_, fun n hn => ?_⟩
    · have hnone : s.dev.ftCommit.fab.peers = [] := hp
      dsimp only
      unfold Dev.judgePaths
      rw [hnone]
      rfl
    · rw [h.tables.fwd]
      exact s.dev.ftCommit_word hj
    · rw [h.tables.fwd]
      exact Store.get_set_ne _ _ _ hn
  · have hrun : exec (.ptcmt v) s = .next { s with dev := s.dev.ptCommit.judgePaths } := by
      rw [exec, execPtcmt, writeExec, paramWrite_of_taken (objAt_ptcmt ..) (Nat.and_zero _) rfl rfl]
    have h := Dev.Judged.judgePaths s.dev.ptCommit
    refine ⟨_, hrun, ⟨rfl, rfl⟩, h.net.mem, h.net.cores, h.net.tiers, h.tables.ptw, fun hw => ?_, fun n hn => ?_⟩
    · exact (h.peer s.dev.fab.ptsel).valid.trans (s.dev.ptCommit_valid hw)
    · have hget : Store.get {} s.dev.ptCommit.fab.peers n = Store.get {} s.dev.fab.peers n := Store.get_set_ne _ _ _ hn
      have hn' := h.peer n
      rw [hget] at hn'
      refine ⟨hn'.same, fun hb ha => ?_⟩
      rw [h.tables.fov]
      exact hn'.moved hb ha
  · have hrun : exec (.pcfgModeWrite v) s = .next { s with dev := s.dev.setMode v.toNat } := by
      have hresv : v.toNat &&& mask 31 1 = 0 := by
        generalize v.toNat = n at hv
        interval_cases n <;> rfl
      rw [exec, execPcfgModeWrite, writeExec, paramWrite_of_taken (objAt_mode ..) hresv him rfl]
    obtain ⟨brd, h, hmode⟩ := s.dev.setMode_brd v.toNat
    rw [h] at hrun
    exact ⟨_, hrun, ⟨rfl, rfl⟩, rfl, rfl, hmode⟩
  · rw [exec, execPcfgModeWrite, writeExec, paramWrite_of_refused (objAt_mode ..) (.inr (.inl him))]
  · have hrun : exec (.cenWrite k v) s =
        .next { s with dev := (s.dev.modCage k (fun x => { x with oc := x.oc && !(bit v.toNat 3) })).setCen k false } := by
      rw [exec, execCenWrite, if_neg (by omega), writeExec, paramWrite_of_taken (objAt_cage _ _ _ hk) hv rfl rfl]
      dsimp only
      rw [hb]
    have h := (s.dev.modCage k (fun x => { x with oc := x.oc && !(bit v.toNat 3) })).setCen_off k
    refine ⟨_, hrun, ⟨rfl, rfl⟩, Dev.setCen_mem .., h.cen, h.powered, h.up, fun n hn => (h.other n hn).trans ?_⟩
    exact Dev.modCage_cage_ne _ _ hn

end Sys2Proof.Machine
end

section
/-! SUPPORT. A write of an object leaves the command queues (R320); and PROOF, parameters. -/

namespace Sys2Proof.Machine
open Sys2Proof Sys2Proof.Machine.Claims

/-! ## What the writes' operations leave of the queues -/

@[simp] theorem Dev.tellLost_queues (d : Dev) (ch : Nat) : (d.tellLost ch).queues = d.queues := (d.tellLost_same ch).congr Dev.queues fun _ _ _ _ _ => rfl
@[simp] theorem Dev.judgePaths_queues (d : Dev) : d.judgePaths.queues = d.queues := (Dev.SameButNet.judgePaths d).queues
@[simp] theorem Dev.linkLost_queues (d : Dev) (e : Nat) : (d.linkLost e).queues = d.queues := by
  by_cases h : (d.port e).up = true
  · exact (d.linkLost_net h).queues
  · rw [Dev.linkLost, if_pos (by simp [h])]
@[simp] theorem Dev.setMode_queues (d : Dev) (v : Nat) : (d.setMode v).queues = d.queues := by
  obtain ⟨brd, h, _⟩ := d.setMode_brd v
  rw [h]
@[simp] theorem Dev.setCen_queues (d : Dev) (k : Nat) (on : Bool) : (d.setCen k on).queues = d.queues := by
  unfold Dev.setCen
  dsimp only
  split
  · rw [Dev.linkLost_queues, Dev.modCage_queues]
  · rw [Dev.modCage_queues]
@[simp] theorem Dev.modNet_queues (d : Dev) (n : Nat) (f : Network → Network) : (d.modNet n f).queues = d.queues := (Dev.SameButNet.modNet d n f).queues
@[simp] theorem Dev.ftCommit_queues (d : Dev) : d.ftCommit.queues = d.queues := rfl
@[simp] theorem Dev.ptCommit_queues (d : Dev) : d.ptCommit.queues = d.queues := rfl

/-! ## Every object -/

/-- A write to the object leaves the command queues. -/
def KeepsQueues (o : Option Obj) : Prop := ∀ x, o = some x → ∀ e, (x.write e).queues = e.queues

@[simp] theorem keepsQueues_none : KeepsQueues none := nofun

@[simp] theorem keepsQueues_some (x : Obj) : KeepsQueues (some x) ↔ ∀ e, (x.write e).queues = e.queues :=
  ⟨fun h => h x rfl, fun h y hy => by cases hy; exact h⟩

@[simp] theorem keepsQueues_rsvd : KeepsQueues rsvd := (keepsQueues_some _).2 fun _ => rfl
@[simp] theorem keepsQueues_roObj (v resv : Nat) : KeepsQueues (roObj v resv) := (keepsQueues_some _).2 fun _ => rfl
@[simp] theorem keepsQueues_cntObj (m : Store (BitVec 32)) (i : Nat) : KeepsQueues (cntObj m i) := keepsQueues_roObj _ _

@[simp] theorem keepsQueues_perPart {d : Dev} {p : Nat} {o : Option Obj} (h : KeepsQueues o) : KeepsQueues (perPart d p o) := by
  unfold perPart
  split
  · exact keepsQueues_none
  · split
    · exact h
    · exact (keepsQueues_some _).2 fun _ => rfl

@[simp] theorem keepsQueues_ite {c : Prop} [Decidable c] {o o' : Option Obj} (h : KeepsQueues o) (h' : KeepsQueues o') :
    KeepsQueues (if c then o else o') := by
  split
  · exact h
  · exact h'

@[simp] theorem keepsQueues_bucketObj {b : Bucket} {v : Nat} {w : Bucket → Dev → Dev} (h : ∀ b e, (w b e).queues = e.queues) :
    KeepsQueues (bucketObj b v w) :=
  (keepsQueues_some _).2 fun _ => h _ _

@[simp] theorem objIdent_keepsQueues (nv : NonVol) (d : Dev) (i : Nat) : KeepsQueues (objIdent nv d i) := by
  unfold objIdent
  split <;> simp

@[simp] theorem objQueue_keepsQueues (d : Dev) (q i : Nat) : KeepsQueues (objQueue d q i) := by
  unfold objQueue
  dsimp only
  repeat' split
  all_goals simp

@[simp] theorem objChan_keepsQueues (d : Dev) (e i v : Nat) : KeepsQueues (objChan d e i v) := by
  unfold objChan
  dsimp only
  repeat' split
  all_goals simp

@[simp] theorem objCtl_keepsQueues (d : Dev) (n i : Nat) : KeepsQueues (objCtl d n i) := by
  unfold objCtl
  dsimp only
  repeat' split
  all_goals simp

@[simp] theorem objMx_keepsQueues (d : Dev) (n i v : Nat) : KeepsQueues (objMx d n i v) := by
  unfold objMx
  dsimp only
  repeat' split
  all_goals simp

@[simp] theorem objVx_keepsQueues (d : Dev) (n i v : Nat) : KeepsQueues (objVx d n i v) := by
  unfold objVx
  dsimp only
  repeat' split
  all_goals simp

@[simp] theorem objStream_keepsQueues (d : Dev) (n i v : Nat) : KeepsQueues (objStream d n i v) := by
  unfold objStream
  dsimp only
  refine keepsQueues_ite (keepsQueues_roObj _ _) (keepsQueues_ite (keepsQueues_bucketObj fun _ _ => rfl) ?_)
  repeat' refine keepsQueues_ite ?_ ?_
  all_goals simp

@[simp] theorem objStreams_keepsQueues (d : Dev) (i v : Nat) : KeepsQueues (objStreams d i v) := by
  unfold objStreams
  refine keepsQueues_ite ((keepsQueues_some _).2 fun _ => rfl) (keepsQueues_ite (keepsQueues_bucketObj fun _ _ => rfl)
    (keepsQueues_ite ((keepsQueues_some _).2 fun _ => rfl) (keepsQueues_ite (keepsQueues_bucketObj fun _ _ => rfl) ?_)))
  repeat' refine keepsQueues_ite ?_ ?_
  all_goals simp

@[simp] theorem objTier_keepsQueues (d : Dev) (i v : Nat) : KeepsQueues (objTier d i v) := by
  unfold objTier
  dsimp only
  repeat' split
  all_goals simp

@[simp] theorem objDev_keepsQueues (nv : NonVol) (d : Dev) (dev i : Nat) : KeepsQueues (objDev nv d dev i) := by
  unfold objDev
  dsimp only
  repeat' split
  all_goals simp

@[simp] theorem objRecompute_keepsQueues (d : Dev) (p i : Nat) : KeepsQueues (objRecompute d p i) := by
  unfold objRecompute
  dsimp only
  repeat' split
  all_goals simp

@[simp] theorem objSuper_keepsQueues (d : Dev) (x i v : Nat) : KeepsQueues (objSuper d x i v) := by
  unfold objSuper
  dsimp only
  repeat' split
  all_goals simp

@[simp] theorem objSlice_keepsQueues (d : Dev) (off v : Nat) : KeepsQueues (objSlice d off v) := by
  unfold objSlice
  dsimp only
  repeat' split
  all_goals simp

@[simp] theorem objPort_keepsQueues (d : Dev) (e i v : Nat) : KeepsQueues (objPort d e i v) := by
  unfold objPort
  split
  · simp
  · refine (keepsQueues_some _).2 fun e' => ?_
    dsimp only
    split <;> simp
  · simp
  · simp
  · refine keepsQueues_ite ?_ ?_ <;> simp

@[simp] theorem objNet_keepsQueues (d : Dev) (n i v : Nat) : KeepsQueues (objNet d n i v) := by
  unfold objNet
  dsimp only
  repeat' split
  all_goals simp

@[simp] theorem objTables_keepsQueues (d : Dev) (i v : Nat) : KeepsQueues (objTables d i v) := by
  unfold objTables
  dsimp only
  repeat' split
  all_goals simp

@[simp] theorem objSwarm_keepsQueues (d : Dev) (p v : Nat) : KeepsQueues (objSwarm d p v) := by
  unfold objSwarm
  dsimp only
  repeat' split
  all_goals simp

@[simp] theorem objFabric_keepsQueues (d : Dev) (off v : Nat) : KeepsQueues (objFabric d off v) := by
  exact keepsQueues_ite (objPort_keepsQueues _ _ _ _) (keepsQueues_ite (objNet_keepsQueues _ _ _ _) (keepsQueues_ite (objTables_keepsQueues _ _ _)
    (keepsQueues_ite (objSwarm_keepsQueues _ _ _) keepsQueues_none)))

@[simp] theorem objPart_keepsQueues (d : Dev) (p i : Nat) : KeepsQueues (objPart d p i) := by
  unfold objPart
  dsimp only
  repeat' split
  all_goals simp

@[simp] theorem objCtx_keepsQueues (d : Dev) (c i : Nat) : KeepsQueues (objCtx d c i) := by
  unfold objCtx
  dsimp only
  repeat' split
  all_goals simp

@[simp] theorem objContexts_keepsQueues (d : Dev) (off v : Nat) : KeepsQueues (objContexts d off v) := by
  unfold objContexts
  repeat' refine keepsQueues_ite ?_ ?_
  all_goals simp

@[simp] theorem objRecovery_keepsQueues (d : Dev) (p i v : Nat) : KeepsQueues (objRecovery d p i v) := by
  unfold objRecovery
  dsimp only
  refine keepsQueues_perPart ?_
  repeat' refine keepsQueues_ite ?_ ?_
  all_goals simp

@[simp] theorem objBring_keepsQueues (nv : NonVol) (d : Dev) (off : Nat) : KeepsQueues (objBring nv d off) := by
  unfold objBring
  dsimp only
  repeat' refine keepsQueues_ite ?_ ?_
  all_goals try split
  all_goals simp

@[simp] theorem objSec_keepsQueues (nv : NonVol) (d : Dev) (off v : Nat) : KeepsQueues (objSec nv d off v) := by
  unfold objSec
  dsimp only
  repeat' refine keepsQueues_ite ?_ ?_
  all_goals try refine keepsQueues_perPart ?_
  all_goals repeat' refine keepsQueues_ite ?_ ?_
  all_goals simp

@[simp] theorem objPower_keepsQueues (d : Dev) (i v : Nat) : KeepsQueues (objPower d i v) := by
  unfold objPower
  dsimp only
  repeat' split
  all_goals simp

@[simp] theorem objFrame_keepsQueues (d : Dev) (f i : Nat) : KeepsQueues (objFrame d f i) := by
  unfold objFrame
  dsimp only
  repeat' split
  all_goals simp

@[simp] theorem objSps_keepsQueues (state : Nat) (temp power : BitVec 16) (e : BitVec 64) (i : Nat) : KeepsQueues (objSps state temp power e i) := by
  unfold objSps
  split <;> simp

@[simp] theorem objCage_keepsQueues (d : Dev) (k i v : Nat) : KeepsQueues (objCage d k i v) := by
  unfold objCage
  dsimp only
  repeat' split
  all_goals simp

@[simp] theorem objThermal_keepsQueues (d : Dev) (off v : Nat) : KeepsQueues (objThermal d off v) := by
  unfold objThermal
  dsimp only
  repeat' split
  all_goals simp

@[simp] theorem objBeats_keepsQueues (d : Dev) (p i v : Nat) : KeepsQueues (objBeats d p i v) := by
  unfold objBeats
  dsimp only
  repeat' split
  all_goals simp

@[simp] theorem objAt_keepsQueues (nv : NonVol) (d : Dev) (key v : Nat) : KeepsQueues (objAt nv d key v) := by
  unfold objAt
  dsimp only
  repeat' split
  all_goals simp

theorem objAt_write_queues {nv : NonVol} {d : Dev} {key v : Nat} {o : Obj} (h : objAt nv d key v = some o) (e : Dev) :
    (o.write e).queues = e.queues := objAt_keepsQueues nv d key v o h e

theorem paramWrite_queues (nv : NonVol) (d : Dev) (key v : Nat) : (paramWrite nv d key v).2.queues = d.queues := by
  unfold paramWrite
  split
  · rfl
  · next o h =>
    repeat' split
    · rfl
    · rfl
    · rfl
    · exact objAt_write_queues h _

/-! ## Keys and entries of a payload (R320) -/

theorem slice_append_left {l r : List Byte} {off n : Nat} (h : off + n ≤ l.length) : slice (l ++ r) off n = slice l off n := by
  unfold slice
  dsimp only
  rw [List.drop_append_of_le_length (by omega), List.take_append_of_le_length (by rw [List.length_drop]; omega)]

theorem slice_zero_length (l : List Byte) : slice l 0 l.length = l := by
  simp [slice]

theorem wordAt_toLe {v : Nat} (h : v < 2 ^ 32) : wordAt (toLe 4 v) 0 = v := by
  have hs : slice (toLe 4 v) 0 4 = toLe 4 v := by
    have := slice_zero_length (toLe 4 v)
    rwa [toLe_length] at this
  rw [wordAt, leAt, hs, leNat_toLe]
  exact Nat.mod_eq_of_lt h

theorem wordAt_toLe_append {v : Nat} (h : v < 2 ^ 32) (l : List Byte) : wordAt (toLe 4 v ++ l) 0 = v := by
  rw [wordAt, leAt, slice_append_left (by rw [toLe_length]), ← leAt, ← wordAt, wordAt_toLe h]

theorem wordAt_append_toLe {k v : Nat} (h : v < 2 ^ 32) : wordAt (toLe 4 k ++ toLe 4 v) 4 = v := by
  have hs : slice (toLe 4 k ++ toLe 4 v) 4 4 = slice (toLe 4 v) 0 4 := by
    unfold slice
    rw [List.drop_left' (toLe_length 4 k), List.drop_zero]
  rw [wordAt, leAt, hs, ← leAt, ← wordAt, wordAt_toLe h]

theorem keysOf_one {k : Nat} (h : k < 2 ^ 32) : keysOf 0x10 (toLe 4 k) = [k] := by
  unfold keysOf
  dsimp only
  rw [if_pos rfl, toLe_length]
  exact congrArg (fun x => [x]) (wordAt_toLe h)

theorem entriesOf_one {k v : Nat} (h : k < 2 ^ 32) (h' : v < 2 ^ 32) : entriesOf (toLe 4 k ++ toLe 4 v) = [(k, v)] := by
  unfold entriesOf
  rw [List.length_append, toLe_length, toLe_length]
  exact congrArg (fun x => [x]) (Prod.ext (wordAt_toLe_append h _) (wordAt_append_toLe h'))

theorem toLe_mod (n v : Nat) : toLe n (v % 256 ^ n) = toLe n v := by
  induction n generalizing v with
  | zero => rfl
  | succ n ih =>
    have hdiv : v % 256 ^ (n + 1) / 256 = v / 256 % 256 ^ n := by rw [pow_succ', Nat.mod_mul_right_div_self]
    have hbyte : BitVec.ofNat 8 (v % 256 ^ (n + 1)) = BitVec.ofNat 8 v := by
      refine BitVec.eq_of_toNat_eq ?_
      rw [BitVec.toNat_ofNat, BitVec.toNat_ofNat]
      exact Nat.mod_mod_of_dvd _ (dvd_pow_self 256 n.succ_ne_zero)
    unfold toLe
    rw [hdiv, ih, hbyte]

theorem words4_one (a : Nat) : words4 [a] = toLe 4 a := List.append_nil _
theorem words4_two (a b : Nat) : words4 [a, b] = toLe 4 a ++ toLe 4 b := congrArg (toLe 4 a ++ ·) (words4_one b)
theorem words4_five (a b c d e : Nat) : words4 [a, b, c, d, e] = toLe 4 a ++ toLe 4 b ++ toLe 4 c ++ toLe 4 d ++ toLe 4 e := by
  rw [List.append_assoc, List.append_assoc, List.append_assoc, ← words4_two]
  rfl

section
variable {s : State} {q op : Nat} {c : Cmd}

/-- A command that changes no queue is answered in the clear, and apart from that answer leaves what it did. -/
theorem devOp_answered {f : Cmd → Dev → Ans × Dev} {a : Ans} {d : Dev} (h : itsTurn s q op c) (hf : f c (served s q) = (a, d)) (hk : a.keyid = none)
    (hc : a.cache = true) (hq : d.queues = s.dev.queues) :
    devOp s q op f = .next { s with dev := d.answer q c a } ∧ SameBut (d.answer q c a) d ∧
    Answered s { s with dev := d.answer q c a } q c a.status a.payload := by
  have hqueue : d.queue q = s.dev.queue q := by rw [Dev.queue, hq, Dev.queue]
  have hrun := devOp_answer (f := f) h (by rw [hf]; exact hk) (by rw [hf]; exact (congrArg CmdQueue.heldc hqueue).trans h.1.2.2.2.2.1)
  rw [hf] at hrun
  exact ⟨hrun, Dev.answer_sameBut .., answered_of_answer (d := d) (a := a) rfl hc (congrArg CmdQueue.next hqueue) (congrArg CmdQueue.qcmd hqueue)⟩

/-- A command that only answers. -/
theorem devOp_onlyReply {f : Cmd → Dev → Ans × Dev} {a : Ans} (h : itsTurn s q op c) (hf : f c (served s q) = (a, served s q)) (hk : a.keyid = none)
    (hc : a.cache = true) : ∃ t, devOp s q op f = .next t ∧ OnlyReply s t q ∧ Answered s t q c a.status a.payload := by
  obtain ⟨hrun, _, hans⟩ := devOp_answered h hf hk hc rfl
  exact ⟨_, hrun, onlyReply_of_answer s q c a, hans⟩

end

/-! ## Reading and writing one key (R320) -/

section
variable {nv : NonVol} {d : Dev} {k v : Nat}

theorem readKeys_of_some {o : Obj} (h : objAt nv d k 0 = some o) (hk : k ≠ tmloKey) : readKeys nv [k] d [] = (0, [o.val % 2 ^ 32], d) := by
  have hread : paramRead nv d k = some (o.val % 2 ^ 32, d) := by
    unfold paramRead
    rw [h]
    dsimp only
    rw [if_neg hk]
  unfold readKeys
  rw [hread]
  rfl

theorem readKeys_of_none (h : objAt nv d k 0 = none) : readKeys nv [k] d [] = (0x0006, [], d) := by
  have hread : paramRead nv d k = none := by
    unfold paramRead
    rw [h]
  unfold readKeys
  rw [hread]

theorem paramWrite_refused_same (h : (paramWrite nv d k v).1 ≠ 0) : (paramWrite nv d k v).2 = d := by
  revert h
  unfold paramWrite
  split
  · exact fun _ => rfl
  · repeat' split
    · exact fun _ => rfl
    · exact fun _ => rfl
    · exact fun _ => rfl
    · exact fun h => absurd rfl h

/-- One entry written: how many were written, the status, and what the write did. -/
theorem writeKeys_one : ((writeKeys nv false [(k, v)] d []).2.1.length, (writeKeys nv false [(k, v)] d []).1, (writeKeys nv false [(k, v)] d []).2.2) =
    (if (paramWrite nv d k v).1 = 0 then 1 else 0, (paramWrite nv d k v).1, (paramWrite nv d k v).2) := by
  unfold writeKeys
  dsimp only
  by_cases h : (paramWrite nv d k v).1 = 0
  · rw [if_neg (fun hn => hn h), if_pos h, h]
    rfl
  · rw [if_pos h, if_neg h, paramWrite_refused_same h]
    rfl

/-- A swap answers the value before its own write. -/
theorem writeKeys_swap {o : Obj} (hk : k ≠ tmloKey) (ho : objAt nv d k 0 = some o) (h : (paramWrite nv d k v).1 = 0) :
    writeKeys nv true [(k, v)] d [] = (0, [o.val % 2 ^ 32], (paramWrite nv d k v).2) := by
  unfold writeKeys
  dsimp only
  rw [if_neg (fun hn => hn h), ho, if_neg (by simp [hk])]
  rfl

end

theorem parametersAreReadAndWritten : ParametersAreReadAndWritten := by
  intro s q k v c hk
  have hv : v.toNat < 2 ^ 32 := v.isLt
  refine ⟨fun h => ?_, fun h => ?_, fun h hp hkey => ⟨fun o ho => ?_, fun hnone => ?_⟩, fun h hp => ?_, fun h hp hkey o ho hw => ?_, fun o ho =>
    ⟨fun hr => ?_, fun hresv hbusy hbad => ?_⟩⟩
  · rw [exec, execIdent]
    obtain ⟨t, hrun, honly, hans⟩ := devOp_onlyReply (f := fun _ d => ({ payload := ((List.range 5).map (fun i => toLe 4 (identVal s.nv d i))).flatten }, d))
      (a := { payload := ((List.range 5).map (fun i => toLe 4 (identVal s.nv (served s q) i))).flatten }) h rfl rfl rfl
    refine ⟨t, hrun, honly, ?_⟩
    rw [← toLe_mod 4 Config.serial.toNat, ← words4_five]
    exact hans
  · rw [exec, execEcho]
    exact devOp_onlyReply (a := { payload := c.payload }) h rfl rfl rfl
  · rw [exec, execPread, ← words4_one]
    exact devOp_onlyReply (a := { payload := words4 [o.val % 2 ^ 32] }) h (by rw [hp, keysOf_one hk, readKeys_of_some ho hkey]) rfl rfl
  · rw [exec, execPread]
    exact devOp_onlyReply (a := { status := 0x0006, payload := words4 [] }) h (by rw [hp, keysOf_one hk, readKeys_of_none hnone]) rfl rfl
  · dsimp only
    rw [exec, execPwrite, ← words4_two]
    have hone := writeKeys_one (nv := s.nv) (d := served s q) (k := k) (v := v.toNat)
    rw [Prod.mk.injEq, Prod.mk.injEq] at hone
    obtain ⟨hlen, hstatus, hdev⟩ := hone
    generalize hw : paramWrite s.nv (served s q) k v.toNat = w at hlen hstatus hdev ⊢
    have hq : w.2.queues = s.dev.queues := hw ▸ paramWrite_queues s.nv (served s q) k v.toNat
    obtain ⟨hrun, hsame, hans⟩ := devOp_answered (f := fun c d =>
      let r := writeKeys s.nv false (entriesOf c.payload) d []
      ({ status := r.1, payload := words4 [r.2.1.length, r.1] }, r.2.2))
      (a := { status := w.1, payload := words4 [if w.1 = 0 then 1 else 0, w.1] }) (d := w.2) h
      (by dsimp only; rw [hp, entriesOf_one hk hv, hlen, hstatus, hdev]) rfl rfl hq
    exact ⟨_, hrun, ⟨rfl, rfl⟩, hsame, hans⟩
  · rw [exec, execPswap, List.append_assoc, ← words4_two, show toLe 4 1 ++ words4 [0, o.val % 2 ^ 32] = words4 [1, 0, o.val % 2 ^ 32] from rfl]
    obtain ⟨hrun, hsame, hans⟩ := devOp_answered (f := fun c d =>
      let r := writeKeys s.nv true (entriesOf c.payload) d []
      ({ status := r.1, payload := words4 ([r.2.1.length, r.1] ++ r.2.1) }, r.2.2))
      (a := { payload := words4 [1, 0, o.val % 2 ^ 32] }) (d := (paramWrite s.nv (served s q) k v.toNat).2) h
      (by dsimp only; rw [hp, entriesOf_one hk hv, writeKeys_swap hkey ho hw]; rfl) rfl rfl (paramWrite_queues ..)
    exact ⟨_, hrun, ⟨rfl, rfl⟩, hsame, hans⟩
  · rw [exec, execParameterWrite, writeExec, paramWrite_of_refused ho hr]
  · rw [exec, execParameterWrite, writeExec, paramWrite_of_taken ho hresv hbusy hbad]

/-- Settles O45: both claims of the parameters hold. -/
theorem parametersCommitsAndModes : Obligations.ParametersCommitsAndModes := ⟨parametersAreReadAndWritten, commitsModeAndCageWrites⟩

end Sys2Proof.Machine
end

section
/-! PROOF. Queues, contexts and records are served (chapter 12, R333, R342, R425). -/

namespace Sys2Proof.Machine
open Sys2Proof Sys2Proof.Machine.Claims

/-! ## What an answer leaves of a queue -/

/-- To whom a queue is bound. -/
def CmdQueue.binding (y : CmdQueue) : Bool × Nat × Nat × Nat := (y.bound, y.part, y.ctx, y.binder)

theorem CmdQueue.answered_binding (y : CmdQueue) (c : Cmd) (a : Ans) (r : Reply) : (y.answered c a r).binding = y.binding := by
  unfold CmdQueue.answered
  dsimp only
  split <;> rfl

theorem Dev.answer_binding (d : Dev) (q : Nat) (c : Cmd) (a : Ans) (k : Nat) : ((d.answer q c a).queue k).binding = (d.queue k).binding := by
  by_cases h : k = q
  · rw [h, Dev.answer_queue_self, CmdQueue.answered_binding]
  · rw [Dev.answer_queue_ne d c a h]

/-! ## A channel that tells what it lost stays enabled (R323) -/

theorem Dev.emit_chan_en (d : Dev) (ch : Nat) (r : Raise) (k : Nat) : ((d.emit ch r).chan k).en = (d.chan k).en := by
  by_cases hk : k = ch
  · subst hk
    unfold Dev.emit
    dsimp only
    split
    · unfold Dev.sendEvent
      rw [Dev.sendCmd_chan, Dev.modChan_chan_self]
    · rw [Dev.modChan_chan_self]
  · rw [Dev.emit_chan_ne _ _ hk]

theorem Dev.tellLost_chan_en (d : Dev) (ch k : Nat) : ((d.tellLost ch).chan k).en = (d.chan k).en := by
  unfold Dev.tellLost
  dsimp only
  split
  · rw [Dev.emit_chan_en]
    by_cases hk : k = ch
    · rw [hk, Dev.modChan_chan_self]
      rfl
    · rw [Dev.modChan_chan_ne _ _ hk]
      rfl
  · rfl

theorem Dev.tellLost_queue (d : Dev) (ch k : Nat) : (d.tellLost ch).queue k = d.queue k := by rw [Dev.queue, Dev.tellLost_queues, Dev.queue]

section
variable {s : State} {q op : Nat} {c : Cmd}

/-- A command that leaves its own queue's sequence as it is, answered in the clear. -/
theorem devOp_gives {f : Cmd → Dev → Ans × Dev} {a : Ans} {d : Dev} {P : State → Prop} (h : itsTurn s q op c) (hf : f c (served s q) = (a, d))
    (hk : a.keyid = none) (hc : a.cache = true) (hheld : (d.queue q).heldc = (s.dev.queue q).heldc)
    (hnext : (d.queue q).next = (s.dev.queue q).next) (hcmd : (d.queue q).qcmd = (s.dev.queue q).qcmd)
    (hP : Answered s { s with dev := d.answer q c a } q c a.status a.payload → P { s with dev := d.answer q c a }) :
    ∃ t, devOp s q op f = .next t ∧ P t := by
  have hrun := devOp_answer (f := f) h (by rw [hf]; exact hk) (by rw [hf]; exact hheld.trans h.1.2.2.2.2.1)
  rw [hf] at hrun
  exact ⟨_, hrun, hP (answered_of_answer (d := d) (a := a) rfl hc hnext hcmd)⟩

end

/-! ## The rows' effects -/

/-- A channel enabled towards a sender. -/
def Channel.boundTo (e : Channel) (src : Nat) : Channel :=
  { e with addr := (List.range 4).foldl (fun m i => Store.set 0 m i (addrWord src i)) e.addr, en := true }

/-- Queue `t` bound for a sender, its channel enabled (R307, R323). -/
def Dev.bindQueue (d : Dev) (t : Nat) (b : List Byte) (src : Nat) : Dev :=
  ((d.modQueue t (fun x => { x with bound := true, part := qbPart b, ctx := qbCtx b, binder := src })).modChan t (·.boundTo src)).tellLost t

/-- A queue no longer bound, its sequence begun again. -/
def CmdQueue.unbound (x : CmdQueue) : CmdQueue := { x.restart with bound := false, part := 0, ctx := 0, binder := 0 }

/-- Queue `t` unbound, its channel disabled. -/
def Dev.unbindQueue (d : Dev) (t : Nat) : Dev :=
  (d.modQueue t (·.unbound)).modChan t (fun e => { e with en := false, unacked := [] })

theorem Dev.bindQueue_queue_self (d : Dev) (t : Nat) (b : List Byte) (src : Nat) : (d.bindQueue t b src).queue t =
    { d.queue t with bound := true, part := qbPart b, ctx := qbCtx b, binder := src } := by
  rw [Dev.bindQueue, Dev.tellLost_queue, Dev.queue, Dev.modChan_queues, ← Dev.queue, Dev.modQueue_queue_self]

theorem Dev.bindQueue_queue_ne (d : Dev) {t k : Nat} (b : List Byte) (src : Nat) (h : k ≠ t) : (d.bindQueue t b src).queue k = d.queue k := by
  rw [Dev.bindQueue, Dev.tellLost_queue, Dev.queue, Dev.modChan_queues, ← Dev.queue, Dev.modQueue_queue_ne _ _ h]

/-- Binding leaves every queue's sequence as it is. -/
theorem Dev.bindQueue_sequence (d : Dev) (t : Nat) (b : List Byte) (src k : Nat) : ((d.bindQueue t b src).queue k).heldc = (d.queue k).heldc ∧
    ((d.bindQueue t b src).queue k).next = (d.queue k).next ∧ ((d.bindQueue t b src).queue k).qcmd = (d.queue k).qcmd := by
  by_cases h : k = t
  · rw [h, Dev.bindQueue_queue_self]
    exact ⟨rfl, rfl, rfl⟩
  · rw [Dev.bindQueue_queue_ne _ _ _ h]
    exact ⟨rfl, rfl, rfl⟩

theorem Dev.bindQueue_mem (d : Dev) (t : Nat) (b : List Byte) (src : Nat) : (d.bindQueue t b src).mem = d.mem := Dev.tellLost_mem ..

theorem Dev.bindQueue_chan_en (d : Dev) (t : Nat) (b : List Byte) (src : Nat) : ((d.bindQueue t b src).chan t).en = true := by
  rw [Dev.bindQueue, Dev.tellLost_chan_en, Dev.modChan_chan_self]
  rfl

/-- The accounting record has its 128 bytes (Table 13-6). -/
theorem Dev.acctRecord_length (d : Dev) (c : Nat) : (d.acctRecord c).length = 128 := by
  have hlen (l : List Nat) : (l.map (toLe 8)).flatten.length = 8 * l.length := by
    rw [List.length_flatten, List.map_map, List.map_congr_left (g := fun _ => 8) fun p _ => by rw [Function.comp_apply, toLe_length],
      List.map_const', List.sum_replicate, smul_eq_mul, Nat.mul_comm]
  unfold Dev.acctRecord
  dsimp only
  simp only [List.length_append, toLe_length, hlen, List.length_cons, List.length_nil]

/-- The bytes that BBREAD answers for a record's number (R425). -/
def Dev.bbBytes (d : Dev) (n : Nat) : List Byte :=
  match d.bb.recs.find? (fun r => r.seq % 2 ^ 32 == n) with
  | some r => r.bytes
  | none => List.replicate 256 0#8

section
variable {s : State} {q b : Nat} {c : Cmd}

/-- What QBIND checks before it binds. -/
theorem qbind_scope (hm : s.dev.brd.pcfgMode = false ∨ b / 16 = qbPart c.payload) :
    ((served s q).brd.pcfgMode && b / 16 != qbPart c.payload) = false := by
  rcases hm with hm | hm
  · rw [show (served s q).brd.pcfgMode = false from hm, Bool.false_and]
  · rw [hm, bne_self_eq_false, Bool.and_false]

/-- The context that a command names is one of an image. -/
theorem image_served (him : (s.dev.part (s.dev.partOfCtx b)).image.isSome = true) :
    ¬((served s q).part ((served s q).partOfCtx b)).image.isNone = true := by
  change ¬(s.dev.part (s.dev.partOfCtx b)).image.isNone = true
  rw [Option.isNone_iff_eq_none]
  intro hn
  rw [hn] at him
  exact Bool.false_ne_true him

/-- A read of one record (R425). -/
theorem bbread_one {d : Dev} (hb : b < 2 ^ 32) : ((List.range 1).map (fun i =>
    match d.bb.recs.find? (fun r => r.seq % 2 ^ 32 == (b + i) % 2 ^ 32) with
    | some r => r.bytes
    | none => List.replicate 256 0#8)).flatten = d.bbBytes b := by
  have hn : (b + 0) % 2 ^ 32 = b := Nat.mod_eq_of_lt hb
  rw [show List.range 1 = [0] from rfl, List.map_singleton, List.flatten_singleton, hn]
  rfl

end

/-- Settles O46: each row does its one thing and answers. -/
theorem queuesContextsAndRecordsAreServed : Obligations.QueuesContextsAndRecordsAreServed := by
  unfold Obligations.QueuesContextsAndRecordsAreServed
  intro s q b c
  refine ⟨fun h hb h0 hun hm hbound => ?_, fun h hb h0 hun hm hbound => ?_, fun h hb h0 hq hun hbound hpart => ?_, fun h hb hq => ?_,
    fun h hb him hin => ?_, fun h hb him hin hkey => ?_, fun h hp hlt => ?_⟩
  · rw [exec, execQbind]
    obtain ⟨hheld, hnext, hcmd⟩ := (served s q).bindQueue_sequence b c.payload c.src q
    have hbind := Dev.answer_binding ((served s q).bindQueue b c.payload c.src) q c {} b
    rw [Dev.bindQueue_queue_self] at hbind
    refine devOp_gives (a := {}) (d := (served s q).bindQueue b c.payload c.src) h ?_ rfl rfl hheld hnext hcmd fun hans => ?_
    · dsimp only
      rw [← hb, if_neg h0, hun, if_neg Bool.false_ne_true, qbind_scope hm, if_neg Bool.false_ne_true,
        show ((served s q).queue b).bound = false from hbound, if_neg Bool.false_ne_true]
      rfl
    · exact ⟨⟨rfl, rfl⟩, (Dev.answer_mem ..).trans (Dev.bindQueue_mem ..), hans, congrArg (·.1) hbind, congrArg (·.2.1) hbind,
        congrArg (·.2.2.1) hbind, congrArg (·.2.2.2) hbind, (congrArg Channel.en (Dev.answer_chan ..)).trans (Dev.bindQueue_chan_en ..)⟩
  · rw [exec, execQbind]
    refine devOp_onlyReply (a := bad 0x0007) h ?_ rfl rfl
    dsimp only
    rw [← hb, if_neg h0, hun, if_neg Bool.false_ne_true, qbind_scope hm, if_neg Bool.false_ne_true,
      show ((served s q).queue b).bound = true from hbound, if_pos rfl]
  · rw [exec, execQbind]
    have hown : ((served s q).unbindQueue b).queue q = s.dev.queue q := Dev.modQueue_queue_ne _ _ (Ne.symm hq)
    have hqueue : (((served s q).unbindQueue b).answer q c {}).queue b = (s.dev.queue b).unbound :=
      (Dev.answer_queue_ne _ c {} hq).trans (Dev.modQueue_queue_self ..)
    refine devOp_gives (a := {}) (d := (served s q).unbindQueue b) h ?_ rfl rfl (by rw [hown]) (by rw [hown]) (by rw [hown]) fun hans => ?_
    · dsimp only
      rw [← hb, if_neg h0, hun, if_pos rfl, show ((served s q).queue b).bound = true from hbound, Bool.not_true, if_neg Bool.false_ne_true,
        show ((served s q).queue b).part = qbPart c.payload from hpart, bne_self_eq_false, if_neg Bool.false_ne_true, bne_iff_ne.2 hq]
      rfl
    · rw [hqueue]
      exact ⟨⟨rfl, rfl⟩, Dev.answer_mem .., hans, rfl, rfl, rfl, rfl, (Dev.answer_chan ..).trans (Dev.modChan_chan_self ..)⟩
  · rw [exec, execQreset]
    have hown : ((served s q).modQueue b (·.restart)).queue q = s.dev.queue q := Dev.modQueue_queue_ne _ _ (Ne.symm hq)
    refine devOp_gives (a := {}) (d := (served s q).modQueue b (·.restart)) h ?_ rfl rfl (by rw [hown]) (by rw [hown]) (by rw [hown]) fun hans => ?_
    · dsimp only
      rw [← hb, bne_iff_ne.2 hq]
    · exact ⟨⟨rfl, rfl⟩, Dev.answer_mem .., hans, (Dev.answer_queue_ne _ c {} hq).trans (Dev.modQueue_queue_self ..)⟩
  · rw [exec, execCtxset]
    refine devOp_gives (a := {})
      (d := (served s q).modCtx b (fun y => { y with nextRun := some (bit (wordAt c.payload 4) 1, bit (wordAt c.payload 4) 0) }))
      h ?_ rfl rfl rfl rfl rfl fun hans => ?_
    · dsimp only
      rw [← hb, if_neg (image_served him), show ((served s q).ctx b).inMap = true from hin]
      rfl
    · exact ⟨⟨rfl, rfl⟩, Dev.answer_mem .., hans, (Dev.answer_ctx ..).trans (Dev.modCtx_ctx_self ..),
        fun k hk => (Dev.answer_ctx ..).trans (Dev.modCtx_ctx_ne _ _ hk)⟩
  · rw [exec, execAcctread]
    refine devOp_gives (a := { payload := s.dev.acctRecord b }) (d := served s q) h ?_ rfl rfl rfl rfl rfl fun hans => ?_
    · dsimp only
      rw [← hb, if_neg (image_served him), show ((served s q).ctx b).inMap = true from hin, show (served s q).hasKey 3 b = false from hkey]
      rfl
    · exact ⟨onlyReply_of_answer .., hans, Dev.acctRecord_length ..⟩
  · rw [exec, execBbread]
    refine devOp_onlyReply (a := { payload := s.dev.bbBytes b }) h ?_ rfl rfl
    rw [hp, wordAt_toLe_append hlt, wordAt_append_toLe (by decide)]
    exact congrArg (fun l => (({ payload := l } : Ans), served s q)) (bbread_one hlt)

end Sys2Proof.Machine
end

section
/-! PROOF. Memory read, written and placed by command (R192, R204, R313, R314). -/

namespace Sys2Proof.Machine
open Sys2Proof Sys2Proof.Machine.Claims

/-! ## Counting and writing leave the queues -/

@[simp] theorem Dev.wakeDev_queues (d : Dev) (dev : Nat) : (d.wakeDev dev).queues = d.queues := by
  unfold Dev.wakeDev
  repeat' split
  all_goals rfl

@[simp] theorem Dev.countDev_queues (d : Dev) (c dev n : Nat) (write : Bool) : (d.countDev c dev n write).queues = d.queues := by
  unfold Dev.countDev
  dsimp only
  repeat' split
  all_goals exact d.wakeDev_queues dev

@[simp] theorem Dev.touch_queues (d : Dev) (a : Nat) : (d.touch a).queues = d.queues := by
  unfold Dev.touch
  dsimp only
  split <;> rfl

@[simp] theorem Dev.countMem_queues (d : Dev) (c a n : Nat) (write : Bool) : (d.countMem c a n write).queues = d.queues := by
  rw [Dev.countMem, Dev.countDev_queues, Dev.touch_queues]

theorem Dev.uniWriteThrough_queues {d : Dev} (h : noWindows d = true) (p c a : Nat) (bs : List Byte) (poison : Bool) :
    (d.uniWriteThrough p c a bs poison).queues = d.queues := by
  unfold Dev.uniWriteThrough
  extract_lets e ws _ f
  have hf : f.cores = d.cores ∧ f.ctxs = d.ctxs ∧ f.queues = d.queues := ⟨rfl, rfl, rfl⟩
  clear_value f
  rw [Dev.staleCheck_of_noWindows (noWindows_countMem (noWindows_of_eq hf.1 hf.2.1 h) c a bs.length true), Dev.countMem_queues, hf.2.2]

/-- A context without a key of its own has no pages of its own (R403). -/
theorem Dev.privateRange_of_noKey {d : Dev} {c : Nat} (h : d.hasKey 3 c = false) (a n : Nat) : d.privateRange c a n = false := by
  rw [Dev.privateRange, h, Bool.false_and]

/-! ## One page placed (R314) -/

/-- What the rules of R197 leave of a promotion of one page. -/
theorem Dev.placeBad_one {d : Dev} {b : List Byte} (h : d.placeBad b = false) (hact : plAct b = 1) (hcount : plCount b = 1)
    (hpin : (d.ctx (plCtx b)).pins.contains (plPage b) = false) :
    (d.tm (plPage b)).hint ≠ 3 ∧ (d.tm (plPage b)).hint ≠ 4 ∧ (d.ctx (plCtx b)).pins.length < 4096 := by
  simp only [Dev.placeBad, hact, hcount, List.range'_one, Bool.or_eq_false_iff, List.any_cons, List.any_nil, Bool.or_false, beq_self_eq_true,
    Bool.true_or, Bool.true_and, hpin, Bool.not_false, List.filter_cons_of_pos, List.filter_nil, List.length_singleton,
    decide_eq_false_iff_not, beq_eq_false_iff_ne] at h
  obtain ⟨⟨⟨⟨_, h3, h4⟩, _⟩, _⟩, hroom⟩ := h
  exact ⟨h3, h4, by omega⟩

/-- A promotion of one page is done when the queue has space. -/
theorem Dev.placeSome_one {d : Dev} {b : List Byte} (hact : plAct b = 1) (hcount : plCount b = 1) (hs : d.moveSpace = true) :
    d.placeSome b 0 = (0, d.promotePage (plCtx b) (plTgt b) (plPage b)) := by
  unfold Dev.placeSome
  rw [hact, hcount]
  change pagesWhile _ 1 (plPage b + 0) d = _
  unfold pagesWhile
  rw [if_pos hs]
  rfl

/-- A command that changes no queue, answered in the clear. -/
theorem devOp_gives_of_queues {s : State} {q op : Nat} {c : Cmd} {f : Cmd → Dev → Ans × Dev} {a : Ans} {d : Dev} {P : State → Prop}
    (h : itsTurn s q op c) (hf : f c (served s q) = (a, d)) (hk : a.keyid = none) (hc : a.cache = true) (hq : d.queues = s.dev.queues)
    (hP : Answered s { s with dev := d.answer q c a } q c a.status a.payload → P { s with dev := d.answer q c a }) :
    ∃ t, devOp s q op f = .next t ∧ P t := by
  have hqueue : d.queue q = s.dev.queue q := by rw [Dev.queue, hq, Dev.queue]
  exact devOp_gives h hf hk hc (by rw [hqueue]) (by rw [hqueue]) (by rw [hqueue]) hP

/-- Which granules of a range hold poisoned bytes, as a reply tells (R313). -/
def Dev.poisonMap (d : Dev) (a n : Nat) : Nat := (((granules a n).zipIdx).map (fun g => b2n (d.memPoisoned (64 * g.1) 64) * 2 ^ g.2)).sum

/-- Settles O47: MEMREAD, MEMWRITE and PLACE do what their rows say. -/
theorem hostsReadWriteAndPlaceMemory : Obligations.HostsReadWriteAndPlaceMemory := by
  unfold Obligations.HostsReadWriteAndPlaceMemory
  intro s q c x a n bs
  refine ⟨fun h hr hc hk => ?_, fun h hr => ?_, fun h hw hc hk hn => ?_, fun h hw hk => ?_, fun h hact hcount hpos hbad hspace hpin hv hplace => ?_⟩
  · rw [exec, execMemread]
    have hpriv : (served s q).privateRange x a n = false := Dev.privateRange_of_noKey hk ..
    refine devOp_gives_of_queues (a := { payload := s.dev.memRead a n, pmap := s.dev.poisonMap a n })
      (d := (served s q).countMem x a n false) h ?_ rfl rfl (Dev.countMem_queues ..) fun hans => ?_
    · dsimp only
      rw [show (served s q).hostRead (mrCtx c.payload) (mrAddr c.payload) (wordAt c.payload 12) = true from hr, Bool.not_true, if_neg Bool.false_ne_true,
        show crossesPage (mrAddr c.payload) (wordAt c.payload 12) = false from hc, if_neg Bool.false_ne_true, hpriv]
      rfl
    · exact ⟨⟨rfl, rfl⟩, (Dev.answer_mem ..).trans (Dev.countMem_mem (served s q) ..), hans⟩
  · rw [exec, execMemread]
    refine devOp_onlyReply (a := bad 0x000C) h ?_ rfl rfl
    dsimp only
    rw [show (served s q).hostRead (mrCtx c.payload) (mrAddr c.payload) (wordAt c.payload 12) = false from hr]
    rfl
  · rw [exec, execMemwrite]
    have hpriv : (served s q).privateRange x a bs.length = false := Dev.privateRange_of_noKey hk ..
    have hwin : noWindows (served s q) = true := hn
    obtain ⟨hmem, hcores⟩ := Dev.uniWriteThrough_of_noWindows hwin ((served s q).partOfCtx x) x a bs false
    refine devOp_gives_of_queues (a := {}) (d := (served s q).uniWriteThrough ((served s q).partOfCtx x) x a bs false) h ?_ rfl rfl
      (Dev.uniWriteThrough_queues hwin ..) fun hans => ?_
    · dsimp only
      rw [hpriv, Bool.and_false, if_neg Bool.false_ne_true,
        show (served s q).hostWrite (mrCtx c.payload) (mrAddr c.payload) (c.payload.drop 12).length = true from hw, Bool.not_true,
        if_neg Bool.false_ne_true, show crossesPage (mrAddr c.payload) (c.payload.drop 12).length = false from hc, if_neg Bool.false_ne_true]
    · refine ⟨⟨rfl, rfl⟩, (Dev.answer_cores ..).trans hcores, hans, fun z => ?_⟩
      rw [Dev.memByte_of_mem ((Dev.answer_mem ..).trans hmem), Dev.memPut_memByte]
      rfl
  · rw [exec, execMemwrite]
    have hpriv : (served s q).privateRange x a bs.length = false := Dev.privateRange_of_noKey hk ..
    refine devOp_onlyReply (a := bad 0x000C) h ?_ rfl rfl
    dsimp only
    rw [hpriv, Bool.and_false, if_neg Bool.false_ne_true,
      show (served s q).hostWrite (mrCtx c.payload) (mrAddr c.payload) (c.payload.drop 12).length = false from hw]
    rfl
  · obtain ⟨h3, h4, hroom⟩ := Dev.placeBad_one hbad hact hcount hpin
    have hmem : plPage c.payload ∉ ((served s q).ctx (plCtx c.payload)).pins := by
      change plPage c.payload ∉ (s.dev.ctx (plCtx c.payload)).pins
      simpa using hpin
    have hpage : ¬(((served s q).tm (plPage c.payload)).dev = plTgt c.payload ∧ ((served s q).tm (plPage c.payload)).mst = 0) := by
      rintro ⟨hd, hm⟩
      exact hplace.elim (fun h => h hd) (fun h => h hm)
    have hpromote := Dev.promotePage_pins (plTgt c.payload) hmem hroom
    dsimp only at hpromote
    rw [if_neg hpage] at hpromote
    generalize he : (served s q).setPins (plCtx c.payload) (plPage c.payload) _ _ = e at hpromote
    have hmove := e.queueMove_same { page := plPage c.payload, dev := plTgt c.payload, ctx := some (plCtx c.payload) }
    have htm : e.tm (plPage c.payload) = { s.dev.tm (plPage c.payload) with pin := (s.dev.tm (plPage c.payload)).pin + 1 } := by
      rw [← he, Dev.setPins_tm_self]
      rfl
    have hqueue : (e.queueMove { page := plPage c.payload, dev := plTgt c.payload, ctx := some (plCtx c.payload) }).queues = s.dev.queues := by
      obtain ⟨l, hl⟩ := e.queueMove_parts { page := plPage c.payload, dev := plTgt c.payload, ctx := some (plCtx c.payload) }
      rw [hl, ← he]
      rfl
    have hmoves : (e.queueMove { page := plPage c.payload, dev := plTgt c.payload, ctx := some (plCtx c.payload) }).tiers.queue =
        s.dev.tiers.queue ++ [{ page := plPage c.payload, dev := plTgt c.payload, ctx := some (plCtx c.payload) }] := by
      rw [Dev.queueMove_queue e rfl (by rw [htm]; exact hv) (by rw [htm]; exact h3) (by rw [htm]; exact h4), ← he]
      rfl
    have hrun : exec (.place q) s = .next { s with
        dev := (served s q).finish ((served s q).promotePage (plCtx c.payload) (plTgt c.payload) (plPage c.payload)) q c {} } := by
      rw [exec, execPlace, runOp_of_turn h.1 h.2.1 h.2.2 rfl]
      dsimp only
      rw [show ((s.turned q).dev.queue q).pos = 0 from hpos, show (s.turned q).dev.placeBad c.payload = false from hbad,
        Dev.placeSome_one (d := (s.turned q).dev) hact hcount hspace]
      rfl
    rw [hpromote] at hrun
    generalize e.queueMove { page := plPage c.payload, dev := plTgt c.payload, ctx := some (plCtx c.payload) } = f at hrun hmove hqueue hmoves
    have hown : f.queue q = s.dev.queue q := by rw [Dev.queue, hqueue, Dev.queue]
    rw [Dev.finish_clear (a := {}) h.1.2.2.2.1 rfl (by rw [hown]; exact h.1.2.2.2.2.1)] at hrun
    refine ⟨_, hrun, ⟨rfl, rfl⟩, (Dev.answer_mem ..).trans (hmove.mem.trans (he ▸ rfl)),
      answered_of_answer (d := f) (a := {}) rfl rfl (by rw [hown]) (by rw [hown]), ?_, ?_, ?_⟩
    · rw [Dev.answer_ctx, hmove.ctx, ← he, Dev.setPins_ctx]
      rfl
    · rw [Dev.answer_tm, hmove.tm, htm]
    · rw [Dev.answer_tiers, hmoves]

end Sys2Proof.Machine
end

section
/-! PROOF. Key release, attestation and firmware updates (R380 to R383, R399, R400). -/

namespace Sys2Proof.Machine
open Sys2Proof Sys2Proof.Machine.Claims

/-! ## Taking pages and joining a group -/

/-- Pages are taken by free choice, out of the tiers. -/
theorem Dev.freePage_eq (d : Dev) (p dev : Nat) : ∃ fi, (d.freePage p dev).2 = { d with freeIx := fi } := by
  unfold Dev.freePage
  dsimp only
  split
  · exact ⟨d.freeIx, rfl⟩
  · exact ⟨_, rfl⟩

theorem Dev.takePages_eq (p dev n : Nat) (d : Dev) : ∃ tiers fi, (Dev.takePages p dev n d).2 = { d with tiers := tiers, freeIx := fi } := by
  induction n generalizing d with
  | zero => exact ⟨d.tiers, d.freeIx, rfl⟩
  | succ n ih =>
    obtain ⟨fi, h⟩ := d.freePage_eq p dev
    unfold Dev.takePages
    dsimp only
    split
    · rw [h]
      exact ⟨d.tiers, fi, rfl⟩
    · next ppn _ =>
      dsimp only
      obtain ⟨tiers, fi', h'⟩ := ih ((d.freePage p dev).2.modTiers (fun t => { t with used := (dev, ppn) :: t.used }))
      rw [h', h]
      exact ⟨tiers, fi', rfl⟩

theorem Dev.joinGroup_same (d : Dev) (net group : Nat) : d.SameButSent (d.joinGroup net group) := by
  have hport : d.SameButSent (d.anyPort net).2 := ⟨_, _, _, _, _, rfl⟩
  unfold Dev.joinGroup
  dsimp only
  split
  · exact hport.trans (Dev.sendOn_same ..)
  · exact .refl d

theorem slice_length (l : List Byte) (off n : Nat) : (slice l off n).length = n := by
  unfold slice
  rw [List.length_append, List.length_replicate, List.length_take]
  omega

/-- The field behind a first one. -/
theorem slice_append_right {l r : List Byte} {off n : Nat} (h : l.length = off) : slice (l ++ r) off n = slice r 0 n := by
  unfold slice
  rw [List.drop_left' h, List.drop_zero]

theorem slice_slice_zero (l : List Byte) (off n : Nat) : slice (slice l off n) 0 n = slice l off n := by
  have h := slice_zero_length (slice l off n)
  rwa [slice_length] at h

section
variable (nv : NonVol) (d : Dev) (nonce xpub : List Byte)

/-- The rest of the report after its number. -/
theorem reportBody_length : (reportBody nv d nonce xpub).length = 710 := by
  have himg : (((List.range nParts).map (fun p => slice (Store.get [] d.sec.mImg p) 0 32)).flatten).length = 128 := by
    rw [List.length_flatten, List.map_map, List.map_congr_left (g := fun _ => 32) fun p _ => by rw [Function.comp_apply, slice_length]]
    rfl
  unfold reportBody
  simp only [List.length_append, toLe_length, slice_length, himg]

theorem reportBody_attseq (l : List Byte) (h : d.sec.attseq < 2 ^ 32) : leAt (reportBody nv d nonce xpub ++ l) 4 4 = d.sec.attseq := by
  unfold reportBody
  simp only [List.append_assoc]
  rw [leAt, slice_append_right (toLe_length ..), slice_append_left (by rw [toLe_length]), ← leAt, ← wordAt, wordAt_toLe h]

theorem reportBody_nonce (l : List Byte) : slice (reportBody nv d nonce xpub ++ l) 24 32 = slice nonce 0 32 := by
  unfold reportBody
  rw [List.append_assoc, List.append_assoc, List.append_assoc, List.append_assoc, List.append_assoc, List.append_assoc, List.append_assoc,
    List.append_assoc, List.append_assoc, List.append_assoc, List.append_assoc]
  rw [slice_append_right (by simp only [List.length_append, toLe_length]), slice_append_left (by rw [slice_length]), slice_slice_zero]

end

/-! ## Turns that change more than the module, and accepted commands (R309) -/

section
variable {s : State} {q op : Nat} {c : Cmd}

/-- A command that changes no queue runs and is answered in the clear. -/
theorem runOp_eq {mine : Cmd → Bool} {f : Cmd → State → Option Ans × State} {a : Ans} {t : State} (h : itsTurn s q op c) (hm : mine c = true)
    (hf : f c (s.turned q) = (some a, t)) (hk : a.keyid = none) (hq : t.dev.queues = s.dev.queues) :
    runOp s q op mine f = .next { t with dev := t.dev.answer q c a } := by
  have hqueue : t.dev.queue q = s.dev.queue q := by rw [Dev.queue, hq, Dev.queue]
  obtain ⟨hturn, hop, hr⟩ := h
  rw [runOp_of_turn hturn hop hr hm, hf]
  dsimp only
  rw [Dev.finish_clear hturn.2.2.2.1 hk (by rw [hqueue]; exact hturn.2.2.2.2.1)]

theorem devOp_eq {f : Cmd → Dev → Ans × Dev} {a : Ans} {d : Dev} (h : itsTurn s q op c) (hf : f c (served s q) = (a, d)) (hk : a.keyid = none)
    (hq : d.queues = s.dev.queues) : devOp s q op f = .next { s with dev := d.answer q c a } := by
  have hqueue : d.queue q = s.dev.queue q := by rw [Dev.queue, hq, Dev.queue]
  have hrun := devOp_answer (f := f) h (by rw [hf]; exact hk) (by rw [hf, hqueue]; exact h.1.2.2.2.2.1)
  rwa [hf] at hrun

theorem answered_of_queues {t : State} {d : Dev} {a : Ans} (ht : t.dev = d.answer q c a) (hc : a.cache = true) (hq : d.queues = s.dev.queues) :
    Answered s t q c a.status a.payload := by
  have hqueue : d.queue q = s.dev.queue q := by rw [Dev.queue, hq, Dev.queue]
  exact answered_of_answer ht hc (by rw [hqueue]) (by rw [hqueue])

/-- A command that changes no queue, answered in the clear. -/
theorem runOp_gives {mine : Cmd → Bool} {f : Cmd → State → Option Ans × State} {a : Ans} {t : State} {P : State → Prop}
    (h : itsTurn s q op c) (hm : mine c = true) (hf : f c (s.turned q) = (some a, t)) (hk : a.keyid = none) (hc : a.cache = true)
    (hq : t.dev.queues = s.dev.queues)
    (hP : Answered s { t with dev := t.dev.answer q c a } q c a.status a.payload → P { t with dev := t.dev.answer q c a }) :
    ∃ t, runOp s q op mine f = .next t ∧ P t :=
  ⟨_, runOp_eq h hm hf hk hq, hP (answered_of_queues (d := t.dev) (a := a) rfl hc hq)⟩

/-- A command that only answers. -/
theorem runOp_onlyReply {mine : Cmd → Bool} {f : Cmd → State → Option Ans × State} {a : Ans} (h : itsTurn s q op c) (hm : mine c = true)
    (hf : f c (s.turned q) = (some a, s.turned q)) (hk : a.keyid = none) (hc : a.cache = true) :
    ∃ t, runOp s q op mine f = .next t ∧ OnlyReply s t q ∧ Answered s t q c a.status a.payload :=
  runOp_gives h hm hf hk hc rfl fun hans => ⟨onlyReply_of_answer s q c a, hans⟩

/-- A background command's job is remembered as its acceptance is answered. -/
theorem accepted_of_startJob {t : State} {d e : Dev} {part ctx status : Nat} {done lock : Bool} {detail : List Nat}
    (hans : Answered s t q c 0x0001 []) (hjobs : t.dev.jobs = e.jobs) (he : e = (d.startJob c part ctx done status detail lock).2) : Accepted s t q c := by
  exact ⟨hans, _, (congrArg List.getLast? (hjobs.trans (congrArg Dev.jobs he))).trans List.getLast?_concat, rfl, rfl, rfl⟩

end

/-! ## Key release (R400) -/

theorem Dev.setKey_key_self (d : Dev) (kind ix gen : Nat) (k : Option Key) : (d.setKey kind ix gen k).key kind ix gen = k :=
  Store.get_set_self ..

/-- The key that a KEYREL without a failing check releases. -/
theorem report_of_keyrel {nv : NonVol} {d : Dev} {b : List Byte} (h : keyrelFails nv d b = 0) :
    ∃ r, d.sec.report = some r ∧ (krType b ≠ 5 → ∃ key, unwrap b r.1 r.2 = some key) := by
  unfold keyrelFails at h
  split at h
  · exact absurd h (by decide)
  · next r hr =>
    refine ⟨r, hr, fun h5 => ?_⟩
    by_cases hn : (unwrap b r.1 r.2).isNone = true
    · rw [show (krType b != 5 && (unwrap b r.1 r.2).isNone) = true by rw [bne_iff_ne.2 h5, hn]; rfl, if_pos rfl] at h
      repeat' split at h
      all_goals exact absurd h (by decide)
    · exact Option.ne_none_iff_exists'.1 fun hk => hn (by rw [hk]; rfl)

theorem keyrel_one_fails (s : State) (q : Nat) (c : Cmd) (h : itsTurn s q 0xA1 c) (hf : keyrelFails s.nv s.dev c.payload ≠ 0)
    {mine : Cmd → Bool} {f : Cmd → State → Option Ans × State} (hm : mine c = true)
    (hrun : f c (s.turned q) = (some (bad 0x000B), { s with dev := ((s.turned q).dev.keyRefused c.payload (keyrelFails s.nv s.dev c.payload)).2 })) :
    ∃ t, runOp s q 0xA1 mine f = .next t ∧ SameOutside s t ∧ t.dev.mem = s.dev.mem ∧ Answered s t q c 0x000B [] ∧
      t.dev.sec = { s.dev.sec with krefn := s.dev.sec.krefn + 1 } := by
  refine runOp_gives h hm hrun rfl rfl (Dev.event_queues ..) fun hans => ?_
  exact ⟨⟨rfl, rfl⟩, (Dev.answer_mem ..).trans (Dev.event_mem ..), hans, (Dev.answer_sec ..).trans (Dev.event_sec ..)⟩

/-! ## An update begins (R380) -/

/-- The module once an update's pages are taken, its group joined and its job remembered. -/
def Dev.updateStarted (d : Dev) (c : Cmd) : Dev :=
  let m := slice c.payload 0 128
  let x := Dev.takePages 0 4 64 d
  let d := x.2.modBrd (fun y => { y with
    ustate := 1, update := some { manifest := m, queue := c.hdr.queue, cseq := c.hdr.seq, pages := x.1 } })
  let d := (d.modFab (fun f => { f with groups := f.groups ++ [mfGroup m] })).joinGroup 1 (mfGroup m)
  (d.startJob c 0 0 false 0 [] false).2

/-- What the begin of an update leaves. -/
theorem Dev.updateStarted_of (d : Dev) (c : Cmd) : (d.updateStarted c).mem = d.mem ∧ (d.updateStarted c).queues = d.queues ∧
    (∃ w, (d.updateStarted c).brd.update = some w ∧ w.manifest = slice c.payload 0 128 ∧ w.got = [] ∧ w.round = 0) ∧
    (d.updateStarted c).brd.ustate = 1 ∧ (∃ e : Dev, d.updateStarted c = (e.startJob c 0 0 false 0 [] false).2) ∧
    mfGroup (slice c.payload 0 128) ∈ (d.updateStarted c).fab.groups := by
  obtain ⟨tiers, fi, h⟩ := Dev.takePages_eq 0 4 64 d
  unfold Dev.updateStarted
  dsimp only
  rw [h]
  generalize Dev.takePages 0 4 64 d = x
  have hjoin := Dev.joinGroup_same ((Dev.modBrd { d with tiers := tiers, freeIx := fi } (fun y => { y with
    ustate := 1, update := some { manifest := slice c.payload 0 128, queue := c.hdr.queue, cseq := c.hdr.seq, pages := x.1 } })).modFab
    (fun f => { f with groups := f.groups ++ [mfGroup (slice c.payload 0 128)] })) 1 (mfGroup (slice c.payload 0 128))
  refine ⟨hjoin.mem, hjoin.queues, ⟨_, congrArg Board.update (hjoin.congr Dev.brd fun _ _ _ _ _ => rfl), rfl, rfl, rfl⟩,
    congrArg Board.ustate (hjoin.congr Dev.brd fun _ _ _ _ _ => rfl), ⟨_, rfl⟩, ?_⟩
  have hgroups := hjoin.congr (fun d => d.fab.groups) fun _ _ _ _ _ => rfl
  exact hgroups ▸ List.mem_append_right _ List.mem_cons_self

/-! ## The report (R399) -/

/-- The module with the next report number. -/
def Dev.nextReport (d : Dev) : Dev := { d with freeIx := d.freeIx + 1, sec := { d.sec with attseq := (d.sec.attseq + 1) % 2 ^ 32 } }

/-- The report that answers a nonce under a key. -/
def Dev.reportOf (nv : NonVol) (d : Dev) (nonce key : List Byte) : List Byte :=
  reportBody nv d nonce (Config.x448Public key) ++ slice (Config.ed448Sign d.sec.ak (reportBody nv d nonce (Config.x448Public key))) 0 114

/-- The module with its next report made, under a fresh key. -/
def Dev.reported (nv : NonVol) (d : Dev) (nonce : List Byte) : Dev :=
  d.nextReport.modSec (fun x => { x with
    report := some (Config.freshReportKey d.freeIx, Config.shake256 (reportBody nv d.nextReport nonce (Config.x448Public (Config.freshReportKey d.freeIx)))) })

/-- The answer that carries the report. -/
def Dev.reportAns (nv : NonVol) (d : Dev) (nonce : List Byte) : Ans := { payload := d.nextReport.reportOf nv nonce (Config.freshReportKey d.freeIx) }

theorem Dev.reportOf_length (nv : NonVol) (d : Dev) (nonce key : List Byte) : (d.reportOf nv nonce key).length = 824 := by
  rw [Dev.reportOf, List.length_append, reportBody_length, slice_length]

/-- The key that a release installs (R392, R400). -/
def releasedKey (b key : List Byte) : Key :=
  { bytes := key, astep := krAstep b, bind := if krType b = 1 && !((krBind b).all (· == 0#8)) then krBind b else [] }

/-- A release that passes takes its generation, its step and a place among those installed. -/
theorem Dev.installKey_of {d : Dev} {b key : List Byte} {r : List Byte × List Byte} (hr : d.sec.report = some r) (hk : unwrap b r.1 r.2 = some key) :
    (d.installKey b).mem = d.mem ∧ (d.installKey b).queues = d.queues ∧
    (∃ k, (d.installKey b).key (typeKind (krType b)) (if krType b = 4 then 0 else krTarget b) (krGen b) = some k ∧ k.astep = krAstep b) ∧
    (d.installKey b).sec.installed = d.sec.installed ++ [(krAttseq b, krType b, krTarget b, krGen b)] := by
  unfold Dev.installKey
  rw [hr]
  dsimp only
  rw [hk]
  dsimp only
  refine ⟨Dev.event_mem .., Dev.event_queues .., ⟨releasedKey b key, ?_, rfl⟩, congrArg Security.installed (Dev.event_sec ..)⟩
  rw [Dev.key, Dev.event_sec]
  exact Dev.setKey_key_self d _ _ _ (some (releasedKey b key))

/-- Settles O52: each row's effect is one of the security state, and its answer. -/
theorem keysReportsAndUpdates : Obligations.KeysReportsAndUpdates := by
  unfold Obligations.KeysReportsAndUpdates
  intro s q c
  refine ⟨fun h => ?_, fun h h0 h5 hf i hi => ?_, fun h h0 h4 hf => ?_, fun h h5 hf => ?_, fun h => ⟨fun hf => ?_, fun hf => ?_⟩⟩
  · have hrun : exec (.attest q) s = .next { s with dev := ((served s q).reported s.nv c.payload).answer q c (s.dev.reportAns s.nv c.payload) } := by
      rw [exec, execAttest]
      exact devOp_eq h rfl rfl rfl
    have hans : Answered s { s with dev := ((served s q).reported s.nv c.payload).answer q c (s.dev.reportAns s.nv c.payload) } q c 0
        (s.dev.reportAns s.nv c.payload).payload :=
      answered_of_queues (d := (served s q).reported s.nv c.payload) (a := s.dev.reportAns s.nv c.payload) rfl rfl rfl
    have hsec : ∀ a, (((served s q).reported s.nv c.payload).answer q c a).sec = ((served s q).reported s.nv c.payload).sec := fun a => Dev.answer_sec ..
    refine ⟨_, _, hrun, ⟨rfl, rfl⟩, Dev.answer_mem .., hans,
      Dev.reportOf_length .., congrArg Security.attseq (hsec _), ?_, reportBody_nonce .., ?_⟩
    · exact (reportBody_attseq _ _ _ _ _ (Nat.mod_lt _ (by decide))).trans (congrArg Security.attseq (hsec _)).symm
    · rw [hsec]
      rfl
  · by_cases htype : krType c.payload = 5
    · rw [hi, if_pos htype, exec, execOperatorEnrolment]
      refine keyrel_one_fails s q c h hf (by rw [htype]; rfl) ?_
      exact if_pos (bne_iff_ne.2 hf)
    · rw [hi, if_neg htype, exec, execKeyrel]
      refine keyrel_one_fails s q c h hf (bne_iff_ne.2 htype) ?_
      dsimp only
      rw [if_neg (by rw [Bool.or_eq_true, decide_eq_true_eq, decide_eq_true_eq]; omega)]
      exact if_pos (bne_iff_ne.2 hf)
  · obtain ⟨r, hr, hkey⟩ := report_of_keyrel hf
    obtain ⟨key, hkey⟩ := hkey (by omega)
    obtain ⟨hmem, hqueues, ⟨k, hk, hstep⟩, hinst⟩ := Dev.installKey_of (d := (s.turned q).dev) hr hkey
    have hrun : exec (.keyrel q) s = .next { s with dev := ((s.turned q).dev.installKey c.payload).answer q c {} } := by
      rw [exec, execKeyrel]
      refine runOp_eq (t := { s with dev := (s.turned q).dev.installKey c.payload }) h (bne_iff_ne.2 (by omega)) ?_ rfl hqueues
      dsimp only
      rw [if_neg (by rw [Bool.or_eq_true, decide_eq_true_eq, decide_eq_true_eq]; omega),
        if_neg (by rw [show keyrelFails (s.turned q).nv (s.turned q).dev c.payload = 0 from hf]; exact Bool.false_ne_true)]
      rfl
    refine ⟨_, k, hrun, ⟨rfl, rfl⟩, (Dev.answer_mem ..).trans hmem,
        answered_of_queues (d := (s.turned q).dev.installKey c.payload) (a := {}) rfl rfl hqueues,
      ?_, hstep, (congrArg Security.installed (Dev.answer_sec ..)).trans hinst⟩
    rw [Dev.key, Dev.answer_sec]
    exact hk
  · rw [exec, execOperatorEnrolment]
    refine runOp_gives (a := {}) (t := { s with
      nv := { s.nv with opkdig := krBind c.payload, opened := false }
      dev := ((s.turned q).dev.modSec (fun x => { x with installed := x.installed ++ [(krAttseq c.payload, 5, krTarget c.payload,
          krGen c.payload)] })).event
        0x0D04 0 0 0x1FF [] }) h ?_ ?_ rfl rfl (Dev.event_queues ..) fun hans => ?_
    · exact beq_iff_eq.2 h5
    · dsimp only
      rw [if_neg (by rw [show keyrelFails (s.turned q).nv (s.turned q).dev c.payload = 0 from hf]; exact Bool.false_ne_true)]
      rfl
    · exact ⟨rfl, (Dev.answer_mem ..).trans (Dev.event_mem ..), hans, rfl⟩
  · obtain ⟨hmem, hqueues, ⟨w, hw, hman, hgot, hround⟩, hust, ⟨e, hjobs⟩, hgroups⟩ := Dev.updateStarted_of (s.turned q).dev c
    have hrun : exec (.fwupdate q) s = .next { s with dev := ((s.turned q).dev.updateStarted c).answer q c { status := 0x0001 } } := by
      rw [exec, execFwupdate]
      refine runOp_eq (t := { s with dev := (s.turned q).dev.updateStarted c }) h rfl ?_ rfl hqueues
      dsimp only
      rw [if_neg (by rw [show updateFails (s.turned q).nv (s.turned q).dev c.payload = 0 from hf]; exact Bool.false_ne_true)]
      rfl
    have hans : Answered s { s with dev := ((s.turned q).dev.updateStarted c).answer q c { status := 0x0001 } } q c 0x0001 [] :=
      answered_of_queues (d := (s.turned q).dev.updateStarted c) (a := { status := 0x0001 }) rfl rfl hqueues
    have hbrd := Dev.answer_brd ((s.turned q).dev.updateStarted c) q c { status := 0x0001 }
    refine ⟨_, w, hrun, ⟨rfl, rfl⟩, (Dev.answer_mem ..).trans hmem, accepted_of_startJob hans (Dev.answer_jobs ..) hjobs,
      (congrArg Board.ustate hbrd).trans hust, (congrArg Board.update hbrd).trans hw, hman, hgot, hround, ?_⟩
    rw [hman]
    have hanswer := Dev.answer_congr ((s.turned q).dev.updateStarted c) q c { status := 0x0001 } (fun d => d.fab.groups) (fun _ _ _ => rfl)
    exact hanswer ▸ hgroups
  · rw [exec, execFwupdate]
    refine runOp_onlyReply (a := bad (updateFails s.nv s.dev c.payload)) h rfl ?_ rfl rfl
    exact if_pos (bne_iff_ne.2 hf)

end Sys2Proof.Machine
end

section
/-! PROOF. A firmware update is staged, repeated, or fails (R381 to R383). -/

namespace Sys2Proof.Machine
open Sys2Proof Sys2Proof.Machine.Claims

section
variable {d : Dev} {u : Update} {swid srank seq off : Nat} {pl : List Byte}

/-- The update with a chunk in staging. -/
def Update.withChunk (u : Update) (seq off : Nat) (bs : List Byte) : Update :=
  { u with staging := (bs.zipIdx).foldl (fun s x => Store.set 0#8 s (off + x.2) x.1) u.staging
           got := if u.got.contains seq then u.got else u.got ++ [seq] }

/-- A chunk that is the sender's, of a chunk's length, at its place. -/
theorem Dev.waggleChunk_of_taken (hu : d.brd.update = some u) (hlen : pl.length = 4100) (hseq : seq < mfChunks u.manifest) :
    d.waggleChunk (mfSwid u.manifest) (mfSrank u.manifest) seq (4096 * seq) pl =
      if Config.crc32c (pl.take 4096) = BitVec.ofNat 32 (wordAt pl 4096) then
        d.modBrd (fun b => { b with update := some (u.withChunk seq (4096 * seq) (pl.take 4096)) })
      else d := by
  unfold Dev.waggleChunk
  rw [hu]
  dsimp only
  rw [if_neg (by simp [hlen]; omega)]
  by_cases hcrc : Config.crc32c (pl.take 4096) = BitVec.ofNat 32 (wordAt pl 4096)
  · rw [if_neg (by simp [hcrc]), if_pos hcrc]
    rfl
  · rw [if_pos (by simpa using hcrc), if_neg hcrc]

theorem Dev.waggleChunk_of_foreign (hu : d.brd.update = some u) (hs : swid ≠ mfSwid u.manifest) : d.waggleChunk swid srank seq off pl = d.rxd 1 := by
  unfold Dev.waggleChunk
  rw [hu]
  exact if_pos (by simp [hs])

theorem Update.mem_withChunk (u : Update) (seq off : Nat) (bs : List Byte) : seq ∈ (u.withChunk seq off bs).got := by
  unfold Update.withChunk
  dsimp only
  split
  · next h => exact List.contains_iff_mem.1 h
  · exact List.mem_append_right _ List.mem_cons_self

theorem Update.withChunk_byte (u : Update) (hlen : pl.length = 4100) (z : Nat) :
    Store.get 0#8 (u.withChunk seq off (pl.take 4096)).staging z =
      if off ≤ z ∧ z < off + 4096 then pl.getD (z - off) 0#8 else Store.get 0#8 u.staging z := by
  refine (memFold_get off (pl.take 4096) 0 u.staging z).trans ?_
  rw [Nat.add_zero, List.length_take, hlen, show min 4096 4100 = 4096 from rfl]
  by_cases hz : off ≤ z ∧ z < off + 4096
  · rw [if_pos hz, if_pos hz, List.getD_eq_getElem?_getD, List.getElem?_take_of_lt (by omega), List.getD_eq_getElem?_getD]
  · rw [if_neg hz, if_neg hz]

end

/-! ## The end of an update (R382, R383) -/

theorem Dev.endUpdate_brd (d : Dev) (u : Update) (ustate result : Nat) :
    (d.endUpdate u ustate result).brd = { d.brd with update := none, ustate := ustate } := rfl

theorem Dev.failUpdate_brd (d : Dev) (u : Update) (result : Nat) : (d.failUpdate u result).brd = { d.brd with update := none, ustate := 5 } := by
  rw [Dev.failUpdate, Dev.event_brd, Dev.endUpdate_brd]

/-- The module once the bitmap of the missing chunks is sent and the next round begun (R382). -/
def Dev.bitmapSent (d : Dev) (u : Update) : Dev :=
  (d.send (.bitmap u.round ((List.range (mfChunks u.manifest)).filter (fun k => !(u.got.contains k))))).modBrd
    (fun b => { b with ustate := 2, update := some { u with round := u.round + 1 } })

/-- Settles O55: each row does one of the cases of a chunk, a round's end or the bundle's end. -/
theorem updatesAreStagedOrFail : Obligations.UpdatesAreStagedOrFail := by
  unfold Obligations.UpdatesAreStagedOrFail
  intro s u swid srank seq fin pl hu
  refine ⟨fun hw hr hlen hseq => ⟨fun hcrc => ?_, fun hcrc => ?_⟩, fun hw => ?_, fun hmiss => ⟨fun h3 => ?_, fun h3 => ?_⟩,
      fun hgot => ⟨fun hd hc => ?_, fun hd => ?_⟩⟩
  · have hrun : exec (.waggleChunk swid srank seq (4096 * seq) fin pl) s = .next { s with
        dev := s.dev.modBrd (fun b => { b with update := some (u.withChunk seq (4096 * seq) (pl.take 4096)) }) } := by
      rw [exec, execWaggleChunk, State.onDev, hw, hr, Dev.waggleChunk_of_taken hu hlen hseq, if_pos hcrc]
    exact ⟨_, _, hrun, ⟨rfl, rfl⟩, rfl, rfl, u.mem_withChunk .., rfl, rfl, u.withChunk_byte hlen⟩
  · rw [exec, execWaggleChunk, State.onDev, hw, hr, Dev.waggleChunk_of_taken hu hlen hseq, if_neg hcrc]
  · have hrun : exec (.waggleChunk swid srank seq (4096 * seq) fin pl) s = .next { s with dev := s.dev.rxd 1 } := by
      rw [exec, execWaggleChunk, State.onDev, Dev.waggleChunk_of_foreign hu hw]
    exact ⟨_, hrun, rfl, portCounter_portCnt ..⟩
  · have hne : ¬((List.range (mfChunks u.manifest)).filter (fun k => !(u.got.contains k))).isEmpty = true := fun h => hmiss (List.isEmpty_iff.1 h)
    have hrun : exec .missingBitmapSend s = .next { s with dev := s.dev.bitmapSent u } := by
      rw [exec, execMissingBitmapSend, State.onDev, hu]
      dsimp only
      rw [if_neg hne, if_neg (by omega)]
      rfl
    exact ⟨_, hrun, ⟨rfl, rfl⟩, rfl, rfl, rfl⟩
  · have hne : ¬((List.range (mfChunks u.manifest)).filter (fun k => !(u.got.contains k))).isEmpty = true := fun h => hmiss (List.isEmpty_iff.1 h)
    have hrun : exec .missingBitmapSend s = .next { s with dev := s.dev.failUpdate u 1 } := by
      rw [exec, execMissingBitmapSend, State.onDev, hu]
      dsimp only
      rw [if_neg hne, if_pos h3]
    exact ⟨_, hrun, ⟨rfl, rfl⟩, congrArg Board.update (Dev.failUpdate_brd ..), congrArg Board.ustate (Dev.failUpdate_brd ..)⟩
  · have hrun : exec .updateStaged s = .next { s with
        nv := { s.nv with slotManifest := Store.set [] s.nv.slotManifest (1 - s.dev.brd.slot) u.manifest, bootSlot := 1 - s.dev.brd.slot }
        dev := (s.dev.endUpdate u 4 0).event 0x0C07 0 0 0x1FF [] } := by
      rw [exec, execUpdateStaged, hu]
      dsimp only
      rw [if_neg (by omega), if_neg (by rw [hd, hc, bne_self_eq_false, bne_self_eq_false]; exact Bool.false_ne_true)]
    have hbrd : ((s.dev.endUpdate u 4 0).event 0x0C07 0 0 0x1FF []).brd = { s.dev.brd with update := none, ustate := 4 } := by
      rw [Dev.event_brd, Dev.endUpdate_brd]
    exact ⟨_, hrun, rfl, congrArg Board.update hbrd, congrArg Board.ustate hbrd, rfl, Store.get_set_self .., rfl⟩
  · have hrun : exec .updateStaged s = .next { s with dev := s.dev.failUpdate u 2 } := by
      rw [exec, execUpdateStaged, hu]
      dsimp only
      rw [if_neg (by omega), if_pos (by rw [bne_iff_ne.2 hd, Bool.true_or]), State.onDev]
    exact ⟨_, hrun, ⟨rfl, rfl⟩, congrArg Board.update (Dev.failUpdate_brd ..), congrArg Board.ustate (Dev.failUpdate_brd ..)⟩

end Sys2Proof.Machine
end

section
/-! PROOF. A move of a page through its states (R199 to R202). -/

namespace Sys2Proof.Machine
open Sys2Proof Sys2Proof.Machine.Claims

/-- The memory, the cores, the tier map and the runs of the channels are as they were. -/
structure Dev.SameMap (d e : Dev) : Prop where
  mem : e.mem = d.mem
  cores : e.cores = d.cores
  map : e.tiers.map = d.tiers.map
  runs : e.tiers.runs = d.tiers.runs

namespace Dev.SameMap

variable {d e f : Dev}

theorem refl (d : Dev) : d.SameMap d := ⟨rfl, rfl, rfl, rfl⟩
theorem trans (h : d.SameMap e) (k : e.SameMap f) : d.SameMap f :=
  ⟨k.mem.trans h.mem, k.cores.trans h.cores, k.map.trans h.map, k.runs.trans h.runs⟩
theorem of_ite {c : Prop} [Decidable c] (h : d.SameMap e) (k : d.SameMap f) : d.SameMap (if c then e else f) := by
  split
  · exact h
  · exact k
theorem foldl {α : Type} {g : Dev → α → Dev} (h : ∀ d a, Dev.SameMap d (g d a)) (l : List α) (d : Dev) : d.SameMap (l.foldl g d) := by
  induction l generalizing d with
  | nil => exact .refl d
  | cons a l ih => exact (h d a).trans (ih _)

theorem tm (h : d.SameMap e) (k : Nat) : e.tm k = d.tm k := by rw [Dev.tm, h.map, Dev.tm]

section
variable (d : Dev)

theorem event (code part ctx lcore : Nat) (detail : List Nat) : d.SameMap (d.event code part ctx lcore detail) :=
  ⟨by simp, by simp, by simp, by simp⟩

theorem modTiers {f : Tiers → Tiers} (hmap : (f d.tiers).map = d.tiers.map) (hruns : (f d.tiers).runs = d.tiers.runs) : d.SameMap (d.modTiers f) :=
  ⟨rfl, rfl, hmap, hruns⟩

theorem freePhys (part ctx dev ppn : Nat) : d.SameMap (d.freePhys part ctx dev ppn) := by
  unfold Dev.freePhys
  dsimp only
  split
  · exact ((modTiers d rfl rfl).trans (modTiers _ rfl rfl)).trans (event ..)
  · exact modTiers d rfl rfl

theorem settleLeaving : d.SameMap d.settleLeaving := by
  unfold Dev.settleLeaving
  refine foldl (fun d l => ?_) _ _
  dsimp only
  split
  · exact (modTiers d rfl rfl).trans (freePhys ..)
  · exact modTiers d rfl rfl

theorem leavePage (page part ctx dev ppn : Nat) : d.SameMap (d.leavePage page part ctx dev ppn) := by
  unfold Dev.leavePage
  dsimp only
  refine .trans ?_ (settleLeaving _)
  exact modTiers d rfl rfl

theorem queueMove (m : Move) : d.SameMap (d.queueMove m) := by
  obtain ⟨q, h⟩ := d.queueMove_parts m
  rw [h]
  exact ⟨rfl, rfl, rfl, rfl⟩

theorem combDrop (a n : Nat) : d.SameMap (d.combDrop a n) := by
  unfold Dev.combDrop
  refine foldl (fun _ _ => ?_) _ d
  exact ⟨rfl, rfl, rfl, rfl⟩

theorem wakeDev (dev : Nat) : d.SameMap (d.wakeDev dev) := by
  unfold Dev.wakeDev
  repeat' split
  all_goals exact ⟨rfl, rfl, rfl, rfl⟩

theorem countDev (c dev n : Nat) (write : Bool) : d.SameMap (d.countDev c dev n write) := by
  unfold Dev.countDev
  have hacct (e : Dev) (f : Account → Account) : e.SameMap (e.acct c f) := ⟨rfl, rfl, rfl, rfl⟩
  refine (wakeDev d dev).trans ?_
  dsimp only
  exact of_ite (hacct ..) (of_ite (hacct ..) (.refl _))

end

end Dev.SameMap

/-- The module with a page in its new place and its channel free, before the old place is left (R201, R214). -/
def Dev.moved (d : Dev) (r : MoveRun) : Dev :=
  let e := d.tm r.page
  let d := d.keepPhys r.page e.dev e.ppn
  let of (m : Store Bool) : List Nat := (m.filter (fun x => x.1 / pageWords == r.page && x.2)).map (·.1)
  let d := { d with memPoison := markWords (markWords d.memPoison (of d.tiers.oldBad) false) (of d.tiers.newBad) true }
  (d.setTm r.page { e with dev := r.dev, ppn := r.ppn, mst := 0, rtd := r.retire }).modTiers (fun t =>
    ({ t with runs := t.runs.filter (fun q => q.ch != r.ch),
              oldBad := markWords t.oldBad (of t.oldBad) false, newBad := markWords t.newBad (of t.newBad) false } : Tiers).clearPhys
      r.dev r.ppn |>.count 16)

/-- After the page has moved, what is left of a flip moves no page. -/
theorem Dev.flip_moved (d : Dev) (r : MoveRun) : (d.moved r).SameMap (d.flip r) := by
  have hleave := Dev.SameMap.leavePage (d.moved r) r.page (d.tm r.page).part (d.tm r.page).ctx (d.tm r.page).dev (d.tm r.page).ppn
  have hqueue (f : Dev) (c : Prop) [Decidable c] (m : Move) : f.SameMap (if c then f.queueMove m else f) := .of_ite (.queueMove ..) (.refl f)
  exact (hleave.trans (hqueue _ _ _)).trans (hqueue _ _ _)

/-- A flip gives the page its new place and ends the channel's run. -/
theorem Dev.moved_tm (d : Dev) (r : MoveRun) (k : Nat) :
    (d.moved r).tm k = (d.setTm r.page { d.tm r.page with dev := r.dev, ppn := r.ppn, mst := 0, rtd := r.retire }).tm k := rfl

/-- A move's bytes charged to its context. -/
def Dev.chargeMove (d : Dev) (r : MoveRun) : Dev :=
  match r.ctx with
  | some c => (d.countDev c (d.tm r.page).dev pageBytes false).countDev c r.dev pageBytes true
  | none => d

theorem Dev.chargeMove_same (d : Dev) (r : MoveRun) : d.SameMap (d.chargeMove r) := by
  unfold Dev.chargeMove
  split
  · exact (Dev.SameMap.countDev d ..).trans (.countDev _ ..)
  · exact .refl d

/-- The run of a channel marked as copied. -/
def Dev.markCopied (d : Dev) (ch : Nat) : Dev :=
  d.modTiers (fun t => { t with runs := t.runs.map (fun q => if q.ch = ch then { q with copied := true } else q) })

theorem Dev.markCopied_same (d : Dev) (ch : Nat) : (d.markCopied ch).mem = d.mem ∧ (d.markCopied ch).cores = d.cores ∧
    (∀ k, (d.markCopied ch).tm k = d.tm k) ∧ ∀ q ∈ (d.markCopied ch).tiers.runs, q.ch = ch → q.copied = true := by
  refine ⟨rfl, rfl, fun _ => rfl, fun q hq hch => ?_⟩
  obtain ⟨q', _, rfl⟩ := List.mem_map.1 hq
  by_cases hq' : q'.ch = ch
  · rw [if_pos hq']
  · rw [if_neg hq'] at hch
    exact absurd hch hq'

/-- The move's last granule has landed: the flip is pending (R200). -/
def Dev.runLanded (d : Dev) (ch : Nat) (r : MoveRun) : Dev :=
  ((d.setTm r.page { d.tm r.page with mst := 2 }).combDrop (r.page * pageBytes) pageBytes).markCopied ch

theorem Dev.runLanded_same (d : Dev) (ch : Nat) (r : MoveRun) : (d.runLanded ch r).mem = d.mem ∧ (d.runLanded ch r).cores = d.cores ∧
    (∀ k, (d.runLanded ch r).tm k = (d.setTm r.page { d.tm r.page with mst := 2 }).tm k) ∧
    ∀ q ∈ (d.runLanded ch r).tiers.runs, q.ch = ch → q.copied = true := by
  have hdrop := Dev.SameMap.combDrop (d.setTm r.page { d.tm r.page with mst := 2 }) (r.page * pageBytes) pageBytes
  obtain ⟨hmem, hcores, htm, hruns⟩ :=
    ((d.setTm r.page { d.tm r.page with mst := 2 }).combDrop (r.page * pageBytes) pageBytes).markCopied_same ch
  exact ⟨hmem.trans hdrop.mem, hcores.trans hdrop.cores, fun k => (htm k).trans (hdrop.tm k), hruns⟩

/-- A run started on a free channel: the page's entry says so, the rest of the tier map and the memory are as they were (R199). -/
theorem Dev.startRun_starts (d : Dev) (m : Move) (ch ppn : Nat) :
    let e := (d.dropMove m).startRun ch m.page m.dev ppn m.retire m.back m.ctx
    e.mem = d.mem ∧ e.cores = d.cores ∧ e.tm m.page = { d.tm m.page with mst := 1 } ∧ (∀ k, k ≠ m.page → e.tm k = d.tm k) ∧
      e.tiers.queue = d.tiers.queue.erase m ∧ (m.dev, ppn) ∈ e.tiers.used ∧
      ∃ q, e.tiers.runs = d.tiers.runs ++ [q] ∧ q.ch = ch ∧ q.page = m.page ∧ q.dev = m.dev ∧ q.ppn = ppn ∧ q.copied = false :=
  ⟨rfl, rfl, Dev.setTm_tm_self .., fun k hk => Dev.setTm_tm_ne _ _ hk, rfl, List.mem_cons_self, _, rfl, rfl, rfl, rfl, rfl, rfl⟩

/-- A move of a page that lies elsewhere, with a free page for it, starts. -/
theorem Dev.tryMove_of_free {d d' : Dev} {m : Move} {ppn : Nat} (hv : (d.tm m.page).valid = true) (hdev : (d.tm m.page).dev ≠ m.dev)
    (hpin : (d.tm m.page).pin = 0) (hfree : d.freePage (d.addrPart (m.page * pageBytes)) m.dev = (some ppn, d')) (ch : Nat) :
    d.tryMove ch m = (d'.dropMove m).startRun ch m.page m.dev ppn m.retire m.back m.ctx := by
  unfold Dev.tryMove
  dsimp only
  rw [if_neg (by simp [hv, hdev]), if_neg (by simp [hpin]), hfree]

/-- MIGRATION_START takes the next move to a free channel. -/
theorem migrationStart_eq {s : State} {m : Move} {ch : Nat} (hm : s.dev.nextMove = some m) (hch : s.dev.freeChannel = some ch) :
    exec .migrationStart s = .next { s with dev := s.dev.tryMove ch m } := by
  rw [exec, execMigrationStart, State.onDev, hch, hm]

/-- Settles O29: the start, the landing and the flip each change the tier map at the page that moves. -/
theorem migrationMovesThePageAndKeepsItsBytes : Obligations.MigrationMovesThePageAndKeepsItsBytes := by
  unfold Obligations.MigrationMovesThePageAndKeepsItsBytes
  intro s m ch ppn r d'
  refine ⟨fun hm hch hv hdev hpin hfree => ?_, fun h8 hr => ⟨fun hland => ?_, fun hhot hleft => ?_⟩, ?_⟩
  · obtain ⟨fi, hfi⟩ := s.dev.freePage_eq (s.dev.addrPart (m.page * pageBytes)) m.dev
    rw [hfree] at hfi
    change d' = _ at hfi
    have hrun := migrationStart_eq hm hch
    rw [Dev.tryMove_of_free hv hdev hpin hfree] at hrun
    have htm (k : Nat) : d'.tm k = s.dev.tm k := by
      rw [hfi]
      rfl
    obtain ⟨hmem, hcores, hpage, hother, hqueue, hused, q, hruns, hq⟩ := Dev.startRun_starts d' m ch ppn
    refine ⟨_, hrun, hmem.trans ?_, hcores.trans ?_, hpage.trans (by rw [htm]), fun k hk => (hother k hk).trans (htm k), hqueue.trans ?_,
      hused, q, hruns.trans ?_, hq⟩
    all_goals rw [hfi]
  · have hmetered : ((s.dev.hot r.dev || s.dev.hot (s.dev.tm r.page).dev) && r.left != some 0) = false := by
      rcases hland with ⟨h1, h2⟩ | h
      · rw [h1, h2]
        rfl
      · rw [h, bne_self_eq_false, Bool.and_false]
    obtain ⟨e, he, hsame⟩ : ∃ e : Dev, exec (.migrationCopied ch) s = .next { s with dev := e.runLanded ch r } ∧ s.dev.SameMap e := by
      refine ⟨_, (onUnit_eq (decide_eq_true h8) _).trans ?_, s.dev.chargeMove_same r⟩
      dsimp only
      rw [hr]
      dsimp only
      rw [hmetered, if_neg Bool.false_ne_true]
      rfl
    obtain ⟨hmem, hcores, htm, hruns⟩ := e.runLanded_same ch r
    refine ⟨_, he, hmem.trans hsame.mem, hcores.trans hsame.cores, ?_, fun k hk => ?_, hruns⟩
    · rw [htm, Dev.setTm_tm_self, hsame.tm]
    · rw [htm, Dev.setTm_tm_ne _ _ hk, hsame.tm]
  · refine (onUnit_eq (decide_eq_true h8) _).trans ?_
    dsimp only
    rw [hr]
    dsimp only
    rw [if_pos (by rw [bne_iff_ne.2 hleft, Bool.and_true, Bool.or_eq_true]; exact hhot)]
  · have hsame := s.dev.flip_moved r
    refine ⟨hsame.mem, hsame.cores, ?_, fun k hk => ?_, hsame.runs⟩
    · rw [hsame.tm, Dev.moved_tm, Dev.setTm_tm_self]
    · rw [hsame.tm, Dev.moved_tm, Dev.setTm_tm_ne _ _ hk]

end Sys2Proof.Machine
end

section
/-! PROOF. Fills and atomics of the comb (R208, R211, R212). -/

namespace Sys2Proof.Machine
open Sys2Proof Sys2Proof.Machine.Claims

/-! ## A fill -/

/-- A line that was put into its set is in the comb. -/
theorem Dev.combHas_combAlloc (d : Dev) (line : Nat) : (d.combAlloc line).combHas line = true := by
  obtain ⟨r, hr⟩ := d.tiers.useLine_comb (d.combKey line) (d.cacheWays (d.combKey line / 1024)) line (Config.freeChoice d.freeIx 16)
  have hset : Store.get [] (d.combAlloc line).tiers.comb ((d.combAlloc line).combKey line) = line :: r := hr
  simp [Dev.combHas, hset]

theorem Tiers.useLine_fills (t : Tiers) (k ways line choice : Nat) : (t.useLine k ways line choice).fills = t.fills := by
  unfold Tiers.useLine
  dsimp only
  split
  · rfl
  · split <;> rfl

/-- The registers and the lines of the comb are as they were. -/
structure Dev.SameComb (d e : Dev) : Prop where
  fills : e.tiers.fills = d.tiers.fills
  comb : e.tiers.comb = d.tiers.comb
  mode : e.brd.pcfgMode = d.brd.pcfgMode

namespace Dev.SameComb

variable {d e f : Dev}

theorem trans (h : d.SameComb e) (k : e.SameComb f) : d.SameComb f := ⟨k.fills.trans h.fills, k.comb.trans h.comb, k.mode.trans h.mode⟩

theorem combHas (h : d.SameComb e) (line : Nat) : e.combHas line = d.combHas line := by
  unfold Dev.combHas Dev.combKey Dev.combPlace
  rw [h.comb, h.mode]

theorem modTiers (d : Dev) {f : Tiers → Tiers} (hf : (f d.tiers).fills = d.tiers.fills) (hc : (f d.tiers).comb = d.tiers.comb) :
    d.SameComb (d.modTiers f) :=
  ⟨hf, hc, rfl⟩

theorem freePhys (d : Dev) (part ctx dev ppn : Nat) : d.SameComb (d.freePhys part ctx dev ppn) := by
  have hevent (e : Dev) : e.SameComb (e.event 0x0505 part ctx 0x1FF []) := ⟨by simp, by simp, by simp⟩
  unfold Dev.freePhys
  dsimp only
  split
  · exact ((modTiers d rfl rfl).trans (modTiers _ rfl rfl)).trans (hevent _)
  · exact modTiers d rfl rfl

theorem settleLeaving (d : Dev) : d.SameComb d.settleLeaving := by
  unfold Dev.settleLeaving
  generalize d.tiers.leaving = l
  induction l generalizing d with
  | nil => exact ⟨rfl, rfl, rfl⟩
  | cons a l ih =>
    refine .trans ?_ (ih _)
    dsimp only
    split
    · exact (modTiers d rfl rfl).trans (freePhys ..)
    · exact modTiers d rfl rfl

end Dev.SameComb

/-! ## An atomic whose line the comb serves -/

/-- A cached line that is used changes the order of its set. -/
theorem Dev.combAlloc_of_has {d : Dev} {line : Nat} (h : d.combHas line = true) :
    ∃ comb, d.combAlloc line = { d with freeIx := d.freeIx + 1, tiers := { d.tiers with comb := comb } } := by
  unfold Dev.combAlloc
  dsimp only
  rw [Tiers.useLine_hit _ _ h]
  exact ⟨_, rfl⟩

/-- A read that hits changes the order and the counters of the comb and the page's REF. -/
theorem Dev.combFetch_hit_eq {d : Dev} {c a : Nat} (h : d.combHit (a / 512) = true) :
    ∃ fi comb cnt map, (d.combFetch c a).2 = { d with freeIx := fi, tiers := { d.tiers with comb := comb, combCnt := cnt, map := map } } := by
  have htouch (e : Dev) (a : Nat) : ∃ map, e.touch a = { e with tiers := { e.tiers with map := map } } := by
    unfold Dev.touch
    dsimp only
    split
    · exact ⟨_, rfl⟩
    · exact ⟨e.tiers.map, rfl⟩
  obtain ⟨map, hmap⟩ := htouch (d.combUse (a / 512)) (512 * (a / 512))
  rw [Dev.combFetch_of_hit h]
  dsimp only
  rw [hmap]
  unfold Dev.combUse
  dsimp only
  split
  · exact ⟨d.freeIx, d.tiers.comb, _, map, rfl⟩
  · next hres =>
    have hhas : d.combHas (a / 512) = true := (Bool.or_eq_true _ _ ▸ h).resolve_left hres
    obtain ⟨comb, hcomb⟩ := Dev.combAlloc_of_has (d := { d with tiers := { d.tiers with combCnt := bump d.tiers.combCnt (4 * d.combSlice (a / 512)) 1 } }) hhas
    rw [hcomb]
    exact ⟨_, comb, _, map, rfl⟩

theorem Dev.countMem_atomics (d : Dev) (c a n : Nat) (write : Bool) : (d.countMem c a n write).tiers.atomics = d.tiers.atomics := by
  have hwake (e : Dev) (dev : Nat) : (e.wakeDev dev).tiers = e.tiers := by
    unfold Dev.wakeDev
    repeat' split
    all_goals rfl
  have htouch : (d.touch a).tiers.atomics = d.tiers.atomics := by
    unfold Dev.touch
    dsimp only
    split <;> rfl
  rw [← htouch, ← hwake (d.touch a) (d.tm (a / pageBytes)).dev]
  unfold Dev.countMem Dev.countDev
  repeat' split
  all_goals rfl

/-- A write through the comb keeps the order of the atomics. -/
theorem Dev.uniWriteThrough_atomics {d : Dev} (h : noWindows d = true) (p c a : Nat) (bs : List Byte) (poison : Bool) :
    (d.uniWriteThrough p c a bs poison).tiers.atomics = d.tiers.atomics := by
  unfold Dev.uniWriteThrough
  extract_lets e ws _ f
  have hf : f.cores = d.cores ∧ f.ctxs = d.ctxs ∧ f.tiers.atomics = d.tiers.atomics := ⟨rfl, rfl, rfl⟩
  clear_value f
  rw [Dev.staleCheck_of_noWindows (noWindows_countMem (noWindows_of_eq hf.1 hf.2.1 h) c a bs.length true), Dev.countMem_atomics, hf.2.2]

/-- The core whose atomic has the old value: its task goes on (R212). -/
def Core.atomicDone (k : Core) (a : Atomic) (old : Word64) : Core :=
  { k with atom := none, progress := true, tasks := k.tasks.map (fun u =>
      if u.uid = a.task then { u with pc := u.pc + 4, x := if a.xd = 0 then u.x else Store.set 0#64 u.x a.xd old } else u) }

/-- The old value of an atomic. -/
def Dev.atomicOld (d : Dev) (a : Atomic) : Word64 := BitVec.ofNat 64 (leNat (d.memRead a.addr 8))

section
variable {d : Dev} {n : Nat} {a : Atomic} {more : List Nat}

/-- The comb executes an atomic: its bytes replaced, its core gone on (R212). -/
def Dev.atomicDone (d : Dev) (n : Nat) (a : Atomic) : Dev :=
  (d.modCore n (·.atomicDone a (d.atomicOld a))).uniWriteThrough (d.partOf n) (d.ctxOf n) a.addr
    (toLe 8 (atomicNew a.fn (d.atomicOld a) a.operand).toNat) false

/-- The module once a slice took an atomic out of the order and read its line. -/
def Dev.atomicTaken (d : Dev) (n : Nat) (a : Atomic) : Dev :=
  let e := (d.combFetch (d.ctxOf n) a.addr).2
  { e with tiers := { e.tiers with atomics := e.tiers.atomics.filter (· != n),
                                   combCnt := bump e.tiers.combCnt (4 * d.combSlice (a.addr / 512) + 2) 1 } }

theorem Dev.combAtomic_of_miss (ha : (d.core n).atom = some a) (hat : d.tiers.atomics = n :: more) (hmiss : d.combHit (a.addr / 512) = false) :
    d.combAtomic n = (d.combMiss (d.ctxOf n) (a.addr / 512)).2 := by
  unfold Dev.combAtomic
  rw [ha]
  dsimp only
  rw [hat, List.takeWhile_cons_of_neg (by simp), List.any_nil, if_neg Bool.false_ne_true, hmiss, Bool.not_false, if_pos rfl,
    Dev.combFetch_of_miss hmiss]

/-- What taking an atomic changes: the order of the atomics, the free choices, and the comb and the map of the tiers. -/
theorem Dev.atomicTaken_eq (hat : d.tiers.atomics = n :: more) (hhit : d.combHit (a.addr / 512) = true) :
    ∃ fi comb cnt map, d.atomicTaken n a = { d with freeIx := fi, tiers := { d.tiers with
      comb := comb, combCnt := cnt, map := map, atomics := more.filter (· != n) } } := by
  obtain ⟨fi, comb, cnt, map, h⟩ := Dev.combFetch_hit_eq (c := d.ctxOf n) hhit
  have hfilter : d.tiers.atomics.filter (· != n) = more.filter (· != n) := by rw [hat, List.filter_cons_of_neg (by simp)]
  unfold Dev.atomicTaken
  dsimp only
  rw [h]
  dsimp only
  rw [hfilter]
  exact ⟨fi, comb, _, map, rfl⟩

theorem Dev.combAtomic_of_hit (ha : (d.core n).atom = some a) (hat : d.tiers.atomics = n :: more) (hhit : d.combHit (a.addr / 512) = true)
    (hbad : d.memPoisoned a.addr 8 = false) : d.combAtomic n = (d.atomicTaken n a).atomicDone n a := by
  obtain ⟨fi, comb, cnt, map, h⟩ := Dev.atomicTaken_eq (a := a) hat hhit
  have hbad' : (d.atomicTaken n a).memPoisoned a.addr 8 = false := by
    rw [h]
    exact hbad
  unfold Dev.combAtomic
  rw [ha]
  dsimp only
  rw [hat, List.takeWhile_cons_of_neg (by simp), List.any_nil, if_neg Bool.false_ne_true, hhit, Bool.not_true, if_neg Bool.false_ne_true]
  exact if_neg (by exact Bool.eq_false_iff.1 hbad')

end

/-- Settles O30: a fill, and an atomic at the head of the order whose line hits or misses. -/
theorem combFillsAndAtomics : Obligations.CombFillsAndAtomics := by
  unfold Obligations.CombFillsAndAtomics
  intro s n sl line a u more
  refine ⟨fun hsl hf => ?_, fun hn ha hat htasks hu => ⟨fun hhit hbad hwin => ?_, fun hmiss hroom hcold => ?_⟩⟩
  · have hrun : exec (.combFill sl line) s = .next { s with dev := (Dev.combAlloc { s.dev with
        tiers := { s.dev.tiers with fills := s.dev.tiers.fills.erase (sl, line) } } line).settleLeaving } := by
      refine (onUnit_eq (decide_eq_true hsl) _).trans ?_
      dsimp only
      rw [if_pos hf]
    have hset := Dev.SameComb.settleLeaving (Dev.combAlloc { s.dev with tiers := { s.dev.tiers with fills := s.dev.tiers.fills.erase (sl, line) } } line)
    have hmap := Dev.SameMap.settleLeaving (Dev.combAlloc { s.dev with tiers := { s.dev.tiers with fills := s.dev.tiers.fills.erase (sl, line) } } line)
    exact ⟨_, hrun, hmap.mem, hmap.cores, hset.fills.trans (Tiers.useLine_fills ..), (hset.combHas line).trans (Dev.combHas_combAlloc ..)⟩
  · have hrun : exec (.combAtomic n) s = .next { s with dev := (s.dev.atomicTaken n a).atomicDone n a } := by
      refine (onCore_eq hn _).trans ?_
      rw [Dev.combAtomic_of_hit ha hat hhit hbad]
    obtain ⟨fi, comb, cnt, map, h⟩ := Dev.atomicTaken_eq (a := a) hat hhit
    have hcores : (s.dev.atomicTaken n a).cores = s.dev.cores := (congrArg Dev.cores h :)
    have hctxs : (s.dev.atomicTaken n a).ctxs = s.dev.ctxs := (congrArg Dev.ctxs h :)
    have hmem : (s.dev.atomicTaken n a).mem = s.dev.mem := (congrArg Dev.mem h :)
    have hatomics : (s.dev.atomicTaken n a).tiers.atomics = more.filter (· != n) := (congrArg (fun d : Dev => d.tiers.atomics) h :)
    clear h
    generalize s.dev.atomicTaken n a = e at hrun hcores hctxs hmem hatomics
    have hold : e.atomicOld a = s.dev.atomicOld a := by
      unfold Dev.atomicOld Dev.memRead Dev.memByte
      rw [hmem]
    have hcore (m : Nat) : e.core m = s.dev.core m := by rw [Dev.core, hcores, Dev.core]
    have hwin' : noWindows (e.modCore n (·.atomicDone a (e.atomicOld a))) = true :=
      noWindows_modCore (noWindows_of_eq hcores hctxs hwin) n rfl
    obtain ⟨hput, hsame⟩ := Dev.uniWriteThrough_of_noWindows hwin' (e.partOf n) (e.ctxOf n) a.addr (toLe 8 (atomicNew a.fn (e.atomicOld a) a.operand).toNat) false
    have hself : (e.atomicDone n a).core n = (s.dev.core n).atomicDone a (s.dev.atomicOld a) := by
      rw [Dev.atomicDone, Dev.core_of_cores hsame, Dev.modCore_core_self, hcore, hold]
    refine ⟨_, hrun, ⟨rfl, rfl⟩, ?_, ?_, (Dev.uniWriteThrough_atomics hwin' ..).trans hatomics, fun m hm => ?_, ?_, fun z => ?_⟩
    · exact congrArg Core.atom hself
    · refine (congrArg Core.tasks hself).trans ?_
      unfold Core.atomicDone
      dsimp only
      rw [htasks, List.map_singleton, if_pos hu]
      rfl
    · exact (Dev.core_of_cores hsame m).trans ((Dev.modCore_core_ne _ _ hm).trans (hcore m))
    · exact (congrArg Core.pad hself :)
    · refine (Dev.memByte_of_mem hput z).trans ?_
      rw [Dev.memPut_memByte, toLe_length, hold, Dev.memByte_of_mem (Dev.modCore_mem ..), Dev.memByte_of_mem hmem]
      rfl
  · have hrun : exec (.combAtomic n) s = .next { s with dev := (s.dev.combMiss (s.dev.ctxOf n) (a.addr / 512)).2 } := by
      refine (onCore_eq hn _).trans ?_
      rw [Dev.combAtomic_of_miss ha hat hmiss]
    obtain ⟨hreads, _⟩ := s.dev.combMiss_reads (s.dev.ctxOf n) (a.addr / 512)
    refine ⟨_, hrun, ⟨rfl, rfl⟩, hreads.mem, hreads.cores, ?_⟩
    dsimp only
    by_cases hf : s.dev.tiers.fills.contains ((s.dev.combPlace (a.addr / 512)).1, a.addr / 512) = true
    · have hsame : (s.dev.combMiss (s.dev.ctxOf n) (a.addr / 512)).2 = s.dev := by
        unfold Dev.combMiss
        rw [if_pos hf]
      rw [hsame]
      exact ⟨rfl, hf⟩
    · rw [Dev.combMiss_of_free (Bool.eq_false_iff.2 hf) hroom hcold, Dev.countMem_atomics, Dev.countMem_fills]
      exact ⟨rfl, List.contains_iff_mem.2 (List.mem_append_right _ List.mem_cons_self)⟩

end Sys2Proof.Machine
end

section
/-! PROOF. Errors are counted, repaired and retired (R160, R213 to R219). -/

namespace Sys2Proof.Machine
open Sys2Proof Sys2Proof.Machine.Claims

/-! ## Words marked -/

theorem get_markWords (m : Store Bool) (ws : List Nat) (v : Bool) (w : Nat) :
    Store.get false (markWords m ws v) w = if w ∈ ws then v else Store.get false m w := by
  unfold markWords
  induction ws generalizing m with
  | nil => rw [List.foldl_nil, if_neg List.not_mem_nil]
  | cons a ws ih =>
    rw [List.foldl_cons, ih, Store.get_set]
    by_cases hw : w ∈ ws
    · rw [if_pos hw, if_pos (List.mem_cons_of_mem a hw)]
    · rw [if_neg hw]
      by_cases ha : w = a
      · rw [if_pos ha, if_pos (by rw [ha]; exact List.mem_cons_self)]
      · rw [if_neg ha, if_neg (by simp [ha, hw])]

theorem get_markWords_granWords (m : Store Bool) {w i : Nat} (hi : i < 8) : Store.get false (markWords m (granWords w) true) (w + i) = true := by
  rw [get_markWords]
  exact if_pos (List.mem_range'_1.2 ⟨by omega, by omega⟩)

/-! ## One storage each -/

section
variable {s : State} {x g n k : Nat}

/-- The storages of R214's list that the module has. -/
theorem eccSite_exists (h : x < Config.nSupers ∨ 4 ≤ x ∧ x < 9 + Config.nSupers) :
    (decide (x < Config.nSupers) || (decide (4 ≤ x) && decide (x < 9 + Config.nSupers))) = true := by
  rwa [Bool.or_eq_true, Bool.and_eq_true, decide_eq_true_eq, decide_eq_true_eq, decide_eq_true_eq]

theorem patrolScrub_memory (hx : x < Config.nSupers ∨ x = 4) (cor unc : Bool) :
    exec (.patrolScrub ⟨x, 0⟩ g cor unc) s = .next { s with dev := s.dev.scrub x g cor unc } := by
  have h4 := Config.nSupers_le
  have hle : x ≤ 4 := by omega
  rw [exec, execPatrolScrub, State.onUnit]
  dsimp only
  rw [if_pos (eccSite_exists (by omega))]
  clear hx
  interval_cases x <;> rfl

theorem patrolScrub_core : exec (.patrolScrub ⟨6, n⟩ g false true) s = .next { s with dev := s.dev.padError n g } := by
  rw [exec, execPatrolScrub, State.onUnit]
  dsimp only
  rw [if_pos (eccSite_exists (.inr ⟨by omega, by omega⟩))]
  rfl

theorem patrolScrub_comb : exec (.patrolScrub ⟨5, k⟩ g false true) s = .next { s with dev := s.dev.combError k g } := by
  rw [exec, execPatrolScrub, State.onUnit]
  dsimp only
  rw [if_pos (eccSite_exists (.inr ⟨by omega, by omega⟩))]
  rfl

theorem patrolScrub_sched : exec (.patrolScrub ⟨8, 0⟩ g false true) s = .next { s with dev := s.dev.schedError g } := by
  rw [exec, execPatrolScrub, State.onUnit]
  dsimp only
  rw [if_pos (eccSite_exists (.inr ⟨by omega, by omega⟩))]
  rfl

theorem patrolScrub_acc (hx : x < Config.nSupers) : exec (.patrolScrub ⟨9 + x, k⟩ g false true) s = .next { s with dev := s.dev.accError x k g } := by
  have h4 := Config.nSupers_le
  have hle : x ≤ 3 := by omega
  rw [exec, execPatrolScrub, State.onUnit]
  dsimp only
  rw [if_pos (eccSite_exists (.inr ⟨by omega, by omega⟩))]
  clear hx
  interval_cases x <;> rfl

end

/-! ## A granule of a super or of the deep (R213, R214, R216) -/

theorem Dev.uncorrectable_same (d : Dev) (st phys : Nat) (uni : Option Nat) (part ctx lcore : Nat) :
    d.SameButSent (d.uncorrectable st phys uni part ctx lcore) := by
  unfold Dev.uncorrectable
  split
  · exact d.event_same ..
  · exact d.event_same ..

theorem Tiers.addBad_devCnt (t : Tiers) (x row ppn : Nat) : (t.addBad x row ppn).devCnt = t.devCnt := by
  unfold Tiers.addBad
  split <;> rfl

theorem get_devCount (t : Tiers) (dev i : Nat) : Store.get 0#32 (devCount t dev i).devCnt (16 * dev + i) = Store.get 0#32 t.devCnt (16 * dev + i) + 1#32 :=
  Store.get_set_self ..

/-- The module with the row counts of a patrol cycle that begins cleared (R216). -/
def Dev.cycleBegun (d : Dev) (x g : Nat) : Dev :=
  if g = 0 && x < 4 then d.modTiers (fun t => { t with rowErr := t.rowErr.filter (fun e => e.1 / 2 ^ 64 != x) }) else d

theorem Dev.cycleBegun_eq (d : Dev) (x g : Nat) : ∃ rows, d.cycleBegun x g = d.modTiers (fun t => { t with rowErr := rows }) := by
  unfold Dev.cycleBegun
  split
  · exact ⟨_, rfl⟩
  · exact ⟨d.tiers.rowErr, rfl⟩

/-- A corrected error counted, its row qualified when it has three (R213, R216). -/
def Tiers.corrected (t : Tiers) (x g : Nat) : Tiers :=
  if x < 4 then
    let k := x * 2 ^ 64 + Config.rowOf g
    let n := Store.get 0 t.rowErr k + 1
    let t := devCount { t with rowErr := Store.set 0 t.rowErr k n } x 3
    if 3 ≤ n then t.addBad x (Config.rowOf g) (g / 8192) else t
  else devCount t 4 3

theorem Tiers.corrected_devCnt (t : Tiers) {x : Nat} (g : Nat) (hx : x ≤ 4) :
    Store.get 0#32 (t.corrected x g).devCnt (16 * x + 3) = Store.get 0#32 t.devCnt (16 * x + 3) + 1#32 := by
  unfold Tiers.corrected
  by_cases h4 : x < 4
  · rw [if_pos h4]
    dsimp only
    split
    · rw [Tiers.addBad_devCnt]
      exact get_devCount ..
    · exact get_devCount ..
  · rw [if_neg h4, show x = 4 by omega]
    exact get_devCount ..

theorem Dev.scrub_corrected (d : Dev) (x g : Nat) : d.scrub x g true false = (d.cycleBegun x g).modTiers (·.corrected x g) := by
  unfold Dev.scrub Tiers.corrected
  by_cases h4 : x < 4
  · simp only [if_pos h4]
    rfl
  · simp only [if_neg h4]
    rfl

/-- The cursor of a move changes its run. -/
theorem Dev.cursorOf_eq (d : Dev) (r : MoveRun) : ∃ fi runs, (d.cursorOf r).2 = { d with freeIx := fi, tiers := { d.tiers with runs := runs } } := by
  unfold Dev.cursorOf
  split
  · exact ⟨d.freeIx, d.tiers.runs, rfl⟩
  · exact ⟨_, _, rfl⟩

/-- The module with a granule of a mapped page poisoned, a move of the page and its old place judged. -/
def Dev.poisonedAt (d : Dev) (w fi : Nat) (runs : List MoveRun) (old : Store Bool) : Dev :=
  { d with freeIx := fi, memPoison := markWords d.memPoison (granWords w) true, tiers := { d.tiers with runs := runs, oldBad := old } }

/-- An uncorrectable error that is new in a mapped page poisons its granule. -/
theorem Dev.memError_new {d : Dev} {x g : Nat} {e : Nat × TmEntry} (hp : d.pageAt x (g / 8192) = some e)
    (hw : Store.get false d.memPoison (e.1 * pageWords + g % 8192 * 8) = false) :
    ∃ fi runs old, d.memError x g = (true, some e, d.poisonedAt (e.1 * pageWords + g % 8192 * 8) fi runs old) := by
  unfold Dev.memError
  dsimp only
  rw [hp]
  dsimp only
  rw [if_neg (Bool.eq_false_iff.1 hw)]
  split
  · next r _ =>
    obtain ⟨fi, runs, h⟩ := d.cursorOf_eq r
    rw [h]
    split
    · exact ⟨fi, runs, _, rfl⟩
    · exact ⟨fi, runs, d.tiers.oldBad, rfl⟩
  · exact ⟨d.freeIx, d.tiers.runs, d.tiers.oldBad, rfl⟩

theorem Dev.memError_known {d : Dev} {x g : Nat} {e : Nat × TmEntry} (hp : d.pageAt x (g / 8192) = some e)
    (hw : Store.get false d.memPoison (e.1 * pageWords + g % 8192 * 8) = true) : d.memError x g = (false, some e, d) := by
  unfold Dev.memError
  dsimp only
  rw [hp]
  dsimp only
  rw [if_pos hw]

/-- An uncorrectable error counted, its row qualified (R213, R216). -/
def Tiers.uncorrected (t : Tiers) (x g : Nat) : Tiers :=
  let t := devCount t x 4
  if x < 4 then t.addBad x (Config.rowOf g) (g / 8192) else t

theorem Tiers.uncorrected_devCnt (t : Tiers) (x g : Nat) :
    Store.get 0#32 (t.uncorrected x g).devCnt (16 * x + 4) = Store.get 0#32 t.devCnt (16 * x + 4) + 1#32 := by
  unfold Tiers.uncorrected
  dsimp only
  split
  · rw [Tiers.addBad_devCnt]
    exact get_devCount ..
  · exact get_devCount ..

/-- What a read that the ECC could not correct makes of the error `y` (R213, R214, R216). -/
def Dev.errorTold (x g : Nat) (y : Bool × Option (Nat × TmEntry) × Dev) : Dev :=
  if y.1 then
    match y.2.1 with
    | some e => (y.2.2.modTiers (·.uncorrected x g)).uncorrectable x (64 * g) (some (e.1 * pageBytes + g % 8192 * 64)) e.2.part e.2.ctx 0x1FF
    | none => (y.2.2.modTiers (·.uncorrected x g)).uncorrectable x (64 * g) none 0 0 0x1FF
  else y.2.2

theorem Dev.scrub_uncorrected (d : Dev) (x g : Nat) : d.scrub x g false true = Dev.errorTold x g ((d.cycleBegun x g).memError x g) := rfl

/-- A new uncorrectable error in a mapped page: the granule poisoned, the error counted and told. -/
theorem Dev.scrub_new {d : Dev} {x g : Nat} {e : Nat × TmEntry} (hp : d.pageAt x (g / 8192) = some e)
    (hw : Store.get false d.memPoison (e.1 * pageWords + g % 8192 * 8) = false) :
    ∃ fi runs old, Dev.SameButSent (((d.cycleBegun x g).poisonedAt (e.1 * pageWords + g % 8192 * 8) fi runs old).modTiers (·.uncorrected x g))
      (d.scrub x g false true) := by
  obtain ⟨rows, hrows⟩ := d.cycleBegun_eq x g
  obtain ⟨fi, runs, old, h⟩ := Dev.memError_new (d := d.cycleBegun x g) (by rw [hrows]; exact hp) (by rw [hrows]; exact hw)
  rw [Dev.scrub_uncorrected, h]
  refine ⟨fi, runs, old, ?_⟩
  unfold Dev.errorTold
  rw [if_pos rfl]
  exact Dev.uncorrectable_same ..

/-- An error that is known changes nothing but what a new patrol cycle clears. -/
theorem Dev.scrub_known {d : Dev} {x g : Nat} {e : Nat × TmEntry} (hp : d.pageAt x (g / 8192) = some e)
    (hw : Store.get false d.memPoison (e.1 * pageWords + g % 8192 * 8) = true) (hg : g ≠ 0) : d.scrub x g false true = d := by
  have hbegun : d.cycleBegun x g = d := by
    unfold Dev.cycleBegun
    rw [if_neg (by simp [hg])]
  rw [Dev.scrub_uncorrected, hbegun, Dev.memError_known hp hw]
  rfl

/-! ## Words of the other storages (R160, R213, R214, R251) -/

theorem Dev.padError_new {d : Dev} {n g : Nat} (h : Store.get false (d.core n).padPoison g = false) :
    Dev.SameButSent (d.modCore n (fun c => { c with padPoison := Store.set false c.padPoison g true })) (d.padError n g) := by
  unfold Dev.padError
  rw [if_neg (Bool.eq_false_iff.1 h)]
  exact Dev.uncorrectable_same ..

theorem Dev.schedError_new {d : Dev} {g : Nat} (h : Store.get false d.tiers.schedBad g = false) :
    Dev.SameButSent (d.modTiers (fun t => { t with schedBad := Store.set false t.schedBad g true })) (d.schedError g) := by
  unfold Dev.schedError
  rw [if_neg (Bool.eq_false_iff.1 h)]
  exact Dev.uncorrectable_same ..

theorem Dev.accError_new {d : Dev} {x k g : Nat} (h : (d.sup x).accBad.contains (k, g) = false) :
    Dev.SameButSent (d.modSup x (fun u => { u with accBad := (k, g) :: u.accBad })) (d.accError x k g) := by
  unfold Dev.accError
  rw [if_neg (Bool.eq_false_iff.1 h)]
  exact Dev.uncorrectable_same ..

/-- The module with word u of the comb marked, of a resident page or of a cached line. -/
def Dev.combMarked (d : Dev) (u : Nat) : Dev :=
  if d.residentLine (u / 64) then { d with memPoison := Store.set false d.memPoison u true }
  else d.modTiers (fun t => { t with combBad := Store.set false t.combBad u true })

theorem Dev.combMarked_same (d : Dev) (u : Nat) : (d.combMarked u).mem = d.mem ∧ (d.combMarked u).cores = d.cores ∧ (d.combMarked u).wordBad u = true := by
  unfold Dev.combMarked
  split
  · refine ⟨rfl, rfl, ?_⟩
    unfold Dev.wordBad
    rw [Store.get_set_self]
    exact Bool.true_or _
  · refine ⟨rfl, rfl, ?_⟩
    unfold Dev.wordBad
    rw [Bool.or_eq_true]
    exact .inr (show Store.get false (Store.set false d.tiers.combBad u true) u = true from Store.get_set_self ..)

theorem Dev.combError_new {d : Dev} {u g : Nat} (hw : d.wordBad u = false) (hh : d.combHit (u / 64) = true) :
    Dev.SameButSent (d.combMarked u) (d.combError u g) := by
  unfold Dev.combError
  rw [if_neg (by rw [hw, hh]; decide)]
  exact Dev.uncorrectable_same ..

theorem Dev.SameButSent.wordBad {d d' : Dev} (h : d.SameButSent d') (u : Nat) : d'.wordBad u = d.wordBad u := by
  unfold Dev.wordBad
  rw [h.memPoison, h.tiers]

/-! ## Rows repaired and pages retired (R216, R217, R219) -/

/-- The module with page ppn of a super to be retired when it is left. -/
def Dev.retireSoon (d : Dev) (x ppn : Nat) : Dev :=
  d.modTiers (fun t => { t with retireDue := if t.retireDue.contains (x, ppn) then t.retireDue else (x, ppn) :: t.retireDue })

theorem Dev.mem_retireSoon (d : Dev) (x ppn : Nat) : (x, ppn) ∈ (d.retireSoon x ppn).tiers.retireDue := by
  change (x, ppn) ∈ if d.tiers.retireDue.contains (x, ppn) then d.tiers.retireDue else (x, ppn) :: d.tiers.retireDue
  split
  · next h => exact List.contains_iff_mem.1 h
  · exact List.mem_cons_self

/-- A page that is to be retired is, once it is free (R219). -/
theorem Dev.freePhys_retired {d : Dev} {part ctx x ppn : Nat} (h : (x, ppn) ∈ d.tiers.retireDue) :
    (x, ppn) ∈ (d.freePhys part ctx x ppn).tiers.retired := by
  unfold Dev.freePhys
  dsimp only
  split
  · rw [Dev.event_tiers]
    exact List.mem_cons_self
  · next hd => exact absurd (show d.tiers.retireDue.contains (x, ppn) = true from List.contains_iff_mem.2 h) hd

theorem queueMove_retire {d : Dev} {m : Move} (hv : (d.tm m.page).valid = true) (hr : m.retire = true) :
    d.queueMove m = d.modTiers (fun t => { t with queue := m :: t.queue }) := by
  unfold Dev.queueMove
  dsimp only
  rw [if_neg (by rw [hv]; decide), if_pos hr]

/-- The page of a super retires now when nothing uses it, or when it is left (R217, R219). -/
theorem pageRetirement_of_unmapped {s : State} {x ppn : Nat} {r : Nat × Nat × Nat} (hx : x < Config.nSupers)
    (hr : s.dev.tiers.rowBad.find? (fun q => q.1 == x && q.2.2 == ppn && sparesLeft s.nv.remaps x (q.2.1 / 2 ^ 32) == 0) = some r)
    (hret : s.nv.retired.contains (x, ppn) = false) (hp : s.dev.pageAt x ppn = none) :
    exec (.pageRetirement x ppn) s = .next { s with
      nv := { s.nv with retired := s.nv.retired ++ [(x, ppn)] },
      dev := if s.dev.tiers.used.contains (x, ppn) then s.dev.retireSoon x ppn else (s.dev.retireSoon x ppn).freePhys 0 0 x ppn } := by
  rw [exec, execPageRetirement, if_neg (by omega), hr]
  dsimp only
  rw [hp, if_neg (Bool.eq_false_iff.1 hret)]
  dsimp only
  split <;> rfl

theorem pageRetirement_of_mapped {s : State} {x ppn : Nat} {r : Nat × Nat × Nat} {e : Nat × TmEntry} (hx : x < Config.nSupers)
    (hr : s.dev.tiers.rowBad.find? (fun q => q.1 == x && q.2.2 == ppn && sparesLeft s.nv.remaps x (q.2.1 / 2 ^ 32) == 0) = some r)
    (hret : s.nv.retired.contains (x, ppn) = false) (hp : s.dev.pageAt x ppn = some e) (hm : e.2.mst = 0)
    (hq : (s.dev.tiers.queue.any (fun m => m.retire && m.page == e.1)) = false) (hf : s.dev.freeCount (s.dev.addrPart (e.1 * pageBytes)) 4 ≠ 0) :
    exec (.pageRetirement x ppn) s = .next { s with
      nv := { s.nv with retired := s.nv.retired ++ [(x, ppn)] },
      dev := (s.dev.retireSoon x ppn).queueMove { page := e.1, dev := 4, retire := true } } := by
  rw [exec, execPageRetirement, if_neg (by omega), hr]
  dsimp only
  rw [hp, if_neg (Bool.eq_false_iff.1 hret)]
  dsimp only
  rw [if_neg (by rw [hq, hm]; decide), if_neg hf]
  rfl

/-- A row of a super with a spare row left in its bank is repaired (R217). -/
theorem rowRepair_of_spare {s : State} {x bank row : Nat} {r : Nat × Nat × Nat} (hx : x < Config.nSupers)
    (hr : s.dev.tiers.rowBad.find? (fun q => q.1 == x && q.2.1 == bank * 2 ^ 32 + row) = some r) (hs : sparesLeft s.nv.remaps x bank ≠ 0) :
    exec (.rowRepair x bank row) s = .next { s with
      nv := { s.nv with remaps := s.nv.remaps ++ [(x, bank, row)] },
      dev := (s.dev.modTiers (fun t => devCount { t with
        rowBad := t.rowBad.erase r, rowErr := Store.set 0 t.rowErr (x * 2 ^ 64 + (bank * 2 ^ 32 + row)) 0 } x 5)).event 0x0504 0 0 0x1FF [] } := by
  rw [exec, execRowRepair, if_neg (by omega)]
  dsimp only
  rw [hr]
  dsimp only
  rw [if_neg hs]

/-! ## The tier map (R214, R215) -/

theorem Dev.unloadFault_part (d : Dev) (code part ctx : Nat) (detail : List Nat) :
    ((d.unloadFault code part ctx detail).part part).resetDue = true ∧ ((d.unloadFault code part ctx detail).part part).unloadDue = true := by
  unfold Dev.unloadFault
  rw [Dev.modPart_part_self, Dev.contextFault_part_self]
  exact ⟨rfl, rfl⟩

/-- The module with TMHI set. -/
def Dev.withTmhi (d : Dev) (v : BitVec 32) : Dev := { d with tiers := { d.tiers with tmhi := v } }

theorem tmloRead_eq (s : State) :
    exec .tmloRead s = .next { s with dev := s.dev.withTmhi (BitVec.ofNat 32 ((s.dev.tm s.dev.tiers.tmsel).word / 2 ^ 32)) } := by
  rw [exec, execTmloRead, State.onDev]
  rfl

/-- What TMHI does not touch, for any value: the kernel would unfold the numbers of an entry's word. -/
theorem Dev.withTmhi_same (d : Dev) (v : BitVec 32) :
    (d.withTmhi v).tiers.map = d.tiers.map ∧ (d.withTmhi v).mem = d.mem ∧ (d.withTmhi v).tiers.tmhi = v := ⟨rfl, rfl, rfl⟩

/-- Settles O31. -/
theorem errorsAreCountedRepairedAndRetired : Obligations.ErrorsAreCountedRepairedAndRetired := by
  unfold Obligations.ErrorsAreCountedRepairedAndRetired
  intro s x g n k bank row ppn page e r
  refine ⟨fun hx => ⟨?_, fun hp hw => ?_, fun hp hw hg => ?_⟩, fun hn hw => ?_, fun hw hh => ?_, fun hs => ?_, fun hx ha => ?_, fun hx hr hsp => ?_,
    fun hx hr hret => ⟨fun hp hu => ?_, fun hp hu => ?_, fun hp hm hq hf hv => ?_⟩, fun hpg hv => ?_, ?_⟩
  · refine ⟨_, patrolScrub_memory hx true false, ⟨rfl, rfl⟩, ?_⟩
    obtain ⟨rows, hrows⟩ := s.dev.cycleBegun_eq x g
    rw [Dev.scrub_corrected, hrows]
    have h4 := Config.nSupers_le
    exact ⟨rfl, rfl, Tiers.corrected_devCnt _ g (by omega)⟩
  · obtain ⟨fi, runs, old, h⟩ := Dev.scrub_new hp hw
    obtain ⟨rows, hrows⟩ := s.dev.cycleBegun_eq x g
    refine ⟨_, patrolScrub_memory hx false true, ⟨rfl, rfl⟩, h.mem.trans (congrArg Dev.mem hrows :), fun w hw8 => ?_, ?_⟩
    · rw [h.memPoison]
      exact get_markWords_granWords _ hw8
    · rw [h.tiers, hrows]
      exact Tiers.uncorrected_devCnt ..
  · rw [patrolScrub_memory hx, Dev.scrub_known hp hw hg]
  · have h := Dev.padError_new hw
    refine ⟨_, patrolScrub_core, ⟨rfl, rfl⟩, h.mem, ?_, fun m hm => ?_⟩
    · rw [h.core, Dev.modCore_core_self]
    · rw [h.core, Dev.modCore_core_ne _ _ hm]
  · have h := Dev.combError_new (g := g) hw hh
    obtain ⟨hmem, hcores, hbad⟩ := s.dev.combMarked_same k
    exact ⟨_, patrolScrub_comb, ⟨rfl, rfl⟩, h.mem.trans hmem, h.cores.trans hcores, (h.wordBad k).trans hbad⟩
  · have h := Dev.schedError_new hs
    refine ⟨_, patrolScrub_sched, ⟨rfl, rfl⟩, h.mem, h.cores, ?_⟩
    rw [h.tiers]
    exact (show Store.get false (Store.set false s.dev.tiers.schedBad g true) g = true from Store.get_set_self ..)
  · have h := Dev.accError_new ha
    refine ⟨_, patrolScrub_acc hx, ⟨rfl, rfl⟩, h.mem, h.cores, ?_⟩
    rw [h.sup, Dev.modSup_sup_self]
    exact ⟨rfl, rfl⟩
  · exact ⟨_, rowRepair_of_spare hx hr hsp, Dev.event_mem .., rfl, rfl, congrArg Tiers.rowBad (Dev.event_tiers ..)⟩
  · refine ⟨_, pageRetirement_of_unmapped hx hr hret hp, ?_⟩
    rw [if_neg (Bool.eq_false_iff.1 hu)]
    exact ⟨Dev.freePhys_mem .., rfl, rfl, Dev.freePhys_retired (Dev.mem_retireSoon ..)⟩
  · refine ⟨_, pageRetirement_of_unmapped hx hr hret hp, ?_⟩
    rw [if_pos hu]
    exact ⟨rfl, rfl, rfl, Dev.mem_retireSoon ..⟩
  · refine ⟨_, pageRetirement_of_mapped hx hr hret hp hm hq hf, ?_⟩
    rw [queueMove_retire (d := s.dev.retireSoon x ppn) (m := { page := e.1, dev := 4, retire := true }) hv rfl]
    exact ⟨rfl, rfl, rfl, Dev.mem_retireSoon .., rfl⟩
  · refine ⟨_, onUnit_eq (decide_eq_true hpg) _, ⟨rfl, rfl⟩, ?_⟩
    dsimp only
    rw [if_pos hv]
    exact ⟨by simp, Dev.unloadFault_part ..⟩
  · exact ⟨_, tmloRead_eq s, Dev.withTmhi_same ..⟩

end Sys2Proof.Machine
end

section
/-! SUPPORT. What a module's channels have to send only grows, and what a message on a recovery channel adds (R284, R351, R361). -/

namespace Sys2Proof.Machine
open Sys2Proof Sys2Proof.Machine.Claims

/-- What a packet carries of a message: STEP, offset and bytes (R361). -/
def SentPkt.item (k : SentPkt) : Nat × Nat × List Byte := (k.hdr.step, k.hdr.tsw0, k.payload)

/-- What a channel holds to send, in order: unacknowledged, then not yet sent. -/
def SendChan.items (z : SendChan) : List (Nat × Nat × List Byte) := (z.sent ++ z.waiting).map SentPkt.item

/-- A channel that gained `l` at the end of what it holds, or has failed. -/
def SendChan.Gains (l : List (Nat × Nat × List Byte)) (x y : SendChan) : Prop :=
  (x.failed = true → y.failed = true) ∧ (y.failed = true ∨ y.items = x.items ++ l)

theorem SendChan.Gains.of_same {x y : SendChan} (hf : y.failed = x.failed) (hi : y.items = x.items) : x.Gains [] y :=
  ⟨fun h => hf.trans h, .inr (by rw [hi, List.append_nil])⟩

theorem SendChan.Gains.trans {l m : List (Nat × Nat × List Byte)} {x y z : SendChan} (h : SendChan.Gains l x y) (k : SendChan.Gains m y z) :
    SendChan.Gains (l ++ m) x z := by
  refine ⟨fun hf => k.1 (h.1 hf), ?_⟩
  rcases k.2 with hz | hz
  · exact .inl hz
  · exact h.2.imp k.1 (fun hy => by rw [hz, hy, List.append_assoc])

/-- `e` is `d` with more to send: each channel gained what `add` says at its key, or has failed; a partition is at most due a reset. -/
structure Dev.Sends (add : Nat → List (Nat × Nat × List Byte)) (d e : Dev) : Prop where
  chan : ∀ k x, d.sendAt k = some x → ∃ y, e.sendAt k = some y ∧ SendChan.Gains (add k) x y
  part : ∀ q, ∃ b, e.part q = { d.part q with resetDue := b }
  mem : e.mem = d.mem

/-- Nothing gained. -/
def noItems (_ : Nat) : List (Nat × Nat × List Byte) := []

/-- Something gained, whatever it is. -/
def Dev.SendsMore (d e : Dev) : Prop := ∃ add, Dev.Sends add d e

namespace Dev.Sends

section
variable {d e f : Dev} {a b : Nat → List (Nat × Nat × List Byte)}

theorem of_send (hs : e.fab.send = d.fab.send) (hp : ∀ q, e.part q = d.part q) (hm : e.mem = d.mem) : Dev.Sends noItems d e where
  chan k x h := ⟨x, by rw [Dev.sendAt, hs]; exact h, .of_same rfl rfl⟩
  part q := ⟨_, hp q⟩
  mem := hm

theorem refl (d : Dev) : Dev.Sends noItems d d := of_send rfl (fun _ => rfl) rfl

theorem trans (h : Dev.Sends a d e) (k : Dev.Sends b e f) : Dev.Sends (fun i => a i ++ b i) d f where
  chan i x hx := by
    obtain ⟨y, hy, hxy⟩ := h.chan i x hx
    obtain ⟨z, hz, hyz⟩ := k.chan i y hy
    exact ⟨z, hz, hxy.trans hyz⟩
  part q := by
    obtain ⟨a, ha⟩ := h.part q
    obtain ⟨b, hb⟩ := k.part q
    exact ⟨b, by rw [hb, ha]⟩
  mem := k.mem.trans h.mem

theorem quiet (h : Dev.Sends noItems d e) (k : Dev.Sends noItems e f) : Dev.Sends noItems d f := h.trans k

theorem of_carried (h : d.Carried e) : Dev.Sends noItems d e := by
  have hs := h.send
  obtain ⟨⟨tx, fab, chans, bb, fi, ctxs, rfl⟩, _⟩ := h.net
  exact of_send hs (fun _ => rfl) rfl

theorem contextFault (d : Dev) (code part ctx lcore : Nat) (detail : List Nat) :
    Dev.Sends noItems d (d.contextFault code part ctx lcore detail) where
  chan k x h := ⟨x, by rw [Dev.sendAt, Dev.contextFault_sendChans]; exact h, .of_same rfl rfl⟩
  part q := by
    by_cases hq : q = part
    · rw [hq, Dev.contextFault_part_self]
      exact ⟨_, rfl⟩
    · exact ⟨_, Dev.contextFault_part_ne (h := hq) ..⟩
  mem := d.contextFault_mem ..

theorem setSend_get (d : Dev) (p i : Nat) (y : SendChan) : (d.setSend p i y).sendAt (chanKey p i) = some y :=
  Store.get_set_self (none : Option SendChan) d.fab.send (chanKey p i) (some y)

/-- A channel that has become another. -/
theorem setSend {p i : Nat} {y : SendChan} (h : ∀ x, d.sendChan p i = some x → SendChan.Gains [] x y) : Dev.Sends noItems d (d.setSend p i y) where
  chan k x hx := by
    by_cases hk : k = chanKey p i
    · subst hk
      exact ⟨y, setSend_get .., h x hx⟩
    · exact ⟨x, (d.setSend_sendAt_ne y hk).trans hx, .of_same rfl rfl⟩
  part q := ⟨_, rfl⟩
  mem := rfl

theorem modSend (d : Dev) (p i : Nat) {f : SendChan → SendChan} (h : ∀ x, SendChan.Gains [] x (f x)) : Dev.Sends noItems d (d.modSend p i f) := by
  unfold Dev.modSend
  split
  · next x hx => exact setSend (fun z hz => Option.some.inj (hx.symm.trans hz) ▸ h x)
  · exact refl d

theorem askCredit (d : Dev) (p i : Nat) : Dev.Sends noItems d (d.askCredit p i) := by
  unfold Dev.askCredit
  split
  · exact refl d
  split
  · exact refl d
  · exact (of_carried ((Dev.Carried.emitPkt d ..).trans (.modNet ..))).quiet (modSend _ p i (fun _ => .of_same rfl rfl))

/-- The head of a channel goes from those that wait to those that are sent. -/
theorem sendHead {p i : Nat} {x : SendChan} {k : SentPkt} {rest : List SentPkt} (hx : d.sendChan p i = some x) (hw : x.waiting = k :: rest) (n : Nat) :
    Dev.Sends noItems d (Dev.pumpN.sendHead d p i x k rest n) := by
  unfold Dev.pumpN.sendHead
  refine (setSend fun z hz => ?_).quiet (of_carried (Dev.Carried.transmit ..))
  obtain rfl := Option.some.inj (hx.symm.trans hz)
  refine .of_same rfl ?_
  simp [SendChan.items, SentPkt.item, hw]

/-- The keys' records hold no packet. -/
theorem modSec (d : Dev) (f : Security → Security) : Dev.Sends noItems d (d.modSec f) := of_send rfl (fun _ => rfl) rfl

theorem pumpN (f : Nat) (d : Dev) (p i : Nat) : Dev.Sends noItems d (Dev.pumpN f d p i) := by
  induction f generalizing d with
  | zero => exact refl d
  | succ f ih =>
    unfold Dev.pumpN
    split
    · exact refl d
    next x hx =>
    split
    · exact refl d
    next k rest hw =>
    dsimp only
    split
    · split
      · exact askCredit d p i
      · exact refl d
    split
    · exact refl d
    split
    · split
      · split
        · exact refl d
        · exact (modSend d p i fun x => ⟨fun _ => rfl, .inl rfl⟩).quiet (contextFault ..)
      · refine .quiet ?_ (ih _)
        refine .quiet (modSec d _) (sendHead ?_ hw _)
        exact hx
    · refine .quiet ?_ (ih _)
      exact sendHead hx hw _

theorem pump (d : Dev) (p i : Nat) : Dev.Sends noItems d (d.pump p i) := by
  unfold Dev.pump
  split
  · exact pumpN ..
  · exact refl d

/-- A packet formed on a channel. -/
theorem enqueue (d : Dev) (p i : Nat) (k : SentPkt) :
    Dev.Sends (fun j => if j = chanKey p i then [k.item] else []) d (d.enqueue p i k) := by
  have hmod : Dev.Sends (fun j => if j = chanKey p i then [k.item] else []) d
      (d.modSend p i (fun x => { x with waiting := x.waiting ++ [k] })) := by
    unfold Dev.modSend
    split
    · next x hx =>
      refine ⟨fun j z hz => ?_, fun q => ⟨_, rfl⟩, rfl⟩
      dsimp only
      by_cases hj : j = chanKey p i
      · subst hj
        obtain rfl := Option.some.inj (hx.symm.trans hz)
        refine ⟨_, setSend_get .., id, .inr ?_⟩
        rw [if_pos rfl]
        simp [SendChan.items]
      · rw [if_neg hj]
        exact ⟨z, (d.setSend_sendAt_ne _ hj).trans hz, .of_same rfl rfl⟩
    · next hx =>
      refine ⟨fun j z hz => ?_, fun q => ⟨_, rfl⟩, rfl⟩
      rw [if_neg (fun hj => by subst hj; exact absurd (hx.symm.trans hz) (by simp))]
      exact ⟨z, hz, .of_same rfl rfl⟩
  have h := hmod.trans (pump (d.modSend p i (fun x => { x with waiting := x.waiting ++ [k] })) p i)
  simp only [noItems, List.append_nil] at h
  exact h

/-- Packets formed one after the other. -/
theorem enqueues {p i : Nat} {g : Dev → Nat → SentPkt} {it : Nat → Nat × Nat × List Byte} (hg : ∀ d k, (g d k).item = it k) (l : List Nat) (d : Dev) :
    Dev.Sends (fun j => if j = chanKey p i then l.map it else []) d (l.foldl (fun d k => d.enqueue p i (g d k)) d) := by
  induction l generalizing d with
  | nil =>
    simp only [List.map_nil, ite_self]
    exact refl d
  | cons k l ih =>
    have h := (enqueue d p i (g d k)).trans (ih (d.enqueue p i (g d k)))
    rw [hg] at h
    have hadd : (fun j => (if j = chanKey p i then [it k] else []) ++ if j = chanKey p i then l.map it else []) =
        fun j => if j = chanKey p i then (k :: l).map it else [] := by
      funext j
      split <;> rfl
    rw [hadd] at h
    exact h

end

end Dev.Sends

namespace Dev.SendsMore

section
variable {d e f : Dev}

theorem refl (d : Dev) : d.SendsMore d := ⟨_, .refl d⟩

theorem trans (h : d.SendsMore e) (k : e.SendsMore f) : d.SendsMore f := by
  obtain ⟨a, ha⟩ := h
  obtain ⟨b, hb⟩ := k
  exact ⟨_, ha.trans hb⟩

theorem foldl {α : Type} {g : Dev → α → Dev} (h : ∀ d a, Dev.SendsMore d (g d a)) (l : List α) (d : Dev) : d.SendsMore (l.foldl g d) := by
  induction l generalizing d with
  | nil => exact refl d
  | cons a l ih => exact (h d a).trans (ih _)

theorem of_send (hs : e.fab.send = d.fab.send) (hp : ∀ q, e.part q = d.part q) (hm : e.mem = d.mem) : d.SendsMore e := ⟨_, .of_send hs hp hm⟩

theorem event (d : Dev) (code part ctx lcore : Nat) (detail : List Nat) : d.SendsMore (d.event code part ctx lcore detail) :=
  ⟨_, .of_carried (.event d ..)⟩

theorem endJobs (d : Dev) (l : List (Nat × Nat)) (detail : List Nat) :
    d.SendsMore (l.foldl (fun d j => d.endJob j.1 j.2 detail) d) := by
  refine foldl (fun d j => ?_) l d
  exact of_send rfl (fun _ => rfl) rfl

theorem part (h : d.SendsMore e) (q : Nat) : ∃ b, e.part q = { d.part q with resetDue := b } := by
  obtain ⟨a, ha⟩ := h
  exact ha.part q

theorem mem (h : d.SendsMore e) : e.mem = d.mem := by
  obtain ⟨a, ha⟩ := h
  exact ha.mem

end

end Dev.SendsMore

/-! ## A message offered (R361) -/

/-- A channel holds a run of packets, or has failed. -/
def Dev.Holds (d : Dev) (k : Nat) (l : List (Nat × Nat × List Byte)) : Prop :=
  ∃ z, d.sendAt k = some z ∧ (z.failed = true ∨ l <:+: z.items)

theorem offers_of_holds {d : Dev} {p n chan step off : Nat} {bs : List Byte}
    (h : d.Holds (chanKey p (recIx chan n)) (pieces step off bs)) : Offers d p n chan step off bs := by
  obtain ⟨z, hz, hf | ⟨a, e, hi⟩⟩ := h
  · exact ⟨z, [], [], hz, .inl hf⟩
  · exact ⟨z, a, e, hz, .inr hi.symm⟩

theorem Dev.SendsMore.holds {d e : Dev} (h : d.SendsMore e) {k : Nat} {l : List (Nat × Nat × List Byte)} (hd : d.Holds k l) : e.Holds k l := by
  obtain ⟨add, hadd⟩ := h
  obtain ⟨z, hz, hl⟩ := hd
  obtain ⟨y, hy, hfail, hgain⟩ := hadd.chan k z hz
  refine ⟨y, hy, ?_⟩
  rcases hl with hf | hi
  · exact .inl (hfail hf)
  · exact hgain.imp id (fun hp => hi.trans ⟨[], add k, hp.symm⟩)

/-- What one step of a fold offers is offered at its end. -/
theorem Dev.holds_foldl {α : Type} {g : Dev → α → Dev} (hg : ∀ d a, Dev.SendsMore d (g d a)) {l : List α} {a : α} (ha : a ∈ l)
    {k : Nat} {m : List (Nat × Nat × List Byte)} (hm : ∀ d, (g d a).Holds k m) (d : Dev) : (l.foldl g d).Holds k m := by
  induction l generalizing d with
  | nil => exact absurd ha List.not_mem_nil
  | cons b l ih =>
    rcases List.mem_cons.1 ha with rfl | hb
    · exact (Dev.SendsMore.foldl hg l _).holds (hm d)
    · exact ih hb _

/-- The channel that a message goes out on, opened. -/
def Dev.openSend (d : Dev) (p rank chan : Nat) : SendChan :=
  (d.sendChan p (recIx chan rank)).getD { peer := rank, chan := chan, entry := recEntry rank chan 0 }

/-- The packet of piece k of a message. -/
def Dev.recPkt (d : Dev) (p rank chan step offset ph : Nat) (bs : List Byte) (n k : Nat) : SentPkt :=
  { seq := 0, payload := (bs.drop (8192 * k)).take 8192, hdr :=
    { d.hdr p rank chan 1 (step % 2 ^ 32) ph ((bs.drop (8192 * k)).take 8192).length with fin := decide (k + 1 = n), tsw0 := (offset + 8192 * k) % 2 ^ 32 } }

theorem Dev.recSend_eq (d : Dev) (p rank chan step offset : Nat) (bs : List Byte) : d.recSend p rank chan step offset bs =
    if (d.openSend p rank chan).failed then d
    else (List.range (max 1 (ceilDiv bs.length 8192))).foldl (fun e k => e.enqueue p (recIx chan rank)
      (e.recPkt p rank chan step offset (d.partStamp p).phase bs (max 1 (ceilDiv bs.length 8192)) k))
        (d.setSend p (recIx chan rank) (d.openSend p rank chan)) := rfl

theorem Dev.openSend_sends (d : Dev) (p rank chan : Nat) : Dev.Sends noItems d (d.setSend p (recIx chan rank) (d.openSend p rank chan)) := by
  refine .setSend fun x hx => ?_
  unfold Dev.openSend
  rw [hx]
  exact .of_same rfl rfl

theorem Dev.pieces_sends (d : Dev) (p rank chan step offset ph : Nat) (bs : List Byte) :
    Dev.Sends (fun j => if j = chanKey p (recIx chan rank) then pieces step offset bs else []) d
      ((List.range (max 1 (ceilDiv bs.length 8192))).foldl (fun e k => e.enqueue p (recIx chan rank)
        (e.recPkt p rank chan step offset ph bs (max 1 (ceilDiv bs.length 8192)) k)) d) :=
  Dev.Sends.enqueues (g := fun e k => e.recPkt p rank chan step offset ph bs (max 1 (ceilDiv bs.length 8192)) k) (fun _ _ => rfl) _ d

theorem Dev.SendsMore.recSend (d : Dev) (p rank chan step offset : Nat) (bs : List Byte) :
    d.SendsMore (d.recSend p rank chan step offset bs) := by
  rw [Dev.recSend_eq]
  split
  · exact .refl d
  · exact ⟨_, (d.openSend_sends ..).trans (Dev.pieces_sends ..)⟩

/-- A message sent is offered (R361). -/
theorem Dev.recSend_holds (d : Dev) (p rank chan step offset : Nat) (bs : List Byte) :
    (d.recSend p rank chan step offset bs).Holds (chanKey p (recIx chan rank)) (pieces step offset bs) := by
  rw [Dev.recSend_eq]
  split
  · next hf =>
    unfold Dev.openSend at hf
    cases hx : d.sendChan p (recIx chan rank) with
    | none =>
      rw [hx] at hf
      exact absurd hf Bool.false_ne_true
    | some x =>
      rw [hx] at hf
      exact ⟨x, hx, .inl hf⟩
  · obtain ⟨y, hy, _, hgain⟩ := (Dev.pieces_sends (d.setSend p (recIx chan rank) (d.openSend p rank chan)) p rank chan step offset
      (d.partStamp p).phase bs).chan _ _ (Dev.Sends.setSend_get ..)
    rw [if_pos rfl] at hgain
    exact ⟨y, hy, hgain.imp id (fun hi => ⟨(d.openSend p rank chan).items, [], by rw [hi, List.append_nil]⟩)⟩

end Sys2Proof.Machine
end

section
/-! PROOF. Mirrored records, parity, and the life of a base (R351, R352, R359 to R362). -/

namespace Sys2Proof.Machine
open Sys2Proof Sys2Proof.Machine.Claims

/-! ## Bytes folded into parity (R360) -/

theorem getD_cons_sub {b : Byte} {bs : List Byte} {z k : Nat} (h : k < z) : (b :: bs).getD (z - k) 0#8 = bs.getD (z - (k + 1)) 0#8 := by
  rw [show z - k = z - (k + 1) + 1 by omega, List.getD_cons_succ]

theorem get_foldParity_from (m : Store Byte) (a k : Nat) (bs : List Byte) (z : Nat) :
    Store.get 0#8 ((bs.zipIdx k).foldl (fun m y => Store.modify 0#8 m (a + y.2) (· ^^^ y.1)) m) z =
      if a + k ≤ z ∧ z < a + k + bs.length then Store.get 0#8 m z ^^^ bs.getD (z - (a + k)) 0#8 else Store.get 0#8 m z := by
  induction bs generalizing m k with
  | nil => rw [if_neg (by simp)]; rfl
  | cons b bs ih =>
    rw [List.zipIdx_cons, List.foldl_cons, ih, Store.modify, Store.get_set, List.length_cons]
    rcases Nat.lt_trichotomy z (a + k) with h | h | h
    · rw [if_neg (by omega), if_neg (by omega), if_neg (by omega)]
    · rw [if_neg (by omega), if_pos h, if_pos (by omega), h, Nat.sub_self, List.getD_cons_zero]
    · rw [if_neg (c := z = a + k) (by omega), getD_cons_sub h]
      by_cases hz : z < a + k + (bs.length + 1)
      · rw [if_pos (by omega), if_pos (by omega), Nat.add_assoc]
      · rw [if_neg (by omega), if_neg (by omega)]

theorem get_foldParity (m : Store Byte) (a : Nat) (bs : List Byte) (z : Nat) : Store.get 0#8 (foldParity m a bs) z =
    if a ≤ z ∧ z < a + bs.length then Store.get 0#8 m z ^^^ bs.getD (z - a) 0#8 else Store.get 0#8 m z :=
  get_foldParity_from m a 0 bs z

theorem getD_scaleBytes {f : Byte} {bs : List Byte} {i : Nat} (h : i < bs.length) : (scaleBytes f bs).getD i 0#8 = gfMul f (bs.getD i 0#8) := by
  rw [scaleBytes, List.getD_eq_getElem _ _ (by rwa [List.length_map]), List.getElem_map, List.getD_eq_getElem _ _ h]

theorem get_foldParity_scaled (m : Store Byte) (a : Nat) (f : Byte) (bs : List Byte) (z : Nat) : Store.get 0#8 (foldParity m a (scaleBytes f bs)) z =
    if a ≤ z ∧ z < a + bs.length then Store.get 0#8 m z ^^^ gfMul f (bs.getD (z - a) 0#8) else Store.get 0#8 m z := by
  rw [get_foldParity, show (scaleBytes f bs).length = bs.length from List.length_map ..]
  by_cases hz : a ≤ z ∧ z < a + bs.length
  · rw [if_pos hz, if_pos hz, getD_scaleBytes (by omega)]
  · rw [if_neg hz, if_neg hz]

/-- A receipt that is due: the place and the bytes that it folds (R360). -/
theorem Dev.parityReceipt_of_due {d : Dev} {p m step k off : Nat} {bs : List Byte} (hb : (d.part p).bst ≠ 0) (hs : step = (d.part p).bbuild)
    (hm : m < rcGsize (d.part p).rcfg) (hk : k < rcD (d.part p).rcfg) (hl : off + bs.length ≤ rcC (d.part p).rcfg * gib)
    (hrow : (decide (rcRow (d.part p).rcfg m k = rcPos (d.part p).rcfg) || (rcCode (d.part p).rcfg == 2 &&
      decide ((rcRow (d.part p).rcfg m k + 1) % max 1 (rcGsize (d.part p).rcfg) = rcPos (d.part p).rcfg))) = true)
    (hg : (d.part p).parityGot.contains (m, k) = false) :
    d.parityReceipt p m step k off bs = d.modPart p (fun y => { y with
      parity := if decide (rcRow (d.part p).rcfg m k = rcPos (d.part p).rcfg) then foldParity y.parity off bs
        else foldParity y.parity (2 ^ 40 + off) (scaleBytes (gfPow k) bs),
      parityGot := if off + bs.length = rcC (d.part p).rcfg * gib then y.parityGot ++ [(m, k)] else y.parityGot }) := by
  unfold Dev.parityReceipt
  dsimp only
  rw [if_neg]
  rw [hrow, hg, decide_eq_false hb, decide_eq_false (Nat.not_le.2 hm), decide_eq_false (Nat.not_le.2 hk), decide_eq_false (Nat.not_lt.2 hl), hs, bne_self_eq_false]
  decide

theorem modPart_parts_restored (d : Dev) (p : Nat) (f : Partition → Partition) : ({ d.modPart p f with parts := d.parts } : Dev) = d := rfl

/-! ## A predecessor's records (R351, R352) -/

theorem words_mod {ws : List Nat} (hl : ws.length = 8) (h : ∀ w ∈ ws, w < 2 ^ 32) : (List.range 8).map (fun i => ws.getD i 0 % 2 ^ 32) = ws := by
  refine List.ext_getElem (by simp [hl]) fun i h1 h2 => ?_
  rw [List.getElem_map, List.getElem_range, List.getD_eq_getElem _ _ h2, Nat.mod_eq_of_lt (h _ (List.getElem_mem h2))]

/-- A mirror with a record joined to it. -/
def joinMirror (old : List LogRecord) (r : LogRecord) : List LogRecord :=
  (if lrType r = 5 then old.filter (fun e => !(lrType e == 2 && decide (lrStep r < lrStep e))) else old) ++ [r]

theorem Dev.mirrorRecord_of_predecessor {d : Dev} {p rank : Nat} (r : LogRecord) (hs : (d.part p).started = true)
    (hp : (d.part p).predecessors.contains rank = true) : d.mirrorRecord p rank r =
      d.modPart p (fun y => { y with mirror := Store.set [] y.mirror rank (joinMirror (Store.get [] (d.part p).mirror rank) r) }) := by
  unfold Dev.mirrorRecord
  dsimp only
  rw [if_neg (by rw [hs, hp]; decide)]
  rfl

theorem recordsAndParityAreReceived : RecordsAndParityAreReceived := by
  intro s p rank m step k off ws bs hp
  refine ⟨fun hs hpre hl hw => ?_, fun hpre => ?_, ?_, ?_⟩
  · refine ⟨_, onUnit_eq (decide_eq_true hp) _, ⟨rfl, rfl⟩, ?_⟩
    dsimp only
    rw [words_mod hl hw, Dev.mirrorRecord_of_predecessor ws hs hpre, Dev.modPart_part_self]
    refine ⟨modPart_parts_restored .., fun h5 => ?_, fun h5 => ?_, rfl, fun r hr => Store.get_set_ne _ _ _ hr⟩
    · dsimp only
      rw [Store.get_set_self, joinMirror, if_neg h5]
    · dsimp only
      rw [Store.get_set_self, joinMirror, if_pos h5]
  · refine (onUnit_eq (decide_eq_true hp) _).trans ?_
    unfold Dev.mirrorRecord
    dsimp only
    rw [if_pos (by rw [hpre]; simp)]
  · intro x hb hst hm hk hl hrow hg
    refine ⟨_, onUnit_eq (decide_eq_true hp) _, ⟨rfl, rfl⟩, ?_⟩
    dsimp only
    rw [Dev.parityReceipt_of_due hb hst hm hk hl (by rw [decide_eq_true hrow]; rfl) hg, Dev.modPart_part_self]
    refine ⟨modPart_parts_restored .., fun z => ?_, rfl⟩
    dsimp only
    rw [if_pos (decide_eq_true hrow)]
    exact get_foldParity ..
  · intro x hb hst hm hk hl hcode hne hrow hg
    have hG : max 1 (rcGsize x.rcfg) = rcGsize x.rcfg := Nat.max_eq_right (by omega)
    refine ⟨_, onUnit_eq (decide_eq_true hp) _, ⟨rfl, rfl⟩, ?_⟩
    dsimp only
    rw [Dev.parityReceipt_of_due hb hst hm hk hl (by rw [hG, decide_eq_true hrow, hcode]; simp) hg, Dev.modPart_part_self]
    refine ⟨modPart_parts_restored .., fun z => ?_⟩
    dsimp only
    rw [if_neg (by rw [decide_eq_true_eq]; exact hne), get_foldParity_scaled, Nat.add_comm (2 ^ 40) off, ← Nat.sub_sub]

/-! ## The life of a base (R359 to R362) -/

/-- The chunks of a base sent to the members that keep their parity (R360). -/
def Dev.sendChunk (p : Nat) (x : Partition) (b : BaseSlot) (d : Dev) (k : Nat) : Dev :=
  let chunk := slice b.bytes (k * rcC x.rcfg * gib) (rcC x.rcfg * gib)
  let j := rcRow x.rcfg (rcPos x.rcfg) k
  let d := d.recSend p (x.groupRank j) 4065 b.step 0 chunk
  if rcCode x.rcfg = 2 then d.recSend p (x.groupRank ((j + 1) % max 1 (rcGsize x.rcfg))) 4065 b.step 0 chunk else d

theorem Dev.sendChunk_more (p : Nat) (x : Partition) (b : BaseSlot) (d : Dev) (k : Nat) : d.SendsMore (Dev.sendChunk p x b d k) := by
  unfold Dev.sendChunk
  dsimp only
  split
  · exact (Dev.SendsMore.recSend ..).trans (.recSend ..)
  · exact .recSend ..

theorem Dev.sendChunk_holds (p : Nat) (x : Partition) (b : BaseSlot) (d : Dev) (k : Nat) :
    (Dev.sendChunk p x b d k).Holds (chanKey p (recIx 4065 (x.groupRank (rcRow x.rcfg (rcPos x.rcfg) k))))
      (pieces b.step 0 (slice b.bytes (k * rcC x.rcfg * gib) (rcC x.rcfg * gib))) := by
  unfold Dev.sendChunk
  dsimp only
  split
  · exact (Dev.SendsMore.recSend ..).holds (Dev.recSend_holds ..)
  · exact Dev.recSend_holds ..

theorem Dev.sendChunk_holds_next (p : Nat) {x : Partition} (b : BaseSlot) (d : Dev) (k : Nat) (h : rcCode x.rcfg = 2) :
    (Dev.sendChunk p x b d k).Holds (chanKey p (recIx 4065 (x.groupRank ((rcRow x.rcfg (rcPos x.rcfg) k + 1) % max 1 (rcGsize x.rcfg)))))
      (pieces b.step 0 (slice b.bytes (k * rcC x.rcfg * gib) (rcC x.rcfg * gib))) := by
  unfold Dev.sendChunk
  dsimp only
  rw [if_pos h]
  exact Dev.recSend_holds ..

/-- The digest list to every successor. -/
def Dev.sendDigests (p : Nat) (b : BaseSlot) (d : Dev) (r : Nat) : Dev := d.recSend p r 4066 b.step 0 b.digests.flatten

theorem Dev.sendDigests_more (p : Nat) (b : BaseSlot) (d : Dev) (r : Nat) : d.SendsMore (Dev.sendDigests p b d r) := .recSend ..

theorem Dev.sendDigests_holds (p : Nat) (b : BaseSlot) (d : Dev) (r : Nat) :
    (Dev.sendDigests p b d r).Holds (chanKey p (recIx 4066 r)) (pieces b.step 0 b.digests.flatten) := Dev.recSend_holds ..

/-- The base that is copied, with its digests (R359). -/
def Dev.copied (d : Dev) (p : Nat) (b : BaseSlot) : BaseSlot :=
  ({ b with states := d.shardRegions p b.step } : BaseSlot).withDigests (d.part p).swid (d.part p).rank (rcBlen (d.part p).rcfg)

/-- The module with a base copied, before it sends anything. -/
def Dev.copyHeld (d : Dev) (p : Nat) (c : BaseSlot) : Dev :=
  ((d.unpin ((d.part p).basePins.map (fun y => (y.1, y.2.1)))).modPart p (fun y => { y with bst := 2, baseNew := some c, basePins := [] })).event
    0x0B01 p 0 0x1FF ([0, 0] ++ c.listDigest)

theorem Dev.baseCopied_eq {d : Dev} {p : Nat} {b : BaseSlot} (hn : (d.part p).baseNew = some b) (hb : (d.part p).bst = 1) : d.baseCopied p =
    (List.range (rcD (d.part p).rcfg)).foldl (Dev.sendChunk p (d.part p) (d.copied p b))
      ((d.part p).successors.foldl (Dev.sendDigests p (d.copied p b)) (d.copyHeld p (d.copied p b))) := by
  unfold Dev.baseCopied
  dsimp only
  rw [hn]
  dsimp only
  rw [if_neg (by rw [hb]; decide)]
  rfl

theorem Dev.copyHeld_part (d : Dev) (p : Nat) (c : BaseSlot) :
    (d.copyHeld p c).part p = { d.part p with bst := 2, baseNew := some c, basePins := [] } ∧ (d.copyHeld p c).mem = d.mem := by
  obtain ⟨ctxs, hu⟩ := d.unpin_eq ((d.part p).basePins.map (fun y => (y.1, y.2.1)))
  unfold Dev.copyHeld
  rw [Dev.event_part, Dev.modPart_part_self, Dev.event_mem, hu]
  exact ⟨rfl, rfl⟩

/-- The module with a base complete, before it records it. -/
def Dev.baseKept (d : Dev) (p : Nat) (b : BaseSlot) : Dev :=
  d.modPart p (fun y => { y with
    bst := 0, bbuild := 0, blast := b.step, baseOld := some b, baseNew := y.baseOld, parity := y.parityOld, parityOld := y.parity,
    parityGot := [], baseDue := [], recCnt := bump y.recCnt 17 1 })

/-- The log with a record appended, before it is sent (R350). -/
def Dev.logged (d : Dev) (p type step : Nat) (tsw : List Nat) : Dev :=
  d.modPart p (fun y => { y with
    log := y.log ++ [[type * 2 ^ 24 + (d.part p).epoch % 2 ^ 16, (d.part p).lsn, step] ++ (List.range 5).map (fun i => tsw.getD i 0)],
    lsn := y.lsn + 1, logFull := decide (logDepth ≤ y.log.length + 1) })

theorem Dev.logAppend_sends (d : Dev) (p type step : Nat) (tsw : List Nat) : (d.logged p type step tsw).SendsMore (d.logAppend p type step tsw) := by
  have hfold (l : List Nat) (off : Nat) (bs : List Byte) (e : Dev) : e.SendsMore (l.foldl (fun d r => d.recSend p r 4064 step off bs) e) := by
    refine Dev.SendsMore.foldl (fun d r => ?_) l e
    exact .recSend ..
  unfold Dev.logAppend
  dsimp only
  split
  · exact (hfold ..).trans (.recSend ..)
  · exact hfold ..

/-- A base that is complete is the partition's last (R359). -/
theorem baseComplete_of_held {d : Dev} {p : Nat} {b : BaseSlot} (hn : (d.part p).baseNew = some b) (hb : (d.part p).bst = 2)
    (he : (expected (d.part p).rcfg).all (d.part p).parityGot.contains = true) (h5 : d.recIdle p 4065 = true) (h6 : d.recIdle p 4066 = true) :
    ((d.baseKept p b).logged p 6 b.step [b.lsnb, 0, 0, 0, 0]).SendsMore (d.baseComplete p) := by
  unfold Dev.baseComplete
  dsimp only
  rw [hn]
  dsimp only
  rw [if_neg (by rw [hb, he, h5, h6]; decide)]
  exact (Dev.logAppend_sends ..).trans ((Dev.SendsMore.event ..).trans (.endJobs ..))

/-- The module that has told the other members of a group that it abandons the base. -/
def Dev.abandonTold (d : Dev) (p : Nat) : Dev :=
  (d.part p).baseDue.foldl (fun e j => e.endJob j.1 j.2 [0x0B04, (d.part p).bbuild])
    ((d.part p).others.foldl (fun e r => e.recSend p r 4065 (d.part p).bbuild 0xFFFFFFFF []) (d.unpin ((d.part p).basePins.map (fun y => (y.1, y.2.1)))))

theorem Dev.abandonBase_eq {d : Dev} {p : Nat} (h : (d.part p).bst ≠ 0) : d.abandonBase p = ((d.abandonTold p).modPart p
    (fun y => { y with bst := 0, bbuild := 0, baseNew := none, parity := [], parityGot := [], basePins := [], baseDue := [] })).event 0x0B04 p 0 0x1FF [] := by
  unfold Dev.abandonBase Dev.abandonTold
  dsimp only
  rw [if_neg h]

/-- Every other member is told, and nothing else of the partition changes but a reset that may be due. -/
theorem Dev.abandonTold_tells (d : Dev) (p : Nat) : d.SendsMore (d.abandonTold p) ∧
    ∀ n ∈ (d.part p).others, (d.abandonTold p).Holds (chanKey p (recIx 4065 n)) (pieces (d.part p).bbuild 0xFFFFFFFF []) := by
  have hunpin : d.SendsMore (d.unpin ((d.part p).basePins.map (fun y => (y.1, y.2.1)))) := by
    obtain ⟨ctxs, hu⟩ := d.unpin_eq ((d.part p).basePins.map (fun y => (y.1, y.2.1)))
    rw [hu]
    exact .of_send rfl (fun _ => rfl) rfl
  have htell (e : Dev) (r : Nat) : e.SendsMore (e.recSend p r 4065 (d.part p).bbuild 0xFFFFFFFF []) := .recSend ..
  refine ⟨(hunpin.trans (.foldl htell _ _)).trans (.endJobs ..), fun n hn => (Dev.SendsMore.endJobs ..).holds ?_⟩
  exact Dev.holds_foldl htell hn (fun e => e.recSend_holds ..) _

theorem basesAreCopiedCompletedOrAbandoned : BasesAreCopiedCompletedOrAbandoned := by
  intro s p r b hp x
  refine ⟨fun hn hb => ?_, fun hn hb he h5 h6 => ?_, fun hb a ha => ?_⟩
  · obtain ⟨hpart, hmem⟩ := s.dev.copyHeld_part p (s.dev.copied p b)
    have hlists := Dev.SendsMore.foldl (Dev.sendDigests_more p (s.dev.copied p b)) x.successors (s.dev.copyHeld p (s.dev.copied p b))
    have hchunks := Dev.SendsMore.foldl (Dev.sendChunk_more p x (s.dev.copied p b)) (List.range (rcD x.rcfg))
      (x.successors.foldl (Dev.sendDigests p (s.dev.copied p b)) (s.dev.copyHeld p (s.dev.copied p b)))
    have hsent := hlists.trans hchunks
    obtain ⟨due, hafter⟩ := hsent.part p
    rw [hpart] at hafter
    have hrun : exec (.baseCopied p) s = .next { s with dev := s.dev.baseCopied p } := onUnit_eq (decide_eq_true hp) _
    rw [Dev.baseCopied_eq hn hb] at hrun
    refine ⟨_, s.dev.copied p b, hrun, ⟨rfl, rfl⟩, hsent.mem.trans hmem, congrArg Partition.bst hafter, congrArg Partition.baseNew hafter, rfl, ?_,
      (congrArg Partition.basePins hafter :), (congrArg Partition.blast hafter :), fun n hn => ?_, fun k hk => ⟨?_, fun hcode => ?_⟩⟩
    · exact (List.length_map ..).trans List.length_range
    · exact offers_of_holds (hchunks.holds (Dev.holds_foldl (Dev.sendDigests_more p _) hn (fun e => Dev.sendDigests_holds ..) _))
    · exact offers_of_holds (Dev.holds_foldl (Dev.sendChunk_more p x _) (List.mem_range.2 hk) (fun e => Dev.sendChunk_holds ..) _)
    · exact offers_of_holds (Dev.holds_foldl (Dev.sendChunk_more p x _) (List.mem_range.2 hk) (fun e => Dev.sendChunk_holds_next p _ e k hcode) _)
  · have h := baseComplete_of_held hn hb he h5 h6
    obtain ⟨due, hafter⟩ := h.part p
    rw [Dev.logged, Dev.modPart_part_self, Dev.baseKept, Dev.modPart_part_self] at hafter
    exact ⟨_, onUnit_eq (decide_eq_true hp) _, ⟨rfl, rfl⟩, h.mem, congrArg Partition.bst hafter, congrArg Partition.blast hafter,
      congrArg Partition.baseOld hafter, congrArg Partition.parityOld hafter⟩
  · have hrun : exec (.baseAbandonment p a) s = .next { s with dev := s.dev.abandonBase p } := by
      rcases ha with rfl | ⟨rfl, hr⟩
      · exact onUnit_eq (decide_eq_true hp) _
      · refine (onUnit_eq (decide_eq_true hp) _).trans ?_
        dsimp only
        rw [if_pos hr]
    obtain ⟨htold, hothers⟩ := s.dev.abandonTold_tells p
    obtain ⟨due, hafter⟩ := htold.part p
    rw [Dev.abandonBase_eq hb] at hrun
    refine ⟨_, hrun, ⟨rfl, rfl⟩, ?_, ?_⟩
    · rw [Dev.event_mem]
      exact htold.mem
    · rw [Dev.event_part, Dev.modPart_part_self, hafter]
      refine ⟨rfl, rfl, rfl, rfl, fun n hn => offers_of_holds ?_⟩
      refine (Dev.SendsMore.event ..).holds ?_
      exact hothers n hn

/-- Settles O53. -/
theorem recoveryRecordsParityAndBases : Obligations.RecoveryRecordsParityAndBases :=
  ⟨recordsAndParityAreReceived, basesAreCopiedCompletedOrAbandoned⟩

end Sys2Proof.Machine
end

section
/-! SUPPORT. What only a job's commands change: the command queues, the mode of the partitions, and of each partition its job. -/

namespace Sys2Proof.Machine
open Sys2Proof Sys2Proof.Machine.Claims

/-- Of a partition what START, CAP, DISCARD, the load commands and the resets decide, and nothing else changes. -/
structure JobState where
  image : Option Image
  load : Option LoadSession
  started : Bool
  stopped : Bool
  seed : Nat
  s0 : Nat
  epoch : Nat
  capped : Nat
  beat : Nat
  prstn : BitVec 32
  restored : Option Nat
  replay : Option Replay

def Partition.job (x : Partition) : JobState :=
  ⟨x.image, x.load, x.started, x.stopped, x.seed, x.s0, x.epoch, x.capped, x.beat, x.prstn, x.restored, x.replay⟩

section
variable {x y : Partition} (h : x.job = y.job)
include h

theorem Partition.image_of_job : x.image = y.image := congrArg JobState.image h
theorem Partition.load_of_job : x.load = y.load := congrArg JobState.load h
theorem Partition.started_of_job : x.started = y.started := congrArg JobState.started h
theorem Partition.stopped_of_job : x.stopped = y.stopped := congrArg JobState.stopped h
theorem Partition.seed_of_job : x.seed = y.seed := congrArg JobState.seed h
theorem Partition.s0_of_job : x.s0 = y.s0 := congrArg JobState.s0 h
theorem Partition.epoch_of_job : x.epoch = y.epoch := congrArg JobState.epoch h
theorem Partition.capped_of_job : x.capped = y.capped := congrArg JobState.capped h
theorem Partition.beat_of_job : x.beat = y.beat := congrArg JobState.beat h
theorem Partition.prstn_of_job : x.prstn = y.prstn := congrArg JobState.prstn h
theorem Partition.restored_of_job : x.restored = y.restored := congrArg JobState.restored h
theorem Partition.replay_of_job : x.replay = y.replay := congrArg JobState.replay h

end

/-- The command queues, the mode of the partitions, and each partition's job. -/
def Dev.stem (d : Dev) : Store CmdQueue × Bool × (Nat → JobState) := (d.queues, d.brd.pcfgMode, fun q => (d.part q).job)

section
variable {d e : Dev}

theorem stem_of_eq (hq : e.queues = d.queues) (hm : e.brd.pcfgMode = d.brd.pcfgMode) (hp : ∀ p, (e.part p).job = (d.part p).job) : e.stem = d.stem :=
  Prod.ext hq (Prod.ext hm (funext hp))

theorem queues_of_stem (h : e.stem = d.stem) : e.queues = d.queues := congrArg Prod.fst h
theorem mode_of_stem (h : e.stem = d.stem) : e.brd.pcfgMode = d.brd.pcfgMode := congrArg (fun x => x.2.1) h
theorem job_of_stem (h : e.stem = d.stem) (p : Nat) : (e.part p).job = (d.part p).job := congrFun (congrArg (fun x => x.2.2) h) p
theorem partCores_of_stem (h : e.stem = d.stem) (p : Nat) : e.partCores p = d.partCores p := by
  rw [Dev.partCores, Dev.partBase, Dev.partSize, mode_of_stem h]
  rfl

theorem stem_of_net (h : d.SameButNet e) : e.stem = d.stem := by
  obtain ⟨⟨tx, fab, chans, bb, fi, ctxs, rfl⟩, _⟩ := h
  rfl

theorem stem_of_sent (h : d.SameButSent e) : e.stem = d.stem :=
  stem_of_eq h.queues (congrArg Board.pcfgMode h.brd) (fun p => congrArg Partition.job (h.part p))

end

@[simp] theorem foldl_stem {α : Type} {f : Dev → α → Dev} (l : List α) (d : Dev) (h : ∀ d a, (f d a).stem = d.stem) :
    (l.foldl f d).stem = d.stem := foldl_keeps Dev.stem h l d

/-! ## The state's own operations -/

section
variable (d : Dev)

@[simp] theorem Dev.setCore_stem (n : Nat) (c : Core) : (d.setCore n c).stem = d.stem := rfl
@[simp] theorem Dev.modCore_stem (n : Nat) (f : Core → Core) : (d.modCore n f).stem = d.stem := rfl
@[simp] theorem Dev.modCtx_stem (c : Nat) (f : Context → Context) : (d.modCtx c f).stem = d.stem := rfl
@[simp] theorem Dev.modSup_stem (x : Nat) (f : Super → Super) : (d.modSup x f).stem = d.stem := rfl
@[simp] theorem Dev.modTiers_stem (f : Tiers → Tiers) : (d.modTiers f).stem = d.stem := rfl
@[simp] theorem Dev.modFab_stem (f : Fabric → Fabric) : (d.modFab f).stem = d.stem := rfl
@[simp] theorem Dev.modSec_stem (f : Security → Security) : (d.modSec f).stem = d.stem := rfl
@[simp] theorem Dev.modFrame_stem (k : Nat) (f : FrameSt → FrameSt) : (d.modFrame k f).stem = d.stem := rfl
@[simp] theorem Dev.send_stem (t : Tx) : (d.send t).stem = d.stem := rfl
@[simp] theorem Dev.memPut_stem (a : Nat) (bs : List Byte) (poison : Bool) : (d.memPut a bs poison).stem = d.stem := rfl

theorem Dev.modBrd_stem {f : Board → Board} (h : (f d.brd).pcfgMode = d.brd.pcfgMode) : (d.modBrd f).stem = d.stem :=
  stem_of_eq rfl h fun _ => rfl

theorem Dev.modPart_stem (p : Nat) {f : Partition → Partition} (h : (f (d.part p)).job = (d.part p).job) : (d.modPart p f).stem = d.stem := by
  refine stem_of_eq rfl rfl fun q => ?_
  by_cases hq : q = p
  · rw [hq, Dev.modPart_part_self, h]
  · rw [Dev.modPart_part_ne _ _ hq]

@[simp] theorem Dev.event_stem (code part ctx lcore : Nat) (detail : List Nat) : (d.event code part ctx lcore detail).stem = d.stem :=
  stem_of_sent (d.event_same ..)

@[simp] theorem Dev.raise_stem (r : Raise) : (d.raise r).stem = d.stem := stem_of_sent (d.raise_same r)

@[simp] theorem Dev.contextFault_stem (code part ctx lcore : Nat) (detail : List Nat) : (d.contextFault code part ctx lcore detail).stem = d.stem :=
  (Dev.modPart_stem _ _ rfl).trans (d.event_stem ..)

@[simp] theorem Dev.combDrop_stem (a n : Nat) : (d.combDrop a n).stem = d.stem := by
  refine foldl_stem _ _ fun d k => ?_
  rfl

@[simp] theorem Dev.emitPkt_stem (net pcp dst : Nat) (h : DataHdr) (payload : List Byte) : (d.emitPkt net pcp dst h payload).stem = d.stem :=
  stem_of_net (Dev.Carried.emitPkt d ..).net

@[simp] theorem Dev.transmit_stem (p : Nat) (x : SendChan) (k : SentPkt) (rtx : Bool) : (d.transmit p x k rtx).stem = d.stem :=
  stem_of_net (Dev.Carried.transmit d ..).net

end

@[simp] theorem Dev.setCtx_stem (d : Dev) (c : Nat) (x : Context) : (d.setCtx c x).stem = d.stem := by
  rfl

@[simp] theorem Dev.modNet_stem (d : Dev) (n : Nat) (f : Network → Network) : (d.modNet n f).stem = d.stem := by
  unfold Dev.modNet
  split <;> rfl

@[simp] theorem Dev.fresh32_stem (d : Dev) : (d.fresh32).2.stem = d.stem := by
  rfl

@[simp] theorem Dev.freshChoice_stem (d : Dev) (n : Nat) : (d.freshChoice n).2.stem = d.stem := by
  rfl

@[simp] theorem Dev.freshCycles_stem (d : Dev) : (d.freshCycles).2.stem = d.stem := by
  rfl

@[simp] theorem Dev.setTm_stem (d : Dev) (page : Nat) (e : TmEntry) : (d.setTm page e).stem = d.stem := by
  rfl

@[simp] theorem Dev.acct_stem (d : Dev) (c : Nat) (f : Account → Account) : (d.acct c f).stem = d.stem := by
  rfl

@[simp] theorem Dev.wakeDev_stem (d : Dev) (dev : Nat) : (d.wakeDev dev).stem = d.stem := by
  unfold Dev.wakeDev
  repeat' split
  all_goals rfl

@[simp] theorem Dev.countDev_stem (d : Dev) (c : Nat) (dev : Nat) (n : Nat) (write : Bool) : (d.countDev c dev n write).stem = d.stem := by
  unfold Dev.countDev
  repeat' split
  all_goals simp

@[simp] theorem Dev.touch_stem (d : Dev) (a : Nat) : (d.touch a).stem = d.stem := by
  unfold Dev.touch
  dsimp only
  split <;> rfl

@[simp] theorem Dev.freePage_stem (d : Dev) (p : Nat) (dev : Nat) : (d.freePage p dev).2.stem = d.stem := by
  unfold Dev.freePage
  dsimp only
  split <;> simp

@[simp] theorem Dev.freePhys_stem (d : Dev) (part : Nat) (ctx : Nat) (dev : Nat) (ppn : Nat) : (d.freePhys part ctx dev ppn).stem = d.stem := by
  unfold Dev.freePhys
  dsimp only
  split <;> simp

@[simp] theorem Dev.settleLeaving_stem (d : Dev) : (d.settleLeaving).stem = d.stem := by
  simp [Dev.settleLeaving, apply_ite Dev.stem]

@[simp] theorem Dev.fillBuckets_stem (d : Dev) (p : Nat) : (d.fillBuckets p).stem = d.stem := by
  have hsup (l : List Nat) (e : Dev) : (l.foldl (fun d x => if d.brd.pcfgMode && x != p then d else d.modSup x (fun u => { u with bucket := u.bucket.full })) e).stem = e.stem := by
    refine foldl_stem _ _ fun d x => ?_
    split <;> rfl
  exact (Dev.modBrd_stem _ rfl).trans (hsup ..)

@[simp] theorem Dev.emptyCore_stem (d : Dev) (n : Nat) : (d.emptyCore n).stem = d.stem := by
  rfl

@[simp] theorem Dev.endJob_stem (d : Dev) (q : Nat) (cseq : Nat) (detail : List Nat) : (d.endJob q cseq detail).stem = d.stem := by
  rfl

@[simp] theorem Dev.acctNet_stem (d : Dev) (c : Nat) (net : Nat) (n : Nat) (tx : Bool) : (d.acctNet c net n tx).stem = d.stem := by
  rfl

@[simp] theorem Dev.setSend_stem (d : Dev) (p : Nat) (i : Nat) (x : SendChan) : (d.setSend p i x).stem = d.stem := by
  rfl

@[simp] theorem Dev.setRecv_stem (d : Dev) (p : Nat) (i : Nat) (x : RecvChan) : (d.setRecv p i x).stem = d.stem := by
  rfl

@[simp] theorem Dev.modSend_stem (d : Dev) (p : Nat) (i : Nat) (f : SendChan → SendChan) : (d.modSend p i f).stem = d.stem := by
  unfold Dev.modSend
  split <;> simp

@[simp] theorem Dev.modRecv_stem (d : Dev) (p : Nat) (i : Nat) (f : RecvChan → RecvChan) : (d.modRecv p i f).stem = d.stem := by
  unfold Dev.modRecv
  split <;> simp

@[simp] theorem Dev.acctChan_stem (d : Dev) (chan : Nat) (entry : List Nat) (net n : Nat) (tx : Bool) :
    (d.acctChan chan entry net n tx).stem = d.stem := by
  unfold Dev.acctChan
  split <;> simp

@[simp] theorem Dev.dropChannels_stem (d : Dev) (p : Nat) : (d.dropChannels p).stem = d.stem := by
  simp [Dev.dropChannels]

@[simp] theorem Dev.wakeFrame_stem (d : Dev) (f : Nat) : (d.wakeFrame f).stem = d.stem := by
  unfold Dev.wakeFrame
  split <;> simp

@[simp] theorem Dev.wakeFrames_stem (d : Dev) (p : Nat) : (d.wakeFrames p).stem = d.stem := by
  simp [Dev.wakeFrames]

@[simp] theorem Dev.scheduleDue_stem (d : Dev) (c : Nat) : (d.scheduleDue c).stem = d.stem := by
  unfold Dev.scheduleDue
  dsimp only
  split <;> simp

@[simp] theorem Dev.eraseKey_stem (d : Dev) (kind : Nat) (ix : Nat) : (d.eraseKey kind ix).stem = d.stem := by
  rfl

@[simp] theorem Dev.cause_stem (d : Dev) (c unit : Nat) : (d.cause c unit).stem = d.stem := by
  refine Dev.modBrd_stem _ ?_
  split <;> rfl

@[simp] theorem Dev.dropMoves_stem (d : Dev) (p : Nat) : (d.dropMoves p).stem = d.stem := by
  rfl

@[simp] theorem Dev.degrade_stem (d : Dev) (c unit : Nat) : (d.degrade c unit).stem = d.stem :=
  (Dev.event_stem ..).trans ((Dev.modBrd_stem _ rfl).trans (d.cause_stem ..))

@[simp] theorem Dev.unpin_stem (d : Dev) (l : List (Nat × Nat)) : (d.unpin l).stem = d.stem := by
  exact foldl_stem _ _ fun _ _ => rfl

@[simp] theorem Dev.takePins_stem (d : Dev) (l : List (Nat × Nat)) : (d.takePins l).stem = d.stem := by
  exact foldl_stem _ _ fun _ _ => rfl

@[simp] theorem Dev.askCredit_stem (d : Dev) (p i : Nat) : (d.askCredit p i).stem = d.stem := by
  unfold Dev.askCredit
  repeat' split
  all_goals simp

@[simp] theorem Dev.sendHead_stem (d : Dev) (p i : Nat) (x : SendChan) (k : SentPkt) (rest : List SentPkt) (n : Nat) :
    (Dev.pumpN.sendHead d p i x k rest n).stem = d.stem := by
  simp [Dev.pumpN.sendHead]

@[simp] theorem Dev.pumpN_stem (f : Nat) (d : Dev) (p i : Nat) : (Dev.pumpN f d p i).stem = d.stem := by
  induction f generalizing d with
  | zero => rfl
  | succ f ih =>
    unfold Dev.pumpN
    dsimp only
    repeat' split
    all_goals simp [ih]

@[simp] theorem Dev.pump_stem (d : Dev) (p i : Nat) : (d.pump p i).stem = d.stem := by
  unfold Dev.pump
  split <;> simp

@[simp] theorem Dev.enqueue_stem (d : Dev) (p i : Nat) (k : SentPkt) : (d.enqueue p i k).stem = d.stem := by
  simp [Dev.enqueue]

@[simp] theorem Dev.recSend_stem (d : Dev) (p rank chan step offset : Nat) (bs : List Byte) :
    (d.recSend p rank chan step offset bs).stem = d.stem := by
  unfold Dev.recSend
  dsimp only
  split
  · rfl
  · rw [foldl_stem _ _ fun d k => Dev.enqueue_stem ..]
    simp

@[simp] theorem Dev.grantTurns_stem (net f : Nat) (d : Dev) (l : List Nat) : (Dev.grantTurns net f d l).1.stem = d.stem := by
  induction f generalizing d l with
  | zero => rfl
  | succ f ih =>
    unfold Dev.grantTurns
    split
    · rfl
    · simp [ih]

@[simp] theorem Dev.powerFrames_stem (d : Dev) (p : Nat) (on : Bool) : (d.powerFrames p on).stem = d.stem := by
  exact foldl_stem _ _ fun _ _ => rfl

@[simp] theorem Dev.firstResident_stem (d : Dev) (p : Nat) : (d.firstResident p).stem = d.stem := by
  unfold Dev.firstResident
  split
  · refine (Dev.modPart_stem _ _ rfl).trans ((Dev.modCtx_stem ..).trans (foldl_stem _ _ fun _ _ => ?_))
    rfl
  · rfl

@[simp] theorem Dev.contextsToStart_stem (d : Dev) (p : Nat) : (d.contextsToStart p).stem = d.stem := by
  refine (Dev.modPart_stem _ _ rfl).trans ((foldl_stem _ _ fun _ _ => ?_).trans (foldl_stem _ _ fun d n => d.emptyCore_stem n))
  rfl

@[simp] theorem Dev.firstTasks_stem (d : Dev) (p : Nat) : (d.firstTasks p).stem = d.stem := by
  unfold Dev.firstTasks
  split
  · rfl
  · exact foldl_stem _ _ fun _ _ => rfl

@[simp] theorem Dev.sendAck_stem (d : Dev) (p : Nat) (i : Nat) (net : Nat) : (d.sendAck p i net).stem = d.stem := by
  unfold Dev.sendAck
  dsimp only
  split <;> simp

@[simp] theorem Dev.serveWants_stem (d : Dev) (net : Nat) : (d.serveWants net).stem = d.stem := by
  unfold Dev.serveWants
  dsimp only
  rw [foldl_stem _ _ fun d k => ?_, Dev.grantTurns_stem]
  split <;> simp

@[simp] theorem Dev.abandonBase_stem (d : Dev) (p : Nat) : (d.abandonBase p).stem = d.stem := by
  unfold Dev.abandonBase
  dsimp only
  split
  · rfl
  · refine (Dev.event_stem ..).trans ((Dev.modPart_stem _ _ rfl).trans ((foldl_stem _ _ fun d j => d.endJob_stem ..).trans ?_))
    simp

@[simp] theorem Dev.logAppend_stem (d : Dev) (p type step : Nat) (tsw : List Nat) : (d.logAppend p type step tsw).stem = d.stem := by
  unfold Dev.logAppend
  dsimp only
  split
  · exact (Dev.recSend_stem ..).trans ((foldl_stem _ _ fun _ _ => Dev.recSend_stem ..).trans (Dev.modPart_stem _ _ rfl))
  · exact (foldl_stem _ _ fun _ _ => Dev.recSend_stem ..).trans (Dev.modPart_stem _ _ rfl)

@[simp] theorem Dev.push_stem (d : Dev) (p c i v : Nat) (adj : Int) (adjOnly first : Bool) : (d.push p c i v adj adjOnly first).stem = d.stem := by
  refine foldl_stem _ _ fun d r => ?_
  split
  · rfl
  · next e _ =>
    dsimp only
    split
    · exact (Dev.enqueue_stem ..).trans (by split <;> [exact Dev.modPart_stem _ _ rfl; rfl])
    · exact (Dev.enqueue_stem ..).trans ((Dev.enqueue_stem ..).trans (by split <;> [exact Dev.modPart_stem _ _ rfl; rfl]))

@[simp] theorem Dev.applyRuns_stem (d : Dev) (p : Nat) : (d.applyRuns p).stem = d.stem := by
  refine foldl_stem _ _ fun d c => ?_
  split <;> rfl

@[simp] theorem Dev.takePages_stem (p dev n : Nat) (d : Dev) : (Dev.takePages p dev n d).2.stem = d.stem := by
  obtain ⟨tiers, fi, h⟩ := Dev.takePages_eq p dev n d
  rw [h]
  rfl

@[simp] theorem Dev.reservePages_stem (p dev n : Nat) (d : Dev) : (Dev.reservePages p dev n d).stem = d.stem :=
  (Dev.modPart_stem _ _ rfl).trans (d.takePages_stem p dev n)

@[simp] theorem Dev.coresToStart_stem (d : Dev) (p : Nat) : (d.coresToStart p).stem = d.stem := by
  unfold Dev.coresToStart
  dsimp only
  have hstart (f : Nat → Core → Core) (e : Dev) (l : List Nat) : (l.foldl (fun e n => e.modCore n (f n)) e).stem = e.stem :=
    foldl_stem _ _ fun _ _ => rfl
  rw [hstart, Dev.fillBuckets_stem]
  refine (foldl_stem _ _ ?_).trans (d.contextsToStart_stem p)
  exact fun _ _ => rfl

@[simp] theorem Dev.dueBase_stem (nv : NonVol) (d : Dev) (p b : Nat) : (Dev.dueBase nv d p b).stem = d.stem := by
  unfold Dev.dueBase
  dsimp only
  split
  · rfl
  split
  · exact (Dev.modPart_stem _ _ rfl).trans (d.takePins_stem _)
  · exact (Dev.event_stem ..).trans ((Dev.modPart_stem _ _ rfl).trans (foldl_stem _ _ fun d j => d.endJob_stem ..))

@[simp] theorem Dev.stampsAt_stem (d : Dev) (p : Nat) (step : Nat) : (d.stampsAt p step).stem = d.stem := by
  exact foldl_stem _ _ fun _ _ => rfl

@[simp] theorem Dev.beginStep_stem (d : Dev) (p : Nat) (step : Nat) : (d.beginStep p step).stem = d.stem := by
  unfold Dev.beginStep
  dsimp only
  repeat' split
  all_goals simp

@[simp] theorem Dev.cutLog_stem (d : Dev) (p c epoch revert : Nat) : (d.cutLog p c epoch revert).stem = d.stem :=
  (Dev.logAppend_stem ..).trans (Dev.modPart_stem _ _ rfl)

@[simp] theorem Dev.setCursors_stem (d : Dev) (p : Nat) (cur : Nat → Nat) (mb : Nat → Nat) : (d.setCursors p cur mb).stem = d.stem := by
  exact foldl_stem _ _ fun _ _ => rfl

end Sys2Proof.Machine
end

section
/-! SUPPORT. Writes of the units, channels, slices and the pieces of a partition reset leave the queues and the jobs as they are. -/

namespace Sys2Proof.Machine
open Sys2Proof Sys2Proof.Machine.Claims

/-! ## Writes into the unified range -/

section
variable (d : Dev)

@[simp] theorem Dev.abort_stem (n uid : Nat) (fi : FaultInfo) : (d.abort n uid fi).stem = d.stem := by
  unfold Dev.abort
  exact (Dev.contextFault_stem ..).trans rfl

@[simp] theorem Dev.abortSaved_stem (c n uid : Nat) (fi : FaultInfo) : (d.abortSaved c n uid fi).stem = d.stem := by
  unfold Dev.abortSaved
  exact (Dev.contextFault_stem ..).trans rfl

@[simp] theorem Dev.staleCheck_stem (p a n : Nat) : (d.staleCheck p a n).stem = d.stem := by
  unfold Dev.staleCheck
  refine (foldl_stem _ _ fun e c => ?_).trans (foldl_stem _ _ fun e x => ?_)
  · split
    · exact foldl_stem _ _ fun e x => foldl_stem _ _ fun e y => Dev.abortSaved_stem ..
    · rfl
  · split
    · exact foldl_stem _ _ fun e y => Dev.abort_stem ..
    · rfl

@[simp] theorem Dev.countMem_stem (c a n : Nat) (write : Bool) : (d.countMem c a n write).stem = d.stem :=
  (Dev.countDev_stem ..).trans (d.touch_stem a)

@[simp] theorem Dev.unitWrite_stem (p a : Nat) (bs : List Byte) (poison : Bool) : (d.unitWrite p a bs poison).stem = d.stem := by
  simp [Dev.unitWrite]

@[simp] theorem Dev.uniWrite_stem (p c a : Nat) (bs : List Byte) (poison : Bool) : (d.uniWrite p c a bs poison).stem = d.stem := by
  simp [Dev.uniWrite]

@[simp] theorem Dev.setStatus_stem (t : List Byte) (i vn : Nat) (oldv : Bool) (adj0 adj1 : Int) (cstep : Nat) :
    (d.setStatus t i vn oldv adj0 adj1 cstep).stem = d.stem := Dev.unitWrite_stem ..

@[simp] theorem Dev.writeCopies_stem (c i s : Nat) (m : Nat → Nat) (poison : Bool) : (d.writeCopies c i s m poison).1.stem = d.stem := by
  unfold Dev.writeCopies
  dsimp only
  refine (foldl_stem _ _ fun d r => ?_).trans (foldl_stem _ _ fun d r => ?_)
  · exact d.unitWrite_stem ..
  · exact d.unitWrite_stem ..

end

/-! ## Slices and channels at the start of a step -/

section
variable (d : Dev)

@[simp] theorem Dev.encodeVersion_stem (p v : Nat) (keepAdj : Bool) : (d.encodeVersion p v keepAdj).stem = d.stem := by
  refine foldl_stem _ _ fun d c => foldl_stem _ _ fun d i => ?_
  split
  · exact (Dev.push_stem ..).trans ((Dev.setStatus_stem ..).trans ((Dev.modSup_stem ..).trans (d.writeCopies_stem ..)))
  · rfl

@[simp] theorem Dev.replicasBefore_stem (p v : Nat) : (d.replicasBefore p v).stem = d.stem := by
  refine foldl_stem _ _ fun d c => foldl_stem _ _ fun d i => ?_
  split
  · rfl
  · exact d.setStatus_stem ..

/-- The window and the ring of a receive channel at its opening. -/
theorem Dev.openReceive_stem (p step : Nat) (e : Nat × List Nat) (x : RecvChan) (oldw : Nat) :
    ((let d := d.setRecv p e.1 x
      let d := if ceDest e.2 = 0 then
          d.unitWrite p (ceBase e.2) (toLe 4 0 ++ toLe 4 oldw ++ List.replicate 120 0#8) false
        else if ceDest e.2 = 4 then
          (List.range (ceEbytes e.2)).foldl (fun d k => d.unitWrite p (ceBase e.2 + k * ceSlotb e.2) (List.replicate 16 0#8) false) d
        else d
      d.sendAck p e.1 (ceNet e.2)) : Dev).stem = d.stem := by
  refine (Dev.sendAck_stem ..).trans ?_
  split
  · exact Dev.unitWrite_stem ..
  split
  · exact foldl_stem _ _ fun d k => d.unitWrite_stem ..
  · rfl

@[simp] theorem Dev.openChannels_stem (p step : Nat) : (d.openChannels p step).stem = d.stem := by
  refine (Dev.serveWants_stem ..).trans ((Dev.serveWants_stem ..).trans ?_)
  refine (foldl_stem _ _ fun d e => d.openReceive_stem p step e _ _).trans ?_
  refine (foldl_stem _ _ fun d e => d.setSend_stem ..).trans (d.dropChannels_stem p)

end

/-! ## The pieces of a partition reset -/

section
variable (d : Dev)

@[simp] theorem Dev.clearRegion_stem (c r : Nat) : (d.clearRegion c r).stem = d.stem :=
  (Dev.uniWrite_stem ..).trans (foldl_stem _ _ fun d i => d.uniWrite_stem ..)

@[simp] theorem Dev.clearStash_stem (p : Nat) : (d.clearStash p).stem = d.stem := by
  refine foldl_stem _ _ fun d c => (Dev.modCtx_stem ..).trans ?_
  split
  · rfl
  · exact foldl_stem _ _ fun d r => (Dev.uniWrite_stem ..).trans (d.clearRegion_stem c r)

@[simp] theorem Dev.resetSlices_stem (p : Nat) : (d.resetSlices p).stem = d.stem := by
  refine (foldl_stem _ _ fun d c => foldl_stem _ _ fun d i => d.setStatus_stem ..).trans ((Dev.modPart_stem _ _ rfl).trans ?_)
  exact foldl_stem _ _ fun d x => d.modSup_stem ..

@[simp] theorem Dev.drainPart_stem (p : Nat) : (d.drainPart p).stem = d.stem := by
  unfold Dev.drainPart
  dsimp only
  refine (Dev.modTiers_stem ..).trans ((foldl_stem _ _ fun d n => ?_).trans ((foldl_stem _ _ fun d x => foldl_stem _ _ fun d a => ?_).trans
    (foldl_stem _ _ fun d n => foldl_stem _ _ fun d q => foldl_stem _ _ fun d r => ?_)))
  · split
    · rfl
    · split <;> rfl
  · split
    · rfl
    · exact (Dev.combDrop_stem ..).trans (foldl_stem _ _ fun d k => d.memPut_stem ..)
  · split
    · exact (Dev.countMem_stem ..).trans ((Dev.combDrop_stem ..).trans (d.memPut_stem ..))
    · rfl

@[simp] theorem failPosition_stem (x : Mod) (phys : Nat) : (failPosition x phys).2.stem = x.2.stem := Dev.modBrd_stem _ rfl

@[simp] theorem substitute_stem (x : Mod) (n : Nat) : (substitute x n).2.2.stem = x.2.stem := Dev.modBrd_stem _ rfl

@[simp] theorem spareCore_stem (p : Nat) (x : Mod) (y : Nat × Nat) : (spareCore p x y).2.stem = x.2.stem := by
  unfold spareCore
  dsimp only
  split
  · exact (Dev.degrade_stem ..).trans (substitute_stem ..)
  · exact (Dev.event_stem ..).trans (substitute_stem ..)

theorem foldl_mod_stem {α : Type} {f : Mod → α → Mod} (h : ∀ x a, (f x a).2.stem = x.2.stem) (l : List α) (x : Mod) : (l.foldl f x).2.stem = x.2.stem :=
  foldl_keeps (fun x : Mod => x.2.stem) h l x

@[simp] theorem sparing_stem (x : Mod) (p : Nat) (bist : List Nat) : (sparing x p bist).2.stem = x.2.stem := by
  unfold sparing
  dsimp only
  refine (foldl_mod_stem (spareCore_stem p) _ _).trans ((foldl_mod_stem failPosition_stem _ _).trans ((Dev.modBrd_stem _ rfl).trans ?_))
  exact foldl_stem _ _ fun d k => d.raise_stem _

end

/-! ## The pieces of a restored base -/

section
variable (d : Dev)

/-- The bytes of a base restored: each owned slice's state and status. -/
theorem Dev.restoreSlices_stem (p : Nat) (b : BaseSlot) (l : List ((Nat × Nat) × Nat)) :
    (l.foldl (fun (d : Dev) y =>
      let t := d.sliceTab y.1.1
      let i := y.1.2
      let adj := signed 8 ((b.entries.getD y.2 []).getD 2 0)
      let keep := fun k => if k = b.step % 2 then adj else d.slAdj t i k
      (d.unitWrite p (slState t i + b.step % 2 * stateBytes t i) (b.states.getD y.2 []) false).setStatus t i b.step false (keep 0) (keep 1)
        b.step) d).stem = d.stem :=
  foldl_stem _ _ fun d y => (Dev.setStatus_stem ..).trans (d.unitWrite_stem ..)

end

end Sys2Proof.Machine
end

section
/-! PROOF. START, CAP, STEPPARAM and SNAPSHOT (R315 to R318). -/

namespace Sys2Proof.Machine
open Sys2Proof Sys2Proof.Machine.Claims

/-! ## A background command accepted -/

/-- The module that has remembered the job of a command. -/
def Dev.withJob (d : Dev) (j : Job) : Dev := { d with jobs := d.jobs ++ [j] }

@[simp] theorem Dev.withJob_part (d : Dev) (j : Job) (p : Nat) : (d.withJob j).part p = d.part p := rfl
@[simp] theorem Dev.withJob_queues (d : Dev) (j : Job) : (d.withJob j).queues = d.queues := rfl
@[simp] theorem Dev.withJob_tx (d : Dev) (j : Job) : (d.withJob j).tx = d.tx := rfl
@[simp] theorem Dev.withJob_mem (d : Dev) (j : Job) : (d.withJob j).mem = d.mem := rfl
@[simp] theorem Dev.withJob_jobs (d : Dev) (j : Job) : (d.withJob j).jobs = d.jobs ++ [j] := rfl

/-- The job that a background command leaves. -/
def Cmd.job (c : Cmd) (part ctx : Nat) (done : Bool) (status : Nat) (detail : List Nat) (lock : Bool) : Job :=
  { queue := c.hdr.queue, cseq := c.hdr.seq, opcode := c.hdr.opcode, part := part, ctx := ctx, done := done, status := status, detail := detail, lock := lock }

theorem accepted_of_job {s t : State} {q : Nat} {c : Cmd} {l : List Job} {j : Job} (hans : Answered s t q c 0x0001 []) (hjobs : t.dev.jobs = l ++ [j])
    (hq : j.queue = c.hdr.queue) (hc : j.cseq = c.hdr.seq) (ho : j.opcode = c.hdr.opcode) : Accepted s t q c :=
  ⟨hans, j, by rw [hjobs, List.getLast?_concat], hq, hc, ho⟩

/-- A device command that leaves a job. -/
theorem devOp_accepts {s : State} {q op : Nat} {c : Cmd} {f : Cmd → Dev → Ans × Dev} {d : Dev} {P : State → Prop} (part ctx : Nat) (done : Bool)
    (status : Nat) (detail : List Nat) (lock : Bool) (h : itsTurn s q op c) (hf : f c (served s q) = d.startJob c part ctx done status detail lock)
    (hq : d.queues = s.dev.queues)
    (hP : Accepted s { s with dev := (d.withJob (c.job part ctx done status detail lock)).answer q c { status := 0x0001 } } q c →
      P { s with dev := (d.withJob (c.job part ctx done status detail lock)).answer q c { status := 0x0001 } }) :
    ∃ t, devOp s q op f = .next t ∧ P t := by
  refine devOp_gives_of_queues (a := { status := 0x0001 }) (d := d.withJob (c.job part ctx done status detail lock)) h hf rfl rfl hq fun hans => hP ?_
  exact accepted_of_job hans (Dev.answer_jobs ..) rfl rfl rfl

/-! ## What the job's own functions leave (R144, R350) -/

section
variable (d : Dev)

/-- A record appended changes the log and what the partition still has to send. -/
theorem Dev.logAppend_part_self (p type step : Nat) (tsw : List Nat) :
    ∃ log lsn full due, (d.logAppend p type step tsw).part p = { d.part p with log := log, lsn := lsn, logFull := full, resetDue := due } := by
  obtain ⟨due, h⟩ := (d.logAppend_sends p type step tsw).part p
  rw [Dev.logged, Dev.modPart_part_self] at h
  exact ⟨_, _, _, due, h⟩

/-- The end of a replay is told to its job only. -/
theorem Dev.endReplay_parts (p result step : Nat) : (d.endReplay p result step).queues = d.queues ∧
    ((d.endReplay p result step).part p).capped = (d.part p).capped := by
  unfold Dev.endReplay
  split
  · exact ⟨rfl, rfl⟩
  · refine ⟨rfl, ?_⟩
    change ((d.modPart p (fun x => { x with replay := none })).part p).capped = _
    rw [Dev.modPart_part_self]

/-- cap(s) taken: the version is the partition's capped one (R316). -/
theorem Dev.takeCap_capped (nv : NonVol) (p s : Nat) : (Dev.takeCap nv d p s).queues = d.queues ∧ ((Dev.takeCap nv d p s).part p).capped = s := by
  have hkept (e : Dev) (h : e.stem = (d.modPart p (fun x => { x with capped := s, fpSum := Store.set 0 x.fpSum s 0, ovfn := Store.set 0 x.ovfn s 0 })).stem) :
      e.queues = d.queues ∧ (e.part p).capped = s := by
    have hq := queues_of_stem h
    refine ⟨hq, (Partition.capped_of_job (job_of_stem h p)).trans ?_⟩
    rw [Dev.modPart_part_self]
  unfold Dev.takeCap
  dsimp only
  split
  · split
    · obtain ⟨hq, hc⟩ := hkept _ ((Dev.dueBase_stem nv _ p s).trans (Dev.logAppend_stem ..))
      exact ⟨(Dev.endReplay_parts ..).1.trans hq, (Dev.endReplay_parts ..).2.trans hc⟩
    · exact hkept _ ((Dev.dueBase_stem nv _ p s).trans (Dev.logAppend_stem ..))
  · exact hkept _ ((Dev.dueBase_stem nv _ p s).trans (Dev.logAppend_stem ..))

@[simp] theorem Dev.recordParams_stem (p : Nat) (l : List StepParam) : (d.recordParams p l).stem = d.stem :=
  foldl_stem _ _ fun d q => (Dev.logAppend_stem ..).trans (Dev.modPart_stem _ _ rfl)

/-- The parameters of a STEPPARAM join those that are recorded (R317). -/
theorem Dev.recordParams_params (p : Nat) (l : List StepParam) : ((d.recordParams p l).part p).params = (d.part p).params ++ l := by
  unfold Dev.recordParams
  induction l generalizing d with
  | nil => exact (List.append_nil _).symm
  | cons q l ih =>
    rw [List.foldl_cons, ih]
    obtain ⟨log, lsn, full, due, h⟩ := (d.modPart p (fun x => { x with params := x.params ++ [q] })).logAppend_part_self p 3 (d.newestStep p)
      [q.grp + 16 * q.idx, q.fstep, q.logged, 0, 0]
    rw [h, Dev.modPart_part_self, List.append_assoc]
    rfl

theorem Partition.capStatus_next {x : Partition} {t : Nat} (hs : x.started = true) (hn : t = (x.capped + 1) % 2 ^ 32) :
    x.capStatus t = if x.doneWith t then 0 else 0x000F := by
  unfold Partition.capStatus
  rw [hs, if_neg (by decide), if_pos hn]

theorem Partition.capStatus_other {x : Partition} {t : Nat} (hs : x.started = true) (hn : t ≠ (x.capped + 1) % 2 ^ 32) :
    x.capStatus t = if x.cappedTo t then 0 else 0x0005 := by
  unfold Partition.capStatus
  rw [hs, if_neg (by decide), if_neg hn]

/-- The partition as START begins its job (R315). -/
def Partition.begun (x : Partition) (seed s0 epoch : Nat) : Partition :=
  { x with started := true, stopped := false, ran := false, seed := seed, s0 := s0, epoch := epoch, capped := (s0 + 2 ^ 32 - 1) % 2 ^ 32, doneStep := none,
           ovfSteps := [], log := [], lsn := 0, logFull := false, restCur := [], restored := none, beat := 0 }

theorem Partition.begun_job (x : Partition) (seed s0 epoch : Nat) : (x.begun seed s0 epoch).job =
    { x.job with started := true, stopped := false, seed := seed, s0 := s0, epoch := epoch, capped := (s0 + 2 ^ 32 - 1) % 2 ^ 32, restored := none, beat := 0 } :=
  rfl

theorem Partition.begun_capped (x : Partition) (seed s0 epoch : Nat) : (x.begun seed s0 epoch).capped = (s0 + 2 ^ 32 - 1) % 2 ^ 32 := by
  rw [Partition.begun]

/-- START changes the jobs of no partition but its own. -/
theorem Dev.startJobAt_stem (nv : NonVol) (p seed s0 epoch : Nat) : (Dev.startJobAt nv d p seed s0 epoch).stem =
    ((Dev.reservePages p 4 (d.part p).logPages d).modPart p (fun x => x.begun seed s0 epoch)).stem := by
  unfold Dev.startJobAt
  dsimp only
  refine (Dev.beginStep_stem ..).trans ?_
  split
  · rw [Dev.firstTasks_stem, Dev.applyRuns_stem, Dev.encodeVersion_stem, Dev.stampsAt_stem, Dev.replicasBefore_stem, Dev.logAppend_stem,
      Dev.openChannels_stem, Dev.fillBuckets_stem]
    exact foldl_stem _ _ fun d c => d.modCtx_stem ..
  · rw [Dev.contextsToStart_stem, Dev.applyRuns_stem, Dev.encodeVersion_stem, Dev.stampsAt_stem, Dev.replicasBefore_stem, Dev.logAppend_stem,
      Dev.openChannels_stem, Dev.fillBuckets_stem]
    exact foldl_stem _ _ fun d c => d.modCtx_stem ..

theorem Dev.startJobAt_part (nv : NonVol) (p seed s0 epoch : Nat) : (Dev.startJobAt nv d p seed s0 epoch).queues = d.queues ∧
    ((Dev.startJobAt nv d p seed s0 epoch).part p).job = ((d.part p).begun seed s0 epoch).job := by
  have h := d.startJobAt_stem nv p seed s0 epoch
  have hpages := Dev.reservePages_stem p 4 (d.part p).logPages d
  have hq := queues_of_stem h
  refine ⟨hq.trans (queues_of_stem hpages :), (job_of_stem h p).trans ?_⟩
  rw [Dev.modPart_part_self, Partition.begun_job, job_of_stem hpages p]
  rfl

/-- A job begins with its seed, its first step and its epoch (R315). -/
theorem Dev.startJobAt_begins (nv : NonVol) (p seed s0 epoch : Nat) (e : Dev) (he : e = Dev.startJobAt nv d p seed s0 epoch) :
    e.queues = d.queues ∧ (e.part p).started = true ∧ (e.part p).seed = seed ∧ (e.part p).s0 = s0 ∧ (e.part p).epoch = epoch ∧
    (e.part p).beat = 0 ∧ (e.part p).capped = (s0 + 2 ^ 32 - 1) % 2 ^ 32 := by
  obtain ⟨hq, hjob⟩ : e.queues = d.queues ∧ (e.part p).job = ((d.part p).begun seed s0 epoch).job := by
    rw [he]
    exact d.startJobAt_part nv p seed s0 epoch
  exact ⟨hq, Partition.started_of_job hjob, Partition.seed_of_job hjob, Partition.s0_of_job hjob, Partition.epoch_of_job hjob,
    Partition.beat_of_job hjob, (Partition.capped_of_job hjob).trans (Partition.begun_capped ..)⟩

end

/-- A version's own shard sent as a stream, under its pins (R318). -/
def Dev.snapSent (d : Dev) (nv : NonVol) (c : Cmd) : Dev :=
  let p := pyPart c.payload
  let v := wordAt c.payload 4
  (d.takePins (d.versionPins p v)).send (.stream p v (leNat (slice c.payload 8 16).reverse) (wordAt c.payload 24 % 2 ^ 16) (wordAt c.payload 28 % 2 ^ 16)
    (d.snapshotOf nv p v).bytes (d.partStamp p).step (d.partStamp p).phase)

/-- The job of a snapshot remembers its pins. -/
def Cmd.pinned (c : Cmd) (pins : List (Nat × Nat)) (j : Job) : Job := if j.queue = c.hdr.queue && j.cseq = c.hdr.seq then { j with pins := pins } else j

/-- The module that has sent a snapshot and remembers its job with the pins. -/
def Dev.snapDone (d : Dev) (nv : NonVol) (c : Cmd) : Dev :=
  let p := pyPart c.payload
  let e := (d.snapSent nv c).withJob (c.job p 0 true 0 (d.snapshotOf nv p (wordAt c.payload 4)).listDigest false)
  { e with jobs := e.jobs.map (c.pinned (d.versionPins p (wordAt c.payload 4))) }

theorem Dev.takePins_eq (d : Dev) (l : List (Nat × Nat)) : ∃ ctxs, d.takePins l = { d with ctxs := ctxs } := Dev.foldl_modCtx l ..

section
variable (d : Dev) (nv : NonVol) (c : Cmd)

theorem Dev.snapSent_eq : ∃ ctxs, d.snapSent nv c = { d with ctxs := ctxs, tx := d.tx ++
    [.stream (pyPart c.payload) (wordAt c.payload 4) (leNat (slice c.payload 8 16).reverse) (wordAt c.payload 24 % 2 ^ 16) (wordAt c.payload 28 % 2 ^ 16)
      (d.snapshotOf nv (pyPart c.payload) (wordAt c.payload 4)).bytes (d.partStamp (pyPart c.payload)).step (d.partStamp (pyPart c.payload)).phase] } := by
  obtain ⟨ctxs, h⟩ := d.takePins_eq (d.versionPins (pyPart c.payload) (wordAt c.payload 4))
  unfold Dev.snapSent
  dsimp only
  rw [h]
  exact ⟨ctxs, rfl⟩

theorem Dev.snapDone_queues : (d.snapDone nv c).queues = d.queues := by
  obtain ⟨ctxs, h⟩ := d.snapSent_eq nv c
  unfold Dev.snapDone
  dsimp only
  rw [Dev.withJob_queues, h]

theorem Dev.snapDone_mem : (d.snapDone nv c).mem = d.mem := by
  obtain ⟨ctxs, h⟩ := d.snapSent_eq nv c
  unfold Dev.snapDone
  dsimp only
  rw [Dev.withJob_mem, h]

theorem Dev.snapDone_tx : (d.snapDone nv c).tx = d.tx ++
    [.stream (pyPart c.payload) (wordAt c.payload 4) (leNat (slice c.payload 8 16).reverse) (wordAt c.payload 24 % 2 ^ 16) (wordAt c.payload 28 % 2 ^ 16)
      (d.snapshotOf nv (pyPart c.payload) (wordAt c.payload 4)).bytes (d.partStamp (pyPart c.payload)).step (d.partStamp (pyPart c.payload)).phase] := by
  obtain ⟨ctxs, h⟩ := d.snapSent_eq nv c
  unfold Dev.snapDone
  dsimp only
  rw [Dev.withJob_tx, h]

theorem Dev.snapDone_jobs : (d.snapDone nv c).jobs = d.jobs.map (c.pinned (d.versionPins (pyPart c.payload) (wordAt c.payload 4))) ++
    [c.pinned (d.versionPins (pyPart c.payload) (wordAt c.payload 4))
      (c.job (pyPart c.payload) 0 true 0 (d.snapshotOf nv (pyPart c.payload) (wordAt c.payload 4)).listDigest false)] := by
  obtain ⟨ctxs, h⟩ := d.snapSent_eq nv c
  unfold Dev.snapDone
  dsimp only
  rw [Dev.withJob_jobs, List.map_append, congrArg Dev.jobs h]
  rfl

end

theorem Cmd.pinned_same (c : Cmd) (pins : List (Nat × Nat)) (j : Job) :
    (c.pinned pins j).queue = j.queue ∧ (c.pinned pins j).cseq = j.cseq ∧ (c.pinned pins j).opcode = j.opcode := by
  unfold Cmd.pinned
  split <;> exact ⟨rfl, rfl, rfl⟩

/-- Settles O49. -/
theorem jobsStartCapAndSnapshot : Obligations.JobsStartCapAndSnapshot := by
  unfold Obligations.JobsStartCapAndSnapshot
  intro s q c p x
  refine ⟨fun h hi hs hl hk hb hf => ?_, fun h hs hn => ⟨fun hd => ?_, fun hd => ?_⟩, fun h hs hn => ?_, fun h hs hn hr => ?_, fun h hs hn => ?_, ?_⟩
  · obtain ⟨hq, hbegun⟩ := (served s q).startJobAt_begins s.nv p (leAt c.payload 4 8) (wordAt c.payload 12) (wordAt c.payload 16 % 2 ^ 16) _ rfl
    rw [exec, execStart]
    refine devOp_accepts (d := (served s q).startJobAt s.nv p (leAt c.payload 4 8) (wordAt c.payload 12) (wordAt c.payload 16 % 2 ^ 16)) p 0 false 0 [] true h ?_ hq
      fun hacc => ?_
    · dsimp only
      have himg : ((served s q).part (pyPart c.payload)).image.isNone = false := Option.isNone_eq_false_iff.2 hi
      have hstarted : ((served s q).part (pyPart c.payload)).started = false := hs
      have hlocked : (served s q).locked (pyPart c.payload) = false := hl
      have hkey : (served s q).keyMissing (pyPart c.payload) = false := hk
      have hbad : ((served s q).part (pyPart c.payload)).badConfig = false := hb
      have hfree : ¬ (served s q).freeCount (pyPart c.payload) 4 < ((served s q).part (pyPart c.payload)).logPages := Nat.not_lt.2 hf
      rw [himg, hstarted, hlocked, hkey, hbad, if_neg Bool.false_ne_true, if_neg (by decide), if_neg Bool.false_ne_true, if_neg Bool.false_ne_true, if_neg hfree]
      rfl
    · rw [Dev.answer_part, Dev.withJob_part]
      exact ⟨⟨rfl, rfl⟩, hacc, hbegun⟩
  · have hst : ((served s q).part (pyPart c.payload)).capStatus (wordAt c.payload 4) = 0 := (Partition.capStatus_next hs hn).trans (if_pos hd)
    have hnext : wordAt c.payload 4 = (((served s q).part (pyPart c.payload)).capped + 1) % 2 ^ 32 := hn
    obtain ⟨hq, hc⟩ := (served s q).takeCap_capped s.nv p (wordAt c.payload 4)
    rw [exec, execCap]
    refine devOp_gives_of_queues (a := {}) (d := (served s q).takeCap s.nv p (wordAt c.payload 4)) h ?_ rfl rfl hq fun hans => ?_
    · dsimp only
      rw [hst, if_neg (by decide), if_pos hnext]
      rfl
    · exact ⟨⟨rfl, rfl⟩, (Dev.answer_mem ..).trans (Dev.takeCap_mem s.nv (served s q) p _), hans, (congrArg Partition.capped (Dev.answer_part ..)).trans hc⟩
  · have hst : ((served s q).part (pyPart c.payload)).capStatus (wordAt c.payload 4) = 0x000F :=
      (Partition.capStatus_next hs hn).trans (if_neg (Bool.eq_false_iff.1 hd))
    rw [exec, execCap]
    refine devOp_onlyReply (a := bad 0x000F) h ?_ rfl rfl
    dsimp only
    rw [hst, if_pos (by decide)]
  · have hst : ((served s q).part (pyPart c.payload)).capStatus (wordAt c.payload 4) = if x.cappedTo (wordAt c.payload 4) then 0 else 0x0005 :=
      Partition.capStatus_other hs hn
    have hother : ¬ wordAt c.payload 4 = (((served s q).part (pyPart c.payload)).capped + 1) % 2 ^ 32 := hn
    rw [exec, execCap]
    refine devOp_onlyReply (a := bad (if x.cappedTo (wordAt c.payload 4) then 0 else 0x0005)) h ?_ rfl rfl
    dsimp only
    rw [hst, if_neg hother]
    split <;> rfl
  · rw [exec, execStepparam]
    refine devOp_gives_of_queues (a := {}) (d := (served s q).recordParams p (paramsOf c.payload)) h ?_ rfl rfl
      (queues_of_stem (Dev.recordParams_stem (served s q) p _)) fun hans => ?_
    · dsimp only
      rw [show ((served s q).part (pyPart c.payload)).started = true from hs,
        show ((served s q).part (pyPart c.payload)).replay = none from hr, Option.any_none, Bool.or_false, if_neg (by decide),
        if_neg (by rw [decide_eq_true_eq]; exact Nat.not_le.2 hn)]
      rfl
    · exact ⟨⟨rfl, rfl⟩, (Dev.answer_mem ..).trans (Dev.recordParams_mem (served s q) p _), hans,
        (congrArg Partition.params (Dev.answer_part ..)).trans ((served s q).recordParams_params p _)⟩
  · rw [exec, execStepparam]
    refine devOp_onlyReply (a := bad 0x0005) h ?_ rfl rfl
    dsimp only
    rw [show ((served s q).part (pyPart c.payload)).started = true from hs, if_neg (by decide), if_pos]
    rw [Bool.or_eq_true, decide_eq_true_eq]
    exact .inl hn
  · intro h hs k hk hkey hc hr
    have hstarted : ((served s q).part (pyPart c.payload)).started = true := hs
    have hkind : (keyidKind (wordAt c.payload 28 % 2 ^ 16) != 3) = false := by rw [show keyidKind (wordAt c.payload 28 % 2 ^ 16) = 3 from hk]; rfl
    have hheld : ((served s q).keyOf (wordAt c.payload 28 % 2 ^ 16)).isNone = false := Option.isNone_eq_false_iff.2 hkey
    have hctx : ((served s q).imgCtxs (pyPart c.payload)).contains (keyidIx (wordAt c.payload 28 % 2 ^ 16)) = true := hc
    have hret : (served s q).retains (pyPart c.payload) (wordAt c.payload 4) = true := hr
    have hrun : ∃ t, exec (.snapshot q) s = .next t ∧ SameOutside s t ∧ t.dev.mem = s.dev.mem ∧ Accepted s t q c ∧
        Tx.stream p (wordAt c.payload 4) (leNat (slice c.payload 8 16).reverse) (wordAt c.payload 24 % 2 ^ 16) k
          (s.dev.snapshotOf s.nv p (wordAt c.payload 4)).bytes (s.dev.partStamp p).step (s.dev.partStamp p).phase ∈ t.dev.tx := by
      rw [exec, execSnapshot]
      refine devOp_gives_of_queues (a := { status := 0x0001 }) (d := (served s q).snapDone s.nv c) h ?_ rfl rfl ((served s q).snapDone_queues s.nv c) fun hans => ?_
      · dsimp only
        rw [hstarted, hkind, hheld, hctx, hret]
        rfl
      · obtain ⟨hjq, hjc, hjo⟩ := c.pinned_same ((served s q).versionPins p (wordAt c.payload 4))
          (c.job p 0 true 0 ((served s q).snapshotOf s.nv p (wordAt c.payload 4)).listDigest false)
        refine ⟨⟨rfl, rfl⟩, (Dev.answer_mem ..).trans ((served s q).snapDone_mem s.nv c),
          accepted_of_job hans ((Dev.answer_jobs ..).trans ((served s q).snapDone_jobs s.nv c)) hjq hjc hjo, ?_⟩
        rw [Dev.answer_tx, Dev.snapDone_tx]
        exact List.mem_append_left _ (List.mem_append_right _ (List.mem_singleton.2 rfl))
    obtain ⟨t, ht, hsame, hmem, hacc, htx⟩ := hrun
    exact ⟨t, _, _, ht, hsame, hmem, hacc, htx⟩

end Sys2Proof.Machine
end

section
/-! SUPPORT. Channels, logs and bases leave the board as it is. -/

namespace Sys2Proof.Machine
open Sys2Proof Sys2Proof.Machine.Claims

@[simp] theorem foldl_brd {α : Type} {f : Dev → α → Dev} (l : List α) (d : Dev) (h : ∀ d a, (f d a).brd = d.brd) :
    (l.foldl f d).brd = d.brd := foldl_keeps Dev.brd h l d

theorem brd_of_net {d e : Dev} (h : d.SameButNet e) : e.brd = d.brd := by
  obtain ⟨⟨tx, fab, chans, bb, fi, ctxs, rfl⟩, _⟩ := h
  rfl

section
variable (d : Dev)

@[simp] theorem Dev.modNet_brd (n : Nat) (f : Network → Network) : (d.modNet n f).brd = d.brd := brd_of_net (Dev.Carried.modNet d n f).net
@[simp] theorem Dev.setSend_brd (p i : Nat) (x : SendChan) : (d.setSend p i x).brd = d.brd := rfl
@[simp] theorem Dev.setRecv_brd (p i : Nat) (x : RecvChan) : (d.setRecv p i x).brd = d.brd := rfl

@[simp] theorem Dev.modSend_brd (p i : Nat) (f : SendChan → SendChan) : (d.modSend p i f).brd = d.brd := by
  unfold Dev.modSend
  split <;> rfl

@[simp] theorem Dev.modRecv_brd (p i : Nat) (f : RecvChan → RecvChan) : (d.modRecv p i f).brd = d.brd := by
  unfold Dev.modRecv
  split <;> rfl

@[simp] theorem Dev.emitPkt_brd (net pcp dst : Nat) (h : DataHdr) (payload : List Byte) : (d.emitPkt net pcp dst h payload).brd = d.brd :=
  brd_of_net (Dev.Carried.emitPkt d ..).net

@[simp] theorem Dev.transmit_brd (p : Nat) (x : SendChan) (k : SentPkt) (rtx : Bool) : (d.transmit p x k rtx).brd = d.brd :=
  brd_of_net (Dev.Carried.transmit d ..).net

@[simp] theorem Dev.askCredit_brd (p i : Nat) : (d.askCredit p i).brd = d.brd := by
  unfold Dev.askCredit
  split
  · rfl
  split
  · rfl
  · exact (Dev.modSend_brd ..).trans ((Dev.modNet_brd ..).trans (d.emitPkt_brd ..))

@[simp] theorem Dev.pumpN_brd (f p i : Nat) : (Dev.pumpN f d p i).brd = d.brd := by
  induction f generalizing d with
  | zero => rfl
  | succ f ih =>
    have hhead (d : Dev) (x : SendChan) (k : SentPkt) (rest : List SentPkt) (n : Nat) : (Dev.pumpN.sendHead d p i x k rest n).brd = d.brd :=
      (Dev.transmit_brd ..).trans rfl
    unfold Dev.pumpN
    dsimp only
    repeat' split
    all_goals simp [ih, hhead]

@[simp] theorem Dev.enqueue_brd (p i : Nat) (k : SentPkt) : (d.enqueue p i k).brd = d.brd := by
  unfold Dev.enqueue Dev.pump
  split <;> simp

@[simp] theorem Dev.recSend_brd (p rank chan step offset : Nat) (bs : List Byte) : (d.recSend p rank chan step offset bs).brd = d.brd := by
  unfold Dev.recSend
  dsimp only
  split
  · rfl
  · exact (foldl_brd _ _ fun d k => d.enqueue_brd ..).trans rfl

@[simp] theorem Dev.logAppend_brd (p type step : Nat) (tsw : List Nat) : (d.logAppend p type step tsw).brd = d.brd := by
  unfold Dev.logAppend
  dsimp only
  split
  · exact (Dev.recSend_brd ..).trans ((foldl_brd _ _ fun d r => d.recSend_brd ..).trans rfl)
  · exact (foldl_brd _ _ fun d r => d.recSend_brd ..).trans rfl

@[simp] theorem Dev.endJob_brd (q cseq : Nat) (detail : List Nat) : (d.endJob q cseq detail).brd = d.brd := rfl

@[simp] theorem Dev.abandonBase_brd (p : Nat) : (d.abandonBase p).brd = d.brd := by
  obtain ⟨ctxs, hu⟩ := d.unpin_eq ((d.part p).basePins.map (fun y => (y.1, y.2.1)))
  unfold Dev.abandonBase
  dsimp only
  split
  · rfl
  · refine (Dev.event_brd ..).trans ((foldl_brd _ _ fun d j => d.endJob_brd ..).trans ((foldl_brd _ _ fun d r => d.recSend_brd ..).trans ?_))
    rw [hu]

@[simp] theorem Dev.sendAck_brd (p i net : Nat) : (d.sendAck p i net).brd = d.brd := by
  unfold Dev.sendAck
  split
  · rfl
  · exact (Dev.setRecv_brd ..).trans (d.emitPkt_brd ..)

@[simp] theorem Dev.grantTurns_brd (net f : Nat) (l : List Nat) : (Dev.grantTurns net f d l).1.brd = d.brd := by
  induction f generalizing d l with
  | zero => rfl
  | succ f ih =>
    unfold Dev.grantTurns
    split
    · rfl
    · simp [ih]

@[simp] theorem Dev.serveWants_brd (net : Nat) : (d.serveWants net).brd = d.brd := by
  unfold Dev.serveWants
  refine (foldl_brd _ _ fun d k => ?_).trans (d.grantTurns_brd ..)
  split
  · exact d.sendAck_brd ..
  · rfl

@[simp] theorem Dev.abort_brd (n uid : Nat) (fi : FaultInfo) : (d.abort n uid fi).brd = d.brd := by
  unfold Dev.abort
  exact (Dev.contextFault_brd ..).trans rfl

@[simp] theorem Dev.abortSaved_brd (c n uid : Nat) (fi : FaultInfo) : (d.abortSaved c n uid fi).brd = d.brd := by
  unfold Dev.abortSaved
  exact (Dev.contextFault_brd ..).trans rfl

@[simp] theorem Dev.staleCheck_brd (p a n : Nat) : (d.staleCheck p a n).brd = d.brd := by
  unfold Dev.staleCheck
  refine (foldl_brd _ _ fun e c => ?_).trans (foldl_brd _ _ fun e x => ?_)
  · split
    · exact foldl_brd _ _ fun e x => foldl_brd _ _ fun e y => Dev.abortSaved_brd ..
    · rfl
  · split
    · exact foldl_brd _ _ fun e y => Dev.abort_brd ..
    · rfl

@[simp] theorem Dev.combDrop_brd (a n : Nat) : (d.combDrop a n).brd = d.brd := by
  refine foldl_brd _ _ fun d k => ?_
  rfl

@[simp] theorem Dev.unitWrite_brd (p a : Nat) (bs : List Byte) (poison : Bool) : (d.unitWrite p a bs poison).brd = d.brd :=
  (Dev.staleCheck_brd ..).trans ((Dev.combDrop_brd ..).trans rfl)

@[simp] theorem Dev.dropChannels_brd (p : Nat) : (d.dropChannels p).brd = d.brd :=
  (Dev.modNet_brd ..).trans (d.modNet_brd ..)

@[simp] theorem Dev.openChannels_brd (p step : Nat) : (d.openChannels p step).brd = d.brd := by
  refine (Dev.serveWants_brd ..).trans ((Dev.serveWants_brd ..).trans ?_)
  refine (foldl_brd _ _ fun d e => (Dev.sendAck_brd ..).trans ?_).trans ((foldl_brd _ _ fun d e => d.setSend_brd ..).trans (d.dropChannels_brd p))
  split
  · exact Dev.unitWrite_brd ..
  split
  · exact foldl_brd _ _ fun d k => d.unitWrite_brd ..
  · rfl

end

end Sys2Proof.Machine
end

section
/-! PROOF. BASE, PTEST, REBUILD, REPLAY and DISCARD (R353, R356, R363 to R366). -/

namespace Sys2Proof.Machine
open Sys2Proof Sys2Proof.Machine.Claims

/-- A command of the module that leaves a job. -/
theorem runOp_accepts {s t : State} {q op : Nat} {c : Cmd} {mine : Cmd → Bool} {f : Cmd → State → Option Ans × State} {d : Dev} {P : State → Prop}
    (part ctx : Nat) (done : Bool) (status : Nat) (detail : List Nat) (lock : Bool) (h : itsTurn s q op c) (hm : mine c = true)
    (hf : f c (s.turned q) = (some { status := 0x0001 }, { t with dev := d.withJob (c.job part ctx done status detail lock) })) (hq : d.queues = s.dev.queues)
    (hP : Accepted s { t with dev := (d.withJob (c.job part ctx done status detail lock)).answer q c { status := 0x0001 } } q c →
      P { t with dev := (d.withJob (c.job part ctx done status detail lock)).answer q c { status := 0x0001 } }) :
    ∃ t, runOp s q op mine f = .next t ∧ P t := by
  refine runOp_gives (a := { status := 0x0001 }) (t := { t with dev := d.withJob (c.job part ctx done status detail lock) }) h hm hf rfl rfl hq fun hans => hP ?_
  exact accepted_of_job hans (Dev.answer_jobs ..) rfl rfl rfl

/-! ## BASE (R356) and PTEST (R366) -/

section
variable (d : Dev)

theorem Dev.reservePages_part (p dev n : Nat) : ∃ pages, (Dev.reservePages p dev n d).part p = { d.part p with pages := pages } ∧
    (Dev.reservePages p dev n d).queues = d.queues := by
  obtain ⟨tiers, fi, h⟩ := Dev.takePages_eq p dev n d
  unfold Dev.reservePages
  dsimp only
  rw [Dev.modPart_part_self, h]
  exact ⟨_, rfl, rfl⟩

/-- The module with the base slots' pages (R356). -/
def Dev.slotsTaken (p : Nat) : Dev := if (d.part p).slotsKept then d else d.reservePages p 4 (d.part p).slotPages

theorem Dev.slotsTaken_part (p : Nat) : ∃ pages, (d.slotsTaken p).part p = { d.part p with pages := pages } ∧ (d.slotsTaken p).queues = d.queues ∧
    (d.slotsTaken p).mem = d.mem := by
  unfold Dev.slotsTaken
  split
  · exact ⟨_, rfl, rfl, rfl⟩
  · obtain ⟨pages, h, hq⟩ := d.reservePages_part p 4 (d.part p).slotPages
    exact ⟨pages, h, hq, d.reservePages_mem ..⟩

/-- The bases to come (R356). -/
def Dev.basesSet (p n now : Nat) (c : Cmd) : Dev :=
  (d.slotsTaken p).modPart p (fun x => { x with
    slotsKept := true, interval := n, baseNow := x.baseNow || bit now 0, baseJobs := x.baseJobs ++ [(c.hdr.queue, c.hdr.seq)] })

/-- Events leave a device's state as it is. -/
theorem Dev.events_same (l : List (Nat × Nat)) (code p : Nat) : d.SameButSent (l.foldl (fun d y => d.event code p 0 0x1FF [y.1, y.2]) d) := by
  refine Dev.SameButSent.foldl (fun d y => ?_) l d
  exact d.event_same ..

end

/-- The mismatches of the tested regions, each with its share of what is fetched (R366). -/
def ptestMiss (x : Partition) (b : BaseSlot) (regions : List Nat) (fetched : List (List Byte)) : List (Nat × Nat) :=
  ((regions.zipIdx).map (fun y => ptestRegion x b y.1 ((fetched.drop (y.2 * (rcD x.rcfg * rcE x.rcfg))).take (rcD x.rcfg * rcE x.rcfg)))).flatten

theorem ptestMiss_one (x : Partition) (b : BaseSlot) (g : Nat) (fetched : List (List Byte)) :
    ptestMiss x b [g] fetched = ptestRegion x b g (fetched.take (rcD x.rcfg * rcE x.rcfg)) := by
  simp [ptestMiss]

/-- The module after a test of parity: each mismatch told and counted (R366). -/
def Dev.tested (d : Dev) (p : Nat) (miss : List (Nat × Nat)) : Dev :=
  (miss.foldl (fun d y => d.event 0x0B0A p 0 0x1FF [y.1, y.2]) d).modPart p (fun x => { x with recCnt := bump x.recCnt 21 miss.length })

theorem Dev.tested_same (d : Dev) (p : Nat) (miss : List (Nat × Nat)) : (d.tested p miss).queues = d.queues ∧ (d.tested p miss).mem = d.mem ∧
    Store.get 0#32 ((d.tested p miss).part p).recCnt 21 = Store.get 0#32 (d.part p).recCnt 21 + BitVec.ofNat 32 miss.length := by
  have h := d.events_same miss 0x0B0A p
  refine ⟨h.queues, h.mem, ?_⟩
  unfold Dev.tested
  rw [Dev.modPart_part_self, h.part]
  exact Store.get_set_self ..

/-! ## A partition's job through the restoration of a base (R363, R364) -/

theorem job_modPart_of_stem {d e : Dev} (h : e.stem = d.stem) (p : Nat) (f : Partition → Partition) {g : JobState → JobState}
    (hf : ∀ x, (f x).job = g x.job) : ((e.modPart p f).part p).job = g (d.part p).job := by
  rw [Dev.modPart_part_self, hf, job_of_stem h]

/-- A base restored is the partition's capped version, and its cores are held (R363). -/
theorem Dev.restoreBase_job (d : Dev) (p : Nat) (b : BaseSlot) : (d.restoreBase p b).queues = d.queues ∧
    ((d.restoreBase p b).part p).job = { (d.part p).job with capped := b.step, stopped := true, restored := some b.step } := by
  have hafter (e : Dev) (l : List Nat) (st : Nat) :
      (l.foldl (fun d c => d.modCtx c (fun x => { x with stamp := { step := st }, due := [], hold := false })) e).stem = e.stem :=
    foldl_stem _ _ fun d c => d.modCtx_stem ..
  have hbefore (e : Dev) (cs : Store (BitVec 32)) (cur mb : Nat → Nat) (he : e.stem = d.stem) :
      (({ e with consts := cs } : Dev).setCursors p cur mb).stem = d.stem := (Dev.setCursors_stem ..).trans he
  have hslices := d.restoreSlices_stem p b ((d.ownedSlices p).zipIdx)
  unfold Dev.restoreBase
  dsimp only
  refine ⟨(queues_of_stem (hafter ..)).trans ?_, (job_of_stem (hafter ..) p).trans ?_⟩
  · refine (queues_of_stem (hbefore _ _ _ _ ?_) :)
    exact (Dev.replicasBefore_stem ..).trans hslices
  · refine job_modPart_of_stem (hbefore _ _ _ _ ?_) p _ (g := fun j => { j with capped := b.step, stopped := true, restored := some b.step }) fun x => rfl
    exact (Dev.replicasBefore_stem ..).trans hslices

/-- The log of a mirror (R364). -/
def mirrorLog (mirror : List (List Byte)) : List LogRecord := mirror.map (fun e => (List.range 8).map (fun i => wordAt e (4 * i)))

/-- A partition rebuilt is started and holds its cores at the restored base (R364). -/
theorem Dev.rebuilt_job (d : Dev) (p : Nat) (log : List LogRecord) (slot : BaseSlot) (par : Store Byte) : (d.rebuilt p log slot par).queues = d.queues ∧
    ((d.rebuilt p log slot par).part p).started = true ∧ ((d.rebuilt p log slot par).part p).stopped = true ∧
    ((d.rebuilt p log slot par).part p).capped = slot.step ∧ ((d.rebuilt p log slot par).part p).restored = some slot.step := by
  obtain ⟨hqueues, hjob⟩ : (d.rebuilt p log slot par).queues = d.queues ∧ ∃ j : JobState, ((d.rebuilt p log slot par).part p).job =
      { j with started := true, capped := slot.step, stopped := true, restored := some slot.step } := by
    unfold Dev.rebuilt
    dsimp only
    refine ⟨(queues_of_stem (Dev.openChannels_stem ..)).trans ((Dev.restoreBase_job ..).1.trans ((queues_of_stem (Dev.applyRuns_stem ..)).trans
      (queues_of_stem (d.contextsToStart_stem p) :))), ?_⟩
    refine ⟨?_, (job_of_stem (Dev.openChannels_stem ..) p).trans ((Dev.restoreBase_job ..).2.trans ?_)⟩
    rotate_left
    · rw [job_of_stem (Dev.applyRuns_stem ..) p, Dev.modPart_part_self]
      rfl
  obtain ⟨j, hj⟩ := hjob
  exact ⟨hqueues, congrArg JobState.started hj, congrArg JobState.stopped hj, congrArg JobState.capped hj, congrArg JobState.restored hj⟩

/-! ## DISCARD and REPLAY (R353, R365) -/

/-- The steps of a DISCARD on a partition whose cores are held (R353). -/
def Dev.discarded (d : Dev) (p epoch revert : Nat) : Dev :=
  ((((d.modPart p (fun y => { y with epoch := epoch })).openChannels p (((if revert = 0xFFFFFFFF then (d.part p).capped else revert) + 1) % 2 ^ 32)).cutLog
    p (d.part p).capped epoch revert).abandonBase p)

theorem discardStart_of_stopped {nv : NonVol} {d : Dev} {p : Nat} (hs : (d.part p).stopped = true) (hr : (d.part p).ran = false) (epoch revert : Nat)
    (bist : List Nat) : discardStart (nv, d) p epoch revert bist = (nv, d.discarded p epoch revert) := by
  unfold discardStart
  dsimp only
  rw [hs, hr, if_pos (by decide)]
  rfl

theorem Dev.discarded_stem (d : Dev) (p epoch revert : Nat) : (d.discarded p epoch revert).stem = (d.modPart p (fun y => { y with epoch := epoch })).stem :=
  (Dev.abandonBase_stem ..).trans ((Dev.cutLog_stem ..).trans (Dev.openChannels_stem ..))

theorem Dev.discarded_brd (d : Dev) (p epoch revert : Nat) : (d.discarded p epoch revert).brd = d.brd := by
  refine (Dev.abandonBase_brd ..).trans ((Dev.logAppend_brd ..).trans ?_)
  exact Dev.openChannels_brd ..

/-- The module after a DISCARD that keeps the capped step: the cores begin the next step (R353). -/
def Dev.discardBegun (d : Dev) (p epoch : Nat) : Dev :=
  let e := d.discarded p epoch 0xFFFFFFFF
  let f := e.setCursors p (fun k => (d.part p).cursorAt k (e.part p).capped) (fun k => (d.part p).mbAfter k (e.part p).capped)
  (f.modPart p (fun z => { z with stopped := false, doneStep := none, restored := none })).beginStep p (((e.part p).capped + 1) % 2 ^ 32)

theorem discardStep_of_stopped {nv : NonVol} {d : Dev} {p : Nat} (hs : (d.part p).stopped = true) (hr : (d.part p).ran = false)
    (hb : d.brd.state = .ready) (epoch : Nat) (bist : List Nat) : discardStep (nv, d) p epoch bist = (true, nv, d.discardBegun p epoch) := by
  unfold discardStep
  dsimp only
  rw [discardStart_of_stopped hs hr]
  dsimp only
  rw [if_neg]
  · rfl
  · have hcur (cur mb : Nat → Nat) : ((d.discarded p epoch 0xFFFFFFFF).setCursors p cur mb).brd = d.brd := by
      refine (foldl_brd _ _ fun d c => ?_).trans (d.discarded_brd ..)
      rfl
    rw [hcur, hb]
    decide

theorem Dev.discardBegun_job (d : Dev) (p epoch : Nat) : (d.discardBegun p epoch).queues = d.queues ∧
    ((d.discardBegun p epoch).part p).job = { (d.part p).job with epoch := epoch, stopped := false, restored := none } := by
  unfold Dev.discardBegun
  extract_lets e f
  have hf : f.stem = (d.modPart p (fun y => { y with epoch := epoch })).stem := (Dev.setCursors_stem ..).trans (d.discarded_stem ..)
  clear_value f e
  refine ⟨(queues_of_stem (Dev.beginStep_stem ..)).trans (queues_of_stem hf :), (job_of_stem (Dev.beginStep_stem ..) p).trans ?_⟩
  refine (job_modPart_of_stem hf p _ (g := fun j => { j with stopped := false, restored := none }) fun x => rfl).trans ?_
  rw [Dev.modPart_part_self]
  rfl

theorem Dev.discardBegun_part {d : Dev} {p epoch : Nat} (e : Dev) (he : e = d.discardBegun p epoch) : e.queues = d.queues ∧
    (e.part p).stopped = false ∧ (e.part p).epoch = epoch ∧ (e.part p).capped = (d.part p).capped := by
  obtain ⟨hq, hjob⟩ := d.discardBegun_job p epoch
  rw [← he] at hq hjob
  exact ⟨hq, congrArg JobState.stopped hjob, congrArg JobState.epoch hjob, congrArg JobState.capped hjob⟩

/-- The module with a replay begun (R365). -/
def Dev.replayBegun (d : Dev) (c : Cmd) (b : Nat) : Dev :=
  let p := pyPart c.payload
  let f := wordAt c.payload 4
  let t := wordAt c.payload 8
  ((((d.modPart p (fun y => { y with
    stopped := false, ran := false, restored := none, params := y.params ++ y.replayParams b t
    replay := some { first := f, upto := t, queue := c.hdr.queue, cseq := c.hdr.seq } })).stampsAt p f).encodeVersion p b true).beginStep p f)

theorem Dev.replayBegun_job (d : Dev) (c : Cmd) (b : Nat) : (d.replayBegun c b).queues = d.queues ∧
    ((d.replayBegun c b).part (pyPart c.payload)).job = { (d.part (pyPart c.payload)).job with
      stopped := false, restored := none, replay := some { first := wordAt c.payload 4, upto := wordAt c.payload 8, queue := c.hdr.queue, cseq := c.hdr.seq } } := by
  have h := (Dev.beginStep_stem (((d.modPart (pyPart c.payload) (fun y => { y with
    stopped := false, ran := false, restored := none, params := y.params ++ y.replayParams b (wordAt c.payload 8)
    replay := some { first := wordAt c.payload 4, upto := wordAt c.payload 8, queue := c.hdr.queue, cseq := c.hdr.seq } })).stampsAt (pyPart c.payload)
      (wordAt c.payload 4)).encodeVersion (pyPart c.payload) b true) (pyPart c.payload) (wordAt c.payload 4)).trans
    ((Dev.encodeVersion_stem ..).trans (Dev.stampsAt_stem ..))
  refine ⟨(queues_of_stem h :), (job_of_stem h (pyPart c.payload)).trans ?_⟩
  rw [Dev.modPart_part_self]
  rfl

theorem Dev.replayBegun_part {d : Dev} {c : Cmd} {b : Nat} (e : Dev) (he : e = d.replayBegun c b) : e.queues = d.queues ∧
    (e.part (pyPart c.payload)).stopped = false ∧ (e.part (pyPart c.payload)).replay =
      some { first := wordAt c.payload 4, upto := wordAt c.payload 8, queue := c.hdr.queue, cseq := c.hdr.seq } := by
  obtain ⟨hq, hjob⟩ := d.replayBegun_job c b
  rw [← he] at hq hjob
  exact ⟨hq, congrArg JobState.stopped hjob, congrArg JobState.replay hjob⟩

/-- BASE reserves the slots and keeps its parameters (R356). -/
theorem base_gives (s : State) (q : Nat) (c : Cmd) :
    let p := wordAt c.payload 0
    let x := s.dev.part p
    itsTurn s q 0x60 c → x.started = true → wordAt c.payload 4 % 2 ^ 16 ≠ 0 → s.dev.noBase p = false →
      x.slotsKept = true ∨ x.slotPages ≤ s.dev.freeCount p 4 →
      ∃ t, exec (.base q) s = .next t ∧ SameOutside s t ∧ t.dev.mem = s.dev.mem ∧ Accepted s t q c ∧
        (t.dev.part p).interval = wordAt c.payload 4 % 2 ^ 16 ∧ (t.dev.part p).slotsKept = true ∧
        (t.dev.part p).baseNow = (x.baseNow || bit (wordAt c.payload 8) 0) ∧
        (t.dev.part p).baseJobs = x.baseJobs ++ [(c.hdr.queue, c.hdr.seq)] := by
  intro p x h hs hn hnb hk
  obtain ⟨pages, hpart, hq, hmem⟩ := (served s q).slotsTaken_part p
  have hstarted : ((served s q).part (pyPart c.payload)).started = true := hs
  have hbase : (served s q).noBase (pyPart c.payload) = false := hnb
  have hroom : (!((served s q).part (pyPart c.payload)).slotsKept &&
      decide ((served s q).freeCount (pyPart c.payload) 4 < ((served s q).part (pyPart c.payload)).slotPages)) = false := by
    rcases hk with hk | hk
    · rw [show ((served s q).part (pyPart c.payload)).slotsKept = true from hk]
      rfl
    · rw [decide_eq_false (show ¬ (served s q).freeCount (pyPart c.payload) 4 < ((served s q).part (pyPart c.payload)).slotPages from Nat.not_lt.2 hk),
        Bool.and_false]
  rw [exec, execBase]
  refine devOp_accepts (d := (served s q).basesSet p (wordAt c.payload 4 % 2 ^ 16) (wordAt c.payload 8) c) p 0 false 0 [] false h ?_ hq fun hacc => ?_
  · dsimp only
    rw [hstarted, hbase, hroom, if_neg (by decide), if_neg (by rw [Bool.or_false, decide_eq_true_eq]; exact hn), if_neg Bool.false_ne_true]
    rfl
  · rw [Dev.answer_mem, Dev.withJob_mem, Dev.answer_part, Dev.withJob_part, Dev.basesSet, Dev.modPart_part_self, hpart]
    exact ⟨⟨rfl, rfl⟩, hmem, hacc, rfl, rfl, rfl, rfl⟩

/-- PTEST of one region counts its mismatches (R366). -/
theorem ptest_gives (s : State) (q : Nat) (c : Cmd) (fetched : List (List Byte)) (b : BaseSlot) :
    let p := wordAt c.payload 0
    let x := s.dev.part p
    itsTurn s q 0x61 c → x.baseOld = some b → wordAt c.payload 4 < rcC x.rcfg → wordAt c.payload 4 ≠ 0xFFFFFFFF →
      let miss := ptestRegion x b (wordAt c.payload 4) (fetched.take (rcD x.rcfg * rcE x.rcfg))
      ∃ t, exec (.ptest q fetched) s = .next t ∧ SameOutside s t ∧ t.dev.mem = s.dev.mem ∧ Accepted s t q c ∧
        Store.get 0#32 (t.dev.part p).recCnt 21 = Store.get 0#32 x.recCnt 21 + BitVec.ofNat 32 miss.length ∧
        (t.dev.jobs.getLast?.map (·.detail)) = some ([0, miss.length] ++ b.listDigest) := by
  intro p x h hb hg hall
  have hbase : ((served s q).part (pyPart c.payload)).baseOld = some b := hb
  obtain ⟨hq, hmem, hcnt⟩ := (served s q).tested_same p (ptestRegion x b (wordAt c.payload 4) (fetched.take (rcD x.rcfg * rcE x.rcfg)))
  rw [exec, execPtest]
  refine devOp_accepts (d := (served s q).tested p (ptestRegion x b (wordAt c.payload 4) (fetched.take (rcD x.rcfg * rcE x.rcfg)))) p 0 true 0
    ([0, (ptestRegion x b (wordAt c.payload 4) (fetched.take (rcD x.rcfg * rcE x.rcfg))).length] ++ b.listDigest) false h ?_ hq fun hacc => ?_
  · dsimp only
    rw [hbase]
    dsimp only
    rw [if_neg (by rw [Bool.and_eq_true, decide_eq_true_eq]; exact fun hge => absurd hge.2 (Nat.not_le.2 hg)), if_neg hall]
    change Dev.startJob ((served s q).tested p (ptestMiss x b [wordAt c.payload 4] fetched)) c p 0 true 0
      ([0, (ptestMiss x b [wordAt c.payload 4] fetched).length] ++ b.listDigest) false = _
    rw [ptestMiss_one]
  · rw [Dev.answer_mem, Dev.withJob_mem, Dev.answer_part, Dev.withJob_part, Dev.answer_jobs, Dev.withJob_jobs, List.getLast?_concat]
    exact ⟨⟨rfl, rfl⟩, hmem, hacc, hcnt, rfl⟩

/-- PTEST without a base is refused. -/
theorem ptest_refused (s : State) (q : Nat) (c : Cmd) (fetched : List (List Byte)) :
    let p := wordAt c.payload 0
    let x := s.dev.part p
    itsTurn s q 0x61 c → x.baseOld = none →
      ∃ t, exec (.ptest q fetched) s = .next t ∧ OnlyReply s t q ∧ Answered s t q c 0x000E [] := by
  intro p x h hb
  rw [exec, execPtest]
  refine devOp_onlyReply (a := bad 0x000E) h ?_ rfl rfl
  dsimp only
  rw [show ((served s q).part (pyPart c.payload)).baseOld = none from hb]

/-- REBUILD, with and without its sources (R364). -/
theorem rebuild_gives (s : State) (q : Nat) (c : Cmd) (dig mir : List (List Byte)) (ch : List (Nat × Nat × List Byte)) :
    let p := wordAt c.payload 0
    let x := s.dev.part p
    itsTurn s q 0x62 c → x.image.isSome = true → s.dev.locked p = false → wordAt c.payload 4 % 2 ^ 16 = x.rank → x.started = false →
      x.badConfig = false → s.dev.noBase p = false → x.logPages + x.slotPages ≤ s.dev.freeCount p 4 →
      let held := fun (j i : Nat) => (ch.find? (fun y => y.1 == j && y.2.1 == i)).map (·.2.2)
      (∃ t, exec (.rebuild q dig mir ch true) s = .next t ∧ SameOutside s t ∧ t.dev.mem = s.dev.mem ∧ Accepted s t q c ∧
        (t.dev.part p).started = false ∧ (t.dev.jobs.getLast?.map (·.detail)) = some [0x0B09, wordAt c.payload 8]) ∧
      (paritySources x.rcfg held = true → (rebuildShard x (wordAt c.payload 8) dig held).1 = 0 →
        ∃ t, exec (.rebuild q dig mir ch false) s = .next t ∧ SameOutside s t ∧ Accepted s t q c ∧ (t.dev.part p).started = true ∧
          (t.dev.part p).stopped = true ∧ (t.dev.part p).capped = wordAt c.payload 8 ∧
          (t.dev.part p).restored = some (wordAt c.payload 8)) := by
  intro p x h hi hl hrank hs hb hnb hf held
  have himg : ((served s q).part (pyPart c.payload)).image.isNone = false := Option.isNone_eq_false_iff.2 hi
  have hlocked : (served s q).locked (pyPart c.payload) = false := hl
  have hbad : (wordAt c.payload 4 % 2 ^ 16 != ((served s q).part (pyPart c.payload)).rank || ((served s q).part (pyPart c.payload)).started ||
      ((served s q).part (pyPart c.payload)).badConfig || (served s q).noBase (pyPart c.payload)) = false := by
    rw [show ((served s q).part (pyPart c.payload)).started = false from hs, show ((served s q).part (pyPart c.payload)).badConfig = false from hb,
      show (served s q).noBase (pyPart c.payload) = false from hnb, show wordAt c.payload 4 % 2 ^ 16 = ((served s q).part (pyPart c.payload)).rank from hrank,
      bne_self_eq_false]
    rfl
  have hfree : ¬ (served s q).freeCount (pyPart c.payload) 4 <
      ((served s q).part (pyPart c.payload)).logPages + ((served s q).part (pyPart c.payload)).slotPages := Nat.not_lt.2 hf
  refine ⟨?_, fun hsrc hshard => ?_⟩
  · rw [exec, execRebuild]
    refine devOp_accepts (d := (served s q).event 0x0B09 p 0 0x1FF []) p 0 true 0 [0x0B09, wordAt c.payload 8] true h ?_ (Dev.event_queues ..) fun hacc => ?_
    · dsimp only
      rw [himg, hlocked, hbad, if_neg Bool.false_ne_true, if_neg Bool.false_ne_true, if_neg Bool.false_ne_true, if_neg hfree, Bool.true_or, if_pos rfl]
      rfl
    · rw [Dev.answer_mem, Dev.withJob_mem, Dev.answer_part, Dev.withJob_part, Dev.answer_jobs, Dev.withJob_jobs, List.getLast?_concat, Dev.event_part]
      exact ⟨⟨rfl, rfl⟩, Dev.event_mem .., hacc, hs, rfl⟩
  · have hr : (false || !(paritySources ((served s q).part (pyPart c.payload)).rcfg held)) = false := by
      rw [show paritySources ((served s q).part (pyPart c.payload)).rcfg held = true from hsrc]
      rfl
    have hok : (rebuildShard ((served s q).part (pyPart c.payload)) (wordAt c.payload 8) dig held).1 = 0 := hshard
    obtain ⟨pages, _, hpages⟩ := (served s q).reservePages_part p 4 (x.logPages + x.slotPages)
    obtain ⟨hq, hstarted, hstopped, hcapped, hrestored⟩ := ((served s q).reservePages p 4 (x.logPages + x.slotPages)).rebuilt_job p
      (mirrorLog mir) (slotOf (wordAt c.payload 8) (rebuildShard x (wordAt c.payload 8) dig held).2 dig) (rebuildParity x.rcfg held)
    rw [exec, execRebuild]
    refine devOp_accepts (d := ((served s q).reservePages p 4 (x.logPages + x.slotPages)).rebuilt p (mirrorLog mir)
        (slotOf (wordAt c.payload 8) (rebuildShard x (wordAt c.payload 8) dig held).2 dig) (rebuildParity x.rcfg held)) p 0 true 0
      ([0, wordAt c.payload 8] ++ (slotOf (wordAt c.payload 8) (rebuildShard x (wordAt c.payload 8) dig held).2 dig).listDigest) true h ?_
      (hq.trans hpages) fun hacc => ?_
    · dsimp only
      rw [himg, hlocked, hbad, if_neg Bool.false_ne_true, if_neg Bool.false_ne_true, if_neg Bool.false_ne_true, if_neg hfree, hr,
        if_neg Bool.false_ne_true, hok, if_neg (by decide)]
      rfl
    · rw [Dev.answer_part, Dev.withJob_part]
      exact ⟨⟨rfl, rfl⟩, hacc, hstarted, hstopped, hcapped, hrestored⟩

/-- REPLAY of the steps after a restored base starts (R365). -/
theorem replay_gives (s : State) (q : Nat) (c : Cmd) (b : BaseSlot) :
    let p := wordAt c.payload 0
    let x := s.dev.part p
    itsTurn s q 0x63 c → x.image.isSome = true → x.started = true → s.dev.locked p = false →
      ∀ r n, x.restored = some n → wordAt c.payload 4 = (n + 1) % 2 ^ 32 → wordAt c.payload 4 ≤ wordAt c.payload 8 →
        (x.log.filter (fun r => lrType r == 4)).getLast? = some r → wordAt c.payload 8 ≤ lrStep r → x.base n = some b →
        wrongRun s.nv s.dev x b.header = false →
      ∃ t, exec (.replay q) s = .next t ∧ SameOutside s t ∧ Accepted s t q c ∧ (t.dev.part p).stopped = false ∧
        (t.dev.part p).replay = some { first := wordAt c.payload 4, upto := wordAt c.payload 8, queue := c.hdr.queue, cseq := c.hdr.seq } := by
  intro p x h hi hs hl r n hres hfirst hle hcaps hup hbase hrun
  have himg : (((served s q).part (pyPart c.payload)).image.isNone || !((served s q).part (pyPart c.payload)).started) = false := by
    rw [Option.isNone_eq_false_iff.2 (show ((served s q).part (pyPart c.payload)).image.isSome = true from hi),
      show ((served s q).part (pyPart c.payload)).started = true from hs]
    rfl
  have hlocked : (served s q).locked (pyPart c.payload) = false := hl
  have hrestored : ((served s q).part (pyPart c.payload)).restored = some n := hres
  have hcap : (((served s q).part (pyPart c.payload)).log.filter (fun r => lrType r == 4)).getLast? = some r := hcaps
  have hb : ((served s q).part (pyPart c.payload)).base n = some b := hbase
  have hsame : wrongRun s.nv (served s q) ((served s q).part (pyPart c.payload)) b.header = false := hrun
  have hrange : (wordAt c.payload 4 != (n + 1) % 2 ^ 32 || decide (wordAt c.payload 8 < wordAt c.payload 4) ||
      !((some r).any (fun r => decide (wordAt c.payload 8 ≤ lrStep r)))) = false := by
    rw [hfirst, bne_self_eq_false, decide_eq_false (Nat.not_lt.2 (hfirst ▸ hle)), Option.any_some, decide_eq_true hup]
    rfl
  obtain ⟨hq, hbegun⟩ := Dev.replayBegun_part (d := served s q) (c := c) (b := n) _ rfl
  rw [exec, execReplay]
  refine devOp_accepts (d := (served s q).replayBegun c n) p 0 false 0 [] true h ?_ hq fun hacc => ?_
  · dsimp only
    rw [himg, hlocked, hrestored, if_neg Bool.false_ne_true, if_neg Bool.false_ne_true]
    dsimp only
    rw [hcap, hrange, if_neg Bool.false_ne_true, hb]
    dsimp only
    rw [hsame, if_neg Bool.false_ne_true]
    rfl
  · rw [Dev.answer_part, Dev.withJob_part]
    exact ⟨⟨rfl, rfl⟩, hacc, hbegun⟩

/-- DISCARD of a later epoch takes it (R353). -/
theorem discard_gives (s : State) (q : Nat) (c : Cmd) (bist : List Nat) :
    let p := wordAt c.payload 0
    let x := s.dev.part p
    itsTurn s q 0x52 c → x.started = true → s.dev.locked p = false → serialLater 16 (wordAt c.payload 4 % 2 ^ 16) x.epoch = true →
      x.stopped = true → x.ran = false → wordAt c.payload 8 = 0xFFFFFFFF → s.dev.brd.state = .ready →
      ∃ t, exec (.discard q bist) s = .next t ∧ SameOutside s t ∧ Accepted s t q c ∧ (t.dev.part p).stopped = false ∧
        (t.dev.part p).epoch = wordAt c.payload 4 % 2 ^ 16 ∧ (t.dev.part p).capped = x.capped := by
  intro p x h hs hl hser hstop hran hrev hready
  obtain ⟨d, hd⟩ := exists_eq (a' := (s.turned q).dev.discardBegun (pyPart c.payload) (wordAt c.payload 4 % 2 ^ 16))
  have hstep : discardStep ((s.turned q).nv, (s.turned q).dev) (pyPart c.payload) (wordAt c.payload 4 % 2 ^ 16) bist =
      (true, (s.turned q).nv, d) := by
    rw [hd]
    exact discardStep_of_stopped (nv := (s.turned q).nv) (d := (s.turned q).dev) (p := pyPart c.payload) hstop hran hready _ bist
  obtain ⟨hq, hstopped, hepoch, hcapped⟩ := Dev.discardBegun_part d hd
  have hstarted : ((s.turned q).dev.part (pyPart c.payload)).started = true := hs
  have hlocked : (s.turned q).dev.locked (pyPart c.payload) = false := hl
  have hlater : serialLater 16 (wordAt c.payload 4 % 2 ^ 16) ((s.turned q).dev.part (pyPart c.payload)).epoch = true := hser
  rw [exec, execDiscard]
  refine runOp_accepts (t := s.turned q) (d := d) p 0 true 0 [0, (d.part p).capped] true h rfl ?_ hq fun hacc => ?_
  · dsimp only
    rw [hstarted, hlocked, hlater, if_pos hrev, hstep]
    rfl
  · rw [Dev.answer_part, Dev.withJob_part]
    exact ⟨⟨rfl, rfl⟩, hacc, hstopped, hepoch, hcapped⟩

/-- DISCARD of another epoch is refused. -/
theorem discard_refused (s : State) (q : Nat) (c : Cmd) (bist : List Nat) :
    let p := wordAt c.payload 0
    let x := s.dev.part p
    itsTurn s q 0x52 c → x.started = true → s.dev.locked p = false → serialLater 16 (wordAt c.payload 4 % 2 ^ 16) x.epoch = false →
      ∃ t, exec (.discard q bist) s = .next t ∧ OnlyReply s t q ∧ Answered s t q c 0x0005 [] := by
  intro p x h hs hl hser
  rw [exec, execDiscard]
  refine runOp_onlyReply (a := bad 0x0005) h rfl ?_ rfl rfl
  dsimp only
  rw [show ((s.turned q).dev.part (pyPart c.payload)).started = true from hs, show (s.turned q).dev.locked (pyPart c.payload) = false from hl,
    show serialLater 16 (wordAt c.payload 4 % 2 ^ 16) ((s.turned q).dev.part (pyPart c.payload)).epoch = false from hser]
  rfl

/-- Settles O50, a command at a time. -/
theorem basesAreTestedRebuiltAndReplayed : Obligations.BasesAreTestedRebuiltAndReplayed := by
  unfold Obligations.BasesAreTestedRebuiltAndReplayed
  intro s q c fetched dig mir ch bist b p x
  exact ⟨base_gives s q c, ptest_gives s q c fetched b, ptest_refused s q c fetched, rebuild_gives s q c dig mir ch, replay_gives s q c b,
    discard_gives s q c bist, discard_refused s q c bist⟩

end Sys2Proof.Machine
end

section
/-! SUPPORT. What every phase of a boot leaves: no core and no context, ENABLE and the mark of a forced Minimal boot, the counts of
boots, and what has been sent (R370 to R379). -/

namespace Sys2Proof.Machine
open Sys2Proof Sys2Proof.Machine.Claims

/-- A phase of the boot has run: the cores, the contexts, ENABLE and MINB are as they were, and nothing that was sent is taken back. -/
structure Dev.Boots (d e : Dev) : Prop where
  cores : e.cores = d.cores
  ctxs : e.ctxs = d.ctxs
  enable : e.brd.enable = d.brd.enable
  minb : e.brd.minb = d.brd.minb
  tx : d.tx ⊆ e.tx

namespace Dev.Boots

section
variable {d e f : Dev}

theorem of_tx (hc : e.cores = d.cores) (hx : e.ctxs = d.ctxs) (hb : e.brd = d.brd) (ht : d.tx ⊆ e.tx) : d.Boots e :=
  ⟨hc, hx, congrArg Board.enable hb, congrArg Board.minb hb, ht⟩

theorem refl (d : Dev) : d.Boots d := ⟨rfl, rfl, rfl, rfl, List.Subset.refl _⟩

theorem trans (h : d.Boots e) (k : e.Boots f) : d.Boots f :=
  ⟨k.cores.trans h.cores, k.ctxs.trans h.ctxs, k.enable.trans h.enable, k.minb.trans h.minb, List.Subset.trans h.tx k.tx⟩

theorem of_ite {c : Prop} [Decidable c] (h : d.Boots e) (k : d.Boots f) : d.Boots (if c then e else f) := by
  split
  · exact h
  · exact k

end

theorem foldl {α : Type} {g : Dev → α → Dev} (h : ∀ d a, Dev.Boots d (g d a)) (l : List α) (d : Dev) : d.Boots (l.foldl g d) := by
  induction l generalizing d with
  | nil => exact refl d
  | cons a l ih => exact (h d a).trans (ih _)

variable (d : Dev)

theorem modBrd (g : Board → Board) (he : (g d.brd).enable = d.brd.enable) (hm : (g d.brd).minb = d.brd.minb) : d.Boots (d.modBrd g) :=
  ⟨rfl, rfl, he, hm, List.Subset.refl _⟩

/-! ## Frames and records that leave -/

theorem modPort (k : Nat) (g : Port → Port) : d.Boots (d.modPort k g) := of_tx rfl rfl rfl (List.Subset.refl _)
theorem modChan (k : Nat) (g : Channel → Channel) : d.Boots (d.modChan k g) := of_tx rfl rfl rfl (List.Subset.refl _)
theorem freshChoice (n : Nat) : d.Boots (d.freshChoice n).2 := of_tx rfl rfl rfl (List.Subset.refl _)
theorem send (t : Tx) : d.Boots (d.send t) := of_tx rfl rfl rfl (List.subset_append_left _ _)
theorem leave (e : Nat) (t : Tx) : d.Boots (d.leave e t) := (modPort d e _).trans (send _ t)

theorem serveOwn (n k : Nat) : d.Boots (d.serveOwn n k) := by
  induction n generalizing d with
  | zero => exact refl d
  | succ n ih =>
    unfold Dev.serveOwn
    dsimp only
    split
    · exact refl d
    · split
      · exact ((modPort d k _).trans (leave _ k _)).trans (ih _)
      · exact refl d

theorem sendOn (k prio bytes : Nat) (t : Tx) : d.Boots (d.sendOn k prio bytes t) :=
  of_ite (leave d k t) ((modPort d k _).trans (serveOwn _ _ k))

theorem sendCmd (dst : Nat) (t : Tx) : d.Boots (d.sendCmd dst t) := by
  unfold Dev.sendCmd
  split
  · exact leave d _ t
  · exact send d t

theorem emit (ch : Nat) (r : Raise) : d.Boots (d.emit ch r) :=
  of_ite ((modChan d ch _).trans (sendCmd _ _ _)) (modChan d ch _)

theorem record (r : Raise) : d.Boots (d.record r) := of_tx rfl rfl rfl (List.Subset.refl _)

theorem raise (r : Raise) : d.Boots (d.raise r) := by
  unfold Dev.raise
  split
  · exact of_tx rfl rfl rfl (List.Subset.refl _)
  · split
    · exact (record d r).trans (emit _ _ r)
    · exact record d r

theorem event (code part ctx lcore : Nat) (detail : List Nat) : d.Boots (d.event code part ctx lcore detail) := raise d _
theorem recordOnly (code part : Nat) (detail : List Nat) : d.Boots (d.recordOnly code part detail) := raise d _

theorem cause (c unit : Nat) : d.Boots (d.cause c unit) := by
  refine modBrd d _ ?_ ?_ <;> split <;> rfl

theorem bist (cls unit row : Nat) : d.Boots (d.bist cls unit row) := recordOnly d _ _ _
theorem bistList (cls n : Nat) (l : List Nat) : d.Boots (bistList cls n l d) := foldl (fun d k => bist d cls k 0) _ d

/-! ## The phases -/

theorem bootKeys (nv : NonVol) (slot : Nat) : d.Boots (Dev.bootKeys nv d slot) := ⟨rfl, rfl, rfl, rfl, List.Subset.refl _⟩

theorem phase2 (env : BringUpEnv) : d.Boots (d.phase2 env) := by
  refine .trans ?_ (foldl (fun d k => cause d 4 k) _ _)
  refine .trans ?_ (foldl (fun d e => of_ite (modPort d e _) (refl d)) _ _)
  exact (bistList d 0 _ _).trans ((bistList _ 1 _ _).trans ((bistList _ 2 _ _).trans ((bistList _ 7 _ _).trans (bistList _ 8 _ _))))

theorem numberFrame (nv : NonVol) (f : Nat) : d.Boots (Dev.numberFrame nv d f) :=
  ⟨rfl, rfl, rfl, rfl, List.Subset.refl _⟩

theorem powerCage (k : Nat) : d.Boots (d.powerCage k) := ⟨rfl, rfl, rfl, rfl, List.Subset.refl _⟩

theorem portUp (k : Nat) : d.Boots (d.portUp k) :=
  of_ite (refl d) (((modPort d k _).trans (event _ _ _ _ _ _)).trans (serveOwn _ _ k))

theorem anyPort (net : Nat) : d.Boots (d.anyPort net).2 := of_tx rfl rfl rfl (List.Subset.refl _)

theorem joinGroup (net group : Nat) : d.Boots (d.joinGroup net group) := by
  unfold Dev.joinGroup
  dsimp only
  split
  · exact (anyPort d net).trans (sendOn _ _ _ _ _)
  · exact refl d

theorem cagesOn (ports : List Nat) : d.Boots (d.cagesOn ports) :=
  foldl (fun d k => (⟨rfl, rfl, rfl, rfl, List.Subset.refl _⟩ : d.Boots (d.modCage k _)).trans (powerCage _ k)) ports d

theorem phase6 (env : BringUpEnv) (ports : List Nat) : d.Boots (d.phase6 env ports) := by
  rw [Dev.phase6_eq]
  exact (((cagesOn d ports).trans (foldl portUp _ _)).trans (joinGroup _ 0 _)).trans (joinGroup _ 1 _)

theorem sayHello (nv : NonVol) (e : Nat) : d.Boots (d.sayHello nv e) := (sendOn d _ _ _ _).trans (sendOn _ _ _ _ _)

theorem firstAnnounce (nv : NonVol) : d.Boots (d.firstAnnounce nv) := foldl (fun d e => of_ite (sayHello d nv e) (refl d)) _ d

theorem minimal (env : BringUpEnv) : d.Boots (d.minimal env) := by
  have hstart : d.Boots (d.modBrd (fun b => { b with state := .minimal, phase := 7 })) := ⟨rfl, rfl, rfl, rfl, List.Subset.refl _⟩
  refine of_ite (hstart.trans (phase6 _ env _)) (hstart.trans ?_)
  exact (foldl (fun d e => modPort d e _) _ _).trans ⟨rfl, rfl, rfl, rfl, List.Subset.refl _⟩

theorem bootDone (env : BringUpEnv) : d.Boots (d.bootDone env) := ⟨rfl, rfl, rfl, rfl, List.Subset.refl _⟩

end Dev.Boots

/-! ## The phases that also write what is non-volatile -/

/-- A phase of the boot has run, and it counts neither a boot nor a reset. -/
structure Mod.Boots (x y : Mod) : Prop where
  bootn : y.1.bootn = x.1.bootn
  rstm : y.1.rstm = x.1.rstm
  dev : x.2.Boots y.2

namespace Mod.Boots

theorem of_dev {x : Mod} {e : Dev} (h : x.2.Boots e) : Mod.Boots x (x.1, e) := ⟨rfl, rfl, h⟩

theorem of_nv {x : Mod} {nv : NonVol} {e : Dev} (hb : nv.bootn = x.1.bootn) (hr : nv.rstm = x.1.rstm) (h : x.2.Boots e) :
    Mod.Boots x (nv, e) := ⟨hb, hr, h⟩

theorem refl (x : Mod) : Mod.Boots x x := ⟨rfl, rfl, .refl _⟩

theorem trans {x y z : Mod} (h : Mod.Boots x y) (k : Mod.Boots y z) : Mod.Boots x z :=
  ⟨k.bootn.trans h.bootn, k.rstm.trans h.rstm, h.dev.trans k.dev⟩

theorem foldl {α : Type} {g : Mod → α → Mod} (h : ∀ x a, Mod.Boots x (g x a)) (l : List α) (x : Mod) : Mod.Boots x (l.foldl g x) := by
  induction l generalizing x with
  | nil => exact refl x
  | cons a l ih => exact (h x a).trans (ih _)

variable (x : Mod)

theorem phase3 (env : BringUpEnv) : Mod.Boots x (phase3 x env) := by
  refine ⟨rfl, rfl, Dev.Boots.foldl (fun d f => ?_) _ _⟩
  dsimp only
  split
  · exact (Dev.Boots.numberFrame d _ f).trans (.cause _ _ _)
  · exact .numberFrame d _ f

theorem superRow (r : Nat × Nat) : Mod.Boots x (superRow x r) := by
  unfold Machine.superRow
  dsimp only
  split
  · exact ⟨rfl, rfl, (Dev.Boots.bist _ _ _ _).trans (.recordOnly _ _ _ _)⟩
  · exact ⟨rfl, rfl, ((Dev.Boots.bist _ _ _ _).trans (.freshChoice _ _)).trans (.recordOnly _ _ _ _)⟩

theorem deepRetire (n : Nat) : Mod.Boots x (deepRetire n x) := by
  induction n generalizing x with
  | zero => exact refl x
  | succ n ih =>
    rw [Machine.deepRetire]
    refine .trans ?_ (ih _)
    exact ⟨rfl, rfl, (Dev.Boots.freshChoice _ _).trans (.recordOnly _ _ _ _)⟩

theorem phase4 (env : BringUpEnv) : Mod.Boots x (phase4 x env) := by
  have hbad (cls : Nat) (l : List Nat) (d : Dev) : d.Boots (l.foldl (fun d k => (d.bist cls k 0).cause cls k) d) :=
    .foldl (fun d k => (Dev.Boots.bist d cls k 0).trans (.cause _ _ _)) l d
  have hrows (l : List (Nat × Nat)) (d : Dev) : d.Boots (l.foldl (fun d r => d.bist 6 r.1 r.2) d) :=
    .foldl (fun d r => .bist d 6 _ _) l d
  unfold Machine.phase4
  dsimp only
  have hsupers (l : List Nat) (r : List (Nat × Nat)) : Mod.Boots x (r.foldl Machine.superRow
      (x.1, l.foldl (fun d k => (d.bist 3 k 0).cause 3 k) x.2)) := (of_dev (hbad 3 l x.2)).trans (foldl superRow r _)
  have hdeep (y : Mod) (l : List Nat) (r : List (Nat × Nat)) (n : Nat) : Mod.Boots y (Machine.deepRetire n
      (y.1, r.foldl (fun d r => d.bist 6 r.1 r.2) (l.foldl (fun d k => (d.bist 5 k 0).cause 5 k) y.2))) :=
    (of_dev ((hbad 5 l y.2).trans (hrows r _))).trans (deepRetire _ n)
  exact ((hsupers _ _).trans (hdeep _ _ _ _)).trans ⟨rfl, rfl, rfl, rfl, rfl, rfl, List.Subset.refl _⟩

theorem failPosition (phys : Nat) : Mod.Boots x (failPosition x phys) :=
  ⟨rfl, rfl, rfl, rfl, rfl, rfl, List.Subset.refl _⟩

theorem substitute (n : Nat) : Mod.Boots x (substitute x n).2 := by
  unfold Machine.substitute
  dsimp only
  split <;> exact ⟨rfl, rfl, rfl, rfl, rfl, rfl, List.Subset.refl _⟩

theorem waggleFailed (phys : Nat) : Mod.Boots x (waggleFailed x phys) := by
  have hfail := (of_dev (x := x) (.raise x.2 { code := 0x0C05, chan := none, lcore := (x.2.logicalAt phys).getD 0x1FF })).trans
    (failPosition _ phys)
  unfold Machine.waggleFailed
  dsimp only
  split
  · exact hfail
  · next n _ =>
    have hsub := hfail.trans (substitute _ n)
    split
    · exact hsub.trans (of_dev (.cause _ _ _))
    · exact hsub

theorem phase5 (env : BringUpEnv) (slot : Nat) : Mod.Boots x (phase5 x env slot) :=
  (foldl waggleFailed _ _).trans ⟨rfl, rfl, rfl, rfl, rfl, rfl, List.Subset.refl _⟩

theorem bootEnd (env : BringUpEnv) (slot : Nat) : Mod.Boots x (bootEnd x env slot) := by
  have hdone : x.2.Boots (x.2.bootDone env) := .bootDone x.2 env
  have hevent (code : Nat) (l : List Nat) : x.2.Boots ((x.2.bootDone env).event code 0 0 0x1FF l) := hdone.trans (.event _ code 0 0 0x1FF l)
  have hend (nv : NonVol) (hb : nv.bootn = x.1.bootn) (hr : nv.rstm = x.1.rstm) {e : Dev} (he : x.2.Boots e) :
      Mod.Boots x (nv, e.firstAnnounce nv) := by
    have hdev : x.2.Boots (e.firstAnnounce nv) := he.trans (.firstAnnounce e nv)
    exact of_nv hb hr hdev
  by_cases h : x.2.brd.dcause = 0
  · rw [bootEnd_ready x env slot h]
    split
    · exact hend { x.1 with rbc := x.1.rbv slot } rfl rfl (hevent _ _)
    · exact hend _ rfl rfl hdone
  · rw [bootEnd_degraded x env slot h]
    exact hend _ rfl rfl (hevent _ _)

/-- What follows the start of a boot. -/
theorem boot (fromP0 : Bool) (env : BringUpEnv) : Mod.Boots (bootStart x fromP0) (boot x fromP0 false env) := by
  have hslot (y : Mod) (b : Bool) (slot : Nat) :
      y.2.Boots (((if b then y.2 else y.2.recordOnly 0x0C06 0 [3]).bootKeys y.1 slot).phase2 env) := by
    refine .trans ?_ ((Dev.Boots.bootKeys _ _ slot).trans (.phase2 _ env))
    exact .of_ite (.refl _) (.recordOnly _ _ _ _)
  unfold Machine.boot
  dsimp only
  generalize bootStart x fromP0 = y
  rw [if_neg (by decide)]
  split
  · exact of_dev (.minimal _ env)
  · split
    · exact of_dev ((hslot y _ _).trans (.minimal _ env))
    · have hmem (slot : Nat) : Mod.Boots y (Machine.phase4 (Machine.phase3 (y.1, ((if slotOk y.1 env y.1.bootSlot then y.2
          else y.2.recordOnly 0x0C06 0 [3]).bootKeys y.1 slot).phase2 env) env) env) :=
        (of_dev (hslot y _ slot)).trans ((phase3 _ env).trans (phase4 _ env))
      split
      · exact (hmem _).trans (of_dev (.minimal _ env))
      · exact (hmem _).trans ((phase5 _ env _).trans ((of_dev (.phase6 _ env _)).trans (bootEnd _ env _)))

end Mod.Boots

/-- What a boot starts from: no core and no context, ENABLE as it was, one more boot counted, and all that has been sent. -/
theorem bootStart_boots (x : Mod) (fromP0 : Bool) :
    (bootStart x fromP0).1.bootn = x.1.bootn + 1 ∧ (bootStart x fromP0).1.rstm = x.1.rstm + 1 ∧ (bootStart x fromP0).2.cores = [] ∧
      (bootStart x fromP0).2.ctxs = [] ∧ (bootStart x fromP0).2.brd.enable = x.2.brd.enable ∧ x.2.tx ⊆ (bootStart x fromP0).2.tx := by
  have hdev : ∃ d : Dev, d.cores = [] ∧ d.ctxs = [] ∧ d.brd.enable = x.2.brd.enable ∧ d.tx = x.2.tx ∧ d.Boots (bootStart x fromP0).2 := by
    refine ⟨_, ?_, ?_, ?_, ?_, .of_ite ((Dev.Boots.recordOnly _ _ _ _).trans (.modBrd _ _ rfl rfl)) (.refl _)⟩ <;> rfl
  obtain ⟨d, hcores, hctxs, hen, htx, h⟩ := hdev
  exact ⟨rfl, rfl, h.cores.trans hcores, h.ctxs.trans hctxs, h.enable.trans hen, htx ▸ h.tx⟩

/-- A boot in which nothing forces Minimal boot. -/
theorem boot_leaves (x : Mod) (fromP0 : Bool) (env : BringUpEnv) (y : Mod) (hy : y = boot x fromP0 false env) :
    y.1.bootn = x.1.bootn + 1 ∧ y.1.rstm = x.1.rstm + 1 ∧ y.2.cores = [] ∧ y.2.ctxs = [] ∧ y.2.brd.enable = x.2.brd.enable ∧
      x.2.tx ⊆ y.2.tx := by
  obtain ⟨hbootn, hrstm, hcores, hctxs, hen, htx⟩ := bootStart_boots x fromP0
  obtain ⟨hb, hr, h⟩ := Mod.Boots.boot x fromP0 env
  rw [hy]
  exact ⟨hb.trans hbootn, hr.trans hrstm, h.cores.trans hcores, h.ctxs.trans hctxs, h.enable.trans hen, List.Subset.trans htx h.tx⟩

/-- A boot ends Ready, Degraded or in Minimal boot. -/
theorem boot_state (x : Mod) (fromP0 quick : Bool) (env : BringUpEnv) : (boot x fromP0 quick env).2.brd.state = .ready ∨
    (boot x fromP0 quick env).2.brd.state = .degraded ∨ (boot x fromP0 quick env).2.brd.state = .minimal := by
  obtain ⟨hmin, -⟩ | ⟨slot, z, -, -, -, -, hz⟩ := boot_cases x fromP0 quick env
  · exact .inr (.inr hmin)
  · rw [hz, bootEnd_state]
    split
    · exact .inl rfl
    · exact .inr (.inl rfl)

/-- A quick cycle of ENABLE forces Minimal boot, and burns nothing (R436). -/
theorem boot_quick (x : Mod) (fromP0 : Bool) (env : BringUpEnv) : (boot x fromP0 true env).2.brd.state = .minimal ∧
    (boot x fromP0 true env).2.brd.minb = true ∧ (boot x fromP0 true env).1.rbc = x.1.rbc :=
  ⟨Dev.minimal_state _ env, (Dev.Boots.minimal _ env).minb, rfl⟩

end Sys2Proof.Machine
end

section
/-! PROOF. O54: ENABLE and the boot, and the failures that are taken in service (R343, R371, R372, R376, R399, R405, R432, R436). -/

namespace Sys2Proof.Machine
open Sys2Proof Sys2Proof.Machine.Claims

/-! ## ENABLE -/

/-- The module as a rising edge of ENABLE finds it. -/
def Dev.enabled (d : Dev) : Dev := d.modBrd (fun b => { b with enable := true })

theorem exec_enableAssert_of_standby {s : State} {quick : Bool} {env : BringUpEnv} (hen : s.dev.brd.enable = false)
    (hsb : s.dev.brd.sb12 = true) (hst : s.dev.brd.state = .standby) (hov : s.dev.brd.ovHold = false)
    (hlow : 48000 ≤ s.dev.brd.vinMv) (hhigh : s.dev.brd.vinMv ≤ 58000) : exec (.enableAssert quick env) s =
      .next { s with nv := (boot (s.nv, s.dev.enabled) true quick env).1, dev := (boot (s.nv, s.dev.enabled) true quick env).2 } := by
  change execEnableAssert quick env s = _
  have hnot : ¬ 59000 < s.dev.brd.vinMv := by omega
  simp [execEnableAssert, Dev.enabled, Dev.mayStart, Dev.modBrd, hen, hsb, hst, hov, hlow, hhigh, hnot]

/-- Above 59 V the overvoltage response comes in place of a boot (R432). -/
theorem exec_enableAssert_of_overvoltage {s : State} {env : BringUpEnv} (hen : s.dev.brd.enable = false)
    (hover : 59000 < s.dev.brd.vinMv) : exec (.enableAssert false env) s = .next { s with dev := s.dev.enabled.modBrd (fun b => { b with
      ovlo := true, ovloNew := true, ovHold := true, faultPin := true }) } := by
  change execEnableAssert false env s = _
  simp [execEnableAssert, Dev.enabled, Dev.modBrd, hen, hover]

section
variable {x : Mod} {env : BringUpEnv}

/-- A clean boot runs from the boot slot, and nothing degrades it. -/
theorem boot_slot_of_clean (hc : cleanBoot x.1 env) (fromP0 : Bool) : (boot x fromP0 false env).2.brd.slot = x.1.bootSlot := by
  have hok := slotOk_eq_of_rollback (bootStart_rollback x fromP0) env x.1.bootSlot
  have hslot : (bootStart x fromP0).1.bootSlot = x.1.bootSlot := rfl
  obtain ⟨_, _, _, _, _, _, _, _, _, hchip, hfw, _, hburfa, _⟩ := id hc
  unfold boot
  dsimp only
  generalize bootStart x fromP0 = w at hok hslot ⊢
  rw [hslot, hok, hburfa, Dev.phase2_of_clean hc, hchip, hfw]
  have hkeeps (y : Mod) : Mod.anchor (phase5 (phase4 (phase3 y env) env) env x.1.bootSlot) = Mod.anchor y :=
    (phase5_anchor _ env _).trans ((phase4_anchor _ env).trans (phase3_anchor _ env))
  refine (bootEnd_slot _ env _).trans ((congrArg (·.2.1) (Dev.phase6_standing _ env _)).trans ?_)
  exact congrArg Prod.snd (hkeeps _)

theorem boot_ready_of_clean (hc : cleanBoot x.1 env) (fromP0 : Bool) : (boot x fromP0 false env).2.brd.state = .ready ∧
    (boot x fromP0 false env).1.rbc = max x.1.rbc (x.1.rbv x.1.bootSlot) := by
  obtain ⟨z, hz, hrb, hcause, -⟩ := boot_of_clean hc fromP0
  rw [hz, bootEnd_state, bootEnd_nv, if_pos hcause, if_pos hcause, ← NonVol.rbc_eq_of_rollback hrb, ← NonVol.rbv_eq_of_rollback hrb]
  exact ⟨rfl, rfl⟩

end

/-! ## Failures in service -/

/-- An image that is unloaded leaves its partition without one. -/
theorem Dev.unload_image (d : Dev) (p : Nat) (h : (d.part p).image.isSome = true) : ((d.unload p).part p).image = none := by
  obtain ⟨i, hi⟩ := Option.isSome_iff_exists.1 h
  have hlast : ∃ e, d.unload p = (Dev.modPart e p Partition.unloaded).event 0x0904 p 0 0x1FF [] := by
    rw [Dev.unload, hi]
    exact ⟨_, rfl⟩
  obtain ⟨e, he⟩ := hlast
  rw [he, Dev.event_part, Dev.modPart_part_self]
  rfl

theorem coreFailure_gives {s : State} {n : Nat} (hn : n < nCores) : ∃ t, exec (.coreFailure n) s = .next t ∧ SameOutside s t ∧
    t.dev.mem = s.dev.mem ∧ t.dev.cores = s.dev.cores ∧ (t.dev.part (s.dev.partOf n)).resetDue = true ∧ n ∈ t.dev.brd.coreFail := by
  refine ⟨_, onUnit_eq (decide_eq_true hn) _, ⟨rfl, rfl⟩, ?_, ?_, ?_, ?_⟩
  · exact Dev.contextFault_mem ..
  · exact Dev.contextFault_cores ..
  · exact congrArg Partition.resetDue (Dev.contextFault_part_self s.dev 0x0C01 (s.dev.partOf n) (s.dev.ctxOf n) n [])
  · change n ∈ if _ then _ else _
    split
    · next h => exact List.contains_iff_mem.1 h
    · exact List.mem_append_right _ (List.mem_singleton_self n)

theorem partitionResetFailure_gives {s : State} {p : Nat} (hp : p < nParts) (hr : s.dev.resetting p = true)
    (hi : (s.dev.part p).image.isSome = true) : ∃ t, exec (.partitionResetFailure p) s = .next t ∧ SameOutside s t ∧
      (t.dev.part p).image = none ∧ (t.dev.part p).resetDue = false := by
  have himage : ((s.dev.event 0x0A03 p 0 0x1FF []).unload p |>.part p).image = none :=
    Dev.unload_image _ p (by rwa [Dev.event_part])
  refine ⟨_, onUnit_eq (decide_eq_true hp) _, ⟨rfl, rfl⟩, ?_⟩
  dsimp only
  rw [if_neg (by simp [hr]), Dev.modPart_part_self]
  exact ⟨himage, rfl⟩

/-! ## The obligation -/

/-- Settles O54: a boot counts itself and leaves no core (`boot_leaves`) and no byte (`boot_mem`); a clean one comes to the end of P6
without a cause of Degraded (`boot_ready_of_clean`). -/
theorem bringUpEndsAndFailuresAreTaken : Obligations.BringUpEndsAndFailuresAreTaken := by
  unfold Obligations.BringUpEndsAndFailuresAreTaken
  intro s env n p
  refine ⟨fun hen hsb hst hov hlow hhigh => ⟨fun hc => ?_, ?_⟩, fun hen hover => ?_, fun hen hup hmin => ?_, coreFailure_gives,
    partitionResetFailure_gives, ⟨_, rfl, ⟨rfl, rfl⟩, rfl⟩⟩
  · obtain ⟨-, hrstm, hcores, -, henable, -⟩ := boot_leaves (s.nv, s.dev.enabled) true env _ rfl
    obtain ⟨hready, hrbc⟩ := boot_ready_of_clean (x := (s.nv, s.dev.enabled)) hc true
    exact ⟨_, exec_enableAssert_of_standby hen hsb hst hov hlow hhigh, rfl, hready, henable, boot_mem _ true false env, hcores, hrstm, hrbc,
      boot_slot_of_clean (x := (s.nv, s.dev.enabled)) hc true⟩
  · exact ⟨_, exec_enableAssert_of_standby hen hsb hst hov hlow hhigh, boot_quick _ true env⟩
  · exact ⟨_, exec_enableAssert_of_overvoltage hen hover, ⟨rfl, rfl⟩, rfl, rfl, rfl⟩
  · refine ⟨_, rfl, ⟨rfl, rfl⟩, ?_⟩
    simp [hen, hup, hmin, Dev.modBrd]

end Sys2Proof.Machine
end

section
/-! PROOF. O51 fails: where QSERVED lies above the queues' numbers, several queues have the turn at once (R309, R384). -/

namespace Sys2Proof.Machine
open Sys2Proof Sys2Proof.Machine.Claims

/-- The header of a RESET, in the clear. -/
def resetHeader : CmdHdr := ⟨1, 1, 0, false, false, false, 0x90, 0, 0, 4, 0, 0, 0, 0⟩

/-- RESET LEVEL 2 of partition 0. -/
def resetRequest : Cmd := { hdr := resetHeader, src := 0, payload := toLe 4 2 }

/-- Queues 0 and 1 each hold a RESET of partition 0, whose lock a job holds; QSERVED 200 puts every queue at distance 0. -/
def twoResets : State :=
  { nv := { opened := true }
    dev := { brd := { state := .ready }
             queues := [(0, { cur := some resetRequest }), (1, { cur := some resetRequest })]
             qserved := 200
             jobs := [{ queue := 0, cseq := 0, opcode := 0x42, part := 0, done := false, lock := true }] } }

/-- A boot that finds nothing; the statement's clause on partition resets does not read it. -/
def noFindings : BringUpEnv := ⟨[], [], [], [], [], [], [], [], 0, [], [], false, 0, [], false, [], []⟩

theorem twoResets_itsTurn {q : Nat} (hq : q = 0 ∨ q = 1) : itsTurn twoResets q 0x90 resetRequest := by
  rcases hq with rfl | rfl
  · exact ⟨⟨by decide, rfl, by decide, rfl, rfl, by decide⟩, rfl, by decide⟩
  · exact ⟨⟨by decide, rfl, by decide, rfl, rfl, by decide⟩, rfl, by decide⟩

/-- The row takes the first of the two queues, and the other one goes on waiting. -/
theorem twoResets_first : ∃ t, exec (.partitionReset 0 []) twoResets = .next t ∧ OnlyReply twoResets t 0 := by
  have hfind : (List.range nQueues).find? (fun q => (twoResets.dev.queue q).cur.any (fun c =>
      c.hdr.opcode == 0x90 && (resetLevel 2 c && rstTarget c.payload == 0)) && twoResets.dev.myTurn q) = some 0 := by decide
  obtain ⟨t, ht, hreply, -⟩ := runOp_onlyReply (mine := fun c => resetLevel 2 c && rstTarget c.payload == 0)
    (f := fun _ s => let r := resetPart 0 [] s; (some r.1, r.2)) (a := bad 0x0007) (twoResets_itsTurn (.inl rfl)) (by decide) rfl rfl rfl
  refine ⟨t, ?_, hreply⟩
  rw [exec, execPartitionReset, if_neg (by decide), if_neg (by decide)]
  dsimp only
  rw [hfind]
  exact ht

/-- Refutes O51: in `twoResets` it is the turn of queue 1, but the commanded PARTITION_RESET answers queue 0 and leaves the request of
queue 1 where it is. -/
theorem not_resetsLeaveTheirLevelClean : ¬ Obligations.ResetsLeaveTheirLevelClean := by
  unfold Obligations.ResetsLeaveTheirLevelClean
  intro h
  obtain ⟨-, -, -, hcommanded, -⟩ := h twoResets 1 0 resetRequest [] noFindings
  obtain ⟨hlocked, -⟩ := hcommanded (twoResets_itsTurn (.inr rfl)) (by decide) (by decide) (by decide) (by decide)
  obtain ⟨t, ht, -, -, hcur, -⟩ := hlocked (by decide)
  obtain ⟨u, hu, -, -, -, hother⟩ := twoResets_first
  cases ht.symm.trans hu
  rw [hother 1 (by decide)] at hcur
  nomatch (rfl : (twoResets.dev.queue 1).cur = some resetRequest).symm.trans hcur

end Sys2Proof.Machine
end

section
/-! SUPPORT. What the loader's functions leave: the channels of the events, the black box and the module's state, and the partition's job
(R309, R326). -/

namespace Sys2Proof.Machine
open Sys2Proof Sys2Proof.Machine.Claims

/-! ## What an event reads as it leaves -/

/-- The channels of the events, the black box and the module's state. -/
def Dev.voice (d : Dev) : Store Channel × BlackBox × ModState := (d.chans, d.bb, d.brd.state)

section
variable {d e : Dev}

theorem chan_of_voice (h : e.voice = d.voice) (k : Nat) : e.chan k = d.chan k := by
  have hc : e.chans = d.chans := congrArg (·.1) h
  rw [Dev.chan, hc, Dev.chan]
theorem bb_of_voice (h : e.voice = d.voice) : e.bb = d.bb := congrArg (fun x => x.2.1) h
theorem sends_of_voice (h : e.voice = d.voice) : e.sends = d.sends := by
  have hs : e.brd.state = d.brd.state := congrArg (fun x => x.2.2) h
  rw [Dev.sends, hs, Dev.sends]

end

section
variable (d : Dev) (p : Nat)

@[simp] theorem Dev.freePage_voice (dev : Nat) : (d.freePage p dev).2.voice = d.voice := by
  unfold Dev.freePage
  dsimp only
  split <;> rfl

@[simp] theorem Dev.takePages_voice (dev n : Nat) : (Dev.takePages p dev n d).2.voice = d.voice := by
  obtain ⟨tiers, fi, h⟩ := Dev.takePages_eq p dev n d
  rw [h]
  rfl

@[simp] theorem Dev.reservePages_voice (dev n : Nat) : (Dev.reservePages p dev n d).voice = d.voice := d.takePages_voice p dev n

@[simp] theorem Dev.placePage_voice (g : Seg) (page : Nat) (devs : List Nat) : (d.placePage p g page devs).voice = d.voice := by
  unfold Dev.placePage
  split
  · rfl
  · next dev _ =>
    have h := d.freePage_voice p dev
    dsimp only
    split
    · exact h
    · exact h

@[simp] theorem Dev.placePage_stem (g : Seg) (page : Nat) (devs : List Nat) : (d.placePage p g page devs).stem = d.stem := by
  unfold Dev.placePage
  split
  · rfl
  · next dev _ =>
    have h := d.freePage_stem p dev
    dsimp only
    split
    · exact h
    · exact h

theorem LoadJob.placeBy_keeps (j : LoadJob) (f : Seg → Bool) (devs : Seg → List Nat) : (j.placeBy f devs d).voice = d.voice ∧
    (j.placeBy f devs d).stem = d.stem := by
  unfold LoadJob.placeBy
  constructor
  · refine foldl_keeps Dev.voice (fun d page => ?_) _ d
    split
    · exact d.placePage_voice ..
    · rfl
  · refine foldl_stem _ d fun d page => ?_
    split
    · exact d.placePage_stem ..
    · rfl

theorem LoadJob.place_keeps (j : LoadJob) : (j.place d).voice = d.voice ∧ (j.place d).stem = d.stem := by
  have h (d : Dev) (f : Seg → Bool) (devs : Seg → List Nat) := LoadJob.placeBy_keeps d j f devs
  unfold LoadJob.place
  dsimp only
  exact ⟨(h _ _ _).1.trans ((h _ _ _).1.trans (h _ _ _).1), (h _ _ _).2.trans ((h _ _ _).2.trans (h _ _ _).2)⟩

@[simp] theorem Dev.contextsToStart_voice : (d.contextsToStart p).voice = d.voice := by
  have hempty : ((d.partCores p).foldl Dev.emptyCore d).voice = d.voice := by
    refine foldl_keeps Dev.voice (fun d n => ?_) _ d
    rfl
  refine Eq.trans ?_ hempty
  refine (foldl_keeps Dev.voice (fun d c => ?_) _ _ :)
  rfl

@[simp] theorem Dev.firstResident_voice : (d.firstResident p).voice = d.voice := by
  unfold Dev.firstResident
  split
  · refine (foldl_keeps Dev.voice (fun d c => ?_) _ d :)
    rfl
  · rfl

@[simp] theorem Dev.contextsInPlace_voice : (d.contextsInPlace p).voice = d.voice := by
  unfold Dev.contextsInPlace
  dsimp only
  split
  · exact (Dev.firstResident_voice _ p).trans (d.contextsToStart_voice p)
  · exact d.contextsToStart_voice p

@[simp] theorem Dev.contextsInPlace_stem : (d.contextsInPlace p).stem = d.stem := by
  unfold Dev.contextsInPlace
  dsimp only
  split
  · exact (Dev.firstResident_stem _ p).trans (d.contextsToStart_stem p)
  · exact d.contextsToStart_stem p

@[simp] theorem Dev.powerFrames_voice (on : Bool) : (d.powerFrames p on).voice = d.voice := by
  refine (foldl_keeps Dev.voice (fun d f => ?_) _ d :)
  rfl

@[simp] theorem Dev.endSession_voice (installed : Bool) : (d.endSession p installed).voice = d.voice := by
  unfold Dev.endSession
  split
  · rfl
  · next l h =>
    dsimp only
    split
    · rfl
    · have hkeys (e : Dev) : ((hdCtxs l.header).foldl (fun d c => d.eraseKey 2 c) e).voice = e.voice := by
        refine foldl_keeps Dev.voice (fun d c => ?_) _ e
        rfl
      exact (hkeys _).trans (Dev.powerFrames_voice _ p false)

/-- The end of a session leaves of the partition's job everything but the session. -/
theorem Dev.endSession_job (installed : Bool) : (d.endSession p installed).queues = d.queues ∧
    ((d.endSession p installed).part p).job = { (d.part p).job with load := none } := by
  unfold Dev.endSession
  split
  · next h => exact ⟨rfl, by rw [Partition.job, h]⟩
  · next l h =>
    have hjob : ((d.modPart p (fun x => { x with load := none })).part p).job = { (d.part p).job with load := none } := by
      rw [Dev.modPart_part_self]
      rfl
    dsimp only
    split
    · exact ⟨rfl, hjob⟩
    · have hstem (e : Dev) : ((hdCtxs l.header).foldl (fun d c => d.eraseKey 2 c) (e.powerFrames p false)).stem = e.stem :=
        (foldl_stem _ _ fun d c => d.eraseKey_stem 2 c).trans (e.powerFrames_stem p false)
      exact ⟨(queues_of_stem (hstem _)).trans rfl, (job_of_stem (hstem _) p).trans hjob⟩

end

/-! ## The installation (R326) -/

/-- The device with the image's resources taken: ways, save space and pages, and its contexts in the map. -/
def LoadJob.placed (j : LoadJob) : Dev :=
  let d := j.d.setWays j.p (hdCways j.h)
  let d := (List.range 4).foldl (fun d x => Dev.reservePages j.p x (j.saveNeed x) d) d
  let d := (j.place d).clearPages (fun page => j.segs.any (fun g => g.has page))
  (hdCtxs j.h).foldl (fun d c => d.setCtx c { inMap := true, run := true, saveb := j.saveb c }) d

theorem LoadJob.placed_keeps (j : LoadJob) : j.placed.voice = j.d.voice ∧ j.placed.stem = j.d.stem := by
  have hres (d : Dev) : ((List.range 4).foldl (fun d x => Dev.reservePages j.p x (j.saveNeed x) d) d).voice = d.voice ∧
      ((List.range 4).foldl (fun d x => Dev.reservePages j.p x (j.saveNeed x) d) d).stem = d.stem :=
    ⟨foldl_keeps Dev.voice (fun d x => d.reservePages_voice j.p x _) _ d, foldl_stem _ d fun d x => Dev.reservePages_stem j.p x _ d⟩
  have hctx (d : Dev) : ((hdCtxs j.h).foldl (fun d c => d.setCtx c { inMap := true, run := true, saveb := j.saveb c }) d).voice = d.voice ∧
      ((hdCtxs j.h).foldl (fun d c => d.setCtx c { inMap := true, run := true, saveb := j.saveb c }) d).stem = d.stem := by
    refine ⟨foldl_keeps Dev.voice (fun d c => ?_) _ d, foldl_stem _ d fun d c => d.setCtx_stem c _⟩
    rfl
  have hplace (d : Dev) := LoadJob.place_keeps d j
  unfold LoadJob.placed
  dsimp only
  constructor
  · exact (hctx _).1.trans ((hplace _).1.trans ((hres _).1.trans rfl))
  · exact (hctx _).2.trans ((hplace _).2.trans ((hres _).2.trans rfl))

/-- The partition with a new image, which has not started. -/
def LoadJob.joined (j : LoadJob) (x : Partition) : Partition :=
  { x with image := some j.image, drep := j.report, started := false, stopped := false, ran := false, beat := 0 }

theorem LoadJob.install_eq (j : LoadJob) : j.install = (((j.placed.modPart j.p j.joined).contextsInPlace j.p).modSec (fun s => { s with
    mImg := Store.set [] s.mImg j.p (hdImgdig j.h) })).endSession j.p true := rfl

/-- An installation ends the session with the image in its partition. -/
theorem LoadJob.install_job (j : LoadJob) : j.install.voice = j.d.voice ∧ (j.install.part j.p).job =
    { (j.d.part j.p).job with image := some j.image, load := none, started := false, stopped := false, beat := 0 } := by
  obtain ⟨hvoice, hstem⟩ := j.placed_keeps
  rw [LoadJob.install_eq]
  generalize j.placed = d at hvoice hstem ⊢
  have hjob : ((d.modPart j.p j.joined).part j.p).job =
      { (j.d.part j.p).job with image := some j.image, started := false, stopped := false, beat := 0 } := by
    rw [Dev.modPart_part_self, ← job_of_stem hstem j.p]
    rfl
  have hplace := (d.modPart j.p j.joined).contextsInPlace_stem j.p
  have hsay := (d.modPart j.p j.joined).contextsInPlace_voice j.p
  generalize (d.modPart j.p j.joined).contextsInPlace j.p = e at hplace hsay ⊢
  refine ⟨(Dev.endSession_voice ..).trans (hsay.trans hvoice), (Dev.endSession_job ..).2.trans ?_⟩
  have hsec : ((e.modSec (fun s => { s with mImg := Store.set [] s.mImg j.p (hdImgdig j.h) })).part j.p).job = (e.part j.p).job := rfl
  rw [hsec, job_of_stem hplace, hjob]

/-! ## The unload (R326) -/

section
variable (d : Dev) (p : Nat)

@[simp] theorem Dev.endReplay_queues (result step : Nat) : (d.endReplay p result step).queues = d.queues := by
  unfold Dev.endReplay
  split <;> rfl

@[simp] theorem Dev.setWays_queues (n : Nat) : (d.setWays p n).queues = d.queues := rfl

@[simp] theorem Dev.closeChannels_stem : (d.closeChannels p).stem = d.stem :=
  ((Dev.serveWants_stem _ 1).trans (Dev.serveWants_stem _ 0)).trans (d.dropChannels_stem p)

@[simp] theorem Dev.returnPages_stem : (d.returnPages p).stem = d.stem := by
  have hkeep (l : List (Nat × TmEntry)) (d : Dev) : (l.foldl (fun d e => d.keepPhys e.1 e.2.dev e.2.ppn) d).stem = d.stem :=
    foldl_stem _ d fun d e => rfl
  have hfree (l : List (Nat × Nat × Nat)) (d : Dev) : (l.foldl (fun d x => d.freePhys p x.1 x.2.1 x.2.2) d).stem = d.stem :=
    foldl_stem _ d fun d x => d.freePhys_stem p _ _ _
  unfold Dev.returnPages
  dsimp only
  exact (hfree _ _).trans (.trans rfl (hkeep _ _))

theorem Dev.endPartJobs_queues : (d.endPartJobs p).queues = d.queues := by
  unfold Dev.endPartJobs
  dsimp only
  rw [Dev.endReplay_queues]
  refine foldl_keeps Dev.queues (fun d j => ?_) _ d
  rfl

/-- An unload ends with the partition's settings and counts, and 0x0904; nothing before touches a queue. -/
theorem Dev.unload_of_some {i : Image} (h : (d.part p).image = some i) : ∃ e : Dev, e.queues = d.queues ∧
    d.unload p = (e.modPart p Partition.unloaded).event 0x0904 p 0 0x1FF [] := by
  unfold Dev.unload
  split
  · next hn => exact absurd (hn.symm.trans h) nofun
  · extract_lets cs ended cores returned supers ctxs keyless dark sec final
    have hended : ended.queues = d.queues := (queues_of_stem (Dev.closeChannels_stem _ p)).trans (d.endPartJobs_queues p)
    have hcores : cores.queues = ended.queues := by
      refine foldl_keeps Dev.queues (fun d n => ?_) _ _
      rfl
    have hreturned : returned.queues = cores.queues :=
      (Dev.setWays_queues _ p 0).trans (queues_of_stem ((Dev.returnPages_stem _ p).trans cores.settleLeaving_stem))
    have hsupers : supers.queues = returned.queues := by
      refine foldl_keeps Dev.queues (fun d x => ?_) _ _
      rfl
    have hctxs : ctxs.queues = supers.queues := by
      refine foldl_keeps Dev.queues (fun d c => ?_) _ _
      rfl
    have hkeyless : keyless.queues = ctxs.queues := rfl
    have hdark : dark.queues = keyless.queues := queues_of_stem (keyless.powerFrames_stem p false)
    have hfinal : final.queues = d.queues :=
      hdark.trans (hkeyless.trans (hctxs.trans (hsupers.trans (hreturned.trans (hcores.trans hended)))))
    clear_value final
    exact ⟨final, hfinal, rfl⟩

/-- An unload leaves the queues, and of the partition its settings and its counts. -/
theorem Dev.unload_leaves (h : (d.part p).image.isSome = true) : (d.unload p).queues = d.queues ∧ ((d.unload p).part p).image = none ∧
    ((d.unload p).part p).started = false := by
  obtain ⟨i, hi⟩ := Option.isSome_iff_exists.1 h
  obtain ⟨e, hq, he⟩ := d.unload_of_some p hi
  rw [he, Dev.event_part, Dev.modPart_part_self, Dev.event_queues]
  exact ⟨hq, rfl, rfl⟩

end

end Sys2Proof.Machine
end

section
/-! PROOF. O48: the load session, the installation and the unload (R309, R310, R326). -/

namespace Sys2Proof.Machine
open Sys2Proof Sys2Proof.Machine.Claims

/-! ## LBEGIN and LDATA -/

/-- Bytes laid one after another from `off` on. -/
def lay (off : Nat) (l : List Byte) (m : Store Byte) : Store Byte := (l.zipIdx).foldl (fun m x => Store.set 0#8 m (off + x.2) x.1) m

theorem Store.get_lay (l : List Byte) (off : Nat) (m : Store Byte) (z : Nat) : Store.get 0#8 (lay off l m) z =
      if off ≤ z ∧ z < off + l.length then l.getD (z - off) 0#8 else Store.get 0#8 m z := by
  unfold lay
  induction l using List.reverseRecOn with
  | nil => exact (if_neg (by simp)).symm
  | append_singleton l b ih =>
    rw [List.zipIdx_append, List.foldl_append]
    simp only [List.zipIdx_cons, List.zipIdx_nil, List.foldl_cons, List.foldl_nil, Nat.zero_add]
    rw [Store.get_set, ih, List.length_append, List.length_singleton]
    by_cases hz : z = off + l.length
    · rw [if_pos hz, if_pos (by omega), hz, Nat.add_sub_cancel_left, List.getD_append_right _ _ _ _ le_rfl, Nat.sub_self]
      rfl
    · rw [if_neg hz]
      by_cases hin : off ≤ z ∧ z < off + l.length
      · rw [if_pos hin, if_pos (by omega), List.getD_append _ _ _ _ (by omega)]
      · rw [if_neg hin, if_neg (by omega)]

theorem lbegin_gives (s : State) (q : Nat) (c : Cmd) :
    let p := wordAt c.payload 0
    itsTurn s q 0x40 c → s.dev.locked p = false → (s.dev.part p).image = none →
      headerOk s.dev (fwVersion s.nv s.dev / 2 ^ 24) (slice c.payload 4 128) = true →
      ∃ t, exec (.lbegin q) s = .next t ∧ SameOutside s t ∧ t.dev.mem = s.dev.mem ∧ Answered s t q c 0 [] ∧
        (t.dev.part p).load = some { queue := q, header := slice c.payload 4 128 } := by
  intro p h hl hi hh
  have hlock : ((served s q).locked (pyPart c.payload) || ((served s q).part (pyPart c.payload)).image.isSome) = false := by
    rw [show (served s q).locked (pyPart c.payload) = false from hl, show ((served s q).part (pyPart c.payload)).image = none from hi]
    rfl
  have hhead : headerOk (served s q) (fwVersion s.nv (served s q) / 2 ^ 24) (slice c.payload 4 128) = true := hh
  have hstem := Dev.powerFrames_stem ((served s q).modPart p (fun x => { x with load := some { queue := q, header := slice c.payload 4 128 } })) p true
  rw [exec, execLbegin]
  refine devOp_gives_of_queues (a := {}) (d := ((served s q).modPart p (fun x => { x with
    load := some { queue := q, header := slice c.payload 4 128 } })).powerFrames p true) h ?_ rfl rfl ((queues_of_stem hstem).trans rfl) fun hans => ?_
  · dsimp only
    rw [hlock, if_neg Bool.false_ne_true, hhead]
    rfl
  · rw [Dev.answer_mem, Dev.answer_part]
    refine ⟨⟨rfl, rfl⟩, Dev.powerFrames_mem .., hans, ?_⟩
    rw [Partition.load_of_job (job_of_stem hstem p), Dev.modPart_part_self]

theorem ldata_gives (s : State) (q : Nat) (c : Cmd) (l : LoadSession) :
    let p := wordAt c.payload 0
    itsTurn s q 0x41 c → (s.dev.part p).load = some l → l.queue = q → l.commit = false →
      wordAt c.payload 4 + (c.payload.drop 8).length ≤ hdImglen l.header →
      ∃ t m, exec (.ldata q) s = .next t ∧ SameOutside s t ∧ t.dev.mem = s.dev.mem ∧ Answered s t q c 0 [] ∧
        (t.dev.part p).load = some { l with staging := m } ∧
        ∀ z, Store.get 0#8 m z = if wordAt c.payload 4 ≤ z ∧ z < wordAt c.payload 4 + (c.payload.drop 8).length
          then (c.payload.drop 8).getD (z - wordAt c.payload 4) 0#8 else Store.get 0#8 l.staging z := by
  intro p h hload hq hc hlen
  have hload' : ((served s q).part (pyPart c.payload)).load = some l := hload
  have hgives : ∃ t, exec (.ldata q) s = .next t ∧ SameOutside s t ∧ t.dev.mem = s.dev.mem ∧ Answered s t q c 0 [] ∧
      (t.dev.part p).load = some { l with staging := lay (wordAt c.payload 4) (c.payload.drop 8) l.staging } := by
    rw [exec, execLdata]
    refine devOp_gives_of_queues (a := {}) (d := (served s q).modPart p (fun x => { x with load := some { l with
      staging := lay (wordAt c.payload 4) (c.payload.drop 8) l.staging } })) h ?_ rfl rfl rfl fun hans => ?_
    · dsimp only
      rw [hload']
      dsimp only
      rw [hq, bne_self_eq_false, if_neg Bool.false_ne_true, if_neg (Nat.not_lt.2 hlen), hc]
      rfl
    · rw [Dev.answer_mem, Dev.answer_part, Dev.modPart_part_self]
      exact ⟨⟨rfl, rfl⟩, rfl, hans, rfl⟩
  obtain ⟨t, ht, hout, hmem, hans, hstaged⟩ := hgives
  exact ⟨t, _, ht, hout, hmem, hans, hstaged, fun _ => Store.get_lay ..⟩

/-! ## LCOMMIT -/

theorem lcommit_gives (s : State) (q : Nat) (c : Cmd) (l : LoadSession) :
    let p := wordAt c.payload 0
    itsTurn s q 0x42 c → (s.dev.part p).load = some l → l.queue = q →
      (l.commit = false →
        ∃ t, exec (.lcommit q) s = .next t ∧ SameOutside s t ∧ t.dev.mem = s.dev.mem ∧ t.dev.cores = s.dev.cores ∧ Accepted s t q c ∧
          t.dev.part p = { s.dev.part p with load := some { l with commit := true } } ∧
          (t.dev.jobs.getLast?.map (·.done)) = some false ∧ t.dev.locked p = true) ∧
      (l.commit = true → ∃ t, exec (.lcommit q) s = .next t ∧ OnlyReply s t q ∧ Answered s t q c 0x0007 []) := by
  intro p h hload hq
  have hload' : ((served s q).part (pyPart c.payload)).load = some l := hload
  refine ⟨fun hc => ?_, fun hc => ?_⟩
  · rw [exec, execLcommit]
    refine devOp_accepts (d := (served s q).modPart p (fun x => { x with load := some { l with commit := true } })) p 0 false 0 [] true h ?_ rfl fun hacc => ?_
    · dsimp only
      rw [hload']
      dsimp only
      rw [hq, bne_self_eq_false, hc]
      rfl
    · have hpart : ((served s q).modPart p (fun x => { x with load := some { l with commit := true } })).part p =
          { s.dev.part p with load := some { l with commit := true } } := Dev.modPart_part_self ..
      refine ⟨⟨rfl, rfl⟩, ?_, ?_, hacc, ?_, ?_, ?_⟩
      · rw [Dev.answer_mem]
        rfl
      · rw [Dev.answer_cores]
        rfl
      · rw [Dev.answer_part, Dev.withJob_part, hpart]
      · rw [Dev.answer_jobs, Dev.withJob_jobs, List.getLast?_concat]
        rfl
      · rw [Dev.locked, Dev.answer_part, Dev.withJob_part, hpart]
        rfl
  · rw [exec, execLcommit]
    refine devOp_onlyReply (a := bad 0x0007) h ?_ rfl rfl
    dsimp only
    rw [hload']
    dsimp only
    rw [hc, Bool.or_true]
    rfl

/-! ## The completion of an LCOMMIT -/

/-- What the completion event of a job is raised with. -/
theorem Dev.complete_of_commit {d e : Dev} {q cseq : Nat} {j : Job} {l : LoadSession} {status : Nat} {detail : List Nat}
    (hj : d.jobs.find? (fun j => j.queue == q && j.cseq == cseq && d.jobReady j) = some j) (hd : j.done = false) (hop : j.opcode = 0x42)
    (hl : (d.part j.part).load = some l) (hc : Dev.commit { d with jobs := d.jobs.erase j } j.part l = (status, detail, e)) :
    d.complete q cseq = e.raise ⟨0x0901, some q, j.part, j.ctx, 0x1FF, status * 2 ^ 16 + 0x42, j.cseq, detail⟩ := by
  have hend : ({ d with jobs := d.jobs.erase j } : Dev).jobEnd j = (status, detail, e) := by
    unfold Dev.jobEnd
    rw [hd, hop, if_neg (by decide), show (({ d with jobs := d.jobs.erase j } : Dev).part j.part).load = some l from hl]
    exact hc
  unfold Dev.complete
  rw [hj]
  dsimp only
  rw [hend, hop]

/-- A completion event that finds its channel open and room in the record queue stays on its channel until it is acknowledged. -/
theorem Dev.raise_completion {d e : Dev} {q part ctx w1 w2 : Nat} {detail : List Nat} (hv : e.voice = d.voice) (hroom : d.bb.queue.length < bbDepth)
    (hen : (d.chan q).en = true) (hun : (d.chan q).unacked.length < 64) (hs : d.sends = true) :
    ∃ v, ((e.raise ⟨0x0901, some q, part, ctx, 0x1FF, w1, w2, detail⟩).chan q).unacked = (d.chan q).unacked ++ [v] ∧ v.code = 0x0901 ∧
      v.words.getD 1 0 = w1 := by
  have hchan := chan_of_voice hv q
  obtain ⟨v, hv', hcode, -, hw1, -⟩ := Dev.raise_chan (d := e) (ch := q) (code := 0x0901) (part := part) (ctx := ctx) (lcore := 0x1FF) (w1 := w1)
    (w2 := w2) (detail := detail) (by rwa [bb_of_voice hv]) (by rwa [hchan]) (by rwa [hchan]) (by rwa [sends_of_voice hv])
  rw [hv', hchan]
  exact ⟨v, rfl, hcode, hw1⟩

/-- What the completion of an LCOMMIT leaves, whatever its checks came to. -/
theorem complete_leaves {s : State} {q cseq status : Nat} {l : LoadSession} {j : Job} {detail : List Nat} {e : Dev} (hq : q < nQueues)
    (hj : s.dev.jobs.find? (fun j => j.queue == q && j.cseq == cseq && s.dev.jobReady j) = some j) (hd : j.done = false)
    (hop : j.opcode = 0x42) (hl : (s.dev.part j.part).load = some l) (hroom : s.dev.bb.queue.length < bbDepth)
    (hen : (s.dev.chan q).en = true) (hun : (s.dev.chan q).unacked.length < 64) (hs : s.dev.sends = true)
    (hc : Dev.commit { s.dev with jobs := s.dev.jobs.erase j } j.part l = (status, detail, e)) (hv : e.voice = s.dev.voice) :
    ∃ t v, exec (.commandComplete q cseq) s = .next t ∧ SameOutside s t ∧ t.dev.mem = e.mem ∧
      (t.dev.part j.part).job = (e.part j.part).job ∧ (t.dev.chan q).unacked = (s.dev.chan q).unacked ++ [v] ∧ v.code = 0x0901 ∧
      v.words.getD 1 0 = status * 2 ^ 16 + 0x42 := by
  obtain ⟨v, hun', hcode, hw⟩ := Dev.raise_completion (part := j.part) (ctx := j.ctx) (w1 := status * 2 ^ 16 + 0x42) (w2 := j.cseq)
    (detail := detail) hv hroom hen hun hs
  have hrun : exec (.commandComplete q cseq) s =
      .next { s with dev := e.raise ⟨0x0901, some q, j.part, j.ctx, 0x1FF, status * 2 ^ 16 + 0x42, j.cseq, detail⟩ } := by
    rw [exec, execCommandComplete, onQueue, if_pos hq, Dev.complete_of_commit hj hd hop hl hc]
  exact ⟨_, v, hrun, ⟨rfl, rfl⟩, Dev.raise_mem e _, job_of_stem (e.raise_stem _) _, hun', hcode, hw⟩

theorem commit_completes (s : State) (q cseq : Nat) (l : LoadSession) (j : Job) :
    q < nQueues → s.dev.jobs.find? (fun j => j.queue == q && j.cseq == cseq && s.dev.jobReady j) = some j → j.done = false →
      j.opcode = 0x42 → (s.dev.part j.part).load = some l → s.dev.bb.queue.length < bbDepth → (s.dev.chan q).en = true →
      (s.dev.chan q).unacked.length < 64 → s.dev.sends = true →
      let d := { s.dev with jobs := s.dev.jobs.erase j }
      let k : LoadJob := ⟨d, j.part, l.header, (List.range (hdNsec l.header)).map (d.secEnt l.header l.staging)⟩
      (∀ e, k.firstFailure = some e →
        ∃ t v, exec (.commandComplete q cseq) s = .next t ∧ SameOutside s t ∧ t.dev.mem = s.dev.mem ∧
          (t.dev.part j.part).load = none ∧ (t.dev.part j.part).image = (s.dev.part j.part).image ∧
          (t.dev.chan q).unacked = (s.dev.chan q).unacked ++ [v] ∧ v.code = 0x0901 ∧ v.words.getD 1 0 = e.status * 2 ^ 16 + 0x42) ∧
      (k.firstFailure = none →
        ∃ t v i, exec (.commandComplete q cseq) s = .next t ∧ SameOutside s t ∧ (t.dev.part j.part).load = none ∧
          (t.dev.part j.part).image = some i ∧ i.header = l.header ∧ (t.dev.part j.part).started = false ∧
          (t.dev.part j.part).beat = 0 ∧
          (t.dev.chan q).unacked = (s.dev.chan q).unacked ++ [v] ∧ v.code = 0x0901 ∧ v.words.getD 1 0 = 0x42) := by
  intro hq hj hd hop hl hroom hen hun hs d k
  refine ⟨fun e he => ?_, fun hn => ?_⟩
  · have hc : d.commit j.part l = (e.status, e.words, d.endSession j.part false) := by
      unfold Dev.commit
      dsimp only
      rw [he]
    obtain ⟨-, hjob⟩ := d.endSession_job j.part false
    obtain ⟨t, v, ht, hout, hmem, hpart, hsent⟩ := complete_leaves hq hj hd hop hl hroom hen hun hs hc (d.endSession_voice j.part false)
    have hafter := hpart.trans hjob
    exact ⟨t, v, ht, hout, hmem.trans (Dev.endSession_mem ..), congrArg JobState.load hafter, congrArg JobState.image hafter, hsent⟩
  · have hc : d.commit j.part l = (0, [0xFFFF, 0, 0x1FF, 0, 0, k.report], k.install) := by
      unfold Dev.commit
      dsimp only
      rw [hn]
    obtain ⟨hvoice, hjob⟩ := k.install_job
    generalize k.install = e at hc hvoice hjob
    obtain ⟨t, v, ht, hout, -, hpart, hun', hcode, hw⟩ := complete_leaves hq hj hd hop hl hroom hen hun hs hc hvoice
    have hafter := hpart.trans hjob
    exact ⟨t, v, k.image, ht, hout, congrArg JobState.load hafter, congrArg JobState.image hafter, rfl, congrArg JobState.started hafter,
      congrArg JobState.beat hafter, hun', hcode, hw⟩

/-! ## UNLOAD, and the obligation -/

theorem unload_gives (s : State) (q : Nat) (c : Cmd) :
    let p := wordAt c.payload 0
    itsTurn s q 0x43 c → (s.dev.part p).load = none → s.dev.locked p = false → (s.dev.part p).image.isSome = true →
      ∃ t, exec (.unload q) s = .next t ∧ SameOutside s t ∧ Answered s t q c 0 [] ∧ (t.dev.part p).image = none ∧
        (t.dev.part p).started = false := by
  intro p h hload hl hi
  obtain ⟨hq, himage, hstarted⟩ := (served s q).unload_leaves (pyPart c.payload) hi
  have hlocked : (served s q).locked (pyPart c.payload) = false := hl
  have hload' : ((served s q).part (pyPart c.payload)).load = none := hload
  have hsome : ((served s q).part (pyPart c.payload)).image.isNone = false := Option.isNone_eq_false_iff.2 hi
  rw [exec, execUnload]
  refine devOp_gives_of_queues (a := {}) (d := (served s q).unload (pyPart c.payload)) h ?_ rfl rfl hq fun hans => ?_
  · dsimp only
    rw [hload']
    dsimp only
    rw [hlocked, hsome, if_neg Bool.false_ne_true, if_neg Bool.false_ne_true]
  · rw [Dev.answer_part]
    exact ⟨⟨rfl, rfl⟩, hans, himage, hstarted⟩

/-- Settles O48, a command at a time; the image that is installed is `LoadJob.install_job`'s. -/
theorem imagesAreStagedInstalledAndUnloaded : Obligations.ImagesAreStagedInstalledAndUnloaded := by
  unfold Obligations.ImagesAreStagedInstalledAndUnloaded
  intro s q cseq c l j p
  exact ⟨lbegin_gives s q c, ldata_gives s q c l, lcommit_gives s q c l, commit_completes s q cseq l j, unload_gives s q c⟩

end Sys2Proof.Machine
end

section
/-! SUPPORT. The release of a beat in a partition of one context, step by step (R136 to R138, R144, R341). -/

namespace Sys2Proof.Machine
open Sys2Proof Sys2Proof.Machine.Claims

/-- What the beats of a partition are counted by, and what decides its next stamp. -/
def Partition.clock (x : Partition) : Option Image × Option Nat × Nat × Nat × BitVec 32 × BitVec 32 × BitVec 32 :=
  (x.image, x.resident, x.capped, x.beat, x.strn, x.strc, x.holdc)

/-- The stamp of a context, its cap hold and its account. -/
def Context.clock (x : Context) : Stamp × Bool × Account := (x.stamp, x.hold, x.acct)

/-- Cores, contexts and the tier map are as they were, and so are the clocks of the partitions and the mode. -/
structure Dev.SameClocks (d e : Dev) : Prop where
  cores : e.cores = d.cores
  ctxs : e.ctxs = d.ctxs
  map : e.tiers.map = d.tiers.map
  mode : e.brd.pcfgMode = d.brd.pcfgMode
  clock : ∀ p, (e.part p).clock = (d.part p).clock

namespace Dev.SameClocks

section
variable {d e f : Dev}

theorem refl (d : Dev) : d.SameClocks d := ⟨rfl, rfl, rfl, rfl, fun _ => rfl⟩

theorem trans (h : d.SameClocks e) (k : e.SameClocks f) : d.SameClocks f :=
  ⟨k.cores.trans h.cores, k.ctxs.trans h.ctxs, k.map.trans h.map, k.mode.trans h.mode, fun p => (k.clock p).trans (h.clock p)⟩

theorem of_ite {c : Prop} [Decidable c] (h : d.SameClocks e) (k : d.SameClocks f) : d.SameClocks (if c then e else f) := by
  split
  · exact h
  · exact k

theorem of_sent (h : d.SameButSent e) : d.SameClocks e :=
  ⟨h.cores, h.ctxs, congrArg Tiers.map h.tiers, congrArg Board.pcfgMode h.brd, fun p => congrArg Partition.clock (h.part p)⟩

theorem imgCtxs (h : d.SameClocks e) (p : Nat) : e.imgCtxs p = d.imgCtxs p := by
  have himage : (e.part p).image = (d.part p).image := congrArg Prod.fst (h.clock p)
  rw [Dev.imgCtxs, himage, Dev.imgCtxs]

theorem resident (h : d.SameClocks e) (p : Nat) : (e.part p).resident = (d.part p).resident := congrArg (fun x => x.2.1) (h.clock p)

theorem partCores (h : d.SameClocks e) (p : Nat) : e.partCores p = d.partCores p := by
  rw [Dev.partCores, Dev.partBase, Dev.partSize, h.mode]
  rfl

theorem partSize (h : d.SameClocks e) : e.partSize = d.partSize := by rw [Dev.partSize, h.mode, Dev.partSize]

theorem ctx (h : d.SameClocks e) (c : Nat) : e.ctx c = d.ctx c := by rw [Dev.ctx, h.ctxs, Dev.ctx]

end

theorem foldl {α : Type} {g : Dev → α → Dev} (h : ∀ d a, Dev.SameClocks d (g d a)) (l : List α) (d : Dev) : d.SameClocks (l.foldl g d) := by
  induction l generalizing d with
  | nil => exact refl d
  | cons a l ih => exact (h d a).trans (ih _)

variable (d : Dev)

theorem modPart (p : Nat) {f : Partition → Partition} (hf : ∀ x, (f x).clock = x.clock) : d.SameClocks (d.modPart p f) := by
  refine ⟨rfl, rfl, rfl, rfl, fun q => ?_⟩
  by_cases hq : q = p
  · rw [hq, Dev.modPart_part_self, hf]
  · rw [Dev.modPart_part_ne _ _ hq]

theorem event (code part ctx lcore : Nat) (detail : List Nat) : d.SameClocks (d.event code part ctx lcore detail) := of_sent (d.event_same ..)

theorem endReplay (p result step : Nat) : d.SameClocks (d.endReplay p result step) := by
  unfold Dev.endReplay
  split
  · exact refl d
  · exact (modPart d p (f := fun x => { x with replay := none }) fun x => rfl).trans ⟨rfl, rfl, rfl, rfl, fun _ => rfl⟩

/-- The end of a step is told; no clock moves (R265). -/
theorem finishStep (p s : Nat) : d.SameClocks (d.finishStep p s) := by
  unfold Dev.finishStep
  extract_lets x sent ovfl own complete fp bad n e
  have he : d.SameClocks e := modPart d p fun x => rfl
  clear_value e
  refine of_ite (refl d) (of_ite ((event d ..).trans (endReplay _ ..)) (he.trans (.trans ?_ (event _ ..))))
  exact ⟨rfl, rfl, rfl, rfl, fun _ => rfl⟩

theorem endStep (p : Nat) (r : Option Nat) (s : Nat) : d.SameClocks (d.endStep p r s) :=
  of_ite (of_ite (finishStep d p s) (refl d)) (refl d)

theorem modBrd {f : Board → Board} (hf : (f d.brd).pcfgMode = d.brd.pcfgMode) : d.SameClocks (d.modBrd f) :=
  ⟨rfl, rfl, rfl, hf, fun _ => rfl⟩

theorem modFrame (k : Nat) (f : FrameSt → FrameSt) : d.SameClocks (d.modFrame k f) := ⟨rfl, rfl, rfl, rfl, fun _ => rfl⟩

theorem selectFrames (p : Nat) : d.SameClocks (d.selectFrames p) := foldl (fun d f => modFrame d f _) _ d

/-- The power readings of a beat (R409). -/
theorem meterPower (p : Nat) : d.SameClocks (d.meterPower p).2 := by
  have hpair {α : Type} {g : Nat × Dev → α → Nat × Dev} (h : ∀ x a, Dev.SameClocks x.2 (g x a).2) (l : List α) (x : Nat × Dev) :
      x.2.SameClocks (l.foldl g x).2 :=
    List.foldlRecOn l g (motive := fun y => x.2.SameClocks y.2) (refl _) fun y hy a _ => hy.trans (h y a)
  unfold Dev.meterPower
  extract_lets fr sups a v b e
  have hfr : d.SameClocks fr.2 := by
    refine hpair (fun x f => ?_) (d.partFrames p) (0, d)
    exact ⟨rfl, rfl, rfl, rfl, fun _ => rfl⟩
  have he : fr.2.SameClocks e := ⟨rfl, rfl, rfl, rfl, fun _ => rfl⟩
  refine (hfr.trans he).trans (hpair (fun x f => ?_) sups (fr.1, e))
  exact ⟨rfl, rfl, rfl, rfl, fun _ => rfl⟩

end Dev.SameClocks

end Sys2Proof.Machine
end

section
/-! PROOF. O26: a beat release advances the stamp or holds the partition, and stamps stay near the cap (R128, R136 to R138, R144, R145, R341). -/

namespace Sys2Proof.Machine
open Sys2Proof Sys2Proof.Machine.Claims

section
variable (d : Dev) (p c : Nat)

/-! ## The account of the beat (R341) -/

/-- A beat charged to the resident context counts in its account and nowhere else. -/
theorem Dev.chargeBeat_eq : ∃ (e : Dev) (a : Account), d.SameClocks e ∧ d.chargeBeat p (some c) none = e.modCtx c (fun x => { x with acct := a }) ∧
    a.rbeat = (d.ctx c).acct.rbeat + 1 ∧ a.cbeat = (d.ctx c).acct.cbeat + d.partSize := by
  have hpower := Dev.SameClocks.meterPower d p
  unfold Dev.chargeBeat
  extract_lets cores y z moved share
  have hctx : z.2.ctx c = d.ctx c := hpower.ctx c
  refine ⟨z.2, _, hpower, rfl, ?_, ?_⟩
  · rw [hctx]
  · rw [hctx]

/-! ## The release (R128, R136, R137) -/

/-- The partition as a release leaves it. -/
def Partition.released (x : Partition) (stretch cause frame holdc : Nat) : Partition := { x with
  beat := (x.beat + 1) % 2 ^ 48, hold := false, dieHeld := false, bact := false, quiesce := false, ran := true, ranBeats := x.ranBeats + 1,
  strn := if stretch = 0 then x.strn else x.strn + 1, strc := x.strc + BitVec.ofNat 32 stretch,
  holdc := x.holdc + BitVec.ofNat 32 holdc,
  lastCause := if stretch = 0 then x.lastCause else cause, lastFrame := if stretch = 0 then x.lastFrame else if cause = 2 then 0 else frame }

/-- Contexts' clocks, cores, the tier map and the partitions are as they were. -/
structure Dev.SameTimes (d e : Dev) : Prop where
  cores : e.cores = d.cores
  map : e.tiers.map = d.tiers.map
  parts : e.parts = d.parts
  clock : ∀ k, (e.ctx k).clock = (d.ctx k).clock

theorem Dev.SameTimes.refl : d.SameTimes d := ⟨rfl, rfl, rfl, fun _ => rfl⟩

theorem Dev.SameTimes.trans {d e f : Dev} (h : d.SameTimes e) (k : e.SameTimes f) : d.SameTimes f :=
  ⟨k.cores.trans h.cores, k.map.trans h.map, k.parts.trans h.parts, fun x => (k.clock x).trans (h.clock x)⟩

theorem Dev.SameTimes.modCtx {f : Context → Context} (hf : (f (d.ctx c)).clock = (d.ctx c).clock) : d.SameTimes (d.modCtx c f) := by
  refine ⟨rfl, rfl, rfl, fun k => ?_⟩
  by_cases hk : k = c
  · rw [hk, Dev.modCtx_ctx_self, hf]
  · rw [Dev.modCtx_ctx_ne _ _ hk]

theorem Dev.SameTimes.foldl {α : Type} {g : Dev → α → Dev} (h : ∀ d a, Dev.SameTimes d (g d a)) (l : List α) (d : Dev) : d.SameTimes (l.foldl g d) :=
  List.foldlRecOn l g (motive := fun e => d.SameTimes e) (.refl d) fun e he a _ => he.trans (h e a)

theorem Dev.countWaits_times : d.SameTimes (d.countWaits p) := by
  have hwait : d.SameTimes ((d.imgCtxs p).foldl (fun d c => if (d.ctx c).waitq then d.modCtx c (fun x => { x with waitq := false }) else d) d) := by
    refine .foldl (fun d c => ?_) _ d
    split
    · exact .modCtx d c rfl
    · exact .refl d
  unfold Dev.countWaits
  extract_lets waits l e
  split
  · exact .trans hwait ⟨rfl, rfl, rfl, fun _ => rfl⟩
  · exact hwait

theorem Dev.selectFrames_times : d.SameTimes (d.selectFrames p) := by
  refine .foldl (fun d f => ?_) _ d
  exact ⟨rfl, rfl, rfl, fun _ => rfl⟩

theorem Dev.scheduleDue_times : d.SameTimes (d.scheduleDue c) ∧ ((d.scheduleDue c).ctx c).shown = (d.ctx c).shown := by
  unfold Dev.scheduleDue
  extract_lets st l
  split
  · exact ⟨.refl d, rfl⟩
  · exact ⟨.modCtx d c rfl, by rw [Dev.modCtx_ctx_self]⟩

/-- Cores that begin their next beat, each once. -/
theorem Dev.foldl_modCore_core (f : Nat → Core → Core) (l : List Nat) (hl : l.Nodup) (n : Nat) :
    (l.foldl (fun e n => e.modCore n (f n)) d).core n = if n ∈ l then f n (d.core n) else d.core n := by
  induction l generalizing d with
  | nil => rfl
  | cons k l ih =>
    obtain ⟨hk, hl⟩ := List.nodup_cons.1 hl
    rw [List.foldl_cons, ih _ hl]
    by_cases hn : n = k
    · rw [hn, if_neg hk, if_pos List.mem_cons_self, Dev.modCore_core_self]
    · rw [Dev.modCore_core_ne _ _ hn]
      simp [hn]

theorem Dev.partCores_nodup : (d.partCores p).Nodup := List.nodup_range'

/-- The account of a context as its beat's report shows it (R341). -/
def Dev.show (d : Dev) (c : Nat) : Dev := d.modCtx c (fun x => { x with shown := x.acct })

/-- What a release leaves of the partition, its cores and its only context. -/
theorem Dev.release_leaves (stretch cause frame holdc : Nat) (hctx : d.imgCtxs p = [c]) (hres : (d.part p).resident = some c) (e : Dev)
    (he : e = d.release p stretch cause frame holdc) :
    e.part p = (d.part p).released stretch cause frame holdc ∧ (e.ctx c).clock = (d.ctx c).clock ∧ (e.ctx c).shown = (e.ctx c).acct ∧
      e.tiers.map = d.tiers.map ∧ ∀ n ∈ d.partCores p, ∃ ro tokens, e.core n = (d.core n).beatStart ro tokens := by
  have hcores := d.foldl_modCore_core (fun n k => k.beatStart (fun page => (d.tm page).ro) (d.tokenWait n)) (d.partCores p) (d.partCores_nodup p)
  have hrest : ∀ l : List Nat, (l.foldl (fun e n => e.modCore n (fun k => k.beatStart (fun page => (d.tm page).ro) (d.tokenWait n))) d).ctxs = d.ctxs ∧
      (l.foldl (fun e n => e.modCore n (fun k => k.beatStart (fun page => (d.tm page).ro) (d.tokenWait n))) d).tiers = d.tiers ∧
      (l.foldl (fun e n => e.modCore n (fun k => k.beatStart (fun page => (d.tm page).ro) (d.tokenWait n))) d).parts = d.parts := fun l =>
    List.foldlRecOn l _ (motive := fun e : Dev => e.ctxs = d.ctxs ∧ e.tiers = d.tiers ∧ e.parts = d.parts) ⟨rfl, rfl, rfl⟩ fun _ h _ _ => h
  unfold Dev.release at he
  extract_lets begun counted moved timed shown at he
  obtain ⟨hctxs, htiers, hparts⟩ : begun.ctxs = d.ctxs ∧ begun.tiers = d.tiers ∧ begun.parts = d.parts := hrest (d.partCores p)
  have hbegun : ∀ n ∈ d.partCores p, ∃ ro tokens, begun.core n = (d.core n).beatStart ro tokens := fun n hn =>
    ⟨_, _, (hcores n).trans (if_pos hn)⟩
  have hmoved : moved.part p = (d.part p).released stretch cause frame holdc := by
    have hpart : counted.part p = d.part p := by
      change Store.get {} begun.parts p = _
      rw [hparts, Dev.part]
    refine (Dev.modPart_part_self ..).trans ?_
    rw [hpart]
    rfl
  have htimed : moved.SameTimes timed := (moved.countWaits_times p).trans (Dev.selectFrames_times _ p)
  have hlist : timed.imgCtxs p = [c] := by
    have himage : (timed.part p).image = (d.part p).image := by
      rw [Dev.part, htimed.parts, ← Dev.part, hmoved]
      rfl
    rw [Dev.imgCtxs, himage]
    exact hctx
  have hshown : shown = timed.show c := by
    change (timed.imgCtxs p).foldl Dev.show timed = _
    rw [hlist]
    rfl
  have hshow : timed.SameTimes shown := hshown ▸ .modCtx timed c rfl
  have hpart : shown.part p = (d.part p).released stretch cause frame holdc := by
    rw [Dev.part, (htimed.trans hshow).parts, ← Dev.part, hmoved]
  have hnow : e = shown.scheduleDue c := by
    have hr : (shown.part p).resident = some c := by
      rw [hpart]
      exact hres
    rw [he, hr]
  obtain ⟨hdue, hdueShown⟩ := shown.scheduleDue_times c
  have hall : moved.SameTimes e := hnow ▸ (htimed.trans hshow).trans hdue
  have hctx' (k : Nat) : moved.ctx k = d.ctx k := by
    change Store.get {} begun.ctxs k = _
    rw [hctxs, Dev.ctx]
  refine ⟨?_, ?_, ?_, ?_, fun n hn => ?_⟩
  · rw [Dev.part, hall.parts, ← Dev.part, hmoved]
  · rw [hall.clock, hctx']
  · have hacct : (e.ctx c).acct = (shown.ctx c).acct := congrArg (fun x => x.2.2) (hnow ▸ hdue.clock c :)
    rw [hacct, hnow, hdueShown, hshown, Dev.show, Dev.modCtx_ctx_self]
  · exact hall.map.trans (congrArg Tiers.map htiers)
  · obtain ⟨ro, tokens, h⟩ := hbegun n hn
    refine ⟨ro, tokens, ?_⟩
    rw [Dev.core, hall.cores, ← h]
    rfl

/-! ## The branches of a release in a partition of one context (R137, R138, R145) -/

/-- The stamp goes on, the beat is charged, and the next one starts. -/
def Dev.nextBeat (d : Dev) (p c stretch cause frame holdc : Nat) : Dev :=
  ((((d.advanceStamp p c).modPart p (fun x => { x with pend := none, prwb := 0 })).chargeBeat p (some c) none).endStep p (some c)
    (d.ctx c).stamp.step).release p stretch cause frame holdc

/-- The cap hold or the full log stops the stamp, and the partition is held. -/
def Dev.heldBeat (d : Dev) (p c holdc : Nat) : Dev :=
  let e := d.modCtx c (fun x => { x with hold := true })
  let logged := if d.logHolds p c && !((d.ctx c).hold) then
      (e.event 0x0B05 p 0 0x1FF []).modPart p (fun x => { x with recCnt := bump x.recCnt 19 1 })
    else e
  logged.holdPart p holdc

variable {d : Dev} {p c : Nat}

theorem Dev.beatRelease_of_boundary (hb : atBoundary d p) (e : Dev) (he : e = (d.applyRuns p).flips p) (hone : e.nctx p ≤ 1)
    (hres : (e.part p).resident = some c) (stretch cause frame holdc : Nat) : d.beatRelease p stretch cause frame holdc =
      if (e.ctx c).run = false then e
      else if e.mayNotAdvance p c then e.heldBeat p c holdc else e.nextBeat p c stretch cause frame holdc := by
  obtain ⟨-, hrun, hlate, hdrain, hdie⟩ := hb
  unfold Dev.beatRelease
  rw [if_neg (by simp [hrun, hlate, hdrain, hdie]), ← he]
  dsimp only
  rw [hres, decide_eq_true hone]
  by_cases hr : (e.ctx c).run = false
  · simp [hr]
  · rw [if_neg hr, if_neg (by simp [hr])]
    by_cases hs : e.mayNotAdvance p c = true
    · rw [if_pos hs]
      simp only [hs, if_true]
      rfl
    · rw [if_neg hs]
      have hlog : e.logHolds p c = false := by
        unfold Dev.mayNotAdvance at hs
        rw [Bool.or_eq_true, not_or] at hs
        exact Bool.eq_false_iff.2 hs.2
      simp only [hs, hlog, Bool.false_and, Bool.false_eq_true, if_false, if_true, Option.getD_some]
      rw [Dev.nextBeat]

/-! ## What the branches leave -/

section
variable (stretch cause frame holdc : Nat)

theorem Dev.heldBeat_leaves : (d.heldBeat p c holdc).cores = d.cores ∧ (d.heldBeat p c holdc).tiers.map = d.tiers.map ∧
    ((d.heldBeat p c holdc).part p).beat = (d.part p).beat ∧ ((d.heldBeat p c holdc).part p).hold = true ∧
    ((d.heldBeat p c holdc).part p).capped = (d.part p).capped ∧
    ((d.heldBeat p c holdc).ctx c).stamp = (d.ctx c).stamp ∧ ((d.heldBeat p c holdc).ctx c).hold = true ∧
    ((d.heldBeat p c holdc).part p).holdc = (d.part p).holdc + BitVec.ofNat 32 holdc := by
  unfold Dev.heldBeat
  extract_lets e logged
  have hlogged : e.SameClocks logged := .of_ite ((Dev.SameClocks.event e ..).trans (.modPart _ p fun x => rfl)) (.refl e)
  have hclock : (logged.part p).clock = (d.part p).clock := hlogged.clock p
  have hctx : logged.ctx c = { d.ctx c with hold := true } := (hlogged.ctx c).trans (Dev.modCtx_ctx_self ..)
  have hbeat : (logged.part p).beat = (d.part p).beat := congrArg (fun x => x.2.2.2.1) hclock
  have hholdc : (logged.part p).holdc = (d.part p).holdc := congrArg (fun x => x.2.2.2.2.2.2) hclock
  have hcapped : (logged.part p).capped = (d.part p).capped := congrArg (fun x => x.2.2.1) hclock
  have hcores : logged.cores = d.cores := hlogged.cores
  have hmap : logged.tiers.map = d.tiers.map := hlogged.map
  clear_value logged
  have hctx' : (logged.holdPart p holdc).ctx c = { d.ctx c with hold := true } := hctx
  refine ⟨hcores, hmap, ?_, ?_, ?_, (congrArg Context.stamp hctx' :), (congrArg Context.hold hctx' :), ?_⟩
  · rw [Dev.holdPart, Dev.modPart_part_self]
    exact hbeat
  · rw [Dev.holdPart, Dev.modPart_part_self]
  · rw [Dev.holdPart, Dev.modPart_part_self]
    exact hcapped
  · rw [Dev.holdPart, Dev.modPart_part_self, ← hholdc]

theorem Dev.nextBeat_leaves (hctx : d.imgCtxs p = [c]) (hres : (d.part p).resident = some c) (e : Dev)
    (he : e = d.nextBeat p c stretch cause frame holdc) :
    (∃ x : Partition, x.clock = (d.part p).clock ∧ e.part p = x.released stretch cause frame holdc) ∧
      (e.ctx c).stamp = nextStamp (d.phases p) (d.ctx c).stamp ∧ (e.ctx c).hold = false ∧ (e.ctx c).shown = (e.ctx c).acct ∧
      (e.ctx c).acct.rbeat = (d.ctx c).acct.rbeat + 1 ∧ (e.ctx c).acct.cbeat = (d.ctx c).acct.cbeat + d.partSize ∧
      e.tiers.map = d.tiers.map ∧ ∀ n ∈ d.partCores p, ∃ ro tokens, e.core n = (d.core n).beatStart ro tokens := by
  have hstart : (d.advanceStamp p c).SameClocks ((d.advanceStamp p c).modPart p (fun x => { x with pend := none, prwb := 0 })) :=
    .modPart _ p fun x => rfl
  unfold Dev.nextBeat at he
  generalize (d.advanceStamp p c).modPart p (fun x => { x with pend := none, prwb := 0 }) = f at hstart he
  obtain ⟨g, a, hg, hcharge, hrbeat, hcbeat⟩ := f.chargeBeat_eq p c
  rw [hcharge] at he
  have hend := Dev.SameClocks.endStep (g.modCtx c (fun x => { x with acct := a })) p (some c) (d.ctx c).stamp.step
  generalize (g.modCtx c (fun x => { x with acct := a })).endStep p (some c) (d.ctx c).stamp.step = k at hend he
  have hfg := hstart.trans hg
  have hself : (d.advanceStamp p c).ctx c = { d.ctx c with stamp := nextStamp (d.phases p) (d.ctx c).stamp, hold := false } := Dev.modCtx_ctx_self ..
  have hf : f.ctx c = { d.ctx c with stamp := nextStamp (d.phases p) (d.ctx c).stamp, hold := false } := (hstart.ctx c).trans hself
  have hk : k.ctx c = { d.ctx c with stamp := nextStamp (d.phases p) (d.ctx c).stamp, hold := false, acct := a } := by
    rw [hend.ctx c, Dev.modCtx_ctx_self, hfg.ctx c, hself]
  have hclock : ∀ q, (k.part q).clock = (d.part q).clock := fun q => (hend.clock q).trans (hfg.clock q)
  have himage : (k.part p).image = (d.part p).image := congrArg Prod.fst (hclock p)
  have hlist : k.imgCtxs p = [c] := by
    rw [Dev.imgCtxs, himage]
    exact hctx
  have hkres : (k.part p).resident = some c := (congrArg (fun x => x.2.1) (hclock p) :).trans hres
  have hcores : k.cores = d.cores := hend.cores.trans hfg.cores
  have hlistCores : k.partCores p = d.partCores p := (hend.partCores p).trans (hfg.partCores p)
  obtain ⟨hpart, hclk, hshown, hmap, hbegin⟩ := k.release_leaves p c stretch cause frame holdc hlist hkres e he
  rw [hk] at hclk
  have hacct : (e.ctx c).acct = a := congrArg (fun x => x.2.2) hclk
  refine ⟨⟨_, hclock p, hpart⟩, congrArg Prod.fst hclk, congrArg (fun x => x.2.1) hclk, hshown, ?_, ?_, ?_, fun n hn => ?_⟩
  · rw [hacct, hrbeat, hf]
  · have hsize : f.partSize = d.partSize := hstart.partSize
    rw [hacct, hcbeat, hf, hsize]
  · exact hmap.trans (hend.map.trans hfg.map)
  · obtain ⟨ro, tokens, h⟩ := hbegin n (hlistCores ▸ hn)
    refine ⟨ro, tokens, h.trans ?_⟩
    rw [Dev.core, hcores, Dev.core]

end

/-! ## Boundary action 1 (R138, R201) -/

theorem Dev.boundary_idle (hrun : ∀ c ∈ d.imgCtxs p, (d.ctx c).nextRun = none) (hflip : ∀ r ∈ d.tiers.runs, r.copied = false) :
    (d.applyRuns p).flips p = d := by
  have hruns : d.applyRuns p = d := by
    refine List.foldlRecOn (d.imgCtxs p) _ (motive := fun e => e = d) rfl fun e he k hk => ?_
    rw [he, hrun k hk]
  have hflips : d.flips p = d := by
    unfold Dev.flips
    rw [List.filter_eq_nil_iff.2 fun r hr => by rw [hflip r hr]; exact Bool.false_ne_true]
    rfl
  rw [hruns, hflips]

/-- A page's flip leaves the partitions as they are. -/
theorem Dev.flip_part (d : Dev) (r : MoveRun) (q : Nat) : (d.flip r).part q = d.part q := by
  have hsettle (e : Dev) : e.settleLeaving.part q = e.part q := by
    refine foldl_keeps (fun e : Dev => e.part q) (fun d l => ?_) _ _
    dsimp only
    split
    · unfold Dev.freePhys
      dsimp only
      split
      · exact Dev.event_part ..
      · rfl
    · rfl
  have hleave (e : Dev) (page part ctx dev ppn : Nat) : (e.leavePage page part ctx dev ppn).part q = e.part q := (hsettle _).trans rfl
  have hqueue (e : Dev) (b : Prop) [Decidable b] (m : Move) : (if b then e.queueMove m else e).part q = e.part q := by
    split
    · obtain ⟨l, h⟩ := e.queueMove_parts m
      rw [h]
      rfl
    · rfl
  exact (hqueue _ _ _).trans ((hqueue _ _ _).trans ((hleave _ _ _ _ _ _).trans rfl))

/-- The one flip that waits for the boundary gives its page the new place. -/
theorem Dev.boundary_flip {r : MoveRun} (hr : d.tiers.runs.filter (fun r => r.copied && d.addrPart (r.page * pageBytes) == p) = [r]) :
    ∃ e : Dev, e.parts = d.parts ∧ e.tiers = d.tiers ∧ (d.applyRuns p).flips p = e.flip r := by
  have hruns : (d.applyRuns p).parts = d.parts ∧ (d.applyRuns p).tiers = d.tiers ∧ (d.applyRuns p).brd = d.brd := by
    refine List.foldlRecOn (d.imgCtxs p) _ (motive := fun e : Dev => e.parts = d.parts ∧ e.tiers = d.tiers ∧ e.brd = d.brd) ⟨rfl, rfl,
        rfl⟩ fun e he k _ => ?_
    split <;> exact he
  obtain ⟨hparts, htiers, hbrd⟩ := hruns
  refine ⟨d.applyRuns p, hparts, htiers, ?_⟩
  have haddr (a : Nat) : (d.applyRuns p).addrPart a = d.addrPart a := by rw [Dev.addrPart, hbrd, Dev.addrPart]
  unfold Dev.flips
  simp only [htiers, haddr, hr]
  rfl

/-! ## The obligation -/

section
variable {s t : State} {stretch cause frame holdc : Nat}

theorem exec_beatRelease (hp : p < nParts) : exec (.beatRelease p stretch cause frame holdc) s =
    .next { s with dev := s.dev.beatRelease p stretch (cause % 3) (frame % 20) holdc } := onUnit_eq (decide_eq_true hp) _

theorem nctx_one (hctx : d.imgCtxs p = [c]) : d.nctx p ≤ 1 := by
  rw [Dev.nctx, hctx]
  exact le_rfl

/-- A release that nothing else joins at the boundary. -/
theorem beatRelease_of_canRelease (hctx : d.imgCtxs p = [c]) (hres : (d.part p).resident = some c) (hcan : canRelease d p) :
    d.beatRelease p stretch cause frame holdc =
      if (d.ctx c).run = false then d
      else if d.mayNotAdvance p c then d.heldBeat p c holdc else d.nextBeat p c stretch cause frame holdc := by
  obtain ⟨hb, hrun, hflip⟩ := hcan
  exact Dev.beatRelease_of_boundary hb d (Dev.boundary_idle hrun hflip).symm (nctx_one hctx) hres stretch cause frame holdc

theorem Core.beatStart_counting (k : Core) (ro : Nat → Bool) (tokens : Bool) {u : TaskRun} {n : Nat} (h : k.tasks = [u]) (hb : u.bwait = some (n + 1)) :
    (k.beatStart ro tokens).tasks = [{ u with bwait := some n }] := by
  unfold Core.beatStart
  dsimp only
  rw [h, List.map_singleton, hb]

theorem Core.beatStart_ending (k : Core) (ro : Nat → Bool) (tokens : Bool) {u : TaskRun} (h : k.tasks = [u]) (hb : u.bwait = some 0) :
    (k.beatStart ro tokens).tasks = [{ u with bwait := none, pc := u.pc + 4 }] := by
  unfold Core.beatStart
  dsimp only
  rw [h, List.map_singleton, hb]

/-- A beat goes on to the next, and the clocks with it. -/
theorem beatRelease_advances (hctx : s.dev.imgCtxs p = [c]) (hres : (s.dev.part p).resident = some c) (hcan : canRelease s.dev p)
    (hrun : (s.dev.ctx c).run = true) (hgo : s.dev.mayNotAdvance p c = false) :
    ∃ t, exec (.beatRelease p stretch cause frame holdc) s = .next t ∧ SameOutside s t ∧ t.dev.mem = s.dev.mem ∧
      (t.dev.part p).beat = ((s.dev.part p).beat + 1) % 2 ^ 48 ∧ (t.dev.part p).hold = false ∧ (t.dev.part p).quiesce = false ∧
      (t.dev.ctx c).stamp = nextStamp (s.dev.phases p) (s.dev.ctx c).stamp ∧ (t.dev.ctx c).hold = false ∧
      (t.dev.part p).strc = (s.dev.part p).strc + BitVec.ofNat 32 stretch ∧
      (t.dev.part p).strn = (if stretch = 0 then (s.dev.part p).strn else (s.dev.part p).strn + 1) ∧
      (t.dev.part p).holdc = (s.dev.part p).holdc + BitVec.ofNat 32 holdc ∧
      (t.dev.ctx c).acct.rbeat = (s.dev.ctx c).acct.rbeat + 1 ∧
      (t.dev.ctx c).acct.cbeat = (s.dev.ctx c).acct.cbeat + s.dev.partSize ∧ (t.dev.ctx c).shown = (t.dev.ctx c).acct ∧
      (∀ n u k, n ∈ s.dev.partCores p → (s.dev.core n).tasks = [u] → u.bwait = some (k + 1) →
        (t.dev.core n).tasks = [{ u with bwait := some k }]) ∧
      (∀ n u, n ∈ s.dev.partCores p → (s.dev.core n).tasks = [u] → u.bwait = some 0 →
        (t.dev.core n).tasks = [{ u with bwait := none, pc := u.pc + 4 }]) ∧
      ∀ n, n ∈ s.dev.partCores p → (t.dev.core n).pad = (s.dev.core n).pad ∧ (t.dev.core n).su.ring = (s.dev.core n).su.ring ∧
        (t.dev.core n).su.sem = (s.dev.core n).su.sem ∧ (t.dev.core n).su.desc = (s.dev.core n).su.desc ∧
        (t.dev.core n).vx.v = (s.dev.core n).vx.v := by
  have hmem := s.dev.beatRelease_mem p stretch (cause % 3) (frame % 20) holdc
  have hbranch : s.dev.beatRelease p stretch (cause % 3) (frame % 20) holdc = s.dev.nextBeat p c stretch (cause % 3) (frame % 20) holdc := by
    rw [beatRelease_of_canRelease hctx hres hcan, if_neg (by simp [hrun]), if_neg (by simp [hgo])]
  refine ⟨_, exec_beatRelease hcan.1.1, ⟨rfl, rfl⟩, hmem, ?_⟩
  obtain ⟨⟨x, hclock, hpart⟩, hstamp, hhold, hshown, hrbeat, hcbeat, -, hcores⟩ :=
    Dev.nextBeat_leaves stretch (cause % 3) (frame % 20) holdc hctx hres _ hbranch
  dsimp only
  generalize s.dev.beatRelease p stretch (cause % 3) (frame % 20) holdc = e at *
  have hbeat : x.beat = (s.dev.part p).beat := congrArg (fun x => x.2.2.2.1) hclock
  have hstrn : x.strn = (s.dev.part p).strn := congrArg (fun x => x.2.2.2.2.1) hclock
  have hstrc : x.strc = (s.dev.part p).strc := congrArg (fun x => x.2.2.2.2.2.1) hclock
  have hholdc : x.holdc = (s.dev.part p).holdc := congrArg (fun x => x.2.2.2.2.2.2) hclock
  rw [hpart, ← hbeat, ← hstrn, ← hstrc, ← hholdc]
  refine ⟨rfl, rfl, rfl, hstamp, hhold, rfl, rfl, rfl, hrbeat, hcbeat, hshown, fun n u k hn hu hk => ?_, fun n u hn hu hk => ?_, fun n hn => ?_⟩
  all_goals obtain ⟨ro, tokens, hcore⟩ := hcores n hn
  all_goals rw [hcore]
  · exact Core.beatStart_counting _ ro tokens hu hk
  · exact Core.beatStart_ending _ ro tokens hu hk
  · exact ⟨rfl, rfl, rfl, rfl, rfl⟩

/-- The stamp may not advance: the partition is held, and nothing runs. -/
theorem beatRelease_holds (hctx : s.dev.imgCtxs p = [c]) (hres : (s.dev.part p).resident = some c) (hcan : canRelease s.dev p)
    (hrun : (s.dev.ctx c).run = true) (hstop : s.dev.mayNotAdvance p c = true) :
    ∃ t, exec (.beatRelease p stretch cause frame holdc) s = .next t ∧ SameOutside s t ∧ t.dev.mem = s.dev.mem ∧ t.dev.cores = s.dev.cores ∧
      (t.dev.part p).beat = (s.dev.part p).beat ∧ (t.dev.part p).hold = true ∧ (t.dev.ctx c).stamp = (s.dev.ctx c).stamp ∧
      (t.dev.ctx c).hold = true ∧ (t.dev.part p).holdc = (s.dev.part p).holdc + BitVec.ofNat 32 holdc := by
  have hmem := s.dev.beatRelease_mem p stretch (cause % 3) (frame % 20) holdc
  have hbranch : s.dev.beatRelease p stretch (cause % 3) (frame % 20) holdc = s.dev.heldBeat p c holdc := by
    rw [beatRelease_of_canRelease hctx hres hcan, if_neg (by simp [hrun]), if_pos hstop]
  obtain ⟨hcores, -, hbeat, hhold, -, hstamp, hheld, hcount⟩ := s.dev.heldBeat_leaves (p := p) (c := c) holdc
  refine ⟨_, exec_beatRelease hcan.1.1, ⟨rfl, rfl⟩, hmem, ?_⟩
  dsimp only
  rw [hbranch]
  exact ⟨hcores, hbeat, hhold, hstamp, hheld, hcount⟩

/-- A flip that waits for the boundary, whatever the release then does. -/
theorem beatRelease_flips (hctx : s.dev.imgCtxs p = [c]) (hres : (s.dev.part p).resident = some c) (r : MoveRun) (hb : atBoundary s.dev p)
    (hr : s.dev.tiers.runs.filter (fun r => r.copied && s.dev.addrPart (r.page * pageBytes) == p) = [r]) :
    ∃ t, exec (.beatRelease p stretch cause frame holdc) s = .next t ∧ SameOutside s t ∧ t.dev.mem = s.dev.mem ∧
      t.dev.tm r.page = { s.dev.tm r.page with dev := r.dev, ppn := r.ppn, mst := 0, rtd := r.retire } ∧
      ∀ k, k ≠ r.page → t.dev.tm k = s.dev.tm k := by
  have hmem := s.dev.beatRelease_mem p stretch (cause % 3) (frame % 20) holdc
  obtain ⟨f, hparts, htiers, hflip⟩ := Dev.boundary_flip hr
  obtain ⟨e, he⟩ := exists_eq (a' := f.flip r)
  have hpart : e.part p = s.dev.part p := by rw [he, Dev.flip_part, Dev.part, hparts, Dev.part]
  have hlist : e.imgCtxs p = [c] := by
    rw [Dev.imgCtxs, hpart]
    exact hctx
  have hmap : ∀ k, e.tm k = (f.setTm r.page { f.tm r.page with dev := r.dev, ppn := r.ppn, mst := 0, rtd := r.retire }).tm k := fun k => by
    rw [he, (f.flip_moved r).tm, Dev.moved_tm]
  have hf : ∀ k, f.tm k = s.dev.tm k := fun k => by rw [Dev.tm, htiers, Dev.tm]
  have hbranch := Dev.beatRelease_of_boundary hb e (he.trans hflip.symm) (nctx_one hlist) (hpart ▸ hres) stretch (cause % 3) (frame % 20) holdc
  have hlast : (s.dev.beatRelease p stretch (cause % 3) (frame % 20) holdc).tiers.map = e.tiers.map := by
    rw [hbranch]
    split
    · rfl
    · split
      · exact (Dev.heldBeat_leaves holdc).2.1
      · obtain ⟨-, -, -, -, -, -, hm, -⟩ := Dev.nextBeat_leaves stretch (cause % 3) (frame % 20) holdc hlist (hpart ▸ hres) _ rfl
        exact hm
  refine ⟨_, exec_beatRelease hb.1, ⟨rfl, rfl⟩, hmem, ?_, fun k hk => ?_⟩
  all_goals rw [Dev.tm, hlast, ← Dev.tm, hmap]
  · rw [Dev.setTm_tm_self, hf]
  · rw [Dev.setTm_tm_ne _ _ hk, hf]

/-- The stamp that would leave the cap behind by more than two steps does not advance (R145). -/
theorem stampsStayWithinTwoOfTheCap : StampsStayWithinTwoOfTheCap := by
  intro s t p stretch cause frame holdc c hcan hctx hres hwrap hle ht
  rw [exec_beatRelease hcan.1.1] at ht
  cases ht
  dsimp only
  have hbranch := beatRelease_of_canRelease (stretch := stretch) (cause := cause % 3) (frame := frame % 20) (holdc := holdc) hctx hres hcan
  by_cases hrun : (s.dev.ctx c).run = false
  · rw [hbranch, if_pos hrun]
    exact hle
  · rw [if_neg hrun] at hbranch
    by_cases hs : s.dev.mayNotAdvance p c = true
    · obtain ⟨-, -, -, -, hcapped, hstamp, -⟩ := s.dev.heldBeat_leaves (p := p) (c := c) holdc
      rw [hbranch, if_pos hs, hstamp, hcapped]
      exact hle
    · rw [if_neg hs] at hbranch
      obtain ⟨⟨x, hclock, hpart⟩, hstamp, -⟩ := Dev.nextBeat_leaves stretch (cause % 3) (frame % 20) holdc hctx hres _ hbranch
      have hcapped : x.capped = (s.dev.part p).capped := congrArg (fun x => x.2.2.1) hclock
      have hnot : s.dev.heldFor p c = false := by
        unfold Dev.mayNotAdvance at hs
        rw [Bool.or_eq_true, not_or] at hs
        exact Bool.eq_false_iff.2 hs.1
      rw [hstamp, hpart, show (x.released stretch (cause % 3) (frame % 20) holdc).capped = x.capped from rfl, hcapped]
      by_cases hsame : (nextStamp (s.dev.phases p) (s.dev.ctx c).stamp).step = (s.dev.ctx c).stamp.step
      · rw [hsame]
        exact hle
      · unfold Dev.heldFor at hnot
        simp only [bne_iff_ne.2 hsame, Bool.true_and, decide_eq_false_iff_not, Nat.mod_eq_of_lt hwrap] at hnot
        exact Nat.not_lt.1 hnot

end

/-- Settles O26: with one context no switch is chosen, and a release is `Dev.nextBeat` or `Dev.heldBeat`. -/
theorem beatReleaseAdvancesHoldsAndStaysNearTheCap : Obligations.BeatReleaseAdvancesHoldsAndStaysNearTheCap :=
  ⟨fun _ _ _ _ _ _ _ hctx hres => ⟨fun hcan hrun => ⟨beatRelease_advances hctx hres hcan hrun, beatRelease_holds hctx hres hcan hrun⟩,
    beatRelease_flips hctx hres⟩, stampsStayWithinTwoOfTheCap⟩

end

end Sys2Proof.Machine
end

section
/-! SUPPORT. What a context's micro-batches are prepared from: the units' writes, the channels and the log leave it (R227, R350). -/

namespace Sys2Proof.Machine
open Sys2Proof Sys2Proof.Machine.Claims

/-- A context's placed records, the number of its next micro-batch, and its regions (R227). -/
def Context.batches (x : Context) : List FeedRec × Nat × Store (Option MicroBatch) := (x.feed, x.nextMb, x.mbs)

/-- The micro-batches of every context. -/
def Dev.batches (d : Dev) (c : Nat) : List FeedRec × Nat × Store (Option MicroBatch) := (d.ctx c).batches

theorem batches_of_ctxs {d e : Dev} (h : e.ctxs = d.ctxs) : e.batches = d.batches := by
  funext c
  rw [Dev.batches, Dev.ctx, h]
  rfl

theorem batches_of_sent {d e : Dev} (h : d.SameButSent e) : e.batches = d.batches := batches_of_ctxs h.ctxs

@[simp] theorem foldl_batches {α : Type} {f : Dev → α → Dev} (l : List α) (d : Dev) (h : ∀ d a, (f d a).batches = d.batches) :
    (l.foldl f d).batches = d.batches := foldl_keeps Dev.batches h l d

section
variable (d : Dev)

theorem Dev.modCtx_batches (k : Nat) {f : Context → Context} (h : ∀ x, (f x).batches = x.batches) : (d.modCtx k f).batches = d.batches := by
  funext c
  by_cases hc : c = k
  · rw [hc, Dev.batches, Dev.modCtx_ctx_self, h, Dev.batches]
  · rw [Dev.batches, Dev.modCtx_ctx_ne _ _ hc, Dev.batches]

@[simp] theorem Dev.event_batches (code part ctx lcore : Nat) (detail : List Nat) : (d.event code part ctx lcore detail).batches = d.batches :=
  batches_of_ctxs (d.event_ctxs ..)

@[simp] theorem Dev.contextFault_batches (code part ctx lcore : Nat) (detail : List Nat) :
    (d.contextFault code part ctx lcore detail).batches = d.batches := batches_of_ctxs (d.contextFault_ctxs ..)

@[simp] theorem Dev.acct_batches (c : Nat) (f : Account → Account) : (d.acct c f).batches = d.batches := d.modCtx_batches c fun _ => rfl

/-! ## Writes into the unified range -/

@[simp] theorem Dev.abort_batches (n uid : Nat) (fi : FaultInfo) : (d.abort n uid fi).batches = d.batches := by
  unfold Dev.abort
  exact (Dev.contextFault_batches ..).trans rfl

@[simp] theorem Dev.abortSaved_batches (c n uid : Nat) (fi : FaultInfo) : (d.abortSaved c n uid fi).batches = d.batches := by
  unfold Dev.abortSaved
  refine (Dev.contextFault_batches ..).trans ?_
  exact d.modCtx_batches c (f := fun x => { x with saved := Store.modify {} x.saved n (fun k => k.abort uid fi d.freeIx) }) fun _ => rfl

@[simp] theorem Dev.staleCheck_batches (p a n : Nat) : (d.staleCheck p a n).batches = d.batches := by
  unfold Dev.staleCheck
  refine (foldl_batches _ _ fun e c => ?_).trans (foldl_batches _ _ fun e x => ?_)
  · split
    · exact foldl_batches _ _ fun e x => foldl_batches _ _ fun e y => Dev.abortSaved_batches ..
    · rfl
  · split
    · exact foldl_batches _ _ fun e y => Dev.abort_batches ..
    · rfl

@[simp] theorem Dev.combDrop_batches (a n : Nat) : (d.combDrop a n).batches = d.batches := by
  unfold Dev.combDrop
  exact foldl_batches _ _ fun _ _ => rfl

@[simp] theorem Dev.wakeDev_batches (dev : Nat) : (d.wakeDev dev).batches = d.batches := by
  unfold Dev.wakeDev
  repeat' split
  all_goals rfl

@[simp] theorem Dev.touch_batches (a : Nat) : (d.touch a).batches = d.batches := by
  unfold Dev.touch
  dsimp only
  split <;> rfl

@[simp] theorem Dev.countMem_batches (c a n : Nat) (write : Bool) : (d.countMem c a n write).batches = d.batches := by
  unfold Dev.countMem Dev.countDev
  dsimp only
  repeat' split
  all_goals simp

@[simp] theorem Dev.uniWrite_batches (p c a : Nat) (bs : List Byte) (poison : Bool) : (d.uniWrite p c a bs poison).batches = d.batches := by
  unfold Dev.uniWrite
  simp only [Dev.staleCheck_batches, Dev.countMem_batches, Dev.combDrop_batches]
  rfl

/-! ## Channels -/

@[simp] theorem Dev.sendOn_batches (k prio bytes : Nat) (t : Tx) : (d.sendOn k prio bytes t).batches = d.batches := batches_of_sent (d.sendOn_same ..)

@[simp] theorem Dev.modNet_batches (n : Nat) (f : Network → Network) : (d.modNet n f).batches = d.batches := by
  unfold Dev.modNet
  dsimp only
  split <;> rfl
@[simp] theorem Dev.setSend_batches (p i : Nat) (x : SendChan) : (d.setSend p i x).batches = d.batches := rfl

@[simp] theorem Dev.modSend_batches (p i : Nat) (f : SendChan → SendChan) : (d.modSend p i f).batches = d.batches := by
  unfold Dev.modSend
  split <;> rfl

@[simp] theorem Dev.nextHop_batches (net dst src : Nat) : (d.nextHop net dst src).2.batches = d.batches := by
  have hany : (d.anyPort net).2.batches = d.batches := rfl
  unfold Dev.nextHop
  split
  · rfl
  dsimp only
  split
  · rfl
  split
  · next h => rwa [h] at hany
  · next h =>
    rw [h] at hany
    split
    · exact hany
    · exact (Dev.sendOn_batches ..).trans ((Dev.modNet_batches ..).trans hany)

@[simp] theorem Dev.emitPkt_batches (net pcp dst : Nat) (h : DataHdr) (payload : List Byte) : (d.emitPkt net pcp dst h payload).batches = d.batches := by
  unfold Dev.emitPkt
  dsimp only
  split <;> simp

@[simp] theorem Dev.transmit_batches (p : Nat) (x : SendChan) (k : SentPkt) (rtx : Bool) : (d.transmit p x k rtx).batches = d.batches := by
  unfold Dev.transmit Dev.acctChan Dev.acctNet
  dsimp only
  repeat' split
  all_goals simp

@[simp] theorem Dev.askCredit_batches (p i : Nat) : (d.askCredit p i).batches = d.batches := by
  unfold Dev.askCredit
  repeat' split
  all_goals simp

@[simp] theorem Dev.pumpN_batches (f p i : Nat) : (Dev.pumpN f d p i).batches = d.batches := by
  induction f generalizing d with
  | zero => rfl
  | succ f ih =>
    have hhead (d : Dev) (x : SendChan) (k : SentPkt) (rest : List SentPkt) (n : Nat) :
        (Dev.pumpN.sendHead d p i x k rest n).batches = d.batches := (Dev.transmit_batches ..).trans rfl
    have hsec (d : Dev) (g : Security → Security) : (d.modSec g).batches = d.batches := rfl
    unfold Dev.pumpN
    dsimp only
    repeat' split
    all_goals simp [ih, hhead, hsec]

@[simp] theorem Dev.enqueue_batches (p i : Nat) (k : SentPkt) : (d.enqueue p i k).batches = d.batches := by
  unfold Dev.enqueue Dev.pump
  split <;> simp

@[simp] theorem Dev.recSend_batches (p rank chan step offset : Nat) (bs : List Byte) :
    (d.recSend p rank chan step offset bs).batches = d.batches := by
  unfold Dev.recSend
  dsimp only
  split
  · rfl
  · exact (foldl_batches _ _ fun d k => d.enqueue_batches ..).trans rfl

/-! ## The log (R350, R365) -/

@[simp] theorem Dev.logAppend_batches (p type step : Nat) (tsw : List Nat) : (d.logAppend p type step tsw).batches = d.batches := by
  unfold Dev.logAppend
  dsimp only
  split
  · exact (Dev.recSend_batches ..).trans ((foldl_batches _ _ fun d r => d.recSend_batches ..).trans rfl)
  · exact (foldl_batches _ _ fun d r => d.recSend_batches ..).trans rfl

@[simp] theorem Dev.endReplay_batches (p result step : Nat) : (d.endReplay p result step).batches = d.batches := by
  unfold Dev.endReplay
  split <;> rfl

@[simp] theorem Dev.logSample_batches (p c step mbn : Nat) (f : FeedRec) (refused : Bool) :
    (d.logSample p c step mbn f refused).batches = d.batches := by
  unfold Dev.logSample
  dsimp only
  repeat' split
  all_goals simp

end

end Sys2Proof.Machine
end

section
/-! PROOF. O32: micro-batches are prepared, made ready and released (R227 to R229, Table 9-4). -/

namespace Sys2Proof.Machine
open Sys2Proof Sys2Proof.Machine.Claims

/-! ## Bytes of a write into the unified range -/

section
variable (d : Dev) (p c : Nat)

theorem Dev.uniWrite_byte (a : Nat) (bs : List Byte) (poison : Bool) (z : Nat) :
    (d.uniWrite p c a bs poison).memByte z = if a ≤ z ∧ z < a + bs.length then bs.getD (z - a) 0#8 else d.memByte z := by
  rw [Dev.memByte_of_mem (d.uniWrite_mem_memPut p c a bs poison), Dev.memPut_memByte]

theorem Dev.uniWrite_byte_out {a : Nat} {bs : List Byte} (poison : Bool) {z : Nat} (h : z < a ∨ a + bs.length ≤ z) :
    (d.uniWrite p c a bs poison).memByte z = d.memByte z := by
  rw [Dev.uniWrite_byte, if_neg (by omega)]

/-- Bytes that a write does not touch read as before. -/
theorem Dev.uniWrite_memRead_out {a b n : Nat} {bs : List Byte} (poison : Bool) (h : b + n ≤ a ∨ a + bs.length ≤ b) :
    (d.uniWrite p c a bs poison).memRead b n = d.memRead b n := by
  refine List.map_congr_left fun i hi => d.uniWrite_byte_out p c poison ?_
  have hin := List.mem_range.mp hi
  omega

/-- A piece of what was written is read back. -/
theorem Dev.uniWrite_memRead (a : Nat) (bs : List Byte) (poison : Bool) {k n : Nat} (h : k + n ≤ bs.length) :
    (d.uniWrite p c a bs poison).memRead (a + k) n = (bs.drop k).take n := by
  refine List.ext_getElem (by simp [Dev.memRead]; omega) fun i hi hi' => ?_
  have hin : i < n := by simpa [Dev.memRead] using hi
  simp only [Dev.memRead, List.getElem_map, List.getElem_range, List.getElem_take, List.getElem_drop]
  rw [Dev.uniWrite_byte, if_pos (by omega), Nat.add_assoc, Nat.add_sub_cancel_left, List.getD_eq_getElem _ _ (by omega)]

/-- A word written is read back. -/
theorem Dev.uniWrite_word (a v : Nat) (poison : Bool) : leNat ((d.uniWrite p c a (toLe 4 v) poison).memRead a 4) = v % 2 ^ 32 := by
  have hread := d.uniWrite_memRead p c a (toLe 4 v) poison (k := 0) (n := 4) (by simp)
  rw [Nat.add_zero, List.drop_zero, List.take_of_length_le (by simp)] at hread
  rw [hread, leNat_toLe]
  rfl

end

theorem Dev.memRead_of_mem {d e : Dev} (h : e.mem = d.mem) (a n : Nat) : e.memRead a n = d.memRead a n :=
  List.map_congr_left fun _ _ => Dev.memByte_of_mem h _

/-! ## The record of a micro-batch (Table 9-4) -/

theorem mbRecord_eq (t : List Byte) (mbn step tokens nref : Nat) : ∃ fb rest, fb ≤ 1 ∧
    mbRecord t mbn step tokens nref = toLe 4 mbn ++ (toLe 4 step ++ (toLe 4 tokens ++ (toLe 4 (fb * 2 ^ 30 + nref) ++ rest))) := by
  have hfb (b : Bool) : b2n b ≤ 1 := by cases b <;> decide
  simp only [mbRecord, List.append_assoc]
  exact ⟨_, _, hfb _, rfl⟩

/-- The number of a micro-batch and its READY word, as its record is written. -/
theorem Dev.mbRecord_read (d : Dev) (p c a : Nat) (t : List Byte) (mbn step tokens : Nat) {nref : Nat} (h : nref < 2 ^ 30) {e : Dev}
    (he : e.mem = (d.uniWrite p c a (mbRecord t mbn step tokens nref) false).mem) :
    leNat (e.memRead a 4) = mbn % 2 ^ 32 ∧ leNat (e.memRead (a + 12) 4) / 2 ^ 31 = 0 := by
  have hread (b : Nat) := Dev.memRead_of_mem he b 4
  obtain ⟨fb, rest, hfb, hrec⟩ := mbRecord_eq t mbn step tokens nref
  have hlen : 16 ≤ (mbRecord t mbn step tokens nref).length := by
    rw [hrec]
    simp only [List.length_append, toLe_length]
    omega
  have h0 : ((mbRecord t mbn step tokens nref).drop 0).take 4 = toLe 4 mbn := by
    rw [hrec, List.drop_zero, List.take_left' (toLe_length ..)]
  have h12 : ((mbRecord t mbn step tokens nref).drop 12).take 4 = toLe 4 (fb * 2 ^ 30 + nref) := by
    rw [hrec, ← List.append_assoc, ← List.append_assoc, List.drop_left' (by simp), List.take_left' (toLe_length ..)]
  constructor
  · have hz := d.uniWrite_memRead p c a (mbRecord t mbn step tokens nref) false (k := 0) (n := 4) (by omega)
    rw [h0, Nat.add_zero] at hz
    rw [hread, hz, leNat_toLe]
    rfl
  · rw [hread, Dev.uniWrite_memRead _ _ _ _ _ _ (by omega), h12, leNat_toLe]
    omega

/-! ## The preparation (R227, R228) -/

/-- The slot of one sample is written, and the sample logged. -/
def Dev.prepareSample (t : List Byte) (p c m slot rbase step : Nat) (acc : Dev × Nat × Nat) (f : FeedRec) : Dev × Nat × Nat :=
  let ref := sampleRefused t f
  let d := acc.1.uniWrite p c (bkCbase t + 64 * (slot + acc.2.1)) (slotRecord f ref acc.2.2 m rbase) false
  let d := if ref then d.event 0x0601 p c 0x1FF [f.rid % 2 ^ 32, f.rid / 2 ^ 32, f.tokens] else d
  (d.logSample p c step m f ref, acc.2.1 + 1, acc.2.2 + (if ref then 0 else f.tokens))

theorem Dev.prepareSample_batches (t : List Byte) (p c m slot rbase step : Nat) (acc : Dev × Nat × Nat) (f : FeedRec) :
    (Dev.prepareSample t p c m slot rbase step acc f).1.batches = acc.1.batches := by
  unfold Dev.prepareSample
  dsimp only
  split <;> simp

theorem Dev.prepareSamples_batches (t : List Byte) (p c m slot rbase step : Nat) (l : List FeedRec) (acc : Dev × Nat × Nat) :
    (l.foldl (Dev.prepareSample t p c m slot rbase step) acc).1.batches = acc.1.batches :=
  foldl_keeps (fun x : Dev × Nat × Nat => x.1.batches) (fun x f => Dev.prepareSample_batches t p c m slot rbase step x f) l acc

theorem bkSpm_lt (t : List Byte) : bkSpm t < 2 ^ 30 := by
  unfold bkSpm bits
  omega

/-- The partition counts a micro-batch, and the context takes its samples. -/
def Dev.takeSamples (t : List Byte) (p c m r step : Nat) (f : Partition → Partition) (e : Dev) : Dev :=
  (e.modPart p f).modCtx c (fun x => { x with
    feed := x.feed.drop (bkSpm t), nextMb := m + 1,
    mbs := Store.set none x.mbs r (some { mbn := m, step := step, prepBeat := ((e.modPart p f).part p).beat }) })

theorem Dev.takeSamples_mem (t : List Byte) (p c m r step : Nat) (f : Partition → Partition) (e : Dev) :
    (Dev.takeSamples t p c m r step f e).mem = e.mem := rfl

theorem Dev.takeSamples_batches (t : List Byte) (p c m r step : Nat) (f : Partition → Partition) {d e : Dev} (h : e.batches c = d.batches c) :
    ∃ beat, (Dev.takeSamples t p c m r step f e).batches c = ((d.ctx c).feed.drop (bkSpm t), m + 1,
      Store.set none (d.ctx c).mbs r (some { mbn := m, step := step, prepBeat := beat })) := by
  have hfeed : (e.ctx c).feed = (d.ctx c).feed := congrArg Prod.fst h
  have hmbs : (e.ctx c).mbs = (d.ctx c).mbs := congrArg (fun y => y.2.2) h
  have hctx : (e.modPart p f).ctx c = e.ctx c := rfl
  refine ⟨((e.modPart p f).part p).beat, ?_⟩
  rw [Dev.takeSamples, Dev.batches, Dev.modCtx_ctx_self, hctx, Context.batches]
  dsimp only
  rw [hfeed, hmbs]

/-- A full set of samples: each one's slot is written, then the record. -/
theorem Dev.prepare_eq {d : Dev} {c : Nat} (htab : (d.blockTab c).isEmpty = false) (hst : (d.part (d.partOfCtx c)).started = true)
    (hfeed : bkSpm (d.blockTab c) ≤ (d.ctx c).feed.length)
    (hfree : Store.get none (d.ctx c).mbs ((d.ctx c).nextMb % bkMbd (d.blockTab c)) = none) :
    let t := d.blockTab c
    let p := d.partOfCtx c
    let m := (d.ctx c).nextMb
    let r := m % bkMbd t
    ∃ slot rbase step tokens nref f, nref ≤ bkSpm t ∧ d.prepare c =
      Dev.takeSamples t p c m r step f
        ((((d.ctx c).feed.take (bkSpm t)).foldl (Dev.prepareSample t p c m slot rbase step) (d, 0, 0)).1.uniWrite p c (mbAddr t r)
          (mbRecord t m step tokens nref) false) := by
  intro t p m r
  have hgo : ((d.blockTab c).isEmpty || !(d.part (d.partOfCtx c)).started || decide ((d.ctx c).feed.length < bkSpm (d.blockTab c)) ||
      (Store.get none (d.ctx c).mbs ((d.ctx c).nextMb % bkMbd (d.blockTab c))).isSome) = false := by
    rw [hfree, htab, hst, decide_eq_false (by omega)]
    rfl
  unfold Dev.prepare
  dsimp only
  rw [if_neg (by rw [hgo]; decide)]
  refine ⟨_, _, _, _, _, _, ?_, rfl⟩
  exact (List.length_filter_le ..).trans (List.length_take_le ..)

theorem microBatchIsPrepared (s : State) (c : Nat) (hc : c < nCtxs) :
    let tab := s.dev.blockTab c
    (tab).isEmpty = false → (s.dev.part (s.dev.partOfCtx c)).started = true →
      bkSpm tab ≤ (s.dev.ctx c).feed.length → Store.get none (s.dev.ctx c).mbs ((s.dev.ctx c).nextMb % bkMbd tab) = none →
      let a := mbAddr tab ((s.dev.ctx c).nextMb % bkMbd tab)
      ∃ t, exec (.microBatchPreparation c) s = .next t ∧ SameOutside s t ∧
        (t.dev.ctx c).feed = (s.dev.ctx c).feed.drop (bkSpm tab) ∧ (t.dev.ctx c).nextMb = (s.dev.ctx c).nextMb + 1 ∧
        (Store.get none (t.dev.ctx c).mbs ((s.dev.ctx c).nextMb % bkMbd tab)).map (fun m => (m.mbn, m.ready)) =
          some ((s.dev.ctx c).nextMb, false) ∧
        leNat (t.dev.memRead a 4) = (s.dev.ctx c).nextMb % 2 ^ 32 ∧ leNat (t.dev.memRead (a + 12) 4) / 2 ^ 31 = 0 := by
  intro tab htab hst hfeed hfree a
  obtain ⟨slot, rbase, step, tokens, nref, f, hn, heq⟩ := Dev.prepare_eq htab hst hfeed hfree
  have hspm : bkSpm (s.dev.blockTab c) < 2 ^ 30 := bkSpm_lt tab
  have hsamples := Dev.prepareSamples_batches (s.dev.blockTab c) (s.dev.partOfCtx c) c (s.dev.ctx c).nextMb slot rbase step
    ((s.dev.ctx c).feed.take (bkSpm (s.dev.blockTab c))) (s.dev, 0, 0)
  generalize (List.foldl (α := Dev × Nat × Nat) (β := FeedRec) _ _ _).1 = e at heq hsamples
  have hrecord := (e.uniWrite_batches (s.dev.partOfCtx c) c a (mbRecord tab (s.dev.ctx c).nextMb step tokens nref) false).trans hsamples
  have hmem := Dev.takeSamples_mem tab (s.dev.partOfCtx c) c (s.dev.ctx c).nextMb ((s.dev.ctx c).nextMb % bkMbd tab) step f
    (e.uniWrite (s.dev.partOfCtx c) c a (mbRecord tab (s.dev.ctx c).nextMb step tokens nref) false)
  obtain ⟨beat, hb⟩ := Dev.takeSamples_batches tab (s.dev.partOfCtx c) c (s.dev.ctx c).nextMb ((s.dev.ctx c).nextMb % bkMbd tab) step f
    (congrFun hrecord c)
  rw [← heq] at hmem hb
  obtain ⟨hmbn, hready⟩ := e.mbRecord_read (s.dev.partOfCtx c) c a tab (s.dev.ctx c).nextMb step tokens (nref := nref) (hn.trans_lt hspm) hmem
  have hmbs : ((s.dev.prepare c).ctx c).mbs = _ := congrArg (fun y => y.2.2) hb
  refine ⟨{ s with dev := s.dev.prepare c }, onUnit_eq (decide_eq_true hc) _, ⟨rfl, rfl⟩, congrArg Prod.fst hb, congrArg (fun y => y.2.1) hb,
    ?_, hmbn, hready⟩
  have hget : Store.get none ((s.dev.prepare c).ctx c).mbs ((s.dev.ctx c).nextMb % bkMbd tab) =
      some { mbn := (s.dev.ctx c).nextMb, step := step, prepBeat := beat } := by
    rw [hmbs, Store.get_set_self]
  exact congrArg (Option.map fun y : MicroBatch => (y.mbn, y.ready)) hget

/-! ## READY (R227) -/

theorem Dev.readyWrite_eq {d : Dev} {c r : Nat} {mb : MicroBatch} (hmb : Store.get none (d.ctx c).mbs r = some mb) (hready : mb.ready = false)
    (hbeat : mb.prepBeat < (d.part (d.partOfCtx c)).beat) :
    d.readyWrite c r = ((d.uniWrite (d.partOfCtx c) c (mbAddr (d.blockTab c) r + 12)
      (toLe 4 (2 ^ 31 + leNat (d.memRead (mbAddr (d.blockTab c) r + 12) 4) % 2 ^ 31)) false).modCtx c (fun x => { x with
        mbs := Store.set none x.mbs r (some { mb with ready := true }) })).modPart (d.partOfCtx c) (fun y => { y with mblast := mb.mbn }) := by
  unfold Dev.readyWrite
  dsimp only
  rw [hmb]
  dsimp only
  rw [if_neg (by rw [hready, decide_eq_false (by omega)]; decide)]

/-- A region's entry is set and the last micro-batch noted: no byte changes. -/
theorem Dev.readyNoted (e : Dev) (p c r : Nat) (mb : MicroBatch) (n : Nat) :
    let f := (e.modCtx c (fun x => { x with mbs := Store.set none x.mbs r (some mb) })).modPart p (fun y => { y with mblast := n })
    Store.get none (f.ctx c).mbs r = some mb ∧ (f.part p).mblast = n ∧ f.mem = e.mem := by
  have hctx (k : Dev) (f : Partition → Partition) : (k.modPart p f).ctx c = k.ctx c := rfl
  refine ⟨?_, ?_, rfl⟩
  · rw [hctx, Dev.modCtx_ctx_self, Store.get_set_self]
  · rw [Dev.modPart_part_self]

theorem readyIsWritten (s : State) (c r : Nat) (mb : MicroBatch) (hc : c < nCtxs) :
    let tab := s.dev.blockTab c
    Store.get none (s.dev.ctx c).mbs r = some mb → mb.ready = false → mb.prepBeat < (s.dev.part (s.dev.partOfCtx c)).beat →
      ∃ t, exec (.readyWrite c r) s = .next t ∧ SameOutside s t ∧
        Store.get none (t.dev.ctx c).mbs r = some { mb with ready := true } ∧ (t.dev.part (s.dev.partOfCtx c)).mblast = mb.mbn ∧
        (∀ z, z < mbAddr tab r + 12 ∨ mbAddr tab r + 16 ≤ z → t.dev.memByte z = s.dev.memByte z) ∧
        leNat (t.dev.memRead (mbAddr tab r + 12) 4) = 2 ^ 31 + leNat (s.dev.memRead (mbAddr tab r + 12) 4) % 2 ^ 31 := by
  intro tab hmb hready hbeat
  have hword := s.dev.uniWrite_word (s.dev.partOfCtx c) c (mbAddr tab r + 12)
    (2 ^ 31 + leNat (s.dev.memRead (mbAddr tab r + 12) 4) % 2 ^ 31) false
  have hout {z : Nat} (hz : z < mbAddr tab r + 12 ∨ mbAddr tab r + 16 ≤ z) := s.dev.uniWrite_byte_out (s.dev.partOfCtx c) c
    (bs := toLe 4 (2 ^ 31 + leNat (s.dev.memRead (mbAddr tab r + 12) 4) % 2 ^ 31)) (a := mbAddr tab r + 12) (z := z) false (by
      rw [toLe_length]
      omega)
  have heq := Dev.readyWrite_eq hmb hready hbeat
  obtain ⟨hmbs, hlast, hmem⟩ := Dev.readyNoted (s.dev.uniWrite (s.dev.partOfCtx c) c (mbAddr tab r + 12)
    (toLe 4 (2 ^ 31 + leNat (s.dev.memRead (mbAddr tab r + 12) 4) % 2 ^ 31)) false) (s.dev.partOfCtx c) c r { mb with ready := true } mb.mbn
  rw [← heq] at hmbs hlast hmem
  refine ⟨{ s with dev := s.dev.readyWrite c r }, onUnit_eq (decide_eq_true hc) _, ⟨rfl, rfl⟩, hmbs, hlast, fun z hz => ?_, ?_⟩
  · exact (Dev.memByte_of_mem hmem z).trans (hout hz)
  · refine (congrArg leNat (Dev.memRead_of_mem hmem ..)).trans (hword.trans (Nat.mod_eq_of_lt ?_))
    omega

/-! ## RELS (R229) -/

/-- VALID of the slot `i` of a region is cleared. -/
def Dev.clearValid (p c a : Nat) (d : Dev) (i : Nat) : Dev :=
  d.uniWrite p c (a + 64 * i + 8) (toLe 4 (leNat (d.memRead (a + 64 * i + 8) 4) % 2 ^ 31)) false

theorem Dev.clearValid_out (p c a : Nat) {d : Dev} {i b : Nat} (h : b + 4 ≤ a + 64 * i + 8 ∨ a + 64 * i + 12 ≤ b) :
    (Dev.clearValid p c a d i).memRead b 4 = d.memRead b 4 := by
  refine d.uniWrite_memRead_out p c false ?_
  rw [toLe_length]
  omega

/-- Words at other places than VALID's read as before. -/
theorem Dev.clearValids_out (p c a : Nat) {b : Nat} (l : List Nat) (d : Dev) (h : ∀ i ∈ l, b + 4 ≤ a + 64 * i + 8 ∨ a + 64 * i + 12 ≤ b) :
    (l.foldl (Dev.clearValid p c a) d).memRead b 4 = d.memRead b 4 :=
  foldl_keeps_of_mem (fun e : Dev => e.memRead b 4) (fun i hi e => e.clearValid_out p c a (h i hi)) d

/-- A slot once cleared stays so. -/
theorem Dev.clearValids_valid (p c a n : Nat) (d : Dev) {i : Nat} (hi : i < n) :
    leNat (((List.range n).foldl (Dev.clearValid p c a) d).memRead (a + 64 * i + 8) 4) / 2 ^ 31 = 0 := by
  induction n with
  | zero => omega
  | succ n ih =>
    rw [List.range_succ, List.foldl_append, List.foldl_cons, List.foldl_nil]
    by_cases h : i = n
    · rw [h, Dev.clearValid, Dev.uniWrite_word]
      omega
    · rw [Dev.clearValid_out _ _ _ (by omega)]
      exact ih (by omega)

theorem Dev.clearRegion_eq (d : Dev) (c r : Nat) : d.clearRegion c r =
    let t := d.blockTab c
    let e := (List.range (bkSpm t)).foldl (Dev.clearValid (d.partOfCtx c) c (bkCbase t + 64 * (d.slotBase c + r * bkSpm t))) d
    e.uniWrite (d.partOfCtx c) c (mbAddr t r + 12) (toLe 4 (leNat (e.memRead (mbAddr t r + 12) 4) % 2 ^ 31)) false := by
  have hcell (k i : Nat) (x : Nat) : x + 64 * (k + i) + 8 = x + 64 * k + 64 * i + 8 := by omega
  unfold Dev.clearRegion Dev.clearValid
  simp only [hcell]

theorem Dev.clearRegion_batches (d : Dev) (c r : Nat) : (d.clearRegion c r).batches = d.batches := by
  rw [Dev.clearRegion_eq]
  exact (Dev.uniWrite_batches ..).trans (foldl_batches _ _ fun e i => e.uniWrite_batches ..)

/-- The words that the end of a region leaves. -/
theorem Dev.clearRegion_words (d : Dev) (c r : Nat) :
    leNat ((d.clearRegion c r).memRead (mbAddr (d.blockTab c) r + 12) 4) = leNat (d.memRead (mbAddr (d.blockTab c) r + 12) 4) % 2 ^ 31 ∧
    ∀ i, i < bkSpm (d.blockTab c) →
      leNat ((d.clearRegion c r).memRead (bkCbase (d.blockTab c) + 64 * (d.slotBase c + r * bkSpm (d.blockTab c) + i) + 8) 4) / 2 ^ 31 = 0 := by
  rw [Dev.clearRegion_eq]
  dsimp only
  generalize d.blockTab c = t
  generalize d.partOfCtx c = p
  generalize d.slotBase c + r * bkSpm t = k
  have hout := Dev.clearValids_out p c (bkCbase t + 64 * k) (b := mbAddr t r + 12) (List.range (bkSpm t)) d fun _ _ => by
    unfold mbAddr
    omega
  have hvalid {i : Nat} (hi : i < bkSpm t) := Dev.clearValids_valid p c (bkCbase t + 64 * k) (bkSpm t) d hi
  generalize (List.range (bkSpm t)).foldl (Dev.clearValid p c (bkCbase t + 64 * k)) d = e at hout hvalid
  constructor
  · rw [Dev.uniWrite_word, hout]
    omega
  · intro i hi
    have hcell : bkCbase t + 64 * (k + i) + 8 = bkCbase t + 64 * k + 64 * i + 8 := by omega
    rw [Dev.uniWrite_memRead_out, hcell]
    · exact hvalid hi
    · rw [toLe_length]
      unfold mbAddr
      omega

theorem Dev.releaseRecords_fab (d : Dev) (c n : Nat) : (d.releaseRecords c n).mem = d.mem ∧ (d.releaseRecords c n).ctxs = d.ctxs := by
  unfold Dev.releaseRecords
  dsimp only
  split <;> exact ⟨rfl, rfl⟩

/-- A region that holds something lets its records go. -/
def Dev.dropRegion (c r n : Nat) (e : Dev) : Dev :=
  if (Store.get none (e.ctx c).mbs r).isNone then e
  else (e.modCtx c (fun x => { x with mbs := Store.set none x.mbs r none })).releaseRecords c n

theorem Dev.dropRegion_leaves (c r n : Nat) (e : Dev) :
    (Dev.dropRegion c r n e).mem = e.mem ∧ Store.get none ((Dev.dropRegion c r n e).ctx c).mbs r = none := by
  unfold Dev.dropRegion
  split
  · next hn => exact ⟨rfl, Option.isNone_iff_eq_none.mp hn⟩
  · obtain ⟨hm, hx⟩ := (e.modCtx c (fun x => { x with mbs := Store.set none x.mbs r none })).releaseRecords_fab c n
    have hget : Store.get none ((e.modCtx c (fun x => { x with mbs := Store.set none x.mbs r none })).ctx c).mbs r = none := by
      rw [Dev.modCtx_ctx_self, Store.get_set_self]
    refine ⟨hm, ?_⟩
    rw [Dev.ctx, hx]
    exact hget

theorem Dev.relsWrite_released {d : Dev} {c r : Nat} (htab : (d.blockTab c).isEmpty = false) (hr : r < bkMbd (d.blockTab c))
    (h : leNat (d.memRead (mbAddr (d.blockTab c) r + 16) 4) = leNat (d.memRead (mbAddr (d.blockTab c) r) 4)) :
    d.relsWrite c r = Dev.dropRegion c r (bkSpm (d.blockTab c)) (d.clearRegion c r) := by
  unfold Dev.relsWrite Dev.dropRegion
  dsimp only
  rw [if_neg (by rw [htab, decide_eq_false (by omega)]; decide), if_pos h]

theorem relsReleasesOrFaults (s : State) (c r : Nat) (hc : c < nCtxs) :
    let tab := s.dev.blockTab c
    tab.isEmpty = false → r < bkMbd tab →
      (leNat (s.dev.memRead (mbAddr tab r + 16) 4) = leNat (s.dev.memRead (mbAddr tab r) 4) →
        ∃ t, exec (.relsWrite c r) s = .next t ∧ SameOutside s t ∧ Store.get none (t.dev.ctx c).mbs r = none ∧
          leNat (t.dev.memRead (mbAddr tab r + 12) 4) = leNat (s.dev.memRead (mbAddr tab r + 12) 4) % 2 ^ 31 ∧
          ∀ i, i < bkSpm tab →
            leNat (t.dev.memRead (bkCbase tab + 64 * (s.dev.slotBase c + r * bkSpm tab + i) + 8) 4) / 2 ^ 31 = 0) ∧
      (leNat (s.dev.memRead (mbAddr tab r + 16) 4) ≠ leNat (s.dev.memRead (mbAddr tab r) 4) →
        ∃ t, exec (.relsWrite c r) s = .next t ∧ SameOutside s t ∧ t.dev.mem = s.dev.mem ∧ t.dev.cores = s.dev.cores ∧
          (t.dev.part (s.dev.partOfCtx c)).resetDue = true ∧ (t.dev.ctx c).mbs = (s.dev.ctx c).mbs) := by
  intro tab htab hr
  have hlt : ¬ bkMbd (s.dev.blockTab c) ≤ r := Nat.not_le.mpr hr
  refine ⟨fun heq => ?_, fun hne => ?_⟩
  · obtain ⟨hmem, hfree⟩ := Dev.dropRegion_leaves c r (bkSpm (s.dev.blockTab c)) (s.dev.clearRegion c r)
    rw [← Dev.relsWrite_released htab hr heq] at hmem hfree
    obtain ⟨hready, hvalid⟩ := s.dev.clearRegion_words c r
    have hread (b : Nat) := Dev.memRead_of_mem hmem b 4
    refine ⟨{ s with dev := s.dev.relsWrite c r }, onUnit_eq (decide_eq_true hc) _, ⟨rfl, rfl⟩, hfree, ?_, fun i hi => ?_⟩
    · exact (congrArg leNat (hread _)).trans hready
    · dsimp only
      rw [hread]
      exact hvalid i hi
  · have h : s.dev.relsWrite c r = s.dev.contextFault 0x0602 (s.dev.partOfCtx c) c 0x1FF [] := by
      unfold Dev.relsWrite
      dsimp only
      rw [if_neg (by rw [htab, decide_eq_false hlt]; decide), if_neg hne]
    refine ⟨{ s with dev := s.dev.relsWrite c r }, onUnit_eq (decide_eq_true hc) _, ⟨rfl, rfl⟩, ?_⟩
    dsimp only
    rw [h]
    exact ⟨Dev.contextFault_mem .., Dev.contextFault_cores .., by simp, by simp⟩

/-- Settles O32: preparation, READY and RELS one after the other. -/
theorem microBatchesArePreparedAndReleased : Obligations.MicroBatchesArePreparedAndReleased := by
  unfold Obligations.MicroBatchesArePreparedAndReleased
  intro s c r mb hc
  exact ⟨microBatchIsPrepared s c hc, readyIsWritten s c r mb hc, relsReleasesOrFaults s c r hc⟩

end Sys2Proof.Machine
end

section
/-! SUPPORT. The accumulator slots of the supers: units' writes, channels and the ends of steps leave them (R250 to R252). -/

namespace Sys2Proof.Machine
open Sys2Proof Sys2Proof.Machine.Claims

/-- The accumulator slots of every super. -/
def Dev.slotsAt (d : Dev) (x : Nat) : Store (Option Slot) := (d.sup x).slots

theorem slotsAt_of_supers {d e : Dev} (h : e.supers = d.supers) : e.slotsAt = d.slotsAt := by
  funext x
  rw [Dev.slotsAt, Dev.sup, h]
  rfl

theorem slotsAt_of_sent {d e : Dev} (h : d.SameButSent e) : e.slotsAt = d.slotsAt := slotsAt_of_supers h.supers

theorem slotsAt_of_net {d e : Dev} (h : d.SameButNet e) : e.slotsAt = d.slotsAt := by
  obtain ⟨⟨tx, fab, chans, bb, fi, ctxs, rfl⟩, _⟩ := h
  rfl

@[simp] theorem foldl_slotsAt {α : Type} {f : Dev → α → Dev} (l : List α) (d : Dev) (h : ∀ d a, (f d a).slotsAt = d.slotsAt) :
    (l.foldl f d).slotsAt = d.slotsAt := foldl_keeps Dev.slotsAt h l d

section
variable (d : Dev)

theorem Dev.modSup_slotsAt (x : Nat) {f : Super → Super} (h : ∀ u, (f u).slots = u.slots) : (d.modSup x f).slotsAt = d.slotsAt := by
  funext y
  by_cases hy : y = x
  · rw [hy, Dev.slotsAt, Dev.modSup_sup_self, h, Dev.slotsAt]
  · rw [Dev.slotsAt, Dev.modSup_sup_ne _ _ hy, Dev.slotsAt]

@[simp] theorem Dev.event_slotsAt (code part ctx lcore : Nat) (detail : List Nat) : (d.event code part ctx lcore detail).slotsAt = d.slotsAt :=
  slotsAt_of_sent (d.event_same ..)

@[simp] theorem Dev.modPart_slotsAt (p : Nat) (f : Partition → Partition) : (d.modPart p f).slotsAt = d.slotsAt := rfl

@[simp] theorem Dev.contextFault_slotsAt (code part ctx lcore : Nat) (detail : List Nat) :
    (d.contextFault code part ctx lcore detail).slotsAt = d.slotsAt := (Dev.modPart_slotsAt ..).trans (d.event_slotsAt ..)

/-! ## Writes into the unified range -/

@[simp] theorem Dev.abort_slotsAt (n uid : Nat) (fi : FaultInfo) : (d.abort n uid fi).slotsAt = d.slotsAt := by
  unfold Dev.abort
  exact (Dev.contextFault_slotsAt ..).trans rfl

@[simp] theorem Dev.abortSaved_slotsAt (c n uid : Nat) (fi : FaultInfo) : (d.abortSaved c n uid fi).slotsAt = d.slotsAt := by
  unfold Dev.abortSaved
  exact (Dev.contextFault_slotsAt ..).trans rfl

@[simp] theorem Dev.staleCheck_slotsAt (p a n : Nat) : (d.staleCheck p a n).slotsAt = d.slotsAt := by
  unfold Dev.staleCheck
  refine (foldl_slotsAt _ _ fun e c => ?_).trans (foldl_slotsAt _ _ fun e x => ?_)
  · split
    · exact foldl_slotsAt _ _ fun e x => foldl_slotsAt _ _ fun e y => Dev.abortSaved_slotsAt ..
    · rfl
  · split
    · exact foldl_slotsAt _ _ fun e y => Dev.abort_slotsAt ..
    · rfl

@[simp] theorem Dev.combDrop_slotsAt (a n : Nat) : (d.combDrop a n).slotsAt = d.slotsAt := by
  unfold Dev.combDrop
  exact foldl_slotsAt _ _ fun _ _ => rfl

@[simp] theorem Dev.unitWrite_slotsAt (p a : Nat) (bs : List Byte) (poison : Bool) : (d.unitWrite p a bs poison).slotsAt = d.slotsAt := by
  unfold Dev.unitWrite
  exact (Dev.staleCheck_slotsAt ..).trans ((Dev.combDrop_slotsAt ..).trans rfl)

@[simp] theorem Dev.setStatus_slotsAt (t : List Byte) (i vn : Nat) (oldv : Bool) (adj0 adj1 : Int) (cstep : Nat) :
    (d.setStatus t i vn oldv adj0 adj1 cstep).slotsAt = d.slotsAt := Dev.unitWrite_slotsAt ..

@[simp] theorem Dev.writeCopies_slotsAt (c i s : Nat) (m : Nat → Nat) (poison : Bool) : (d.writeCopies c i s m poison).1.slotsAt = d.slotsAt := by
  unfold Dev.writeCopies
  dsimp only
  refine (foldl_slotsAt _ _ fun d r => ?_).trans (foldl_slotsAt _ _ fun d r => ?_)
  · exact d.unitWrite_slotsAt ..
  · exact d.unitWrite_slotsAt ..

@[simp] theorem Dev.wakeDev_slotsAt (dev : Nat) : (d.wakeDev dev).slotsAt = d.slotsAt := by
  unfold Dev.wakeDev
  split
  · split
    · rfl
    · exact d.modSup_slotsAt dev fun _ => rfl
  · repeat' split
    all_goals rfl

/-! ## Channels -/

@[simp] theorem Dev.setSend_slotsAt (p i : Nat) (x : SendChan) : (d.setSend p i x).slotsAt = d.slotsAt := rfl

@[simp] theorem Dev.modSend_slotsAt (p i : Nat) (f : SendChan → SendChan) : (d.modSend p i f).slotsAt = d.slotsAt := by
  unfold Dev.modSend
  split <;> rfl

@[simp] theorem Dev.transmit_slotsAt (p : Nat) (x : SendChan) (k : SentPkt) (rtx : Bool) : (d.transmit p x k rtx).slotsAt = d.slotsAt :=
  slotsAt_of_net (Dev.Carried.transmit d ..).net

@[simp] theorem Dev.askCredit_slotsAt (p i : Nat) : (d.askCredit p i).slotsAt = d.slotsAt := by
  unfold Dev.askCredit
  split
  · rfl
  split
  · rfl
  · exact (Dev.modSend_slotsAt ..).trans ((slotsAt_of_net (Dev.Carried.modNet ..).net).trans (slotsAt_of_net (Dev.Carried.emitPkt d ..).net))

@[simp] theorem Dev.pumpN_slotsAt (f p i : Nat) : (Dev.pumpN f d p i).slotsAt = d.slotsAt := by
  induction f generalizing d with
  | zero => rfl
  | succ f ih =>
    have hhead (d : Dev) (x : SendChan) (k : SentPkt) (rest : List SentPkt) (n : Nat) :
        (Dev.pumpN.sendHead d p i x k rest n).slotsAt = d.slotsAt := (Dev.transmit_slotsAt ..).trans rfl
    have hsec (d : Dev) (g : Security → Security) : (d.modSec g).slotsAt = d.slotsAt := rfl
    unfold Dev.pumpN
    dsimp only
    repeat' split
    all_goals simp [ih, hhead, hsec]

@[simp] theorem Dev.enqueue_slotsAt (p i : Nat) (k : SentPkt) : (d.enqueue p i k).slotsAt = d.slotsAt := by
  unfold Dev.enqueue Dev.pump
  split <;> simp

@[simp] theorem Dev.push_slotsAt (p c i v : Nat) (adj : Int) (adjOnly first : Bool) : (d.push p c i v adj adjOnly first).slotsAt = d.slotsAt := by
  have hfirst (d : Dev) (f : Partition → Partition) (b : Bool) : (if b then d.modPart p f else d).slotsAt = d.slotsAt := by
    split <;> rfl
  refine foldl_slotsAt _ _ fun d r => ?_
  split
  · rfl
  · dsimp only
    split
    · exact (Dev.enqueue_slotsAt ..).trans (hfirst ..)
    · exact (Dev.enqueue_slotsAt ..).trans ((Dev.enqueue_slotsAt ..).trans (hfirst ..))

/-! ## The end of a step (R263, R365) -/

/-- What the end of a step keeps of a partition's overflows. -/
theorem Dev.finishStep_keeps (p s : Nat) : (d.finishStep p s).slotsAt = d.slotsAt ∧
    ((d.finishStep p s).part p).ovfSteps = (d.part p).ovfSteps := by
  have hend (d : Dev) (r : Nat) : (d.endReplay p r s).slotsAt = d.slotsAt ∧ ((d.endReplay p r s).part p).ovfSteps = (d.part p).ovfSteps := by
    unfold Dev.endReplay
    split
    · exact ⟨rfl, rfl⟩
    · refine ⟨rfl, ?_⟩
      change ((d.modPart p (fun x => { x with replay := none })).part p).ovfSteps = _
      rw [Dev.modPart_part_self]
  have hpart (e : Dev) (code : Nat) (l : List Nat) : ((e.event code p 0 0x1FF l).part p).ovfSteps = (e.part p).ovfSteps :=
    congrArg Partition.ovfSteps (e.event_part ..)
  unfold Dev.finishStep
  extract_lets x sent ovfl own complete fp bad n e
  have he : e.slotsAt = d.slotsAt ∧ (e.part p).ovfSteps = (d.part p).ovfSteps := by
    refine ⟨rfl, ?_⟩
    rw [Dev.modPart_part_self]
  clear_value e
  split
  · exact ⟨rfl, rfl⟩
  · split
    · exact ⟨(hend _ _).1.trans (d.event_slotsAt ..), (hend _ _).2.trans (hpart ..)⟩
    · refine ⟨(Dev.event_slotsAt ..).trans ?_, (hpart ..).trans ?_⟩
      · exact he.1
      · exact he.2

/-- A step that fires no further update is among those that have overflowed (R255). -/
theorem Dev.stopStep_ovfSteps (p s : Nat) : (((d.stopStep p s).part p).ovfSteps).contains s = true := by
  have hpart {e d : Dev} (h : e.parts = d.parts) : e.part p = d.part p := by rw [Dev.part, h, Dev.part]
  unfold Dev.stopStep
  extract_lets e
  have he : ((e.part p).ovfSteps).contains s = true := by
    rw [Dev.modPart_part_self]
    dsimp only
    split
    · assumption
    · simp
  clear_value e
  rw [hpart (foldl_keeps Dev.parts (fun d x => foldl_keeps Dev.parts (fun d k => ?_) _ d) _ e)]
  · exact he
  · split
    · split <;> rfl
    · rfl

end

end Sys2Proof.Machine
end

section
/-! PROOF. O34: the fused update writes the next version or waits, and global norms join once (R256, R258, R263, R265). -/

namespace Sys2Proof.Machine
open Sys2Proof Sys2Proof.Machine.Claims

/-! ## The update (R256 to R265) -/

/-- A version's status record is written, its fingerprint folded in, and the version pushed. -/
def Dev.closeUpdate (t : List Byte) (x p c i s : Nat) (adj a0 a1 : Int) (cs : Nat) (fl cv : BitVec 12) (e : Dev) : Dev :=
  let d := e.setStatus t i s true a0 a1 cs
  let fp := d.fingerprint c i s
  let d := d.modPart p (fun q => { q with fpSum := Store.modify 0 q.fpSum s (fun h => (h + fp) % 2 ^ 64) })
  let d := d.modSup x (fun u => ({ u with flags := u.flags ||| fl ||| cv } : Super).count 2 1)
  (d.push p c i s adj false false).finishStep p s

section
variable (t : List Byte) (x p c i s : Nat) (adj a0 a1 : Int) (cs : Nat) (fl cv : BitVec 12) (e : Dev)

theorem Dev.closeUpdate_mem : (Dev.closeUpdate t x p c i s adj a0 a1 cs fl cv e).mem = (e.setStatus t i s true a0 a1 cs).mem := by
  unfold Dev.closeUpdate
  dsimp only
  rw [Dev.finishStep_mem, Dev.push_mem, Dev.modSup_mem, Dev.modPart_mem]

theorem Dev.closeUpdate_slotsAt : (Dev.closeUpdate t x p c i s adj a0 a1 cs fl cv e).slotsAt = e.slotsAt := by
  unfold Dev.closeUpdate
  dsimp only
  refine (Dev.finishStep_keeps ..).1.trans ((Dev.push_slotsAt ..).trans ((Dev.modSup_slotsAt _ x fun u => ?_).trans ?_))
  · rfl
  · exact (Dev.modPart_slotsAt ..).trans (e.setStatus_slotsAt ..)

/-- A piece of what a unit has written is read back. -/
theorem Dev.unitWrite_memRead_at (a : Nat) (bs : List Byte) (poison : Bool) {k n : Nat} (h : k + n ≤ bs.length) :
    (e.unitWrite p a bs poison).memRead (a + k) n = (bs.drop k).take n :=
  (Dev.memRead_of_mem ((e.unitWrite_mem_memPut ..).trans (e.uniWrite_mem_memPut p 0 ..).symm) ..).trans (e.uniWrite_memRead p 0 a bs poison h)

/-- OLDV of a status word (Table 10-2). -/
theorem bit_oldv {v : Nat} (h : v < 2 ^ 31) : bit ((2 ^ 31 + v) % 2 ^ 32) 31 = true :=
  decide_eq_true (by omega)

/-- The second word of a status record, the ADJ of both buffers below OLDV. -/
theorem adj_lt (a0 a1 : Int) : unsigned 8 a1 * 256 + unsigned 8 a0 < 2 ^ 31 := by
  have hbyte (a : Int) : unsigned 8 a < 256 := by
    unfold unsigned
    omega
  have h0 := hbyte a0
  have h1 := hbyte a1
  omega

/-- The first two words of four (R11). -/
theorem words_of_four (a b c d : Nat) : ((toLe 4 a ++ toLe 4 b ++ toLe 4 c ++ toLe 4 d).drop 0).take 4 = toLe 4 a ∧
    ((toLe 4 a ++ toLe 4 b ++ toLe 4 c ++ toLe 4 d).drop 4).take 4 = toLe 4 b := by
  rw [List.append_assoc, List.append_assoc]
  constructor
  · rw [List.drop_zero, List.take_left' (toLe_length 4 a)]
  · rw [List.drop_left' (toLe_length 4 a), List.take_left' (toLe_length 4 b)]

/-- The first two words of a record of four, as a unit has written it. -/
theorem Dev.unitWrite_words (a b c d : Nat) (adr : Nat) :
    leNat ((e.unitWrite p adr (toLe 4 a ++ toLe 4 b ++ toLe 4 c ++ toLe 4 d) false).memRead (adr + 4 * 0) 4) = a % 2 ^ 32 ∧
    leNat ((e.unitWrite p adr (toLe 4 a ++ toLe 4 b ++ toLe 4 c ++ toLe 4 d) false).memRead (adr + 4 * 1) 4) = b % 2 ^ 32 := by
  obtain ⟨h0, h1⟩ := words_of_four a b c d
  have hlen : (toLe 4 a ++ toLe 4 b ++ toLe 4 c ++ toLe 4 d).length = 16 := by simp
  constructor
  · rw [e.unitWrite_memRead_at p adr _ false (by rw [hlen]; decide), h0]
    exact leNat_toLe 4 a
  · rw [e.unitWrite_memRead_at p adr _ false (by rw [hlen]; decide), h1]
    exact leNat_toLe 4 b

/-- VN and OLDV of a status record (Table 10-2). -/
theorem Dev.setStatus_words : (e.setStatus t i s true a0 a1 cs).slVn t i = s % 2 ^ 32 ∧ (e.setStatus t i s true a0 a1 cs).slOldv t i = true := by
  have htrue : b2n true * 2 ^ 31 = 2 ^ 31 := Nat.one_mul _
  obtain ⟨h0, h1⟩ := e.unitWrite_words (e.tm (e.stAddr t i / pageBytes)).part s (2 ^ 31 + (unsigned 8 a1 * 256 + unsigned 8 a0)) cs 0
    (e.stAddr t i)
  unfold Dev.slVn Dev.slOldv Dev.stWord Dev.setStatus Dev.statWrite
  rw [htrue, Nat.add_assoc (2 ^ 31)]
  exact ⟨h0, (congrArg (bit · 31) h1).trans (bit_oldv (adj_lt a0 a1))⟩

/-- The update is the writes of the new version, and then its status. -/
theorem Dev.applyUpdate_eq (d : Dev) (sums : Nat → Int) (peak : Nat) (poison : Bool) (cf : Option Nat) : ∃ e adj a0 a1 cs fl cv,
    e.slotsAt = d.slotsAt ∧
    d.applyUpdate x p c i s sums peak poison cf = Dev.closeUpdate (d.sliceTab c) x p c i s adj a0 a1 cs fl cv e := by
  unfold Dev.applyUpdate Dev.closeUpdate
  dsimp only
  refine ⟨_, _, _, _, _, _, _, ?_, rfl⟩
  exact (Dev.writeCopies_slotsAt ..).trans ((Dev.unitWrite_slotsAt ..).trans (d.wakeDev_slotsAt x))

end

/-- A status record of the same memory reads the same. -/
theorem Dev.slOldv_congr {d e : Dev} (h : e.mem = d.mem) (t : List Byte) (i : Nat) : e.slOldv t i = d.slOldv t i :=
  congrArg (fun l => bit (leNat l) 31) (Dev.memRead_of_mem h (d.stAddr t i + 4 * 1) 4)

/-- An update leaves VN and OLDV in the slice's status record, and the slots as they are. -/
theorem Dev.applyUpdate_leaves (d : Dev) (x p c i s : Nat) (sums : Nat → Int) (peak : Nat) (poison : Bool) (cf : Option Nat) :
    (d.applyUpdate x p c i s sums peak poison cf).slotsAt = d.slotsAt ∧
    (d.applyUpdate x p c i s sums peak poison cf).slVn (d.sliceTab c) i = s % 2 ^ 32 ∧
    (d.applyUpdate x p c i s sums peak poison cf).slOldv (d.sliceTab c) i = true := by
  obtain ⟨e, adj, a0, a1, cs, fl, cv, hslots, heq⟩ := d.applyUpdate_eq x p c i s sums peak poison cf
  rw [heq]
  have hmem := Dev.closeUpdate_mem (d.sliceTab c) x p c i s adj a0 a1 cs fl cv e
  obtain ⟨hvn, holdv⟩ := Dev.setStatus_words (d.sliceTab c) i s a0 a1 cs e
  exact ⟨(Dev.closeUpdate_slotsAt ..).trans hslots, (Dev.slVn_congr hmem ..).trans hvn, (Dev.slOldv_congr hmem ..).trans holdv⟩

theorem Dev.freeSlot_slot (d : Dev) (x k : Nat) : Store.get none ((d.freeSlot x k).slotsAt x) k = none := by
  rw [Dev.slotsAt, Dev.freeSlot, Dev.modSup_sup_self]
  dsimp only
  split
  · split <;> exact Store.get_set_self none (d.sup x).slots k none
  · exact Store.get_set_self none (d.sup x).slots k none

/-- A unit that waits counts it, and nothing else (R218, R262). -/
theorem Dev.uwait_leaves (d : Dev) (x : Nat) : (d.uwait x).mem = d.mem ∧ (d.uwait x).parts = d.parts ∧
    ((d.uwait x).sup x).slots = (d.sup x).slots ∧ ((d.uwait x).sup x).queue = (d.sup x).queue := by
  have hsup : (d.uwait x).sup x = (d.sup x).count 7 (Config.freeCycles d.freeIx) := Dev.modSup_sup_self ..
  rw [hsup]
  exact ⟨rfl, rfl, rfl, rfl⟩

/-- A version whose predecessor is not capped may not be written (R265). -/
theorem Dev.mayWrite_uncapped {d : Dev} {p : Nat} (c i : Nat) {s : Nat} (h : (d.part p).capped < s - 1) (hs : s < 2 ^ 32) :
    d.mayWrite p c i s = false := by
  have hstep : (s + 2 ^ 32 - 1) % 2 ^ 32 = s - 1 := by omega
  have hne : (s - 1 == (d.part p).capped) = false := beq_eq_false_iff_ne.mpr (by omega)
  have hbefore : verBefore (d.part p).capped (s - 1) = true := decide_eq_true (by omega)
  rw [Dev.mayWrite, hstep, Dev.cappedTo, Partition.cappedTo, hne, hbefore]
  rfl

section
variable {d : Dev} {x i k : Nat} {sl : Slot} (hst : (d.sup x).stage < 2)
  (hq : (d.sup x).queue.findSome? (fun k => match (d.sup x).slot k with
      | some sl => if sl.lidx = i then some (k, sl) else none
      | none => none) = some (k, sl))
include hst hq

/-- The queued slot of a slice is the one that its update takes. -/
theorem Dev.fusedUpdate_eq : d.fusedUpdate x i =
    if d.mayWrite sl.part sl.ctx i sl.step && !(d.movingBack sl.ctx i) then
      if (d.sup x).slotBad k then d.contextFault 0x0704 sl.part sl.ctx 0x1FF []
      else (d.freeSlot x k).applyUpdate x sl.part sl.ctx i sl.step (Store.get 0 sl.sum) sl.peak false none
    else d.uwait x := by
  unfold Dev.fusedUpdate
  rw [if_neg (Nat.not_le.mpr hst)]
  split
  · next h =>
    obtain ⟨rfl, rfl⟩ := Prod.mk.inj (Option.some.inj (hq.symm.trans h))
    rfl
  · next h => exact absurd (hq.symm.trans h) (by simp)

end

theorem updatesWriteTheNextVersionOrWait : UpdatesWriteTheNextVersionOrWait := by
  intro s x i k sl hx hst hq
  have heq := Dev.fusedUpdate_eq hst hq
  have hexec : exec (.fusedUpdate x i) s = .next { s with dev := s.dev.fusedUpdate x i } := onUnit_eq (decide_eq_true hx) _
  refine ⟨fun hmay hback => ⟨fun hgood => ?_, fun hbad => ?_⟩, fun hwait => ?_, fun h hs => Dev.mayWrite_uncapped _ _ h hs⟩
  · rw [hmay, hback, hgood] at heq
    obtain ⟨hslots, hvn, holdv⟩ := (s.dev.freeSlot x k).applyUpdate_leaves x sl.part sl.ctx i sl.step (Store.get 0 sl.sum) sl.peak false none
    have htab : (s.dev.freeSlot x k).sliceTab sl.ctx = s.dev.sliceTab sl.ctx := rfl
    rw [htab] at hvn holdv
    have hd : s.dev.fusedUpdate x i =
      (s.dev.freeSlot x k).applyUpdate x sl.part sl.ctx i sl.step (Store.get 0 sl.sum) sl.peak false none := heq
    rw [← hd] at hslots hvn holdv
    refine ⟨{ s with dev := s.dev.fusedUpdate x i }, hexec, ⟨rfl, rfl⟩, hd, ?_, hvn, holdv⟩
    exact (congrArg (fun f => Store.get none (f x) k) hslots).trans (Dev.freeSlot_slot ..)
  · rw [hmay, hback, hbad] at heq
    have hd : s.dev.fusedUpdate x i = s.dev.contextFault 0x0704 sl.part sl.ctx 0x1FF [] := heq
    refine ⟨{ s with dev := s.dev.fusedUpdate x i }, hexec, ⟨rfl, rfl⟩, ?_, ?_⟩
    · rw [hd]
      exact Dev.contextFault_mem ..
    · rw [hd, Dev.contextFault_part_self]
  · have hno : (s.dev.mayWrite sl.part sl.ctx i sl.step && !(s.dev.movingBack sl.ctx i)) = false := by
      rcases hwait with h | h
      · rw [h]
        rfl
      · rw [h, Bool.not_true, Bool.and_false]
    rw [hno] at heq
    have hd : s.dev.fusedUpdate x i = s.dev.uwait x := heq
    refine ⟨{ s with dev := s.dev.fusedUpdate x i }, hexec, ⟨rfl, rfl⟩, ?_⟩
    rw [hd]
    exact s.dev.uwait_leaves x

/-! ## Global norms (R258) -/

section
variable (d : Dev) (p g rank s : Nat) (v : Int)

/-- The partial of a rank joins the total. -/
def Dev.normAdded : Dev := d.modPart p (fun x => { x with
  normTotal := Store.set 0 x.normTotal (normKey g s) (Store.get 0 (d.part p).normTotal (normKey g s) + v),
  normRanks := Store.set [] x.normRanks (normKey g s) (Store.get [] (d.part p).normRanks (normKey g s) ++ [rank]) })

/-- The factor is fixed and sent. -/
def Dev.normFixed (cf : Word32) : Dev := (d.modPart p (fun x => { x with normCf := Store.set none x.normCf (normKey g s) (some cf) })).send
  (.factor p g s cf (d.partStamp p).step (d.partStamp p).phase)

/-- What NORK does with a partial of its group. -/
theorem Dev.normArrive_eq {t : List Byte} (ht : d.normTable p g = some t) (hnork : grpNork t g = (d.part p).rank)
    (hcf : Store.get none (d.part p).normCf (normKey g s) = none) : ∃ cf, d.normArrive p g rank s v =
      if (Store.get [] (d.part p).normRanks (normKey g s)).contains rank then d
      else if int64Bound ≤ (Store.get 0 (d.part p).normTotal (normKey g s) + v).natAbs then
        (if int64Bound ≤ (Store.get 0 (d.part p).normTotal (normKey g s)).natAbs then d.normAdded p g rank s v
        else (d.normAdded p g rank s v).normOverflow p g s)
      else if (Store.get [] (d.part p).normRanks (normKey g s)).length + 1 < grpNmod t g then d.normAdded p g rank s v
      else (d.normAdded p g rank s v).normFixed p g s cf := by
  unfold Dev.normArrive
  rw [ht]
  dsimp only
  rw [hnork, hcf, bne_self_eq_false, Option.isSome_none, Bool.or_false, Bool.false_or]
  exact ⟨_, rfl⟩

theorem Dev.normAdded_part : (d.normAdded p g rank s v).part p = { d.part p with
    normTotal := Store.set 0 (d.part p).normTotal (normKey g s) (Store.get 0 (d.part p).normTotal (normKey g s) + v),
    normRanks := Store.set [] (d.part p).normRanks (normKey g s) (Store.get [] (d.part p).normRanks (normKey g s) ++ [rank]) } :=
  Dev.modPart_part_self ..

end

end Sys2Proof.Machine
end

section
/-! PROOF. O34: global norms join once, and their factors are kept (R258). -/

namespace Sys2Proof.Machine
open Sys2Proof Sys2Proof.Machine.Claims

section
variable (d : Dev) (p g rank s : Nat) (v : Int)

/-- The partial leaves stamps, cores, packets and factors as they are. -/
theorem Dev.normAdded_keeps : (d.normAdded p g rank s v).mem = d.mem ∧ (d.normAdded p g rank s v).cores = d.cores ∧
    (d.normAdded p g rank s v).tx = d.tx ∧ ((d.normAdded p g rank s v).part p).normCf = (d.part p).normCf ∧
    Store.get 0 ((d.normAdded p g rank s v).part p).normTotal (normKey g s) = Store.get 0 (d.part p).normTotal (normKey g s) + v ∧
    Store.get [] ((d.normAdded p g rank s v).part p).normRanks (normKey g s) = Store.get [] (d.part p).normRanks (normKey g s) ++ [rank] := by
  rw [Dev.normAdded_part]
  exact ⟨rfl, rfl, rfl, rfl, Store.get_set_self .., Store.get_set_self ..⟩

theorem Dev.normAdded_partStamp : (d.normAdded p g rank s v).partStamp p = d.partStamp p := by
  have hres : ((d.normAdded p g rank s v).part p).resident = (d.part p).resident := by rw [Dev.normAdded_part]
  rw [Dev.partStamp, hres, Dev.partStamp]
  rfl

/-- The factor fixed is kept and sent; the totals stay. -/
theorem Dev.normFixed_leaves (cf : Word32) : (d.normFixed p g s cf).mem = d.mem ∧ (d.normFixed p g s cf).cores = d.cores ∧
    (d.normFixed p g s cf).tx = d.tx ++ [.factor p g s cf (d.partStamp p).step (d.partStamp p).phase] ∧
    ((d.normFixed p g s cf).part p).normTotal = (d.part p).normTotal ∧ ((d.normFixed p g s cf).part p).normRanks = (d.part p).normRanks ∧
    Store.get none ((d.normFixed p g s cf).part p).normCf (normKey g s) = some cf := by
  have hpart : (d.normFixed p g s cf).part p = (d.modPart p (fun x => { x with normCf := Store.set none x.normCf (normKey g s) (some cf) })).part p :=
    rfl
  rw [hpart, Dev.modPart_part_self]
  exact ⟨rfl, rfl, rfl, rfl, rfl, Store.get_set_self none (d.part p).normCf (normKey g s) (some cf)⟩

end

/-- A step whose norm overflows is among the overflowed ones. -/
theorem Dev.normOverflow_ovfSteps (d : Dev) (p g s : Nat) : (((d.normOverflow p g s).part p).ovfSteps).contains s = true := by
  unfold Dev.normOverflow
  rw [(Dev.finishStep_keeps _ p s).2]
  exact Dev.stopStep_ovfSteps _ p s

section
variable {s : State} {p g rank step : Nat} {v : Int} {tab : List Byte} (hp : p < nParts) (ht : s.dev.normTable p g = some tab)
  (hnork : grpNork tab g = (s.dev.part p).rank) (hcf : Store.get none (s.dev.part p).normCf (normKey g step) = none)
include hp ht hnork hcf

/-- A rank's partial joins the total, and the last one fixes and sends the factor. -/
theorem normPartialJoins (hseen : (Store.get [] (s.dev.part p).normRanks (normKey g step)).contains rank = false)
    (hfit : (Store.get 0 (s.dev.part p).normTotal (normKey g step) + v).natAbs < int64Bound) :
    let ranks := Store.get [] (s.dev.part p).normRanks (normKey g step)
    let old := Store.get 0 (s.dev.part p).normTotal (normKey g step)
    ∃ t, exec (.normPartialArrival p g rank step v) s = .next t ∧ SameOutside s t ∧ t.dev.mem = s.dev.mem ∧ t.dev.cores = s.dev.cores ∧
          Store.get 0 (t.dev.part p).normTotal (normKey g step) = old + v ∧
          Store.get [] (t.dev.part p).normRanks (normKey g step) = ranks ++ [rank] ∧
          (ranks.length + 1 < grpNmod tab g → Store.get none (t.dev.part p).normCf (normKey g step) = none) ∧
          (grpNmod tab g ≤ ranks.length + 1 → ∃ f, Store.get none (t.dev.part p).normCf (normKey g step) = some f ∧
            t.dev.tx = s.dev.tx ++ [.factor p g step f (s.dev.partStamp p).step (s.dev.partStamp p).phase]) := by
  intro ranks old
  obtain ⟨cf, heq⟩ := s.dev.normArrive_eq p g rank step v ht hnork hcf
  rw [if_neg (by rw [hseen]; decide), if_neg (not_le.mpr hfit)] at heq
  obtain ⟨hmem, hcores, htx, hcfs, htotal, hranks⟩ := s.dev.normAdded_keeps p g rank step v
  have hstamp := s.dev.normAdded_partStamp p g rank step v
  generalize s.dev.normAdded p g rank step v = e at heq hmem hcores htx hcfs htotal hranks hstamp
  have hexec : exec (.normPartialArrival p g rank step v) s = .next { s with dev := s.dev.normArrive p g rank step v } :=
    onUnit_eq (decide_eq_true hp) _
  refine ⟨{ s with dev := s.dev.normArrive p g rank step v }, hexec, ⟨rfl, rfl⟩, ?_⟩
  dsimp only
  by_cases hlast : ranks.length + 1 < grpNmod tab g
  · rw [heq, if_pos hlast]
    refine ⟨hmem, hcores, htotal, hranks, fun _ => ?_, fun h => absurd hlast (not_lt.mpr h)⟩
    rw [hcfs]
    exact hcf
  · obtain ⟨hmem', hcores', htx', htotal', hranks', hcf'⟩ := e.normFixed_leaves p g step cf
    rw [heq, if_neg hlast, htotal', hranks', htx']
    refine ⟨hmem'.trans hmem, hcores'.trans hcores, htotal, hranks, fun h => absurd h hlast, fun _ => ⟨cf, hcf', ?_⟩⟩
    rw [htx, hstamp]

/-- A total that leaves the range overflows its step. -/
theorem normPartialOverflows (hseen : (Store.get [] (s.dev.part p).normRanks (normKey g step)).contains rank = false)
    (hold : (Store.get 0 (s.dev.part p).normTotal (normKey g step)).natAbs < int64Bound)
    (hbig : int64Bound ≤ (Store.get 0 (s.dev.part p).normTotal (normKey g step) + v).natAbs) :
    ∃ t, exec (.normPartialArrival p g rank step v) s = .next t ∧ SameOutside s t ∧ t.dev.mem = s.dev.mem ∧
      (t.dev.part p).ovfSteps.contains step = true := by
  obtain ⟨cf, heq⟩ := s.dev.normArrive_eq p g rank step v ht hnork hcf
  rw [if_neg (by rw [hseen]; decide), if_pos hbig, if_neg (not_le.mpr hold)] at heq
  have hmem := (s.dev.normAdded_keeps p g rank step v).1
  generalize s.dev.normAdded p g rank step v = e at heq hmem
  have hexec : exec (.normPartialArrival p g rank step v) s = .next { s with dev := s.dev.normArrive p g rank step v } :=
    onUnit_eq (decide_eq_true hp) _
  refine ⟨{ s with dev := s.dev.normArrive p g rank step v }, hexec, ⟨rfl, rfl⟩, ?_⟩
  dsimp only
  rw [heq]
  exact ⟨(Dev.normOverflow_mem ..).trans hmem, e.normOverflow_ovfSteps p g step⟩

/-- A rank counts once. -/
theorem normPartialOnce (hseen : (Store.get [] (s.dev.part p).normRanks (normKey g step)).contains rank = true) :
    exec (.normPartialArrival p g rank step v) s = .next s := by
  obtain ⟨cf, heq⟩ := s.dev.normArrive_eq p g rank step v ht hnork hcf
  rw [if_pos hseen] at heq
  have hexec : exec (.normPartialArrival p g rank step v) s = .next { s with dev := s.dev.normArrive p g rank step v } :=
    onUnit_eq (decide_eq_true hp) _
  rw [hexec, heq]

end

/-- A factor is kept for its group and step. -/
theorem normFactorIsKept (s : State) {p : Nat} (hp : p < nParts) (g step : Nat) (cf : Word32) :
    ∃ t, exec (.normFactorArrival p g step cf) s = .next t ∧ SameOutside s t ∧ t.dev.mem = s.dev.mem ∧ t.dev.cores = s.dev.cores ∧
      Store.get none (t.dev.part p).normCf (normKey g step) = some cf ∧
      ∀ k, k ≠ normKey g step → Store.get none (t.dev.part p).normCf k = Store.get none (s.dev.part p).normCf k := by
  have hpart : (s.dev.modPart p (fun x => { x with normCf := Store.set none x.normCf (normKey g step) (some cf) })).part p =
      { s.dev.part p with normCf := Store.set none (s.dev.part p).normCf (normKey g step) (some cf) } := Dev.modPart_part_self ..
  refine ⟨_, onUnit_eq (decide_eq_true hp) _, ⟨rfl, rfl⟩, rfl, rfl, ?_⟩
  dsimp only
  rw [hpart]
  exact ⟨Store.get_set_self none (s.dev.part p).normCf (normKey g step) (some cf), fun k hk => Store.get_set_ne none (s.dev.part p).normCf (some cf) hk⟩

theorem globalNormPartialsAndFactorsAreKept : GlobalNormPartialsAndFactorsAreKept := by
  intro s p g rank step v cf tab hp
  refine ⟨fun ht hnork hcf => ?_, normFactorIsKept s hp g step cf⟩
  exact ⟨normPartialJoins hp ht hnork hcf, normPartialOverflows hp ht hnork hcf, normPartialOnce hp ht hnork hcf⟩

/-- Settles O34: the update of a queued slot, and the arrivals of partials and factors. -/
theorem updatesAndGlobalNorms : Obligations.UpdatesAndGlobalNorms := by
  unfold Obligations.UpdatesAndGlobalNorms
  exact ⟨updatesWriteTheNextVersionOrWait, globalNormPartialsAndFactorsAreKept⟩

end Sys2Proof.Machine
end
